-- ==== Sys2Proof/Word.lean ====
section
/-! DEFINITION. The word types of the Ixhipra 9 and the finite map in which indexed state is held. -/

namespace Sys2Proof

/-- A byte of memory (R7). -/
abbrev Byte := BitVec 8
/-- A g register (R16). -/
abbrev W64 := BitVec 64
/-- An FP32 or 32-bit value. -/
abbrev W32 := BitVec 32
/-- A vector tile: 4,096 bytes, byte 0 in bits [7:0] (R18). -/
abbrev TileBits := BitVec 32768
/-- A mask tile: 16,384 bits (R17). -/
abbrev MaskBits := BitVec 16384
/-- An accumulator row: 512 FP32 values, column 0 in bits [31:0] (R26). -/
abbrev RowBits := BitVec 16384
/-- A queue entry of 1 KiB (R25). -/
abbrev EntryBits := BitVec 8192
/-- A 64-byte block (R64). -/
abbrev BlockBits := BitVec 512

/-- A finite map from numbers to values: plain data, a list of pairs. What an unlisted key reads as is given at
each read. -/
abbrev Fm (α : Type) := List (Nat × α)

/-- The value at key `i`, or `d` where `i` is not listed. -/
def Fm.get {α : Type} (d : α) : Fm α → Nat → α
  | [], _ => d
  | (k, v) :: r, i => if k = i then v else Fm.get d r i

/-- The map with `x` at key `i`; keys stay in rising order when they were. -/
def Fm.set {α : Type} : Fm α → Nat → α → Fm α
  | [], i, x => [(i, x)]
  | (k, v) :: r, i, x =>
    if i < k then (i, x) :: (k, v) :: r
    else if i = k then (i, x) :: r
    else (k, v) :: Fm.set r i x

/-- The map without key `i`. -/
def Fm.del {α : Type} (m : Fm α) (i : Nat) : Fm α := m.filter (fun p => p.1 != i)

/-- The value at key `i` replaced by its image under `f`. -/
def Fm.upd {α : Type} (d : α) (m : Fm α) (i : Nat) (f : α → α) : Fm α := Fm.set m i (f (Fm.get d m i))

end Sys2Proof
end

