-- ==== Sys2Proof/Syntax.lean ====
section
/-! DEFINITION. The instructions of the Ixhipra 9: one constructor per row of spec/opcode_table.json (R96 and the
event rows). The constructors of words carry the operand fields of R88; the delay field D and the engine E belong to the
word (`Decoded`, in Decode.lean) and only NOP and WAIT, which exist in every engine, carry E. The rows without an
encoding are the events of the machine's agents: their subject stands in the state (`State.arg`). -/

namespace Sys2Proof

/-- The rows of the table of operations and events. -/
inductive Instr where
  /-- NOP (R115) Issues in any column with no effect and occupies no datapath. -/
  | nop (e : BitVec 3)
  /-- WAIT (R115) Adds imm14 cycles to its column's delay chain. -/
  | wait (e : BitVec 3) (i : BitVec 14)
  /-- BR (R117) Unconditional branch to PC plus the sign-extended 20-bit offset. -/
  | br (i : BitVec 20)
  /-- BRP (R117) Branches when the selected, optionally inverted, predicate holds. -/
  | brp (sel : BitVec 5) (i : BitVec 14)
  /-- CALL (R117) Writes the return word index to g63 and branches to the target. -/
  | call (i : BitVec 20)
  /-- RET (R117) Sets PC from g[15:0] of the named register. -/
  | ret (g : BitVec 6)
  /-- LOOP (R118) Pushes a loop level whose count is read from a g register at issue. -/
  | loop (g : BitVec 6) (len : BitVec 16)
  /-- LOOPI (R118) Pushes a loop level with an immediate count. -/
  | loopi (cnt : BitVec 20) (len : BitVec 16)
  /-- LBRK (R121) Pops the innermost loop level and branches when the condition holds. -/
  | lbrk (sel : BitVec 6) (i : BitVec 14)
  /-- YIELD (R123) Joins, clears revoked handles, arms the deadline and gives the slot away or stops when SLEND or STOPP is set. -/
  | yield (i : BitVec 14) (live : BitVec 29)
  /-- WAITB (R125) Joins and holds until partition time G, returning the sequencer to timed mode. -/
  | waitb (g : BitVec 6)
  /-- LAUNCH (R127) Reserves a pool entry and sends a launch descriptor to the die's scheduler, writing the result predicate at +48. -/
  | launch (p : BitVec 4) (h : BitVec 4) (g : BitVec 6)
  /-- TRAP (R129) Raises the non-fatal TRAP event carrying imm14. -/
  | trap (i : BitVec 14)
  /-- BKPT (R132) Freezes the partition when debug is enabled, otherwise acts as NOP. -/
  | bkpt (i : BitVec 14)
  /-- SMODE (R133) Sets SMODE.TRAP of its own sequencer from the next cycle on. -/
  | smode (t : BitVec 1)
  /-- RDSR (R134) Reads a system register into a g register at +2. -/
  | rdsr (g : BitVec 6) (s : BitVec 14)
  /-- WRSR (R134) Writes a system register from a g register, applying each field's access code; covers registers without a row of their own. -/
  | wrsr (g : BitVec 6) (s : BitVec 14)
  /-- ADD (R136) Integer addition of two g registers. -/
  | add (a : BitVec 6) (b : BitVec 6) (c : BitVec 6)
  /-- SUB (R136) Integer subtraction of two g registers. -/
  | sub (a : BitVec 6) (b : BitVec 6) (c : BitVec 6)
  /-- ADDI (R136) Adds a sign-extended 8-bit immediate. -/
  | addi (a : BitVec 6) (b : BitVec 6) (i : BitVec 8)
  /-- MUL (R136) Low 64 bits of a product. -/
  | mul (a : BitVec 6) (b : BitVec 6) (c : BitVec 6)
  /-- MULHS (R136) High 64 bits of a signed product. -/
  | mulhs (a : BitVec 6) (b : BitVec 6) (c : BitVec 6)
  /-- MULHZ (R136) High 64 bits of an unsigned product. -/
  | mulhz (a : BitVec 6) (b : BitVec 6) (c : BitVec 6)
  /-- DIVS (R137) Signed division truncating toward zero, never faulting. -/
  | divs (a : BitVec 6) (b : BitVec 6) (c : BitVec 6)
  /-- DIVZ (R137) Unsigned division, never faulting. -/
  | divz (a : BitVec 6) (b : BitVec 6) (c : BitVec 6)
  /-- REMS (R137) Signed remainder with the sign of the dividend. -/
  | rems (a : BitVec 6) (b : BitVec 6) (c : BitVec 6)
  /-- REMZ (R137) Unsigned remainder. -/
  | remz (a : BitVec 6) (b : BitVec 6) (c : BitVec 6)
  /-- AND (R136) Bitwise AND. -/
  | and (a : BitVec 6) (b : BitVec 6) (c : BitVec 6)
  /-- OR (R136) Bitwise OR. -/
  | or (a : BitVec 6) (b : BitVec 6) (c : BitVec 6)
  /-- XOR (R136) Bitwise XOR. -/
  | xor (a : BitVec 6) (b : BitVec 6) (c : BitVec 6)
  /-- ANDN (R136) Bitwise AND with the complement of the second source. -/
  | andn (a : BitVec 6) (b : BitVec 6) (c : BitVec 6)
  /-- SHL (R136) Shift left by a register count. -/
  | shl (a : BitVec 6) (b : BitVec 6) (c : BitVec 6)
  /-- SHR (R136) Logical shift right by a register count. -/
  | shr (a : BitVec 6) (b : BitVec 6) (c : BitVec 6)
  /-- SAR (R136) Arithmetic shift right by a register count. -/
  | sar (a : BitVec 6) (b : BitVec 6) (c : BitVec 6)
  /-- ROR (R136) Rotate right by a register count. -/
  | ror (a : BitVec 6) (b : BitVec 6) (c : BitVec 6)
  /-- SHLI (R136) Shift left by an immediate count. -/
  | shli (a : BitVec 6) (b : BitVec 6) (i : BitVec 6)
  /-- SHRI (R136) Logical shift right by an immediate count. -/
  | shri (a : BitVec 6) (b : BitVec 6) (i : BitVec 6)
  /-- SARI (R136) Arithmetic shift right by an immediate count. -/
  | sari (a : BitVec 6) (b : BitVec 6) (i : BitVec 6)
  /-- MINS (R136) Signed minimum. -/
  | mins (a : BitVec 6) (b : BitVec 6) (c : BitVec 6)
  /-- MAXS (R136) Signed maximum. -/
  | maxs (a : BitVec 6) (b : BitVec 6) (c : BitVec 6)
  /-- MINZ (R136) Unsigned minimum. -/
  | minz (a : BitVec 6) (b : BitVec 6) (c : BitVec 6)
  /-- MAXZ (R136) Unsigned maximum. -/
  | maxz (a : BitVec 6) (b : BitVec 6) (c : BitVec 6)
  /-- CLZ (R136) Counts leading zeros. -/
  | clz (a : BitVec 6) (b : BitVec 6)
  /-- POPC (R136) Counts one bits. -/
  | popc (a : BitVec 6) (b : BitVec 6)
  /-- MOVI (R138) Loads a sign-extended 14-bit constant. -/
  | movi (a : BitVec 6) (i : BitVec 14)
  /-- MOVX (R138) Loads a sign-extended 43-bit constant from imm14 and a literal. -/
  | movx (g : BitVec 6) (hi : BitVec 14) (lo : BitVec 29)
  /-- MOVHX (R138) Sets the high 32 bits of a register from imm14 and a literal. -/
  | movhx (g : BitVec 6) (hi : BitVec 3) (lo : BitVec 29)
  /-- CMPEQ (R139) Sets a predicate to register equality. -/
  | cmpeq (p : BitVec 4) (b : BitVec 6) (c : BitVec 6)
  /-- CMPNE (R139) Sets a predicate to register inequality. -/
  | cmpne (p : BitVec 4) (b : BitVec 6) (c : BitVec 6)
  /-- CMPLTS (R139) Signed less-than compare into a predicate. -/
  | cmplts (p : BitVec 4) (b : BitVec 6) (c : BitVec 6)
  /-- CMPLES (R139) Signed less-or-equal compare into a predicate. -/
  | cmples (p : BitVec 4) (b : BitVec 6) (c : BitVec 6)
  /-- CMPLTZ (R139) Unsigned less-than compare into a predicate. -/
  | cmpltz (p : BitVec 4) (b : BitVec 6) (c : BitVec 6)
  /-- CMPLEZ (R139) Unsigned less-or-equal compare into a predicate. -/
  | cmplez (p : BitVec 4) (b : BitVec 6) (c : BitVec 6)
  /-- CMPEQI (R139) Compares a register with a sign-extended immediate for equality. -/
  | cmpeqi (p : BitVec 4) (b : BitVec 6) (i : BitVec 8)
  /-- CMPLTSI (R139) Signed less-than compare with an immediate. -/
  | cmpltsi (p : BitVec 4) (b : BitVec 6) (i : BitVec 8)
  /-- SEL (R140) Selects one of two registers by a predicate named in M. -/
  | sel (a : BitVec 6) (b : BitVec 6) (c : BitVec 6) (p : BitVec 2)
  /-- PAND (R140) AND of two predicate selectors. -/
  | pand (a : BitVec 4) (b : BitVec 5) (c : BitVec 5)
  /-- POR (R140) OR of two predicate selectors. -/
  | por (a : BitVec 4) (b : BitVec 5) (c : BitVec 5)
  /-- PXOR (R140) XOR of two predicate selectors. -/
  | pxor (a : BitVec 4) (b : BitVec 5) (c : BitVec 5)
  /-- PNOT (R140) Complement of a predicate selector. -/
  | pnot (a : BitVec 4) (b : BitVec 5)
  /-- IDX (R141) Reads the INDEX of a loop level into a g register. -/
  | idx (a : BitVec 6) (l : BitVec 3)
  /-- SEXT (R142) Sign-extends the low w bits. -/
  | sext (a : BitVec 6) (b : BitVec 6) (w : BitVec 6)
  /-- ZEXT (R142) Zero-extends the low w bits. -/
  | zext (a : BitVec 6) (b : BitVec 6) (w : BitVec 6)
  /-- FADD (R143) Scalar floating-point addition rounded RNE. -/
  | fadd (a : BitVec 6) (b : BitVec 6) (c : BitVec 6) (p : BitVec 1)
  /-- FADD_LITERAL (R143) Scalar floating-point addition with a rounding mode given in a literal. -/
  | faddLiteral (a : BitVec 6) (b : BitVec 6) (c : BitVec 6) (p : BitVec 1) (rm : BitVec 2)
  /-- FSUB (R143) Scalar floating-point subtraction rounded RNE. -/
  | fsub (a : BitVec 6) (b : BitVec 6) (c : BitVec 6) (p : BitVec 1)
  /-- FSUB_LITERAL (R143) Scalar floating-point subtraction with a literal rounding mode. -/
  | fsubLiteral (a : BitVec 6) (b : BitVec 6) (c : BitVec 6) (p : BitVec 1) (rm : BitVec 2)
  /-- FMUL (R143) Scalar floating-point multiplication rounded RNE. -/
  | fmul (a : BitVec 6) (b : BitVec 6) (c : BitVec 6) (p : BitVec 1)
  /-- FMUL_LITERAL (R143) Scalar floating-point multiplication with a literal rounding mode. -/
  | fmulLiteral (a : BitVec 6) (b : BitVec 6) (c : BitVec 6) (p : BitVec 1) (rm : BitVec 2)
  /-- FFMA (R143) Fused multiply-add into the destination rounded RNE. -/
  | ffma (a : BitVec 6) (b : BitVec 6) (c : BitVec 6) (p : BitVec 1)
  /-- FFMA_LITERAL (R143) Fused multiply-add with a literal rounding mode. -/
  | ffmaLiteral (a : BitVec 6) (b : BitVec 6) (c : BitVec 6) (p : BitVec 1) (rm : BitVec 2)
  /-- FDIV (R143) Scalar floating-point division rounded RNE. -/
  | fdiv (a : BitVec 6) (b : BitVec 6) (c : BitVec 6) (p : BitVec 1)
  /-- FDIV_LITERAL (R143) Scalar floating-point division with a literal rounding mode. -/
  | fdivLiteral (a : BitVec 6) (b : BitVec 6) (c : BitVec 6) (p : BitVec 1) (rm : BitVec 2)
  /-- FSQRT (R143) Scalar square root rounded RNE. -/
  | fsqrt (a : BitVec 6) (b : BitVec 6) (p : BitVec 1)
  /-- FSQRT_LITERAL (R143) Scalar square root with a literal rounding mode. -/
  | fsqrtLiteral (a : BitVec 6) (b : BitVec 6) (p : BitVec 1) (rm : BitVec 2)
  /-- FCVT (R145) Converts a scalar between any two element types named in its literal. -/
  | fcvt (a : BitVec 6) (b : BitVec 6) (dst : BitVec 4) (src : BitVec 4) (rm : BitVec 2)
  /-- FCMPLT (R144) Floating-point less-than compare into a predicate. -/
  | fcmplt (a : BitVec 4) (b : BitVec 6) (c : BitVec 6) (p : BitVec 1)
  /-- FCMPEQ (R144) Floating-point equality compare into a predicate. -/
  | fcmpeq (a : BitVec 4) (b : BitVec 6) (c : BitVec 6) (p : BitVec 1)
  /-- FMIN (R144) Floating-point minimum. -/
  | fmin (a : BitVec 6) (b : BitVec 6) (c : BitVec 6) (p : BitVec 1)
  /-- FMAX (R144) Floating-point maximum. -/
  | fmax (a : BitVec 6) (b : BitVec 6) (c : BitVec 6) (p : BitVec 1)
  /-- BEAC (R146) Reads partition time into a g register. -/
  | beac (a : BitVec 6)
  /-- SHAPE (R147) Sets the SHAPE register from its literal in the issue cycle. -/
  | shape (val : BitVec 18)
  /-- VADD (R156) Element-wise addition under a mask. -/
  | vadd (v : BitVec 5) (a : BitVec 5) (b : BitVec 5) (k : BitVec 3) (m : BitVec 2)
  /-- VSUB (R156) Element-wise subtraction under a mask. -/
  | vsub (v : BitVec 5) (a : BitVec 5) (b : BitVec 5) (k : BitVec 3) (m : BitVec 2)
  /-- VMUL (R156) Element-wise multiplication under a mask. -/
  | vmul (v : BitVec 5) (a : BitVec 5) (b : BitVec 5) (k : BitVec 3) (m : BitVec 2)
  /-- VFMA (R156) Element-wise fused multiply-add into the destination. -/
  | vfma (v : BitVec 5) (a : BitVec 5) (b : BitVec 5) (k : BitVec 3) (m : BitVec 2)
  /-- VFMS (R156) Element-wise fused multiply-subtract from the destination. -/
  | vfms (v : BitVec 5) (a : BitVec 5) (b : BitVec 5) (k : BitVec 3) (m : BitVec 2)
  /-- VMIN (R156) Element-wise minimum. -/
  | vmin (v : BitVec 5) (a : BitVec 5) (b : BitVec 5) (k : BitVec 3) (m : BitVec 2)
  /-- VMAX (R156) Element-wise maximum. -/
  | vmax (v : BitVec 5) (a : BitVec 5) (b : BitVec 5) (k : BitVec 3) (m : BitVec 2)
  /-- VABS (R156) Element-wise absolute value. -/
  | vabs (v : BitVec 5) (a : BitVec 5) (k : BitVec 3) (m : BitVec 2)
  /-- VNEG (R156) Element-wise negation. -/
  | vneg (v : BitVec 5) (a : BitVec 5) (k : BitVec 3) (m : BitVec 2)
  /-- VAND (R157) Element-wise bitwise AND. -/
  | vand (v : BitVec 5) (a : BitVec 5) (b : BitVec 5) (k : BitVec 3) (m : BitVec 2)
  /-- VOR (R157) Element-wise bitwise OR. -/
  | vor (v : BitVec 5) (a : BitVec 5) (b : BitVec 5) (k : BitVec 3) (m : BitVec 2)
  /-- VXOR (R157) Element-wise bitwise XOR. -/
  | vxor (v : BitVec 5) (a : BitVec 5) (b : BitVec 5) (k : BitVec 3) (m : BitVec 2)
  /-- VNOT (R157) Element-wise bitwise complement. -/
  | vnot (v : BitVec 5) (a : BitVec 5) (k : BitVec 3) (m : BitVec 2)
  /-- VSHL (R157) Element-wise shift left. -/
  | vshl (v : BitVec 5) (a : BitVec 5) (b : BitVec 5) (k : BitVec 3) (m : BitVec 2)
  /-- VSHR (R157) Element-wise logical shift right. -/
  | vshr (v : BitVec 5) (a : BitVec 5) (b : BitVec 5) (k : BitVec 3) (m : BitVec 2)
  /-- VSAR (R157) Element-wise arithmetic shift right. -/
  | vsar (v : BitVec 5) (a : BitVec 5) (b : BitVec 5) (k : BitVec 3) (m : BitVec 2)
  /-- VCMPEQ (R158) Element-wise equality compare into a mask tile. -/
  | vcmpeq (v : BitVec 3) (a : BitVec 5) (b : BitVec 5) (k : BitVec 3) (m : BitVec 2)
  /-- VCMPLT (R158) Element-wise less-than compare into a mask tile. -/
  | vcmplt (v : BitVec 3) (a : BitVec 5) (b : BitVec 5) (k : BitVec 3) (m : BitVec 2)
  /-- VCMPLE (R158) Element-wise less-or-equal compare into a mask tile. -/
  | vcmple (v : BitVec 3) (a : BitVec 5) (b : BitVec 5) (k : BitVec 3) (m : BitVec 2)
  /-- VSEL (R159) Selects elements of two tiles by a mask. -/
  | vsel (v : BitVec 5) (a : BitVec 5) (b : BitVec 5) (k : BitVec 3) (m : BitVec 2)
  /-- VMOV (R161) Copies a tile. -/
  | vmov (v : BitVec 5) (a : BitVec 5) (k : BitVec 3) (m : BitVec 2)
  /-- VFILL (R161) Fills every element with the raw low bits of a g register. -/
  | vfill (v : BitVec 5) (g : BitVec 5) (k : BitVec 3) (m : BitVec 2)
  /-- VBROW (R161) Broadcasts one row of a tile to every row. -/
  | vbrow (v : BitVec 5) (a : BitVec 5) (g : BitVec 5) (k : BitVec 3) (m : BitVec 2)
  /-- VBCOL (R161) Broadcasts one column of a tile to every column. -/
  | vbcol (v : BitVec 5) (a : BitVec 5) (g : BitVec 5) (k : BitVec 3) (m : BitVec 2)
  /-- VRSUM (R163) Tree sum of each row into column 0. -/
  | vrsum (v : BitVec 5) (a : BitVec 5) (k : BitVec 3) (m : BitVec 2)
  /-- VRMAX (R163) Tree maximum of each row into column 0. -/
  | vrmax (v : BitVec 5) (a : BitVec 5) (k : BitVec 3) (m : BitVec 2)
  /-- VCSUM (R163) Tree sum of each column into row 0. -/
  | vcsum (v : BitVec 5) (a : BitVec 5) (k : BitVec 3) (m : BitVec 2)
  /-- VCMAX (R163) Tree maximum of each column into row 0. -/
  | vcmax (v : BitVec 5) (a : BitVec 5) (k : BitVec 3) (m : BitVec 2)
  /-- VTRN (R165) Transposes a tile of at most 64 columns. -/
  | vtrn (v : BitVec 5) (a : BitVec 5) (k : BitVec 3) (m : BitVec 2)
  /-- VZIP2 (R166) Interleaves two tiles. -/
  | vzip2 (v : BitVec 5) (a : BitVec 5) (k : BitVec 3) (m : BitVec 2)
  /-- VZIP3 (R166) Interleaves three tiles. -/
  | vzip3 (v : BitVec 5) (a : BitVec 5) (k : BitVec 3) (m : BitVec 2)
  /-- VZIP4 (R166) Interleaves four tiles. -/
  | vzip4 (v : BitVec 5) (a : BitVec 5) (k : BitVec 3) (m : BitVec 2)
  /-- VUNZ2 (R166) De-interleaves into two tiles. -/
  | vunz2 (v : BitVec 5) (a : BitVec 5) (k : BitVec 3) (m : BitVec 2)
  /-- VUNZ3 (R166) De-interleaves into three tiles. -/
  | vunz3 (v : BitVec 5) (a : BitVec 5) (k : BitVec 3) (m : BitVec 2)
  /-- VUNZ4 (R166) De-interleaves into four tiles. -/
  | vunz4 (v : BitVec 5) (a : BitVec 5) (k : BitVec 3) (m : BitVec 2)
  /-- VPERM (R167) Permutes each row by an index tile. -/
  | vperm (v : BitVec 5) (a : BitVec 5) (b : BitVec 5) (k : BitVec 3) (m : BitVec 2)
  /-- VROT (R168) Rotates each row by a signed count. -/
  | vrot (v : BitVec 5) (a : BitVec 5) (g : BitVec 5) (k : BitVec 3) (m : BitVec 2)
  /-- VCVT (R169) Converts every element to a destination type. -/
  | vcvt (v : BitVec 5) (a : BitVec 5) (t : BitVec 4) (k : BitVec 3) (m : BitVec 2)
  /-- VQNT (R171) Quantises a tile under a scale selected from an amax ring. -/
  | vqnt (v : BitVec 5) (a : BitVec 5) (n : BitVec 4) (f : BitVec 3)
  /-- VAMX (R170) Pushes the absolute maximum of a tile into an amax ring. -/
  | vamx (n : BitVec 4) (a : BitVec 5) (k : BitVec 3)
  /-- VRCPA (R172) Approximate reciprocal of each active element. -/
  | vrcpa (v : BitVec 5) (a : BitVec 5) (k : BitVec 3)
  /-- VRSQA (R172) Reciprocal-square-root seed of each active element. -/
  | vrsqa (v : BitVec 5) (a : BitVec 5) (k : BitVec 3)
  /-- VEXP2 (R172) Power of two of each active element. -/
  | vexp2 (v : BitVec 5) (a : BitVec 5) (k : BitVec 3)
  /-- VLOG2 (R172) Base-2 logarithm of each active element. -/
  | vlog2 (v : BitVec 5) (a : BitVec 5) (k : BitVec 3)
  /-- VTANH (R172) Hyperbolic tangent of each active element. -/
  | vtanh (v : BitVec 5) (a : BitVec 5) (k : BitVec 3)
  /-- VGTE (R162) Reads one tile element into a g register. -/
  | vgte (g : BitVec 5) (a : BitVec 5) (b : BitVec 5) (k : BitVec 3) (m : BitVec 2)
  /-- VPTE (R162) Writes a g register into one tile element. -/
  | vpte (v : BitVec 5) (a : BitVec 5) (b : BitVec 5) (k : BitVec 3) (m : BitVec 2)
  /-- VMSKOP (R160) Logical operation between two mask tiles. -/
  | vmskop (o : BitVec 2) (v : BitVec 3) (a : BitVec 3) (b : BitVec 3) (k : BitVec 3) (m : BitVec 2)
  /-- VIOTA (R161) Fills elements with an index sequence plus a base. -/
  | viota (v : BitVec 5) (g : BitVec 5) (n : BitVec 2) (k : BitVec 3) (m : BitVec 2)
  /-- VRDOT (R164) Row-wise dot product into column 0. -/
  | vrdot (v : BitVec 5) (a : BitVec 5) (b : BitVec 5) (k : BitVec 3) (m : BitVec 2)
  /-- VCLAMP (R156) Clamps each element between two bounds. -/
  | vclamp (v : BitVec 5) (a : BitVec 5) (b : BitVec 5) (k : BitVec 3) (m : BitVec 2)
  /-- XLT (R181) Walking translation of a virtual page into a handle, a seam instruction. -/
  | xlt (h : BitVec 4) (g : BitVec 6)
  /-- XLT_NW (R181) No-walk translation that writes the handle at +24 or h = 0 on a TLB miss. -/
  | xltNw (h : BitVec 4) (g : BitVec 6)
  /-- HREL (R182) Clears every field of a handle. -/
  | hrel (h : BitVec 4)
  /-- HCHK (R182) Tests a handle for validity into a predicate. -/
  | hchk (p : BitVec 4) (h : BitVec 4)
  /-- HINFO (R182) Reads handle fields by selector into a g register. -/
  | hinfo (g : BitVec 6) (h : BitVec 4) (s : BitVec 2)
  /-- LDS (R184) Loads a tile from the cluster scratchpad. -/
  | lds (v : BitVec 5) (b : BitVec 6) (c : BitVec 6)
  /-- STS (R184) Stores a tile to the cluster scratchpad. -/
  | sts (v : BitVec 5) (b : BitVec 6) (c : BitVec 6)
  /-- LDSG (R184) Loads 64 bits from scratchpad into a g register. -/
  | ldsg (g : BitVec 6) (b : BitVec 6) (c : BitVec 6)
  /-- STSG (R184) Stores a g register to scratchpad. -/
  | stsg (g : BitVec 6) (b : BitVec 6) (c : BitVec 6)
  /-- LDG (R184) Timed-class tile load from global memory through a handle. -/
  | ldg (r : BitVec 1) (v : BitVec 5) (h : BitVec 4) (c : BitVec 6) (m : BitVec 2)
  /-- LDG_UNT (R184) Untimed-class tile load with an assumed latency literal. -/
  | ldgUnt (r : BitVec 1) (v : BitVec 5) (h : BitVec 4) (c : BitVec 6) (lat : BitVec 29)
  /-- STG (R184) Timed-class tile store to global memory. -/
  | stg (r : BitVec 1) (v : BitVec 5) (h : BitVec 4) (c : BitVec 6) (m : BitVec 2)
  /-- STG_UNT (R184) Untimed-class tile store with an assumed latency literal. -/
  | stgUnt (r : BitVec 1) (v : BitVec 5) (h : BitVec 4) (c : BitVec 6) (lat : BitVec 29)
  /-- LDGS (R184) Timed-class scalar load from global memory. -/
  | ldgs (r : BitVec 1) (g : BitVec 5) (h : BitVec 4) (c : BitVec 6) (m : BitVec 2)
  /-- LDGS_UNT (R184) Untimed-class scalar load with a literal. -/
  | ldgsUnt (r : BitVec 1) (g : BitVec 5) (h : BitVec 4) (c : BitVec 6) (lat : BitVec 29)
  /-- STGS (R184) Timed-class scalar store to global memory. -/
  | stgs (r : BitVec 1) (g : BitVec 5) (h : BitVec 4) (c : BitVec 6) (m : BitVec 2)
  /-- STGS_UNT (R184) Untimed-class scalar store with a literal. -/
  | stgsUnt (r : BitVec 1) (g : BitVec 5) (h : BitVec 4) (c : BitVec 6) (lat : BitVec 29)
  /-- LDT (R185) Tagged load that decodes and scales blocks into a tile. -/
  | ldt (r : BitVec 1) (v : BitVec 5) (h : BitVec 4) (c : BitVec 6) (m : BitVec 2)
  /-- LDT_UNT (R185) Untimed-class tagged load with a literal. -/
  | ldtUnt (r : BitVec 1) (v : BitVec 5) (h : BitVec 4) (c : BitVec 6) (lat : BitVec 29)
  /-- STQ (R186) Quantises a tile to memory and writes block tags. -/
  | stq (r : BitVec 1) (v : BitVec 5) (h : BitVec 4) (c : BitVec 6) (m : BitVec 2)
  /-- STQ_UNT (R186) Untimed-class quantising store with a literal. -/
  | stqUnt (r : BitVec 1) (v : BitVec 5) (h : BitVec 4) (c : BitVec 6) (lat : BitVec 29)
  /-- STNT (R184) Non-temporal tile store outside every release until DRAIN. -/
  | stnt (r : BitVec 1) (v : BitVec 5) (h : BitVec 4) (c : BitVec 6) (m : BitVec 2)
  /-- STNT_UNT (R184) Untimed-class non-temporal store with a literal. -/
  | stntUnt (r : BitVec 1) (v : BitVec 5) (h : BitVec 4) (c : BitVec 6) (lat : BitVec 29)
  /-- PFL (R188) Prefetches a range of lines into the home L2. -/
  | pfl (h : BitVec 4) (b : BitVec 6) (c : BitVec 6)
  /-- CWBR (R188) Writes back dirty lines of a range and drops RDC copies. -/
  | cwbr (h : BitVec 4) (b : BitVec 6) (c : BitVec 6)
  /-- CINVR (R188) Drops every line of a range from home L2 and every RDC. -/
  | cinvr (h : BitVec 4) (b : BitVec 6) (c : BitVec 6)
  /-- RPIN (R189) Sets a retention register to reserve ways for a line range. -/
  | rpin (n : BitVec 3) (h : BitVec 4) (g : BitVec 6)
  /-- RUNPIN (R189) Clears a retention register. -/
  | runpin (n : BitVec 3) (h : BitVec 4)
  /-- LDGE (R184) Timed tile load that allocates missing lines at LRU. -/
  | ldge (r : BitVec 1) (v : BitVec 5) (h : BitVec 4) (c : BitVec 6) (m : BitVec 2)
  /-- LDGE_UNT (R184) Untimed evict-first tile load with a literal. -/
  | ldgeUnt (r : BitVec 1) (v : BitVec 5) (h : BitVec 4) (c : BitVec 6) (lat : BitVec 29)
  /-- LDTE (R185) Timed tagged load that allocates missing lines at LRU. -/
  | ldte (r : BitVec 1) (v : BitVec 5) (h : BitVec 4) (c : BitVec 6) (m : BitVec 2)
  /-- LDTE_UNT (R185) Untimed evict-first tagged load with a literal. -/
  | ldteUnt (r : BitVec 1) (v : BitVec 5) (h : BitVec 4) (c : BitVec 6) (lat : BitVec 29)
  /-- MCFG (R209) Writes one field of a shadow loop-nest level from a g register. -/
  | mcfg (l : BitVec 3) (g : BitVec 6) (f : BitVec 3)
  /-- MCFGI (R210) Writes a shadow level's count and events or a stride from a literal. -/
  | mcfgi (l : BitVec 3) (grp : BitVec 2) (val : BitVec 20)
  /-- MSRC (R211) Sets the kind and unit of the A source, B source or destination. -/
  | msrc (k : BitVec 3) (r : BitVec 2) (u : BitVec 6) (i : BitVec 8)
  /-- MFMT (R212) Sets the A, B and drain formats and the quadrant mask. -/
  | mfmt (a : BitVec 4) (b : BitVec 4) (f : BitVec 4) (q : BitVec 4)
  /-- MLDB (R214) Loads weights and scales into the masked quadrants. -/
  | mldb (g : BitVec 6) (q : BitVec 4)
  /-- MCLR (R222) Clears a range of accumulator rows. -/
  | mclr (a : BitVec 6) (b : BitVec 6)
  /-- MRD (R223) Reads accumulators into a tile with conversion. -/
  | mrd (v : BitVec 5) (r : BitVec 6) (c : BitVec 6) (m : BitVec 2)
  /-- MWR (R223) Writes a tile into accumulators as FP32. -/
  | mwr (v : BitVec 5) (r : BitVec 6) (c : BitVec 6) (m : BitVec 2)
  /-- MFUSE (R213) Enables forwarding of each A row to an out-port. -/
  | mfuse (q : BitVec 4) (f : BitVec 1)
  /-- MDUR (R219) Writes the nest duration T of the shadow table into a g register. -/
  | mdur (g : BitVec 6)
  /-- QPUSH (R225) Pushes n entries of a tile through an operand out-port. -/
  | qpush (p : BitVec 4) (v : BitVec 5) (n : BitVec 2)
  /-- QPOP (R225) Pops n entries of an operand queue into a tile. -/
  | qpop (v : BitVec 5) (q : BitVec 4) (n : BitVec 2)
  /-- QRSV (R228) Moves credits into or out of a loopback reservation. -/
  | qrsv (p : BitVec 4) (n : BitVec 8)
  /-- QBIND (R229) Binds an operand out-port to a target queue at S. -/
  | qbind (p : BitVec 4) (g : BitVec 6)
  /-- LKSEND (R225) Pushes n entries of a tile through a link out-port. -/
  | lksend (p : BitVec 4) (v : BitVec 5) (n : BitVec 2)
  /-- LKRECV (R225) Pops n entries of a link queue into a tile. -/
  | lkrecv (v : BitVec 5) (q : BitVec 4) (n : BitVec 2)
  /-- LKBIND (R229) Binds a link out-port to a link, lane and peer queue at S. -/
  | lkbind (p : BitVec 4) (g : BitVec 6)
  /-- QDEPTH (R231) Reads queue depth, credits, reservation and binding state. -/
  | qdepth (g : BitVec 6) (k : BitVec 1) (q : BitVec 4)
  /-- AADD (R190) Atomic add at the home sync engine returning the old value. -/
  | aadd (g : BitVec 6) (h : BitVec 4) (c : BitVec 6) (w : BitVec 1)
  /-- AAND (R190) Atomic AND returning the old value. -/
  | aand (g : BitVec 6) (h : BitVec 4) (c : BitVec 6) (w : BitVec 1)
  /-- AOR (R190) Atomic OR returning the old value. -/
  | aor (g : BitVec 6) (h : BitVec 4) (c : BitVec 6) (w : BitVec 1)
  /-- AXOR (R190) Atomic XOR returning the old value. -/
  | axor (g : BitVec 6) (h : BitVec 4) (c : BitVec 6) (w : BitVec 1)
  /-- AMIN (R190) Atomic minimum, signed or unsigned. -/
  | amin (g : BitVec 6) (h : BitVec 4) (c : BitVec 6) (s : BitVec 1) (w : BitVec 1)
  /-- AMAX (R190) Atomic maximum, signed or unsigned. -/
  | amax (g : BitVec 6) (h : BitVec 4) (c : BitVec 6) (s : BitVec 1) (w : BitVec 1)
  /-- ASWP (R190) Atomic swap. -/
  | aswp (g : BitVec 6) (h : BitVec 4) (c : BitVec 6) (w : BitVec 1)
  /-- ACAS (R190) Atomic compare-and-swap. -/
  | acas (g : BitVec 6) (h : BitVec 4) (c : BitVec 6) (w : BitVec 1)
  /-- VATOM (R191) Applies per-element atomics after checking every element. -/
  | vatom (v : BitVec 5) (i : BitVec 5) (o : BitVec 3)
  /-- ACQ (R194) Seam acquire of a sync object that waits for the grant. -/
  | acq (g : BitVec 6) (h : BitVec 4) (c : BitVec 6) (s : BitVec 1)
  /-- ACQ_TRY (R194) Timed try-acquire returning SEQ or all ones. -/
  | acqTry (g : BitVec 6) (h : BitVec 4) (c : BitVec 6) (s : BitVec 1)
  /-- REL (R195) Releases a sync object, advancing SEQ and publishing writes at cR. -/
  | rel (h : BitVec 4) (c : BitVec 6)
  /-- REL_QUEUES (R195) Release that also waits for named ASY queues given in a literal. -/
  | relQueues (h : BitVec 4) (c : BitVec 6) (mask : BitVec 16)
  /-- BIND (R193) Adds a region page to a sync object's list and sets its scope. -/
  | bind (r : BitVec 4) (h : BitVec 4) (g : BitVec 6)
  /-- UNBIND (R193) Removes a page from a sync object's list. -/
  | unbind (r : BitVec 4) (h : BitVec 4) (g : BitVec 6)
  /-- GPASS (R197) Requests a pass through a gate, writing admission into a predicate. -/
  | gpass (p : BitVec 4) (g : BitVec 6)
  /-- GTAKE (R197) Seam wait for a gate version above gv. -/
  | gtake (v : BitVec 6) (g : BitVec 6)
  /-- GSTAT (R197) Samples a gate's version, tokens and flags. -/
  | gstat (s : BitVec 6) (g : BitVec 6)
  /-- CLD (R199) Seam 64-bit load from a peer module through a capability. -/
  | cld (g : BitVec 6) (k : BitVec 4) (c : BitVec 6)
  /-- CST (R199) Sends a 64-bit remote store, optionally as a release flag. -/
  | cst (g : BitVec 6) (k : BitVec 4) (c : BitVec 6) (r : BitVec 1)
  /-- CLDV (R199) Seam tile load from a peer module. -/
  | cldv (v : BitVec 5) (k : BitVec 4) (c : BitVec 6)
  /-- CSTV (R199) Sends a tile as a remote store. -/
  | cstv (v : BitVec 5) (k : BitVec 4) (c : BitVec 6)
  /-- RCAS2 (R200) Remote multi-word compare-and-swap at the peer's home agent. -/
  | rcas2 (g : BitVec 6) (k : BitVec 4) (c : BitVec 6) (n : BitVec 2)
  /-- RENQ (R200) Remote atomic enqueue of a node on a list. -/
  | renq (g : BitVec 6) (k : BitVec 4) (c : BitVec 6)
  /-- RCHASE (R200) Remote pointer chase looking up a key. -/
  | rchase (g : BitVec 6) (k : BitVec 4) (c : BitVec 6)
  /-- KMOV (R201) Copies a capability with its tag. -/
  | kmov (a : BitVec 4) (b : BitVec 4)
  /-- KNARROW (R201) Narrows a capability's base and length. -/
  | knarrow (a : BitVec 4) (b : BitVec 4) (g : BitVec 6)
  /-- KPERM (R201) Masks a capability's permissions. -/
  | kperm (a : BitVec 4) (b : BitVec 4) (i : BitVec 8)
  /-- KLD (R201) Loads a capability granule with its hidden tag. -/
  | kld (a : BitVec 4) (h : BitVec 4) (c : BitVec 6) (m : BitVec 2)
  /-- KST (R201) Stores a capability with its hidden tag. -/
  | kst (a : BitVec 4) (h : BitVec 4) (c : BitVec 6) (m : BitVec 2)
  /-- WLD (R202) Seam 64-bit load through a window table entry. -/
  | wld (g : BitVec 6) (w : BitVec 6) (c : BitVec 6)
  /-- WST (R202) Sends a 64-bit store through a window table entry. -/
  | wst (g : BitVec 6) (w : BitVec 6) (c : BitVec 6)
  /-- SFENCE (R196) Holds MEM and SYN until earlier accesses are visible in the scope. -/
  | sfence (q : BitVec 1) (s : BitVec 3)
  /-- CPY (R234) Enqueues a timed copy between scratchpad and module memory. -/
  | cpy (q : BitVec 4) (h : BitVec 4) (g : BitVec 6) (m : BitVec 2)
  /-- CPYD (R235) Enqueues a detached copy between any tiers that ends with a release. -/
  | cpyd (q : BitVec 4) (h : BitVec 4) (g : BitVec 6) (m : BitVec 2)
  /-- RATT (R236) Enqueues a remote-attention command to an attention die. -/
  | ratt (q : BitVec 4) (g : BitVec 6) (u : BitVec 1)
  /-- KAPP (R236) Enqueues a key-value append command. -/
  | kapp (q : BitVec 4) (g : BitVec 6)
  /-- KREL (R236) Enqueues a key-value list release command. -/
  | krel (q : BitVec 4) (g : BitVec 6)
  /-- MERGE (R238) Enqueues a merge of partial attention records. -/
  | merge (q : BitVec 4) (g : BitVec 6)
  /-- COLL (R239) Enqueues a tile contribution to a reduction group. -/
  | coll (q : BitVec 4) (v : BitVec 5) (g : BitVec 6)
  /-- TIER (R240) Enqueues a move of a page's home. -/
  | tier (q : BitVec 4) (h : BitVec 4) (g : BitVec 6)
  /-- PFS (R241) Enqueues a prefetch-schedule entry for the tier sequencer. -/
  | pfs (q : BitVec 4) (h : BitVec 4) (g : BitVec 6)
  /-- QFENCE (R242) Places a fence entry in each named command queue. -/
  | qfence (m : BitVec 16)
  /-- UNASSIGNED_OPCODE (R94) A word with an unassigned OP or needing absent engine or privilege raises an illegal-instruction fault. -/
  | unassignedOpcode (w : BitVec 32)
  /-- SEAM (R124) Joins and switches the sequencer to untimed mode, acting as a delivery point. -/
  | seam
  /-- ALIGN (R126) At H aligns every Beacon copy and trained Onino link and sets the equalising buffers. -/
  | align
  /-- END (R128) Joins, delivers pending events and releases the core half once all issued words complete. -/
  | endTask
  /-- ERET (R131) Returns from a trap handler to TPOS.PC at privilege U. -/
  | eret
  /-- DRAIN (R187) Orders the sequencer's earlier STNT stores. -/
  | drain
  /-- MGO (R215) Copies the shadow table to the active table and starts the nest. -/
  | mgo
  /-- CLAMPCNT_WRITE (R51) A write to CLAMPCNT at S stores 0 whatever the value written. -/
  | clampcntWrite
  /-- FETCH_WORDS (R314) The fetch unit reads eight words per cycle and splits them into column queues. -/
  | fetchWords
  /-- FETCH_STARVATION (R316) A timed word due before it reaches its column queue is a scoreboard violation. -/
  | fetchStarvation
  /-- ITERATION_BOUNDARY (R120) At the join J the loop INDEX advances or the ended level pops. -/
  | iterationBoundary
  /-- RESULT_LANDING (R113) A word's result is written to its register at its result cycle. -/
  | resultLanding
  /-- LOAD_DATA_DELIVERY (R177) Load data is delivered to its destination at the promised cycle. -/
  | loadDataDelivery
  /-- ARRIVAL_VIOLATION (R177) Data not at its destination by its promised cycle triggers STALL or TRAP handling. -/
  | arrivalViolation
  /-- ACCESS_HOME_CYCLE (R245) An access reaches its home and takes its place in the home order. -/
  | accessHomeCycle
  /-- XLT_WALK_COMPLETE (R295) A table walk ends and the walking XLT writes its handle. -/
  | xltWalkComplete
  /-- ACQ_GRANT (R194) The sync engine grants a waiting acquire, invalidating RDC lines of bound pages. -/
  | acqGrant
  /-- REL_EFFECT (R195) At cR a release advances SEQ, frees the hold and publishes writes. -/
  | relEffect
  /-- DRAIN_COMPLETE (R187) All earlier STNT stores are visible at cD. -/
  | drainComplete
  /-- SFENCE_COMPLETE (R196) Every earlier access is visible in scope and the fence releases its columns. -/
  | sfenceComplete
  /-- CACHE_RANGE_COMPLETE (R188) A CWBR or CINVR completes at its fixed cycle. -/
  | cacheRangeComplete
  /-- RETENTION_IN_FORCE (R189) An RPIN or RUNPIN takes effect in the domain, or is refused with DCFG.ERR. -/
  | retentionInForce
  /-- WAITB_COMPLETE (R125) Partition time reaches G and the sequencer rejoins its timetable. -/
  | waitbComplete
  /-- DEADLINE_FAULT (R320) DLINE.LEFT reaches 0 and the task ends fatally. -/
  | deadlineFault
  /-- LAUNCH_RECEIVE (R306) The scheduler receives and validates a launch descriptor, refusing it with a notice on failure. -/
  | launchReceive
  /-- SCHEDULER_PLACEMENT (R309) Each cycle the scheduler places or reserves ready entries by priority and age. -/
  | schedulerPlacement
  /-- LAUNCH_BEGIN (R310) All tasks of a placed launch begin in one cycle with start state. -/
  | launchBegin
  /-- TIME_SLICE_END (R312) SLEND is set in a task that has used its quantum while a competitor waits. -/
  | timeSliceEnd
  /-- YIELD_HANDOVER (R312) The half is freed 32 cycles after a yielding YIELD. -/
  | yieldHandover
  /-- FULL_FRAME_SAVE (R331) After all issued accesses complete, the task's state is written to a full frame. -/
  | fullFrameSave
  /-- FULL_FRAME_SAVE_END (R331) The save ends and the half passes to the next ready entry. -/
  | fullFrameSaveEnd
  /-- FULL_FRAME_RESTORE (R332) A saved task's full frame is restored at placement and its handles revalidated. -/
  | fullFrameRestore
  /-- TASK_RESUME (R312) A saved task resumes loose and timed on its half. -/
  | taskResume
  /-- NEST_STEP (R216) One nest step reads its A row, accumulates over the groups and runs level-end events. -/
  | nestStep
  /-- NEST_END (R218) The nest completes at T and releases its quadrants. -/
  | nestEnd
  /-- NEST_SAFE_STOP (R220) A nest stops at its next safe boundary for a freeze, save or stop. -/
  | nestSafeStop
  /-- MLDB_COMPLETE (R214) Loaded weights become usable after LB cycles. -/
  | mldbComplete
  /-- QUEUE_ENTRY_ARRIVAL (R226) An operand entry arrives at its target queue. -/
  | queueEntryArrival
  /-- QUEUE_CREDIT_ARRIVAL (R226) A credit returned by a pop reaches its out-port. -/
  | queueCreditArrival
  /-- LINK_ENTRY_DEPART (R227) A link entry departs in the partition's lane slot, or is discarded while the link is down. -/
  | linkEntryDepart
  /-- LINK_ENTRY_ARRIVAL (R387) A link entry arrives at the peer hub and is routed or discarded and counted. -/
  | linkEntryArrival
  /-- ASY_ENTRY_START (R232) An engine command-queue entry starts at its S. -/
  | asyEntryStart
  /-- CPY_DONE (R234) A copy's last chunk is written at its done cycle. -/
  | cpyDone
  /-- CPYD_DONE (R235) A detached copy finishes and releases its object on the issuer's behalf. -/
  | cpydDone
  /-- ATTENTION_COMMAND_ARRIVAL (R362) A command reaches an attention die and executes, waits in the window or is rejected by SEQ. -/
  | attentionCommandArrival
  /-- ATTENTION_ACCEPT (R237) The front end accepts or fails a KAPP or KREL and writes KSTAT. -/
  | attentionAccept
  /-- KAPP_EXECUTE (R364) Appends key and value rows to a page list. -/
  | kappExecute
  /-- KREL_EXECUTE (R365) Frees every page of a list after earlier RATTs finish reading. -/
  | krelExecute
  /-- CONTEXT_CONTROL (R365) A KREL with PLIST 0xFFFF frees the context's lists, clears BROKEN and resets NEXT and RESV. -/
  | contextControl
  /-- RATT_ADMISSION (R367) At its turn a timed RATT is admitted against CREDIT or refused and computes its partial. -/
  | rattAdmission
  /-- RATT_RECORD_WRITE (R237) A RATT's partial records are written with STAT last. -/
  | rattRecordWrite
  /-- ATTENTION_CREDIT_REFILL (R367) At each Beacon multiple of 1,024 a context's CREDIT refills. -/
  | attentionCreditRefill
  /-- MERGE_DONE (R238) The merge lane writes the combined output rows. -/
  | mergeDone
  /-- COLL_ARRIVAL (R375) A contribution reaches the collective reduction unit and joins a round. -/
  | collArrival
  /-- COLL_ROUND_COMPLETE (R376) A round's exact sum is rounded once into the result. -/
  | collRoundComplete
  /-- COLL_RESULT_WRITE (R376) The result and status block are written to each contributor. -/
  | collResultWrite
  /-- TIER_MOVE_START (R291) The tier sequencer starts a page move and revokes the page. -/
  | tierMoveStart
  /-- PAGE_REVOKE (R293) A revocation sets RP in handles and drops TLB and RDC entries. -/
  | pageRevoke
  /-- REVOCATION_COMPLETE (R293) Every task running at r has yielded or ended after r + 64. -/
  | revocationComplete
  /-- TIER_MOVE_DONE (R291) Data is copied, the shadow entry switched and the status written. -/
  | tierMoveDone
  /-- PFS_ACCEPT (R241) The tier sequencer accepts a prefetch entry or drops it for a near deadline. -/
  | pfsAccept
  /-- QFENCE_DONE (R242) A fence entry completes when every earlier entry of its queues is done. -/
  | qfenceDone
  /-- GATE_PASS_ADMIT (R355) The gate table checks a GPASS and admits it against the token bucket or throttles it. -/
  | gatePassAdmit
  /-- GATE_VERSION_EFFECT (R356) At e(V) the gate's effective version advances and publishes. -/
  | gateVersionEffect
  /-- GATE_REFILL (R355) An active gate's bucket refills at each multiple of 2^N. -/
  | gateRefill
  /-- GATE_TAKE_ARRIVAL (R357) A GTAKE reaches the gate table and completes or waits. -/
  | gateTakeArrival
  /-- GATE_TAKE_COMPLETE (R357) A waiting GTAKE returns the new version and invalidates RDC lines. -/
  | gateTakeComplete
  /-- GATE_STATUS_SAMPLE (R357) A GSTAT samples the gate at the table. -/
  | gateStatusSample
  /-- GATE_CREATE (R353) Loads staged fields into a free gate and makes it active. -/
  | gateCreate
  /-- GATE_UPDATE (R353) Loads ACL and rate fields into an active or frozen gate. -/
  | gateUpdate
  /-- GATE_REVOKE (R353) Revokes a gate and ends its waiters with a gate fault. -/
  | gateRevoke
  /-- GATE_FREE (R353) Zeroes a revoked gate's region and record. -/
  | gateFree
  /-- GATE_FREEZE (R359) Freezes an active gate for migration. -/
  | gateFreeze
  /-- GATE_EXPORT (R360) Writes a frozen gate's record to GADDR and frees it. -/
  | gateExport
  /-- GATE_IMPORT (R359) Makes a frozen or imported gate active again. -/
  | gateImport
  /-- REMOTE_OP_EXECUTE (R396) The peer's home agent checks the export and performs a remote operation. -/
  | remoteOpExecute
  /-- REMOTE_STORE_ARRIVAL (R262) A remote store reaches the peer home agent, duplicates discarded. -/
  | remoteStoreArrival
  /-- RELEASE_FLAG_COMMIT (R262) A release flag takes its home cycle once its N stores are visible. -/
  | releaseFlagCommit
  /-- REMOTE_REPLY_ARRIVAL (R396) A remote reply returns and completes the seam instruction. -/
  | remoteReplyArrival
  /-- WST_ERROR_COMPLETION (R202) A refused window store's error completion raises a capability fault. -/
  | wstErrorCompletion
  /-- HOST_ACCESS_ARRIVAL (R266) A host access reaches its home as an untimed-class access. -/
  | hostAccessArrival
  /-- REQUEST_TIMEOUT (R301) A tier 1–3 request unanswered for 2^20 cycles completes as uncorrectable. -/
  | requestTimeout
  /-- CIM_PARITY_ERROR (R302) The check port finds a CIM parity error and poisons the quadrant. -/
  | cimParityError
  /-- DCFG_WRITE (R276) A domain configuration write is judged field by field and may reconfigure the domain. -/
  | dcfgWrite
  /-- HMASK_WRITE (R276) A hash mask write is accepted only while the domain is out of service. -/
  | hmaskWrite
  /-- RTN_WRITE (R282) An H write to a retention register is accepted only within 12 reserved ways. -/
  | rtnWrite
  /-- DOMAIN_BSY_END (R276) After 6,144 cycles BSY clears and held requests replay. -/
  | domainBsyEnd
  /-- COLL_GROUP_WRITE (R374) A write of V = 1 to a reduction group resets its round counters. -/
  | collGroupWrite
  /-- DIE_RESET (R398) Writing DRST.GO starts a die reset or is refused. -/
  | dieReset
  /-- DIE_RESET_FENCE (R398) At q + 20 neighbours fence their links to the die. -/
  | dieResetFence
  /-- DIE_RESET_EXECUTE (R398) At q + 84 the die resets and is wiped. -/
  | dieResetExecute
  /-- DIE_RESET_COMPLETE (R398) Links retrain, the Beacon reloads and BUSY clears. -/
  | dieResetComplete
  /-- PARTITION_CREATE (R340) Checks and loads a partition record and sets it running. -/
  | partitionCreate
  /-- PARTITION_MODIFY (R348) Changes holdings or core modes, forced or refused as BUSY. -/
  | partitionModify
  /-- PARTITION_RESET (R343) Advances the generation and starts a function-level reset. -/
  | partitionReset
  /-- PARTITION_STOP (R340) Sets STOPP in every task of the partition. -/
  | partitionStop
  /-- PARTITION_RELEASE (R340) Makes stopped tasks ready and sets the partition running. -/
  | partitionRelease
  /-- PARTITION_DESTROY (R340) Resets the partition and frees every holding. -/
  | partitionDestroy
  /-- MFREEZE (R340) Stops the partition, freezes its time and its owned gates for migration. -/
  | mfreeze
  /-- MTHAW (R340) Loads a migrated record, imports gates and resumes partition time. -/
  | mthaw
  /-- RESET_QUIESCE (R343) At t + 20 the partition's sequencers stop, work is discarded and keys replaced. -/
  | resetQuiesce
  /-- RESET_WIPE_COMPLETE (R343) The wipe finishes and the partition becomes stopped. -/
  | resetWipeComplete
  /-- MODIFY_APPLY (R348) A forced MODIFY is applied once every affected half is free. -/
  | modifyApply
  /-- PARTITION_STOP_COMPLETE (R340) All tasks have stopped and STATE becomes stopped. -/
  | partitionStopComplete
  /-- RESOURCE_RETIRE (R349) A failing cluster or slice is retired, replaced by a spare or lost. -/
  | resourceRetire
  /-- DEBUG_FREEZE_REQUEST (R333) The hypervisor requests a freeze at cycle f. -/
  | debugFreezeRequest
  /-- FREEZE_BEGIN (R333) At f partition time stops and every sequencer of the partition stops issuing. -/
  | freezeBegin
  /-- DEBUG_RESUME_REQUEST (R304) The debugger requests resumption of a frozen partition. -/
  | debugResumeRequest
  /-- FREEZE_RESUME (R304) At the next aligned Beacon value partition time resumes and the freeze offset grows. -/
  | freezeResume
  /-- FLIT_RECEIVE (R386) A flit arrives on an Onino link and is accepted or replayed on CRC or authentication failure. -/
  | flitReceive
  /-- LINK_FAIL (R392) A link with no valid flit for 64 cycles or too many replays is marked failed. -/
  | linkFail
  /-- LINK_FAILOVER (R393) Traffic moves to the alternate path and unacknowledged items are resent. -/
  | linkFailover
  /-- ALIGN_COMPLETE (R390) ALIGN's last step ends and DONE is set. -/
  | alignComplete
  /-- VF_REGISTER_WRITE (R402) A host write to a virtual function register without its own row. -/
  | vfRegisterWrite
  /-- SQ_DOORBELL (R403) A write of SQT makes new submission entries available to the hub. -/
  | sqDoorbell
  /-- HOST_LOAD (R408) Verifies a Bruex image and loads it into an image number. -/
  | hostLoad
  /-- HOST_LAUNCH (R403) Submits a launch descriptor into the partition's pool. -/
  | hostLaunch
  /-- HOST_RELEASE (R404) Performs a REL of a sync object on the host's behalf. -/
  | hostRelease
  /-- HOST_UNLOAD (R404) Frees an image number unless it is in use. -/
  | hostUnload
  /-- HOST_QUOTE (R411) Writes a signed attestation quote to partition memory. -/
  | hostQuote
  /-- FUNCTION_LEVEL_RESET (R341) Resets a virtual function's queues, or the partition for its control function. -/
  | functionLevelReset
  /-- ANTI_ROLLBACK_RAISE (R409) Raises an anti-rollback counter after a qualifying image verified. -/
  | antiRollbackRaise
  /-- LIFE_CYCLE_CHANGE (R416) Advances the life-cycle state at boot and wipes the module. -/
  | lifeCycleChange
  /-- POWER_ON_RESET (R417) Runs the boot steps in order and reports failures in BOOTST. -/
  | powerOnReset
  /-- THERMAL_SHUTDOWN (R418) Over-temperature or a supply fault stops all dies at once. -/
  | thermalShutdown
  /-- FATAL_FRAME_FREE (R328) The supervisor frees the frame-pool slot of a task ended by a fatal event after reading its frame. -/
  | fatalFrameFree
  /-- EXPORT_TABLE_WRITE (R395) The hypervisor writes an export-table entry and mints one tagged root capability in the importer's memory. -/
  | exportTableWrite
  /-- MANAGEMENT_TASK_START (R432) The hypervisor starts an image's timetable on a hub management sequencer with the register state of R38. -/
  | managementTaskStart
  /-- OWNER_KEY_ENROL (R409) The enrolment fuse of an owner key slot is blown, which admits the slot's key hash for verification. -/
  | ownerKeyEnrol
  /-- OWNER_KEY_REVOKE (R409) The revocation fuse of an owner key slot is blown, so images signed under that slot no longer verify. -/
  | ownerKeyRevoke
  /-- SRAM_SCRUB (R302) In reserved cycles the device scrubs every scratchpad, L2 and RDC line at least once every 2^24 cycles. -/
  | sramScrub
  deriving DecidableEq, Repr

end Sys2Proof
end

