-- ==== Sys2Proof/WellFormed.lean ====
section
/-! DEFINITION. Which instructions are well formed: those whose fields name something that exists (R90) and whose word the
opcode map assigns (R94 to R97). A row without an encoding has no words and is not well formed as a word. -/

namespace Sys2Proof

/-- The opcodes that the opcode map assigns in engine `e` (R96). -/
def assigned (e op : Nat) : Bool :=
  match e with
  | 0 => op ≤ 20
  | 1 => op ≤ 59
  | 2 => op ≤ 53
  | 3 => op ≤ 24
  | 4 => op ≤ 12
  | 5 => op ≤ 9
  | 6 => op ≤ 32
  | 7 => op ≤ 11
  | _ => false

/-- The instruction has a word: it is a row of the opcode map of R96. -/
def Instr.isWord : Instr → Bool
  | .clampcntWrite => false
  | .fetchWords => false
  | .fetchStarvation => false
  | .iterationBoundary => false
  | .resultLanding => false
  | .loadDataDelivery => false
  | .arrivalViolation => false
  | .accessHomeCycle => false
  | .xltWalkComplete => false
  | .acqGrant => false
  | .relEffect => false
  | .drainComplete => false
  | .sfenceComplete => false
  | .cacheRangeComplete => false
  | .retentionInForce => false
  | .waitbComplete => false
  | .deadlineFault => false
  | .launchReceive => false
  | .schedulerPlacement => false
  | .launchBegin => false
  | .timeSliceEnd => false
  | .yieldHandover => false
  | .fullFrameSave => false
  | .fullFrameSaveEnd => false
  | .fullFrameRestore => false
  | .taskResume => false
  | .nestStep => false
  | .nestEnd => false
  | .nestSafeStop => false
  | .mldbComplete => false
  | .queueEntryArrival => false
  | .queueCreditArrival => false
  | .linkEntryDepart => false
  | .linkEntryArrival => false
  | .asyEntryStart => false
  | .cpyDone => false
  | .cpydDone => false
  | .attentionCommandArrival => false
  | .attentionAccept => false
  | .kappExecute => false
  | .krelExecute => false
  | .contextControl => false
  | .rattAdmission => false
  | .rattRecordWrite => false
  | .attentionCreditRefill => false
  | .mergeDone => false
  | .collArrival => false
  | .collRoundComplete => false
  | .collResultWrite => false
  | .tierMoveStart => false
  | .pageRevoke => false
  | .revocationComplete => false
  | .tierMoveDone => false
  | .pfsAccept => false
  | .qfenceDone => false
  | .gatePassAdmit => false
  | .gateVersionEffect => false
  | .gateRefill => false
  | .gateTakeArrival => false
  | .gateTakeComplete => false
  | .gateStatusSample => false
  | .gateCreate => false
  | .gateUpdate => false
  | .gateRevoke => false
  | .gateFree => false
  | .gateFreeze => false
  | .gateExport => false
  | .gateImport => false
  | .remoteOpExecute => false
  | .remoteStoreArrival => false
  | .releaseFlagCommit => false
  | .remoteReplyArrival => false
  | .wstErrorCompletion => false
  | .hostAccessArrival => false
  | .requestTimeout => false
  | .cimParityError => false
  | .dcfgWrite => false
  | .hmaskWrite => false
  | .rtnWrite => false
  | .domainBsyEnd => false
  | .collGroupWrite => false
  | .dieReset => false
  | .dieResetFence => false
  | .dieResetExecute => false
  | .dieResetComplete => false
  | .partitionCreate => false
  | .partitionModify => false
  | .partitionReset => false
  | .partitionStop => false
  | .partitionRelease => false
  | .partitionDestroy => false
  | .mfreeze => false
  | .mthaw => false
  | .resetQuiesce => false
  | .resetWipeComplete => false
  | .modifyApply => false
  | .partitionStopComplete => false
  | .resourceRetire => false
  | .debugFreezeRequest => false
  | .freezeBegin => false
  | .debugResumeRequest => false
  | .freezeResume => false
  | .flitReceive => false
  | .linkFail => false
  | .linkFailover => false
  | .alignComplete => false
  | .vfRegisterWrite => false
  | .sqDoorbell => false
  | .hostLoad => false
  | .hostLaunch => false
  | .hostRelease => false
  | .hostUnload => false
  | .hostQuote => false
  | .functionLevelReset => false
  | .antiRollbackRaise => false
  | .lifeCycleChange => false
  | .powerOnReset => false
  | .thermalShutdown => false
  | .fatalFrameFree => false
  | .exportTableWrite => false
  | .managementTaskStart => false
  | .ownerKeyEnrol => false
  | .ownerKeyRevoke => false
  | .sramScrub => false
  | _ => true

/-- The check of one instruction's fields. -/
def Instr.fieldsOk : Instr → Bool
  -- i6 and i7 name no loop level (R90, R141)
  | .idx _ l => l.toNat < 6
  -- nest levels 6 and 7, field codes 5 to 7, and role code 3 are not assigned (R209, R210, R211)
  | .mcfg l _ f => l.toNat < 6 && f.toNat < 5
  | .mcfgi l _ _ => l.toNat < 6
  | .msrc _ r _ _ => r.toNat < 3
  -- class 3 takes a literal, so a word of class 3 is one of the untimed rows (R97, R98)
  | .ldg _ _ _ _ m => m.toNat < 3
  | .stg _ _ _ _ m => m.toNat < 3
  | .ldgs _ _ _ _ m => m.toNat < 3
  | .stgs _ _ _ _ m => m.toNat < 3
  | .ldt _ _ _ _ m => m.toNat < 3
  | .stq _ _ _ _ m => m.toNat < 3
  | .stnt _ _ _ _ m => m.toNat < 3
  | .ldge _ _ _ _ m => m.toNat < 3
  | .ldte _ _ _ _ m => m.toNat < 3
  | .kld _ _ _ m => m.toNat < 3
  | .kst _ _ _ m => m.toNat < 3
  -- selectors and operation codes that are not assigned (R182, R191, R228, R171)
  | .hinfo _ _ s => s.toNat < 3
  | .vatom _ _ o => o.toNat < 7
  | .qrsv _ n => n.toNat ≤ 16
  | .vqnt _ _ _ f => f.toNat < 5
  -- groups of g registers that run past g63 (R190, R200, R201, R232)
  | .acas g _ _ _ => g.toNat < 63
  | .rcas2 g _ _ n => g.toNat + 2 * (n.toNat + 1) ≤ 63
  | .rchase g _ _ => g.toNat < 63
  | .knarrow _ _ g => g.toNat < 63
  | .cpy _ _ g _ => g.toNat + 3 ≤ 63
  | .cpyd _ _ g _ => g.toNat + 5 ≤ 63
  | .merge _ g => g.toNat + 3 ≤ 63
  | .coll _ _ g => g.toNat + 1 ≤ 63
  | .tier _ _ g => g.toNat + 1 ≤ 63
  | .pfs _ _ g => g.toNat + 3 ≤ 63
  -- a loop body has at least one word (R118)
  | .loop _ len => 0 < len.toNat
  | .loopi _ len => 0 < len.toNat
  -- an unassigned word is one whose OP its engine does not assign (R94)
  | .unassignedOpcode w => !assigned (w.toNat / 2 ^ 29) (w.toNat / 2 ^ 20 % 64)
  | _ => true

/-- An instruction is well formed when it has a word and its fields name something that exists. -/
def Instr.wellFormed (i : Instr) : Bool := i.isWord && i.fieldsOk

end Sys2Proof
end

