-- ==== Sys2Proof/Decode.lean ====
section
/-! DEFINITION. The decoder of Torsuzar words (R87 to R100) and, after it, the encoder. Both are written from the opcode
map of R96, the forms of R88 and the literals of R97. -/

namespace Sys2Proof

/-- Why a word is no instruction: each is the illegal-instruction fault of R93 or R94. -/
inductive Reject where
  /-- OP is not assigned in the word's engine (R94). -/
  | unassigned
  /-- The owner's literal lies outside the addressable range (R93). -/
  | literalAbsent
  /-- The word after the owner carries a different E (R93). -/
  | literalEngine
  /-- Fewer than four bytes are left. -/
  | truncated
  deriving DecidableEq, Repr

/-- A decoded word: the instruction, its engine and delay fields (R87), how many words it takes (R92), whether a reserved
bit was non-zero (R94) and whether a modifier took the fallback of R100 in the decoder. -/
structure Decoded where
  ins : Instr
  eng : Nat
  dly : Nat
  len : Nat := 1
  rsvd : Bool := false
  fb : Bool := false
  deriving DecidableEq, Repr

/-- Bits [lo + n - 1 : lo] of `w` (R7). -/
def fld (w lo n : Nat) : BitVec n := BitVec.ofNat n (w / 2 ^ lo)

/-- Whether bits [lo + n - 1 : lo] of `w` are non-zero. -/
def nz (w lo n : Nat) : Bool := w / 2 ^ lo % 2 ^ n != 0

/-- Engine field E of a word (R87). -/
def engOf (w : Nat) : Nat := w / 2 ^ 29 % 8
/-- Delay field D of a word (R87). -/
def dlyOf (w : Nat) : Nat := w / 2 ^ 26 % 8
/-- Opcode field OP of a word (R87). -/
def opOf (w : Nat) : Nat := w / 2 ^ 20 % 64

/-- A word without a literal. -/
def dec1 (w : Nat) (i : Instr) (rsvd : Bool) (fb : Bool := false) : Except Reject Decoded :=
  .ok { ins := i, eng := engOf w, dly := dlyOf w, len := 1, rsvd := rsvd, fb := fb }

/-- A word with one literal: the literal carries the owner's E (R92, R93). -/
def dec2 (w : Nat) (lit : Option Nat) (f : Nat → Instr × Bool) : Except Reject Decoded :=
  match lit with
  | none => .error .literalAbsent
  | some l =>
    if engOf l = engOf w then
      .ok { ins := (f l).1, eng := engOf w, dly := dlyOf w, len := 2, rsvd := (f l).2, fb := false }
    else .error .literalEngine

/-- The opcodes of column CTL, E = 0 (R96). -/
def decodeCtl (w : Nat) (lit : Option Nat) : Except Reject Decoded :=
  match opOf w with
  | 0 => dec1 w (.nop (fld w 29 3)) (nz w 0 20)
  | 1 => dec1 w (.wait (fld w 29 3) (fld w 0 14)) (nz w 14 6)
  | 2 => dec1 w (.br (fld w 0 20)) (false)
  | 3 => dec1 w (.brp (fld w 14 5) (fld w 0 14)) (nz w 19 1)
  | 4 => dec1 w (.call (fld w 0 20)) (false)
  | 5 => dec1 w (.ret (fld w 14 6)) (nz w 0 14)
  | 6 => dec2 w lit (fun l => (.loop (fld w 14 6) (fld l 0 16), nz w 0 14 || nz l 16 13))
  | 7 => dec2 w lit (fun l => (.loopi (fld w 0 20) (fld l 0 16), nz l 16 13))
  | 8 => dec1 w (.lbrk (fld w 14 6) (fld w 0 14)) (false)
  | 9 => dec2 w lit (fun l => (.yield (fld w 0 14) (fld l 0 29), nz w 14 6))
  | 10 => dec1 w (.seam) (nz w 0 20)
  | 11 => dec1 w (.waitb (fld w 14 6)) (nz w 0 14)
  | 12 => dec1 w (.align) (nz w 0 20)
  | 13 => dec1 w (.launch (fld w 14 4) (fld w 8 4) (fld w 2 6)) (nz w 0 2 || nz w 12 2 || nz w 18 2)
  | 14 => dec1 w (.endTask) (nz w 0 20)
  | 15 => dec1 w (.trap (fld w 0 14)) (nz w 14 6)
  | 16 => dec1 w (.eret) (nz w 0 20)
  | 17 => dec1 w (.bkpt (fld w 0 14)) (nz w 14 6)
  | 18 => dec1 w (.smode (fld w 0 1)) (nz w 1 19)
  | 19 => dec1 w (.rdsr (fld w 14 6) (fld w 0 14)) (false)
  | 20 => dec1 w (.wrsr (fld w 14 6) (fld w 0 14)) (false)
  | _ => .error .unassigned

/-- The opcodes of column SCA, E = 1 (R96). -/
def decodeSca (w : Nat) (lit : Option Nat) : Except Reject Decoded :=
  match opOf w with
  | 0 => dec1 w (.nop (fld w 29 3)) (nz w 0 20)
  | 1 => dec1 w (.wait (fld w 29 3) (fld w 0 14)) (nz w 14 6)
  | 2 => dec1 w (.add (fld w 14 6) (fld w 8 6) (fld w 2 6)) (nz w 0 2)
  | 3 => dec1 w (.sub (fld w 14 6) (fld w 8 6) (fld w 2 6)) (nz w 0 2)
  | 4 => dec1 w (.addi (fld w 14 6) (fld w 8 6) (fld w 0 8)) (false)
  | 5 => dec1 w (.mul (fld w 14 6) (fld w 8 6) (fld w 2 6)) (nz w 0 2)
  | 6 => dec1 w (.mulhs (fld w 14 6) (fld w 8 6) (fld w 2 6)) (nz w 0 2)
  | 7 => dec1 w (.mulhz (fld w 14 6) (fld w 8 6) (fld w 2 6)) (nz w 0 2)
  | 8 => dec1 w (.divs (fld w 14 6) (fld w 8 6) (fld w 2 6)) (nz w 0 2)
  | 9 => dec1 w (.divz (fld w 14 6) (fld w 8 6) (fld w 2 6)) (nz w 0 2)
  | 10 => dec1 w (.rems (fld w 14 6) (fld w 8 6) (fld w 2 6)) (nz w 0 2)
  | 11 => dec1 w (.remz (fld w 14 6) (fld w 8 6) (fld w 2 6)) (nz w 0 2)
  | 12 => dec1 w (.and (fld w 14 6) (fld w 8 6) (fld w 2 6)) (nz w 0 2)
  | 13 => dec1 w (.or (fld w 14 6) (fld w 8 6) (fld w 2 6)) (nz w 0 2)
  | 14 => dec1 w (.xor (fld w 14 6) (fld w 8 6) (fld w 2 6)) (nz w 0 2)
  | 15 => dec1 w (.andn (fld w 14 6) (fld w 8 6) (fld w 2 6)) (nz w 0 2)
  | 16 => dec1 w (.shl (fld w 14 6) (fld w 8 6) (fld w 2 6)) (nz w 0 2)
  | 17 => dec1 w (.shr (fld w 14 6) (fld w 8 6) (fld w 2 6)) (nz w 0 2)
  | 18 => dec1 w (.sar (fld w 14 6) (fld w 8 6) (fld w 2 6)) (nz w 0 2)
  | 19 => dec1 w (.ror (fld w 14 6) (fld w 8 6) (fld w 2 6)) (nz w 0 2)
  | 20 => dec1 w (.shli (fld w 14 6) (fld w 8 6) (fld w 0 6)) (nz w 6 2)
  | 21 => dec1 w (.shri (fld w 14 6) (fld w 8 6) (fld w 0 6)) (nz w 6 2)
  | 22 => dec1 w (.sari (fld w 14 6) (fld w 8 6) (fld w 0 6)) (nz w 6 2)
  | 23 => dec1 w (.mins (fld w 14 6) (fld w 8 6) (fld w 2 6)) (nz w 0 2)
  | 24 => dec1 w (.maxs (fld w 14 6) (fld w 8 6) (fld w 2 6)) (nz w 0 2)
  | 25 => dec1 w (.minz (fld w 14 6) (fld w 8 6) (fld w 2 6)) (nz w 0 2)
  | 26 => dec1 w (.maxz (fld w 14 6) (fld w 8 6) (fld w 2 6)) (nz w 0 2)
  | 27 => dec1 w (.clz (fld w 14 6) (fld w 8 6)) (nz w 0 8)
  | 28 => dec1 w (.popc (fld w 14 6) (fld w 8 6)) (nz w 0 8)
  | 29 => dec1 w (.movi (fld w 14 6) (fld w 0 14)) (false)
  | 30 => dec2 w lit (fun l => (.movx (fld w 14 6) (fld w 0 14) (fld l 0 29), false))
  | 31 => dec2 w lit (fun l => (.movhx (fld w 14 6) (fld w 0 3) (fld l 0 29), nz w 3 11))
  | 32 => dec1 w (.cmpeq (fld w 14 4) (fld w 8 6) (fld w 2 6)) (nz w 0 2 || nz w 18 2)
  | 33 => dec1 w (.cmpne (fld w 14 4) (fld w 8 6) (fld w 2 6)) (nz w 0 2 || nz w 18 2)
  | 34 => dec1 w (.cmplts (fld w 14 4) (fld w 8 6) (fld w 2 6)) (nz w 0 2 || nz w 18 2)
  | 35 => dec1 w (.cmples (fld w 14 4) (fld w 8 6) (fld w 2 6)) (nz w 0 2 || nz w 18 2)
  | 36 => dec1 w (.cmpltz (fld w 14 4) (fld w 8 6) (fld w 2 6)) (nz w 0 2 || nz w 18 2)
  | 37 => dec1 w (.cmplez (fld w 14 4) (fld w 8 6) (fld w 2 6)) (nz w 0 2 || nz w 18 2)
  | 38 => dec1 w (.cmpeqi (fld w 14 4) (fld w 8 6) (fld w 0 8)) (nz w 18 2)
  | 39 => dec1 w (.cmpltsi (fld w 14 4) (fld w 8 6) (fld w 0 8)) (nz w 18 2)
  | 40 => dec1 w (.sel (fld w 14 6) (fld w 8 6) (fld w 2 6) (fld w 0 2)) (false)
  | 41 => dec1 w (.pand (fld w 14 4) (fld w 8 5) (fld w 2 5)) (nz w 0 2 || nz w 7 1 || nz w 13 1 || nz w 18 2)
  | 42 => dec1 w (.por (fld w 14 4) (fld w 8 5) (fld w 2 5)) (nz w 0 2 || nz w 7 1 || nz w 13 1 || nz w 18 2)
  | 43 => dec1 w (.pxor (fld w 14 4) (fld w 8 5) (fld w 2 5)) (nz w 0 2 || nz w 7 1 || nz w 13 1 || nz w 18 2)
  | 44 => dec1 w (.pnot (fld w 14 4) (fld w 8 5)) (nz w 0 8 || nz w 13 1 || nz w 18 2)
  | 45 => dec1 w (.idx (fld w 14 6) (fld w 8 3)) (nz w 0 8 || nz w 11 3)
  | 46 => dec1 w (.sext (fld w 14 6) (fld w 8 6) (fld w 0 6)) (nz w 6 2)
  | 47 => dec1 w (.zext (fld w 14 6) (fld w 8 6) (fld w 0 6)) (nz w 6 2)
  | 48 =>
    if w / 2 % 2 = 1 then dec2 w lit (fun l => (.faddLiteral (fld w 14 6) (fld w 8 6) (fld w 2 6) (fld w 0 1) (fld l 0 2), nz l 2 27))
    else dec1 w (.fadd (fld w 14 6) (fld w 8 6) (fld w 2 6) (fld w 0 1)) (false)
  | 49 =>
    if w / 2 % 2 = 1 then dec2 w lit (fun l => (.fsubLiteral (fld w 14 6) (fld w 8 6) (fld w 2 6) (fld w 0 1) (fld l 0 2), nz l 2 27))
    else dec1 w (.fsub (fld w 14 6) (fld w 8 6) (fld w 2 6) (fld w 0 1)) (false)
  | 50 =>
    if w / 2 % 2 = 1 then dec2 w lit (fun l => (.fmulLiteral (fld w 14 6) (fld w 8 6) (fld w 2 6) (fld w 0 1) (fld l 0 2), nz l 2 27))
    else dec1 w (.fmul (fld w 14 6) (fld w 8 6) (fld w 2 6) (fld w 0 1)) (false)
  | 51 =>
    if w / 2 % 2 = 1 then dec2 w lit (fun l => (.ffmaLiteral (fld w 14 6) (fld w 8 6) (fld w 2 6) (fld w 0 1) (fld l 0 2), nz l 2 27))
    else dec1 w (.ffma (fld w 14 6) (fld w 8 6) (fld w 2 6) (fld w 0 1)) (false)
  | 52 =>
    if w / 2 % 2 = 1 then dec2 w lit (fun l => (.fdivLiteral (fld w 14 6) (fld w 8 6) (fld w 2 6) (fld w 0 1) (fld l 0 2), nz l 2 27))
    else dec1 w (.fdiv (fld w 14 6) (fld w 8 6) (fld w 2 6) (fld w 0 1)) (false)
  | 53 =>
    if w / 2 % 2 = 1 then dec2 w lit (fun l => (.fsqrtLiteral (fld w 14 6) (fld w 8 6) (fld w 0 1) (fld l 0 2), nz w 2 6 || nz l 2 27))
    else dec1 w (.fsqrt (fld w 14 6) (fld w 8 6) (fld w 0 1)) (nz w 2 6)
  | 54 => dec2 w lit (fun l => (.fcvt (fld w 14 6) (fld w 8 6) (fld l 0 4) (fld l 4 4) (fld l 8 2), nz w 0 8 || nz l 10 19))
  | 55 => dec1 w (.fcmplt (fld w 14 4) (fld w 8 6) (fld w 2 6) (fld w 0 1)) (nz w 18 2) (nz w 1 1)
  | 56 => dec1 w (.fcmpeq (fld w 14 4) (fld w 8 6) (fld w 2 6) (fld w 0 1)) (nz w 18 2) (nz w 1 1)
  | 57 => dec1 w (.fmin (fld w 14 6) (fld w 8 6) (fld w 2 6) (fld w 0 1)) (false) (nz w 1 1)
  | 58 => dec1 w (.fmax (fld w 14 6) (fld w 8 6) (fld w 2 6) (fld w 0 1)) (false) (nz w 1 1)
  | 59 => dec1 w (.beac (fld w 14 6)) (nz w 0 14)
  | _ => .error .unassigned

/-- The opcodes of column VEC, E = 2 (R96). -/
def decodeVec (w : Nat) (lit : Option Nat) : Except Reject Decoded :=
  match opOf w with
  | 0 => dec1 w (.nop (fld w 29 3)) (nz w 0 20)
  | 1 => dec1 w (.wait (fld w 29 3) (fld w 0 14)) (nz w 14 6)
  | 2 => dec2 w lit (fun l => (.shape (fld l 0 18), nz w 0 20 || nz l 18 11))
  | 3 => dec1 w (.vadd (fld w 15 5) (fld w 10 5) (fld w 5 5) (fld w 2 3) (fld w 0 2)) (false)
  | 4 => dec1 w (.vsub (fld w 15 5) (fld w 10 5) (fld w 5 5) (fld w 2 3) (fld w 0 2)) (false)
  | 5 => dec1 w (.vmul (fld w 15 5) (fld w 10 5) (fld w 5 5) (fld w 2 3) (fld w 0 2)) (false)
  | 6 => dec1 w (.vfma (fld w 15 5) (fld w 10 5) (fld w 5 5) (fld w 2 3) (fld w 0 2)) (false)
  | 7 => dec1 w (.vfms (fld w 15 5) (fld w 10 5) (fld w 5 5) (fld w 2 3) (fld w 0 2)) (false)
  | 8 => dec1 w (.vmin (fld w 15 5) (fld w 10 5) (fld w 5 5) (fld w 2 3) (fld w 0 2)) (false)
  | 9 => dec1 w (.vmax (fld w 15 5) (fld w 10 5) (fld w 5 5) (fld w 2 3) (fld w 0 2)) (false)
  | 10 => dec1 w (.vabs (fld w 15 5) (fld w 10 5) (fld w 2 3) (fld w 0 2)) (nz w 5 5)
  | 11 => dec1 w (.vneg (fld w 15 5) (fld w 10 5) (fld w 2 3) (fld w 0 2)) (nz w 5 5)
  | 12 => dec1 w (.vand (fld w 15 5) (fld w 10 5) (fld w 5 5) (fld w 2 3) (fld w 0 2)) (false)
  | 13 => dec1 w (.vor (fld w 15 5) (fld w 10 5) (fld w 5 5) (fld w 2 3) (fld w 0 2)) (false)
  | 14 => dec1 w (.vxor (fld w 15 5) (fld w 10 5) (fld w 5 5) (fld w 2 3) (fld w 0 2)) (false)
  | 15 => dec1 w (.vnot (fld w 15 5) (fld w 10 5) (fld w 2 3) (fld w 0 2)) (nz w 5 5)
  | 16 => dec1 w (.vshl (fld w 15 5) (fld w 10 5) (fld w 5 5) (fld w 2 3) (fld w 0 2)) (false)
  | 17 => dec1 w (.vshr (fld w 15 5) (fld w 10 5) (fld w 5 5) (fld w 2 3) (fld w 0 2)) (false)
  | 18 => dec1 w (.vsar (fld w 15 5) (fld w 10 5) (fld w 5 5) (fld w 2 3) (fld w 0 2)) (false)
  | 19 => dec1 w (.vcmpeq (fld w 15 3) (fld w 10 5) (fld w 5 5) (fld w 2 3) (fld w 0 2)) (nz w 18 2)
  | 20 => dec1 w (.vcmplt (fld w 15 3) (fld w 10 5) (fld w 5 5) (fld w 2 3) (fld w 0 2)) (nz w 18 2)
  | 21 => dec1 w (.vcmple (fld w 15 3) (fld w 10 5) (fld w 5 5) (fld w 2 3) (fld w 0 2)) (nz w 18 2)
  | 22 => dec1 w (.vsel (fld w 15 5) (fld w 10 5) (fld w 5 5) (fld w 2 3) (fld w 0 2)) (false)
  | 23 => dec1 w (.vmov (fld w 15 5) (fld w 10 5) (fld w 2 3) (fld w 0 2)) (nz w 5 5)
  | 24 => dec1 w (.vfill (fld w 15 5) (fld w 10 5) (fld w 2 3) (fld w 0 2)) (nz w 5 5)
  | 25 => dec1 w (.vbrow (fld w 15 5) (fld w 10 5) (fld w 5 5) (fld w 2 3) (fld w 0 2)) (false)
  | 26 => dec1 w (.vbcol (fld w 15 5) (fld w 10 5) (fld w 5 5) (fld w 2 3) (fld w 0 2)) (false)
  | 27 => dec1 w (.vrsum (fld w 15 5) (fld w 10 5) (fld w 2 3) (fld w 0 2)) (nz w 5 5)
  | 28 => dec1 w (.vrmax (fld w 15 5) (fld w 10 5) (fld w 2 3) (fld w 0 2)) (nz w 5 5)
  | 29 => dec1 w (.vcsum (fld w 15 5) (fld w 10 5) (fld w 2 3) (fld w 0 2)) (nz w 5 5)
  | 30 => dec1 w (.vcmax (fld w 15 5) (fld w 10 5) (fld w 2 3) (fld w 0 2)) (nz w 5 5)
  | 31 => dec1 w (.vtrn (fld w 15 5) (fld w 10 5) (fld w 2 3) (fld w 0 2)) (nz w 5 5)
  | 32 => dec1 w (.vzip2 (fld w 15 5) (fld w 10 5) (fld w 2 3) (fld w 0 2)) (nz w 5 5)
  | 33 => dec1 w (.vzip3 (fld w 15 5) (fld w 10 5) (fld w 2 3) (fld w 0 2)) (nz w 5 5)
  | 34 => dec1 w (.vzip4 (fld w 15 5) (fld w 10 5) (fld w 2 3) (fld w 0 2)) (nz w 5 5)
  | 35 => dec1 w (.vunz2 (fld w 15 5) (fld w 10 5) (fld w 2 3) (fld w 0 2)) (nz w 5 5)
  | 36 => dec1 w (.vunz3 (fld w 15 5) (fld w 10 5) (fld w 2 3) (fld w 0 2)) (nz w 5 5)
  | 37 => dec1 w (.vunz4 (fld w 15 5) (fld w 10 5) (fld w 2 3) (fld w 0 2)) (nz w 5 5)
  | 38 => dec1 w (.vperm (fld w 15 5) (fld w 10 5) (fld w 5 5) (fld w 2 3) (fld w 0 2)) (false)
  | 39 => dec1 w (.vrot (fld w 15 5) (fld w 10 5) (fld w 5 5) (fld w 2 3) (fld w 0 2)) (false)
  | 40 => dec1 w (.vcvt (fld w 15 5) (fld w 10 5) (fld w 5 4) (fld w 2 3) (fld w 0 2)) (nz w 9 1)
  | 41 => dec1 w (.vqnt (fld w 15 5) (fld w 10 5) (fld w 5 4) (fld w 2 3)) (nz w 0 2 || nz w 9 1)
  | 42 => dec1 w (.vamx (fld w 15 4) (fld w 10 5) (fld w 2 3)) (nz w 0 2 || nz w 5 5 || nz w 19 1)
  | 43 => dec1 w (.vrcpa (fld w 15 5) (fld w 10 5) (fld w 2 3)) (nz w 0 2 || nz w 5 5)
  | 44 => dec1 w (.vrsqa (fld w 15 5) (fld w 10 5) (fld w 2 3)) (nz w 0 2 || nz w 5 5)
  | 45 => dec1 w (.vexp2 (fld w 15 5) (fld w 10 5) (fld w 2 3)) (nz w 0 2 || nz w 5 5)
  | 46 => dec1 w (.vlog2 (fld w 15 5) (fld w 10 5) (fld w 2 3)) (nz w 0 2 || nz w 5 5)
  | 47 => dec1 w (.vtanh (fld w 15 5) (fld w 10 5) (fld w 2 3)) (nz w 0 2 || nz w 5 5)
  | 48 => dec1 w (.vgte (fld w 15 5) (fld w 10 5) (fld w 5 5) (fld w 2 3) (fld w 0 2)) (false)
  | 49 => dec1 w (.vpte (fld w 15 5) (fld w 10 5) (fld w 5 5) (fld w 2 3) (fld w 0 2)) (false)
  | 50 => dec1 w (.vmskop (fld w 18 2) (fld w 15 3) (fld w 10 3) (fld w 5 3) (fld w 2 3) (fld w 0 2)) (nz w 8 2 || nz w 13 2)
  | 51 => dec1 w (.viota (fld w 15 5) (fld w 10 5) (fld w 5 2) (fld w 2 3) (fld w 0 2)) (nz w 7 3)
  | 52 => dec1 w (.vrdot (fld w 15 5) (fld w 10 5) (fld w 5 5) (fld w 2 3) (fld w 0 2)) (false)
  | 53 => dec1 w (.vclamp (fld w 15 5) (fld w 10 5) (fld w 5 5) (fld w 2 3) (fld w 0 2)) (false)
  | _ => .error .unassigned

/-- The opcodes of column MEM, E = 3 (R96). -/
def decodeMem (w : Nat) (lit : Option Nat) : Except Reject Decoded :=
  match opOf w with
  | 0 => dec1 w (.nop (fld w 29 3)) (nz w 0 20)
  | 1 => dec1 w (.wait (fld w 29 3) (fld w 0 14)) (nz w 14 6)
  | 2 =>
    if w % 2 = 1 then dec1 w (.xltNw (fld w 14 4) (fld w 8 6)) (nz w 1 7 || nz w 18 2)
    else dec1 w (.xlt (fld w 14 4) (fld w 8 6)) (nz w 1 7 || nz w 18 2)
  | 3 => dec1 w (.hrel (fld w 14 4)) (nz w 0 14 || nz w 18 2)
  | 4 => dec1 w (.hchk (fld w 14 4) (fld w 8 4)) (nz w 0 8 || nz w 12 2 || nz w 18 2)
  | 5 => dec1 w (.hinfo (fld w 14 6) (fld w 8 4) (fld w 2 2)) (nz w 0 2 || nz w 4 4 || nz w 12 2)
  | 6 => dec1 w (.lds (fld w 14 5) (fld w 8 6) (fld w 2 6)) (nz w 19 1) (nz w 0 2)
  | 7 => dec1 w (.sts (fld w 14 5) (fld w 8 6) (fld w 2 6)) (nz w 19 1) (nz w 0 2)
  | 8 => dec1 w (.ldsg (fld w 14 6) (fld w 8 6) (fld w 2 6)) (false) (nz w 0 2)
  | 9 => dec1 w (.stsg (fld w 14 6) (fld w 8 6) (fld w 2 6)) (false) (nz w 0 2)
  | 10 =>
    if w % 4 = 3 then dec2 w lit (fun l => (.ldgUnt (fld w 19 1) (fld w 14 5) (fld w 8 4) (fld w 2 6) (fld l 0 29), nz w 12 2))
    else dec1 w (.ldg (fld w 19 1) (fld w 14 5) (fld w 8 4) (fld w 2 6) (fld w 0 2)) (nz w 12 2)
  | 11 =>
    if w % 4 = 3 then dec2 w lit (fun l => (.stgUnt (fld w 19 1) (fld w 14 5) (fld w 8 4) (fld w 2 6) (fld l 0 29), nz w 12 2))
    else dec1 w (.stg (fld w 19 1) (fld w 14 5) (fld w 8 4) (fld w 2 6) (fld w 0 2)) (nz w 12 2)
  | 12 =>
    if w % 4 = 3 then dec2 w lit (fun l => (.ldgsUnt (fld w 19 1) (fld w 14 5) (fld w 8 4) (fld w 2 6) (fld l 0 29), nz w 12 2))
    else dec1 w (.ldgs (fld w 19 1) (fld w 14 5) (fld w 8 4) (fld w 2 6) (fld w 0 2)) (nz w 12 2)
  | 13 =>
    if w % 4 = 3 then dec2 w lit (fun l => (.stgsUnt (fld w 19 1) (fld w 14 5) (fld w 8 4) (fld w 2 6) (fld l 0 29), nz w 12 2))
    else dec1 w (.stgs (fld w 19 1) (fld w 14 5) (fld w 8 4) (fld w 2 6) (fld w 0 2)) (nz w 12 2)
  | 14 =>
    if w % 4 = 3 then dec2 w lit (fun l => (.ldtUnt (fld w 19 1) (fld w 14 5) (fld w 8 4) (fld w 2 6) (fld l 0 29), nz w 12 2))
    else dec1 w (.ldt (fld w 19 1) (fld w 14 5) (fld w 8 4) (fld w 2 6) (fld w 0 2)) (nz w 12 2)
  | 15 =>
    if w % 4 = 3 then dec2 w lit (fun l => (.stqUnt (fld w 19 1) (fld w 14 5) (fld w 8 4) (fld w 2 6) (fld l 0 29), nz w 12 2))
    else dec1 w (.stq (fld w 19 1) (fld w 14 5) (fld w 8 4) (fld w 2 6) (fld w 0 2)) (nz w 12 2)
  | 16 =>
    if w % 4 = 3 then dec2 w lit (fun l => (.stntUnt (fld w 19 1) (fld w 14 5) (fld w 8 4) (fld w 2 6) (fld l 0 29), nz w 12 2))
    else dec1 w (.stnt (fld w 19 1) (fld w 14 5) (fld w 8 4) (fld w 2 6) (fld w 0 2)) (nz w 12 2)
  | 17 => dec1 w (.drain) (nz w 0 20)
  | 18 => dec1 w (.pfl (fld w 14 4) (fld w 8 6) (fld w 2 6)) (nz w 0 2 || nz w 18 2)
  | 19 => dec1 w (.cwbr (fld w 14 4) (fld w 8 6) (fld w 2 6)) (nz w 0 2 || nz w 18 2)
  | 20 => dec1 w (.cinvr (fld w 14 4) (fld w 8 6) (fld w 2 6)) (nz w 0 2 || nz w 18 2)
  | 21 => dec1 w (.rpin (fld w 14 3) (fld w 8 4) (fld w 2 6)) (nz w 0 2 || nz w 12 2 || nz w 17 3)
  | 22 => dec1 w (.runpin (fld w 14 3) (fld w 8 4)) (nz w 0 8 || nz w 12 2 || nz w 17 3)
  | 23 =>
    if w % 4 = 3 then dec2 w lit (fun l => (.ldgeUnt (fld w 19 1) (fld w 14 5) (fld w 8 4) (fld w 2 6) (fld l 0 29), nz w 12 2))
    else dec1 w (.ldge (fld w 19 1) (fld w 14 5) (fld w 8 4) (fld w 2 6) (fld w 0 2)) (nz w 12 2)
  | 24 =>
    if w % 4 = 3 then dec2 w lit (fun l => (.ldteUnt (fld w 19 1) (fld w 14 5) (fld w 8 4) (fld w 2 6) (fld l 0 29), nz w 12 2))
    else dec1 w (.ldte (fld w 19 1) (fld w 14 5) (fld w 8 4) (fld w 2 6) (fld w 0 2)) (nz w 12 2)
  | _ => .error .unassigned

/-- The opcodes of column MAT, E = 4 (R96). -/
def decodeMat (w : Nat) (lit : Option Nat) : Except Reject Decoded :=
  match opOf w with
  | 0 => dec1 w (.nop (fld w 29 3)) (nz w 0 20)
  | 1 => dec1 w (.wait (fld w 29 3) (fld w 0 14)) (nz w 14 6)
  | 2 => dec1 w (.mcfg (fld w 14 3) (fld w 8 6) (fld w 2 3)) (nz w 0 2 || nz w 5 3 || nz w 17 3)
  | 3 => dec2 w lit (fun l => (.mcfgi (fld w 14 3) (fld w 0 2) (fld l 0 20), nz w 17 3 || nz w 2 12 || nz l 20 9))
  | 4 => dec1 w (.msrc (fld w 16 3) (fld w 14 2) (fld w 8 6) (fld w 0 8)) (nz w 19 1)
  | 5 => dec1 w (.mfmt (fld w 14 4) (fld w 8 4) (fld w 4 4) (fld w 0 4)) (nz w 12 2 || nz w 18 2)
  | 6 => dec1 w (.mldb (fld w 14 6) (fld w 8 4)) (nz w 0 8 || nz w 12 2)
  | 7 => dec1 w (.mgo) (nz w 0 20)
  | 8 => dec1 w (.mclr (fld w 14 6) (fld w 8 6)) (nz w 0 8)
  | 9 => dec1 w (.mrd (fld w 14 5) (fld w 8 6) (fld w 2 6) (fld w 0 2)) (nz w 19 1)
  | 10 => dec1 w (.mwr (fld w 14 5) (fld w 8 6) (fld w 2 6) (fld w 0 2)) (nz w 19 1)
  | 11 => dec1 w (.mfuse (fld w 14 4) (fld w 0 1)) (nz w 1 13 || nz w 18 2)
  | 12 => dec1 w (.mdur (fld w 14 6)) (nz w 0 14)
  | _ => .error .unassigned

/-- The opcodes of column QUE, E = 5 (R96). -/
def decodeQue (w : Nat) (lit : Option Nat) : Except Reject Decoded :=
  match opOf w with
  | 0 => dec1 w (.nop (fld w 29 3)) (nz w 0 20)
  | 1 => dec1 w (.wait (fld w 29 3) (fld w 0 14)) (nz w 14 6)
  | 2 => dec1 w (.qpush (fld w 14 4) (fld w 8 5) (fld w 2 2)) (nz w 0 2 || nz w 4 4 || nz w 13 1 || nz w 18 2)
  | 3 => dec1 w (.qpop (fld w 14 5) (fld w 8 4) (fld w 2 2)) (nz w 0 2 || nz w 4 4 || nz w 12 2 || nz w 19 1)
  | 4 => dec1 w (.qrsv (fld w 14 4) (fld w 0 8)) (nz w 8 6 || nz w 18 2)
  | 5 => dec1 w (.qbind (fld w 14 4) (fld w 8 6)) (nz w 0 8 || nz w 18 2)
  | 6 => dec1 w (.lksend (fld w 14 4) (fld w 8 5) (fld w 2 2)) (nz w 0 2 || nz w 4 4 || nz w 13 1 || nz w 18 2)
  | 7 => dec1 w (.lkrecv (fld w 14 5) (fld w 8 4) (fld w 2 2)) (nz w 0 2 || nz w 4 4 || nz w 12 2 || nz w 19 1)
  | 8 => dec1 w (.lkbind (fld w 14 4) (fld w 8 6)) (nz w 0 8 || nz w 18 2)
  | 9 => dec1 w (.qdepth (fld w 14 6) (fld w 12 1) (fld w 8 4)) (nz w 0 8 || nz w 13 1)
  | _ => .error .unassigned

/-- The opcodes of column SYN, E = 6 (R96). -/
def decodeSyn (w : Nat) (lit : Option Nat) : Except Reject Decoded :=
  match opOf w with
  | 0 => dec1 w (.nop (fld w 29 3)) (nz w 0 20)
  | 1 => dec1 w (.wait (fld w 29 3) (fld w 0 14)) (nz w 14 6)
  | 2 => dec1 w (.aadd (fld w 14 6) (fld w 8 4) (fld w 2 6) (fld w 0 1)) (nz w 1 1 || nz w 12 2)
  | 3 => dec1 w (.aand (fld w 14 6) (fld w 8 4) (fld w 2 6) (fld w 0 1)) (nz w 1 1 || nz w 12 2)
  | 4 => dec1 w (.aor (fld w 14 6) (fld w 8 4) (fld w 2 6) (fld w 0 1)) (nz w 1 1 || nz w 12 2)
  | 5 => dec1 w (.axor (fld w 14 6) (fld w 8 4) (fld w 2 6) (fld w 0 1)) (nz w 1 1 || nz w 12 2)
  | 6 => dec1 w (.amin (fld w 14 6) (fld w 8 4) (fld w 2 6) (fld w 1 1) (fld w 0 1)) (nz w 12 2)
  | 7 => dec1 w (.amax (fld w 14 6) (fld w 8 4) (fld w 2 6) (fld w 1 1) (fld w 0 1)) (nz w 12 2)
  | 8 => dec1 w (.aswp (fld w 14 6) (fld w 8 4) (fld w 2 6) (fld w 0 1)) (nz w 1 1 || nz w 12 2)
  | 9 => dec1 w (.acas (fld w 14 6) (fld w 8 4) (fld w 2 6) (fld w 0 1)) (nz w 1 1 || nz w 12 2)
  | 10 => dec1 w (.vatom (fld w 14 5) (fld w 8 5) (fld w 2 3)) (nz w 0 2 || nz w 5 3 || nz w 13 1 || nz w 19 1)
  | 11 =>
    if w / 2 % 2 = 1 then dec1 w (.acqTry (fld w 14 6) (fld w 8 4) (fld w 2 6) (fld w 0 1)) (nz w 12 2)
    else dec1 w (.acq (fld w 14 6) (fld w 8 4) (fld w 2 6) (fld w 0 1)) (nz w 12 2)
  | 12 =>
    if w / 2 % 2 = 1 then dec2 w lit (fun l => (.relQueues (fld w 8 4) (fld w 2 6) (fld l 0 16), nz w 14 6 || nz w 12 2 || nz w 0 1 || nz l 16 13))
    else dec1 w (.rel (fld w 8 4) (fld w 2 6)) (nz w 0 1 || nz w 12 8)
  | 13 => dec1 w (.bind (fld w 14 4) (fld w 8 4) (fld w 2 6)) (nz w 0 2 || nz w 12 2 || nz w 18 2)
  | 14 => dec1 w (.unbind (fld w 14 4) (fld w 8 4) (fld w 2 6)) (nz w 0 2 || nz w 12 2 || nz w 18 2)
  | 15 => dec1 w (.gpass (fld w 14 4) (fld w 8 6)) (nz w 0 8 || nz w 18 2)
  | 16 => dec1 w (.gtake (fld w 14 6) (fld w 8 6)) (nz w 0 8)
  | 17 => dec1 w (.gstat (fld w 14 6) (fld w 8 6)) (nz w 0 8)
  | 18 => dec1 w (.cld (fld w 14 6) (fld w 8 4) (fld w 2 6)) (nz w 0 2 || nz w 12 2)
  | 19 => dec1 w (.cst (fld w 14 6) (fld w 8 4) (fld w 2 6) (fld w 1 1)) (nz w 0 1 || nz w 12 2)
  | 20 => dec1 w (.cldv (fld w 14 5) (fld w 8 4) (fld w 2 6)) (nz w 0 2 || nz w 12 2 || nz w 19 1)
  | 21 => dec1 w (.cstv (fld w 14 5) (fld w 8 4) (fld w 2 6)) (nz w 0 2 || nz w 12 2 || nz w 19 1)
  | 22 => dec1 w (.rcas2 (fld w 14 6) (fld w 8 4) (fld w 2 6) (fld w 0 2)) (nz w 12 2)
  | 23 => dec1 w (.renq (fld w 14 6) (fld w 8 4) (fld w 2 6)) (nz w 0 2 || nz w 12 2)
  | 24 => dec1 w (.rchase (fld w 14 6) (fld w 8 4) (fld w 2 6)) (nz w 0 2 || nz w 12 2)
  | 25 => dec1 w (.kmov (fld w 14 4) (fld w 8 4)) (nz w 0 8 || nz w 12 2 || nz w 18 2)
  | 26 => dec1 w (.knarrow (fld w 14 4) (fld w 8 4) (fld w 2 6)) (nz w 0 2 || nz w 12 2 || nz w 18 2)
  | 27 => dec1 w (.kperm (fld w 14 4) (fld w 8 4) (fld w 0 8)) (nz w 12 2 || nz w 18 2)
  | 28 => dec1 w (.kld (fld w 14 4) (fld w 8 4) (fld w 2 6) (fld w 0 2)) (nz w 12 2 || nz w 18 2)
  | 29 => dec1 w (.kst (fld w 14 4) (fld w 8 4) (fld w 2 6) (fld w 0 2)) (nz w 12 2 || nz w 18 2)
  | 30 => dec1 w (.wld (fld w 14 6) (fld w 8 6) (fld w 2 6)) (nz w 0 2)
  | 31 => dec1 w (.wst (fld w 14 6) (fld w 8 6) (fld w 2 6)) (nz w 0 2)
  | 32 => dec1 w (.sfence (fld w 3 1) (fld w 0 3)) (nz w 4 16)
  | _ => .error .unassigned

/-- The opcodes of column ASY, E = 7 (R96). -/
def decodeAsy (w : Nat) (lit : Option Nat) : Except Reject Decoded :=
  match opOf w with
  | 0 => dec1 w (.nop (fld w 29 3)) (nz w 0 20)
  | 1 => dec1 w (.wait (fld w 29 3) (fld w 0 14)) (nz w 14 6)
  | 2 => dec1 w (.cpy (fld w 14 4) (fld w 8 4) (fld w 2 6) (fld w 0 2)) (nz w 12 2 || nz w 18 2)
  | 3 => dec1 w (.cpyd (fld w 14 4) (fld w 8 4) (fld w 2 6) (fld w 0 2)) (nz w 12 2 || nz w 18 2)
  | 4 => dec1 w (.ratt (fld w 14 4) (fld w 8 6) (fld w 0 1)) (nz w 1 7 || nz w 18 2)
  | 5 => dec1 w (.kapp (fld w 14 4) (fld w 8 6)) (nz w 0 8 || nz w 18 2)
  | 6 => dec1 w (.krel (fld w 14 4) (fld w 8 6)) (nz w 0 8 || nz w 18 2)
  | 7 => dec1 w (.merge (fld w 14 4) (fld w 2 6)) (nz w 0 2 || nz w 8 6 || nz w 18 2)
  | 8 => dec1 w (.coll (fld w 14 4) (fld w 8 5) (fld w 2 6)) (nz w 0 2 || nz w 13 1 || nz w 18 2)
  | 9 => dec1 w (.tier (fld w 14 4) (fld w 8 4) (fld w 2 6)) (nz w 0 2 || nz w 12 2 || nz w 18 2)
  | 10 => dec1 w (.pfs (fld w 14 4) (fld w 8 4) (fld w 2 6)) (nz w 0 2 || nz w 12 2 || nz w 18 2)
  | 11 => dec1 w (.qfence (fld w 0 16)) (nz w 16 4)
  | _ => .error .unassigned

/-- The instruction that a word stands for, given the word that follows it in the instruction store, where there is one. -/
def decodeWord (w : Nat) (lit : Option Nat) : Except Reject Decoded :=
  match engOf w with
  | 0 => decodeCtl w lit
  | 1 => decodeSca w lit
  | 2 => decodeVec w lit
  | 3 => decodeMem w lit
  | 4 => decodeMat w lit
  | 5 => decodeQue w lit
  | 6 => decodeSyn w lit
  | _ => decodeAsy w lit

/-- Whether the word takes a literal word (R92, R97): the decoder reads the modifier to decide. -/
def takesLiteral (w : Nat) : Bool :=
  match decodeWord w (some (engOf w * 2 ^ 29)) with
  | .ok d => d.len == 2
  | .error _ => false

/-- A 32-bit word from four little-endian bytes (R7). -/
def wordOf (b0 b1 b2 b3 : Byte) : Nat :=
  b0.toNat + b1.toNat * 2 ^ 8 + b2.toNat * 2 ^ 16 + b3.toNat * 2 ^ 24

/-- The first word of a list of bytes and the bytes after it. -/
def takeWord : List Byte → Option (Nat × List Byte)
  | b0 :: b1 :: b2 :: b3 :: r => some (wordOf b0 b1 b2 b3, r)
  | _ => none

/-- The decoder on bytes: the instruction and the bytes after it, or the name of the rejection. -/
def decodeBytes (bs : List Byte) : Except Reject (Decoded × List Byte) :=
  match takeWord bs with
  | none => .error .truncated
  | some (w, r) =>
    match decodeWord w ((takeWord r).map (·.1)) with
    | .error e => .error e
    | .ok d => .ok (d, if d.len = 2 then r.drop 4 else r)

/-- The four little-endian bytes of a word. -/
def bytesOfWord (w : Nat) : List Byte :=
  [BitVec.ofNat 8 w, BitVec.ofNat 8 (w / 2 ^ 8), BitVec.ofNat 8 (w / 2 ^ 16), BitVec.ofNat 8 (w / 2 ^ 24)]

/-- The instruction the decoder reads from a word `w % 2 ^ 32` followed by the words above it; the bits above `nbits`
are 0. A word that is rejected for want of an assigned opcode is the row UNASSIGNED_OPCODE (R94). -/
def decodeTableWord (nbits w : Nat) : Option Instr :=
  let v := w % 2 ^ nbits
  match decodeBytes (bytesOfWord (v % 2 ^ 32) ++ bytesOfWord (v / 2 ^ 32 % 2 ^ 32)) with
  | .ok (d, _) => some d.ins
  | .error .unassigned => some (.unassignedOpcode (BitVec.ofNat 32 v))
  | .error _ => none

/-! ## The encoder -/

/-- The fixed part of a word: E, D and OP (R87). -/
def base (e : Nat) (d : BitVec 3) (op : Nat) : Nat := e * 2 ^ 29 + d.toNat * 2 ^ 26 + op * 2 ^ 20

/-- The sum of fields placed at their low bits: each pair is a field value and its lowest bit (R88). -/
def place : List (Nat × Nat) → Nat
  | [] => 0
  | (x, lo) :: r => x * 2 ^ lo + place r

/-- A word: fixed part, modifier bits that the row fixes, fields. -/
def word (e : Nat) (d : BitVec 3) (op fixed : Nat) (fs : List (Nat × Nat)) : Nat := base e d op + fixed + place fs

/-- A literal word: the owner's E and the literal bits (R92). -/
def literal (e : Nat) (fs : List (Nat × Nat)) : Nat := e * 2 ^ 29 + place fs

/-- The words of an instruction with delay `d`: the word and, where the instruction takes one, its literal word. The
event rows have no words. -/
def encode (d : BitVec 3) : Instr → List Nat
  | .nop e => [word e.toNat d 0 0 []]
  | .wait e i => [word e.toNat d 1 0 [(i.toNat, 0)]]
  | .br i => [word 0 d 2 0 [(i.toNat, 0)]]
  | .brp sel i => [word 0 d 3 0 [(sel.toNat, 14), (i.toNat, 0)]]
  | .call i => [word 0 d 4 0 [(i.toNat, 0)]]
  | .ret g => [word 0 d 5 0 [(g.toNat, 14)]]
  | .loop g len => [word 0 d 6 0 [(g.toNat, 14)], literal 0 [(len.toNat, 0)]]
  | .loopi cnt len => [word 0 d 7 0 [(cnt.toNat, 0)], literal 0 [(len.toNat, 0)]]
  | .lbrk sel i => [word 0 d 8 0 [(sel.toNat, 14), (i.toNat, 0)]]
  | .yield i live => [word 0 d 9 0 [(i.toNat, 0)], literal 0 [(live.toNat, 0)]]
  | .waitb g => [word 0 d 11 0 [(g.toNat, 14)]]
  | .launch p h g => [word 0 d 13 0 [(p.toNat, 14), (h.toNat, 8), (g.toNat, 2)]]
  | .trap i => [word 0 d 15 0 [(i.toNat, 0)]]
  | .bkpt i => [word 0 d 17 0 [(i.toNat, 0)]]
  | .smode t => [word 0 d 18 0 [(t.toNat, 0)]]
  | .rdsr g s => [word 0 d 19 0 [(g.toNat, 14), (s.toNat, 0)]]
  | .wrsr g s => [word 0 d 20 0 [(g.toNat, 14), (s.toNat, 0)]]
  | .add a b c => [word 1 d 2 0 [(a.toNat, 14), (b.toNat, 8), (c.toNat, 2)]]
  | .sub a b c => [word 1 d 3 0 [(a.toNat, 14), (b.toNat, 8), (c.toNat, 2)]]
  | .addi a b i => [word 1 d 4 0 [(a.toNat, 14), (b.toNat, 8), (i.toNat, 0)]]
  | .mul a b c => [word 1 d 5 0 [(a.toNat, 14), (b.toNat, 8), (c.toNat, 2)]]
  | .mulhs a b c => [word 1 d 6 0 [(a.toNat, 14), (b.toNat, 8), (c.toNat, 2)]]
  | .mulhz a b c => [word 1 d 7 0 [(a.toNat, 14), (b.toNat, 8), (c.toNat, 2)]]
  | .divs a b c => [word 1 d 8 0 [(a.toNat, 14), (b.toNat, 8), (c.toNat, 2)]]
  | .divz a b c => [word 1 d 9 0 [(a.toNat, 14), (b.toNat, 8), (c.toNat, 2)]]
  | .rems a b c => [word 1 d 10 0 [(a.toNat, 14), (b.toNat, 8), (c.toNat, 2)]]
  | .remz a b c => [word 1 d 11 0 [(a.toNat, 14), (b.toNat, 8), (c.toNat, 2)]]
  | .and a b c => [word 1 d 12 0 [(a.toNat, 14), (b.toNat, 8), (c.toNat, 2)]]
  | .or a b c => [word 1 d 13 0 [(a.toNat, 14), (b.toNat, 8), (c.toNat, 2)]]
  | .xor a b c => [word 1 d 14 0 [(a.toNat, 14), (b.toNat, 8), (c.toNat, 2)]]
  | .andn a b c => [word 1 d 15 0 [(a.toNat, 14), (b.toNat, 8), (c.toNat, 2)]]
  | .shl a b c => [word 1 d 16 0 [(a.toNat, 14), (b.toNat, 8), (c.toNat, 2)]]
  | .shr a b c => [word 1 d 17 0 [(a.toNat, 14), (b.toNat, 8), (c.toNat, 2)]]
  | .sar a b c => [word 1 d 18 0 [(a.toNat, 14), (b.toNat, 8), (c.toNat, 2)]]
  | .ror a b c => [word 1 d 19 0 [(a.toNat, 14), (b.toNat, 8), (c.toNat, 2)]]
  | .shli a b i => [word 1 d 20 0 [(a.toNat, 14), (b.toNat, 8), (i.toNat, 0)]]
  | .shri a b i => [word 1 d 21 0 [(a.toNat, 14), (b.toNat, 8), (i.toNat, 0)]]
  | .sari a b i => [word 1 d 22 0 [(a.toNat, 14), (b.toNat, 8), (i.toNat, 0)]]
  | .mins a b c => [word 1 d 23 0 [(a.toNat, 14), (b.toNat, 8), (c.toNat, 2)]]
  | .maxs a b c => [word 1 d 24 0 [(a.toNat, 14), (b.toNat, 8), (c.toNat, 2)]]
  | .minz a b c => [word 1 d 25 0 [(a.toNat, 14), (b.toNat, 8), (c.toNat, 2)]]
  | .maxz a b c => [word 1 d 26 0 [(a.toNat, 14), (b.toNat, 8), (c.toNat, 2)]]
  | .clz a b => [word 1 d 27 0 [(a.toNat, 14), (b.toNat, 8)]]
  | .popc a b => [word 1 d 28 0 [(a.toNat, 14), (b.toNat, 8)]]
  | .movi a i => [word 1 d 29 0 [(a.toNat, 14), (i.toNat, 0)]]
  | .movx g hi lo => [word 1 d 30 0 [(g.toNat, 14), (hi.toNat, 0)], literal 1 [(lo.toNat, 0)]]
  | .movhx g hi lo => [word 1 d 31 0 [(g.toNat, 14), (hi.toNat, 0)], literal 1 [(lo.toNat, 0)]]
  | .cmpeq p b c => [word 1 d 32 0 [(p.toNat, 14), (b.toNat, 8), (c.toNat, 2)]]
  | .cmpne p b c => [word 1 d 33 0 [(p.toNat, 14), (b.toNat, 8), (c.toNat, 2)]]
  | .cmplts p b c => [word 1 d 34 0 [(p.toNat, 14), (b.toNat, 8), (c.toNat, 2)]]
  | .cmples p b c => [word 1 d 35 0 [(p.toNat, 14), (b.toNat, 8), (c.toNat, 2)]]
  | .cmpltz p b c => [word 1 d 36 0 [(p.toNat, 14), (b.toNat, 8), (c.toNat, 2)]]
  | .cmplez p b c => [word 1 d 37 0 [(p.toNat, 14), (b.toNat, 8), (c.toNat, 2)]]
  | .cmpeqi p b i => [word 1 d 38 0 [(p.toNat, 14), (b.toNat, 8), (i.toNat, 0)]]
  | .cmpltsi p b i => [word 1 d 39 0 [(p.toNat, 14), (b.toNat, 8), (i.toNat, 0)]]
  | .sel a b c p => [word 1 d 40 0 [(a.toNat, 14), (b.toNat, 8), (c.toNat, 2), (p.toNat, 0)]]
  | .pand a b c => [word 1 d 41 0 [(a.toNat, 14), (b.toNat, 8), (c.toNat, 2)]]
  | .por a b c => [word 1 d 42 0 [(a.toNat, 14), (b.toNat, 8), (c.toNat, 2)]]
  | .pxor a b c => [word 1 d 43 0 [(a.toNat, 14), (b.toNat, 8), (c.toNat, 2)]]
  | .pnot a b => [word 1 d 44 0 [(a.toNat, 14), (b.toNat, 8)]]
  | .idx a l => [word 1 d 45 0 [(a.toNat, 14), (l.toNat, 8)]]
  | .sext a b w => [word 1 d 46 0 [(a.toNat, 14), (b.toNat, 8), (w.toNat, 0)]]
  | .zext a b w => [word 1 d 47 0 [(a.toNat, 14), (b.toNat, 8), (w.toNat, 0)]]
  | .fadd a b c p => [word 1 d 48 0 [(a.toNat, 14), (b.toNat, 8), (c.toNat, 2), (p.toNat, 0)]]
  | .faddLiteral a b c p rm => [word 1 d 48 2 [(a.toNat, 14), (b.toNat, 8), (c.toNat, 2), (p.toNat, 0)], literal 1 [(rm.toNat, 0)]]
  | .fsub a b c p => [word 1 d 49 0 [(a.toNat, 14), (b.toNat, 8), (c.toNat, 2), (p.toNat, 0)]]
  | .fsubLiteral a b c p rm => [word 1 d 49 2 [(a.toNat, 14), (b.toNat, 8), (c.toNat, 2), (p.toNat, 0)], literal 1 [(rm.toNat, 0)]]
  | .fmul a b c p => [word 1 d 50 0 [(a.toNat, 14), (b.toNat, 8), (c.toNat, 2), (p.toNat, 0)]]
  | .fmulLiteral a b c p rm => [word 1 d 50 2 [(a.toNat, 14), (b.toNat, 8), (c.toNat, 2), (p.toNat, 0)], literal 1 [(rm.toNat, 0)]]
  | .ffma a b c p => [word 1 d 51 0 [(a.toNat, 14), (b.toNat, 8), (c.toNat, 2), (p.toNat, 0)]]
  | .ffmaLiteral a b c p rm => [word 1 d 51 2 [(a.toNat, 14), (b.toNat, 8), (c.toNat, 2), (p.toNat, 0)], literal 1 [(rm.toNat, 0)]]
  | .fdiv a b c p => [word 1 d 52 0 [(a.toNat, 14), (b.toNat, 8), (c.toNat, 2), (p.toNat, 0)]]
  | .fdivLiteral a b c p rm => [word 1 d 52 2 [(a.toNat, 14), (b.toNat, 8), (c.toNat, 2), (p.toNat, 0)], literal 1 [(rm.toNat, 0)]]
  | .fsqrt a b p => [word 1 d 53 0 [(a.toNat, 14), (b.toNat, 8), (p.toNat, 0)]]
  | .fsqrtLiteral a b p rm => [word 1 d 53 2 [(a.toNat, 14), (b.toNat, 8), (p.toNat, 0)], literal 1 [(rm.toNat, 0)]]
  | .fcvt a b dst src rm => [word 1 d 54 0 [(a.toNat, 14), (b.toNat, 8)], literal 1 [(dst.toNat, 0), (src.toNat, 4), (rm.toNat, 8)]]
  | .fcmplt a b c p => [word 1 d 55 0 [(a.toNat, 14), (b.toNat, 8), (c.toNat, 2), (p.toNat, 0)]]
  | .fcmpeq a b c p => [word 1 d 56 0 [(a.toNat, 14), (b.toNat, 8), (c.toNat, 2), (p.toNat, 0)]]
  | .fmin a b c p => [word 1 d 57 0 [(a.toNat, 14), (b.toNat, 8), (c.toNat, 2), (p.toNat, 0)]]
  | .fmax a b c p => [word 1 d 58 0 [(a.toNat, 14), (b.toNat, 8), (c.toNat, 2), (p.toNat, 0)]]
  | .beac a => [word 1 d 59 0 [(a.toNat, 14)]]
  | .shape val => [word 2 d 2 0 [], literal 2 [(val.toNat, 0)]]
  | .vadd v a b k m => [word 2 d 3 0 [(v.toNat, 15), (a.toNat, 10), (b.toNat, 5), (k.toNat, 2), (m.toNat, 0)]]
  | .vsub v a b k m => [word 2 d 4 0 [(v.toNat, 15), (a.toNat, 10), (b.toNat, 5), (k.toNat, 2), (m.toNat, 0)]]
  | .vmul v a b k m => [word 2 d 5 0 [(v.toNat, 15), (a.toNat, 10), (b.toNat, 5), (k.toNat, 2), (m.toNat, 0)]]
  | .vfma v a b k m => [word 2 d 6 0 [(v.toNat, 15), (a.toNat, 10), (b.toNat, 5), (k.toNat, 2), (m.toNat, 0)]]
  | .vfms v a b k m => [word 2 d 7 0 [(v.toNat, 15), (a.toNat, 10), (b.toNat, 5), (k.toNat, 2), (m.toNat, 0)]]
  | .vmin v a b k m => [word 2 d 8 0 [(v.toNat, 15), (a.toNat, 10), (b.toNat, 5), (k.toNat, 2), (m.toNat, 0)]]
  | .vmax v a b k m => [word 2 d 9 0 [(v.toNat, 15), (a.toNat, 10), (b.toNat, 5), (k.toNat, 2), (m.toNat, 0)]]
  | .vabs v a k m => [word 2 d 10 0 [(v.toNat, 15), (a.toNat, 10), (k.toNat, 2), (m.toNat, 0)]]
  | .vneg v a k m => [word 2 d 11 0 [(v.toNat, 15), (a.toNat, 10), (k.toNat, 2), (m.toNat, 0)]]
  | .vand v a b k m => [word 2 d 12 0 [(v.toNat, 15), (a.toNat, 10), (b.toNat, 5), (k.toNat, 2), (m.toNat, 0)]]
  | .vor v a b k m => [word 2 d 13 0 [(v.toNat, 15), (a.toNat, 10), (b.toNat, 5), (k.toNat, 2), (m.toNat, 0)]]
  | .vxor v a b k m => [word 2 d 14 0 [(v.toNat, 15), (a.toNat, 10), (b.toNat, 5), (k.toNat, 2), (m.toNat, 0)]]
  | .vnot v a k m => [word 2 d 15 0 [(v.toNat, 15), (a.toNat, 10), (k.toNat, 2), (m.toNat, 0)]]
  | .vshl v a b k m => [word 2 d 16 0 [(v.toNat, 15), (a.toNat, 10), (b.toNat, 5), (k.toNat, 2), (m.toNat, 0)]]
  | .vshr v a b k m => [word 2 d 17 0 [(v.toNat, 15), (a.toNat, 10), (b.toNat, 5), (k.toNat, 2), (m.toNat, 0)]]
  | .vsar v a b k m => [word 2 d 18 0 [(v.toNat, 15), (a.toNat, 10), (b.toNat, 5), (k.toNat, 2), (m.toNat, 0)]]
  | .vcmpeq v a b k m => [word 2 d 19 0 [(v.toNat, 15), (a.toNat, 10), (b.toNat, 5), (k.toNat, 2), (m.toNat, 0)]]
  | .vcmplt v a b k m => [word 2 d 20 0 [(v.toNat, 15), (a.toNat, 10), (b.toNat, 5), (k.toNat, 2), (m.toNat, 0)]]
  | .vcmple v a b k m => [word 2 d 21 0 [(v.toNat, 15), (a.toNat, 10), (b.toNat, 5), (k.toNat, 2), (m.toNat, 0)]]
  | .vsel v a b k m => [word 2 d 22 0 [(v.toNat, 15), (a.toNat, 10), (b.toNat, 5), (k.toNat, 2), (m.toNat, 0)]]
  | .vmov v a k m => [word 2 d 23 0 [(v.toNat, 15), (a.toNat, 10), (k.toNat, 2), (m.toNat, 0)]]
  | .vfill v g k m => [word 2 d 24 0 [(v.toNat, 15), (g.toNat, 10), (k.toNat, 2), (m.toNat, 0)]]
  | .vbrow v a g k m => [word 2 d 25 0 [(v.toNat, 15), (a.toNat, 10), (g.toNat, 5), (k.toNat, 2), (m.toNat, 0)]]
  | .vbcol v a g k m => [word 2 d 26 0 [(v.toNat, 15), (a.toNat, 10), (g.toNat, 5), (k.toNat, 2), (m.toNat, 0)]]
  | .vrsum v a k m => [word 2 d 27 0 [(v.toNat, 15), (a.toNat, 10), (k.toNat, 2), (m.toNat, 0)]]
  | .vrmax v a k m => [word 2 d 28 0 [(v.toNat, 15), (a.toNat, 10), (k.toNat, 2), (m.toNat, 0)]]
  | .vcsum v a k m => [word 2 d 29 0 [(v.toNat, 15), (a.toNat, 10), (k.toNat, 2), (m.toNat, 0)]]
  | .vcmax v a k m => [word 2 d 30 0 [(v.toNat, 15), (a.toNat, 10), (k.toNat, 2), (m.toNat, 0)]]
  | .vtrn v a k m => [word 2 d 31 0 [(v.toNat, 15), (a.toNat, 10), (k.toNat, 2), (m.toNat, 0)]]
  | .vzip2 v a k m => [word 2 d 32 0 [(v.toNat, 15), (a.toNat, 10), (k.toNat, 2), (m.toNat, 0)]]
  | .vzip3 v a k m => [word 2 d 33 0 [(v.toNat, 15), (a.toNat, 10), (k.toNat, 2), (m.toNat, 0)]]
  | .vzip4 v a k m => [word 2 d 34 0 [(v.toNat, 15), (a.toNat, 10), (k.toNat, 2), (m.toNat, 0)]]
  | .vunz2 v a k m => [word 2 d 35 0 [(v.toNat, 15), (a.toNat, 10), (k.toNat, 2), (m.toNat, 0)]]
  | .vunz3 v a k m => [word 2 d 36 0 [(v.toNat, 15), (a.toNat, 10), (k.toNat, 2), (m.toNat, 0)]]
  | .vunz4 v a k m => [word 2 d 37 0 [(v.toNat, 15), (a.toNat, 10), (k.toNat, 2), (m.toNat, 0)]]
  | .vperm v a b k m => [word 2 d 38 0 [(v.toNat, 15), (a.toNat, 10), (b.toNat, 5), (k.toNat, 2), (m.toNat, 0)]]
  | .vrot v a g k m => [word 2 d 39 0 [(v.toNat, 15), (a.toNat, 10), (g.toNat, 5), (k.toNat, 2), (m.toNat, 0)]]
  | .vcvt v a t k m => [word 2 d 40 0 [(v.toNat, 15), (a.toNat, 10), (t.toNat, 5), (k.toNat, 2), (m.toNat, 0)]]
  | .vqnt v a n f => [word 2 d 41 0 [(v.toNat, 15), (a.toNat, 10), (n.toNat, 5), (f.toNat, 2)]]
  | .vamx n a k => [word 2 d 42 0 [(n.toNat, 15), (a.toNat, 10), (k.toNat, 2)]]
  | .vrcpa v a k => [word 2 d 43 0 [(v.toNat, 15), (a.toNat, 10), (k.toNat, 2)]]
  | .vrsqa v a k => [word 2 d 44 0 [(v.toNat, 15), (a.toNat, 10), (k.toNat, 2)]]
  | .vexp2 v a k => [word 2 d 45 0 [(v.toNat, 15), (a.toNat, 10), (k.toNat, 2)]]
  | .vlog2 v a k => [word 2 d 46 0 [(v.toNat, 15), (a.toNat, 10), (k.toNat, 2)]]
  | .vtanh v a k => [word 2 d 47 0 [(v.toNat, 15), (a.toNat, 10), (k.toNat, 2)]]
  | .vgte g a b k m => [word 2 d 48 0 [(g.toNat, 15), (a.toNat, 10), (b.toNat, 5), (k.toNat, 2), (m.toNat, 0)]]
  | .vpte v a b k m => [word 2 d 49 0 [(v.toNat, 15), (a.toNat, 10), (b.toNat, 5), (k.toNat, 2), (m.toNat, 0)]]
  | .vmskop o v a b k m => [word 2 d 50 0 [(o.toNat, 18), (v.toNat, 15), (a.toNat, 10), (b.toNat, 5), (k.toNat, 2), (m.toNat, 0)]]
  | .viota v g n k m => [word 2 d 51 0 [(v.toNat, 15), (g.toNat, 10), (n.toNat, 5), (k.toNat, 2), (m.toNat, 0)]]
  | .vrdot v a b k m => [word 2 d 52 0 [(v.toNat, 15), (a.toNat, 10), (b.toNat, 5), (k.toNat, 2), (m.toNat, 0)]]
  | .vclamp v a b k m => [word 2 d 53 0 [(v.toNat, 15), (a.toNat, 10), (b.toNat, 5), (k.toNat, 2), (m.toNat, 0)]]
  | .xlt h g => [word 3 d 2 0 [(h.toNat, 14), (g.toNat, 8)]]
  | .xltNw h g => [word 3 d 2 1 [(h.toNat, 14), (g.toNat, 8)]]
  | .hrel h => [word 3 d 3 0 [(h.toNat, 14)]]
  | .hchk p h => [word 3 d 4 0 [(p.toNat, 14), (h.toNat, 8)]]
  | .hinfo g h s => [word 3 d 5 0 [(g.toNat, 14), (h.toNat, 8), (s.toNat, 2)]]
  | .lds v b c => [word 3 d 6 0 [(v.toNat, 14), (b.toNat, 8), (c.toNat, 2)]]
  | .sts v b c => [word 3 d 7 0 [(v.toNat, 14), (b.toNat, 8), (c.toNat, 2)]]
  | .ldsg g b c => [word 3 d 8 0 [(g.toNat, 14), (b.toNat, 8), (c.toNat, 2)]]
  | .stsg g b c => [word 3 d 9 0 [(g.toNat, 14), (b.toNat, 8), (c.toNat, 2)]]
  | .ldg r v h c m => [word 3 d 10 0 [(r.toNat, 19), (v.toNat, 14), (h.toNat, 8), (c.toNat, 2), (m.toNat, 0)]]
  | .ldgUnt r v h c lat => [word 3 d 10 3 [(r.toNat, 19), (v.toNat, 14), (h.toNat, 8), (c.toNat, 2)], literal 3 [(lat.toNat, 0)]]
  | .stg r v h c m => [word 3 d 11 0 [(r.toNat, 19), (v.toNat, 14), (h.toNat, 8), (c.toNat, 2), (m.toNat, 0)]]
  | .stgUnt r v h c lat => [word 3 d 11 3 [(r.toNat, 19), (v.toNat, 14), (h.toNat, 8), (c.toNat, 2)], literal 3 [(lat.toNat, 0)]]
  | .ldgs r g h c m => [word 3 d 12 0 [(r.toNat, 19), (g.toNat, 14), (h.toNat, 8), (c.toNat, 2), (m.toNat, 0)]]
  | .ldgsUnt r g h c lat => [word 3 d 12 3 [(r.toNat, 19), (g.toNat, 14), (h.toNat, 8), (c.toNat, 2)], literal 3 [(lat.toNat, 0)]]
  | .stgs r g h c m => [word 3 d 13 0 [(r.toNat, 19), (g.toNat, 14), (h.toNat, 8), (c.toNat, 2), (m.toNat, 0)]]
  | .stgsUnt r g h c lat => [word 3 d 13 3 [(r.toNat, 19), (g.toNat, 14), (h.toNat, 8), (c.toNat, 2)], literal 3 [(lat.toNat, 0)]]
  | .ldt r v h c m => [word 3 d 14 0 [(r.toNat, 19), (v.toNat, 14), (h.toNat, 8), (c.toNat, 2), (m.toNat, 0)]]
  | .ldtUnt r v h c lat => [word 3 d 14 3 [(r.toNat, 19), (v.toNat, 14), (h.toNat, 8), (c.toNat, 2)], literal 3 [(lat.toNat, 0)]]
  | .stq r v h c m => [word 3 d 15 0 [(r.toNat, 19), (v.toNat, 14), (h.toNat, 8), (c.toNat, 2), (m.toNat, 0)]]
  | .stqUnt r v h c lat => [word 3 d 15 3 [(r.toNat, 19), (v.toNat, 14), (h.toNat, 8), (c.toNat, 2)], literal 3 [(lat.toNat, 0)]]
  | .stnt r v h c m => [word 3 d 16 0 [(r.toNat, 19), (v.toNat, 14), (h.toNat, 8), (c.toNat, 2), (m.toNat, 0)]]
  | .stntUnt r v h c lat => [word 3 d 16 3 [(r.toNat, 19), (v.toNat, 14), (h.toNat, 8), (c.toNat, 2)], literal 3 [(lat.toNat, 0)]]
  | .pfl h b c => [word 3 d 18 0 [(h.toNat, 14), (b.toNat, 8), (c.toNat, 2)]]
  | .cwbr h b c => [word 3 d 19 0 [(h.toNat, 14), (b.toNat, 8), (c.toNat, 2)]]
  | .cinvr h b c => [word 3 d 20 0 [(h.toNat, 14), (b.toNat, 8), (c.toNat, 2)]]
  | .rpin n h g => [word 3 d 21 0 [(n.toNat, 14), (h.toNat, 8), (g.toNat, 2)]]
  | .runpin n h => [word 3 d 22 0 [(n.toNat, 14), (h.toNat, 8)]]
  | .ldge r v h c m => [word 3 d 23 0 [(r.toNat, 19), (v.toNat, 14), (h.toNat, 8), (c.toNat, 2), (m.toNat, 0)]]
  | .ldgeUnt r v h c lat => [word 3 d 23 3 [(r.toNat, 19), (v.toNat, 14), (h.toNat, 8), (c.toNat, 2)], literal 3 [(lat.toNat, 0)]]
  | .ldte r v h c m => [word 3 d 24 0 [(r.toNat, 19), (v.toNat, 14), (h.toNat, 8), (c.toNat, 2), (m.toNat, 0)]]
  | .ldteUnt r v h c lat => [word 3 d 24 3 [(r.toNat, 19), (v.toNat, 14), (h.toNat, 8), (c.toNat, 2)], literal 3 [(lat.toNat, 0)]]
  | .mcfg l g f => [word 4 d 2 0 [(l.toNat, 14), (g.toNat, 8), (f.toNat, 2)]]
  | .mcfgi l grp val => [word 4 d 3 0 [(l.toNat, 14), (grp.toNat, 0)], literal 4 [(val.toNat, 0)]]
  | .msrc k r u i => [word 4 d 4 0 [(k.toNat, 16), (r.toNat, 14), (u.toNat, 8), (i.toNat, 0)]]
  | .mfmt a b f q => [word 4 d 5 0 [(a.toNat, 14), (b.toNat, 8), (f.toNat, 4), (q.toNat, 0)]]
  | .mldb g q => [word 4 d 6 0 [(g.toNat, 14), (q.toNat, 8)]]
  | .mclr a b => [word 4 d 8 0 [(a.toNat, 14), (b.toNat, 8)]]
  | .mrd v r c m => [word 4 d 9 0 [(v.toNat, 14), (r.toNat, 8), (c.toNat, 2), (m.toNat, 0)]]
  | .mwr v r c m => [word 4 d 10 0 [(v.toNat, 14), (r.toNat, 8), (c.toNat, 2), (m.toNat, 0)]]
  | .mfuse q f => [word 4 d 11 0 [(q.toNat, 14), (f.toNat, 0)]]
  | .mdur g => [word 4 d 12 0 [(g.toNat, 14)]]
  | .qpush p v n => [word 5 d 2 0 [(p.toNat, 14), (v.toNat, 8), (n.toNat, 2)]]
  | .qpop v q n => [word 5 d 3 0 [(v.toNat, 14), (q.toNat, 8), (n.toNat, 2)]]
  | .qrsv p n => [word 5 d 4 0 [(p.toNat, 14), (n.toNat, 0)]]
  | .qbind p g => [word 5 d 5 0 [(p.toNat, 14), (g.toNat, 8)]]
  | .lksend p v n => [word 5 d 6 0 [(p.toNat, 14), (v.toNat, 8), (n.toNat, 2)]]
  | .lkrecv v q n => [word 5 d 7 0 [(v.toNat, 14), (q.toNat, 8), (n.toNat, 2)]]
  | .lkbind p g => [word 5 d 8 0 [(p.toNat, 14), (g.toNat, 8)]]
  | .qdepth g k q => [word 5 d 9 0 [(g.toNat, 14), (k.toNat, 12), (q.toNat, 8)]]
  | .aadd g h c w => [word 6 d 2 0 [(g.toNat, 14), (h.toNat, 8), (c.toNat, 2), (w.toNat, 0)]]
  | .aand g h c w => [word 6 d 3 0 [(g.toNat, 14), (h.toNat, 8), (c.toNat, 2), (w.toNat, 0)]]
  | .aor g h c w => [word 6 d 4 0 [(g.toNat, 14), (h.toNat, 8), (c.toNat, 2), (w.toNat, 0)]]
  | .axor g h c w => [word 6 d 5 0 [(g.toNat, 14), (h.toNat, 8), (c.toNat, 2), (w.toNat, 0)]]
  | .amin g h c s w => [word 6 d 6 0 [(g.toNat, 14), (h.toNat, 8), (c.toNat, 2), (s.toNat, 1), (w.toNat, 0)]]
  | .amax g h c s w => [word 6 d 7 0 [(g.toNat, 14), (h.toNat, 8), (c.toNat, 2), (s.toNat, 1), (w.toNat, 0)]]
  | .aswp g h c w => [word 6 d 8 0 [(g.toNat, 14), (h.toNat, 8), (c.toNat, 2), (w.toNat, 0)]]
  | .acas g h c w => [word 6 d 9 0 [(g.toNat, 14), (h.toNat, 8), (c.toNat, 2), (w.toNat, 0)]]
  | .vatom v i o => [word 6 d 10 0 [(v.toNat, 14), (i.toNat, 8), (o.toNat, 2)]]
  | .acq g h c s => [word 6 d 11 0 [(g.toNat, 14), (h.toNat, 8), (c.toNat, 2), (s.toNat, 0)]]
  | .acqTry g h c s => [word 6 d 11 2 [(g.toNat, 14), (h.toNat, 8), (c.toNat, 2), (s.toNat, 0)]]
  | .rel h c => [word 6 d 12 0 [(h.toNat, 8), (c.toNat, 2)]]
  | .relQueues h c mask => [word 6 d 12 2 [(h.toNat, 8), (c.toNat, 2)], literal 6 [(mask.toNat, 0)]]
  | .bind r h g => [word 6 d 13 0 [(r.toNat, 14), (h.toNat, 8), (g.toNat, 2)]]
  | .unbind r h g => [word 6 d 14 0 [(r.toNat, 14), (h.toNat, 8), (g.toNat, 2)]]
  | .gpass p g => [word 6 d 15 0 [(p.toNat, 14), (g.toNat, 8)]]
  | .gtake v g => [word 6 d 16 0 [(v.toNat, 14), (g.toNat, 8)]]
  | .gstat s g => [word 6 d 17 0 [(s.toNat, 14), (g.toNat, 8)]]
  | .cld g k c => [word 6 d 18 0 [(g.toNat, 14), (k.toNat, 8), (c.toNat, 2)]]
  | .cst g k c r => [word 6 d 19 0 [(g.toNat, 14), (k.toNat, 8), (c.toNat, 2), (r.toNat, 1)]]
  | .cldv v k c => [word 6 d 20 0 [(v.toNat, 14), (k.toNat, 8), (c.toNat, 2)]]
  | .cstv v k c => [word 6 d 21 0 [(v.toNat, 14), (k.toNat, 8), (c.toNat, 2)]]
  | .rcas2 g k c n => [word 6 d 22 0 [(g.toNat, 14), (k.toNat, 8), (c.toNat, 2), (n.toNat, 0)]]
  | .renq g k c => [word 6 d 23 0 [(g.toNat, 14), (k.toNat, 8), (c.toNat, 2)]]
  | .rchase g k c => [word 6 d 24 0 [(g.toNat, 14), (k.toNat, 8), (c.toNat, 2)]]
  | .kmov a b => [word 6 d 25 0 [(a.toNat, 14), (b.toNat, 8)]]
  | .knarrow a b g => [word 6 d 26 0 [(a.toNat, 14), (b.toNat, 8), (g.toNat, 2)]]
  | .kperm a b i => [word 6 d 27 0 [(a.toNat, 14), (b.toNat, 8), (i.toNat, 0)]]
  | .kld a h c m => [word 6 d 28 0 [(a.toNat, 14), (h.toNat, 8), (c.toNat, 2), (m.toNat, 0)]]
  | .kst a h c m => [word 6 d 29 0 [(a.toNat, 14), (h.toNat, 8), (c.toNat, 2), (m.toNat, 0)]]
  | .wld g w c => [word 6 d 30 0 [(g.toNat, 14), (w.toNat, 8), (c.toNat, 2)]]
  | .wst g w c => [word 6 d 31 0 [(g.toNat, 14), (w.toNat, 8), (c.toNat, 2)]]
  | .sfence q s => [word 6 d 32 0 [(q.toNat, 3), (s.toNat, 0)]]
  | .cpy q h g m => [word 7 d 2 0 [(q.toNat, 14), (h.toNat, 8), (g.toNat, 2), (m.toNat, 0)]]
  | .cpyd q h g m => [word 7 d 3 0 [(q.toNat, 14), (h.toNat, 8), (g.toNat, 2), (m.toNat, 0)]]
  | .ratt q g u => [word 7 d 4 0 [(q.toNat, 14), (g.toNat, 8), (u.toNat, 0)]]
  | .kapp q g => [word 7 d 5 0 [(q.toNat, 14), (g.toNat, 8)]]
  | .krel q g => [word 7 d 6 0 [(q.toNat, 14), (g.toNat, 8)]]
  | .merge q g => [word 7 d 7 0 [(q.toNat, 14), (g.toNat, 2)]]
  | .coll q v g => [word 7 d 8 0 [(q.toNat, 14), (v.toNat, 8), (g.toNat, 2)]]
  | .tier q h g => [word 7 d 9 0 [(q.toNat, 14), (h.toNat, 8), (g.toNat, 2)]]
  | .pfs q h g => [word 7 d 10 0 [(q.toNat, 14), (h.toNat, 8), (g.toNat, 2)]]
  | .qfence m => [word 7 d 11 0 [(m.toNat, 0)]]
  | .unassignedOpcode w => [w.toNat]
  | .seam => [word 0 d 10 0 []]
  | .align => [word 0 d 12 0 []]
  | .endTask => [word 0 d 14 0 []]
  | .eret => [word 0 d 16 0 []]
  | .drain => [word 3 d 17 0 []]
  | .mgo => [word 4 d 7 0 []]
  | .clampcntWrite => []
  | .fetchWords => []
  | .fetchStarvation => []
  | .iterationBoundary => []
  | .resultLanding => []
  | .loadDataDelivery => []
  | .arrivalViolation => []
  | .accessHomeCycle => []
  | .xltWalkComplete => []
  | .acqGrant => []
  | .relEffect => []
  | .drainComplete => []
  | .sfenceComplete => []
  | .cacheRangeComplete => []
  | .retentionInForce => []
  | .waitbComplete => []
  | .deadlineFault => []
  | .launchReceive => []
  | .schedulerPlacement => []
  | .launchBegin => []
  | .timeSliceEnd => []
  | .yieldHandover => []
  | .fullFrameSave => []
  | .fullFrameSaveEnd => []
  | .fullFrameRestore => []
  | .taskResume => []
  | .nestStep => []
  | .nestEnd => []
  | .nestSafeStop => []
  | .mldbComplete => []
  | .queueEntryArrival => []
  | .queueCreditArrival => []
  | .linkEntryDepart => []
  | .linkEntryArrival => []
  | .asyEntryStart => []
  | .cpyDone => []
  | .cpydDone => []
  | .attentionCommandArrival => []
  | .attentionAccept => []
  | .kappExecute => []
  | .krelExecute => []
  | .contextControl => []
  | .rattAdmission => []
  | .rattRecordWrite => []
  | .attentionCreditRefill => []
  | .mergeDone => []
  | .collArrival => []
  | .collRoundComplete => []
  | .collResultWrite => []
  | .tierMoveStart => []
  | .pageRevoke => []
  | .revocationComplete => []
  | .tierMoveDone => []
  | .pfsAccept => []
  | .qfenceDone => []
  | .gatePassAdmit => []
  | .gateVersionEffect => []
  | .gateRefill => []
  | .gateTakeArrival => []
  | .gateTakeComplete => []
  | .gateStatusSample => []
  | .gateCreate => []
  | .gateUpdate => []
  | .gateRevoke => []
  | .gateFree => []
  | .gateFreeze => []
  | .gateExport => []
  | .gateImport => []
  | .remoteOpExecute => []
  | .remoteStoreArrival => []
  | .releaseFlagCommit => []
  | .remoteReplyArrival => []
  | .wstErrorCompletion => []
  | .hostAccessArrival => []
  | .requestTimeout => []
  | .cimParityError => []
  | .dcfgWrite => []
  | .hmaskWrite => []
  | .rtnWrite => []
  | .domainBsyEnd => []
  | .collGroupWrite => []
  | .dieReset => []
  | .dieResetFence => []
  | .dieResetExecute => []
  | .dieResetComplete => []
  | .partitionCreate => []
  | .partitionModify => []
  | .partitionReset => []
  | .partitionStop => []
  | .partitionRelease => []
  | .partitionDestroy => []
  | .mfreeze => []
  | .mthaw => []
  | .resetQuiesce => []
  | .resetWipeComplete => []
  | .modifyApply => []
  | .partitionStopComplete => []
  | .resourceRetire => []
  | .debugFreezeRequest => []
  | .freezeBegin => []
  | .debugResumeRequest => []
  | .freezeResume => []
  | .flitReceive => []
  | .linkFail => []
  | .linkFailover => []
  | .alignComplete => []
  | .vfRegisterWrite => []
  | .sqDoorbell => []
  | .hostLoad => []
  | .hostLaunch => []
  | .hostRelease => []
  | .hostUnload => []
  | .hostQuote => []
  | .functionLevelReset => []
  | .antiRollbackRaise => []
  | .lifeCycleChange => []
  | .powerOnReset => []
  | .thermalShutdown => []
  | .fatalFrameFree => []
  | .exportTableWrite => []
  | .managementTaskStart => []
  | .ownerKeyEnrol => []
  | .ownerKeyRevoke => []
  | .sramScrub => []

end Sys2Proof
end

