-- ==== Sys2Proof/Config.lean ====
section
/-! DEFINITION. What an implementation fixes and what the spec leaves open. The opaque constants have no body: no proof
can learn a value of one, so a statement that holds holds whatever they are. -/

namespace Sys2Proof

/-- The values that the spec leaves free, in the order in which steps draw them (log entry 4). -/
opaque Config.freeNat : Nat → Nat

/-- Whether 0 times infinity plus a quiet NaN raises NV, which IEEE 754-2019 leaves to the implementation (R54, log
entry 10). -/
opaque Config.zeroInfNaNInvalid : Bool

/-- What a block written under one memory key and tweak reads as under another: the bytes of AES-XTS with the wrong key or
tweak (R299, log entry 11). Arguments: key and tweak it was written under, key and tweak it is read under (`sealOf`),
plaintext. -/
opaque Config.otherKey : Nat → Nat → BlockBits → BlockBits

/-- The signature of the module identity key, whose private half nothing returns, over a digest with a salt: a number of 384
bytes (R410, R411; log entry 12). -/
opaque Config.identitySign : BitVec 256 → Nat → Nat

/-- The words of Alzin's certificate for the identity key at the offsets of the physical function where it is read; none elsewhere
(R411, log entry 12). -/
opaque Config.certificate : Nat → Option Nat

/-- The translator version that a quote reports (R411, R415). -/
opaque Config.translatorVersion : Nat

/-- The number of cycles that the translator takes for a completion known only at run time (R415; log entry 44). The argument
is the number of the word's opcode, 64 E + OP. -/
opaque Config.translatorCycles : Nat → Nat

/-- Cycles in one round of the slot calendars (R322). -/
def Config.round : Nat := 1024

/-- Clusters of a compute die, cores of a cluster (R1). -/
def Config.clusters : Nat := 36
def Config.cores : Nat := 4

/-- Bytes of a scratchpad (R268). -/
def Config.spadBytes : Nat := 4194304

/-- Bytes of DRAM behind one channel: 2 × 10^9, half of a channel pair (R270). -/
def Config.channelBytes : Nat := 2000000000

/-- The hub's die number (R1). -/
def Config.hubDie : Nat := 8

/-- Bound after which a tier 1 to 3 request counts as unanswered (R301). -/
def Config.timeout : Nat := 1048576

/-- Longest full-frame save (R331), and the bound of completion during a freeze (R333). -/
def Config.saveBound : Nat := 420

end Sys2Proof
end

