-- ==== Sys2Proof/Machine/Types.lean ====
section
/-! DEFINITION. The pieces that the state is made of: registers, queues, tables, records of memory and of the engines,
and the subjects of events. Every piece is plain data. -/

namespace Sys2Proof.Machine

open Sys2Proof

/-! ## Registers of a sequencer -/

/-- A memory handle (R22). `perm` is bits [6:4]; `base` is the hidden physical page base. -/
structure Handle where
  v : Bool := false
  rp : Bool := false
  sz : Nat := 0
  perm : Nat := 0
  home : Nat := 0
  tier : Nat := 0
  key : Nat := 0
  gen : Nat := 0
  vbase : Nat := 0
  base : Nat := 0
  deriving DecidableEq, Repr

/-- A capability register: 128 bits and the hidden tag (R24). -/
structure Cap where
  bits : BitVec 128 := 0
  tag : Bool := false
  deriving DecidableEq, Repr

/-- One level of the loop stack (R13). -/
structure LoopLevel where
  count : Nat
  index : Nat
  start : Nat
  len : Nat
  deriving DecidableEq, Repr

/-- An amax ring (R21). -/
structure Ring where
  ent : Fm W32 := []
  cnt : Nat := 0
  nxt : Nat := 0
  deriving DecidableEq, Repr

/-- A loop-nest table (R27): the level records of R207 and the global record of R208. -/
structure NestTable where
  lvl : Fm (BitVec 80) := []
  glob : BitVec 128 := 0
  deriving DecidableEq, Repr

/-- What a nest does next (R216 to R218). Pops, pushes and boundaries come before the words of a cycle, the read of a row
with the accesses to the scratchpad. -/
inductive NestAct where
  /-- Entry for the A row: kind 0 operand, 1 link queue. -/
  | pop (kind q : Nat)
  /-- A credit of an operand out-port is needed in this cycle. -/
  | need (port : Nat)
  /-- The step: its A row is read, accumulated, and the events of its end group are begun. -/
  | row
  /-- An entry of a drain, or of a forwarded row. -/
  | push (drain : Bool) (kind port : Nat) (e : EntryBits)
  /-- Drained bytes are placed in the scratchpad, or in a tile. -/
  | place (toTile : Bool) (addr len data : Nat)
  /-- Part j of the B block at an address is read into the array from the scratchpad. -/
  | reload (j addr : Nat)
  /-- Part j of the B block is popped from its queue. -/
  | reloadQ (j : Nat)
  /-- A safe boundary (R220). -/
  | bound
  /-- The nest ends. -/
  | finish
  deriving DecidableEq, Repr

/-- The running nest (R27, R216 to R220). -/
structure Nest where
  /-- The nest is in flight. -/
  live : Bool := false
  /-- The nest was stopped at a safe boundary and its progress is kept (R220, R330, R333). -/
  parked : Bool := false
  /-- The index of each level at the next step. -/
  ix : List Nat := [0, 0, 0, 0, 0, 0]
  /-- Touched(l) of R216, for l = 0 to 5. -/
  touched : List (List Nat) := [[], [], [], [], [], []]
  /-- Fresh slots of the A row buffer and the row each holds. -/
  abuf : Fm Nat := []
  /-- The drain cursor (R217). -/
  cursor : Nat := 0
  /-- Quadrants claimed (R32), and the banks that it holds (R221). -/
  claim : Nat := 0
  banks : Nat := 0
  /-- Issue cycle of its MGO. -/
  issue : Nat := 0
  /-- Stop asked for: 0 none, 1 freeze, 2 full-frame save, 3 discard (R220). -/
  stop : Nat := 0
  /-- What it does next, each with its cycle, and the cycles by which waits have moved it. -/
  todo : List (Nat × NestAct) := []
  /-- Drains whose cycle lies in a freeze: they are written after it (R333). -/
  held : List (Nat × NestAct) := []
  slip : Nat := 0
  /-- Entries popped for the next row. -/
  got : List EntryBits := []
  /-- Whether a timing fault was raised for the present wait (R218). -/
  posted : Bool := false
  deriving DecidableEq, Repr

/-- A register that a word reads or writes, or a class of which there is one (R15, R415). -/
inductive Res where
  | g (n : Nat) | p (n : Nat) | v (n : Nat) | m (n : Nat) | h (n : Nat) | k (n : Nat) | i (n : Nat) | ring (n : Nat)
  | oq (n : Nat) | lq (n : Nat) | oport (n : Nat) | lport (n : Nat)
  | shape | shadow | fstat | fctl
  deriving DecidableEq, Repr

/-- Storage of a sequencer that holds a double-bit error (R334): a g register, 64 bits of a tile or of a mask, a loop level, an
amax entry. -/
inductive Spot where
  | g (n : Nat)
  | tile (n w : Nat)
  | mask (n w : Nat)
  | level (n : Nat)
  | amax (ring e : Nat)
  deriving DecidableEq, Repr

/-- Where a double-bit error strikes (R302, R324, R334): storage of a sequencer; 64 bits of a physical accumulator row; a word of
an instruction store; a block of a scratchpad; a line of an L2 slice or of an RDC. -/
inductive Upset where
  | spot (sid : Nat) (x : Spot)
  | row (core r w : Nat)
  | word (key n : Nat)
  | spad (cluster addr : Nat)
  | line (pa : Nat)
  | rdc (die pa : Nat)
  deriving DecidableEq, Repr

/-! ## Fetch and issue -/

/-- A level of the fetch unit's own loop stack (R119): `count` is none while a LOOP has not issued (R437). -/
structure FetchLevel where
  count : Option Nat
  iter : Nat
  start : Nat
  len : Nat
  /-- Fetch order of the loop word. -/
  fo : Nat
  deriving DecidableEq, Repr

/-- A word in a column queue (R11, R314). -/
structure QWord where
  /-- Word index and the word itself, with its literal where one follows. -/
  pc : Nat
  w : Nat
  lit : Option Nat := none
  /-- Column E and delay D. -/
  col : Nat := 0
  dly : Nat := 0
  /-- Arrival cycle in the column queue (R314); its fetch position while the splitter holds it back. -/
  arr : Nat := 0
  /-- Place in fetch order, join group (R120, R315), and the redirect floor b + 4 of its path (R116). -/
  fo : Nat := 0
  grp : Nat := 0
  flo : Nat := 0
  /-- The word index lies outside the addressable range (R12). -/
  oor : Bool := false
  /-- The fetch loop stack when the word was fetched, restored when a transfer is taken. -/
  stk : List FetchLevel := []
  /-- A violation of this word was already recorded (R319). -/
  posted : Bool := false
  /-- The cycle in which the word was last found unable to issue. -/
  tried : Option Nat := none
  deriving DecidableEq, Repr

/-- What a join does to the loop stack (R119, R120). -/
inductive JoinOp where
  /-- Before and after YIELD, SEAM, END or WAITB: a floor, and nothing else (R123 to R125, R128). -/
  | plain
  /-- The first iteration of a level, or the words after a loop whose count is 0. -/
  | first
  /-- INDEX of the innermost level advances. -/
  | advance
  /-- `n` exhausted levels are popped; where `adv`, the level below them advances at the same boundary. -/
  | pop (n : Nat) (adv : Bool)
  deriving DecidableEq, Repr

/-- A join ahead in fetch order (R120): it comes due when every word whose place in fetch order is below `after` has
issued. -/
structure Join where
  after : Nat
  op : JoinOp
  /-- The word index of the first word after the join (R130). -/
  pc : Nat
  /-- The join group that begins here. -/
  grp : Nat
  deriving DecidableEq, Repr

/-- One column (R11): Last_c + 1 in the sequencer's local time, or none for −∞ (R315), and the first cycle in which the
datapath is free. -/
structure Column where
  next : Option Nat := none
  free : Nat := 0
  deriving DecidableEq, Repr

/-- A pending non-fatal event (R325): code and column. -/
structure Pending where
  code : Nat
  col : Nat
  deriving DecidableEq, Repr

/-- An entry of an engine command queue (R232): the word, the operand values read at issue, and its progress. -/
structure Cmd where
  /-- The ASY word, and its instruction. -/
  w : Nat := 0
  ins : Instr := .powerOnReset
  /-- Values of g operands; handles; tile and SHAPE (R233, R239). -/
  gs : List Nat := []
  hs : List Handle := []
  tile : TileBits := 0
  shape : Nat := 0
  /-- Identity, issuing sequencer, queue, issue cycle, place in issue order. -/
  id : Nat := 0
  sid : Nat := 0
  q : Nat := 0
  issue : Nat := 0
  ord : Nat := 0
  /-- Launch of the task that issued it; its partition and generation. -/
  launch : Nat := 0
  part : Nat := 63
  gen : Nat := 0
  /-- It has its place in the queue; false while it alone waits for room (R317). -/
  room : Bool := true
  /-- Start cycle S once it is fixed; next chunk. -/
  start : Option Nat := none
  chunk : Nat := 0
  /-- Detached entries continue while the task is descheduled; an engine performs it (R372). -/
  det : Bool := false
  engaged : Bool := false
  /-- Fence mask of a QFENCE entry. -/
  fence : Option Nat := none
  /-- Paused at a chunk boundary (R331, R333, R373). -/
  paused : Bool := false
  /-- Its violation was recorded. -/
  posted : Bool := false
  /-- YBOUND.CYC of the issuing task and partition time, both at issue (R241). -/
  yb : Nat := 0
  pt : Nat := 0
  deriving DecidableEq, Repr

/-- What a sequencer is doing. -/
inductive Run where
  /-- No task. -/
  | idle
  /-- Loading a timetable for a placed launch or a resume (R310, R312). -/
  | placed
  /-- Running. -/
  | run
  /-- The task issues nothing more; its full frame is to be saved with this code (R328, R331). -/
  | ending (code : Nat)
  /-- The full-frame save is in progress. -/
  | saving (code : Nat)
  /-- END has issued; the half is released when its words have completed (R128). -/
  | finishing
  /-- The yield frame is saved and the half is not free yet (R312). -/
  | leaving
  /-- It issues nothing while its partition is frozen, or from its BKPT on (R333). -/
  | halted
  deriving DecidableEq, Repr

/-- The task that a sequencer runs. -/
structure Task where
  part : Nat := 63
  launch : Nat := 0
  /-- Image entry word within the instruction store, timetable, words, handler. -/
  img : Nat := 0
  tt : Nat := 0
  entry : Nat := 0
  words : Nat := 0
  handler : Nat := 0
  /-- Physical base of the timetable's first word in DRAM. -/
  code : Nat := 0
  prio : Nat := 0
  age : Nat := 0
  ageKey : Nat := 0
  slot : Nat := 0
  /-- Virtual address of the argument block, index and number of halves (R38). -/
  args : Nat := 0
  index : Nat := 0
  halves : Nat := 0
  /-- Partition time of begin or resume. -/
  since : Nat := 0
  deriving DecidableEq, Repr

/-- An undrained STNT store (R187): its visibility bound, or none while an untimed one is unacknowledged. -/
structure StntRec where
  id : Nat
  bound : Option Nat
  deriving DecidableEq, Repr

/-- An outstanding store, atomic or cache operation, kept until it is visible: for REL, SFENCE and END. -/
structure Outstanding where
  id : Nat
  /-- Physical page base of the page written, page size; scratchpad accesses have none. -/
  page : Option (Nat × Nat) := none
  /-- Device-physical address and length of the bytes. -/
  addr : Nat := 0
  len : Nat := 0
  /-- Cycle at which it is visible, none while not promised. -/
  at_ : Option Nat := none
  /-- 0 store, 1 load, 2 atomic, 3 cache range, 4 remote store, 5 STNT, 6 DRAIN, 7 record of a RATT. -/
  kind : Nat := 0
  issue : Nat := 0
  deriving DecidableEq, Repr

/-- A path from a sequencer to a peer module (R262). -/
structure Path where
  seq : Nat := 0
  since : Nat := 0
  deriving DecidableEq, Repr

/-- A sequencer: registers (R15), system registers (R41), fetch and issue (R314, R315), command queues (R232). -/
structure Seq where
  run : Run := .idle
  task : Task := {}
  /-- PC of the word that ended or stopped the task, and its column (R330). -/
  pc : Nat := 0
  ecol : Nat := 0
  /-- Partition time of the event that ended or stopped it. -/
  endedAt : Nat := 0
  lstk : List LoopLevel := []
  g : Fm W64 := []
  p : BitVec 16 := 0
  v : Fm TileBits := []
  m : Fm MaskBits := []
  h : Fm Handle := []
  k : Fm Cap := []
  shape : BitVec 18 := 0x4000
  rings : Fm Ring := []
  shadow : NestTable := {}
  active : NestTable := {}
  nest : Nest := {}
  -- system registers
  ut : Bool := false
  pl : Nat := 0
  tact : Bool := false
  desync : Bool := false
  slend : Bool := false
  stopp : Bool := false
  wrn : BitVec 8 := 0
  fstat : BitVec 5 := 0
  fctl : Bool := false
  trapMode : Bool := false
  hcyc : Nat := 0
  errs : BitVec 64 := 0
  tvec : BitVec 16 := 0
  tcause : BitVec 12 := 0
  tpos : BitVec 19 := 0
  ttime : BitVec 64 := 0
  frame : BitVec 64 := 0
  ybound : Nat := 0
  /-- The partition time at which the deadline expires; none when no deadline is armed (R123). -/
  dline : Option Nat := none
  /-- The scratch registers, by number. -/
  scr : Fm W64 := []
  -- pending events
  pend : List Pending := []
  targ : Nat := 0
  -- fetch
  fpc : Nat := 0
  fbase : Nat := 0
  fpos : Nat := 0
  ffo : Nat := 0
  fgrp : Nat := 0
  fflo : Nat := 0
  fstk : List FetchLevel := []
  /-- First word index of the run of sequential fetch (R119). -/
  frun : Nat := 0
  /-- The fetch unit holds: at a loop end whose count is unknown, or after an index out of range. -/
  fhold : Bool := false
  fstop : Bool := false
  fq : List QWord := []
  /-- The words that the splitter holds back, the one whose queue was full first; `arr` of each is its fetch position. -/
  bq : List QWord := []
  joins : List Join := []
  -- issue
  cols : Fm Column := []
  floor : Nat := 0
  grp : Nat := 0
  /-- Latest issue cycle of any word so far, in local time. -/
  lastIssue : Nat := 0
  /-- Real cycles by which holds have moved the sequencer (R318). -/
  slip : Nat := 0
  heldAt : Option Nat := none
  /-- A seam instruction is outstanding (R178), or a WAITB holds. -/
  seam : Bool := false
  waitb : Option Nat := none
  /-- UT at the issue of the ALIGN that executes (R126). -/
  alignUt : Option Bool := none
  /-- SFENCE holds the MEM and SYN columns (R196). -/
  sfence : Bool := false
  outst : List Outstanding := []
  stnt : List StntRec := []
  -- engines
  cmds : List Cmd := []
  cmdOrd : Nat := 0
  laneFree : Nat := 0
  mergeFree : Nat := 0
  /-- The virtual address of the XLT that met a page fault (R324, R331). -/
  faultVa : Nat := 0
  /-- The ready entry that has reserved the half while a task runs on it, and to which it passes: a launch, or a saved task
  (R309). -/
  claim : Option (Option Nat × Task) := none
  /-- Storage with a double-bit error, which reads as zeros (R334). -/
  upset : List Spot := []
  paths : Fm Path := []
  deriving DecidableEq, Repr

/-! ## Cores -/

/-- The contents of one quadrant (R206, R214, R302, R330): weight blocks of 64 bytes keyed 16 n + block, their scale
bytes, format, WSTATE source and address, poison; the mask of the load that it is from, and the sequencer that loaded it. -/
structure Quad where
  blk : Fm BlockBits := []
  sc : Fm Nat := []
  fmt : Nat := 0
  src : Nat := 0
  addr : Nat := 0
  poison : Bool := false
  mask : Nat := 0
  by_ : Option Nat := none
  deriving DecidableEq, Repr

/-- An entry in a receiving queue and where its credit goes: core and number of the out-port that pushed it, or link and
lane. -/
structure QItem where
  data : EntryBits
  core : Nat
  port : Nat
  deriving DecidableEq, Repr

/-- What waits at an out-port for credits (R226, R228): an entry of a push, or a reservation. -/
inductive PortWait where
  | push (e : EntryBits) (sid issue j : Nat)
  | rsv (n sid issue : Nat)
  deriving DecidableEq, Repr

/-- A link entry that waits to depart (R227): entry and push cycle; link, lane and peer queue of the binding that it was pushed
through; partition and generation of its sender. -/
structure LinkWait where
  data : EntryBits
  at_ : Nat
  link : Nat
  lane : Nat
  queue : Nat
  part : Nat
  gen : Nat
  /-- Its path sequence number, once it has departed (R386). -/
  num : Option Nat := none
  deriving DecidableEq, Repr

/-- An out-port binding (R224, R229): the target core and queue of an operand port, link, lane and peer queue of a link
port. -/
structure Port where
  bound : Bool := false
  core : Nat := 0
  queue : Nat := 0
  link : Nat := 0
  lane : Nat := 0
  rank : Nat := 0
  credits : Nat := 0
  resv : Nat := 0
  loopback : Bool := false
  /-- Entries pushed through it whose pop or loss is not known. -/
  held : Nat := 0
  /-- Kept sender generation of the receiving binding (R227). -/
  kgen : Option Nat := none
  /-- What waits for credits, oldest first. -/
  pend : List PortWait := []
  /-- Link entries that wait to depart, oldest first. -/
  wait : List LinkWait := []
  /-- The next cycle in which this port's lane slot is free for it. -/
  slotAfter : Nat := 0
  /-- How often a binding of it has come into force: a credit of an earlier one is not counted. -/
  binds : Nat := 0
  deriving DecidableEq, Repr

/-- A pop that waits for its entry (R226): kind 0 operand, 1 link; physical queue; entry j of n into a tile. -/
structure PopWait where
  kind : Nat
  q : Nat
  sid : Nat
  tile : Nat
  j : Nat
  n : Nat
  issue : Nat
  deriving DecidableEq, Repr

/-- What a queue and the out-port of the same number held before the first word of a cycle that pushed or popped there (R31):
cycle, kind, number, entries held, credits, reservation. -/
structure Depths where
  cyc : Nat
  kind : Nat
  q : Nat
  held : Nat
  credits : Nat
  resv : Nat
  deriving DecidableEq, Repr

/-- What an accumulator row held before a nest of `sid` wrote it in cycle `cyc` (R31). -/
structure RowWas where
  cyc : Nat
  sid : Nat
  row : Nat
  was : RowBits
  deriving DecidableEq, Repr

/-- A core (R12, R25, R26, R28, R206). -/
structure Core where
  split : Bool := false
  /-- The instruction store of 65,536 words. -/
  store : Fm W32 := []
  /-- Instruction-store words that are uncorrectable (R324). -/
  badWords : List Nat := []
  acc : Fm RowBits := []
  /-- Accumulator rows with a double-bit error: physical row, 64 bits of it (R334). -/
  badRows : List (Nat × Nat) := []
  /-- Rows as they were before the nests' writes of the present cycle. -/
  rowsWere : List RowWas := []
  quads : Fm Quad := []
  oq : Fm (List QItem) := []
  lq : Fm (List QItem) := []
  oport : Fm Port := []
  lport : Fm Port := []
  /-- Pops that wait for entries, oldest first. -/
  pops : List PopWait := []
  /-- Depths before the pushes and pops of the present cycle. -/
  depths : List Depths := []
  deriving DecidableEq, Repr

/-! ## Memories -/

/-- A block as memory delivers it: data, tag, granule tags, uncorrectable. -/
structure Block where
  data : BlockBits := 0
  tag : Nat := 0x7F00
  ctag : BitVec 4 := 0
  bad : Bool := false
  deriving DecidableEq, Repr

/-- A line of an L2 set (R278, R283): way, line address, data, tag, hidden capability tags, dirty, LRU stamp. -/
structure Line where
  way : Nat
  pa : Nat
  data : BlockBits
  tag : Nat
  ctag : BitVec 4
  dirty : Bool
  bad : Bool
  stamp : Int
  key : Nat
  deriving DecidableEq, Repr

/-- A write-buffer entry (R279): location, bytes, byte mask, tag, capability tags and the key of the page. -/
structure WbEntry where
  loc : Nat
  data : BlockBits
  mask : BitVec 64
  tag : Nat
  ctag : BitVec 4
  key : Nat
  bad : Bool
  pa : Nat
  deriving DecidableEq, Repr

/-- A line of the RDC (R285). -/
structure RdcLine where
  pa : Nat
  data : BlockBits
  tag : Nat
  part : Nat
  gen : Nat
  stamp : Nat
  /-- A double-bit error was met in it (R302). -/
  bad : Bool := false
  deriving DecidableEq, Repr

/-- An entry of a last-level TLB (R297). -/
structure TlbEntry where
  part : Nat
  gen : Nat
  h : Handle
  stamp : Nat
  deriving DecidableEq, Repr

/-- A retention register (R282). -/
structure Rtn where
  base : Nat := 0
  last : Nat := 0
  ways : Nat := 0
  v : Bool := false
  grant : Nat := 0
  gv : Bool := false
  deriving DecidableEq, Repr

/-- How the bytes of an access are named. -/
inductive Space where
  /-- Device-physical address (R267). -/
  | phys
  /-- Scratchpad of a cluster of the module, numbered 36 die + cluster (R268). -/
  | spad (cluster : Nat)
  /-- Host memory outside the module (R235, R399). -/
  | host
  deriving DecidableEq, Repr

/-- Where the data of a load goes. -/
inductive Dest where
  | none
  | g (n : Nat)
  | tile (n : Nat)
  /-- A tagged load under SHAPE and FCTL.OVINF at issue (R113, R185). -/
  | tagged (n : Nat) (shape : Nat) (ov : Bool)
  | cap (n : Nat)
  /-- A page move of a die's tier sequencer (R291). -/
  | move (die ord : Nat)
  deriving DecidableEq, Repr

/-- What an access does at its home (R244). -/
inductive Op where
  | read
  | write
  /-- Read-modify-write at the sync engine: code of R190, width in bytes, operand, comparand. -/
  | atomic (code width a b : Nat)
  /-- Floating-point add of VATOM (R191). -/
  | fadd (a : Nat)
  | bind (page pageSize scope : Nat)
  | unbind (page pageSize : Nat)
  | acq (shared try_ : Bool)
  | prefetch
  deriving DecidableEq, Repr

/-- How an access treats the caches (R278). -/
inductive Alloc where
  | normal
  | evictFirst
  | stream
  | engine
  | hostPort
  | fill
  deriving DecidableEq, Repr

/-- An access on its way to its home (R244, R245). -/
structure Access where
  id : Nat := 0
  sid : Nat := 0
  op : Op := .read
  space : Space := .phys
  addr : Nat := 0
  len : Nat := 0
  /-- Bytes to store, byte 0 in the low bits; block tags to store, none for 0x7F00; capability tags to store, one bit for each
  granule of the range. -/
  data : Nat := 0
  tags : Option (List Nat) := none
  ctags : Nat := 0
  dest : Dest := .none
  alloc : Alloc := .normal
  key : Nat := 0
  hnd : Nat := 0
  off : Nat := 0
  part : Nat := 63
  gen : Nat := 0
  /-- Promised cycle of the data; none for an unpromised result. -/
  promise : Option Nat := none
  cls : Nat := 0
  rdc : Bool := false
  page : Nat := 0
  pageSize : Nat := 0
  seam : Bool := false
  issue : Nat := 0
  tier : Nat := 0
  /-- Column of the word, and its word index. -/
  col : Nat := 3
  pc : Nat := 0
  /-- A chunk of a detached copy: entry and chunk number. -/
  chunk : Option (Nat × Nat) := none
  /-- Home cycles of the blocks that have not had theirs, by block of the range (R246); none for the cycle of the access. -/
  todo : Option (List (Nat × Nat)) := none
  /-- Blocks read so far, and whether each hit. -/
  got : Fm (Block × Bool) := []
  /-- Its place among the accesses of one word: the element of a VATOM (R191). -/
  elem : Nat := 0
  /-- The cycle by which it takes place in any case: a VATOM's bound (R191), cD of a drained STNT (R187), a replay (R431). -/
  by_ : Option Nat := none
  /-- The cycle in which it leaves its source router, as far as holds have moved it (R381): the issue of a request, the home
  cycle of the data that comes back. -/
  leave : Nat := 0
  /-- It is a held request in its replay cycle, ahead of new ones (R431). -/
  again : Bool := false
  /-- The task that issued it: its launch and its index there. -/
  task : Nat × Nat := (0, 0)
  deriving DecidableEq, Repr

/-- A domain block of a die (R273 to R276, R282): configuration, masks, counters and the map in force. -/
structure Dom where
  first : Nat := 0
  l2c : Nat := 4
  v : Bool := false
  part : Nat := 0
  err : Bool := false
  bsy : Bool := false
  hm : List Nat := [1, 2, 4, 8]
  rtn : Fm Rtn := []
  cnt : Fm W64 := []
  /-- FIRST, LOG2CNT and masks when V was last 1; none before (R276, R430). -/
  force : Option (Nat × Nat × List Nat) := none
  deriving DecidableEq, Repr

/-- A sync object held by a sync engine (R192). -/
structure SyncObj where
  seq : Nat := 0
  hold : Nat := 0
  scope : Nat := 0
  anchor : Nat := 0
  part : Nat := 63
  /-- Bound pages: physical base and size. -/
  pages : List (Nat × Nat) := []
  /-- Sequencers that hold the object; a shared holder may stand more than once. -/
  holders : List Nat := []
  /-- Waiting requests in arrival order: sequencer, destination g register, shared, access. -/
  waiters : List Access := []
  deriving DecidableEq, Repr

/-! ## Partitions, gates, engines, links, host -/

/-- One grant of a calendar (R383). -/
structure Grant where
  kind : Nat
  die : Nat
  unit : Nat
  first : Nat
  cnt : Nat
  sb : Bool
  deriving DecidableEq, Repr

/-- A partition: the record in force at the hub, as its 1,024 bytes (R337), and what the hub keeps beside it. -/
structure Part where
  img : BitVec 8192 := 0
  clamp : BitVec 32 := 0
  cal : List Grant := []
  /-- Partition time while it stands still (R304, R340), and the freeze cycle. -/
  stood : Option Nat := none
  /-- The cycle by which the accesses issued before the freeze have completed (R333). -/
  settle : Nat := 0
  /-- The sequencers whose BKPT stands in the freeze (R333). -/
  bkpt : List Nat := []
  /-- Frame slots in use (R329). -/
  slots : List Nat := []
  /-- MODIFY in progress: the record image to apply and the forced flag (R348). -/
  modify : Option (BitVec 8192) := none
  /-- The generation that the dies go by from a RESET until they stop 20 cycles later (R343). -/
  dieGen : Option Nat := none
  /-- The running reset is that of a DESTROY. -/
  destroying : Bool := false
  /-- STOP or MFREEZE has paused the partition's detached entries (R373). -/
  hold : Bool := false
  /-- It lost a resource of this die while it was resetting (R350). -/
  loss : Option Nat := none
  deriving DecidableEq, Repr

/-- A GPASS, GTAKE or GSTAT on its way to the gate table, or waiting there (R354 to R357): sequencer, partition and its
generation, gate number, register written, gv, place among the issuer's accesses, issue cycle. -/
structure GateReq where
  sid : Nat := 0
  part : Nat := 63
  gen : Nat := 0
  gate : Nat := 0
  dst : Nat := 0
  gv : Nat := 0
  id : Nat := 0
  issue : Nat := 0
  deriving DecidableEq, Repr

/-- An admitted pass that is not yet effective: its version and its request (R356). -/
structure Pass where
  ver : Nat
  req : GateReq
  deriving DecidableEq, Repr

/-- A gate record (R351), its waiters, and its admitted passes that are not yet effective. -/
structure Gate where
  owner : Nat := 0
  st : Nat := 0
  unl : Bool := false
  n : Nat := 0
  rate : Nat := 0
  burst : Nat := 0
  level : Nat := 0
  ver : Nat := 0
  adm : Nat := 0
  base : Nat := 0
  size : Nat := 0
  key : Nat := 0
  acl : List Nat := [0, 0, 0, 0, 0, 0, 0, 0]
  waiters : List GateReq := []
  passes : List Pass := []
  deriving DecidableEq, Repr

/-- The hub registers of one management sequencer and the staging copies (R339, R352, R374, R389). -/
structure Hub where
  paddr : Nat := 0
  psRes : Nat := 0
  psPart : Nat := 0
  psErr : Bool := false
  psReason : Nat := 0
  gsel : Nat := 0
  gaddr : Nat := 0
  gst : Nat := 0
  stage : Fm W64 := []
  csel : Nat := 0
  alDone : Bool := false
  alErr : Bool := false
  aligned : BitVec 16 := 0
  modn : Nat := 0
  ref_ : Bool := false
  drstBusy : Bool := false
  drstRef : Bool := false
  wtb : Fm Nat := []
  deriving DecidableEq, Repr

/-- A reduction group (R374) and its open rounds. -/
structure Coll where
  owner : Nat := 0
  v : Bool := false
  sys : Bool := false
  ncont : Nat := 0
  shape : Nat := 0
  t : Nat := 0
  rfmt : Nat := 0
  root : Nat := 0
  mods : Nat := 0
  round : Nat := 0
  /-- Contributions of the open round, of the round after it, and those held at the ingress, in arrival order, with their
  arrival cycles. -/
  open_ : List (Cmd × Nat) := []
  next : List (Cmd × Nat) := []
  held : List (Cmd × Nat) := []
  /-- Contributors of SYS rounds that wait for their results, each with its round. -/
  waiting : List (Nat × Cmd) := []
  /-- Partials of SYS rounds at the root: round, module, status and op, partials. -/
  partials : List (Nat × Nat × Nat × List Nat) := []
  deriving DecidableEq, Repr

/-- A command at an attention die (R362, R366): the descriptor and the data sent with it. -/
structure AttCmd where
  cmd : Cmd := {}
  die : Nat := 0
  ctx : Nat := 0
  seq : Nat := 0
  desc : BlockBits := 0
  /-- Query rows or value rows as bytes; key rows; the tags of the blocks of key rows and of value rows; the bitmap. -/
  q : List Nat := []
  k : List Nat := []
  ktags : List Nat := []
  vtags : List Nat := []
  bitmap : List Nat := []
  untimed : Bool := false
  part : Nat := 63
  gen : Nat := 0
  promise : Nat := 0
  deriving DecidableEq, Repr

/-- An attention context (R361) and its reorder window (R362). -/
structure Ctx where
  owner : Nat := 0
  v : Bool := false
  exp : Bool := false
  broken : Bool := false
  next : Nat := 0
  resv : Nat := 0
  credit : Nat := 0
  window : List AttCmd := []
  /-- RATTs of the context still reading: command id and the cycle in which they finish. -/
  reading : List (Nat × Nat) := []
  deriving DecidableEq, Repr

/-- A page list of an attention die (R363): owner context, format and width once fixed, key and value rows, each with the
tags of its blocks, cold pages, and the stamp of its last attend. -/
structure PList where
  fixed : Bool := false
  owner : Nat := 0
  kfmt : Nat := 0
  hw : Nat := 0
  len : Nat := 0
  krow : Fm (List Nat) := []
  ktag : Fm (List Nat) := []
  vrow : Fm (List Nat) := []
  vtag : Fm (List Nat) := []
  cold : List Nat := []
  stamp : Nat := 0
  deriving DecidableEq, Repr

/-- An attention engine (R367): free from a cycle on, held by a timed RATT until a cycle, and the untimed RATT that it runs or
has suspended: sequencer, entry, context. -/
structure AttEngine where
  free : Nat := 0
  hold : Nat := 0
  untimed : Option (Nat × Nat × Nat) := none
  deriving DecidableEq, Repr

/-- A tier-sequencer entry or move (R291, R292, R377). -/
structure Move where
  cmd : Cmd := {}
  part : Nat := 63
  gen : Nat := 0
  /-- Virtual page base and size of the pages still to be moved. -/
  va : Nat := 0
  size : Nat := 0
  tier : Nat := 0
  home : Nat := 0
  deadline : Nat := 0
  ord : Nat := 0
  pfs : Bool := false
  /-- Source leaf and destination base. -/
  src : Nat := 0
  dst : Nat := 0
  /-- End of its copy phase, once that has begun (R291). -/
  until_ : Nat := 0
  deriving DecidableEq, Repr

/-- The tier sequencer of a die (R377, R378). -/
structure TierSeq where
  drop : W64 := 0
  act : List Move := []
  pend : List Move := []
  deriving DecidableEq, Repr

/-- A page whose translation is being revoked (R293). -/
structure Revoke where
  part : Nat
  vbase : Nat
  size : Nat
  at_ : Nat
  /-- Sequencers whose tasks ran at r and have not yet yielded or ended after r + 64. -/
  waiting : List Nat
  /-- Revoke-pending: XLT writes RP = 1. -/
  pending : Bool
  move : Option Nat
  die : Nat
  /-- The leaf at r: a revocation by the hypervisor is pending until it changes. -/
  leaf : Nat := 0
  /-- The move holds new engine chunks on the page. -/
  copying : Bool := false
  deriving DecidableEq, Repr

/-- An export-table entry (R395). -/
structure Export where
  part : Nat := 0
  base : Nat := 0
  limit : Nat := 0
  perm : Nat := 0
  wkey : Nat := 0
  v : Bool := false
  deriving DecidableEq, Repr

/-- A packet between modules (R396, R262): operation, addressing and operands. -/
structure Packet where
  /-- 0 load, 1 store, 2 RCAS2, 3 RENQ, 4 RCHASE, 5 release flag, 6 reply, 7 acknowledgement, 8 error completion,
  9 link entry, 10 credit, 11 collective partial, 12 plain physical read, 13 plain physical write, 14 poison (R301),
  15 acknowledgement of an entry or credit (R386), 16 idle marker (R392). -/
  op : Nat := 0
  src : Nat := 0
  dst : Nat := 0
  sid : Nat := 0
  part : Nat := 63
  gen : Nat := 0
  pseq : Nat := 0
  count : Nat := 0
  expid : Nat := 0
  window : Option Nat := none
  /-- Capability base within the export, and offset within the export. -/
  base : Nat := 0
  off : Nat := 0
  len : Nat := 0
  ops : List Nat := []
  data : Nat := 0
  id : Nat := 0
  link : Nat := 0
  lane : Nat := 0
  queue : Nat := 0
  /-- Capability tags of the granules of a plain range. -/
  ctags : Nat := 0
  /-- The cycle in which it departs (R387, R388); none where no slot serves it. -/
  dep : Option Nat := some 0
  /-- At its home: it has passed its checks; its blocks that have not had their home cycle, with their cycles, and what those read so
  far gave (R246); the nodes of an RCHASE that are left (R396). -/
  begun : Bool := false
  todo : List (Nat × Nat) := []
  got : Fm Block := []
  left : Nat := 16
  deriving DecidableEq, Repr

/-- An Onino link (R389). -/
structure Link where
  peer : Nat := 0
  en : Bool := false
  xp : Bool := false
  via : Nat := 0
  alten : Bool := false
  up : Bool := false
  fail : Bool := false
  alt : Bool := false
  lat : Nat := 0
  meas : Nat := 0
  drop : W32 := 0
  replay : W32 := 0
  /-- Cycles of the replays of the last 1,024 cycles (R392), and the last one in which its receiver saw a valid flit or idle
  marker. -/
  replays : List Nat := []
  heard : Nat := 0
  /-- Path sequence number of the last entry or credit sent to the peer; entries, each with core and port, and credits that the
  peer has not acknowledged (R386, R393). -/
  seq : Nat := 0
  sent : List (Nat × Nat × LinkWait) := []
  owed : List Packet := []
  /-- Number of the key that the two modules have agreed (R386, R410); 0 is none. -/
  key : Nat := 0
  deriving DecidableEq, Repr

/-- A request that left the module and is not answered: the packet, and the access that waits. -/
structure Awaited where
  pkt : Packet
  acc : Access
  deriving DecidableEq, Repr

/-- What the home agent keeps of a path from a peer module (R262, R263): accepted sequence numbers, the stores that are visible
and that no flag has counted, and held flags. -/
structure RPath where
  seen : List Nat := []
  vis : List Nat := []
  flags : List Packet := []
  deriving DecidableEq, Repr

/-- A virtual function (R402). -/
structure Vf where
  sqb : Nat := 0
  sqn : Nat := 0
  sqt : Nat := 0
  sqh : Nat := 0
  cqb : Nat := 0
  cqh : Nat := 0
  cqt : Nat := 0
  en : Bool := false
  ovf : Bool := false
  /-- The first cycle in which the hub reads its next entry (R403). -/
  next : Nat := 0
  deriving DecidableEq, Repr

/-- Fuses and secrets of the security processor (R409, R410, R416). -/
structure Fuses where
  life : Nat := 1
  arc : Fm Nat := []
  khash : Fm (BitVec 256) := []
  enrolled : BitVec 5 := 1
  revoked : BitVec 5 := 0
  serial : Nat := 0
  /-- Digests of the firmware and hypervisor images (R411). -/
  digests : Fm (BitVec 256) := []
  /-- Highest SVN verified since the last reset, per counter class (R409). -/
  seenSvn : Fm Nat := []
  identity : Bool := true
  deriving DecidableEq, Repr

/-- A pending launch (R305 to R310). -/
structure Launch where
  id : Nat := 0
  part : Nat := 0
  sidFrom : Nat := 0xFFFF
  descVa : Nat := 0
  start : Nat := 0
  args : Nat := 0
  depv : Bool := false
  dep : Nat := 0
  depReady : Bool := false
  img : Nat := 0
  tt : Nat := 0
  die : Nat := 0
  prio : Nat := 0
  exact : Bool := false
  ybound : Nat := 0
  mask : Nat := 0
  words : Nat := 0
  first : Nat := 0
  handler : Nat := 0
  code : Nat := 0
  age : Nat := 0
  ageKey : Nat := 0
  /-- The 64 bytes of the descriptor, and whether they were uncorrectable. -/
  desc : BlockBits := 0
  bad : Bool := false
  /-- It was submitted before the completion of a RESET (R343). -/
  early : Bool := false
  /-- Descriptor read and valid; placed at a cycle. -/
  valid : Bool := false
  placed : Option Nat := none
  slots : List Nat := []
  deriving DecidableEq, Repr

/-- A task that is not running: its frame and where it may be placed (R312, R331, R332). -/
structure Saved where
  sid : Nat := 0
  task : Task := {}
  full : Bool := false
  code : Nat := 0
  ybound : Nat := 0
  frameVa : Nat := 0
  ready : Bool := true
  /-- Pending repartition notice (R348). -/
  notice : Bool := false
  qlost : Bool := false
  placed : Option Nat := none
  home : Nat := 0
  anyHalf : Bool := false
  /-- What the hardware keeps beside the frame: the handles' hidden bases (R298); of each engine entry what its record does not
  hold, such as the tile of a COLL, and the entries that are done since; what the nest's progress in the frame does not hold; the mask of the
load that each quadrant is from. -/
  hs : List Handle := []
  cmds : List Cmd := []
  doneCmds : List Nat := []
  nest : Nest := {}
  masks : List Nat := []
  /-- Pages that were moved, or whose shadow entry changed, since the save: virtual base and size (R298). -/
  gone : List (Nat × Nat) := []
  /-- The virtual address that a page-faulted task waits for. -/
  faultVa : Nat := 0
  deriving DecidableEq, Repr

/-- A task that ended by a fatal event: its slot is kept until the supervisor frees it (R328). -/
structure FatalSlot where
  part : Nat
  slot : Nat
  deriving DecidableEq, Repr

/-! ## Results and events -/

/-- One effect that lands in a cycle after its word issued (R113, R149). -/
inductive Land where
  | g (n : Nat) (v : W64)
  | p (n : Nat) (b : Bool)
  /-- Tile bits under a bit mask; tile 16 to 31 is the partner's (R15, R31). -/
  | tile (n : Nat) (data mask : TileBits)
  | mask (n : Nat) (data mask : MaskBits)
  | h (n : Nat) (x : Handle)
  | k (n : Nat) (x : Cap)
  | shape (x : BitVec 18)
  | ring (n : Nat) (x : W32)
  | fstat (f : BitVec 5)
  | wrn (b : BitVec 8)
  /-- A warning found with a result: the hardware records it in the cycle of the result, after the words (R134). -/
  | warns (b : BitVec 8)
  /-- Accumulator row `r` (physical) under a bit mask. -/
  | acc (r : Nat) (data mask : RowBits)
  /-- WRSR effect on a register of the sequencer (R134): number and value. -/
  | sysreg (n : Nat) (v : W64)
  | smode (b : Bool)
  /-- RDSR of register `n` of another die: sampled here, written to g register `dst` at +42 (R272). -/
  | sample (n die dst issue : Nat)
  /-- Entry j of a push or pop (R225): kind 0 operand, 1 link; port or queue; entry. -/
  | push (kind q : Nat) (e : EntryBits) (j issue : Nat)
  | pop (w : PopWait)
  /-- A violation check of an entry or pop that waits: pop or push, kind, queue, issue cycle, entry. -/
  | qwait (pop : Bool) (kind q issue j : Nat)
  | qrsv (q n : Nat)
  | bind (kind q : Nat) (desc : Nat)
  | event (code col : Nat)
  /-- Uncorrectable data recorded in ERRS (R49). -/
  | errs (hnd off : Nat)
  /-- Uncorrectable data: ERRS, and the event 0x14 where the partition asks for it (R324); column, handle, offset. -/
  | bad (col hnd off : Nat)
  /-- A seam instruction completes: later words issue from the next cycle (R178). -/
  | seamEnd
  /-- An outstanding access has completed. -/
  | retire (id : Nat)
  /-- A configuration register of a die, or of the hub (die 8), takes a value. -/
  | hub (die reg : Nat) (v : W64)
  /-- A clamp counts in CLAMPCNT (R255, R347). -/
  | clamp (part : Nat)
  deriving DecidableEq, Repr

/-- A load of weights in progress (R214): sequencer, its partition and generation, source (1 scratchpad, 2 queue), address or
queue, mask, format, parts in all and the next part, issue cycle, whether its wait was recorded. -/
structure BLoad where
  sid : Nat
  part : Nat
  gen : Nat
  src : Nat
  addr : Nat
  mask : Nat
  fmt : Nat
  n : Nat
  j : Nat
  issue : Nat
  posted : Bool := false
  deriving DecidableEq, Repr

/-- The subject of an event: what the event's row is about. Each event reads the constructor that is its own. -/
inductive Arg where
  | none
  /-- A sequencer; a sequencer and a number. -/
  | seq (sid : Nat)
  | seqN (sid n : Nat)
  | land (sid : Nat) (l : List Land)
  | access (a : Access)
  | deliver (a : Access) (data : Nat) (tags : List Nat) (ctag : Bool) (bad : Bool)
  /-- A range of lines of a CWBR or, where `drop`, of a CINVR, and the die of the page. -/
  | ranges (a : Access) (drop : Bool) (die : Nat)
  /-- Register n of a block for a partition and its generation. -/
  | rtn (die blk n : Nat) (r : Option Rtn) (part gen : Nat)
  | rel (sid : Nat) (pa : Nat) (part : Nat) (die : Nat)
  | launch (l : Launch) (h : Handle) (off : Nat)
  | id (n : Nat)
  | half (sid code : Nat)
  | saved (s : Saved)
  | bload (b : BLoad)
  | entry (core kind q : Nat) (it : QItem) (part gen : Nat)
  /-- A credit for an out-port, from the core that popped, of a partition. -/
  | credit (core kind port : Nat) (link lane : Nat) (src part : Nat)
  | lane (core port : Nat)
  | packet (p : Packet)
  | cmd (sid id : Nat)
  | att (a : AttCmd)
  | records (a : AttCmd) (stat : Nat) (recs : List Nat)
  | merge (sid id done : Nat)
  | mergeRows (c : Cmd) (bytes : List Nat)
  /-- A chunk of a copy: to be read; read and held in the buffer; to be written; answered by another module. -/
  | chunk (c : Cmd) (n : Nat)
  | chunkData (c : Cmd) (n : Nat) (data : Nat) (tags : List Nat) (bad : Option Nat) (write : Bool)
  | chunkReply (id n : Nat) (data : Nat) (tags : List Nat) (bad : Option Nat) (write : Bool)
  | coll (grp : Nat) (c : Cmd)
  | collResult (c : Cmd) (bytes : List Nat) (round status flags : Nat)
  | die (n : Nat)
  | move (die ord : Nat)
  | page (part va size : Nat)
  /-- Another module's answer to a page move. -/
  | moveReply (die ord : Nat) (data : Nat) (tags : List Nat) (ctags : Nat) (bad : Bool) (write : Bool)
  | gate (n : Nat)
  | greq (r : GateReq)
  | gver (gate v : Nat)
  | dcfg (die blk reg : Nat) (v : W64)
  | part (n : Nat)
  | partN (n k : Nat)
  | retire (die : Nat) (cluster : Bool) (n : Nat)
  | freeze (part at_ : Nat)
  | link (n : Nat)
  /-- The watch on a link's receiver (R392). -/
  | silence (n : Nat)
  | flit (n : Nat) (ok : Bool) (p : Packet)
  | vf (f reg : Nat) (v : W64)
  | sub (f : Nat) (entry : BlockBits)
  | fuse (n v : Nat)
  /-- A raise of a counter, by Alzin firmware or by the hypervisor (R409). -/
  | raise (firmware : Bool) (c v : Nat)
  | exportEntry (n : Nat) (e : Export) (root : Option (Nat × Nat × Nat))
  | mgmt (n : Nat) (words handler code : Nat)
  | frame (part slot : Nat)
  /-- Of a virtual function, or of the physical one. -/
  | hostAccess (write : Bool) (f : Option Nat) (a : Access)
  | upset (u : Upset)
  deriving DecidableEq, Repr

/-- An event on the agenda: its cycle, its class in the order of one cycle, its key in the order of R178 and R245 (the
SEQID of its issuer, engine entries after it, the host last), the row, and the subject. -/
structure Ev where
  cyc : Nat
  cls : Nat
  key : Nat
  ins : Instr
  arg : Arg
  deriving DecidableEq, Repr

/-- A request that a domain out of service holds (R276, R431): the die, the block whose replay buffer it is in, the address that
it waits for, the event that it is, and the cycle in which it came. -/
structure Held where
  die : Nat
  blk : Nat
  addr : Nat
  cls : Nat
  ins : Instr
  arg : Arg
  at_ : Nat
  deriving DecidableEq, Repr

/-- The word that the step executes: sequencer, column, word index, the word, how many words it takes, and what the
decoder found (R94, R100). `held` says that the word did not issue in this cycle, `fault` that it raised a fault. -/
structure Cur where
  sid : Nat := 0
  col : Nat := 0
  pc : Nat := 0
  w : Nat := 0
  len : Nat := 1
  fo : Nat := 0
  rsvd : Bool := false
  fb : Bool := false
  held : Bool := false
  fault : Bool := false
  /-- A violation of this word was recorded in an earlier cycle (R319). -/
  posted : Bool := false
  /-- Its effects on the column chain: extra cycles of a WAIT (R115). -/
  extra : Nat := 0
  /-- The fetch loop stack of the word. -/
  stk : List FetchLevel := []
  deriving DecidableEq, Repr

end Sys2Proof.Machine
end

