-- ==== Sys2Proof/Machine/State.lean ====
section
/-! DEFINITION. The state of the module: every piece of state that the spec gives the machine, as plain data, the names
of the ways in which a step can stop, and the state right after reset. -/

namespace Sys2Proof.Machine

open Sys2Proof

/-- Why the machine stops. -/
inductive Fault where
  /-- Raised by `step` when the module has stopped all dies: a thermal or supply shutdown (R418), or a boot step that
  failed (R417), and nothing is left to do. Safe: the spec gives the module no further behaviour. -/
  | moduleStopped
  deriving DecidableEq, Repr

/-- Why a step has no meaning. -/
inductive Refusal where
  /-- Raised by an arm of `exec` whose instruction has no meaning yet. Safe: nothing can be proved of such a step. -/
  | notModelled (mnemonic : String)
  deriving DecidableEq, Repr

/-- The state of the module. Finite maps hold what differs from its reset value; sequencers are keyed by SEQID[12:0]
(R51, R438), cores by SEQID[11:0], die blocks by 16 die + block. -/
structure State where
  /-- The cycle of the arithmetic clock that the model has reached (R5). -/
  now : Nat := 0
  /-- The Beacon copy of die n is `now + beacon n`; an unlisted die's copy has not started (R303, R417). -/
  beacon : Fm Nat := []
  seqs : Fm Seq := []
  cores : Fm Core := []
  -- memories: bytes in canonical form, block tags, granule tags, the key a block was written under, poison
  mem : List Host.Cell := []
  mtag : Fm Nat := []
  ctag : List Nat := []
  bkey : Fm Nat := []
  bad : List Nat := []
  spad : List Host.Cell := []
  stag : Fm Nat := []
  sbad : List Nat := []
  -- memory hierarchy
  l2 : Fm (List Line) := []
  wbuf : Fm (List WbEntry) := []
  miss : Fm (List Nat) := []
  /-- Line requests that a slice has accepted in its latest cycle: the cycle and their number (R279). -/
  accepted : Fm (Nat × Nat) := []
  rdc : Fm (List RdcLine) := []
  tlb : Fm (List TlbEntry) := []
  stamp : Nat := 0
  doms : Fm Dom := []
  /-- Number of the key that a key id holds (R299): 0 is none. -/
  keys : Fm Nat := []
  keyNext : Nat := 1
  revokes : List Revoke := []
  syncs : Fm SyncObj := []
  -- partitions and scheduler
  parts : Fm Part := []
  pool : List Launch := []
  saved : List Saved := []
  fatalSlots : List FatalSlot := []
  launchNext : Nat := 1
  -- hub
  hub : Hub := {}
  dsel : Fm Nat := []
  gates : Fm Gate := []
  colls : Fm Coll := []
  links : Fm Link := []
  exports : Fm Export := []
  rpaths : Fm RPath := []
  outbox : List Packet := []
  /-- Requests that domains out of service hold, in arrival order (R276, R431). -/
  replays : List Held := []
  /-- Requests to other modules that are not answered. -/
  awaiting : List Awaited := []
  -- attention dies, copy engines, tier sequencers
  ctxs : Fm Ctx := []
  plists : Fm PList := []
  engines : Fm AttEngine := []
  /-- Free HBM4E key-value pages of a partition on an attention die, keyed 64 die + partition; none is the free value of
  log entry 21. -/
  kvPool : Fm Nat := []
  detached : Fm (List Cmd) := []
  tiers : Fm TierSeq := []
  /-- Dies that are fenced, and since which cycle (R398). -/
  fenced : Fm Nat := []
  -- retirement (R349): dies whose spare is used; clusters, numbered 36 die + cluster, that are being retired and that are
  -- lost; lost slices, numbered 32 die + slice
  spareCluster : List Nat := []
  sparePair : List Nat := []
  retiring : List Nat := []
  lostClusters : List Nat := []
  lostSlices : List Nat := []
  -- host side and security processor
  vfs : Fm Vf := []
  /-- Doorbell writes whose entries are not all read, in the order of their arrival: function, TAIL, cycle (R404). -/
  bells : List (Nat × Nat × Nat) := []
  hostMem : List Host.Cell := []
  bootst : BitVec 16 := 0
  /-- Boot steps that have succeeded (R417). -/
  bootStep : Nat := 0
  fuses : Fuses := {}
  /-- SHA-256 of bytes 0x000 to 0x87F of each loaded image, keyed 4096 part + image (R411). -/
  imageSrc : Fm (BitVec 256) := []
  stopped : Bool := false
  -- the model's own fields: events ahead, the subject of the present event, the present word, free values
  agenda : List Ev := []
  nextId : Nat := 1
  arg : Arg := .none
  cur : Cur := {}
  /-- Supplied free values, and how many were drawn beyond them (log entry 4). -/
  choices : List Nat := []
  drawn : Nat := 0
  deriving DecidableEq, Repr

/-- The reset value of domain block `k` of a die (R274, R275). -/
def Dom.reset (die k : Nat) : Dom :=
  if k = 0 then { v := true, force := some (0, 4, [1, 2, 4, 8]) }
  else if k = 1 ∧ 4 ≤ die then { first := 16, v := true, force := some (16, 4, [1, 2, 4, 8]) }
  else {}

/-- The machine right after reset: every field at its reset value, and power-on reset (R417) next on the agenda. -/
def State.reset : State :=
  { agenda := [{ cyc := 0, cls := 0, key := 0, ins := .powerOnReset, arg := .none }] }

end Sys2Proof.Machine
end

