-- ==== Sys2Proof/Machine/Ops.lean ====
section
/-! DEFINITION. The named operations over the state that the meanings share: reading and writing registers, results that
land later (R113), issue and holds (R315 to R319), control transfer (R116), faults and events (R324 to R328), taking a
non-fatal event and returning from it (R130, R131), free values, partition time (R35). -/

namespace Sys2Proof.Machine

open Sys2Proof

/-! ## Names of places -/

/-- Die number in SEQID[3:0] (R51). -/
def dieOf (sid : Nat) : Nat := sid % 16
/-- Cluster number in SEQID[9:4]. -/
def cluOf (sid : Nat) : Nat := sid / 16 % 64
/-- Core number in SEQID[11:10]. -/
def coreOf (sid : Nat) : Nat := sid / 1024 % 4
/-- Sequencer in core, SEQID[12]. -/
def sqOf (sid : Nat) : Nat := sid / 4096 % 2
/-- The key of the core that a sequencer belongs to: SEQID[11:0]. -/
def coreKey (sid : Nat) : Nat := sid % 4096
/-- The other sequencer of the core. -/
def partner (sid : Nat) : Nat := if sid < 4096 then sid + 4096 else sid - 4096
/-- A hub management sequencer (R37, R438). -/
def isMgmt (sid : Nat) : Bool := dieOf sid == Config.hubDie
/-- The cluster's scratchpad among the module's 144: 36 die + cluster (R268). -/
def spadOf (sid : Nat) : Nat := dieOf sid * Config.clusters + cluOf sid
/-- SEQID[12:0] of a half: die, cluster, core, sequencer. -/
def sidOf (die clu core sq : Nat) : Nat := die + 16 * clu + 1024 * core + 4096 * sq
/-- SEQID[12:0] of management sequencer `n` (R438). -/
def mgmtSid (n : Nat) : Nat := sidOf 8 0 (n / 2) (n % 2)
/-- The sequencer that bit `b` = 8c + 2k + s of a MASK names on a die (R305). -/
def halfSid (die b : Nat) : Nat := sidOf die (b / 8) (b / 2 % 4) (b % 2)
/-- The bit of a launch MASK that names a sequencer. -/
def halfBit (sid : Nat) : Nat := 8 * cluOf sid + 2 * coreOf sid + sqOf sid

/-! ## Bits and bytes -/

/-- Bits [lo + n - 1 : lo] of a number (R7). -/
def bits (x lo n : Nat) : Nat := x / 2 ^ lo % 2 ^ n
/-- Bit `i` of a number. -/
def bit (x i : Nat) : Bool := x / 2 ^ i % 2 == 1
/-- `x` with bits [lo + n - 1 : lo] replaced by `y`. -/
def setBits (x lo n y : Nat) : Nat := x % 2 ^ lo + (y % 2 ^ n) * 2 ^ lo + x / 2 ^ (lo + n) * 2 ^ (lo + n)
/-- The integer that the low `n` bits of `x` hold in two's complement. -/
def sgn (x n : Nat) : Int := if bit (x % 2 ^ n) (n - 1) then (x % 2 ^ n : Nat) - (2 ^ n : Nat) else (x % 2 ^ n : Nat)
/-- The low `n` bits of an integer, in two's complement. -/
def ofInt (x : Int) (n : Nat) : Nat := (x % (2 ^ n : Nat)).toNat
/-- The first `n` bytes of a number, byte 0 first (R7). -/
def toBytes : Nat → Nat → List Nat
  | _, 0 => []
  | x, n + 1 => x % 256 :: toBytes (x / 256) n
/-- The little-endian number that bytes hold (R7). -/
def ofBytes : List Nat → Nat
  | [] => 0
  | b :: r => b % 256 + 256 * ofBytes r
/-- Ceiling of a quotient (R9). -/
def cdiv (a b : Nat) : Nat := (a + b - 1) / b
/-- Integers from `lo` on, `n` of them. -/
def span (lo n : Nat) : List Nat := (List.range n).map (lo + ·)
/-- Number of one bits among the low `n`. -/
def popcount (x : Nat) : Nat → Nat
  | 0 => 0
  | n + 1 => x % 2 + popcount (x / 2) n
/-- Parity of the low `n` bits (R271). -/
def parity (x n : Nat) : Nat := popcount x n % 2
/-- Bits that are 1 among the low `n`, ascending. -/
def onesOf (x n : Nat) : List Nat := (List.range n).filter (bit x)

/-! ## Sequencers and cores -/

/-- The sequencer `sid`. -/
def State.seq (s : State) (sid : Nat) : Seq := Fm.get {} s.seqs sid
/-- The state with sequencer `sid` replaced. -/
def State.setSeq (s : State) (sid : Nat) (q : Seq) : State := { s with seqs := Fm.set s.seqs sid q }
/-- The state with sequencer `sid` changed by `f`. -/
def State.updSeq (s : State) (sid : Nat) (f : Seq → Seq) : State := s.setSeq sid (f (s.seq sid))
/-- The core with key `c`. -/
def State.core (s : State) (c : Nat) : Core := Fm.get {} s.cores c
/-- The state with core `c` changed by `f`. -/
def State.updCore (s : State) (c : Nat) (f : Core → Core) : State :=
  { s with cores := Fm.set s.cores c (f (s.core c)) }
/-- Whether the sequencer's core is in SPLIT mode (R28); a management sequencer has no core mode. -/
def State.split (s : State) (sid : Nat) : Bool := !isMgmt sid && (s.core (coreKey sid)).split
/-- Words that the sequencer's PC can name (R12). -/
def State.words (s : State) (sid : Nat) : Nat := if s.split sid then 32768 else 65536
/-- Physical word of the instruction store (R12). -/
def State.physWord (s : State) (sid pc : Nat) : Nat := if s.split sid && sqOf sid == 1 then pc + 32768 else pc
/-- Key of the instruction store that a sequencer reads: its core's one store (R12); a management sequencer has a store of its
own (log entry 46). -/
def storeKey (sid : Nat) : Nat := if isMgmt sid then 65536 + sid else coreKey sid
/-- The word at index `pc` of the sequencer's instruction store, where there is one. -/
def State.fetchAt (s : State) (sid pc : Nat) : Option Nat :=
  if pc < s.words sid then some (Fm.get 0 (s.core (storeKey sid)).store (s.physWord sid pc)).toNat else none

/-- Die record of a domain block (R273). -/
def State.dom (s : State) (die k : Nat) : Dom := Fm.get (Dom.reset die k) s.doms (16 * die + k)
/-- The state with a domain block changed. -/
def State.updDom (s : State) (die k : Nat) (f : Dom → Dom) : State :=
  { s with doms := Fm.set s.doms (16 * die + k) (f (s.dom die k)) }

/-! ## Register files -/

/-- g register (R16). -/
def Seq.gr (q : Seq) (n : Nat) : W64 := Fm.get 0 q.g n
/-- g register as an unsigned number. -/
def Seq.gn (q : Seq) (n : Nat) : Nat := (q.gr n).toNat
def Seq.setG (q : Seq) (n : Nat) (x : W64) : Seq := { q with g := Fm.set q.g n x }
/-- Predicate p[n] (R15). -/
def Seq.pr (q : Seq) (n : Nat) : Bool := q.p.getLsbD n
def Seq.setP (q : Seq) (n : Nat) (b : Bool) : Seq :=
  { q with p := (q.p &&& ~~~(BitVec.ofNat 16 (2 ^ n))) ||| (if b then BitVec.ofNat 16 (2 ^ n) else 0) }
/-- Pred of a 5-bit selector: bits [3:0] name the predicate, bit [4] inverts it (R89, R117). -/
def Seq.pred (q : Seq) (sel : Nat) : Bool := q.pr (sel % 16) != bit sel 4
/-- Mask tile; m0 reads all ones (R15). -/
def Seq.mr (q : Seq) (n : Nat) : MaskBits := if n = 0 then BitVec.allOnes 16384 else Fm.get 0 q.m n
/-- A write of a mask tile; m0 ignores writes (R15). -/
def Seq.setM (q : Seq) (n : Nat) (x : MaskBits) : Seq := if n = 0 then q else { q with m := Fm.set q.m n x }
def Seq.hr (q : Seq) (n : Nat) : Handle := Fm.get {} q.h n
def Seq.setH (q : Seq) (n : Nat) (x : Handle) : Seq := { q with h := Fm.set q.h n x }
def Seq.kr (q : Seq) (n : Nat) : Cap := Fm.get {} q.k n
def Seq.setK (q : Seq) (n : Nat) (x : Cap) : Seq := { q with k := Fm.set q.k n x }
def Seq.ring (q : Seq) (n : Nat) : Ring := Fm.get {} q.rings n
def Seq.column (q : Seq) (c : Nat) : Column := Fm.get {} q.cols c
def Seq.setColumn (q : Seq) (c : Nat) (x : Column) : Seq := { q with cols := Fm.set q.cols c x }

/-- Own tile v0 to v15, or the partner's as v16 to v31 (R15). -/
def State.tile (s : State) (sid n : Nat) : TileBits :=
  if n < 16 then Fm.get 0 (s.seq sid).v n else Fm.get 0 (s.seq (partner sid)).v (n - 16)
/-- The state with tile `n` as the sequencer names it replaced. -/
def State.setTile (s : State) (sid n : Nat) (x : TileBits) : State :=
  if n < 16 then s.updSeq sid (fun q => { q with v := Fm.set q.v n x })
  else s.updSeq (partner sid) (fun q => { q with v := Fm.set q.v (n - 16) x })

/-- `new` where the mask is 1, `old` elsewhere. -/
def mergeBits {w : Nat} (old new mask : BitVec w) : BitVec w := (old &&& ~~~mask) ||| (new &&& mask)

/-! ## Free values -/

/-- The next free value: the first supplied one, else the opaque one of Config (log entry 4). -/
def State.drawVal (s : State) : Nat :=
  match s.choices with
  | c :: _ => c
  | [] => Config.freeNat s.drawn
/-- The state after a free value was drawn. -/
def State.drew (s : State) : State :=
  match s.choices with
  | _ :: r => { s with choices := r }
  | [] => { s with drawn := s.drawn + 1 }
/-- A fresh identity of an access or a command. -/
def State.fresh (s : State) : Nat × State := (s.nextId, { s with nextId := s.nextId + 1 })

/-! ## Time -/

/-- The Beacon copy of a die (R303); 0 before it starts (R417). -/
def State.beaconOf (s : State) (die : Nat) : Nat :=
  match s.beacon.find? (fun e => e.1 == die) with
  | some e => (s.now + e.2) % 2 ^ 64
  | none => 0

/-- A partition's record and what the hub keeps with it (R337). -/
def State.part (s : State) (p : Nat) : Part := Fm.get {} s.parts p
def State.updPart (s : State) (p : Nat) (f : Part → Part) : State :=
  { s with parts := Fm.set s.parts p (f (s.part p)) }
/-- `n` bytes at an offset of a partition record image (R337). -/
def recGet (img : BitVec 8192) (off n : Nat) : Nat := img.toNat / 2 ^ (8 * off) % 2 ^ (8 * n)
/-- A record image with `n` bytes at an offset replaced. -/
def recSet (img : BitVec 8192) (off n x : Nat) : BitVec 8192 := BitVec.ofNat 8192 (setBits img.toNat (8 * off) (8 * n) x)
def Part.get (p : Part) (off n : Nat) : Nat := recGet p.img off n
def Part.put (p : Part) (off n x : Nat) : Part := { p with img := recSet p.img off n x }
/-- GEN of a partition as its dies go by it (R342); partition 63 names none and has GEN 0 (R438). -/
def State.gen (s : State) (p : Nat) : Nat :=
  if p = 63 then 0 else match (s.part p).dieGen with
    | some g => g
    | none => (s.part p).get 1 1
/-- The partition to which a virtual function is bound (R341), once boot step 7 has put the host port in service (R417). -/
def State.vfPart (s : State) (f : Nat) : Option Nat :=
  if s.bootStep < 7 then none else (s.parts.find? (fun e => e.2.get 2 1 != 0 && bit (e.2.get 0x200 16) f)).map (·.1)
/-- STATE of a partition record (R337). -/
def State.pstate (s : State) (p : Nat) : Nat := (s.part p).get 2 1

/-- Partition time (R35): Beacon time less the freeze offset, or the value at which it stands. Partition 63 is the
management sequencers' and runs on Beacon time. -/
def State.ptime (s : State) (p : Nat) : Nat :=
  if p = 63 then s.beaconOf 8
  else match (s.part p).stood with
    | some t => t
    | none => (s.beaconOf 8 + 2 ^ 64 - (s.part p).get 0x268 8 % 2 ^ 64) % 2 ^ 64

/-- The cycle in which partition time reaches `t`, if it keeps running. -/
def State.cycleOf (s : State) (p t : Nat) : Nat := s.now + (t - s.ptime p)

/-- The first cycle at or after `c` at which the Beacon is a multiple of `m`. -/
def State.nextMultiple (s : State) (c m : Nat) : Nat :=
  let b := (c + Fm.get 0 s.beacon 8) % m
  if b = 0 then c else c + (m - b)

/-! ## Die to die latency -/

/-- d of R176: 0 on one die, 24 between a compute die and an attention die or a ring neighbour, 20 to H, 40 through H
(R2). -/
def dieLatency (a b : Nat) : Nat :=
  if a = b then 0
  else if a = 8 ∨ b = 8 then 20
  else if (a < 4 ∧ 4 ≤ b) ∨ (b < 4 ∧ 4 ≤ a) then 24
  else if a < 4 ∧ b < 4 ∧ ((a + 1) % 4 = b ∨ (b + 1) % 4 = a) then 24
  else 40

/-! ## The agenda -/

/-- The state with an event put on the agenda. -/
def State.push (s : State) (e : Ev) : State := { s with agenda := s.agenda ++ [e] }
/-- An event in `k` cycles. -/
def State.after (s : State) (k cls key : Nat) (i : Instr) (a : Arg) : State :=
  s.push { cyc := s.now + k, cls := cls, key := key, ins := i, arg := a }

/-- The order of landings of one cycle: issue cycle, then sequencer (0 before 1), then engine (R31, R113). -/
def landKey (issue sid col : Nat) : Nat := (issue * 8192 + sid) * 8 + col

/-- Results of sequencer `sid` that land in `k` cycles. -/
def State.landFor (s : State) (sid col k : Nat) (l : List Land) : State :=
  s.push { cyc := s.now + k, cls := 1, key := landKey s.now sid col, ins := .resultLanding, arg := .land sid l }
/-- Results of the present word that land at +k (R113). -/
def State.land (s : State) (k : Nat) (l : List Land) : State := s.landFor s.cur.sid s.cur.col k l
/-- What the hardware records in the present cycle, after the words of the cycle (R134). -/
def State.record (s : State) (sid : Nat) (l : List Land) : State :=
  s.push { cyc := s.now, cls := 4, key := sid, ins := .resultLanding, arg := .land sid l }

/-! ## The present word -/

/-- The sequencer of the present word. -/
def State.me (s : State) : Seq := s.seq s.cur.sid
def State.setMe (s : State) (q : Seq) : State := s.setSeq s.cur.sid q
def State.updMe (s : State) (f : Seq → Seq) : State := s.updSeq s.cur.sid f
/-- g register of the present word's sequencer. -/
def State.g (s : State) (n : BitVec 6) : W64 := s.me.gr n.toNat
/-- Partition of the present word's sequencer. -/
def State.myPart (s : State) : Nat := s.me.task.part
/-- The sequencer's own clock: real cycles less the cycles that holds have moved it (R318). -/
def State.local (s : State) (q : Seq) : Nat := s.now - q.slip

/-- Whether the present word's column is occupied (R112), or held by an SFENCE (R176). -/
def State.colBusy (s : State) : Bool :=
  s.now < (s.me.column s.cur.col).free || (s.me.sfence && (s.cur.col == 3 || s.cur.col == 6))
/-- The column's datapath is occupied for `n` cycles from the issue cycle (R112). -/
def State.occupy (s : State) (n : Nat) : State :=
  s.updMe (fun q => q.setColumn s.cur.col { q.column s.cur.col with free := s.now + n })

/-! ## Events and faults -/

/-- Whether a fatal event has ended the task: its PEND stays as it stood (R328). -/
def Seq.fatal (q : Seq) : Bool :=
  match q.run with
  | .ending c | .saving c => decide (c < 8)
  | _ => false
/-- A non-fatal event joins the pending set; a pending event of the same code keeps its first column (R325). -/
def Seq.post (q : Seq) (code col : Nat) : Seq :=
  if q.fatal || q.pend.any (·.code == code) then q else { q with pend := q.pend ++ [{ code := code, col := col }] }
/-- The pending set as the mask PEND (R325). -/
def Seq.pendMask (q : Seq) : Nat := q.pend.foldl (fun a e => if bit a (e.code - 16) then a else a + 2 ^ (e.code - 16)) 0
/-- The pending event with the lowest code (R130). -/
def Seq.lowest (q : Seq) : Option Pending :=
  q.pend.foldl (fun a e => match a with
    | none => some e
    | some b => if e.code < b.code then some e else a) none

/-- One cycle of a STALL hold: no word of the sequencer issues, its later issue cycles move by one (R318). -/
def State.hold (s : State) (sid : Nat) : State :=
  s.updSeq sid (fun q =>
    if q.heldAt = some s.now then q
    else { q with heldAt := some s.now, slip := q.slip + 1, hcyc := min (q.hcyc + 1) (2 ^ 32 - 1),
                  wrn := q.wrn ||| 0x80 })

/-- A violation detected by the shadow scoreboard (R317): the timing fault in TRAP mode, once for each violation; a held
cycle in STALL mode; in untimed mode a plain wait (R316). `first` says that it is newly detected. -/
def State.violation (s : State) (sid col : Nat) (first : Bool) : State :=
  let q := s.seq sid
  if q.ut then s
  else if q.trapMode then (if first then s.setSeq sid (q.post 0x12 col) else s)
  else s.hold sid

/-- The present word does not issue in this cycle because of a violation (R317). -/
def State.stall (s : State) : State :=
  let s := s.violation s.cur.sid s.cur.col (!s.cur.posted)
  { s with cur := { s.cur with held := true } }

/-- Whether an event can still end the task of a sequencer: one that has ended it, or saves it already, stands (R328). -/
def Seq.endable (q : Seq) : Bool :=
  match q.run with
  | .run | .halted | .finishing => true
  | _ => false
/-- The task of `sid` ends or stops with an event (R324): it issues nothing more, and its full frame is saved once the
accesses it has issued have completed (R328, R331). A management sequencer has no frame: it stops. -/
def State.endTask (s : State) (sid code col pc : Nat) : State :=
  if isMgmt sid then
    s.updSeq sid (fun q => { q with run := .idle, fq := [], bq := [], joins := [], pc := pc % 2 ^ 16, ecol := col, endedAt := s.ptime 63 })
  else
    let s := s.updSeq sid (fun q =>
      { q with run := .ending code, fq := [], bq := [], joins := [], pc := pc % 2 ^ 16, ecol := col, seam := false, waitb := none,
               endedAt := s.ptime q.task.part,
               nest := { q.nest with stop := if q.nest.live then 2 else q.nest.stop } })
    s.push { cyc := s.now, cls := 8, key := sid, ins := .fullFrameSave, arg := .half sid code }

/-- A fatal fault of the present word (R95, R324). -/
def State.fault (s : State) (code : Nat) : State :=
  let s := s.endTask s.cur.sid code s.cur.col s.cur.pc
  { s with cur := { s.cur with fault := true } }
/-- Illegal instruction, code 0x01 (R95). -/
def State.illegal (s : State) : State := s.fault 1
/-- Handle fault, code 0x02 (R175). -/
def State.handleFault (s : State) : State := s.fault 2
/-- Bounds fault, code 0x03 (R175). -/
def State.boundsFault (s : State) : State := s.fault 3
/-- Mode fault, code 0x04 (R33). -/
def State.modeFault (s : State) : State := s.fault 4
/-- Capability fault, code 0x06 (R199). -/
def State.capFault (s : State) : State := s.fault 6

/-- A warning bit of WRN, set in the present cycle (R45). -/
def State.warn (s : State) (b : Nat) : State := s.updMe (fun q => { q with wrn := q.wrn ||| BitVec.ofNat 8 (2 ^ b) })

/-! ## Control transfer -/

/-- Fetch restarts at `target` after a redirect in the present cycle (R314): the words behind the transfer are discarded,
the words on the new path issue no earlier than +4 (R116). `fo` is the transfer's place in fetch order. -/
def Seq.redirect (q : Seq) (now target : Nat) (fo : Nat) (stk : List FetchLevel) : Seq :=
  { q with
    fq := q.fq.filter (fun e => e.fo ≤ fo)
    bq := []
    joins := q.joins.filter (fun j => j.after ≤ fo)
    fpc := target, frun := target, fbase := now + 2, fpos := 0, ffo := fo + 1
    fgrp := (q.joins.filter (fun j => j.after ≤ fo)).foldl (fun a j => max a j.grp) q.grp
    fflo := now - q.slip + 4
    fstk := stk, fhold := false, fstop := false }

/-- The present word is a taken transfer to `target` (R116); an index out of range faults when it would be fetched. -/
def State.transfer (s : State) (target : Nat) (stk : List FetchLevel) : State :=
  s.updMe (fun q => q.redirect s.now target s.cur.fo stk)
/-- The target of a branch: the word's index plus the sign-extended offset, an index below 0 taken as out of range
(R91, R12). -/
def branchTarget (pc : Nat) (off : Int) : Nat :=
  let t : Int := (pc : Int) + off
  if t < 0 then 65536 + (t % 65536).toNat else t.toNat

/-- The fetch loop stack that matches the architectural loop stack (R119). -/
def fetchStack (l : List LoopLevel) : List FetchLevel :=
  l.reverse.map (fun x => { count := some x.count, iter := x.index, start := x.start, len := x.len, fo := 0 })

/-- Delivery of the lowest pending event at a delivery point, in one cycle (R130). With TVEC.ENTRY = 0 the unhandled-event
fault ends the task instead (R326). Nothing happens when no event is pending or TACT = 1 (R325). A management sequencer enters its
handler as any other, though ERET is illegal there (log entry 115). -/
def State.takeEvent (s : State) (sid resume : Nat) : State :=
  let q := s.seq sid
  if q.tact then s
  else match q.lowest with
    | none => s
    | some e =>
      if q.tvec = 0 then s.endTask sid 7 0 resume
      else
        let q := { q with
          tpos := BitVec.ofNat 19 (resume % 2 ^ 16 + 2 ^ 16 * q.lstk.length)
          tcause := BitVec.ofNat 12 (e.code + 2 ^ 9 * e.col)
          ttime := BitVec.ofNat 64 (s.ptime q.task.part)
          pl := 1, tact := true, ut := true, desync := true
          pend := q.pend.filter (·.code != e.code)
          scr := if e.code = 0x15 then Fm.set q.scr 0 (BitVec.ofNat 64 q.targ) else q.scr }
        let q := { q with fq := [], joins := [], grp := q.fgrp + 1, fgrp := q.fgrp + 1, floor := s.now - q.slip }
        s.setSeq sid (q.redirect s.now q.tvec.toNat q.ffo (fetchStack q.lstk))

/-- Return from a handler (R131): PC, PL and TACT; UT and DESYNC stay set. -/
def State.returnFromEvent (s : State) : State :=
  let q := s.me
  let s := s.setMe { q with pl := 0, tact := false }
  s.transfer (q.tpos.toNat % 2 ^ 16) s.cur.stk

/-! ## Shells of the meanings -/

/-- A word that occupies its column for `occ` cycles: in an occupied column it is a structural-occupancy violation
(R112, R317), else it issues and has effect `k`. -/
def State.issue (s : State) (occ : Nat) (k : State → State) : Host.Outcome State Fault Refusal :=
  .next (if s.colBusy then s.stall else k (s.occupy occ))

/-- A word that occupies no datapath (R112, R203). -/
def State.issueFree (s : State) (k : State → State) : Host.Outcome State Fault Refusal := .next (k s)

/-- A word of an engine that management sequencers do not have (R37). -/
def State.userOnly (s : State) (k : State → State) : State := if isMgmt s.cur.sid then s.illegal else k s

/-- RSVD and FALLBACK of the present word take their place in WRN (R94, R95, R100), unless the word raised a fault. -/
def State.settleWarnings (s : State) : State :=
  let w : BitVec 8 := if s.cur.fault then 0 else (if s.cur.rsvd then 1 else 0) ||| (if s.cur.fb then 2 else 0)
  s.updMe (fun q => { q with wrn := q.wrn ||| w })

/-- The state after a legal word's fallback was applied in the meaning (R100). -/
def State.fallback (s : State) (b : Bool) : State := if b then { s with cur := { s.cur with fb := true } } else s
/-- A reserved field found non-zero in the meaning (R94). -/
def State.reserved (s : State) (b : Bool) : State := if b then { s with cur := { s.cur with rsvd := true } } else s

end Sys2Proof.Machine
end

