-- ==== Sys2Proof/Machine/Memory.lean ====
section
/-! DEFINITION. Memory: bytes in canonical form (R243, R245), the physical map (R267), domains, slices, channels and sets
(R270, R271, R430), L2 lines, write buffers and miss registers (R278 to R284), the RDC (R285 to R287), keys (R299), tags
(R288), scratchpads (R268), sync objects that answer for their bytes (R192, R261), the walk (R294, R295) and the TLB
(R297). -/

namespace Sys2Proof.Machine

open Sys2Proof

/-! ## Bytes in canonical form -/

/-- The canonical form of a memory: addresses strictly rising, and no entry equal to what an unlisted address reads as,
which is 0 (R245, log entry 2). -/
def Memory.wf : List Host.Cell → Bool
  | [] => true
  | [c] => c.2 != 0
  | c :: d :: r => c.2 != 0 && decide (c.1 < d.1) && Memory.wf (d :: r)

/-- The byte at an address; an unlisted address reads 0 (R245). -/
def Memory.byte : List Host.Cell → Nat → Byte
  | [], _ => 0
  | c :: r, a => if c.1 = a then c.2 else Memory.byte r a

/-- `n` bytes from address `a`, byte `a` in the low bits (R7). -/
def Memory.read (m : List Host.Cell) (a n : Nat) : Nat :=
  m.foldl (fun x c => if a ≤ c.1 ∧ c.1 < a + n then x + c.2.toNat * 2 ^ (8 * (c.1 - a)) else x) 0

/-- The listed entries of `n` bytes of `x` placed at `a`. -/
def Memory.cells : Nat → Nat → Nat → List Host.Cell
  | _, 0, _ => []
  | a, n + 1, x =>
    if x % 256 = 0 then Memory.cells (a + 1) n (x / 256)
    else (a, BitVec.ofNat 8 x) :: Memory.cells (a + 1) n (x / 256)

/-- The memory with `n` bytes of `x` at `a`. -/
def Memory.write (m : List Host.Cell) (a n x : Nat) : List Host.Cell :=
  m.filter (fun c => c.1 < a) ++ (Memory.cells a n x ++ m.filter (fun c => a + n ≤ c.1))

/-- A byte mask of 64 bits as a bit mask of 512. -/
def byteMask (n : Nat) (m : Nat) : Nat := ofBytes ((List.range n).map (fun i => if bit m i then 255 else 0))

/-! ## The physical map -/

/-- Where a device-physical address lies (R267). -/
inductive Region where
  | hbm (die : Nat)
  | lpddr (die : Nat)
  | cxl
  | peer (m : Nat)
  | nothing
  deriving DecidableEq, Repr

/-- DieBase(n) (R267). -/
def dieBase (n : Nat) : Nat := n * 2 ^ 39

/-- The region of an address (R267). -/
def regionOf (pa : Nat) : Region :=
  let n := pa / 2 ^ 39
  let o := pa % 2 ^ 39
  if n < 4 then (if o < 64000000000 then .hbm n else .nothing)
  else if n < 8 then
    (if o < 128000000000 then .hbm n
     else if 2 ^ 38 ≤ o ∧ o < 2 ^ 38 + 256000000000 then .lpddr n else .nothing)
  else if 2 ^ 48 ≤ pa ∧ pa < 2 ^ 50 then .cxl
  else if 2 ^ 51 ≤ pa ∧ pa < 2 ^ 52 ∧ (pa - 2 ^ 51) % 2 ^ 47 < 2 ^ 42 then .peer ((pa - 2 ^ 51) / 2 ^ 47)
  else .nothing

/-- Tier of a region (R267, R289). -/
def Region.tier : Region → Nat
  | .hbm _ => 0
  | .lpddr _ => 1
  | .cxl => 2
  | .peer _ => 3
  | .nothing => 0

/-- The die that homes an address; tiers 2 and 3 are reached through the hub (R289). -/
def homeDie (pa : Nat) : Nat :=
  match regionOf pa with
  | .hbm n => n
  | .lpddr n => n
  | _ => 8

/-- A map of a domain: FIRST, b and the masks (R270, R271). -/
abbrev DomMap := Nat × Nat × List Nat

def Dom.map (d : Dom) : DomMap := (d.first, d.l2c, d.hm)

/-- DomBase (R270). -/
def domBase (die : Nat) (m : DomMap) : Nat := dieBase die + m.1 * 4000000000

/-- Slice, channel, U and set of an address of a domain range (R271). -/
structure LinePlace where
  slice : Nat
  channel : Nat
  u : Nat
  set : Nat
  deriving DecidableEq, Repr

/-- The mapping of R271. -/
def placeOf (die : Nat) (m : DomMap) (pa : Nat) : LinePlace :=
  let l := (pa - domBase die m) / 64
  let b := m.2.1
  let slice := m.1 + ((List.range b).map (fun i => parity (l &&& (m.2.2.getD i 0)) 30 * 2 ^ i)).foldl (· + ·) 0
  let u := l / 2 ^ b
  { slice := slice, channel := 2 * slice + u % 2, u := u, set := u % 6144 }

/-- The DRAM location of an address under a map: its channel, and byte position floor(U ÷ 2) × 64 in it (R430). -/
def dramLoc (die : Nat) (m : DomMap) (pa : Nat) : Nat :=
  let p := placeOf die m pa
  dieBase die + p.channel * Config.channelBytes + p.u / 2 * 64 + pa % 64

/-- Whether a block's range covers an address (R270). -/
def Dom.covers (d : Dom) (die pa : Nat) : Bool :=
  decide (domBase die d.map ≤ pa) && decide (pa < domBase die d.map + 2 ^ d.l2c * 4000000000)

/-- The block in service that covers an address, and whether it is busy (R276, R431). -/
def State.blockOf (s : State) (die pa : Nat) : Option Nat :=
  (List.range 16).find? (fun k => (s.dom die k).v && (s.dom die k).covers die pa)

/-- The buffer that holds a request no block in service covers: the lowest-numbered block with V = 0 (R431). -/
def State.holdBlock (s : State) (die : Nat) : Option Nat := (List.range 16).find? (fun k => !(s.dom die k).v)

/-- Where no block in service covers an address: the block that covered it when its V was last 1. -/
def State.lastBlock (s : State) (die pa : Nat) : Option Nat :=
  (List.range 16).find? (fun k => match (s.dom die k).force with
    | some m => decide (domBase die m ≤ pa) && decide (pa < domBase die m + 2 ^ m.2.1 * 4000000000)
    | none => false)
/-- The map that such an address was last under: that of the block, else the one after reset (R274, R275, R430). -/
def State.lastMap (s : State) (die pa : Nat) : DomMap :=
  match (s.lastBlock die pa).bind (fun k => (s.dom die k).force) with
  | some m => m
  | none => (if die < 4 ∨ pa % 2 ^ 39 < 64000000000 then 0 else 16, 4, [1, 2, 4, 8])

/-- Where an address's block lies now: L2 set key and DRAM location. Tiers 1 to 3 lie at their own addresses. -/
structure Place where
  die : Nat
  slice : Nat
  set : Nat
  loc : Nat
  cached : Bool
  blk : Nat
  deriving DecidableEq, Repr

/-- The place of the 64-byte block of `pa` under the map in force. -/
def State.place (s : State) (pa : Nat) : Place :=
  let a := pa / 64 * 64
  match regionOf a with
  | .hbm n =>
    match s.blockOf n a with
    | some k =>
      let m := (s.dom n k).map
      let p := placeOf n m a
      { die := n, slice := p.slice, set := p.set, loc := dramLoc n m a, cached := true, blk := k }
    | none =>
      let m := s.lastMap n a
      let p := placeOf n m a
      { die := n, slice := p.slice, set := p.set, loc := dramLoc n m a, cached := (s.lastBlock n a).isSome,
        blk := (s.lastBlock n a).getD 16 }
  | _ => { die := homeDie a, slice := 0, set := 0, loc := a, cached := false, blk := 16 }

def setKey (p : Place) : Nat := (p.die * 32 + p.slice) * 8192 + p.set
def sliceKey (p : Place) : Nat := p.die * 32 + p.slice

/-! ## Keys and DRAM blocks -/

/-- Number of the key that an id holds; id 0 is the hypervisor's and firmware's (R299). -/
def State.keyNum (s : State) (id : Nat) : Nat := Fm.get (if id = 0 then 1 else 0) s.keys id

/-- Key and tweak that a block is encrypted under: the number of the key, and PA[51:6] (R299). -/
def sealOf (kn pa : Nat) : Nat := kn * 2 ^ 46 + pa / 64
/-- The number of the key of a seal; 0 where nothing was written. -/
def sealKey (w : Nat) : Nat := w / 2 ^ 46

/-- Hidden tags of the four granules of a location's block (R24). -/
def State.ctags (s : State) (loc : Nat) : BitVec 4 :=
  BitVec.ofNat 4 (((List.range 4).map (fun i => if s.ctag.contains (loc / 16 + i) then 2 ^ i else 0)).foldl (· + ·) 0)

/-- The block at a DRAM location, without the write buffer, under key id `key` (R299). -/
def State.dramBlock (s : State) (loc pa key : Nat) : Block :=
  let raw := BitVec.ofNat 512 (Memory.read s.mem loc 64)
  let kn := s.keyNum key
  let w := Fm.get 0 s.bkey (loc / 64)
  let bad := s.bad.contains (loc / 64) || kn == 0
  { data := if bad then 0 else if w = 0 ∨ w = sealOf kn pa then raw else Config.otherKey w (sealOf kn pa) raw
    tag := Fm.get 0x7F00 s.mtag (loc / 64), ctag := s.ctags loc, bad := bad }

/-- Tag of a block stored in a map that lists only tags other than 0x7F00. -/
def setTag (m : Fm Nat) (b t : Nat) : Fm Nat := if t = 0x7F00 then Fm.del m b else Fm.set m b t

/-- Hidden granule tags of a block replaced under a granule mask. -/
def setGranules (l : List Nat) (loc : Nat) (mask new : BitVec 4) : List Nat :=
  (List.range 4).foldl (fun l i =>
    if mask.getLsbD i then
      let l := l.filter (· != loc / 16 + i)
      if new.getLsbD i then (loc / 16 + i) :: l else l
    else l) l

/-- Granules that a byte mask touches. -/
def granuleMask (m : Nat) : BitVec 4 :=
  BitVec.ofNat 4 (((List.range 4).map (fun i => if bits m (16 * i) 16 = 0 then 0 else 2 ^ i)).foldl (· + ·) 0)

/-- A block written at a DRAM location under a byte mask. A write under an id that holds no key is discarded (R299); a
write of all 64 bytes clears poison (R301). -/
def State.dramWrite (s : State) (loc pa key : Nat) (data mask : Nat) (tag : Nat) (ctag : BitVec 4) (bad : Bool) : State :=
  let kn := s.keyNum key
  if kn = 0 ∨ mask = 0 then s
  else
    let old := s.dramBlock loc pa key
    let bm := byteMask 64 mask
    let merged := (old.data.toNat &&& (2 ^ 512 - 1 - bm)) ||| (data &&& bm)
    let full := mask == 2 ^ 64 - 1
    { s with
      mem := Memory.write s.mem loc 64 merged
      mtag := setTag s.mtag (loc / 64) tag
      ctag := setGranules s.ctag loc (granuleMask mask) ctag
      bkey := Fm.set s.bkey (loc / 64) (sealOf kn pa)
      bad := if bad then (if s.bad.contains (loc / 64) then s.bad else (loc / 64) :: s.bad)
             else if full then s.bad.filter (· != loc / 64) else s.bad }

/-! ## The write buffer (R279) -/

/-- The block at a location with the buffered bytes merged over it. -/
def mergeEntry (b : Block) (e : WbEntry) : Block :=
  let bm := byteMask 64 e.mask.toNat
  { data := BitVec.ofNat 512 ((b.data.toNat &&& (2 ^ 512 - 1 - bm)) ||| (e.data.toNat &&& bm))
    tag := e.tag
    ctag := mergeBits b.ctag e.ctag (granuleMask e.mask.toNat)
    bad := if e.mask = BitVec.allOnes 64 then e.bad else b.bad || e.bad }

/-- What memory delivers for a place: DRAM with the slice's write buffer merged over it (R279). -/
def State.memBlock (s : State) (p : Place) (pa key : Nat) : Block :=
  let b := s.dramBlock p.loc pa key
  if p.cached then (Fm.get [] s.wbuf (sliceKey p)).foldl (fun b e => if e.loc = p.loc then mergeEntry b e else b) b else b

/-- The oldest entry of a slice's write buffer goes to memory. -/
def State.drainOne (s : State) (k : Nat) : State :=
  match Fm.get [] s.wbuf k with
  | [] => s
  | e :: r =>
    { s with wbuf := Fm.set s.wbuf k r }.dramWrite e.loc e.pa e.key e.data.toNat e.mask.toNat e.tag e.ctag e.bad

/-- A block enters the slice's write buffer of 32 entries; when it is full the oldest goes to memory first. -/
def State.buffer (s : State) (p : Place) (e : WbEntry) : State :=
  let k := sliceKey p
  let s := if 32 ≤ (Fm.get [] s.wbuf k).length then s.drainOne k else s
  { s with wbuf := Fm.set s.wbuf k (Fm.get [] s.wbuf k ++ [e]) }

/-- Every buffered entry of a slice goes to memory. -/
def State.drainSlice (s : State) (k : Nat) : State :=
  (Fm.get [] s.wbuf k).foldl (fun s _ => s.drainOne k) s

/-! ## L2 lines (R278, R283) -/

def State.lines (s : State) (p : Place) : List Line := Fm.get [] s.l2 (setKey p)
def State.setLines (s : State) (p : Place) (l : List Line) : State := { s with l2 := Fm.set s.l2 (setKey p) l }
/-- The resident line of a block. -/
def State.lineOf (s : State) (p : Place) (pa : Nat) : Option Line :=
  if p.cached then (s.lines p).find? (fun l => l.pa == pa / 64) else none

/-- A counter of the domain: 0 hit, 1 miss, 2 bypass, 3 overflow, 4 reserved hit (R277). -/
def State.count (s : State) (die k c : Nat) : State :=
  s.updDom die k (fun d => { d with cnt := Fm.upd 0 d.cnt c (· + 1) })

/-- Retention registers of a block in force, by number. -/
def Dom.rtns (d : Dom) : List Rtn := (List.range 8).map (fun n => Fm.get {} d.rtn n)
/-- Union of WAYS over the registers in force (R283). -/
def Dom.reserved (d : Dom) : Nat := d.rtns.foldl (fun a r => if r.v then a ||| r.ways else a) 0
/-- Whether an address lies in a register's range. -/
def Rtn.holds (r : Rtn) (pa : Nat) : Bool := r.v && decide (r.base / 64 ≤ pa / 64) && decide (pa / 64 ≤ r.last / 64)

/-- The least recently used of some lines. -/
def lruOf : List Line → Option Line
  | [] => none
  | l :: r =>
    match lruOf r with
    | none => some l
    | some m => some (if m.stamp < l.stamp then m else l)

/-- Victim (R283): the way, and whether the line overflowed its retention range. -/
def victim (d : Dom) (lines : List Line) (pa : Nat) : Option Nat × Bool :=
  let used (w : Nat) : Bool := lines.any (fun l => l.way == w)
  let wres := d.reserved
  let normal :=
    match (List.range 16).find? (fun w => !bit wres w && !used w) with
    | some w => some w
    | none => (lruOf (lines.filter (fun l => !bit wres l.way))).map (·.way)
  match d.rtns.find? (fun r => r.holds pa) with
  | none => (normal, false)
  | some r =>
    match (List.range 16).find? (fun w => bit r.ways w && !used w) with
    | some w => (some w, false)
    | none =>
      match lruOf (lines.filter (fun l => bit r.ways l.way && !r.holds (l.pa * 64))) with
      | some l => (some l.way, false)
      | none => (normal, true)

/-- A dirty line as a write-buffer entry. -/
def Line.entry (l : Line) (loc : Nat) : WbEntry :=
  { loc := loc, data := l.data, mask := BitVec.allOnes 64, tag := l.tag, ctag := l.ctag, key := l.key, bad := l.bad,
    pa := l.pa * 64 }

/-- A line is filled at the MRU or the LRU position (R278); a dirty victim enters the write buffer. -/
def State.fill (s : State) (p : Place) (pa key : Nat) (b : Block) (lru : Bool) : State :=
  let d := s.dom p.die p.blk
  let lines := s.lines p
  let (w, ovf) := victim d lines pa
  match w with
  | none => if ovf then s.count p.die p.blk 3 else s
  | some w =>
    let s := if ovf then s.count p.die p.blk 3 else s
    let s := match lines.find? (fun l => l.way == w) with
      | some v => if v.dirty then s.buffer p (v.entry (dramLoc p.die d.map (v.pa * 64))) else s
      | none => s
    let low := lines.foldl (fun a l => min a l.stamp) 0
    let ln : Line := { way := w, pa := pa / 64, data := b.data, tag := b.tag, ctag := b.ctag, dirty := false,
                       bad := b.bad, stamp := if lru then low - 1 else (s.stamp + 1 : Nat), key := key }
    { (s.setLines p (ln :: lines.filter (fun l => l.way != w))) with stamp := s.stamp + 1 }

/-- A hit moves its line to the MRU position. -/
def State.touch (s : State) (p : Place) (pa : Nat) : State :=
  { (s.setLines p ((s.lines p).map (fun l => if l.pa = pa / 64 then { l with stamp := (s.stamp + 1 : Nat) } else l)))
    with stamp := s.stamp + 1 }

/-- A lookup that hits: CNTHIT counts those of loads and stores, CNTRES those in a reserved way (R277). -/
def State.countHit (s : State) (p : Place) (l : Line) (access : Bool) : State :=
  let s := if access then s.count p.die p.blk 0 else s
  if bit (s.dom p.die p.blk).reserved l.way then s.count p.die p.blk 4 else s

/-- A lookup of the block of an address that brings nothing into the slice: a walk's, a frame's, a page move's (R277). -/
def State.lookup (s : State) (pa : Nat) (access : Bool) : State :=
  let p := s.place pa
  if !p.cached then s
  else match s.lineOf p pa with
    | some l => s.countHit p l access
    | none => s.count p.die p.blk 1

/-! ## Sync objects answer for their bytes (R192, R261) -/

/-- The 16 bytes of a held object (R192). -/
def SyncObj.bits (o : SyncObj) : Nat :=
  o.seq + o.hold * 2 ^ 32 + o.scope * 2 ^ 48 + o.pages.length * 2 ^ 51 + o.anchor * 2 ^ 64

/-- A block with the held objects it contains shown in it. -/
def State.withSyncs (s : State) (pa : Nat) (data : Nat) : Nat :=
  (List.range 4).foldl (fun x i =>
    match s.syncs.find? (fun e => e.1 == pa / 64 * 4 + i && !e.2.pages.isEmpty) with
    | some (_, o) => setBits x (128 * i) 128 o.bits
    | none => x) data

/-- A byte mask without the bytes of held objects. -/
def State.maskSyncs (s : State) (pa mask : Nat) : Nat :=
  (List.range 4).foldl (fun m i =>
    if s.syncs.any (fun e => e.1 == pa / 64 * 4 + i && !e.2.pages.isEmpty) then setBits m (16 * i) 16 0 else m) mask

/-! ## Reads and writes of one 64-byte block at its home -/

/-- What a read of a block returns, and whether it hit in the L2. -/
structure ReadResult where
  blk : Block
  hit : Bool
  deriving DecidableEq, Repr

/-- A coherent read that changes nothing: the line if resident, else memory with the write buffer (R245). -/
def State.peekBlock (s : State) (pa key : Nat) : Block :=
  match regionOf pa with
  | .nothing => { bad := true }
  | _ =>
    if s.keyNum key = 0 then { bad := true }
    else
    let p := s.place pa
    let b : Block := match s.lineOf p pa with
      | some l => { data := l.data, tag := l.tag, ctag := l.ctag, bad := l.bad }
      | none => s.memBlock p pa key
    if b.bad then { b with data := 0 }
    else { b with data := BitVec.ofNat 512 (s.withSyncs pa b.data.toNat) }

/-- The cache behaviour of a read at the home (R278, R280): `full` says that all miss registers are held. -/
def State.readBlock (s : State) (pa key : Nat) (al : Alloc) (cls : Nat) (free : Nat) : ReadResult × State :=
  let p := s.place pa
  let b := s.peekBlock pa key
  match s.lineOf p pa with
  | some l =>
    let s := s.countHit p l (al != .fill)
    (⟨b, true⟩, match al with
      | .normal | .fill => s.touch p pa
      | _ => s)
  | none =>
    if !p.cached then (⟨b, false⟩, s)
    else
      let s := s.count p.die p.blk 1
      match al with
      | .engine | .hostPort | .stream => (⟨b, false⟩, s)
      | _ =>
        let held := (Fm.get [] s.miss (sliceKey p)).filter (fun c => s.now < c)
        if 64 ≤ held.length then (⟨b, false⟩, if cls = 0 then s else s.count p.die p.blk 2)
        else
          let s := { s with miss := Fm.set s.miss (sliceKey p) (free :: held) }
          (⟨b, false⟩, s.fill p pa key (s.memBlock p pa key) (al = .evictFirst))

/-- A write at the home (R278, R279): a resident line is updated, else the bytes enter the write buffer. Bytes of held
sync objects are discarded (R192). -/
def State.writeBlock (s : State) (pa key data mask tag : Nat) (ctag : BitVec 4) (al : Alloc) : State :=
  let p := s.place pa
  let mask := s.maskSyncs pa mask
  match regionOf pa with
  | .nothing => s
  | _ =>
    if mask = 0 ∨ s.keyNum key = 0 then s
    else if !p.cached then s.dramWrite p.loc pa key data mask tag ctag false
    else match s.lineOf p pa with
      | some l =>
        let bm := byteMask 64 mask
        let full := mask == 2 ^ 64 - 1
        let l' : Line := { l with
          data := BitVec.ofNat 512 ((l.data.toNat &&& (2 ^ 512 - 1 - bm)) ||| (data &&& bm))
          tag := tag, ctag := mergeBits l.ctag ctag (granuleMask mask), dirty := true, key := key
          bad := l.bad && !full }
        let s := (if al = .fill then s else s.countHit p l true).setLines p ((s.lines p).map (fun x => if x.pa = pa / 64 then l' else x))
        match al with
        | .normal | .hostPort => s.touch p pa
        | _ => s
      | none =>
        (if al = .fill then s else s.count p.die p.blk 1).buffer p
          { loc := p.loc, data := BitVec.ofNat 512 data, mask := BitVec.ofNat 64 mask, tag := tag, ctag := ctag,
            key := key, bad := false, pa := pa / 64 * 64 }

/-! ## Ranges of bytes -/

/-- Block `i` of those that meet `n` bytes from `a`: block address, first byte in the range, bytes. -/
def blockAt (a n i : Nat) : Nat × Nat × Nat :=
  let b := (a / 64 + i) * 64
  let lo := max a b
  (b, lo, min (a + n) (b + 64) - lo)
/-- Number of blocks that meet `n` bytes from `a`. -/
def blockNum (a n : Nat) : Nat := if n = 0 then 0 else (a + n - 1) / 64 - a / 64 + 1
/-- The blocks that meet `n` bytes from `a`. -/
def blocksOf (a n : Nat) : List (Nat × Nat × Nat) := (List.range (blockNum a n)).map (blockAt a n)

/-- `n` bytes from a device-physical address, read coherently and without effect; whether a block was uncorrectable. -/
def State.peek (s : State) (pa n key : Nat) : Nat × Bool :=
  (blocksOf pa n).foldl (fun x t =>
    let b := s.peekBlock t.1 key
    (x.1 + bits b.data.toNat (8 * (t.2.1 - t.1)) (8 * t.2.2) * 2 ^ (8 * (t.2.1 - pa)), x.2 || b.bad)) (0, false)

/-- The lookups of such a read of `n` bytes (R277). -/
def State.lookups (s : State) (pa n : Nat) (access : Bool) : State := (blocksOf pa n).foldl (fun s t => s.lookup t.1 access) s

/-- Whether a request for an address must wait for a domain that is out of service or busy (R276, R431), and the block whose
replay buffer takes it. -/
def State.heldAt (s : State) (pa : Nat) : Option (Nat × Nat) :=
  match regionOf pa with
  | .hbm die =>
    match s.blockOf die pa with
    | some k => if (s.dom die k).bsy then some (die, k) else none
    | none => (s.holdBlock die).map (fun k => (die, k))
  | _ => none

/-- A request joins the replay buffer of a block, behind all that came before it (R276, R431): in its replay cycle it is the event
`i`. -/
def State.withhold (s : State) (d : Nat × Nat) (addr cls : Nat) (i : Instr) (a : Arg) : State :=
  { s with replays := s.replays ++ [{ die := d.1, blk := d.2, addr := addr, cls := cls, ins := i, arg := a, at_ := s.now }] }

/-- `n` bytes written at a device-physical address, with tags 0x7F00, as hardware stores (frames, notices, records). What lies
in a domain that is out of service waits in its replay buffer (R276). -/
def State.poke (s : State) (pa n x key : Nat) : State :=
  match s.heldAt pa with
  | some d => s.withhold d pa 4 .accessHomeCycle (.access {
      sid := 0xFFFF, op := .write, addr := pa, len := n, data := x, key := key, alloc := .engine, cls := 3, issue := s.now,
      leave := s.now })
  | none =>
    (blocksOf pa n).foldl (fun s t =>
      s.writeBlock t.1 key (bits x (8 * (t.2.1 - pa)) (8 * t.2.2) * 2 ^ (8 * (t.2.1 - t.1)))
        ((2 ^ t.2.2 - 1) * 2 ^ (t.2.1 - t.1)) 0x7F00 0 .engine) s

/-- A slice accepts at most four line requests in a cycle (R279, R281): the state in which it has accepted one more for an
address, none where it has accepted four. -/
def State.acceptLine (s : State) (pa : Nat) : Option State :=
  let p := s.place pa
  if !p.cached then some s
  else
    let a := Fm.get (0, 0) s.accepted (sliceKey p)
    let n := if a.1 = s.now then a.2 else 0
    if 4 ≤ n then none else some { s with accepted := Fm.set s.accepted (sliceKey p) (s.now, n + 1) }
/-- The same for one that takes place in this cycle in any case: it counts among those accepted. -/
def State.acceptBy (s : State) (by_ : Option Nat) (pa : Nat) : Option State :=
  match s.acceptLine pa with
  | some t => some t
  | none => match by_ with
    | some c => if c ≤ s.now then some s else none
    | none => none

/-! ## Scratchpads (R268) -/

/-- Address of a scratchpad byte in the model's one list of scratchpad bytes. -/
def spadAddr (cluster a : Nat) : Nat := cluster * Config.spadBytes + a % Config.spadBytes

/-- The blocks of a range of a scratchpad that are uncorrectable (R302). -/
def State.spadBad (s : State) (cluster a n : Nat) : List (Nat × Nat × Nat) :=
  (blocksOf (spadAddr cluster a) n).filter (fun t => s.sbad.contains (t.1 / 64))
/-- `n` bytes of a scratchpad; an uncorrectable block reads as zeros (R179, R301). -/
def State.spadRead (s : State) (cluster a n : Nat) : Nat :=
  let w := spadAddr cluster a
  (s.spadBad cluster a n).foldl (fun x t => setBits x (8 * (t.2.1 - w)) (8 * t.2.2) 0) (Memory.read s.spad w n)
/-- The offset in the range of the first byte that lies in an uncorrectable block. -/
def State.spadFirstBad (s : State) (cluster a n : Nat) : Option Nat :=
  (s.spadBad cluster a n).head?.map (fun t => t.2.1 - spadAddr cluster a)
/-- The tag of a block; an uncorrectable block is a raw block of zeros (R179). -/
def State.spadTag (s : State) (cluster a : Nat) : Nat :=
  if s.sbad.contains (spadAddr cluster a / 64) then 0x7F00 else Fm.get 0x7F00 s.stag (spadAddr cluster a / 64)
/-- `n` bytes written to a scratchpad, with one tag for every block written (R67). -/
def State.spadWrite (s : State) (cluster a n x tag : Nat) : State :=
  let w := spadAddr cluster a
  { s with
    spad := Memory.write s.spad w n x
    stag := (blocksOf w n).foldl (fun m t => setTag m (t.1 / 64) tag) s.stag
    sbad := (blocksOf w n).foldl (fun l t => if t.2.2 = 64 then l.filter (· != t.1 / 64) else l) s.sbad }
/-- Bytes of a row whose addresses run modulo 4 MiB (R236, R364). -/
def State.spadRow (s : State) (cluster a n : Nat) : List Nat :=
  let a := a % Config.spadBytes
  let first := min n (Config.spadBytes - a)
  toBytes (s.spadRead cluster a first) first ++ toBytes (s.spadRead cluster 0 (n - first)) (n - first)
/-- Bytes written modulo 4 MiB. -/
def State.spadWriteRow (s : State) (cluster a : Nat) (l : List Nat) : State :=
  let a := a % Config.spadBytes
  let first := min l.length (Config.spadBytes - a)
  let s := s.spadWrite cluster a first (ofBytes (l.take first)) 0x7F00
  s.spadWrite cluster 0 (l.length - first) (ofBytes (l.drop first)) 0x7F00

/-! ## The RDC (R285 to R287) -/

def rdcKey (die pa : Nat) : Nat := (die * 4 + pa / 64 % 4) * 8192 + pa / 256 % 8192

/-- RDC lines that fail `keep` are dropped, on the dies for which `on` holds. -/
def State.dropRdc (s : State) (on : Nat → Bool) (keep : RdcLine → Bool) : State :=
  { s with rdc := s.rdc.map (fun e => if on (e.1 / 32768) then (e.1, e.2.filter keep) else e) }

/-- The lines of a physical range dropped from RDCs. -/
def State.dropRdcRange (s : State) (on : Nat → Bool) (pa len : Nat) : State :=
  s.dropRdc on (fun l => !(decide (pa ≤ l.pa * 64 + 63) && decide (l.pa * 64 < pa + len)))

/-- Whether a die's RDC holds copies of an address: a compute die, and a tier 0 line homed on another die (R285, R289). -/
def rdcServes (die pa : Nat) : Bool :=
  decide (die < 4) && homeDie pa != die && (match regionOf pa with
    | .hbm _ => true
    | _ => false)

/-- The RDC copy that serves a load: present with the issuer's partition and current generation (R286). -/
def State.rdcLine (s : State) (die pa part gen : Nat) : Option RdcLine :=
  if rdcServes die pa then
    (Fm.get [] s.rdc (rdcKey die pa)).find? (fun l => l.pa == pa / 64 && l.part == part && l.gen == gen)
  else none

/-- A load with the RDC modifier (R286): served from the RDC when the line is present, else at the home, filling the RDC at
MRU; the least recently used line of a full set gives way (R287). -/
def State.rdcRead (s : State) (die pa key part gen : Nat) (al : Alloc) (cls free : Nat) : ReadResult × State :=
  let k := rdcKey die pa
  let set := Fm.get [] s.rdc k
  match s.rdcLine die pa part gen with
  | some l =>
    (⟨{ data := if l.bad then 0 else l.data, tag := l.tag, bad := l.bad }, true⟩,
     { s with stamp := s.stamp + 1
              rdc := Fm.set s.rdc k (set.map (fun x => if x = l then { x with stamp := s.stamp + 1 } else x)) })
  | none =>
    let (r, s) := s.readBlock pa key al cls free
    let old := set.foldl (fun a l => min a l.stamp) (s.stamp + 1)
    let set := if 16 ≤ set.length then set.filter (fun l => l.stamp != old) else set
    if r.blk.bad || !rdcServes die pa then (r, s)
    else (r, { s with stamp := s.stamp + 1
                      rdc := Fm.set s.rdc k ({ pa := pa / 64, data := r.blk.data, tag := r.blk.tag, part := part,
                                               gen := gen, stamp := s.stamp + 1 } :: set) })

/-! ## Translation (R293 to R297) -/

/-- A table entry, read under key id 0; an uncorrectable read is no mapping (R295). -/
def State.entryAt (s : State) (pa : Nat) : Option Nat :=
  let (x, bad) := s.peek pa 8 0
  if bad ∨ !bit x 0 then none else some x

/-- BASE of an entry: device-physical address [51:12] in bits [63:24] (R294). -/
def leafBase (e : Nat) : Nat := bits e 24 40 * 2 ^ 12

/-- The levels of a shadow table (R295): first bit and width of the index, and the size code of a leaf there; 3 for none. -/
def walkLevels : List (Nat × Nat × Nat) := [(42, 14, 3), (28, 14, 2), (21, 7, 1), (16, 5, 0)]

/-- The walk from a table on: the leaf, its size code and its address, and the addresses of the entries it read. -/
def State.walkIn (s : State) (va : Nat) : List (Nat × Nat × Nat) → Nat → List Nat → Option (Nat × Nat × Nat) × List Nat
  | [], _, path => (none, path)
  | l :: r, table, path =>
    let a := table + 8 * bits va l.1 l.2.1
    match s.entryAt a with
    | none => (none, a :: path)
    | some e =>
      if bit e 1 then (if l.2.2 = 3 then none else some (e, l.2.2, a), a :: path)
      else s.walkIn va r (leafBase e) (a :: path)

/-- Walk (R295): the leaf, its size code, and the address of the leaf entry. -/
def State.walk (s : State) (part va : Nat) : Option (Nat × Nat × Nat) :=
  if 2 ^ 56 ≤ va then none else (s.walkIn va walkLevels ((s.part part).get 8 8) []).1
/-- The entries that a walk reads: their addresses. -/
def State.walkPath (s : State) (part va : Nat) : List Nat :=
  if 2 ^ 56 ≤ va then [] else (s.walkIn va walkLevels ((s.part part).get 8 8) []).2
/-- The entry of a walk that lies in a domain that is out of service (R276), and the block whose replay buffer takes the walk. -/
def State.walkHeld (s : State) (part va : Nat) : Option (Nat × Nat × Nat) :=
  (s.walkPath part va).reverse.findSome? (fun a => (s.heldAt a).map (fun d => (d.1, d.2, a)))

/-- Page size in bytes of a size code (R22). -/
def pageSize (sz : Nat) : Nat := if sz = 0 then 2 ^ 16 else if sz = 1 then 2 ^ 21 else 2 ^ 28

/-- Whether a page of a partition is revoke-pending (R181, R293): until its move ends, or its new shadow entry is there. -/
def State.revoking (s : State) (part va : Nat) : Bool :=
  s.revokes.any (fun r => r.pending && r.part == part && decide (r.vbase ≤ va) && decide (va < r.vbase + r.size) &&
    (r.move.isSome || (s.walk part r.vbase).map (·.1) == some r.leaf))

/-- The handle that XLT writes from a leaf (R295, R181). HOME 9 to 15 of a tier 0 or 1 leaf is kept as it stands (log entry 118). -/
def State.handleOf (s : State) (part va e sz : Nat) : Handle :=
  let tier := bits e 6 2
  { v := true, rp := s.revoking part va, sz := sz, perm := bits e 3 3
    home := if tier < 2 then bits e 8 4 else 8
    tier := tier, key := bits e 12 11, gen := s.gen part, vbase := va / pageSize sz * pageSize sz
    base := if tier = 3 then 2 ^ 51 + bits e 8 4 * 2 ^ 47 + leafBase e % 2 ^ 42 else leafBase e }

/-- Physical address and key of a virtual address of a partition, if it is mapped and resident. -/
def State.translate (s : State) (part va : Nat) : Option (Nat × Nat) :=
  match s.walk part va with
  | none => none
  | some (e, sz, _) =>
    if bit e 2 then
      let h := s.handleOf part va e sz
      some (h.base + (va - h.vbase), h.key)
    else none

/-- The parts of `n` bytes from `va` that lie in one page of 64 KiB each: address and length. -/
def pagesOf (va n : Nat) : List (Nat × Nat) :=
  if n = 0 then []
  else
    (List.range ((va + n - 1) / 65536 - va / 65536 + 1)).map (fun i =>
      let b := (va / 65536 + i) * 65536
      let lo := max va b
      (lo, min (va + n) (b + 65536) - lo))

/-- Bytes at a virtual address of a partition, page by page of 64 KiB; what is not mapped reads 0 and counts as
uncorrectable. -/
def State.vpeek (s : State) (part va n : Nat) : Nat × Bool :=
  (pagesOf va n).foldl (fun x t =>
    match s.translate part t.1 with
    | some (pa, k) =>
      let r := s.peek pa t.2 k
      (x.1 + r.1 * 2 ^ (8 * (t.1 - va)), x.2 || r.2)
    | none => (x.1, true)) (0, false)

/-- The lookups of such a read (R277). -/
def State.vlookups (s : State) (part va n : Nat) : State :=
  (pagesOf va n).foldl (fun s t =>
    match s.translate part t.1 with
    | some (pa, _) => s.lookups pa t.2 false
    | none => s) s

/-- Bytes stored at a virtual address of a partition by the hardware on its behalf; what is not mapped is discarded. -/
def State.vpoke (s : State) (part va n x : Nat) : State :=
  (pagesOf va n).foldl (fun s t =>
    match s.translate part t.1 with
    | some (pa, k) => s.poke pa t.2 (bits x (8 * (t.1 - va)) (8 * t.2)) k
    | none => s) s

/-- A handle is valid when V = 1 and its GEN is current (R23). -/
def State.valid (s : State) (part : Nat) (h : Handle) : Bool := h.v && h.gen == s.gen part % 256

/-- The TLB entry for a virtual address (R297). -/
def State.tlbHit (s : State) (die part va : Nat) : Option TlbEntry :=
  (Fm.get [] s.tlb die).find? (fun t => t.part == part && t.gen == s.gen part &&
    decide (t.h.vbase ≤ va) && decide (va < t.h.vbase + pageSize t.h.sz))

/-- Quota of TLB entries of a partition on a die (R337); H has no quota field and keeps no entries of partitions. -/
def State.tlbQuota (s : State) (die part : Nat) : Nat := if part = 63 then 3072 else (s.part part).get (0x1D0 + 2 * die) 2

/-- A walking XLT fills an entry; within the partition's quota the least recently used gives way (R297). -/
def State.tlbFill (s : State) (die part : Nat) (h : Handle) : State :=
  let all := Fm.get [] s.tlb die
  let all := all.filter (fun t => !(t.part == part && t.h.vbase == h.vbase && t.h.sz == h.sz))
  let mine := all.filter (fun t => t.part == part)
  let old := mine.foldl (fun a t => min a t.stamp) (s.stamp + 1)
  let q := s.tlbQuota die part
  if q = 0 then s
  else
    let all := if q ≤ mine.length then all.filter (fun t => !(t.part == part && t.stamp == old)) else all
    { s with stamp := s.stamp + 1
             tlb := Fm.set s.tlb die ({ part := part, gen := s.gen part, h := h, stamp := s.stamp + 1 } :: all) }

/-- A TLB hit becomes the most recently used entry. -/
def State.tlbTouch (s : State) (die : Nat) (t : TlbEntry) : State :=
  { s with stamp := s.stamp + 1
           tlb := Fm.set s.tlb die ((Fm.get [] s.tlb die).map (fun x => if x = t then { x with stamp := s.stamp + 1 } else x)) }

end Sys2Proof.Machine
end

