-- ==== Sys2Proof/Machine/Numeric.lean ====
section
/-! DEFINITION. Numbers: exact values, the formats of R20 and their rounding (R52 to R63), IEEE operations (R54), block
formats and scales (R65 to R72), reductions (R77, R78), special functions (R79 to R85), the segments of the matrix path
(R74) and the collective window (R86). -/

namespace Sys2Proof

/-- The exact value of an operand: NaN (signalling or not), infinity, or a signed magnitude n ÷ d. -/
inductive Val where
  | nan (s : Bool)
  | inf (neg : Bool)
  | fin (neg : Bool) (n d : Nat)
  deriving DecidableEq, Repr

/-- FSTAT flags as bits (R46), and bit 5 for a decoded D8 class G code (R58). -/
def flagNV : Nat := 1
def flagDZ : Nat := 2
def flagOF : Nat := 4
def flagUF : Nat := 8
def flagNX : Nat := 16
def flagUnk : Nat := 32

/-! ## Formats -/

/-- Element width in bits of a type code (R20). -/
def typeBits (t : Nat) : Nat := [64, 32, 16, 16, 8, 8, 8, 8, 8, 16, 16, 32, 32, 64, 64, 4].getD t 8
/-- Integer types, and the signed ones (R52). -/
def isInt (t : Nat) : Bool := 7 ≤ t
def isSigned (t : Nat) : Bool := t == 7 || t == 9 || t == 11 || t == 13 || t == 15
/-- Exponent bits, fraction bits and bias of the binary formats (R53, R56). -/
def fmtE (t : Nat) : Nat := [11, 8, 5, 8, 4, 5].getD t 8
def fmtF (t : Nat) : Nat := [52, 23, 10, 7, 3, 2].getD t 23
def fmtBias (t : Nat) : Nat := [1023, 127, 15, 127, 7, 15].getD t 127
/-- Canonical NaN of a floating type (R53, R56, R58). -/
def canonNaN (t : Nat) : Nat := [0x7FF8000000000000, 0x7FC00000, 0x7E00, 0x7FC0, 0x7F, 0x7E, 0x80].getD t 0

/-- Power of ten as a fraction: numerator and denominator. -/
def pow10 (e : Int) : Nat × Nat := if e < 0 then (1, 10 ^ (-e).toNat) else (10 ^ e.toNat, 1)
/-- Power of two as a fraction. -/
def pow2 (e : Int) : Nat × Nat := if e < 0 then (1, 2 ^ (-e).toNat) else (2 ^ e.toNat, 1)

/-- Significand and decimal exponent of a D8 code of classes A to F (R58). -/
def d8Parts (b : Nat) : Nat × Nat × Int :=
  if 64 ≤ b then (16 + 9 * (b % 16), 16, (b / 16 % 4 : Nat) - 2)
  else if 32 ≤ b then
    (4 + 9 * (b % 4), 4, if b / 16 % 2 = 1 then (b / 4 % 4 : Nat) + 2 else -((b / 4 % 4 : Nat) + 3))
  else if 16 ≤ b then
    (2 + 9 * (b % 2), 2, if b / 8 % 2 = 1 then (b / 2 % 4 : Nat) + 6 else -((b / 2 % 4 : Nat) + 7))
  else if 8 ≤ b then (1, 1, if b / 4 % 2 = 1 then (b % 4 : Nat) + 10 else -((b % 4 : Nat) + 11))
  else if 4 ≤ b then (1, 1, if b / 2 % 2 = 1 then (b % 2 : Nat) + 14 else -((b % 2 : Nat) + 15))
  else (1, 1, -17)

/-- Magnitude of a D8 code b[6:0] other than 1 and 3 (R59). -/
def d8Mag (b : Nat) : Nat × Nat :=
  if b = 0 then (0, 1)
  else
    let (m, k, e) := d8Parts b
    let (p, q) := pow10 e
    (m * p, k * q)

/-- The value of a D8 byte (R58). -/
def decodeD8 (x : Nat) : Val :=
  let b := x % 128
  let s := x / 128 % 2 == 1
  if b = 0 then (if s then .nan false else .fin false 0 1)
  else if b = 1 then .nan false
  else if b = 3 then .inf s
  else .fin s (d8Mag b).1 (d8Mag b).2

/-- The value of the low bits of `x` in a binary format (R53, R56). A NaN of E5M2 is signalling where its leading fraction bit is 0,
as in R53, and one of E4M3 is quiet: R56 does not say it (log entry 92). -/
def decodeBinary (t x : Nat) : Val :=
  let f := fmtF t
  let e := fmtE t
  let fr := x % 2 ^ f
  let ex := x / 2 ^ f % 2 ^ e
  let s := x / 2 ^ (f + e) % 2 == 1
  let special := if t = 4 then ex = 15 ∧ fr = 7 else ex = 2 ^ e - 1
  if special then
    (if t = 4 then .nan false else if fr = 0 then .inf s else .nan (fr / 2 ^ (f - 1) == 0))
  else
    let (m, q) : Nat × Int := if ex = 0 then (fr, 1 - (fmtBias t : Int) - f) else (fr + 2 ^ f, (ex : Int) - fmtBias t - f)
    let (a, b) := pow2 q
    .fin s (m * a) b

/-- The value of an element of a type (R20, R52, R53, R56, R58). -/
def decodeVal (t x : Nat) : Val :=
  let w := typeBits t
  let y := x % 2 ^ w
  if isInt t then
    (if isSigned t && y / 2 ^ (w - 1) == 1 then .fin true (2 ^ w - y) 1 else .fin false y 1)
  else if t = 6 then decodeD8 y
  else decodeBinary t y

/-- The flag of decoding: a D8 class G code (R58). -/
def decodeFlags (t x : Nat) : Nat := if t = 6 ∧ x % 128 = 1 then flagUnk else 0

/-! ## Rounding -/

/-- Floor of the base-2 logarithm of n ÷ d, for n > 0. -/
def ilog2 (n d : Nat) : Int :=
  let e : Int := (n.log2 : Int) - d.log2
  let (a, b) := pow2 e
  if n * b < d * a then e - 1 else e

/-- A magnitude n ÷ d in units of 2^q, rounded to an integer by a mode (R55), and whether it was inexact. -/
def roundUnits (mode : Nat) (neg : Bool) (n d : Nat) (q : Int) : Nat × Bool :=
  let (a, b) := pow2 q
  let x := n * b
  let y := d * a
  let m := x / y
  let r := x % y
  let up := match mode with
    | 0 => decide (y < 2 * r) || (decide (2 * r = y) && m % 2 == 1)
    | 1 => false
    | 2 => neg && r != 0
    | _ => !neg && r != 0
  (if up then m + 1 else m, r != 0)

/-- Sign bit of a format. -/
def signBit (t : Nat) (neg : Bool) : Nat := if neg then 2 ^ (fmtF t + fmtE t) else 0
/-- Infinity of a format (not E4M3), and its largest finite magnitude. -/
def infBits (t : Nat) : Nat := (2 ^ fmtE t - 1) * 2 ^ fmtF t
def maxBits (t : Nat) : Nat := if t = 4 then 0x7E else infBits t - 1

/-- A non-zero magnitude rounded to a binary format with an exponent unbounded above: biased bits, and flags UF and NX.
Tininess is detected after rounding (R54). -/
def roundBinary (t mode : Nat) (neg : Bool) (n d : Nat) : Nat × Nat :=
  let f := fmtF t
  let emin : Int := 1 - (fmtBias t : Int)
  let e := ilog2 n d
  let q := max e emin - f
  let (m, inex) := roundUnits mode neg n d q
  let tiny := decide (e < emin) && decide ((roundUnits mode neg n d (e - f)).1 < 2 ^ (f + 1) ∨ e + 1 < emin)
  let ebase : Nat := (max e emin + fmtBias t - 1).toNat
  (ebase * 2 ^ f + m, (if inex then flagNX else 0) + (if inex && tiny then flagUF else 0))

/-- Conversion of an exact value to a binary format under a mode (R54, R57). -/
def toBinary (t mode : Nat) (ovinf : Bool) (v : Val) : Nat × Nat :=
  match v with
  | .nan s => (canonNaN t, if s then flagNV else 0)
  | .inf neg => if t = 4 then (0x7F, flagNV) else (signBit t neg + infBits t, 0)
  | .fin neg 0 _ => (signBit t neg, 0)
  | .fin neg n d =>
    let (b, fl) := roundBinary t mode neg n d
    if maxBits t < b then
      let sat := if t = 4 then true
        else if t = 5 then !ovinf
        else mode == 1 || (mode == 2 && !neg) || (mode == 3 && neg)
      (signBit t neg + (if sat then maxBits t else infBits t), flagOF + flagNX)
    else (signBit t neg + b, fl)

/-- |a ÷ b − c ÷ d| as a fraction. -/
def fracDiff (a b c d : Nat) : Nat × Nat := (if a * d < c * b then c * b - a * d else a * d - c * b, b * d)

/-- Candidates of ConvertD8 (R60). -/
def d8Candidates : List Nat := [0, 2] ++ (List.range 124).map (· + 4)

/-- Whether candidate `x` is preferred to `y` for a magnitude n ÷ d (R60). -/
def d8Better (n d x y : Nat) : Bool :=
  let (xa, xb) := d8Mag x
  let (ya, yb) := d8Mag y
  let (p, q) := fracDiff xa xb n d
  let (u, v) := fracDiff ya yb n d
  if p * v = u * q then
    (if x % 2 = 0 ∧ y % 2 = 1 then true
     else if x % 2 = 1 ∧ y % 2 = 0 then false
     else decide (xa * yb < ya * xb))
  else decide (p * v < u * q)

/-- ConvertD8 (R60). -/
def toD8 (ovinf : Bool) (v : Val) : Nat × Nat :=
  match v with
  | .nan s => (0x80, if s then flagNV else 0)
  | .inf neg => ((if neg then 0x80 else 0) + 3, 0)
  | .fin neg n d =>
    let sg := if neg then 0x80 else 0
    if 10 ^ 15 * d < n then (sg + (if ovinf then 3 else 7), flagOF + flagNX)
    else
      let b := d8Candidates.foldl (fun a x => if d8Better n d x a then x else a) 0
      let (p, q) := d8Mag b
      let fl := (if p * d = n * q then 0 else flagNX) + (if n ≠ 0 ∧ b = 0 then flagUF else 0)
      (if b = 0 then 0 else sg + b, fl)

/-- Limits of an integer type (R52). -/
def intMin (t : Nat) : Int := if isSigned t then -((2 ^ (typeBits t - 1) : Nat) : Int) else 0
def intMax (t : Nat) : Int :=
  if isSigned t then ((2 ^ (typeBits t - 1) : Nat) : Int) - 1 else ((2 ^ typeBits t : Nat) : Int) - 1
/-- An integer in the low bits of its type. -/
def intBits (t : Nat) (x : Int) : Nat := (x % ((2 ^ typeBits t : Nat) : Int)).toNat

/-- Conversion of a real value to an integer type (R63). -/
def toInt (t mode : Nat) (v : Val) : Nat × Nat :=
  match v with
  | .nan _ => (0, flagNV)
  | .inf neg => (intBits t (if neg then intMin t else intMax t), flagNV)
  | .fin neg n d =>
    let (m, inex) := roundUnits mode neg n d 0
    let x : Int := if neg then -(m : Int) else m
    if x < intMin t then (intBits t (intMin t), flagNV)
    else if intMax t < x then (intBits t (intMax t), flagNV)
    else (intBits t x, if inex then flagNX else 0)

/-- An integer value in an integer type: it saturates and raises no flag, as R63 has it for a narrower type, also where the type is
no narrower and cannot hold it (log entry 95). -/
def narrowInt (t : Nat) (v : Val) : Nat := (toInt t 1 v).1

/-- Conversion of an exact real to a type (R54, R57, R60, R63). -/
def toType (t mode : Nat) (ovinf : Bool) (v : Val) : Nat × Nat :=
  if isInt t then toInt t mode v else if t = 6 then toD8 ovinf v else toBinary t mode ovinf v

/-- Conversion of an element between types (R145, R169): integers narrow without flags. -/
def convert (src dst mode : Nat) (ovinf : Bool) (x : Nat) : Nat × Nat :=
  let v := decodeVal src x
  if isInt src && isInt dst then (narrowInt dst v, 0)
  else
    let (b, f) := toType dst mode ovinf v
    (b, f ||| decodeFlags src x)

/-! ## Exact operations (R54) -/

def Val.isNan : Val → Bool
  | .nan _ => true
  | _ => false
def Val.isSnan : Val → Bool
  | .nan s => s
  | _ => false
def Val.isZero : Val → Bool
  | .fin _ n _ => n == 0
  | _ => false
def Val.neg : Val → Val
  | .nan s => .nan s
  | .inf b => .inf (!b)
  | .fin b n d => .fin (!b) n d
def Val.abs : Val → Val
  | .nan s => .nan s
  | .inf _ => .inf false
  | .fin _ n d => .fin false n d
def Val.sign : Val → Bool
  | .nan _ => false
  | .inf b => b
  | .fin b _ _ => b
/-- Flags of NaN operands: a signalling NaN raises NV. -/
def nanFlags (l : List Val) : Nat := if l.any Val.isSnan then flagNV else 0

/-- a + b, exact; an exact zero sum of opposite signs is −0 under RDN and +0 otherwise. -/
def addVal (mode : Nat) (a b : Val) : Val × Nat :=
  match a, b with
  | .nan x, y => (.nan false, nanFlags [.nan x, y])
  | x, .nan y => (.nan false, nanFlags [x, .nan y])
  | .inf x, .inf y => if x = y then (.inf x, 0) else (.nan false, flagNV)
  | .inf x, _ => (.inf x, 0)
  | _, .inf y => (.inf y, 0)
  | .fin x n d, .fin y m e =>
    if x = y then (.fin x (n * e + m * d) (d * e), 0)
    else if n * e = m * d then (.fin (mode == 2) 0 1, 0)
    else if m * d < n * e then (.fin x (n * e - m * d) (d * e), 0)
    else (.fin y (m * d - n * e) (d * e), 0)

/-- a × b, exact. -/
def mulVal (a b : Val) : Val × Nat :=
  match a, b with
  | .nan x, y => (.nan false, nanFlags [.nan x, y])
  | x, .nan y => (.nan false, nanFlags [x, .nan y])
  | .inf x, y => if y.isZero then (.nan false, flagNV) else (.inf (x != y.sign), 0)
  | x, .inf y => if x.isZero then (.nan false, flagNV) else (.inf (x.sign != y), 0)
  | .fin x n d, .fin y m e => (.fin (x != y) (n * m) (d * e), 0)

/-- a × b + c, fused; 0 × ∞ with a quiet NaN addend raises NV as Config says (R54, log entry 10). -/
def fmaVal (mode : Nat) (a b c : Val) : Val × Nat :=
  let (p, f) := mulVal a b
  if c.isNan then
    (.nan false, nanFlags [a, b, c] ||| (if f = flagNV && !a.isNan && !b.isNan && Config.zeroInfNaNInvalid then flagNV else 0))
  else
    let (r, g) := addVal mode p c
    (r, f ||| g)

/-- a ÷ b, exact (R143). -/
def divVal (a b : Val) : Val × Nat :=
  match a, b with
  | .nan x, y => (.nan false, nanFlags [.nan x, y])
  | x, .nan y => (.nan false, nanFlags [x, .nan y])
  | .inf x, .inf _ => (.nan (false && x), flagNV)
  | .inf x, y => (.inf (x != y.sign), 0)
  | .fin x _ _, .inf y => (.fin (x != y) 0 1, 0)
  | .fin x n d, .fin y m e =>
    if m = 0 then (if n = 0 then (.nan false, flagNV) else (.inf (x != y), flagDZ))
    else (.fin (x != y) (n * e) (d * m), 0)

/-- Integer square root: the largest r < 2^k + previous with r × r ≤ n, bit by bit. -/
def isqrtFrom (n : Nat) : Nat → Nat → Nat
  | 0, r => if (r + 1) * (r + 1) ≤ n then r + 1 else r
  | k + 1, r => isqrtFrom n k (if (r + 2 ^ (k + 1)) * (r + 2 ^ (k + 1)) ≤ n then r + 2 ^ (k + 1) else r)
def isqrt (n : Nat) : Nat := isqrtFrom n (n.log2 / 2 + 1) 0

/-- The square root of n ÷ d as a fraction that every rounding to at most 56 bits treats as it would the exact root: the
root itself when it is a multiple of 2^−k, else a value strictly between the two multiples that enclose it. -/
def sqrtFrac (n d : Nat) : Nat × Nat :=
  let k := 64 + d.log2
  let s := isqrt (n * 4 ^ k / d)
  if s * s * d = n * 4 ^ k then (s, 2 ^ k) else (2 * s + 1, 2 ^ (k + 1))

/-- sqrt(a) (R143). -/
def sqrtVal (a : Val) : Val × Nat :=
  match a with
  | .nan s => (.nan false, if s then flagNV else 0)
  | .inf neg => if neg then (.nan false, flagNV) else (.inf false, 0)
  | .fin neg n d =>
    if n = 0 then (.fin neg 0 1, 0)
    else if neg then (.nan false, flagNV)
    else (.fin false (sqrtFrac n d).1 (sqrtFrac n d).2, 0)

/-- a < b on values that are not NaN; −0 = +0. -/
def ltVal (a b : Val) : Bool :=
  match a, b with
  | .nan _, _ => false
  | _, .nan _ => false
  | .inf x, .inf y => x && !y
  | .inf x, .fin _ _ _ => x
  | .fin _ _ _, .inf y => !y
  | .fin x n d, .fin y m e =>
    let p : Int := if x then -(n * e : Nat) else (n * e : Nat)
    let q : Int := if y then -(m * d : Nat) else (m * d : Nat)
    decide (p < q)
/-- a = b on values that are not NaN. -/
def eqVal (a b : Val) : Bool := !a.isNan && !b.isNan && !ltVal a b && !ltVal b a

/-- Minimum and maximum (R144): a NaN operand gives NaN, −0 orders below +0. -/
def minVal (a b : Val) : Val × Nat :=
  if a.isNan || b.isNan then (.nan false, nanFlags [a, b])
  else if ltVal a b then (a, 0)
  else if ltVal b a then (b, 0)
  else (if a.sign then a else b, 0)
def maxVal (a b : Val) : Val × Nat :=
  if a.isNan || b.isNan then (.nan false, nanFlags [a, b])
  else if ltVal a b then (b, 0)
  else if ltVal b a then (a, 0)
  else (if a.sign then b else a, 0)

/-- The value times 2^k, exact (R72). -/
def Val.scale (v : Val) (k : Int) : Val :=
  match v with
  | .fin s n d => let (a, b) := pow2 k; .fin s (n * a) (d * b)
  | x => x

/-- Rounding to FP32 by RNE, as bits and as a value, without flags. -/
def bits32 (v : Val) : Nat := (toBinary 1 0 false v).1
def rne32 (v : Val) : Val := decodeBinary 1 (bits32 v)

/-! ## Block formats (R65, R66, R68) -/

/-- Type code of a block format code; none for raw and for codes that are not assigned (R65). -/
def blockType (code : Nat) : Option Nat :=
  match code with
  | 1 => some 7 | 2 => some 15 | 3 => some 4 | 4 => some 5 | 5 => some 6
  | 6 => some 2 | 7 => some 3 | 8 => some 1 | 9 => some 9 | 10 => some 11
  | _ => none
/-- Formats that the scale byte multiplies (R65). -/
def blockScaled (code : Nat) : Bool := (1 ≤ code && code ≤ 5) || code == 9 || code == 10

/-- Elements of a block as elements of type `t`, with flags, and warnings as WRN bits (R66, R68): UNKFMT 4, SCALE 8. -/
def blockElems (tag blk t : Nat) (ovinf : Bool) : List (Nat × Nat) × Nat :=
  let code := tag % 256
  let sc := tag / 256 % 256
  let warn := (if 11 ≤ code then 4 else 0) + (if !blockScaled code && sc != 127 then 8 else 0)
  match blockType code with
  | none =>
    let w := typeBits t
    ((List.range (512 / w)).map (fun i => (blk / 2 ^ (w * i) % 2 ^ w, 0)), warn)
  | some ft =>
    let w := typeBits ft
    let l := (List.range (512 / w)).map (fun i =>
      let x := blk / 2 ^ (w * i) % 2 ^ w
      let v := decodeVal ft x
      let v := if blockScaled code then (if sc = 255 then .nan false else v.scale ((sc : Int) - 127)) else v
      let (b, f) := toType t 0 ovinf v
      (b, f ||| decodeFlags ft x))
    (l, warn)

/-! ## Delayed scaling (R69 to R71) -/

/-- Target maximum of a quantisation code 0 to 4, as a fraction (R70). -/
def quantTarget (f : Nat) : Nat × Nat :=
  match f with
  | 0 => (448, 1) | 1 => (57344, 1) | 2 => (127, 1) | 3 => (7, 1) | _ => (1510, 16)
/-- Type code and block format code of a quantisation code (R65, R171). -/
def quantType (f : Nat) : Nat := [4, 5, 7, 15, 6].getD f 4
def quantCode (f : Nat) : Nat := [3, 4, 1, 2, 5].getD f 3

/-- The least sc from `c` on, within `n` of them, with a ≤ T × 2^(sc − 127) (R70). -/
def scaleFrom (an ad tn td : Nat) : Nat → Nat → Nat
  | 0, _ => 254
  | n + 1, c =>
    let (p, q) := pow2 ((c : Int) - 127)
    if an * td * q ≤ tn * p * ad then c else scaleFrom an ad tn td n (c + 1)

/-- SelectScale over the counted entries of a ring (R70). A ring that holds a NaN gives 254, one of negative entries 127 (log
entry 111). -/
def selectScale (entries : List Nat) (f : Nat) : Nat :=
  if entries = [] then 127
  else
    let m := entries.foldl (fun a x => (maxVal a (decodeBinary 1 x)).1) (.fin false 0 1)
    match m with
    | .inf _ => 254
    | .nan _ => 254
    | .fin _ n d => if n = 0 then 127 else scaleFrom n d (quantTarget f).1 (quantTarget f).2 255 0

/-- Quantisation of a value under a scale byte (R71). -/
def quantise (f sc : Nat) (v : Val) : Nat × Nat :=
  toType (quantType f) 0 false (v.scale (127 - (sc : Int)))

/-! ## Special functions (R79 to R85) -/

/-- EXP[j] of R83: the FP32 value nearest to 2^(j ÷ 64), entries 0 to 15. -/
def expTable0 : List Nat := [
  0x3F800000, 0x3F8164D2, 0x3F82CD87, 0x3F843A29,
  0x3F85AAC3, 0x3F871F62, 0x3F88980F, 0x3F8A14D5,
  0x3F8B95C2, 0x3F8D1ADF, 0x3F8EA43A, 0x3F9031DC,
  0x3F91C3D3, 0x3F935A2B, 0x3F94F4F0, 0x3F96942D]
/-- EXP[j] of R83: the FP32 value nearest to 2^(j ÷ 64), entries 16 to 31. -/
def expTable1 : List Nat := [
  0x3F9837F0, 0x3F99E046, 0x3F9B8D3A, 0x3F9D3EDA,
  0x3F9EF532, 0x3FA0B051, 0x3FA27043, 0x3FA43516,
  0x3FA5FED7, 0x3FA7CD94, 0x3FA9A15B, 0x3FAB7A3A,
  0x3FAD583F, 0x3FAF3B79, 0x3FB123F6, 0x3FB311C4]
/-- EXP[j] of R83: the FP32 value nearest to 2^(j ÷ 64), entries 32 to 47. -/
def expTable2 : List Nat := [
  0x3FB504F3, 0x3FB6FD92, 0x3FB8FBAF, 0x3FBAFF5B,
  0x3FBD08A4, 0x3FBF179A, 0x3FC12C4D, 0x3FC346CD,
  0x3FC5672A, 0x3FC78D75, 0x3FC9B9BE, 0x3FCBEC15,
  0x3FCE248C, 0x3FD06334, 0x3FD2A81E, 0x3FD4F35B]
/-- EXP[j] of R83: the FP32 value nearest to 2^(j ÷ 64), entries 48 to 63. -/
def expTable3 : List Nat := [
  0x3FD744FD, 0x3FD99D16, 0x3FDBFBB8, 0x3FDE60F5,
  0x3FE0CCDF, 0x3FE33F89, 0x3FE5B907, 0x3FE8396A,
  0x3FEAC0C7, 0x3FED4F30, 0x3FEFE4BA, 0x3FF28177,
  0x3FF5257D, 0x3FF7D0DF, 0x3FFA83B3, 0x3FFD3E0C]
/-- EXP[j] of R83: the FP32 value nearest to 2^(j ÷ 64). -/
def expTable : List Nat := expTable0 ++ expTable1 ++ expTable2 ++ expTable3

/-- LOG[j] of R84: the FP32 value nearest to log2(1 + j ÷ 64), entries 0 to 15. -/
def logTable0 : List Nat := [
  0x00000000, 0x3CB73CB4, 0x3D35D69C, 0x3D8759C5,
  0x3DB31FB8, 0x3DDE4212, 0x3E0462C4, 0x3E19574F,
  0x3E2E00D2, 0x3E42615F, 0x3E567AF1, 0x3E6A4F72,
  0x3E7DE0B6, 0x3E88983F, 0x3E92203D, 0x3E9B8926]
/-- LOG[j] of R84: the FP32 value nearest to log2(1 + j ÷ 64), entries 16 to 31. -/
def logTable1 : List Nat := [
  0x3EA4D3C2, 0x3EAE00D2, 0x3EB7110E, 0x3EC0052B,
  0x3EC8DDD4, 0x3ED19BB0, 0x3EDA3F60, 0x3EE2C97D,
  0x3EEB3A9F, 0x3EF39355, 0x3EFBD42B, 0x3F01FED4,
  0x3F060828, 0x3F0A0650, 0x3F0DF989, 0x3F11E20F]
/-- LOG[j] of R84: the FP32 value nearest to log2(1 + j ÷ 64), entries 32 to 47. -/
def logTable2 : List Nat := [
  0x3F15C01A, 0x3F1993E3, 0x3F1D5DA0, 0x3F211D84,
  0x3F24D3C2, 0x3F28808C, 0x3F2C2411, 0x3F2FBE80,
  0x3F335004, 0x3F36D8CB, 0x3F3A58FF, 0x3F3DD0C8,
  0x3F41404F, 0x3F44A7BA, 0x3F480731, 0x3F4B5ED7]
/-- LOG[j] of R84: the FP32 value nearest to log2(1 + j ÷ 64), entries 48 to 63. -/
def logTable3 : List Nat := [
  0x3F4EAED0, 0x3F51F740, 0x3F553848, 0x3F587209,
  0x3F5BA4A4, 0x3F5ED039, 0x3F61F4E5, 0x3F6512C7,
  0x3F6829FB, 0x3F6B3A9F, 0x3F6E44CD, 0x3F7148A1,
  0x3F744636, 0x3F773DA4, 0x3F7A2F04, 0x3F7D1A71]
/-- LOG[j] of R84: the FP32 value nearest to log2(1 + j ÷ 64). -/
def logTable : List Nat := logTable0 ++ logTable1 ++ logTable2 ++ logTable3

/-- RCP[i], INV[j] and RSQ[i] (R80, R84, R81). -/
def rcpEntry (i : Nat) : Val := rne32 (.fin false 256 (257 + 2 * i))
def invEntry (j : Nat) : Val := rne32 (.fin false 64 (64 + j))
def rsqEntry (i : Nat) : Val := rne32 (.fin false (sqrtFrac 64 (64 + i)).1 (sqrtFrac 64 (64 + i)).2)

/-- One fused step x × y + z rounded to FP32 by RNE. -/
def fma32 (x y z : Val) : Val := rne32 (fmaVal 0 x y z).1
def sub32 (x y : Val) : Val := rne32 (addVal 0 x y.neg).1
def add32 (x y : Val) : Val := rne32 (addVal 0 x y).1
def mul32 (x y : Val) : Val := rne32 (mulVal x y).1

/-- The final step: v × 2^k rounded to FP32, with OF and UF (R79). -/
def finish32 (v : Val) (k : Int) : Val × Nat :=
  let (b, f) := toBinary 1 0 false (v.scale k)
  (decodeBinary 1 b, f &&& (flagOF + flagUF))

/-- NaN gives NaN and raises nothing: a special function raises only what its own special cases name (R79 to R85, which R54
excepts; log entry 96). -/
def nanIn : Val × Nat := (.nan false, 0)

/-- RcpA (R80). -/
def rcpA (x : Val) : Val × Nat :=
  match x with
  | .nan _ => nanIn
  | .inf neg => (.fin neg 0 1, 0)
  | .fin neg n d =>
    if n = 0 then (.inf neg, flagDZ)
    else
      let e := ilog2 n d
      let m := (Val.fin false n d).scale (-e)
      let i := match m with | .fin _ a b => (a - b) * 128 / b | _ => 0
      let r := rcpEntry i
      let t := fma32 m.neg r (.fin false 1 1)
      let y := fma32 r t r
      let (z, f) := finish32 y (-e)
      (if neg then z.neg else z, f)

/-- RsqA (R81). -/
def rsqA (x : Val) : Val × Nat :=
  match x with
  | .nan _ => nanIn
  | .inf neg => if neg then (.nan false, flagNV) else (.fin false 0 1, 0)
  | .fin neg n d =>
    if n = 0 then (.inf neg, flagDZ)
    else if neg then (.nan false, flagNV)
    else
      let k := ilog2 n d / 2
      let m := (Val.fin false n d).scale (-2 * k)
      let i := match m with | .fin _ a b => (a - b) * 64 / b | _ => 0
      ((rsqEntry i).scale (-k), 0)

/-- Floor of a finite value. -/
def floorVal (v : Val) : Int :=
  match v with
  | .fin neg n d => if neg then -((n + d - 1) / d : Nat) else (n / d : Nat)
  | _ => 0
/-- An integer as a value. -/
def intVal (x : Int) : Val := .fin (decide (x < 0)) x.natAbs 1

/-- Exp2A (R83). -/
def exp2A (x : Val) : Val × Nat :=
  match x with
  | .nan _ => nanIn
  | .inf neg => if neg then (.fin false 0 1, 0) else (.inf false, 0)
  | .fin neg n d =>
    let v : Val := .fin neg n d
    if !ltVal v (intVal 128) then (.inf false, flagOF)
    else if ltVal v (intVal (-150)) then (.fin false 0 1, flagUF)
    else
      let k := floorVal v
      let f := (addVal 0 v (intVal (-k))).1
      let j := (floorVal (f.scale 6)).toNat
      let r := rne32 (addVal 0 f (Val.fin true j 64)).1
      let a := fma32 (decodeBinary 1 0x3E75FDF0) r (decodeBinary 1 0x3F317218)
      let b := mul32 a r
      let e := decodeBinary 1 (expTable.getD j 0)
      finish32 (fma32 e b e) k

/-- Log2A (R84). -/
def log2A (x : Val) : Val × Nat :=
  match x with
  | .nan _ => nanIn
  | .inf neg => if neg then (.nan false, flagNV) else (.inf false, 0)
  | .fin neg n d =>
    if n = 0 then (.inf true, flagDZ)
    else if neg then (.nan false, flagNV)
    else
      let e := ilog2 n d
      let m := (Val.fin false n d).scale (-e)
      let j := match m with | .fin _ a b => (a - b) * 64 / b | _ => 0
      let u := mul32 (addVal 0 m (Val.fin true (64 + j) 64)).1 (invEntry j)
      let a := fma32 (decodeBinary 1 0xBF38AA3B) u (decodeBinary 1 0x3FB8AA3B)
      let b := mul32 a u
      let s := add32 b (decodeBinary 1 (logTable.getD j 0))
      (add32 s (intVal e), 0)

/-- TanhA (R85). -/
def tanhA (x : Val) : Val × Nat :=
  match x with
  | .nan _ => nanIn
  | .inf neg => (.fin neg 1 1, 0)
  | .fin neg n d =>
    let a : Val := .fin false n d
    if !ltVal a (intVal 10) then (.fin neg 1 1, 0)
    else if n * 4096 < d then (.fin neg n d, 0)
    else
      let t := mul32 a (decodeBinary 1 0x4038AA3B)
      let e := (exp2A t.neg).1
      let y := mul32 (sub32 (intVal 1) e) (rcpA (add32 (intVal 1) e)).1
      (if neg then y.neg else y, 0)

/-- A special function on an element of a type (R79): 0 RcpA, 1 RsqA, 2 Exp2A, 3 Log2A, 4 TanhA. -/
def special (fn t x : Nat) (ovinf : Bool) : Nat × Nat :=
  let v := decodeVal t x
  let v := match v with
    | .fin _ _ _ => rne32 v
    | y => y
  let (y, f) := match fn with
    | 0 => rcpA v | 1 => rsqA v | 2 => exp2A v | 3 => log2A v | _ => tanhA v
  let (b, g) := if t = 1 then (bits32 y, 0) else toType t 0 ovinf y
  (b, f ||| g ||| decodeFlags t x)

/-! ## The matrix path (R74, R75) -/

/-- Clamp of R74. -/
def clampInt (x lo hi : Int) : Int := if x < lo then lo else if hi < x then hi else x

/-- A finite value rounded by RNE to an integer. -/
def rneInt (v : Val) : Int :=
  match v with
  | .fin neg n d => let m := (roundUnits 0 neg n d 0).1; if neg then -(m : Int) else m
  | _ => 0

/-- Whether a segment element is NaN or infinite under its scale byte (R66, R75). -/
def segBad (t : Nat) (x sc : Nat) : Bool :=
  sc == 255 || match decodeVal t x with
    | .fin _ _ _ => false
    | _ => true

/-- The value of a segment element with its scale (R74). -/
def segVal (t x sc : Nat) : Val :=
  let v := decodeVal t x
  (if t = 6 then rne32 v else v).scale ((sc : Int) - 127)

/-- Align (R74): integers and the side exponent. Elements are pairs of bits and scale byte. -/
def align (t : Nat) (l : List (Nat × Nat)) : List Int × Int :=
  if isInt t then
    let s : Int := l.foldl (fun a e => min a ((e.2 : Int) - 127)) 128
    (l.map (fun e => match decodeVal t e.1 with
      | .fin neg n _ => let m : Int := n * 2 ^ ((e.2 : Int) - 127 - s).toNat; if neg then -m else m
      | _ => 0), s)
  else
    let w : Int := if t = 2 ∨ t = 3 then 20 else 10
    let y := l.map (fun e => segVal t e.1 e.2)
    let e := y.foldl (fun (a : Option Int) v => match v with
      | .fin _ n d => if n = 0 then a else some (match a with
        | none => ilog2 n d
        | some b => max b (ilog2 n d))
      | _ => a) none
    match e with
    | none => (y.map (fun _ => 0), 0)
    | some e =>
      let lim : Int := 2 ^ (w - 1).toNat
      (y.map (fun v => clampInt (rneInt (v.scale (w - 2 - e))) (-lim) (lim - 1)), e - w + 2)

/-- One group of R75: the accumulator bits after the contribution of an A segment and a B segment. -/
def groupStep (acc : Nat) (aBad bBad : Bool) (a b : List Int × Int) : Nat :=
  if aBad || bBad then canonNaN 1
  else
    let s := (List.zipWith (· * ·) a.1 b.1).foldl (· + ·) 0
    bits32 (addVal 0 (decodeBinary 1 acc) ((intVal s).scale (a.2 + b.2))).1

/-! ## Collective sums (R86) -/

/-- Enter: the fixed-point integer under window exponent `t`, and whether it saturated. -/
def collEnter (t : Int) (v : Val) : Int × Bool :=
  let hi : Int := 2 ^ 96 - 1
  let lo : Int := -(2 ^ 96)
  match v with
  | .nan _ => (0, false)
  | .inf neg => (if neg then lo else hi, true)
  | .fin _ _ _ =>
    let q := rneInt (v.scale (96 - t))
    if hi < q then (hi, true) else if q < lo then (lo, true) else (q, false)

end Sys2Proof
end

