-- ==== Sys2Proof/Machine/Flags.lean ====
section
/-! DEFINITION. Flags and warnings: the IEEE flags that a word raises at its result cycle (R46, R113), the D8 class G
warning (R58), integer operations on g registers (R136, R137, R142) and scalar floating point (R143 to R145). -/

namespace Sys2Proof.Machine

open Sys2Proof

/-! ## Flags -/

/-- The landings of a set of flags: FSTAT bits, and WRN.UNKFMT for a decoded D8 class G code (R46, R58), of an FCVT too in the result
cycle, which no rule states (R145, log entry 94). -/
def flagLands (f : Nat) : List Land :=
  (if f % 32 = 0 then [] else [.fstat (BitVec.ofNat 5 f)]) ++ (if bit f 5 then [.warns 4] else [])

/-- The flags that a list of results raises together (R46). -/
def orFlags (l : List (Nat × Nat)) : Nat := l.foldl (fun a e => a ||| e.2) 0

/-- FCTL.OVINF of the present word's sequencer (R47). -/
def State.ovinf (s : State) : Bool := s.me.fctl

/-! ## Integer operations on g registers (R136) -/

/-- A g register read as a signed number. -/
def sg (x : W64) : Int := x.toInt

/-- Unsigned(x) × Unsigned(y), bits [127:64]. -/
def mulHigh (x y : W64) : W64 := BitVec.ofNat 64 (x.toNat * y.toNat / 2 ^ 64)
/-- Signed(x) × Signed(y), bits [127:64]. -/
def mulHighS (x y : W64) : W64 := BitVec.ofInt 64 (sg x * sg y / 2 ^ 64)
/-- DIVS (R137). -/
def divS (b c : W64) : W64 := if c = 0 then BitVec.allOnes 64 else BitVec.ofInt 64 ((sg b).tdiv (sg c))
/-- REMS (R137). -/
def remS (b c : W64) : W64 := if c = 0 then b else BitVec.ofInt 64 ((sg b).tmod (sg c))
/-- DIVZ (R137). -/
def divZ (b c : W64) : W64 := if c = 0 then BitVec.allOnes 64 else BitVec.ofNat 64 (b.toNat / c.toNat)
/-- REMZ (R137). -/
def remZ (b c : W64) : W64 := if c = 0 then b else BitVec.ofNat 64 (b.toNat % c.toNat)
/-- Leading zeros, 0 to 64 (R136). -/
def leadingZeros (x : W64) : Nat := if x = 0 then 64 else 63 - x.toNat.log2
/-- Number of 1 bits (R136). -/
def onesCount (x : W64) : Nat := popcount x.toNat 64
/-- gb[w−1:0] sign-extended from bit w − 1 (R142). -/
def signExtendFrom (x : W64) (w : Nat) : W64 := BitVec.ofInt 64 (sgn x.toNat w)
/-- gb[w−1:0] zero-extended (R142). -/
def zeroExtendFrom (x : W64) (w : Nat) : W64 := BitVec.ofNat 64 (x.toNat % 2 ^ w)

/-! ## Scalar floating point (R16, R143) -/

/-- Type code that M[0] selects: f32 or f64 (R143). -/
def precision (p : BitVec 1) : Nat := if p = 1 then 0 else 1

/-- The value of a g register as a scalar of type `t` (R16). -/
def scalarVal (t : Nat) (x : W64) : Val := decodeVal t x.toNat

/-- A scalar result: the exact value rounded to the type, with the flags of both (R54, R143). -/
def scalarRound (t mode : Nat) (v : Val × Nat) : W64 × Nat :=
  let r := toBinary t mode false v.1
  (BitVec.ofNat 64 r.1, v.2 ||| r.2)

/-- FCVT (R145): the source type's low bits to the destination type; an integer result is extended by its suffix. -/
def scalarConvert (dst src mode : Nat) (ovinf : Bool) (x : W64) : W64 × Nat :=
  let r := convert src dst mode ovinf x.toNat
  (if isSigned dst then BitVec.ofInt 64 (sgn r.1 (typeBits dst)) else BitVec.ofNat 64 r.1, r.2)

/-- FCMPLT: whether a < b, and the flags (R144). -/
def cmpLt (a b : Val) : Bool × Nat := (ltVal a b, if a.isNan || b.isNan then flagNV else 0)
/-- FCMPEQ: whether a = b, and the flags (R144). -/
def cmpEq (a b : Val) : Bool × Nat := (eqVal a b, nanFlags [a, b])

end Sys2Proof.Machine
end

