-- ==== Sys2Proof/Machine/Operands.lean ====
section
/-! DEFINITION. Operand forms: tiles, masks and shapes (R17 to R19, R148 to R151), register names that the core mode
forbids (R25, R29, R154), g register groups (R90), and the handle and bounds checks of memory words (R174, R175). -/

namespace Sys2Proof.Machine

open Sys2Proof

/-! ## Shapes and elements (R18, R19, R148) -/

/-- Rows, columns and element type of a SHAPE value (R19). -/
def shapeRows (x : BitVec 18) : Nat := x.toNat % 64 + 1
def shapeCols (x : BitVec 18) : Nat := x.toNat / 64 % 256 + 1
def shapeType (x : BitVec 18) : Nat := x.toNat / 16384
/-- Elements of a tile in a shape, N (R148). -/
def shapeCount (x : BitVec 18) : Nat := shapeRows x * shapeCols x
/-- Bytes that `n` elements of type `t` take (R148). -/
def bytesFor (t n : Nat) : Nat := (n * typeBits t + 7) / 8
/-- B of R148. -/
def shapeBytes (x : BitVec 18) : Nat := bytesFor (shapeType x) (shapeCount x)
/-- b(x) of R155. -/
def slots (bytes : Nat) : Nat := max 1 (cdiv bytes 512)

/-- The first `n` elements of width `w` bits (R18). -/
def unpack (w n : Nat) (x : Nat) : List Nat := (List.range n).map (fun i => x / 2 ^ (w * i) % 2 ^ w)
/-- Elements of width `w` bits packed, element 0 lowest (R18). -/
def pack (w : Nat) : List Nat → Nat
  | [] => 0
  | x :: r => x % 2 ^ w + 2 ^ w * pack w r

/-- Bit r × 256 + c of the mask, for element number `i` of a tile with `c` columns (R17, R148). -/
def activeAt (m : MaskBits) (cols i : Nat) : Bool := m.getLsbD (i / cols * 256 + i % cols)

/-- Elements of tile `n` in the current shape. -/
def State.elemsOf (s : State) (n : Nat) : List Nat :=
  unpack (typeBits (shapeType s.me.shape)) (shapeCount s.me.shape) (s.tile s.cur.sid n).toNat

/-- A tile written with `l` as elements of type `t`; bytes beyond them are unchanged (R18, R150). -/
def tileLand (n t : Nat) (l : List Nat) : Land :=
  .tile n (BitVec.ofNat 32768 (pack (typeBits t) l)) (BitVec.ofNat 32768 (2 ^ (typeBits t * l.length) - 1))

/-- Result elements where the mask is active, else the pass-through source's (R150). -/
def passThrough (m : MaskBits) (cols : Nat) (pass : List Nat) (res : Nat → Nat × Nat) : List (Nat × Nat) :=
  (pass.zipIdx).map (fun e => if activeAt m cols e.2 then res e.2 else (e.1, 0))

/-- The bits of a mask tile inside the shape (R151). -/
def shapeMask (rows cols : Nat) : Nat := ((List.range rows).map (fun r => (2 ^ cols - 1) * 2 ^ (256 * r))).foldl (· + ·) 0

/-- A mask tile written inside the shape from one Boolean per element (R151). -/
def maskLand (n rows cols : Nat) (l : List Bool) : Land :=
  .mask n
    (BitVec.ofNat 16384 ((l.zipIdx).foldl (fun a e => if e.1 then a + 2 ^ (e.2 / cols * 256 + e.2 % cols) else a) 0))
    (BitVec.ofNat 16384 (shapeMask rows cols))

/-! ## Names that the core mode forbids -/

/-- Naming v16 to v31 in SPLIT mode is an illegal instruction (R29, R154). -/
def State.tilesOk (s : State) (l : List Nat) : Bool := !(l.any (fun n => decide (16 ≤ n)) && s.split s.cur.sid)
/-- Effect `k` if every tile is nameable. -/
def State.withTiles (s : State) (l : List Nat) (k : State → State) : State := if s.tilesOk l then k s else s.illegal

/-- A queue or out-port number in SPLIT mode names one of eight (R25, R29). -/
def State.queueOk (s : State) (n : Nat) : Bool := !(decide (8 ≤ n) && s.split s.cur.sid)
/-- The physical queue or out-port (R25). -/
def State.physQueue (s : State) (n : Nat) : Nat := if s.split s.cur.sid && sqOf s.cur.sid == 1 then n + 8 else n

/-- A group of `n` consecutive g registers from `c` runs past g63 (R90, R232). -/
def groupOk (c n : Nat) : Bool := decide (c + n ≤ 64)

/-! ## Checks of memory words (R175) -/

/-- PERM bits: 1 read, 2 write, 4 atomic (R22). -/
def permRead : Nat := 1
def permWrite : Nat := 2
def permAtomic : Nat := 4

/-- Check 3 of R175: the handle is valid and holds the permission. -/
def State.handleOk (s : State) (h : Handle) (perm : Nat) : Bool := s.valid s.myPart h && (h.perm &&& perm) == perm
/-- Check 4 of R175: alignment and extent within the page. -/
def boundsOk (h : Handle) (off n al : Nat) : Bool := off % al == 0 && decide (off + n ≤ pageSize h.sz)

/-- A seam instruction in timed mode is a mode fault (R33, check 2 of R175). -/
def State.seamOnly (s : State) (k : State → State) : State := if s.me.ut then k s else s.modeFault

end Sys2Proof.Machine
end

