-- ==== Sys2Proof/Machine/Torus.lean ====
section
/-! DEFINITION. Timed transfers and the slots of their ways (R322, R379 to R381, R384, R385): the nodes of a die's torus, the
route of a packet, the die-to-die links, the outputs of the hub switch, and whether a partition holds every slot of a way. -/

namespace Sys2Proof.Machine

open Sys2Proof

/-! ## Nodes (R379) -/

/-- A router of a torus: x and y. -/
abbrev Node := Nat × Nat

/-- The node of cluster `c` of a compute die. -/
def clusterNode (c : Nat) : Node := (c % 6, c / 6)
/-- The node of L2 slice `i` of a die. -/
def sliceNode (die i : Nat) : Node := ((if die < 4 then 6 else 4) + i / 8, i % 8)
/-- The node of RDC bank `b` of a compute die. -/
def rdcNode (b : Nat) : Node := (b, 6)
/-- The node of attention engine `e`. -/
def engineNode (e : Nat) : Node := (e % 4, e / 4)
/-- The nodes of a die's sync engine, tier sequencer and copy engines, of a compute die's scheduler and of an attention die's
command front end. -/
def syncNode (die : Nat) : Node := if die < 4 then (4, 6) else (1, 4)
def tierNode (die : Nat) : Node := if die < 4 then (5, 6) else (2, 4)
def copyNode (die : Nat) : Node := if die < 4 then (1, 7) else (3, 4)
def schedulerNode : Node := (0, 7)
def frontNode : Node := (0, 4)
/-- The port of a die through which another die is reached: P0 to P3 of a compute die, P0 to P2 of an attention die. -/
def portNode (die other : Nat) : Node :=
  if die < 4 then
    (if other = 8 then (4, 7) else if other < 4 then (5, 7) else if other < 6 then (2, 7) else (3, 7))
  else (if other = 8 then (2, 5) else if other < 2 then (0, 5) else (1, 5))

/-! ## Routes (R380) -/

/-- The shorter way around a ring of 8: its length, and whether it is the + direction, which a tie takes. -/
def ringWay (a b : Nat) : Nat × Bool :=
  let d := (b + 8 - a % 8) % 8
  if d ≤ 4 then (d, true) else (8 - d, false)
/-- The positions of a ring from which the links of that way go out. -/
def ringFrom (a b : Nat) : List Nat :=
  let w := ringWay a b
  (List.range w.1).map (fun i => if w.2 then (a + i) % 8 else (a + 8 - i) % 8)

/-- The directed links of the route between two routers, as UNIT of R383 names them: first along x, then along y. -/
def torusRoute (a b : Node) : List Nat :=
  (ringFrom a.1 b.1).map (fun x => 4 * (8 * a.2 + x) + if (ringWay a.1 b.1).2 then 0 else 1) ++
  (ringFrom a.2 b.2).map (fun y => 4 * (8 * y + b.1) + if (ringWay a.2 b.2).2 then 2 else 3)

/-- A slot of a shared path in a cycle: KIND, DIE and UNIT of R383, and the cycle. -/
structure WaySlot where
  kind : Nat
  die : Nat
  unit : Nat
  cyc : Nat
  deriving DecidableEq, Repr

/-- The slots of a route on one die for a transfer that leaves its source router in cycle `t` (R381). -/
def dieSlots (die : Nat) (a b : Node) (t : Nat) : List WaySlot :=
  (torusRoute a b).zipIdx.map (fun u => { kind := 0, die := die, unit := u.1, cyc := t + 2 * u.2 })

/-- The slots of a transfer between two nodes of the module that leaves in cycle `t`: on one die; over the link of two dies; to H,
where it crosses the switch on the output `out` in the cycle it arrives (R385); from H; or through H, with the second link's slot 20
cycles after the first's (R384). -/
def waySlots (d1 : Nat) (a : Node) (d2 : Nat) (b : Node) (out t : Nat) : List WaySlot :=
  let via := dieLatency d1 d2 = 40
  let first := if via then 8 else d2
  let l1 := if d1 = 8 then [] else dieSlots d1 a (portNode d1 first) t
  let t1 := t + 2 * l1.length
  if d1 = d2 then (if d1 = 8 then [] else dieSlots d1 a b t)
  else if d2 = 8 then l1 ++ [{ kind := 1, die := d1, unit := 8, cyc := t1 }, { kind := 2, die := 8, unit := out, cyc := t1 + 20 }]
  else
    let last := if via then 8 else d1
    let t2 := if via then t1 + 20 else t1
    l1 ++ (if via then [{ kind := 1, die := d1, unit := 8, cyc := t1 }] else []) ++
      (if last = 8 then [{ kind := 2, die := 8, unit := d2, cyc := t2 }] else []) ++ [{ kind := 1, die := last, unit := d2, cyc := t2 }] ++
      dieSlots d2 (portNode d2 last) b (t2 + dieLatency last d2)

/-- Whether a partition's grants hold a slot (R322, R383): calendars are indexed by Beacon time modulo 1,024. -/
def State.holdsSlot (s : State) (part : Nat) (w : WaySlot) : Bool :=
  let j := (w.cyc + Fm.get 0 s.beacon 8) % 1024
  (s.part part).cal.any (fun g => g.kind == w.kind && g.die == w.die && g.unit == w.unit && !g.sb &&
    decide ((j + 1024 - g.first % 1024) % 1024 ≤ g.cnt))
/-- Whether every slot of a way is the partition's, so that its routers let the transfer leave (R381). -/
def State.wayOpen (s : State) (part : Nat) (l : List WaySlot) : Bool := l.all (s.holdsSlot part)

/-! ## Accesses -/

/-- Whether an access is a timed transfer of a partition (R322): one of a timed class to HBM4E of the module, or to a sync engine.
Management sequencers hold no grants, and their words keep their published latencies (log entry 113). -/
def Access.timed (a : Access) : Bool :=
  a.space == .phys && decide (a.cls < 3) && a.part != 63 && decide (a.sid < 8192) && a.chunk.isNone && (match regionOf a.addr with
    | .hbm _ => true
    | _ => false)
/-- The nodes to which an access goes: the sync engine of its home die; the slices of its blocks, or the RDC bank that serves
one. -/
def State.targets (s : State) (a : Access) : List (Nat × Node) :=
  match a.op with
  | .read | .write => ((blocksOf a.addr a.len).map (fun t =>
      if a.rdc && (s.rdcLine (dieOf a.sid) t.1 a.part a.gen).isSome then (dieOf a.sid, rdcNode (t.1 / 64 % 4))
      else (homeDie t.1, sliceNode (homeDie t.1) (s.place t.1).slice))).eraseDups
  | _ => [(homeDie a.addr, syncNode (homeDie a.addr))]
/-- Whether the request of an access has its slots, if it leaves its cluster in the cycle `leave`. -/
def State.crosses (s : State) (a : Access) : Bool :=
  !a.timed || (s.targets a).all (fun n =>
    s.wayOpen a.part (waySlots (dieOf a.sid) (clusterNode (cluOf a.sid)) n.1 n.2 0 a.leave))
/-- The same for the data that comes back. -/
def State.comesBack (s : State) (a : Access) : Bool :=
  !a.timed || (s.targets a).all (fun n =>
    s.wayOpen a.part (waySlots n.1 n.2 (dieOf a.sid) (clusterNode (cluOf a.sid)) 0 a.leave))

/-! ## Queue entries and credits (R226) -/

/-- Torus hops between two clusters of a die (R379, R380). -/
def hops (a b : Nat) : Nat :=
  let dx := Int.natAbs ((a % 6 : Nat) - (b % 6 : Nat) : Int)
  let dy := Int.natAbs ((a / 6 : Nat) - (b / 6 : Nat) : Int)
  min dx (8 - dx) + min dy (8 - dy)
/-- H of R226 between two cores of a die. -/
def hopLatency (a b : Nat) : Nat := if cluOf a = cluOf b then 4 else 4 + 2 * hops (cluOf a) (cluOf b)

/-- Whether an entry or a credit that arrives in the present cycle had its slots when it left the core `a`, H earlier (log entry
113). -/
def State.entryCrosses (s : State) (part a b : Nat) : Bool :=
  part == 63 || s.wayOpen part (dieSlots (dieOf a) (clusterNode (cluOf a)) (clusterNode (cluOf b)) (s.now - hopLatency a b))

/-! ## Onino links (R386 to R389, R393) -/

/-- Link `n` (R389): its reset PEER is n. -/
def State.link (s : State) (n : Nat) : Link := Fm.get { peer := n } s.links n
/-- The state with link `n` changed. -/
def State.updLink (s : State) (n : Nat) (f : Link → Link) : State := { s with links := Fm.set s.links n (f (s.link n)) }
/-- Whether a link serves its peer: it is an Onino link (R400) in service, itself or over its alternate path (R389, R393). -/
def Link.linked (l : Link) : Bool := l.en && !l.xp && (l.up || l.alt)
/-- The link to a peer module that is in service. -/
def State.linkTo (s : State) (m : Nat) : Option Nat :=
  (List.range 16).find? (fun n => (s.link n).peer == m && (s.link n).linked)
/-- Whether a peer module is linked. -/
def State.linked (s : State) (m : Nat) : Bool := (s.linkTo m).isSome
/-- The link over which what is for link `n` travels: the first link of the alternate path while ALT = 1 (R393). -/
def State.wayOf (s : State) (n : Nat) : Nat :=
  let l := s.link n
  if l.alt then ((List.range 16).find? (fun k => (s.link k).peer == l.via && (s.link k).up && !(s.link k).xp)).getD n else n

/-- Whether a grant is for a lane of a link: the sending side is H (R383). -/
def Grant.lane (g : Grant) (link lane : Nat) : Bool := g.kind == 3 && g.die == 8 && g.unit == 16 * link + lane
/-- Whether a grant's slots hold the lane slot of cycle `c` (R387). -/
def State.inSlot (s : State) (g : Grant) (c : Nat) : Bool :=
  decide (((c + Fm.get 0 s.beacon 8) / 32 % 32 + 32 - g.first % 32) % 32 ≤ g.cnt)
/-- Whether the alternate path of some failed link runs over link `w`. -/
def State.standsIn (s : State) (w : Nat) : Bool := (List.range 16).any (fun n => (s.link n).alt && s.wayOf n == w)
/-- Whether no partition holds a lane of a link in cycle `c`; a standby grant holds it from a failover on (R388, R393). -/
def State.laneOpen (s : State) (w lane c : Nat) : Bool :=
  !s.parts.any (fun e => e.2.cal.any (fun g => g.lane w lane && (!g.sb || s.standsIn w) && s.inSlot g c))
/-- The first cycle from now on in which an untimed packet finds a slot of link `w` that no partition holds (R388); slots of 32
cycles, 32 in a round. -/
def State.departure (s : State) (w : Nat) : Option Nat :=
  ((List.range 33).map (fun i => if i = 0 then s.now else (s.now + Fm.get 0 s.beacon 8) / 32 * 32 + 32 * i - Fm.get 0 s.beacon 8)).find?
    (fun c => (List.range 16).any (fun lane => s.laneOpen w lane c))
/-- An untimed packet goes out toward its module, in the first slot that it finds; it stays where there is no path or no slot. -/
def State.emit (s : State) (p : Packet) : State :=
  let dep := match s.linkTo p.dst with
    | some n => s.departure (s.wayOf n)
    | none => none
  { s with outbox := s.outbox ++ [{ p with dep := dep }] }

end Sys2Proof.Machine
end

