-- ==== Sys2Proof/Machine/Access.lean ====
section
/-! DEFINITION. Accesses on their way to their homes: home cycles (R244, R245, R247), what an access does at its home (R192
to R194, R261, R278 to R286), delivery and late arrival (R177, R179, R316), and the landing of results in registers
(R113). -/

namespace Sys2Proof.Machine

open Sys2Proof

/-! ## Results landing in registers -/

/-- Storage that is written holds no double-bit error any more (R334). -/
def Seq.mend (q : Seq) (p : Spot → Bool) : Seq := { q with upset := q.upset.filter (fun x => !p x) }
/-- Whether a bit mask covers 64 bits of a register wholly. -/
def covers (m w : Nat) : Bool := bits m (64 * w) 64 == 2 ^ 64 - 1
/-- The spots of tile `n` that a write under a mask mends. -/
def Spot.ofTile (n m : Nat) : Spot → Bool
  | .tile k w => k == n && covers m w
  | _ => false
/-- The spots of a mask tile that a write under a mask mends. -/
def Spot.ofMask (n m : Nat) : Spot → Bool
  | .mask k w => k == n && covers m w
  | _ => false

/-- Uncorrectable data delivered as zeros (R179, R324, R334): ERRS, and on request the event 0x14. -/
def State.uncorrectable (s : State) (sid col hnd off : Nat) : State :=
  let p := (s.seq sid).task.part
  let s := if p != 63 && bit ((s.part p).get 3 1) 1 then s.updSeq sid (fun q => q.post 0x14 col) else s
  s.record sid [.errs hnd off]

/-- A result that changes only registers of the sequencer or its core takes its place (R113, R149). -/
def landReg (s : State) (sid : Nat) (l : Land) : State :=
  match l with
  | .g n v => s.updSeq sid (fun q => (q.setG n v).mend (· == Spot.g n))
  | .p n b => s.updSeq sid (fun q => q.setP n b)
  | .tile n d m =>
    (s.setTile sid n (mergeBits (s.tile sid n) d m)).updSeq (if n < 16 then sid else partner sid)
      (fun q => q.mend (Spot.ofTile (n % 16) m.toNat))
  | .mask n d m => s.updSeq sid (fun q => (q.setM n (mergeBits (q.mr n) d m)).mend (Spot.ofMask n m.toNat))
  | .h n x =>
    -- a page that became revoke-pending since the XLT issued marks the handle as it lands (R293)
    let x := if x.v then { x with rp := x.rp || s.revoking (s.seq sid).task.part x.vbase } else x
    s.updSeq sid (fun q => q.setH n x)
  | .k n x => s.updSeq sid (fun q => q.setK n x)
  | .shape x => s.updSeq sid (fun q => { q with shape := x })
  | .ring n x => s.updSeq sid (fun q =>
      let r := q.ring n
      { q with rings := Fm.set q.rings n { ent := Fm.set r.ent r.nxt x, nxt := (r.nxt + 1) % 16, cnt := min (r.cnt + 1) 16 } }.mend
        (· == Spot.amax n r.nxt))
  | .fstat f => s.updSeq sid (fun q => { q with fstat := q.fstat ||| f })
  | .wrn b => s.updSeq sid (fun q => { q with wrn := q.wrn ||| b })
  | .warns b => s.record sid [.wrn b]
  | .acc r d m => s.updCore (coreKey sid) (fun c =>
      { c with acc := Fm.set c.acc r (mergeBits (Fm.get 0 c.acc r) d m)
               badRows := c.badRows.filter (fun x => !(x.1 == r && covers m.toNat x.2)) })
  | .smode b => s.updSeq sid (fun q => { q with trapMode := b })
  | .event code col => s.updSeq sid (fun q => q.post code col)
  | .errs hnd off => s.updSeq sid (fun q =>
      if q.errs.getLsbD 0 then { q with errs := q.errs ||| 2 }
      else { q with errs := (q.errs &&& 2) ||| BitVec.ofNat 64 (1 + 4 * (hnd % 16) + 256 * (off % 2 ^ 28)) })
  | .bad col hnd off => s.uncorrectable sid col hnd off
  | .seamEnd => s.updSeq sid (fun q => { q with seam := false, floor := max q.floor (s.now - q.slip + 1) })
  | .clamp p => s.updPart p (fun p => { p with clamp := p.clamp + 1 })
  | .retire id => s.updSeq sid (fun q => { q with outst := q.outst.filter (fun o => o.id != id) })
  | _ => s

/-- Several results in order. -/
def landRegs (s : State) (sid : Nat) (l : List Land) : State := l.foldl (fun s x => landReg s sid x) s

/-- Results of a word of `sid` issued at `issue` in column `col` that land in cycle `c`. -/
def State.landAt (s : State) (sid col issue c : Nat) (l : List Land) : State :=
  s.push { cyc := c, cls := 1, key := landKey issue sid col, ins := .resultLanding, arg := .land sid l }

/-- Uncorrectable data that an access at its home, a nest or an engine meets: the zeros are delivered in the next cycle, before its
joins and words (R324, R325, log entry 112). -/
def State.uncorrectableNext (s : State) (sid col hnd off : Nat) : State :=
  s.landAt sid col s.now (s.now + 1) [.bad col hnd off]

/-- Uncorrectable storage that the save of a frame reads: recorded at once, before ERRS and the pending set are written (R334). -/
def State.uncorrectableNow (s : State) (sid hnd off : Nat) : State :=
  let p := (s.seq sid).task.part
  let s := if p != 63 && bit ((s.part p).get 3 1) 1 then s.updSeq sid (fun q => q.post 0x14 0) else s
  landReg s sid (.errs hnd off)

/-- An uncorrectable block among bytes that a nest, a load of weights or an engine reads from a scratchpad for a sequencer is
recorded like one of a load: handle 0, the address (R179, R334). -/
def State.noteSpad (s : State) (sid col cluster a n : Nat) : State :=
  match s.spadFirstBad cluster a n with
  | none => s
  | some o => s.uncorrectableNext sid col 0 (a % Config.spadBytes + o)
/-- The same of bytes whose addresses run modulo 4 MiB. -/
def State.noteSpadRow (s : State) (sid col cluster a n : Nat) : State :=
  let a := a % Config.spadBytes
  let first := min n (Config.spadBytes - a)
  (s.noteSpad sid col cluster a first).noteSpad sid col cluster 0 (n - first)

/-! ## Outstanding accesses -/

/-- An access joins those that have not completed; completed ones are dropped. -/
def State.outstanding (s : State) (sid : Nat) (o : Outstanding) : State :=
  s.updSeq sid (fun q => { q with
    outst := q.outst.filter (fun x => match x.at_ with | some c => decide (s.now ≤ c) | none => true) ++ [o] })

/-- The cycle at which an outstanding access is visible becomes known. -/
def State.visibleAt (s : State) (sid id : Nat) (c : Option Nat) : State :=
  if 8192 ≤ sid then s
  else s.updSeq sid (fun q => { q with outst := q.outst.map (fun o => if o.id = id then { o with at_ := c } else o) })

/-- An outstanding access whose completion was not known is complete now. -/
def State.seenNow (s : State) (sid id : Nat) : State :=
  if 8192 ≤ sid then s
  else s.updSeq sid (fun q => { q with
    outst := q.outst.map (fun o => if o.id = id ∧ o.at_.isNone then { o with at_ := some s.now } else o) })

/-- Whether an outstanding access is complete by now. -/
def Outstanding.done (o : Outstanding) (now : Nat) : Bool := match o.at_ with | some c => decide (c ≤ now) | none => false

/-- Whether two accesses meet in a 64-byte block of one space. -/
def Access.meets (a b : Access) : Bool :=
  a.space == b.space && decide (a.addr / 64 ≤ (b.addr + b.len - 1) / 64) && decide (b.addr / 64 ≤ (a.addr + a.len - 1) / 64)

/-- The last home cycle of the blocks of an access on the agenda for cycle `c` that meet `a` (R246). -/
def Access.lastOn (b a : Access) (c : Nat) : Nat :=
  match b.todo with
  | none => c
  | some l => l.foldl (fun m x =>
      if a.meets { b with addr := (b.addr / 64 + x.2) * 64, len := 64 } then max m x.1 else m) 0

/-- The latest home cycle on the agenda among the sequencer's accesses that meet `a` (R247). -/
def State.orderAfter (s : State) (a : Access) (c : Nat) : Nat :=
  s.agenda.foldl (fun m e =>
    match e.arg with
    | .access b => if b.sid = a.sid ∧ e.ins = .accessHomeCycle ∧ a.meets b then max m (b.lastOn a e.cyc) else m
    | _ => m) c

/-- The key of an access in its home cycle (R178, R245): sequencer, then issue cycle, then engine. -/
def homeKey (sid issue col : Nat) : Nat := (2 * sid * 2 ^ 64 + issue % 2 ^ 64) * 8 + col
/-- The key of an engine entry's access: after its sequencer's own, by issue cycle. -/
def engineKey (sid issue : Nat) : Nat := ((2 * sid + 1) * 2 ^ 64 + issue % 2 ^ 64) * 8
/-- The key of a host access: after all others. -/
def hostKey : Nat := 2 ^ 90
/-- The key of a remote operation: ascending source module, then path sequence (R396). -/
def agentKey (src pseq : Nat) : Nat := 2 ^ 84 + src * 2 ^ 64 + pseq % 2 ^ 64

/-- An access put on its way to its home in cycle `c`. -/
def State.toHome (s : State) (c key : Nat) (a : Access) : State :=
  s.push { cyc := c, cls := 4, key := key, ins := .accessHomeCycle, arg := .access a }

/-- A home cycle that nothing promises: a free number of cycles after the issue, in the order of R247. -/
def State.freeHome (s : State) (a : Access) : Nat × State := (s.orderAfter a (s.now + 1 + s.drawVal), s.drew)

/-- In a debug freeze what is under way completes within 420 cycles of its start (R265, R333). -/
def State.settleBy (s : State) (part c : Nat) : Nat :=
  if part ≠ 63 ∧ (s.part part).stood.isSome then min c (max s.now (s.part part).settle) else c

/-- A request of tier 1 or 2 counts as unanswered after the bound of R301. -/
def State.answerBy (s : State) (a : Access) : State :=
  if a.space = .phys ∧ (a.tier = 1 ∨ a.tier = 2) then
    s.push { cyc := s.now + Config.timeout, cls := 1, key := a.sid, ins := .requestTimeout, arg := .access a }
  else s

/-- An access nothing of which is promised: each of its 64-byte blocks has a free home cycle of its own, no earlier than `lo`
(R246, R247); those of a tagged load come in ascending order, since each says whether the next is needed (R68). Answers the
access and its first home cycle. -/
def State.freeBlocks (s : State) (a : Access) (lo : Nat) : Access × Nat × State :=
  let n := max 1 (blockNum a.addr a.len)
  let (l, s) := (List.range n).foldl (fun (l, s) i =>
    let b := { a with addr := (a.addr / 64 + i) * 64, len := 64 }
    (l ++ [(s.orderAfter b (s.settleBy a.part (lo + s.drawVal)), i)], s.drew)) (([], s) : List (Nat × Nat) × State)
  let l := match a.dest with
    | .tagged _ _ _ => (l.foldl (fun (t : Nat × List (Nat × Nat)) x => (max t.1 x.1, t.2 ++ [(max t.1 x.1, x.2)])) (0, [])).2
    | _ => l
  let first := l.foldl (fun m x => min m x.1) (l.foldl (fun m x => max m x.1) 0)
  ({ a with todo := some l }, first, s)

/-- A load, or another access whose result is promised at +`lat`, is under way (R177). `home` is none where its cycle is not
promised. -/
def State.startLoad (s : State) (a : Access) (lat : Nat) (home : Option Nat) : State :=
  let (id, s) := s.fresh
  let a := { a with id := id, sid := s.cur.sid, issue := s.now, promise := some (s.now + lat), part := s.myPart,
                    gen := s.gen s.myPart, col := s.cur.col, pc := s.cur.pc, leave := s.now }
  let s := s.outstanding a.sid { id := id, at_ := none, kind := 1, issue := s.now }
  let (a, c, s) := match home with
    | some h => (a, s.now + h, s)
    | none => s.freeBlocks a (s.now + 1)
  ((s.toHome c (homeKey a.sid a.issue a.col) a).answerBy a).push
    { cyc := s.now + lat, cls := 2, key := a.sid, ins := .arrivalViolation, arg := .access a }

/-- A write issued on a die to a line homed elsewhere drops that die's own RDC copy (R286). -/
def State.dropOwn (s : State) (sid addr len : Nat) : State :=
  if homeDie addr ≠ dieOf sid then s.dropRdcRange (· == dieOf sid) addr len else s

/-- A store on its way (R184, R286): the issuing die's own RDC copies of a remote line are dropped at issue. -/
def State.startStore (s : State) (a : Access) (home : Option Nat) (kind : Nat) : State :=
  let (id, s) := s.fresh
  let a := { a with id := id, sid := s.cur.sid, issue := s.now, part := s.myPart, gen := s.gen s.myPart, col := s.cur.col,
                    pc := s.cur.pc, leave := s.now }
  let s := if a.space = .phys then s.dropOwn a.sid a.addr a.len else s
  let (a, c, s) := match home with
    | some h => (a, s.now + h, s)
    | none => s.freeBlocks a (s.now + 1)
  let s := s.outstanding a.sid { id := id, page := if a.pageSize = 0 then none else some (a.page, a.pageSize),
                                 at_ := home.map (s.now + ·), kind := kind, issue := s.now, addr := a.addr, len := a.len }
  (s.toHome c (homeKey a.sid a.issue a.col) a).answerBy a

/-! ## Sync engines (R190 to R194, R261) -/

/-- The new value of an atomic on `w`-bit values: 0 add, 1 and, 2 or, 3 xor, 4 minimum, 5 maximum, 6 swap, 7 compare and
swap with comparand `b`, 8 signed minimum, 9 signed maximum (R190). -/
def atomicNew (code w old a b : Nat) : Nat :=
  match code with
  | 0 => (old + a) % 2 ^ w
  | 1 => old &&& a
  | 2 => old ||| a
  | 3 => old ^^^ a
  | 4 => min old a
  | 5 => max old a
  | 6 => a
  | 7 => if old = b then a else old
  | 8 => if sgn old w ≤ sgn a w then old else a
  | _ => if sgn old w ≤ sgn a w then a else old

/-- The sync object at a location: as the engine holds it, else from the bytes in memory (R192). -/
def State.syncAt (s : State) (pa key : Nat) : SyncObj :=
  match s.syncs.find? (fun e => e.1 == pa / 16) with
  | some (_, o) => if o.pages.isEmpty then
      let x := (s.peek (pa / 16 * 16) 16 key).1
      { o with seq := bits x 0 32, hold := bits x 32 16 }
    else o
  | none =>
    let x := (s.peek (pa / 16 * 16) 16 key).1
    { seq := bits x 0 32, hold := bits x 32 16 }

/-- The fill of the sync engine for an object that it does not hold: a lookup like another read's (R192, R278, R280). -/
def State.syncFill (s : State) (pa key : Nat) : State :=
  match s.syncs.find? (fun e => e.1 == pa / 16 && !e.2.pages.isEmpty) with
  | some _ => s
  | none => (s.readBlock (pa / 64 * 64) key .fill 3 (s.now + 10)).2

/-- An object that its engine reads from memory and finds uncorrectable reads as zeros, and is recorded for the issuer (R179, R334);
the host and the hub have no ERRS. -/
def State.noteSync (s : State) (sid col hnd off pa key : Nat) : State :=
  if decide (sid < 8192) && !s.syncs.any (fun e => e.1 == pa / 16 && !e.2.pages.isEmpty) && (s.peek (pa / 16 * 16) 16 key).2 then
    s.uncorrectableNext sid col hnd off
  else s

/-- 16 bytes written by the sync engine itself. -/
def State.engineWrite (s : State) (pa n key x : Nat) : State :=
  (blocksOf pa n).foldl (fun s t =>
    s.writeBlock t.1 key (bits x (8 * (t.2.1 - pa)) (8 * t.2.2) * 2 ^ (8 * (t.2.1 - t.1)))
      ((2 ^ t.2.2 - 1) * 2 ^ (t.2.1 - t.1)) 0x7F00 0 .fill) s

/-- A sync object after a change. One with bound pages is held by the engine. One without is in memory: it is written back,
and kept only for its holders and waiters (log entry 31). -/
def State.setSync (s : State) (pa key : Nat) (o : SyncObj) : State :=
  if !o.pages.isEmpty then { s with syncs := Fm.set s.syncs (pa / 16) o }
  else
    let s := { s with syncs := Fm.del s.syncs (pa / 16) }
    let s := s.engineWrite (pa / 16 * 16) 16 key (SyncObj.bits { o with pages := [] })
    if o.holders.isEmpty && o.waiters.isEmpty then s else { s with syncs := Fm.set s.syncs (pa / 16) o }

/-- Whether all halves of a die belong to a partition. -/
def State.holdsDie (s : State) (part die : Nat) : Bool := (s.part part).get (0x10 + 36 * die) 36 == 2 ^ 288 - 1
/-- Whether a partition holds every half, scratchpad and slice of the module. -/
def State.holdsModule (s : State) (part : Nat) : Bool :=
  (s.part part).get 0x10 144 == 2 ^ 1152 - 1 &&
  (List.range 4).all (fun d => (s.part part).get (0xF0 + 8 * d) 8 == 2 ^ 36 - 1) &&
  (List.range 8).all (fun d => (s.part part).get (0x110 + 4 * d) 4 == (if d < 4 then 2 ^ 16 - 1 else 2 ^ 32 - 1))
/-- Whether another partition holds a half among the bits `m` of a die's HALVES. -/
def State.foreignHalf (s : State) (part die m : Nat) : Bool :=
  s.parts.any (fun e => e.1 != part && e.2.get 2 1 != 0 && (e.2.get (0x10 + 36 * die) 36 &&& m) != 0)

/-- Whether a scope code is clamped for a partition, relative to a sequencer (R255). Management sequencers belong to no
partition. -/
def State.clamped (s : State) (part anchor code : Nat) : Bool :=
  let d := dieOf anchor
  if part = 63 then false
  else match code with
    | 1 => s.foreignHalf part d (3 * 2 ^ (8 * cluOf anchor + 2 * coreOf anchor))
    | 2 => s.foreignHalf part d (255 * 2 ^ (8 * cluOf anchor))
    | 4 => !s.holdsDie part d
    | 5 => !s.holdsModule part
    | 6 => true
    | _ => false

/-- A clamp: WRN.CLAMP, and CLAMPCNT of the partition (R255, R347). -/
def State.clamp (s : State) (sid part : Nat) : State := s.record sid [.wrn 0x20, .clamp part]

/-- Whether a sequencer of a partition lies in a scope set taken relative to an anchor (R194, R254). -/
def inScope (code anchor sid : Nat) (samePart : Bool) : Bool :=
  match code with
  | 0 => sid == anchor
  | 1 => coreKey sid == coreKey anchor
  | 2 => dieOf sid == dieOf anchor && cluOf sid == cluOf anchor
  | 3 => samePart && dieOf sid == dieOf anchor
  | 4 => dieOf sid == dieOf anchor
  | 7 => samePart
  | _ => true

/-- RDC lines of an object's bound pages dropped on a die (R194, R287). -/
def State.dropPages (s : State) (die : Nat) (l : List (Nat × Nat)) : State :=
  l.foldl (fun s p => s.dropRdcRange (· == die) p.1 p.2) s

/-- Whether a request can be granted (R194). -/
def SyncObj.grantable (o : SyncObj) (shared : Bool) : Bool := if shared then decide (o.hold < 0xFFFE) else o.hold == 0

/-- The object after a grant to `sid`. -/
def SyncObj.granted (o : SyncObj) (shared : Bool) (sid : Nat) : SyncObj :=
  { o with hold := if shared then o.hold + 1 else 0xFFFF, holders := o.holders ++ [sid] }

/-- The requests that wait at an object, in arrival order: each is granted as long as those before it were; a try that finds
no grant is refused (R194). Answers the object and, for each answered request, the value it returns. -/
def grantAll : List Access → SyncObj → Bool → SyncObj × List Access × List (Access × Option Nat)
  | [], o, _ => (o, [], [])
  | a :: r, o, blocked =>
    let (shared, try_) := match a.op with
      | .acq x y => (x, y)
      | _ => (false, false)
    if !blocked && o.grantable shared then
      let (o', w, l) := grantAll r (o.granted shared a.sid) false
      (o', w, (a, some o.seq) :: l)
    else if try_ then
      let (o', w, l) := grantAll r o blocked
      (o', w, (a, none) :: l)
    else
      let (o', w, l) := grantAll r o true
      (o', a :: w, l)

/-- The sync engine grants what can be granted at an object (R194, R252, R253). A granted ACQ without try completes in a
cycle that is not promised. -/
def State.grantAt (s : State) (pa key : Nat) : State :=
  let o := s.syncAt pa key
  let (o', w, l) := grantAll o.waiters o false
  let s := if l.isEmpty then s else s.setSync pa key { o' with waiters := w }
  l.foldl (fun s e =>
    let a := e.1
    let n := match a.dest with | .g n => n | _ => 0
    let s := if e.2.isSome then s.dropPages (dieOf a.sid) o'.pages else s
    match a.promise with
    | some c =>
      s.landAt a.sid a.col a.issue (max c (s.now + 1))
        [.g n (match e.2 with | some v => BitVec.ofNat 64 v | none => BitVec.allOnes 64), .retire a.id]
    | none =>
      let c := s.now + 1 + s.drawVal
      (s.drew.landAt a.sid a.col a.issue c
        [.g n (BitVec.ofNat 64 (e.2.getD 0)), .retire a.id, .seamEnd])) s

/-! ## What an access does at its home -/

/-- What a load brings back: bytes, block tags, the granule tag, the offset of the first uncorrectable block, and whether
every block hit. -/
structure Loaded where
  data : Nat := 0
  tags : List Nat := []
  ctag : Bool := false
  bad : Option Nat := none
  hit : Bool := true
  deriving DecidableEq, Repr

/-- One block of a load read at its home (R245, R278, R280, R286). -/
def State.loadBlock (s : State) (a : Access) (b : Nat) : ReadResult × State :=
  if a.rdc then s.rdcRead (dieOf a.sid) b a.key a.part a.gen a.alloc a.cls (s.now + 10)
  else s.readBlock b a.key a.alloc a.cls (s.now + 10)

/-- The blocks of a load in ascending order. -/
def State.loadBlocks (s : State) (a : Access) : Loaded × State :=
  (blocksOf a.addr a.len).foldl (fun (l, s) t =>
    let (r, s) := s.loadBlock a t.1
    ({ data := l.data + bits r.blk.data.toNat (8 * (t.2.1 - t.1)) (8 * t.2.2) * 2 ^ (8 * (t.2.1 - a.addr))
       tags := l.tags ++ [if r.blk.bad then 0x7F00 else r.blk.tag]
       ctag := !r.blk.bad && r.blk.ctag.getLsbD (t.2.1 / 16 % 4)
       bad := match l.bad with
         | some o => some o
         | none => if r.blk.bad then some (t.2.1 - a.addr) else none
       hit := l.hit && r.hit }, s)) ({}, s)

/-- Elements that one block gives a tagged load, by its tag and the width of the destination elements (R65, R68). -/
def blockCount (tag w : Nat) : Nat :=
  match blockType (tag % 256) with
  | some t => 512 / typeBits t
  | none => 512 / w

/-- Block `i` of a store's bytes reaches its home, with its given tag or 0x7F00 (R67, R184). -/
def State.storeBlock (s : State) (a : Access) (i : Nat) : State :=
  let t := blockAt a.addr a.len i
  let tag := match a.tags with
    | some l => l.getD i 0x7F00
    | none => 0x7F00
  let x := bits a.data (8 * (t.2.1 - a.addr)) (8 * t.2.2)
  match a.space with
  | .spad c => s.spadWrite c t.2.1 t.2.2 x tag
  | _ =>
    s.writeBlock t.1 a.key (x * 2 ^ (8 * (t.2.1 - t.1))) ((2 ^ t.2.2 - 1) * 2 ^ (t.2.1 - t.1)) tag
      (BitVec.ofNat 4 (bits a.ctags ((t.2.1 - a.addr) / 16) (cdiv t.2.2 16) * 2 ^ (t.2.1 / 16 % 4))) a.alloc
/-- All blocks of a store. -/
def State.storeBlocks (s : State) (a : Access) : State :=
  (List.range (blockNum a.addr a.len)).foldl (fun s i => s.storeBlock a i) s

/-! ### The blocks of one access (R246, R279, R281) -/

/-- What the blocks that an access has read give together. -/
def Access.loaded (a : Access) : Loaded :=
  a.got.foldl (fun l e =>
    let t := blockAt a.addr a.len e.1
    let b := e.2.1
    { data := l.data + (if b.bad then 0 else bits b.data.toNat (8 * (t.2.1 - t.1)) (8 * t.2.2)) * 2 ^ (8 * (t.2.1 - a.addr))
      tags := l.tags ++ [if b.bad then 0x7F00 else b.tag]
      ctag := !b.bad && b.ctag.getLsbD (t.2.1 / 16 % 4)
      bad := match l.bad with
        | some o => some o
        | none => if b.bad then some (t.2.1 - a.addr) else none
      hit := l.hit && e.2.2 }) {}

/-- Whether a tagged load has all its elements (R68, R185). -/
def Access.filled (a : Access) : Bool :=
  match a.dest with
  | .tagged _ sh _ =>
    let sh := BitVec.ofNat 18 sh
    decide (shapeCount sh ≤ a.got.foldl (fun n e =>
      n + blockCount (if e.2.1.bad then 0x7F00 else e.2.1.tag) (typeBits (shapeType sh))) 0)
  | _ => false
/-- Whether the blocks of an access take their homes in ascending order only. -/
def Access.ordered (a : Access) : Bool := match a.dest with
  | .tagged _ _ _ => true
  | _ => false

/-- A block of an access at its home; none where its slice accepts no more requests in this cycle. -/
def State.turn (s : State) (a : Access) (i : Nat) : Option (Access × State) :=
  let t := blockAt a.addr a.len i
  match a.space with
  | .spad c =>
    if a.op = .write then some (a, s.storeBlock a i)
    else
      let b : Block := { data := BitVec.ofNat 512 (s.spadRead c t.2.1 t.2.2 * 2 ^ (8 * (t.2.1 - t.1))), tag := s.spadTag c t.1,
                         bad := (s.spadFirstBad c t.2.1 t.2.2).isSome }
      some ({ a with got := Fm.set a.got i (b, true) }, s)
  | _ =>
    let s := if a.rdc && (s.rdcLine (dieOf a.sid) t.1 a.part a.gen).isSome then some s else s.acceptBy a.by_ t.1
    s.map (fun s =>
      if a.op = .write then (a, s.storeBlock a i)
      else
        let (r, s) := s.loadBlock a t.1
        ({ a with got := Fm.set a.got i (r.blk, r.hit) }, s))

/-- The blocks whose home cycle has come take their places; one that its slice does not accept has the next cycle, and those
behind it where the order counts. -/
def State.takeBlocks (s : State) (a : Access) : Access × State :=
  let l := a.todo.getD ((List.range (blockNum a.addr a.len)).map (fun i => (s.now, i)))
  let (a, rest, s) := l.foldl (fun (x : Access × List (Nat × Nat) × State) e =>
    let (a, rest, s) := x
    if a.filled then x
    else if s.now < e.1 ∨ (a.ordered ∧ rest ≠ []) then (a, rest ++ [(max e.1 (s.now + if a.ordered ∧ rest ≠ [] then 1 else 0), e.2)], s)
    else match s.turn a e.2 with
      | some (a, s) => (a, rest, s)
      | none => (a, rest ++ [(s.now + 1, e.2)], s)) (a, [], s)
  ({ a with todo := some (if a.filled then [] else rest) }, s)

/-- The next cycle in which blocks of an access come to their homes; none when all have. -/
def Access.nextTurn (a : Access) : Option Nat :=
  match a.todo with
  | some (x :: r) => some (r.foldl (fun m y => min m y.1) x.1)
  | _ => none

/-- The cycle in which a load's data can first be at its destination, 10 cycles after the last home cycle. Where the class does
not cover the home nothing is promised: an L2-hit-class miss and a timed class on tiers 1 to 3 are late by a free number of
cycles, a load that its class does not reach on another die may be (R177, R323). What the map does not hold answers in time
(R267). -/
def State.arrivalOf (s : State) (a : Access) (hit : Bool) : Nat × State :=
  let c := s.now + 10
  let by_ (k : Nat) : Nat := s.settleBy a.part k
  let late := (by_ (max c (a.promise.getD 0 + 1) + s.drawVal), s.drew)
  if a.space ≠ .phys then (s.now, s)
  else if regionOf a.addr = .nothing then (c, s)
  else if a.tier ≠ 0 then (if a.cls < 3 then late else (by_ (c + s.drawVal), s.drew))
  else if 3 ≤ a.cls then (c, s)
  else if a.cls < 2 ∧ homeDie a.addr ≠ dieOf a.sid then (by_ (c + s.drawVal), s.drew)
  else if a.cls = 0 ∧ !hit then late
  else (c, s)

/-- The data of a load on its way to the destination, in the promised cycle at the earliest (R177). What the host reads
leaves through the host port. -/
def State.deliver (s : State) (a : Access) (l : Loaded) : State :=
  if 8192 ≤ a.sid then
    { s with outbox := s.outbox ++ [{ op := 6, sid := a.sid, part := a.part, len := a.len, data := l.data, id := a.id }] }
  else match a.chunk with
  | some (id, n) =>
    s.push { cyc := s.now, cls := 4, key := engineKey a.sid a.issue, ins := .cpydDone,
             arg := .chunkReply id n l.data l.tags l.bad false }
  | none =>
  let (r, s) := s.arrivalOf a l.hit
  let a := { a with leave := s.now }
  let c := match a.promise with
    | some p => max p r
    | none => max r (s.now + 1)
  s.push { cyc := c, cls := 1, key := landKey a.issue a.sid a.col, ins := .loadDataDelivery,
           arg := .deliver { a with off := a.off + l.bad.getD 0 } l.data l.tags l.ctag l.bad.isSome }

/-- A request of another module's memory leaves through the hub (R289, R388); it counts as unanswered after the bound of
R301. -/
def State.toPeer (s : State) (a : Access) (m op : Nat) : State :=
  let p : Packet := { op := op, src := s.hub.modn, dst := m, sid := a.sid, part := a.part, gen := a.gen, len := a.len,
                      off := (a.addr - 2 ^ 51) % 2 ^ 47, ops := a.tags.getD [], data := a.data, id := a.id,
                      ctags := a.ctags }
  let s : State := { s.emit p with awaiting := s.awaiting ++ [{ pkt := p, acc := a }] }
  s.push
    { cyc := s.now + Config.timeout, cls := 1, key := a.sid, ins := .requestTimeout, arg := .access a }

/-- One line that a PFL fills (R188, R278, R280): a resident one is unchanged; the fill is dropped when all miss registers are
held. Its lookup counts (R277). -/
def State.prefetchLine (s : State) (pa key : Nat) : State :=
  let p := s.place pa
  if !p.cached then s
  else match s.lineOf p pa with
  | some l => s.countHit p l false
  | none =>
    let s := s.count p.die p.blk 1
    let held := (Fm.get [] s.miss (sliceKey p)).filter (fun c => s.now < c)
    if 64 ≤ held.length then s
    else
      let s := { s with miss := Fm.set s.miss (sliceKey p) ((s.now + 10) :: held) }
      s.fill p pa key (s.memBlock p pa key) false

/-- Whether a partition holds as many objects at a die's sync engine as its quota there (R336, R337). -/
def State.syncQuotaFull (s : State) (part pa : Nat) : Bool :=
  let die := homeDie pa
  part != 63 && decide ((s.part part).get (0x130 + 4 * die) 4 ≤
    s.syncs.countP (fun e => !e.2.pages.isEmpty && e.2.part == part && homeDie (16 * e.1) == die))

/-- BIND at its home cycle (R193). The first BIND of an object beyond the partition's quota leaves it unheld and raises nothing, as
one that would be the ninth page does (log entry 60). -/
def State.bindAt (s : State) (a : Access) (page size scope : Nat) : State :=
  let s := (s.syncFill a.addr a.key).noteSync a.sid a.col a.hnd a.off a.addr a.key
  let o := s.syncAt a.addr a.key
  let first := o.pages.isEmpty
  let anchor := if first then a.sid else o.anchor
  let cl := s.clamped a.part anchor scope
  if o.pages.contains (page, size) then s
  else if 8 ≤ o.pages.length || (first && s.syncQuotaFull a.part a.addr) then s
  else s.setSync a.addr a.key { o with
    pages := o.pages ++ [(page, size)]
    anchor := anchor
    part := if first then a.part else o.part
    scope := if first then (if cl then 7 else scope) else o.scope }

/-- UNBIND at its home cycle (R192, R193): without its last page the object is written back to memory. -/
def State.unbindAt (s : State) (a : Access) (page size : Nat) : State :=
  let s := (s.syncFill a.addr a.key).noteSync a.sid a.col a.hnd a.off a.addr a.key
  let o := s.syncAt a.addr a.key
  if o.pages.contains (page, size) then
    s.setSync a.addr a.key { o with pages := o.pages.filter (· != (page, size)) }
  else s

/-- The cycle in which the answer to an access to a sync engine is back, if its home cycle is `now`: the promised one, or 24 + d
later (R176, R244). -/
def Access.answer (a : Access) (now : Nat) : Nat := max (a.promise.getD 0) (now + 24 + dieLatency (dieOf a.sid) (homeDie a.addr))

/-- An atomic at its home (R190, R261); where the map holds nothing it returns 0 (R267). -/
def State.atomicAt (s : State) (a : Access) (code w x y : Nat) : State :=
  let (l, s) := s.loadBlocks { a with len := w, alloc := .fill, rdc := false, cls := 3 }
  -- an uncorrectable block reads as zeros and is recorded (R179, R267, R334)
  let old := if l.bad.isSome then 0 else l.data
  let s := s.engineWrite a.addr w a.key (atomicNew code (8 * w) old x y)
  match a.dest with
  | .g n =>
    s.landAt a.sid a.col a.issue (a.answer s.now)
      ([.g n (BitVec.ofNat 64 old), .retire a.id] ++ if l.bad.isSome then [.bad a.col a.hnd a.off] else [])
  | _ => if l.bad.isSome then s.uncorrectableNext a.sid a.col a.hnd a.off else s

/-- A floating-point add of VATOM at its home (R191): RNE, flags in FSTAT. -/
def State.faddAt (s : State) (a : Access) (x : Nat) : State :=
  let (l, s) := s.loadBlocks { a with len := 4, alloc := .fill, rdc := false, cls := 3 }
  let s := if l.bad.isSome then s.uncorrectableNext a.sid a.col a.hnd a.off else s
  let v := addVal 0 (decodeVal 1 (if l.bad.isSome then 0 else l.data)) (decodeVal 1 x)
  let r := toBinary 1 0 false v.1
  let f := v.2 ||| r.2
  let s := s.engineWrite a.addr 4 a.key r.1
  if f = 0 then s else s.record a.sid [.fstat (BitVec.ofNat 5 f)]

/-- Whether a request must wait for a domain that is out of service or busy (R276, R431), and the block whose replay buffer
holds it. -/
def State.heldBy (s : State) (a : Access) : Option (Nat × Nat) := if a.space = .phys then s.heldAt a.addr else none

/-- The key of what is left of an access: a replayed request stays ahead of new ones (R431), a host access behind all others
(R245). -/
def Access.restKey (a : Access) : Nat :=
  if a.again then 0 else if a.alloc = .hostPort then hostKey
  else if a.chunk.isSome then engineKey a.sid a.issue else homeKey a.sid a.issue a.col
/-- The rest of an access has a later home cycle. -/
def State.rest (s : State) (a : Access) (c : Nat) : State := s.toHome c a.restKey a

/-- Whether an event is another element of the same word: its element and its home die. -/
def Ev.element (e : Ev) (a : Access) : Option (Nat × Nat) :=
  match e.arg with
  | .access b => if e.ins = .accessHomeCycle ∧ b.sid = a.sid ∧ b.id = a.id then some (b.elem, homeDie b.addr) else none
  | _ => none
/-- Whether an earlier element of the same word waits for the same home (R191, R244). -/
def State.elementBefore (s : State) (a : Access) : Bool :=
  s.agenda.any (fun e => match e.element a with
    | some (n, d) => decide (n < a.elem) && d == homeDie a.addr && decide (e.cyc ≤ s.now + 1)
    | none => false)
/-- An event ahead of the first in a list that meets `p`. -/
def putBefore (x : Ev) (p : Ev → Bool) : List Ev → List Ev
  | [] => [x]
  | e :: r => if p e then x :: e :: r else e :: putBefore x p r
/-- An access to a sync engine that its slice does not accept comes again in the next cycle, ahead of the later elements of its
word (R191, R279). -/
def State.nextTime (s : State) (a : Access) : State :=
  let e : Ev := { cyc := s.now + 1, cls := 4, key := a.restKey, ins := .accessHomeCycle, arg := .access a }
  let later (x : Ev) : Bool := match x.element a with
    | some (n, _) => decide (a.elem < n)
    | none => false
  let t : State := { s with agenda := putBefore e later s.agenda }
  if a.by_.isSome then t else t.visibleAt a.sid a.id none
/-- An access to a sync engine has had its home cycle: where its completion was not known it is known with the last element of its
word. -/
def State.took (s : State) (a : Access) : State :=
  if s.agenda.any (fun e => (e.element a).isSome) || s.replays.any (fun h => match h.arg with
    | .access b => b.sid == a.sid && b.id == a.id
    | _ => false) then s
  else s.seenNow a.sid a.id
/-- An access to a sync engine is accepted by its slice (R279), in home order with the other elements of its word. -/
def State.engineTurn (s : State) (a : Access) : Option State :=
  match s.acceptBy a.by_ a.addr with
  | some t => if s.elementBefore a && !a.by_.any (fun c => decide (c ≤ s.now)) then none else some t
  | none => none

/-- A load at its home: it is delivered when its last block has been read. -/
def State.readAt (s : State) (a : Access) : State :=
  match a.space, regionOf a.addr with
  | .host, _ => s.deliver a { data := Memory.read s.hostMem a.addr a.len, tags := List.replicate (cdiv a.len 64) 0x7F00 }
  | .phys, .peer m => s.toPeer a m 12
  | _, _ =>
    let (a, s) := s.takeBlocks a
    match a.nextTurn with
    | some c => s.rest a c
    | none => s.deliver a a.loaded

/-- A store is complete at its home. An untimed-class store is acknowledged in a cycle that is not promised; a chunk of a
detached copy goes back to its engine. -/
def State.wrote (s : State) (a : Access) : State :=
  match a.chunk with
  | some (id, n) =>
    s.push { cyc := s.now, cls := 4, key := engineKey a.sid a.issue, ins := .cpydDone, arg := .chunkReply id n 0 [] none true }
  | none =>
    if a.cls = 3 ∧ a.space = .phys then s.drew.visibleAt a.sid a.id (some (s.settleBy a.part (s.now + s.drawVal)))
    else s.visibleAt a.sid a.id (some s.now)

/-- A store at its home. -/
def State.writeAt (s : State) (a : Access) : State :=
  match a.space, regionOf a.addr with
  | .host, _ => { s with hostMem := Memory.write s.hostMem a.addr a.len a.data }.wrote a
  | .phys, .peer m => s.toPeer a m 13
  | _, _ =>
    let (a, s) := s.takeBlocks a
    match a.nextTurn with
    | some c => (s.visibleAt a.sid a.id none).rest a c
    | none => s.wrote a

/-- Whether an access is cut off from its home: the home die is fenced, and the access was issued after the fence or is not
answered 64 cycles after it (R398). -/
def State.cutOff (s : State) (a : Access) : Bool :=
  match a.space with
  | .phys =>
    (match s.fenced.find? (fun e => e.1 == homeDie a.addr) with
     | some e => dieOf a.sid != e.1 && (decide (e.2 ≤ a.issue) || decide (e.2 + 64 ≤ s.now))
     | none => false)
  | _ => false

/-- An error completion (R398): zeros and ERRS for what returns a value, nothing for a store. -/
def State.errorAt (s : State) (a : Access) : State :=
  match a.op with
  | .read => s.deliver a { tags := List.replicate (cdiv a.len 64) 0x7F00, bad := some 0 }
  | .write => s.wrote a
  | .prefetch => s
  | _ =>
    let s := s.visibleAt a.sid a.id (some s.now)
    match a.dest with
    | .g n =>
      s.landAt a.sid a.col a.issue (a.answer s.now)
        ([.g n 0, .retire a.id, .bad a.col a.hnd a.off] ++ if a.promise.isSome then [] else [.seamEnd])
    | _ => s.uncorrectableNext a.sid a.col a.hnd a.off

/-- An access joins a replay buffer: all its blocks take their homes in its replay cycle (R431). -/
def State.holdAccess (s : State) (d : Nat × Nat) (a : Access) : State :=
  (s.withhold d a.addr 4 .accessHomeCycle (.access { a with again := true, todo := a.todo.map (fun l => l.map (fun x => (s.now, x.2))) })).visibleAt
    a.sid a.id none

/-- A store of the hardware's own, at once, or held by the domain that it goes to (R276). -/
def State.hwStore (s : State) (a : Access) : State :=
  match s.heldBy a with
  | some d => s.holdAccess d a
  | none => s.storeBlocks a

/-- An access takes its place in home order (R244, R245). One of an older generation is discarded (R342); one whose slots have not
come yet is held by its router (R381); one whose domain is out of service is held (R276). -/
def State.atHome (s : State) (a : Access) : State :=
  if a.part ≠ 63 ∧ a.gen ≠ s.gen a.part then s
  else if s.cutOff a then s.errorAt a
  else if !s.crosses a then (s.visibleAt a.sid a.id none).rest { a with leave := a.leave + 1 } (s.now + 1)
  else match s.heldBy a with
    | some d => s.holdAccess d a
    | none =>
      match a.op with
      | .read => s.readAt a
      | .write => s.writeAt a
      | .prefetch =>
        match s.acceptBy a.by_ a.addr with
        | none => s.rest a (s.now + 1)
        | some s =>
        let s := s.prefetchLine a.addr a.key
        if a.len ≤ 64 then s
        else s.drew.toHome (max (s.now + 1) (s.settleBy a.part (s.now + 1 + s.drawVal))) (homeKey a.sid a.issue a.col) { a with addr := a.addr + 64, len := a.len - 64 }
      | op =>
        match s.engineTurn a with
        | none => s.nextTime a
        | some s =>
          match op with
          | .atomic code w x y => (s.atomicAt a code w x y).took a
          | .fadd x => (s.faddAt a x).took a
          | .bind page size scope => (s.bindAt a page size scope).took a
          | .unbind page size => (s.unbindAt a page size).took a
          | _ =>
            let s := (s.syncFill a.addr a.key).noteSync a.sid a.col a.hnd a.off a.addr a.key
            let o := s.syncAt a.addr a.key
            ({ s with syncs := Fm.set s.syncs (a.addr / 16) { o with waiters := o.waiters ++ [a] } }).push
              { cyc := s.now, cls := 6, key := a.addr / 16, ins := .acqGrant, arg := .access a }

/-- ACCESS_HOME_CYCLE (R244, R245). -/
def execAccessHomeCycle (s : State) : Host.Outcome State Fault Refusal :=
  match s.arg with
  | .access a => .next (s.atHome a)
  | _ => .next s

/-- ACQ_GRANT (R194, R253); an object in a domain that is out of service waits for it (R276). -/
def execAcqGrant (s : State) : Host.Outcome State Fault Refusal :=
  match s.arg with
  | .access a =>
    match s.heldAt a.addr with
    | some d => .next (s.withhold d a.addr 6 .acqGrant (.access a))
    | none => .next (s.grantAt a.addr a.key)
  | _ => .next s

/-! ## Delivery -/

/-- The elements that a tagged load writes: each block's, until the tile is full (R68). A block that is not needed gives
neither elements nor warnings (R185). -/
def taggedElems (tags : List Nat) (data t : Nat) (ov : Bool) (n : Nat) : List (Nat × Nat) × Nat :=
  ((tags.zipIdx).foldl (fun (x : List (Nat × Nat) × Nat) e =>
    if n ≤ x.1.length then x
    else
      let r := blockElems e.1 (data / 2 ^ (512 * e.2) % 2 ^ 512) t ov
      (x.1 ++ r.1, x.2 ||| r.2)) ([], 0)) |> fun r => (r.1.take n, r.2)

/-- The landings of a load's data (R184, R185). -/
def State.loadLands (s : State) (a : Access) (data : Nat) (tags : List Nat) (ctag : Bool) : List Land :=
  match a.dest with
  | .none | .move _ _ => []
  | .g n => [.g n (BitVec.ofNat 64 data)]
  | .tile n => [.tile n (BitVec.ofNat 32768 data) (BitVec.ofNat 32768 (2 ^ (8 * a.len) - 1))]
  | .cap n => [.k n { bits := BitVec.ofNat 128 data, tag := ctag }]
  | .tagged n sh ov =>
    let sh := BitVec.ofNat 18 sh
    let (l, w) := taggedElems tags data (shapeType sh) ov (shapeCount sh)
    tileLand n (shapeType sh) (l.map (·.1)) :: (flagLands (orFlags l) ++ if w = 0 then [] else [.warns (BitVec.ofNat 8 w)])

/-- Load data written to its destination (R177); uncorrectable data is recorded (R179), for a scratchpad with the address. -/
def State.deliverTo (s : State) (a : Access) (data : Nat) (tags : List Nat) (ctag bad : Bool) : State :=
  if a.part ≠ 63 ∧ a.gen ≠ s.gen a.part then s
  else
    let s := landRegs s a.sid (s.loadLands a data tags ctag ++ [.retire a.id] ++ if a.seam then [.seamEnd] else [])
    if bad then s.uncorrectable a.sid a.col a.hnd a.off else s

/-- LOAD_DATA_DELIVERY (R177, R179): data that waits for the slots of its way back is held (R381). -/
def execLoadDataDelivery (s : State) : Host.Outcome State Fault Refusal :=
  match s.arg with
  | .deliver a data tags ctag bad =>
    if s.comesBack a then .next (s.deliverTo a data tags ctag bad)
    else .next (s.push { cyc := s.now + 1, cls := 1, key := landKey a.issue a.sid a.col, ins := .loadDataDelivery,
                         arg := .deliver { a with leave := a.leave + 1 } data tags ctag bad })
  | _ => .next s

/-- ARRIVAL_VIOLATION (R177, R317): in the promised cycle the data is not at its destination. In STALL mode the sequencer
holds, cycle by cycle, until it is; in TRAP mode the timing fault is raised; in untimed mode nothing is raised (R316). -/
def execArrivalViolation (s : State) : Host.Outcome State Fault Refusal :=
  match s.arg with
  | .access a =>
    let q := s.seq a.sid
    if !(q.outst.any (fun o => o.id == a.id && !o.done s.now)) || q.run != .run then .next s
    else
      let t := s.violation a.sid a.col true
      .next (if q.ut || q.trapMode then t
             else t.push { cyc := s.now + 1, cls := 2, key := a.sid, ins := .arrivalViolation, arg := .access a })
  | _ => .next s

/-- HOST_ACCESS_ARRIVAL (R266): a host access reaches its home as an untimed-class access, after all others of the cycle. One of a
function that is not bound, or before boot step 7, is dropped, and reads all ones (R401, R417). -/
def execHostAccessArrival (s : State) : Host.Outcome State Fault Refusal :=
  match s.arg with
  | .hostAccess write f a =>
    let a := { a with op := if write then .write else .read, dest := .none, alloc := .hostPort, cls := 3, sid := 0xFFFF,
                      promise := none, issue := s.now, leave := s.now }
    let dropped : State := if write then s
      else { s with outbox := s.outbox ++ [{ op := 6, sid := a.sid, part := a.part, len := a.len, data := 2 ^ (8 * a.len) - 1, id := a.id }] }
    .next (match f with
      | none => if s.bootStep < 7 then dropped else s.toHome s.now hostKey a
      | some n => match s.vfPart n with
        | some p => s.toHome s.now hostKey { a with part := p, gen := s.gen p }
        | none => dropped)
  | _ => .next s

end Sys2Proof.Machine
end

