-- ==== Sys2Proof/Machine/MemFam.lean ====
section
/-! DEFINITION. The meanings of the MEM column (R174 to R189, R295, R297): translation, loads and stores, DRAIN, cache and
retention control, and the events that complete them. -/

namespace Sys2Proof.Machine

open Sys2Proof

/-! ## Handles (R181, R182) -/

/-- The 128 visible bits of a handle (R22). -/
def Handle.bits (h : Handle) : Nat :=
  (if h.v then 1 else 0) + (if h.rp then 2 else 0) + h.sz * 4 + h.perm * 16 + h.home * 128 + h.tier * 2048 +
  h.key * 8192 + h.gen * 2 ^ 24 + h.vbase * 2 ^ 32

/-- The handle that 128 visible bits show. -/
def handleOfBits (x : Nat) : Handle :=
  { v := bit x 0, rp := bit x 1, sz := bits x 2 2, perm := bits x 4 3, home := bits x 7 4, tier := bits x 11 2,
    key := bits x 13 11, gen := bits x 24 8, vbase := bits x 32 56 }

/-- XLT, walking form (R181): a seam instruction; its walk ends in a cycle that is not promised. -/
def execXlt (h : BitVec 4) (g : BitVec 6) (s : State) : Host.Outcome State Fault Refusal :=
  s.issue 1 (fun s => s.seamOnly (fun s =>
    let (id, s) := s.fresh
    let a : Access := { id := id, sid := s.cur.sid, hnd := h.toNat, addr := s.me.gn g.toNat, part := s.myPart,
                        gen := s.gen s.myPart, issue := s.now, pc := s.cur.pc }
    let s := s.updMe (fun q => { q with seam := true })
    let s := s.outstanding a.sid { id := id, kind := 1, issue := s.now }
    s.drew.push { cyc := s.now + 1 + s.drawVal, cls := 1, key := landKey s.now a.sid 3, ins := .xltWalkComplete,
                  arg := .access a }))

/-- XLT_WALK_COMPLETE (R181, R295): the handle of the leaf, all zeros without a mapping, and the page fault of a leaf that is
not resident, which saves the task to a full frame unless an event has ended it already (R328). A page that is revoke-pending enters
no TLB, so that none outlives the drop of R293. -/
def execXltWalkComplete (s : State) : Host.Outcome State Fault Refusal :=
  match s.arg with
  | .access a =>
    if a.part ≠ 63 ∧ a.gen ≠ s.gen a.part then .next s
    else
      let die := dieOf a.sid
      let fin (s : State) (h : Handle) : State := landRegs s a.sid [.h a.hnd h, .retire a.id, .seamEnd]
      match s.walkHeld a.part a.addr with
      | some (d, k, x) => .next (s.withhold (d, k) x 1 .xltWalkComplete (.access a))
      | none =>
        let looked (t : State) : State := (s.walkPath a.part a.addr).foldr (fun x t => t.lookup x false) t
        match s.walk a.part a.addr with
        | none => .next (looked (fin s {}))
        | some (e, sz, _) =>
          if !bit e 2 then
            let t := landRegs s a.sid [.retire a.id, .seamEnd]
            .next (looked (if (t.seq a.sid).endable then
              (t.updSeq a.sid (fun q => { q with faultVa := a.addr })).endTask a.sid 8 3 a.pc else t))
          else
            let h := s.handleOf a.part a.addr e sz
            .next (looked (fin (if h.rp then s else s.tlbFill die a.part h) h))
  | _ => .next s

/-- XLT, no-walk form (R181, R297): the last-level TLB of the issuing die answers at +24, all zeros on a miss. -/
def execXltNw (h : BitVec 4) (g : BitVec 6) (s : State) : Host.Outcome State Fault Refusal :=
  s.issue 1 (fun s =>
    let va := s.me.gn g.toNat
    let die := dieOf s.cur.sid
    match if va < 2 ^ 56 then s.tlbHit die s.myPart va else none with
    | none => s.land 24 [.h h.toNat {}]
    | some t =>
      (s.tlbTouch die t).land 24
        [.h h.toNat { t.h with rp := s.revoking s.myPart va, gen := s.gen s.myPart, v := true }])

/-- HREL (R182). -/
def execHrel (h : BitVec 4) (s : State) : Host.Outcome State Fault Refusal :=
  s.issue 1 (fun s => s.land 2 [.h h.toNat {}])

/-- HCHK (R182): V = 1, a current GEN and RP = 0. -/
def execHchk (p h : BitVec 4) (s : State) : Host.Outcome State Fault Refusal :=
  s.issue 1 (fun s =>
    let x := s.me.hr h.toNat
    s.land 2 [.p p.toNat (s.valid s.myPart x && !x.rp)])

/-- HINFO (R182). -/
def execHinfo (g : BitVec 6) (h : BitVec 4) (sel : BitVec 2) (s : State) : Host.Outcome State Fault Refusal :=
  s.issue 1 (fun s =>
    let x := s.me.hr h.toNat
    if sel = 3 then s.illegal
    else
      let v := if sel = 0 then Handle.bits { x with v := s.valid s.myPart x } % 2 ^ 32
        else if sel = 1 then x.vbase else pageSize x.sz
      s.land 2 [.g g.toNat (BitVec.ofNat 64 v)])

/-! ## Scratchpad forms (R174, R183, R184) -/

/-- Whether the sequencer's half has a scratchpad: its partition owns the cluster's (R269); a management sequencer has none. -/
def State.hasSpad (s : State) (sid : Nat) : Bool :=
  !isMgmt sid && bit ((s.part (s.seq sid).task.part).get (0xF0 + 8 * dieOf sid) 8) (cluOf sid)

/-- The checks of a scratchpad form: an aligned range of `n` bytes within 4 MiB of the issuing cluster's scratchpad. -/
def State.spadOk (s : State) (addr n al : Nat) : Bool :=
  s.hasSpad s.cur.sid && addr % al == 0 && decide (addr + n ≤ Config.spadBytes)

/-- The address of a scratchpad form (R174). -/
def State.spadAt (s : State) (b c : BitVec 6) : Nat := (s.me.gn b.toNat + s.me.gn c.toNat) % 2 ^ 64

/-- A scratchpad load of `n` bytes: home +2 + o, result +12 + o, for occupancy o (R176, R244). -/
def State.spadLoad (s : State) (d : Dest) (addr n al : Nat) : State :=
  let o := cdiv n 2048
  if s.spadOk addr n al then
    s.startLoad { op := .read, space := .spad (spadOf s.cur.sid), addr := addr, off := addr, len := n, dest := d } (12 + o)
      (some (2 + o))
  else s.boundsFault

/-- A scratchpad store of `n` bytes, visible at +2 + o (R176, R244). -/
def State.spadStore (s : State) (data addr n al : Nat) : State :=
  let o := cdiv n 2048
  if s.spadOk addr n al then
    s.startStore { op := .write, space := .spad (spadOf s.cur.sid), addr := addr, len := n, data := data } (some (2 + o)) 0
  else s.boundsFault

/-- Occupancy of a tile form (R176). -/
def State.memOcc (s : State) : Nat := cdiv (shapeBytes s.me.shape) 2048

/-- A tile form: absent on management sequencers (R174), its tile nameable (R29). -/
def State.tileForm (s : State) (occ : Nat) (v : BitVec 5) (k : State → State) : Host.Outcome State Fault Refusal :=
  s.issue occ (fun s => s.userOnly (fun s => s.withTiles [v.toNat] k))

def execLds (v : BitVec 5) (b c : BitVec 6) (s : State) : Host.Outcome State Fault Refusal :=
  s.tileForm s.memOcc v (fun s => s.spadLoad (.tile v.toNat) (s.spadAt b c) (shapeBytes s.me.shape) 64)
def execSts (v : BitVec 5) (b c : BitVec 6) (s : State) : Host.Outcome State Fault Refusal :=
  s.tileForm s.memOcc v (fun s =>
    s.spadStore (s.tile s.cur.sid v.toNat).toNat (s.spadAt b c) (shapeBytes s.me.shape) 64)
def execLdsg (g b c : BitVec 6) (s : State) : Host.Outcome State Fault Refusal :=
  s.issue 1 (fun s => s.spadLoad (.g g.toNat) (s.spadAt b c) 8 8)
def execStsg (g b c : BitVec 6) (s : State) : Host.Outcome State Fault Refusal :=
  s.issue 1 (fun s => s.spadStore (s.me.gn g.toNat) (s.spadAt b c) 8 8)

/-! ## Global forms (R174 to R177, R183 to R186) -/

/-- The class latency of classes 0 to 2 (R176). -/
def classLatency (m : Nat) : Nat := [40, 150, 190].getD m 0

/-- A latency class: the class and its latency, which an untimed form takes from its literal (R97, R98). -/
structure Class where
  cls : Nat
  lat : Nat

/-- The class of a form with the class in M, and of an untimed form. -/
def timedClass (m : BitVec 2) : Class := { cls := m.toNat, lat := classLatency m.toNat }
def untimedClass (lat : BitVec 29) : Class := { cls := 3, lat := lat.toNat }

/-- The home cycle of a class, from the issue cycle: +L − 10, or none where it is not promised (R244). -/
def Class.home (k : Class) : Option Nat := if k.cls < 3 then some (k.lat - 10) else none

/-- A global load of `n` bytes into `d` through handle `hn`: checks 3 and 4 of R175, the RDC modifier and its fallback
(R100), and the access. The extent checked is `n` bytes from an offset aligned to `al`. -/
def State.globalLoad (s : State) (d : Dest) (hn : BitVec 4) (off n al : Nat) (k : Class) (rdc : Bool) (ac : Alloc) : State :=
  let h := s.me.hr hn.toNat
  if !s.handleOk h permRead then s.handleFault
  else if !boundsOk h off n al then s.boundsFault
  else
    (s.fallback (rdc && k.cls != 2)).startLoad
      { op := .read, addr := h.base + off, len := n, dest := d, alloc := ac, key := h.key, hnd := hn.toNat, off := off,
        cls := k.cls, rdc := rdc && k.cls == 2, tier := h.tier } k.lat k.home

/-- A global store of the `n` bytes `data`, with block tags or 0x7F00 (R67). A store takes no RDC modifier (R100). -/
def State.globalStore (s : State) (hn : BitVec 4) (off n al data : Nat) (tags : Option (List Nat)) (k : Class) (rdc : Bool)
    (ac : Alloc) (kind : Nat) (ct : Bool := false) : State :=
  let h := s.me.hr hn.toNat
  if !s.handleOk h permWrite then s.handleFault
  else if !boundsOk h off n al then s.boundsFault
  else
    (s.fallback rdc).startStore
      { op := .write, addr := h.base + off, len := n, data := data % 2 ^ (8 * n), tags := tags, alloc := ac, key := h.key,
        hnd := hn.toNat, off := off, cls := k.cls, tier := h.tier, page := h.base, pageSize := pageSize h.sz,
        ctags := if ct then 1 else 0 }
      (if kind = 5 then none else k.home) kind

/-- LDG and LDGE in one class. -/
def State.loadTile (s : State) (r : BitVec 1) (v : BitVec 5) (h : BitVec 4) (c : BitVec 6) (k : Class) (ac : Alloc) :
    Host.Outcome State Fault Refusal :=
  s.tileForm s.memOcc v (fun s =>
    s.globalLoad (.tile v.toNat) h (s.me.gn c.toNat) (shapeBytes s.me.shape) 64 k (r == 1) ac)

def execLdg (r : BitVec 1) (v : BitVec 5) (h : BitVec 4) (c : BitVec 6) (m : BitVec 2) (s : State) :
    Host.Outcome State Fault Refusal := s.loadTile r v h c (timedClass m) .normal
def execLdgUnt (r : BitVec 1) (v : BitVec 5) (h : BitVec 4) (c : BitVec 6) (lat : BitVec 29) (s : State) :
    Host.Outcome State Fault Refusal := s.loadTile r v h c (untimedClass lat) .normal
def execLdge (r : BitVec 1) (v : BitVec 5) (h : BitVec 4) (c : BitVec 6) (m : BitVec 2) (s : State) :
    Host.Outcome State Fault Refusal := s.loadTile r v h c (timedClass m) .evictFirst
def execLdgeUnt (r : BitVec 1) (v : BitVec 5) (h : BitVec 4) (c : BitVec 6) (lat : BitVec 29) (s : State) :
    Host.Outcome State Fault Refusal := s.loadTile r v h c (untimedClass lat) .evictFirst

/-- LDGS in one class. -/
def State.loadScalar (s : State) (r : BitVec 1) (g : BitVec 5) (h : BitVec 4) (c : BitVec 6) (k : Class) :
    Host.Outcome State Fault Refusal :=
  s.issue 1 (fun s => s.globalLoad (.g g.toNat) h (s.me.gn c.toNat) 8 8 k (r == 1) .normal)

def execLdgs (r : BitVec 1) (g : BitVec 5) (h : BitVec 4) (c : BitVec 6) (m : BitVec 2) (s : State) :
    Host.Outcome State Fault Refusal := s.loadScalar r g h c (timedClass m)
def execLdgsUnt (r : BitVec 1) (g : BitVec 5) (h : BitVec 4) (c : BitVec 6) (lat : BitVec 29) (s : State) :
    Host.Outcome State Fault Refusal := s.loadScalar r g h c (untimedClass lat)

/-- Bmax of R185. -/
def taggedMax (sh : BitVec 18) : Nat :=
  64 * cdiv (shapeCount sh) (if typeBits (shapeType sh) = 64 then 8 else 16)

/-- LDT and LDTE in one class (R185). -/
def State.loadTaggedTile (s : State) (r : BitVec 1) (v : BitVec 5) (h : BitVec 4) (c : BitVec 6) (k : Class) (ac : Alloc) :
    Host.Outcome State Fault Refusal :=
  s.tileForm (cdiv (taggedMax s.me.shape) 2048) v (fun s =>
    s.globalLoad (.tagged v.toNat s.me.shape.toNat s.me.fctl) h (s.me.gn c.toNat) (taggedMax s.me.shape) 64 k (r == 1) ac)

def execLdt (r : BitVec 1) (v : BitVec 5) (h : BitVec 4) (c : BitVec 6) (m : BitVec 2) (s : State) :
    Host.Outcome State Fault Refusal := s.loadTaggedTile r v h c (timedClass m) .normal
def execLdtUnt (r : BitVec 1) (v : BitVec 5) (h : BitVec 4) (c : BitVec 6) (lat : BitVec 29) (s : State) :
    Host.Outcome State Fault Refusal := s.loadTaggedTile r v h c (untimedClass lat) .normal
def execLdte (r : BitVec 1) (v : BitVec 5) (h : BitVec 4) (c : BitVec 6) (m : BitVec 2) (s : State) :
    Host.Outcome State Fault Refusal := s.loadTaggedTile r v h c (timedClass m) .evictFirst
def execLdteUnt (r : BitVec 1) (v : BitVec 5) (h : BitVec 4) (c : BitVec 6) (lat : BitVec 29) (s : State) :
    Host.Outcome State Fault Refusal := s.loadTaggedTile r v h c (untimedClass lat) .evictFirst

/-- STG in one class. -/
def State.storeTile (s : State) (r : BitVec 1) (v : BitVec 5) (h : BitVec 4) (c : BitVec 6) (k : Class) :
    Host.Outcome State Fault Refusal :=
  s.tileForm s.memOcc v (fun s =>
    s.globalStore h (s.me.gn c.toNat) (shapeBytes s.me.shape) 64 (s.tile s.cur.sid v.toNat).toNat none k (r == 1) .normal 0)

def execStg (r : BitVec 1) (v : BitVec 5) (h : BitVec 4) (c : BitVec 6) (m : BitVec 2) (s : State) :
    Host.Outcome State Fault Refusal := s.storeTile r v h c (timedClass m)
def execStgUnt (r : BitVec 1) (v : BitVec 5) (h : BitVec 4) (c : BitVec 6) (lat : BitVec 29) (s : State) :
    Host.Outcome State Fault Refusal := s.storeTile r v h c (untimedClass lat)

/-- STGS in one class. -/
def State.storeScalar (s : State) (r : BitVec 1) (g : BitVec 5) (h : BitVec 4) (c : BitVec 6) (k : Class) :
    Host.Outcome State Fault Refusal :=
  s.issue 1 (fun s => s.globalStore h (s.me.gn c.toNat) 8 8 (s.me.gn g.toNat) none k (r == 1) .normal 0)

def execStgs (r : BitVec 1) (g : BitVec 5) (h : BitVec 4) (c : BitVec 6) (m : BitVec 2) (s : State) :
    Host.Outcome State Fault Refusal := s.storeScalar r g h c (timedClass m)
def execStgsUnt (r : BitVec 1) (g : BitVec 5) (h : BitVec 4) (c : BitVec 6) (lat : BitVec 29) (s : State) :
    Host.Outcome State Fault Refusal := s.storeScalar r g h c (untimedClass lat)

/-- Blocks that STQ writes in a format (R186). -/
def stqBlocks (sh : BitVec 18) (f : Nat) : Nat := cdiv (bytesFor (quantType f) (shapeCount sh)) 64

/-- STQ in one class (R186): offset, ring and format from the offset register; codes 5 to 7 are illegal. -/
def State.storeQuantised (s : State) (r : BitVec 1) (v : BitVec 5) (h : BitVec 4) (c : BitVec 6) (k : Class) :
    Host.Outcome State Fault Refusal :=
  let x := s.me.gn c.toNat
  let f := bits x 52 3
  let n := 64 * stqBlocks s.me.shape f
  s.tileForm (cdiv n 2048) v (fun s =>
    if 5 ≤ f then s.illegal
    else
      let sc := selectScale ((List.range (s.me.ring (bits x 48 4)).cnt).map
        (fun i => (Fm.get 0 (s.me.ring (bits x 48 4)).ent i).toNat)) f
      let t := shapeType s.me.shape
      let l := (s.elemsOf v.toNat).map (fun e =>
        let q := quantise f sc (decodeVal t e)
        (q.1, q.2 ||| decodeFlags t e))
      let data := pack (typeBits (quantType f)) (l.map (·.1))
      let s' := s.globalStore h (bits x 0 48) n 64 data (some (List.replicate (n / 64) (sc * 256 + quantCode f))) k (r == 1)
        .normal 0
      if s'.cur.fault then s' else s'.land (cdiv n 2048) (flagLands (orFlags l)))

def execStq (r : BitVec 1) (v : BitVec 5) (h : BitVec 4) (c : BitVec 6) (m : BitVec 2) (s : State) :
    Host.Outcome State Fault Refusal := s.storeQuantised r v h c (timedClass m)
def execStqUnt (r : BitVec 1) (v : BitVec 5) (h : BitVec 4) (c : BitVec 6) (lat : BitVec 29) (s : State) :
    Host.Outcome State Fault Refusal := s.storeQuantised r v h c (untimedClass lat)

/-- STNT in one class (R184, R187, R257): an unpromised home cycle, outside every release until a DRAIN. -/
def State.storeNonTemporal (s : State) (r : BitVec 1) (v : BitVec 5) (h : BitVec 4) (c : BitVec 6) (k : Class) :
    Host.Outcome State Fault Refusal :=
  s.tileForm s.memOcc v (fun s =>
    let id := s.nextId
    let t := s.globalStore h (s.me.gn c.toNat) (shapeBytes s.me.shape) 64 (s.tile s.cur.sid v.toNat).toNat none k (r == 1)
      .stream 5
    if t.cur.fault then t
    else t.updMe (fun q => { q with
      stnt := q.stnt ++ [{ id := id, bound := if k.cls < 3 then some (s.now + k.lat - 10 + 64) else none }] }))

def execStnt (r : BitVec 1) (v : BitVec 5) (h : BitVec 4) (c : BitVec 6) (m : BitVec 2) (s : State) :
    Host.Outcome State Fault Refusal := s.storeNonTemporal r v h c (timedClass m)
def execStntUnt (r : BitVec 1) (v : BitVec 5) (h : BitVec 4) (c : BitVec 6) (lat : BitVec 29) (s : State) :
    Host.Outcome State Fault Refusal := s.storeNonTemporal r v h c (untimedClass lat)

/-! ## DRAIN (R187) -/

/-- The sequencer's STNT home accesses that lie beyond cycle `c` take place by then. -/
def State.homeBy (s : State) (ids : List Nat) (c : Nat) : State :=
  { s with agenda := s.agenda.map (fun e => match e.arg with
    | .access a =>
      if e.ins = .accessHomeCycle ∧ ids.contains a.id then
        { e with cyc := min e.cyc c, arg := .access { a with
          by_ := some c, todo := a.todo.map (·.map (fun x => (min x.1 c, x.2))) } }
      else e
    | _ => e) }

/-- DRAIN: cD is the latest bound of the earlier undrained STNT stores; an untimed one contributes its acknowledgement. -/
def execDrain (s : State) : Host.Outcome State Fault Refusal :=
  s.issue 1 (fun s =>
    let q := s.me
    let c := q.stnt.foldl (fun m r => max m (r.bound.getD 0)) (s.now + 1)
    let timed := (q.stnt.filter (fun r => r.bound.isSome)).map (·.id)
    let (id, s) := s.fresh
    let s := s.homeBy timed c
    let s := s.updMe (fun x => { x with stnt := [] })
    let s := s.outstanding s.cur.sid { id := id, kind := 6, issue := s.now }
    s.push { cyc := c, cls := 4, key := engineKey s.cur.sid 0, ins := .drainComplete,
             arg := .access { id := id, sid := s.cur.sid, part := s.myPart, gen := s.gen s.myPart, tags := some (q.stnt.map (·.id)) } })

/-- DRAIN_COMPLETE: at cD, when every STNT before it is visible; while an untimed one is not acknowledged, or a domain holds one,
it lies later. -/
def execDrainComplete (s : State) : Host.Outcome State Fault Refusal :=
  match s.arg with
  | .access a =>
    if (s.seq a.sid).outst.any (fun o => (a.tags.getD []).contains o.id && !o.done s.now) then
      .next (s.push { cyc := s.now + 1, cls := 4, key := engineKey a.sid 0, ins := .drainComplete, arg := .access a })
    else .next (s.visibleAt a.sid a.id (some s.now))
  | _ => .next s

/-! ## Cache ranges (R188) -/

/-- The lines that meet a byte range: address of the first, bytes up to the end of the last. -/
def lineRange (pa n : Nat) : Nat × Nat :=
  if n = 0 then (pa / 64 * 64, 0) else (pa / 64 * 64, ((pa + n - 1) / 64 - pa / 64 + 1) * 64)

/-- PFL: lines outside the page, and an invalid handle, are dropped silently. -/
def execPfl (h : BitVec 4) (b c : BitVec 6) (s : State) : Host.Outcome State Fault Refusal :=
  s.issue 1 (fun s =>
    let x := s.me.hr h.toNat
    let off := s.me.gn b.toNat
    let n := min (s.me.gn c.toNat) (pageSize x.sz - off)
    if !s.valid s.myPart x || n = 0 then s
    else
      let (pa, len) := lineRange (x.base + off) n
      let (id, s) := s.fresh
      s.drew.toHome (s.now + 1 + s.drawVal) (homeKey s.cur.sid s.now s.cur.col)
        { id := id, sid := s.cur.sid, op := .prefetch, addr := pa, len := len, key := x.key, part := s.myPart,
          gen := s.gen s.myPart, issue := s.now, cls := 3, tier := x.tier })

/-- CWBR and CINVR: check 3 with `perm` (0 asks for any PERM bit), check 4, and the completion cycle of R176. -/
def State.cacheRange (s : State) (h : BitVec 4) (b c : BitVec 6) (drop : Bool) : Host.Outcome State Fault Refusal :=
  s.issue 1 (fun s =>
    let x := s.me.hr h.toNat
    let off := s.me.gn b.toNat
    let n := s.me.gn c.toNat
    if !s.handleOk x (if drop then permWrite else 0) || x.perm = 0 then s.handleFault
    else if !boundsOk x off n 1 then s.boundsFault
    else
      let d := dieLatency (dieOf s.cur.sid) x.home
      let k := 40 + 2 * d + cdiv n 1024
      let (id, s) := s.fresh
      let (pa, len) := lineRange (x.base + off) n
      let s := s.outstanding s.cur.sid { id := id, page := some (x.base, pageSize x.sz), at_ := some (s.now + k), kind := 3,
                                         issue := s.now }
      let a : Access := { id := id, sid := s.cur.sid, addr := pa, len := len, key := x.key, part := s.myPart, gen := s.gen s.myPart,
                          issue := s.now }
      s.after k 4 (homeKey s.cur.sid s.now s.cur.col) .cacheRangeComplete (.ranges a drop x.home))

def execCwbr (h : BitVec 4) (b c : BitVec 6) (s : State) : Host.Outcome State Fault Refusal := s.cacheRange h b c false
def execCinvr (h : BitVec 4) (b c : BitVec 6) (s : State) : Host.Outcome State Fault Refusal := s.cacheRange h b c true

/-- Dirty lines of a range written back and left clean, or every line of the range dropped, in all L2 sets of a die. -/
def State.sweepLines (s : State) (die pa len : Nat) (drop : Bool) : State :=
  let inR (l : Line) : Bool := decide (pa ≤ l.pa * 64) && decide (l.pa * 64 < pa + len)
  let s := if drop then s else
    s.l2.foldl (fun s e =>
      if e.1 / 8192 / 32 = die then
        e.2.foldl (fun s l => if inR l && l.dirty then
          let p := s.place (l.pa * 64)
          s.buffer p (l.entry p.loc) else s) s
      else s) s
  { s with l2 := s.l2.map (fun e =>
      if e.1 / 8192 / 32 = die then
        (e.1, if drop then e.2.filter (fun l => !inR l)
              else e.2.map (fun l => if inR l then { l with dirty := false } else l))
      else e) }

/-- CACHE_RANGE_COMPLETE (R188): RDC copies of the range are dropped anywhere in the module. -/
def execCacheRangeComplete (s : State) : Host.Outcome State Fault Refusal :=
  match s.arg with
  | .ranges a drop die =>
    if a.len = 0 ∨ (a.part ≠ 63 ∧ a.gen ≠ s.gen a.part) then .next s
    else match s.heldAt a.addr with
      -- a domain that is out of service takes no new request (R276)
      | some d => .next ((s.withhold d a.addr 4 .cacheRangeComplete (.ranges a drop die)).visibleAt a.sid a.id none)
      | none => .next (((s.sweepLines die a.addr a.len drop).dropRdcRange (fun _ => true) a.addr a.len).seenNow a.sid a.id)
  | _ => .next s

/-! ## Retention (R189, R282, R283, R434) -/

/-- The block that covers an address, in service or not. -/
def State.coveringBlock (s : State) (die pa : Nat) : Option Nat :=
  match s.blockOf die pa with
  | some k => some k
  | none => (List.range 16).find? (fun k => (s.dom die k).covers die pa)

/-- Retention register `n` of a block. -/
def Dom.rtnAt (d : Dom) (n : Nat) : Rtn := Fm.get {} d.rtn n

/-- The reserved ways with register `n` replaced. -/
def Dom.unionWith (d : Dom) (n : Nat) (r : Rtn) : Nat :=
  (List.range 8).foldl (fun a i =>
    let x := if i = n then r else d.rtnAt i
    if x.v then a ||| x.ways else a) 0

/-- The lines of a register that is cleared or rewritten join each set's normal order at its LRU end, below every line
already there, and keep their order (R283, R434). -/
def releaseLines (ways other : Nat) (l : List Line) : List Line :=
  let mine := l.filter (fun x => bit ways x.way && !bit other x.way)
  if mine.isEmpty then l
  else
    let rest := l.filter (fun x => !(bit ways x.way && !bit other x.way))
    let low := rest.foldl (fun a x => min a x.stamp) 0
    let top := mine.foldl (fun a x => max a x.stamp) 0
    rest ++ mine.map (fun x => { x with stamp := low - 1 - (top - x.stamp) })

/-- Register `n` of a block takes a new value; its former lines are released. -/
def State.setRtn (s : State) (die k n : Nat) (r : Rtn) : State :=
  let d := s.dom die k
  let old := d.rtnAt n
  let s := if old.v then
    { s with l2 := s.l2.map (fun e =>
        if e.1 / 8192 / 32 = die ∧ d.first ≤ e.1 / 8192 % 32 ∧ e.1 / 8192 % 32 < d.first + 2 ^ d.l2c then
          (e.1, releaseLines old.ways (d.unionWith n {}) e.2) else e) } else s
  s.updDom die k (fun d => { d with rtn := Fm.set d.rtn n r })

/-- RPIN and RUNPIN: the register must be granted to the partition (check 1). -/
def State.retention (s : State) (n : BitVec 3) (h : BitVec 4) (perm : Nat) (f : State → Handle → Nat → Rtn → State) :
    Host.Outcome State Fault Refusal :=
  s.issue 1 (fun s =>
    let x := s.me.hr h.toNat
    match s.coveringBlock x.home x.base with
    | none => if !s.handleOk x perm then s.handleFault else s.illegal
    | some k =>
      let r := (s.dom x.home k).rtnAt n.toNat
      if !s.valid s.myPart x then s.handleFault
      else if !(r.gv && r.grant == s.myPart) then s.illegal
      else if !s.handleOk x perm || x.tier ≠ 0 then s.handleFault
      else f s x k r)

/-- RPIN (R189). -/
def execRpin (n : BitVec 3) (h : BitVec 4) (g : BitVec 6) (s : State) : Host.Outcome State Fault Refusal :=
  s.retention n h permRead (fun s x k r =>
    let v := s.me.gn g.toNat
    let first := bits v 0 22
    let cnt := if bits v 22 22 = 0 then 2 ^ 22 else bits v 22 22
    let ways := bits v 44 16
    let new : Rtn := { r with base := x.base + 64 * first, last := x.base + 64 * (first + cnt - 1), ways := ways, v := true }
    let d := dieLatency (dieOf s.cur.sid) x.home
    if pageSize x.sz < 64 * (first + cnt) ∨ popcount ways 16 = 0 ∨ 12 < popcount ways 16 ∨
        12 < popcount ((s.dom x.home k).unionWith n.toNat new) 16 then s.boundsFault
    else s.after (48 + 2 * d) 4 (homeKey s.cur.sid s.now s.cur.col) .retentionInForce (.rtn x.home k n.toNat (some new) s.myPart (s.gen s.myPart)))

/-- RUNPIN (R189). -/
def execRunpin (n : BitVec 3) (h : BitVec 4) (s : State) : Host.Outcome State Fault Refusal :=
  s.retention n h 0 (fun s x k _ =>
    s.after (48 + 2 * dieLatency (dieOf s.cur.sid) x.home) 4 (homeKey s.cur.sid s.now s.cur.col) .retentionInForce
      (.rtn x.home k n.toNat none s.myPart (s.gen s.myPart)))

/-- RETENTION_IN_FORCE (R189): an RPIN whose ways would then pass 12 leaves the register unchanged and sets DCFG.ERR; a request of
an older generation is discarded (R342). -/
def execRetentionInForce (s : State) : Host.Outcome State Fault Refusal :=
  match s.arg with
  | .rtn die k n r part gen =>
    let d := s.dom die k
    if part ≠ 63 ∧ gen ≠ s.gen part then .next s
    else match r with
    | none => .next (s.setRtn die k n { d.rtnAt n with v := false })
    | some r =>
    if 12 < popcount (d.unionWith n r) 16 then .next (s.updDom die k (fun d => { d with err := true }))
    else .next (s.setRtn die k n { r with grant := (d.rtnAt n).grant, gv := (d.rtnAt n).gv })
  | _ => .next s

end Sys2Proof.Machine
end

