-- ==== Sys2Proof/Machine/Sync.lean ====
section
/-! DEFINITION. The meanings of the SYN column that act on memory of the module: atomics (R190, R191), sync objects (R192 to
R195), the fence (R196) and capability registers (R201). -/

namespace Sys2Proof.Machine

open Sys2Proof

/-! ## Accesses to a sync engine -/

/-- An access to a sync engine: home +24 + d, acknowledged or answered at +48 + 2d (R176, R244). -/
def State.startSync (s : State) (a : Access) (d kind : Nat) : State :=
  let (id, s) := s.fresh
  let a := { a with id := id, sid := s.cur.sid, issue := s.now, promise := some (s.now + 48 + 2 * d), part := s.myPart,
                    gen := s.gen s.myPart, col := s.cur.col, pc := s.cur.pc, leave := s.now }
  let s := match a.op with
    | .atomic _ _ _ _ => s.dropOwn a.sid a.addr a.len
    | _ => s
  let s := s.outstanding a.sid { id := id, page := if a.pageSize = 0 then none else some (a.page, a.pageSize),
                                 at_ := some (s.now + if a.pageSize = 0 then 48 + 2 * d else 24 + d), kind := kind,
                                 issue := s.now, addr := a.addr, len := a.len }
  (s.toHome (s.now + 24 + d) (homeKey a.sid a.issue a.col) a).push
    { cyc := s.now + 48 + 2 * d, cls := 2, key := a.sid, ins := .arrivalViolation, arg := .access a }

/-- Checks 3 and 4 of R175 for an access to a sync engine: PERM atomic, TIER 0, `n` bytes aligned to `n`. -/
def State.withEngine (s : State) (h : Handle) (off n : Nat) (k : State → State) : State :=
  if !s.handleOk h permAtomic || h.tier != 0 then s.handleFault
  else if !boundsOk h off n n then s.boundsFault
  else k s

/-! ## Scalar atomics (R190) -/

/-- A scalar atomic with code, operand and comparand. -/
def State.atomic (s : State) (g : BitVec 6) (h : BitVec 4) (c : BitVec 6) (w : BitVec 1) (code : Nat) (b : Nat) : State :=
  let x := s.me.hr h.toNat
  let off := s.me.gn c.toNat
  let n := if w = 1 then 4 else 8
  s.withEngine x off n (fun s =>
    s.startSync { op := .atomic code n (s.me.gn g.toNat % 2 ^ (8 * n)) (b % 2 ^ (8 * n)), addr := x.base + off, len := n,
                  dest := .g g.toNat, key := x.key, hnd := h.toNat, off := off, tier := 0,
                  page := x.base, pageSize := pageSize x.sz } (dieLatency (dieOf s.cur.sid) x.home) 2)

def execAadd (g : BitVec 6) (h : BitVec 4) (c : BitVec 6) (w : BitVec 1) (s : State) : Host.Outcome State Fault Refusal :=
  s.issue 1 (fun s => s.atomic g h c w 0 0)
def execAand (g : BitVec 6) (h : BitVec 4) (c : BitVec 6) (w : BitVec 1) (s : State) : Host.Outcome State Fault Refusal :=
  s.issue 1 (fun s => s.atomic g h c w 1 0)
def execAor (g : BitVec 6) (h : BitVec 4) (c : BitVec 6) (w : BitVec 1) (s : State) : Host.Outcome State Fault Refusal :=
  s.issue 1 (fun s => s.atomic g h c w 2 0)
def execAxor (g : BitVec 6) (h : BitVec 4) (c : BitVec 6) (w : BitVec 1) (s : State) : Host.Outcome State Fault Refusal :=
  s.issue 1 (fun s => s.atomic g h c w 3 0)
def execAmin (g : BitVec 6) (h : BitVec 4) (c : BitVec 6) (sn w : BitVec 1) (s : State) :
    Host.Outcome State Fault Refusal := s.issue 1 (fun s => s.atomic g h c w (if sn = 1 then 8 else 4) 0)
def execAmax (g : BitVec 6) (h : BitVec 4) (c : BitVec 6) (sn w : BitVec 1) (s : State) :
    Host.Outcome State Fault Refusal := s.issue 1 (fun s => s.atomic g h c w (if sn = 1 then 9 else 5) 0)
def execAswp (g : BitVec 6) (h : BitVec 4) (c : BitVec 6) (w : BitVec 1) (s : State) : Host.Outcome State Fault Refusal :=
  s.issue 1 (fun s => s.atomic g h c w 6 0)
/-- ACAS compares with g(A + 1); A = 63 is illegal. -/
def execAcas (g : BitVec 6) (h : BitVec 4) (c : BitVec 6) (w : BitVec 1) (s : State) : Host.Outcome State Fault Refusal :=
  s.issue 1 (fun s => if g = 63 then s.illegal else s.atomic g h c w 7 (s.me.gn (g.toNat + 1)))

/-! ## VATOM (R191) -/

/-- The application of an op code to a value type: code of `atomicNew`, or none for the floating-point add. -/
def vatomOp (o t x width : Nat) : Op :=
  if t = 1 then .fadd x
  else .atomic (if isSigned t ∧ o = 4 then 8 else if isSigned t ∧ o = 5 then 9 else o) width x 0

/-- Whether VATOM exists for an op and a value type. -/
def vatomType (o t : Nat) : Bool := o != 7 && ((11 ≤ t && t ≤ 14) || (t == 1 && o == 0))

/-- The first check that an element fails: 2 handle, 3 bounds. -/
def State.vatomCheck (s : State) (size : Nat) (x : Nat) : Option Nat :=
  let h := s.me.hr (bits x 28 4)
  if !s.handleOk h permAtomic || h.tier != 0 then some 2
  else if !boundsOk h (bits x 0 28) size size then some 3
  else none

/-- The cycles of the elements at their homes: not promised, by `bound`, at each home in ascending n. `prev` holds the last
cycle of each home die. -/
def State.vatomHomes (bound sid : Nat) : List Access → Fm Nat → State → State
  | [], _, s => s
  | a :: r, prev, s =>
    let lo := Fm.get (s.now + 1) prev (homeDie a.addr)
    let c := lo + s.drawVal % (bound - lo + 1)
    State.vatomHomes bound sid r (Fm.set prev (homeDie a.addr) c) (s.drew.toHome c (homeKey sid a.issue a.col) a)

/-- VATOM: every element passes its checks before any is applied. -/
def execVatom (v i : BitVec 5) (o : BitVec 3) (s : State) : Host.Outcome State Fault Refusal :=
  let t := shapeType s.me.shape
  let n := shapeCount s.me.shape
  let occ := cdiv n 16
  s.issue occ (fun s => s.userOnly (fun s =>
    if !vatomType o.toNat t || 1024 < n then s.illegal
    else s.withTiles [v.toNat, i.toNat] (fun s =>
      let size := typeBits t / 8
      let ix := unpack 32 n (s.tile s.cur.sid i.toNat).toNat
      let vs := unpack (8 * size) n (s.tile s.cur.sid v.toNat).toNat
      match ix.findSome? (s.vatomCheck size) with
      | some c => s.fault c
      | none =>
        let far := ix.foldl (fun m x => max m (dieLatency (dieOf s.cur.sid) (s.me.hr (bits x 28 4)).home)) 0
        let bound := s.now + occ + 48 + 2 * far
        let (id, s) := s.fresh
        let l := (ix.zip vs).zipIdx.map (fun e =>
          let (e, n) := e
          let h := s.me.hr (bits e.1 28 4)
          ({ id := id, sid := s.cur.sid, op := vatomOp o.toNat t e.2 size, addr := h.base + bits e.1 0 28, len := size,
             key := h.key, hnd := bits e.1 28 4, off := bits e.1 0 28, part := s.myPart, gen := s.gen s.myPart,
             issue := s.now, page := h.base, pageSize := pageSize h.sz, col := 6, pc := s.cur.pc, cls := 3, elem := n,
             by_ := some bound } : Access))
        let s := l.foldl (fun s a => s.dropOwn a.sid a.addr a.len) s
        let pages := (l.map (fun a => (a.page, a.pageSize))).eraseDups
        let s := pages.foldl (fun s p =>
          s.outstanding s.cur.sid { id := id, page := some p, at_ := some bound, kind := 2, issue := s.now,
                                    addr := p.1, len := p.2 }) s
        State.vatomHomes bound s.cur.sid l [] s)))

/-! ## Sync objects (R192 to R195) -/

/-- Whether a bound object's scope shuts the issuer out (R194). -/
def State.outOfScope (s : State) (o : SyncObj) : Bool :=
  !o.pages.isEmpty && !inScope o.scope o.anchor s.cur.sid (o.part == s.myPart)

/-- ACQ without try (R194): a seam instruction whose request reaches the sync engine in a cycle that is not promised. -/
def execAcq (g : BitVec 6) (h : BitVec 4) (c : BitVec 6) (sh : BitVec 1) (s : State) : Host.Outcome State Fault Refusal :=
  s.issue 1 (fun s => s.seamOnly (fun s =>
    let x := s.me.hr h.toNat
    let off := s.me.gn c.toNat
    s.withEngine x off 16 (fun s =>
      if s.outOfScope (s.syncAt (x.base + off) x.key) then s.handleFault
      else
        let (id, s) := s.fresh
        let a : Access := { id := id, sid := s.cur.sid, op := .acq (sh == 1) false, addr := x.base + off, len := 16,
                            dest := .g g.toNat, key := x.key, hnd := h.toNat, off := off, part := s.myPart,
                            gen := s.gen s.myPart, issue := s.now, leave := s.now, seam := true, col := 6, pc := s.cur.pc, cls := 3 }
        let s := s.outstanding a.sid { id := id, kind := 1, issue := s.now }
        let s := s.updMe (fun q => { q with seam := true })
        let (k, s) := s.freeHome a
        s.toHome k (homeKey a.sid a.issue a.col) a)))

/-- ACQ with try (R194): home +24 + d, result at +48 + 2d. -/
def execAcqTry (g : BitVec 6) (h : BitVec 4) (c : BitVec 6) (sh : BitVec 1) (s : State) :
    Host.Outcome State Fault Refusal :=
  s.issue 1 (fun s =>
    let x := s.me.hr h.toNat
    let off := s.me.gn c.toNat
    s.withEngine x off 16 (fun s =>
      if s.outOfScope (s.syncAt (x.base + off) x.key) then s.handleFault
      else s.startSync { op := .acq (sh == 1) true, addr := x.base + off, len := 16, dest := .g g.toNat, key := x.key,
                         hnd := h.toNat, off := off } (dieLatency (dieOf s.cur.sid) x.home) 1))

/-- BIND and UNBIND: the region handle is valid, the object is 16-byte aligned in a page with PERM atomic and TIER 0
(R192, R193); the scope is judged at issue (log entry 32). -/
def State.bindWord (s : State) (r h : BitVec 4) (g : BitVec 6) (add : Bool) : State :=
  let reg := s.me.hr r.toNat
  let x := s.me.hr h.toNat
  let v := s.me.gn g.toNat
  let off := bits v 0 28
  let scope := bits v 28 3
  if !s.valid s.myPart reg then s.handleFault
  else s.withEngine x off 16 (fun s =>
    let o := s.syncAt (x.base + off) x.key
    let page := (reg.base, pageSize reg.sz)
    if add && !o.pages.contains page && decide (8 ≤ o.pages.length) then s.boundsFault
    else
      let anchor := if o.pages.isEmpty then s.cur.sid else o.anchor
      let s := if add && s.clamped s.myPart anchor scope then s.clamp s.cur.sid s.myPart else s
      s.startSync { op := if add then .bind page.1 page.2 scope else .unbind page.1 page.2, addr := x.base + off, len := 16,
                    key := x.key, hnd := h.toNat, off := off } (dieLatency (dieOf s.cur.sid) x.home) 2)

def execBind (r h : BitVec 4) (g : BitVec 6) (s : State) : Host.Outcome State Fault Refusal :=
  s.issue 1 (fun s => s.bindWord r h g true)
def execUnbind (r h : BitVec 4) (g : BitVec 6) (s : State) : Host.Outcome State Fault Refusal :=
  s.issue 1 (fun s => s.bindWord r h g false)

/-- REL: its effect is due at issue + 48 + 2d at the earliest (R195). -/
def State.release (s : State) (h : BitVec 4) (c : BitVec 6) (mask : Nat) : State :=
  let x := s.me.hr h.toNat
  let off := s.me.gn c.toNat
  s.withEngine x off 16 (fun s =>
    let (id, s) := s.fresh
    s.push { cyc := s.now + 48 + 2 * dieLatency (dieOf s.cur.sid) x.home, cls := 5, key := s.cur.sid, ins := .relEffect,
             arg := .access { id := id, sid := s.cur.sid, addr := x.base + off, len := mask, key := x.key,
                              part := s.myPart, gen := s.gen s.myPart, issue := s.now } })

def execRel (h : BitVec 4) (c : BitVec 6) (s : State) : Host.Outcome State Fault Refusal :=
  s.issue 1 (fun s => s.release h c 0)
/-- REL with the queue modifier; an empty mask takes the fallback of R100. -/
def execRelQueues (h : BitVec 4) (c : BitVec 6) (mask : BitVec 16) (s : State) : Host.Outcome State Fault Refusal :=
  s.issue 1 (fun s => (s.release h c mask.toNat).fallback (mask == 0))

/-- Whether what a REL waits for is there (R195): earlier stores and atomics to the pages `pages`, an earlier DRAIN, and the
earlier entries of the named queues. -/
def Seq.releasable (q : Seq) (now id mask : Nat) (pages : List (Nat × Nat)) : Bool :=
  !(q.outst.any (fun o => decide (o.id < id) && !o.done now &&
      (o.kind == 6 || ((o.kind == 0 || o.kind == 2) && (match o.page with
        | some p => pages.contains p
        | none => false))))) &&
  !(q.cmds.any (fun c => decide (c.id < id) && bit mask c.q))

/-- The object after a release by `sid` (R195). -/
def SyncObj.released (o : SyncObj) (sid : Nat) : SyncObj :=
  let o := { o with seq := (o.seq + 1) % 2 ^ 32 }
  if !o.holders.contains sid then o
  else if o.hold = 0xFFFF then { o with hold := 0, holders := [] }
  else { o with hold := o.hold - 1, holders := o.holders.erase sid }

/-- A release takes effect at an object; grants of the cycle follow it (R253). The schedulers sample the object where a pending
launch depends on one (R308). -/
def State.releaseAt (s : State) (pa key sid : Nat) : State :=
  let s := s.syncFill pa key
  let s := (s.setSync pa key ((s.syncAt pa key).released sid)).push
    { cyc := s.now, cls := 6, key := pa / 16, ins := .acqGrant, arg := .access { addr := pa, key := key } }
  if s.pool.any (·.depv) then s.after 0 8 0 .schedulerPlacement (.id (pa / 16)) else s

/-- A REL by a non-holder that the hardware performs in the next cycle, before the grants of that cycle (R253). -/
def State.hwRelease (s : State) (pa key : Nat) : State :=
  s.push { cyc := s.now + 1, cls := 5, key := 0xFFFF, ins := .relEffect, arg := .access { sid := 0xFFFF, addr := pa, key := key } }

/-- REL_EFFECT (R195): in the first cycle in which everything it waits for is there. A domain that is out of service holds it
(R276). -/
def execRelEffect (s : State) : Host.Outcome State Fault Refusal :=
  match s.arg with
  | .access a =>
    if a.part ≠ 63 ∧ a.gen ≠ s.gen a.part then .next s
    else match s.heldAt a.addr with
    | some d => .next (s.withhold d a.addr 5 .relEffect (.access a))
    | none =>
    if (s.seq a.sid).releasable s.now a.id a.len (s.syncAt a.addr a.key).pages then
      .next ((s.noteSync a.sid a.col a.hnd a.off a.addr a.key).releaseAt a.addr a.key a.sid)
    else .next (s.push { cyc := s.now + 1, cls := 5, key := a.sid, ins := .relEffect, arg := .access a })
  | _ => .next s

/-! ## SFENCE (R196, R256) -/

/-- SFENCE: the scope is clamped as in R193; the MEM and SYN columns are held to completion. -/
def execSfence (q : BitVec 1) (sc : BitVec 3) (s : State) : Host.Outcome State Fault Refusal :=
  s.issue 1 (fun s =>
    let none_ := sc == 0 && q == 1
    let s := if s.clamped s.myPart s.cur.sid sc.toNat then s.clamp s.cur.sid s.myPart else s
    let (id, s) := s.fresh
    let s := (s.updMe (fun x => { x with sfence := true })).fallback none_
    s.after 1 8 s.cur.sid .sfenceComplete
      (.access { id := id, sid := s.cur.sid, cls := sc.toNat, rdc := q == 1 && !none_, part := s.myPart,
                 gen := s.gen s.myPart }))

/-- Whether every earlier access has completed, as far as the fence waits for it: remote stores for codes 4 and above, engine
entries with asy, STNT stores not before their DRAIN. -/
def Seq.fenced (q : Seq) (now id code : Nat) (asy : Bool) : Bool :=
  !(q.outst.any (fun o => decide (o.id < id) && !o.done now && o.kind != 5 && o.kind != 7 && (o.kind != 4 || decide (4 ≤ code)))) &&
  !(asy && q.cmds.any (fun c => decide (c.id < id) && !c.det))

/-- SFENCE_COMPLETE (R196): the fence releases its columns. -/
def execSfenceComplete (s : State) : Host.Outcome State Fault Refusal :=
  match s.arg with
  | .access a =>
    let q := s.seq a.sid
    if !q.sfence || (a.part != 63 && a.gen != s.gen a.part) then .next s
    else if q.fenced s.now a.id a.cls a.rdc then .next (s.setSeq a.sid { q with sfence := false })
    else .next (s.after 1 8 a.sid .sfenceComplete (.access a))
  | _ => .next s

/-! ## Capability registers (R201, R394) -/

/-- A capability with BASE, LEN and PERM replaced. -/
def Cap.with (k : Cap) (base len perm : Nat) (tag : Bool) : Cap :=
  { bits := BitVec.ofNat 128 (setBits (setBits (setBits k.bits.toNat 24 40 base) 64 40 len) 4 8 perm), tag := tag }
def Cap.peer (k : Cap) : Nat := Machine.bits k.bits.toNat 0 4
def Cap.perm (k : Cap) : Nat := Machine.bits k.bits.toNat 4 8
def Cap.expid (k : Cap) : Nat := Machine.bits k.bits.toNat 12 12
def Cap.base (k : Cap) : Nat := Machine.bits k.bits.toNat 24 40
def Cap.len (k : Cap) : Nat := Machine.bits k.bits.toNat 64 40

def execKmov (a b : BitVec 4) (s : State) : Host.Outcome State Fault Refusal :=
  s.issue 1 (fun s => s.land 2 [.k a.toNat (s.me.kr b.toNat)])
/-- KNARROW: a range outside the capability's leaves the value untagged. -/
def execKnarrow (a b : BitVec 4) (g : BitVec 6) (s : State) : Host.Outcome State Fault Refusal :=
  s.issue 1 (fun s =>
    if g = 63 then s.illegal
    else
      let k := s.me.kr b.toNat
      let off := s.me.gn g.toNat
      let len := s.me.gn (g.toNat + 1)
      s.land 2 [.k a.toNat (k.with (k.base + off) len k.perm (k.tag && off ≤ k.len && off + len ≤ k.len))])
def execKperm (a b : BitVec 4) (i : BitVec 8) (s : State) : Host.Outcome State Fault Refusal :=
  s.issue 1 (fun s =>
    let k := s.me.kr b.toNat
    s.land 2 [.k a.toNat (k.with k.base k.len (k.perm &&& i.toNat) k.tag)])
/-- KLD: the granule and its hidden tag; M = 3 is illegal. -/
def execKld (a h : BitVec 4) (c : BitVec 6) (m : BitVec 2) (s : State) : Host.Outcome State Fault Refusal :=
  s.issue 1 (fun s =>
    if m = 3 then s.illegal
    else s.globalLoad (.cap a.toNat) h (s.me.gn c.toNat) 16 16 (timedClass m) false .normal)
/-- KST: the granule and its hidden tag; M = 3 is illegal. -/
def execKst (a h : BitVec 4) (c : BitVec 6) (m : BitVec 2) (s : State) : Host.Outcome State Fault Refusal :=
  s.issue 1 (fun s =>
    if m = 3 then s.illegal
    else
      let k := s.me.kr a.toNat
      s.globalStore h (s.me.gn c.toNat) 16 16 k.bits.toNat none (timedClass m) false .normal 0 k.tag)

end Sys2Proof.Machine
end

