-- ==== Sys2Proof/Machine/Gates.lean ====
section
/-! DEFINITION. Gates (R197, R198, R351 to R360): the gate words, the gate table in H, its token buckets, versions and
waiters, and the operations of the hypervisor on gate records. -/

namespace Sys2Proof.Machine

open Sys2Proof

/-! ## The gate table -/

/-- Gate record `n`. -/
def State.gate (s : State) (n : Nat) : Gate := Fm.get {} s.gates n
/-- The state with gate `n` replaced. -/
def State.setGate (s : State) (n : Nat) (g : Gate) : State := { s with gates := Fm.set s.gates n g }

/-- The key of a request in its cycle (R197, R358): step 1 GCMD, 2 refill, 3 admission, 4 version effect, 5 GTAKE and
GSTAT; then partition, then SEQID. -/
def gateKey (step k : Nat) : Nat := step * 2 ^ 80 + k
def GateReq.key (r : GateReq) (step : Nat) : Nat := gateKey step (r.part * 8192 + r.sid)

/-- The valid ACL entry of a partition (R351). -/
def Gate.entry (g : Gate) (part : Nat) : Option Nat := g.acl.find? (fun e => bit e 9 && bits e 0 6 == part)

/-- The checks of R354 for a right (6 PASS, 7 TAKE, 8 QUERY): 0, or the reason of the failure. -/
def State.gateReason (s : State) (r : GateReq) (right : Nat) : Nat :=
  let g := s.gate r.gate
  if 4096 ≤ r.gate ∨ g.st = 0 ∨ r.part = 63 then 1
  else
    let held : Option Bool := if r.part = g.owner then some true else (g.entry r.part).map (fun e => bit e right)
    match held with
    | none => 1
    | some false => 2
    | some true => if g.st = 3 ∧ right ≠ 8 then 3 else 0

/-- Whether the request still belongs to its partition's generation (R342). -/
def State.current (s : State) (r : GateReq) : Bool := r.part == 63 || r.gen == s.gen r.part

/-- GFLT of a partition record (R337); none is written for a management sequencer. -/
def State.writeGflt (s : State) (r : GateReq) (reason : Nat) : State :=
  if r.part = 63 then s
  else s.updPart r.part (fun p => p.put 0x260 8 (r.gate % 4096 + reason * 4096 + s.ptime r.part % 2 ^ 48 * 65536))

/-- The cycle at which a GPASS or GSTAT writes its result: +48 + 2d (R197). -/
def GateReq.result (r : GateReq) : Nat := r.issue + 48 + 2 * dieLatency (dieOf r.sid) 8

/-! ## Tokens (R355) -/

/-- The first cycle at or after `c` at which the owner's partition time is a multiple of 2^N, if it keeps running. -/
def State.refillAt (s : State) (g : Gate) (c : Nat) : Nat :=
  let t := s.ptime g.owner + (c - s.now)
  c + (2 ^ g.n - t % 2 ^ g.n) % 2 ^ g.n

/-- The next refill of a gate goes on the agenda in place of the one that is there. -/
def State.armRefill (s : State) (n c : Nat) : State :=
  let t : State := { s with agenda := s.agenda.filter (fun e => !(decide (e.ins = .gateRefill) && decide (e.arg = .gate n))) }
  t.push { cyc := s.refillAt (s.gate n) c, cls := 7, key := gateKey 2 0, ins := .gateRefill, arg := .gate n }

/-- GATE_REFILL: only an active gate refills, and only while its owner's time runs. -/
def execGateRefill (s : State) : Host.Outcome State Fault Refusal :=
  match s.arg with
  | .gate n =>
    let g := s.gate n
    if g.st ≠ 1 then .next s
    else
      let on := (s.part g.owner).stood.isNone && s.ptime g.owner % 2 ^ g.n == 0
      let s := if on then s.setGate n { g with level := min g.burst (g.level + g.rate) } else s
      .next (s.armRefill n (s.now + 1))
  | _ => .next s

/-! ## Passes (R197, R355, R356) -/

/-- GPASS: its request reaches the table at +24 + d. -/
def execGpass (p : BitVec 4) (g : BitVec 6) (s : State) : Host.Outcome State Fault Refusal :=
  s.issue 1 (fun s =>
    let (id, s) := s.fresh
    let r : GateReq := { sid := s.cur.sid, part := s.myPart, gen := s.gen s.myPart, gate := s.me.gn g.toNat, dst := p.toNat,
                         id := id, issue := s.now }
    s.after (24 + dieLatency (dieOf r.sid) 8) 7 (r.key 3) .gatePassAdmit (.greq r))

/-- GATE_PASS_ADMIT: a failed check is a gate fault at the result cycle; else the pass is admitted with the next version or
throttled. -/
def execGatePassAdmit (s : State) : Host.Outcome State Fault Refusal :=
  match s.arg with
  | .greq r =>
    if !s.current r then .next s
    else
      let reason := s.gateReason r 6
      let g := s.gate r.gate
      if reason ≠ 0 then
        .next ((s.writeGflt r reason).landAt r.sid 6 r.issue r.result [.p r.dst false, .event 0x13 6])
      else if !g.unl && g.level == 0 then .next (s.landAt r.sid 6 r.issue r.result [.p r.dst false])
      else
        let v := (g.adm + 1) % 2 ^ 64
        let s := s.setGate r.gate { g with
          level := if g.unl then g.level else g.level - 1, adm := v, passes := g.passes ++ [{ ver := v, req := r }] }
        let s := s.landAt r.sid 6 r.issue r.result [.p r.dst true]
        .next (s.push { cyc := r.result, cls := 7, key := gateKey 4 v, ins := .gateVersionEffect, arg := .gver r.gate v })
  | _ => .next s

/-- Whether an earlier store or atomic of the sender to the gate's region is not visible yet, or an earlier DRAIN, by which its
STNT stores are, is not complete by cycle `c` (R195, R197). -/
def State.pendingBy (s : State) (c : Nat) (g : Gate) (r : GateReq) : Bool :=
  (s.seq r.sid).outst.any (fun o => decide (o.id < r.id) && !o.done c && (o.kind == 6 ||
    ((o.kind == 0 || o.kind == 2) && o.page.isSome &&
      decide (o.addr < g.base + 65536 * g.size) && decide (g.base < o.addr + o.len))))
/-- The same for the present cycle. -/
def State.regionPending (s : State) (g : Gate) (r : GateReq) : Bool := s.pendingBy s.now g r

/-- The takers of a gate that a version answers, in the order of R197. -/
def State.wakeTakers (s : State) (n : Nat) : State :=
  if (s.gate n).waiters.isEmpty then s
  else s.push { cyc := s.now, cls := 7, key := gateKey 5 0, ins := .gateTakeComplete, arg := .gate n }

/-- GATE_VERSION_EFFECT (R356): in the first cycle from cR on in which every earlier version is effective. A pass that was
discarded (R346) never becomes effective. -/
def execGateVersionEffect (s : State) : Host.Outcome State Fault Refusal :=
  match s.arg with
  | .gver n v =>
    let g := s.gate n
    match g.passes with
    | [] => .next s
    | x :: rest =>
      if !g.passes.any (fun y => y.ver == v) then .next s
      else if x.ver = v ∧ !s.regionPending g x.req then
        .next ((s.setGate n { g with ver := v, passes := rest }).wakeTakers n)
      else .next (s.push { cyc := s.now + 1, cls := 7, key := gateKey 4 v, ins := .gateVersionEffect, arg := .gver n v })
  | _ => .next s

/-! ## Takers (R197, R357) -/

/-- A taker completes in a cycle that is not promised; RDC lines of the region on its die are dropped (R197). -/
def State.takeDone (s : State) (n : Nat) (r : GateReq) : State :=
  let g := s.gate n
  let s := s.dropRdcRange (· == dieOf r.sid) g.base (65536 * g.size)
  s.drew.landAt r.sid 6 r.issue (s.now + s.drawVal) [.g r.dst (BitVec.ofNat 64 g.ver), .retire r.id, .seamEnd]

/-- A taker ends with a gate fault: it returns and leaves gv unchanged (R198). -/
def State.takeFault (s : State) (r : GateReq) (reason : Nat) : State :=
  (s.writeGflt r reason).drew.landAt r.sid 6 r.issue (s.now + s.drawVal) [.event 0x13 6, .retire r.id, .seamEnd]

/-- GTAKE: a seam instruction; its request reaches the table in a cycle that is not promised. -/
def execGtake (v g : BitVec 6) (s : State) : Host.Outcome State Fault Refusal :=
  s.issue 1 (fun s => s.seamOnly (fun s =>
    let (id, s) := s.fresh
    let r : GateReq := { sid := s.cur.sid, part := s.myPart, gen := s.gen s.myPart, gate := s.me.gn g.toNat, dst := v.toNat,
                         gv := s.me.gn v.toNat, id := id, issue := s.now }
    let s := s.outstanding r.sid { id := id, kind := 1, issue := s.now }
    let s := s.updMe (fun q => { q with seam := true, pc := s.cur.pc })
    s.drew.after (1 + s.drawVal) 7 (r.key 5) .gateTakeArrival (.greq r)))

/-- GATE_TAKE_ARRIVAL. -/
def execGateTakeArrival (s : State) : Host.Outcome State Fault Refusal :=
  match s.arg with
  | .greq r =>
    if !s.current r then .next s
    else
      let reason := s.gateReason r 7
      let g := s.gate r.gate
      if reason ≠ 0 then .next (s.takeFault r reason)
      else if r.gv < g.ver then .next (s.takeDone r.gate r)
      else .next (s.setGate r.gate { g with waiters := g.waiters ++ [r] })
  | _ => .next s

/-- GATE_TAKE_COMPLETE: every waiting taker with gv < VER. -/
def execGateTakeComplete (s : State) : Host.Outcome State Fault Refusal :=
  match s.arg with
  | .gate n =>
    let g := s.gate n
    let s := s.setGate n { g with waiters := g.waiters.filter (fun r => !decide (r.gv < g.ver)) }
    .next ((g.waiters.filter (fun r => decide (r.gv < g.ver))).foldl (fun s r => s.takeDone n r) s)
  | _ => .next s

/-- GSTAT: sampled at +24 + d, written at +48 + 2d. -/
def execGstat (d g : BitVec 6) (s : State) : Host.Outcome State Fault Refusal :=
  s.issue 1 (fun s =>
    let r : GateReq := { sid := s.cur.sid, part := s.myPart, gen := s.gen s.myPart, gate := s.me.gn g.toNat, dst := d.toNat,
                         issue := s.now }
    s.after (24 + dieLatency (dieOf r.sid) 8) 7 (r.key 5) .gateStatusSample (.greq r))

/-- GATE_STATUS_SAMPLE. -/
def execGateStatusSample (s : State) : Host.Outcome State Fault Refusal :=
  match s.arg with
  | .greq r =>
    if !s.current r then .next s
    else
      let reason := s.gateReason r 8
      let g := s.gate r.gate
      if reason ≠ 0 then
        .next ((s.writeGflt r reason).landAt r.sid 6 r.issue r.result [.g r.dst 0, .event 0x13 6])
      else
        .next (s.landAt r.sid 6 r.issue r.result [.g r.dst (BitVec.ofNat 64
          (g.ver % 2 ^ 32 + g.level % 65536 * 2 ^ 32 + (if g.st = 2 then 2 ^ 48 else 0) + (if g.st = 3 then 2 ^ 49 else 0)))])
  | _ => .next s

/-! ## Gate records (R351 to R353, R359, R360) -/

/-- GW0 to GW7 of a record, word `i` (R351). -/
def Gate.word (g : Gate) (i : Nat) : Nat :=
  let acl4 (k : Nat) : Nat := (List.range 4).foldl (fun a e => a + g.acl.getD (k + e) 0 % 1024 * 2 ^ (16 * e)) 0
  match i with
  | 0 => g.owner + g.st * 64 + (if g.unl then 256 else 0) + g.n * 512 + g.rate * 2 ^ 16 + g.burst * 2 ^ 32 + g.level * 2 ^ 48
  | 1 => g.ver
  | 2 => g.adm
  | 3 => g.base
  | 4 => g.size + g.key * 2 ^ 13
  | 5 => acl4 0
  | 6 => acl4 4
  | 7 => g.waiters.length % 2 ^ 14
  | _ => 0

/-- The RW fields of staged or exported words loaded over a record. -/
def Gate.load (g : Gate) (w : Nat → Nat) : Gate :=
  { g with
    owner := bits (w 0) 0 6, unl := bit (w 0) 8, n := bits (w 0) 9 5, rate := bits (w 0) 16 16, burst := bits (w 0) 32 16
    base := bits (w 3) 16 36 * 65536, size := bits (w 4) 0 13, key := bits (w 4) 13 11
    acl := (List.range 8).map (fun e => bits (w (5 + e / 4)) (16 * (e % 4)) 10) }

/-- The staging copy of GW0 to GW7 (R352). -/
def State.staged (s : State) (i : Nat) : Nat := (Fm.get 0 s.hub.stage i).toNat

/-- GST after an operation: 0 done, 1 BUSY, 2 invalid. -/
def State.gst (s : State) (x : Nat) : State := { s with hub := { s.hub with gst := x } }

/-- Whether a partition's record names a key id (R337). -/
def Part.hasKey (p : Part) (k : Nat) : Bool :=
  (List.range 32).any (fun i => let e := p.get (0x190 + 2 * i) 2; bit e 15 && bits e 0 11 == k)

/-- Whether some partition holds a key id. -/
def State.keyHeld (s : State) (k : Nat) : Bool := s.parts.any (fun e => e.2.get 2 1 != 0 && e.2.hasKey k)

/-- Whether a region overlaps the region of another gate that is not free. -/
def State.regionTaken (s : State) (n base size : Nat) : Bool :=
  s.gates.any (fun e => e.1 != n && e.2.st != 0 && decide (base < e.2.base + 65536 * e.2.size) &&
    decide (e.2.base < base + 65536 * size))

/-- A key id that holds no key gets one from the security processor (R299; log entry 33). -/
def State.giveKey (s : State) (k : Nat) : State :=
  if s.keyNum k = 0 then { s with keys := Fm.set s.keys k (s.keyNext + 1), keyNext := s.keyNext + 1 } else s

/-- The key of a key id replaced (R343). -/
def State.newKey (s : State) (k : Nat) : State :=
  { s with keys := Fm.set s.keys k (s.keyNext + 1), keyNext := s.keyNext + 1 }

/-- GATE_CREATE (operation 1). -/
def execGateCreate (s : State) : Host.Outcome State Fault Refusal :=
  match s.arg with
  | .gate n =>
    let g : Gate := ({} : Gate).load s.staged
    if (s.gate n).st ≠ 0 ∨ (g.burst = 0 ∧ !g.unl) ∨ s.keyHeld g.key ∨ s.regionTaken n g.base g.size then .next (s.gst 2)
    else .next ((((s.setGate n { g with st := 1, level := g.burst }).giveKey g.key).armRefill n s.now).gst 0)
  | _ => .next s

/-- GATE_UPDATE (operation 2): a waiter that loses its TAKE right ends with reason 2 (R354). -/
def execGateUpdate (s : State) : Host.Outcome State Fault Refusal :=
  match s.arg with
  | .gate n =>
    let g := s.gate n
    if g.st ≠ 1 ∧ g.st ≠ 2 then .next (s.gst 2)
    else
      let w := g.load s.staged
      let g' := { g with acl := w.acl, unl := w.unl, n := w.n, rate := w.rate, burst := w.burst, level := min g.level w.burst }
      let keeps (r : GateReq) : Bool := r.part == g'.owner || (match g'.entry r.part with
        | some e => bit e 7
        | none => false)
      let s := s.setGate n { g' with waiters := g'.waiters.filter keeps }
      let s := (g'.waiters.filter (fun r => !keeps r)).foldl (fun s r => s.takeFault r 2) s
      .next ((if g.st = 1 then s.armRefill n s.now else s).gst 0)
  | _ => .next s

/-- GATE_REVOKE (operation 3): waiters end with a gate fault. -/
def execGateRevoke (s : State) : Host.Outcome State Fault Refusal :=
  match s.arg with
  | .gate n =>
    let g := s.gate n
    if g.st ≠ 1 ∧ g.st ≠ 2 then .next (s.gst 2)
    else .next ((g.waiters.foldl (fun s r => s.takeFault r 3) (s.setGate n { g with st := 3, waiters := [] })).gst 0)
  | _ => .next s

/-- GATE_FREE (operation 4): region and record zeroed. -/
def execGateFree (s : State) : Host.Outcome State Fault Refusal :=
  match s.arg with
  | .gate n =>
    let g := s.gate n
    if g.st ≠ 3 then .next (s.gst 2)
    else .next (((s.poke g.base (65536 * g.size) 0 g.key).setGate n {}).gst 0)
  | _ => .next s

/-- A gate becomes frozen (R359). -/
def State.freezeGate (s : State) (n : Nat) : State := s.setGate n { s.gate n with st := 2 }
/-- A gate becomes active again; refills resume in this cycle. -/
def State.thawGate (s : State) (n : Nat) : State := (s.setGate n { s.gate n with st := 1 }).armRefill n s.now

/-- GATE_FREEZE (operation 5). -/
def execGateFreeze (s : State) : Host.Outcome State Fault Refusal :=
  match s.arg with
  | .gate n => .next (if (s.gate n).st = 1 then (s.freezeGate n).gst 0 else s.gst 2)
  | _ => .next s

/-- Whether a partition has a task placed or ready: running, placed and not begun, or saved. -/
def State.hasTasks (s : State) (part : Nat) : Bool :=
  s.seqs.any (fun e => e.2.run != .idle && e.2.run != .placed && !isMgmt e.1 && e.2.task.part == part) ||
  s.pool.any (fun l => l.part == part && l.placed.isSome) ||
  s.saved.any (fun x => (x.ready || x.placed.isSome) && x.task.part == part)
/-- Whether a partition is frozen: its time stands, or it is free. -/
def State.partFrozen (s : State) (part : Nat) : Bool := (s.part part).stood.isSome || s.pstate part == 0

/-- GATE_EXPORT (operation 6): 64 bytes at GADDR; refused as BUSY while a partition of the ACL has a task placed or ready (R353),
or is not frozen too (R360). -/
def execGateExport (s : State) : Host.Outcome State Fault Refusal :=
  match s.arg with
  | .gate n =>
    let g := s.gate n
    if g.st ≠ 2 then .next (s.gst 2)
    else if g.acl.any (fun e => bit e 9 && (s.hasTasks (bits e 0 6) || !s.partFrozen (bits e 0 6))) then .next (s.gst 1)
    else
      let x := (List.range 8).foldl (fun a i => a + g.word i * 2 ^ (64 * i)) 0
      .next (((s.poke s.hub.gaddr 64 x 0).setGate n {}).gst 0)
  | _ => .next s

/-- GATE_IMPORT (operation 7): in place OWNER, BASE, SIZE and KEY come from staging and the rest goes on (R359); a free record
loads the words exported at GADDR (R360). -/
def execGateImport (s : State) : Host.Outcome State Fault Refusal :=
  match s.arg with
  | .gate n =>
    let g := s.gate n
    if g.st = 2 then
      let w := g.load s.staged
      .next (((s.setGate n { g with owner := w.owner, base := w.base, size := w.size, key := w.key }).thawGate n).gst 0)
    else if g.st = 0 then
      let x := (s.peek s.hub.gaddr 64 0).1
      let w (i : Nat) : Nat := bits x (64 * i) 64
      .next ((((s.setGate n { ({} : Gate).load w with level := bits (w 0) 48 16, ver := w 1, adm := w 2 }).thawGate n).giveKey
        (bits (w 4) 13 11)).gst 0)
    else .next (s.gst 2)
  | _ => .next s

end Sys2Proof.Machine
end

