-- ==== Sys2Proof/Machine/Remote.lean ====
section
/-! DEFINITION. Capabilities and windows toward other modules (R199, R200, R202, R262, R263, R394 to R397): the words of the
issuing module, the home agent that performs operations of a peer, replies, acknowledgements and error completions. -/

namespace Sys2Proof.Machine

open Sys2Proof

/-! ## Links and egress checks -/

/-- The egress check of R199: tag, permission bit, alignment, extent, and a linked peer other than this module. -/
def State.egressOk (s : State) (k : Cap) (perm off n al : Nat) : Bool :=
  k.tag && bit k.perm perm && off % al == 0 && decide (off + n ≤ k.len) && k.peer != s.hub.modn && s.linked k.peer

/-! ## Requests -/

/-- A packet leaves on the path from the present sequencer to a peer (R262): a store or a flag takes the next path sequence number,
another operation carries the present one (log entry 97). Kind 4 of the outstanding accesses is a remote store. A request that stays unanswered ends after the bound of R301. -/
def State.sendRemote (s : State) (a : Access) (p : Packet) (store : Bool) : State :=
  let (id, s) := s.fresh
  let sid := s.cur.sid
  let path : Path := Fm.get {} s.me.paths p.dst
  let flag := p.op == 5
  let seq := if store then path.seq + 1 else path.seq
  let p := { p with src := s.hub.modn, sid := sid, part := s.myPart, gen := s.gen s.myPart, pseq := seq,
                    count := if flag then path.since else p.count, id := id }
  let path' : Path := { seq := seq, since := if flag then 0 else if store then path.since + 1 else path.since }
  let a := { a with id := id, sid := sid, part := p.part, gen := p.gen, issue := s.now, col := 6, pc := s.cur.pc,
                    off := p.off, hnd := 0, leave := s.now, seam := !store, task := (s.me.task.launch, s.me.task.index) }
  let s := s.outstanding sid { id := id, kind := if store then 4 else 1, issue := s.now }
  let s := s.updMe (fun q => { q with paths := Fm.set q.paths p.dst path', seam := q.seam || !store })
  let s : State := { s.emit p with awaiting := s.awaiting ++ [{ pkt := p, acc := a }] }
  s.after Config.timeout 1 sid .requestTimeout (.access a)

/-- A packet toward the target of a capability. -/
def Cap.packet (k : Cap) (op off len : Nat) (ops : List Nat) (data : Nat) : Packet :=
  { op := op, dst := k.peer, expid := k.expid, base := k.base, off := k.base + off, len := len, ops := ops, data := data }

def execCld (g : BitVec 6) (k : BitVec 4) (c : BitVec 6) (s : State) : Host.Outcome State Fault Refusal :=
  s.issue 1 (fun s => s.seamOnly (fun s =>
    let x := s.me.kr k.toNat
    let off := s.me.gn c.toNat
    if !s.egressOk x 0 off 8 8 then s.capFault
    else s.sendRemote { dest := .g g.toNat, len := 8 } (x.packet 0 off 8 [] 0) false))

/-- CST; with rel the store is a release flag. -/
def execCst (g : BitVec 6) (k : BitVec 4) (c : BitVec 6) (r : BitVec 1) (s : State) : Host.Outcome State Fault Refusal :=
  s.issue 1 (fun s =>
    let x := s.me.kr k.toNat
    let off := s.me.gn c.toNat
    if !s.egressOk x 1 off 8 8 then s.capFault
    else s.sendRemote { op := .write } (x.packet (if r = 1 then 5 else 1) off 8 [] (s.me.gn g.toNat)) true)

def execCldv (v : BitVec 5) (k : BitVec 4) (c : BitVec 6) (s : State) : Host.Outcome State Fault Refusal :=
  s.tileForm 1 v (fun s => s.seamOnly (fun s =>
    let x := s.me.kr k.toNat
    let off := s.me.gn c.toNat
    let n := shapeBytes s.me.shape
    if !s.egressOk x 0 off n 64 then s.capFault
    else s.sendRemote { dest := .tile v.toNat, len := n } (x.packet 0 off n [] 0) false))

def execCstv (v : BitVec 5) (k : BitVec 4) (c : BitVec 6) (s : State) : Host.Outcome State Fault Refusal :=
  s.tileForm s.memOcc v (fun s =>
    let x := s.me.kr k.toNat
    let off := s.me.gn c.toNat
    let n := shapeBytes s.me.shape
    if !s.egressOk x 1 off n 64 then s.capFault
    else s.sendRemote { op := .write }
      (x.packet 1 off n [] ((s.tile s.cur.sid v.toNat).toNat % 2 ^ (8 * n))) true)

/-- RCAS2 (R200): A + 2n past g63 is illegal. -/
def execRcas2 (g : BitVec 6) (k : BitVec 4) (c : BitVec 6) (n : BitVec 2) (s : State) : Host.Outcome State Fault Refusal :=
  s.issue 1 (fun s =>
    let m := n.toNat + 1
    if 63 < g.toNat + 2 * m then s.illegal
    else s.seamOnly (fun s =>
      let x := s.me.kr k.toNat
      let off := s.me.gn c.toNat
      if !s.egressOk x 2 off (8 * m) 8 then s.capFault
      else s.sendRemote { dest := .g g.toNat, len := m }
        (x.packet 2 off m ((List.range (2 * m)).map (fun i => s.me.gn (g.toNat + i))) 0) false))

/-- RENQ (R200): the header at the offset is 16 bytes. -/
def execRenq (g : BitVec 6) (k : BitVec 4) (c : BitVec 6) (s : State) : Host.Outcome State Fault Refusal :=
  s.issue 1 (fun s => s.seamOnly (fun s =>
    let x := s.me.kr k.toNat
    let off := s.me.gn c.toNat
    if !s.egressOk x 2 off 16 8 then s.capFault
    else s.sendRemote { dest := .g g.toNat, len := 1 } (x.packet 3 off 16 [s.me.gn g.toNat] 0) false))

/-- RCHASE (R200): A = 63 is illegal; a node is 32 bytes. -/
def execRchase (g : BitVec 6) (k : BitVec 4) (c : BitVec 6) (s : State) : Host.Outcome State Fault Refusal :=
  s.issue 1 (fun s =>
    if g = 63 then s.illegal
    else s.seamOnly (fun s =>
      let x := s.me.kr k.toNat
      let off := s.me.gn c.toNat
      if !s.egressOk x 0 off 32 8 then s.capFault
      else s.sendRemote { dest := .g g.toNat, len := 2 } (x.packet 4 off 32 [s.me.gn g.toNat] 0) false))

/-! ## Windows (R202, R397) -/

/-- The window entry that gw names; none where it is invalid, the offset lies outside, or the peer is not linked. -/
def State.windowOf (s : State) (gw : Nat) (off : Nat) (store : Bool) : Option Nat :=
  if 48 ≤ s.myPart then none
  else
    let (e, bad) := s.peek (Fm.get 0 s.hub.wtb s.myPart + 16 * (gw % 65536)) 16 0
    if bad || !bit e 4 || (store && !bit e 5) || off % 8 != 0 || decide (bits e 58 40 < off + 8) ||
        bits e 0 4 == s.hub.modn || !s.linked (bits e 0 4) then none
    else some e

/-- A packet through a window. -/
def windowPacket (e op off data : Nat) : Packet :=
  { op := op, dst := bits e 0 4, expid := bits e 6 12, base := bits e 18 40, off := bits e 18 40 + off, len := 8, data := data,
    window := some (bits e 98 30) }

def execWld (g w c : BitVec 6) (s : State) : Host.Outcome State Fault Refusal :=
  s.issue 1 (fun s => s.seamOnly (fun s =>
    let off := s.me.gn c.toNat
    match s.windowOf (s.me.gn w.toNat) off false with
    | none => s.capFault
    | some e => s.sendRemote { dest := .g g.toNat, len := 8 } (windowPacket e 0 off 0) false))

def execWst (g w c : BitVec 6) (s : State) : Host.Outcome State Fault Refusal :=
  s.issue 1 (fun s =>
    let off := s.me.gn c.toNat
    match s.windowOf (s.me.gn w.toNat) off true with
    | none => s.capFault
    | some e => s.sendRemote { op := .write } (windowPacket e 1 off (s.me.gn g.toNat)) true)

/-! ## Replies (R396, R388) -/

/-- The request that a packet answers. -/
def State.awaited (s : State) (id : Nat) : Option Awaited := s.awaiting.find? (fun w => w.pkt.id == id)
/-- The request is answered. -/
def State.answered (s : State) (id : Nat) : State :=
  { s with awaiting := s.awaiting.filter (fun w => w.pkt.id != id) }

/-- Registers g(n), g(n + 1) and so on. -/
def gLands (n : Nat) (l : List Nat) : List Land := (l.zipIdx).map (fun e => .g (n + e.2) (BitVec.ofNat 64 e.1))

/-- A request completes with the values of its reply. A tier 3 access delivers through the path of a load; a read that failed
delivers zeros and records ERRS with HND = 0 and the offset (R395). -/
def State.complete (s : State) (w : Awaited) (ops : List Nat) (data : Nat) (bad : Bool) (ctags : Nat := 0) : State :=
  let a := w.acc
  let s := s.answered w.pkt.id
  if a.part ≠ 63 ∧ a.gen ≠ s.gen a.part then s
  else match a.chunk with
  | some (id, n) =>
    s.push { cyc := s.now, cls := 4, key := engineKey a.sid a.issue, ins := .cpydDone,
             arg := .chunkReply id n (if bad then 0 else data) ops (if bad then some 0 else none) (w.pkt.op == 13) }
  | none =>
  match a.dest with
  | .move die ord =>
    s.push { cyc := s.now, cls := 8, key := die, ins := .tierMoveDone,
             arg := .moveReply die ord (if bad then 0 else data) ops ctags bad (w.pkt.op == 13) }
  | _ =>
  match w.pkt.op with
    | 1 | 5 | 13 => s.visibleAt a.sid a.id (some s.now)
    | 2 | 3 | 4 =>
      let n := match a.dest with | .g n => n | _ => 0
      let lands :=
        if w.pkt.op = 2 then gLands n ((List.range w.pkt.len).map (fun i => ops.getD i 0)) ++
          gLands (n + 2 * w.pkt.len) [ops.getD w.pkt.len 0]
        else if w.pkt.op = 3 then gLands n [ops.getD 0 0]
        else gLands n [ops.getD 0 0, ops.getD 1 0]
      let s := landRegs s a.sid (lands ++ [.retire a.id, .seamEnd])
      if bad then s.uncorrectable a.sid a.col 0 a.off else s
    | _ =>
      s.push { cyc := max s.now (a.promise.getD 0), cls := 1, key := landKey a.issue a.sid a.col, ins := .loadDataDelivery,
               arg := .deliver a (if bad then 0 else data) (if bad then List.replicate (cdiv a.len 64) 0x7F00 else ops)
                 (!bad && bit ctags 0) bad }

/-- The task that issued a refused window access ends with the capability fault, if it is on its half still (R202, R328). -/
def State.refusedWindow (s : State) (a : Access) : State :=
  let q := s.seq a.sid
  if q.endable && (isMgmt a.sid || decide ((q.task.launch, q.task.index) = a.task)) then s.endTask a.sid 6 6 a.pc else s

/-- REMOTE_REPLY_ARRIVAL: reply, acknowledgement of a store, or the error completion of a WLD, which raises a capability fault
(R202). `count` is 1 where the peer discarded the access (R395). -/
def execRemoteReplyArrival (s : State) : Host.Outcome State Fault Refusal :=
  match s.arg with
  | .packet p =>
    match s.awaited p.id with
    | none => .next s
    | some w =>
      if p.op = 8 then
        .next ((landRegs (s.answered p.id) w.acc.sid [.retire w.acc.id, .seamEnd]).refusedWindow w.acc)
      else .next (s.complete w p.ops p.data (p.count == 1) p.ctags)
  | _ => .next s

/-- WST_ERROR_COMPLETION (R202): a refused window store raises a capability fault when its error completion arrives. -/
def execWstErrorCompletion (s : State) : Host.Outcome State Fault Refusal :=
  match s.arg with
  | .packet p =>
    match s.awaited p.id with
    | none => .next s
    | some w =>
      .next (((s.answered p.id).visibleAt w.acc.sid w.acc.id (some s.now)).refusedWindow w.acc)
  | _ => .next s

/-- The blocks of a range of this module are marked poisoned (R301). -/
def State.poison (s : State) (pa n : Nat) : State :=
  (blocksOf pa n).foldl (fun s t =>
    let b := (s.place t.1).loc / 64
    if s.bad.contains b then s else { s with bad := b :: s.bad }) s

/-- Whether two subjects are one access: a chunk that is read again is another. -/
def Access.isSame (a b : Access) : Bool := b.id == a.id && b.sid == a.sid && b.chunk == a.chunk && b.issue == a.issue
/-- Whether an event is what is left of a request of tier 1 or 2: it has not had its home cycle, or its data is on the way. -/
def Ev.late (e : Ev) (a : Access) : Bool :=
  match e.arg with
  | .access b => e.ins == .accessHomeCycle && b.isSame a
  | .deliver b _ _ _ _ => b.isSame a
  | _ => false
/-- A request of tier 1 or 2 that is unanswered after the bound: it leaves, and completes as R301 says. -/
def State.lateAt (s : State) (a : Access) : State :=
  match s.agenda.find? (·.late a) with
  | some e =>
    let t : State := { s with agenda := s.agenda.filter (fun e => !e.late a) }
    match e.arg with
    | .access b => if b.op = .write then (t.poison b.addr b.len).wrote b else t.errorAt b
    | _ => landRegs t a.sid (t.loadLands a 0 (List.replicate (cdiv a.len 64) 0x7F00) false ++
        [.retire a.id, .bad a.col a.hnd a.off] ++ if a.seam then [.seamEnd] else [])
  | none => s

/-- REQUEST_TIMEOUT (R301): of a request that is still unanswered, a read completes as uncorrectable, a store is discarded and
its blocks are marked poisoned at a home that can be reached. -/
def execRequestTimeout (s : State) : Host.Outcome State Fault Refusal :=
  match s.arg with
  | .access a =>
    match s.awaited a.id with
    | none => .next (s.lateAt a)
    | some w =>
      if w.acc.chunk ≠ a.chunk ∨ w.acc.issue ≠ a.issue then .next s
      else
      let s := s.complete w [] 0 true
      .next (if w.pkt.op = 13 ∧ s.linked w.pkt.dst then s.emit { w.pkt with op := 14, data := 0, ops := [] } else s)
  | _ => .next s

/-! ## The home agent (R262, R395, R396) -/

/-- Export-table entry `n`. -/
def State.exportAt (s : State) (n : Nat) : Export := Fm.get { } s.exports n

/-- The number of the key that a block was last written under: in the L2, in the write buffer, in DRAM; 0 is none. -/
def State.writtenKey (s : State) (pa : Nat) : Nat :=
  let p := s.place pa
  match s.lineOf p pa with
  | some l => s.keyNum l.key
  | none =>
    let n := sealKey (Fm.get 0 s.bkey (p.loc / 64))
    if p.cached then (Fm.get [] s.wbuf (sliceKey p)).foldl (fun n e => if e.loc = p.loc then s.keyNum e.key else n) n else n

/-- The key id of the page of a block that a partition owns: the id that holds the key the block was written under, else the
partition's first that holds a key (log entry 34). -/
def State.pageKey (s : State) (part pa : Nat) : Nat :=
  let ids := (List.range 32).filterMap (fun i =>
    let e := (s.part part).get (0x190 + 2 * i) 2
    if bit e 15 && s.keyNum (bits e 0 11) != 0 then some (bits e 0 11) else none)
  let n := s.writtenKey pa
  match ids.find? (fun k => s.keyNum k == n) with
  | some k => k
  | none => ids.headD 0

/-- The checks of an export (R395): 0 passed, 1 discarded, 2 refused by the window key (R202). -/
def State.exportCheck (s : State) (p : Packet) (perm : Nat) : Nat :=
  let e := s.exportAt p.expid
  let keyBad := match p.window with
    | some k => e.wkey == 0 || k != e.wkey
    | none => false
  if keyBad then 2
  else if !e.v then 1
  else if !bit e.perm perm ∨ e.part ≠ p.part then 1
  else 0

/-- Whether `n` bytes at an offset of an export lie inside it. -/
def Export.inside (e : Export) (off n : Nat) : Bool := decide (e.base + off + n ≤ e.limit)

/-- A packet goes back to the module that a request came from. -/
def State.reply (s : State) (p : Packet) (op count : Nat) (ops : List Nat) (data : Nat) (ctags : Nat := 0) : State :=
  s.emit { op := op, src := s.hub.modn, dst := p.src, sid := p.sid, part := p.part, gen := p.gen, pseq := p.pseq, count := count,
           len := p.len, ops := ops, data := data, id := p.id, ctags := ctags }

/-- 64 bits of an export's memory. -/
def State.word64 (s : State) (e : Export) (off : Nat) : Nat :=
  (s.peek (e.base + off) 8 (s.pageKey e.part (e.base + off))).1
/-- 64 bits written to an export's memory. -/
def State.setWord64 (s : State) (e : Export) (off x : Nat) : State :=
  s.poke (e.base + off) 8 x (s.pageKey e.part (e.base + off))

/-- RCAS2 at the home: the old values, and whether all compared equal. -/
def State.remoteCas (s : State) (e : Export) (p : Packet) : List Nat × State :=
  let n := p.len
  let old := (List.range n).map (fun i => s.word64 e (p.off + 8 * i))
  let ok := (List.range n).all (fun i => old.getD i 0 == p.ops.getD i 0)
  let s := if ok then (List.range n).foldl (fun s i => s.setWord64 e (p.off + 8 * i) (p.ops.getD (n + i) 0)) s else s
  (old ++ [if ok then 1 else 0], s)

/-- RENQ at the home: the node lies inside the region and on the header's die. -/
def State.remoteEnqueue (s : State) (e : Export) (p : Packet) : List Nat × State :=
  let node := p.ops.getD 0 0
  let at_ (x : Nat) : Nat := p.base + x
  let out : List Nat := [2 ^ 64 - 2]
  if !e.inside (at_ node) 8 || homeDie (e.base + p.off) != homeDie (e.base + at_ node) then (out, s)
  else
    let s1 := s.setWord64 e (at_ node) 0
    let tail := s1.word64 e (p.off + 8)
    if tail ≠ 0 ∧ !e.inside (at_ tail) 8 then (out, s)
    else
      let s2 := if tail = 0 then s1.setWord64 e p.off node else s1.setWord64 e (at_ tail) node
      ([s2.word64 e (p.off + 8)], s2.setWord64 e (p.off + 8) node)

/-- Bytes that an operation asks for from its offset (R199, R200): a header is 16, a node 32. -/
def Packet.extent (p : Packet) : Nat :=
  match p.op with
  | 2 => 8 * p.len
  | 3 => 16
  | 4 => 32
  | _ => p.len

/-- The device-physical address and the key id of a packet's range: an export's memory, or tier 3 memory. -/
def State.packetAt (s : State) (p : Packet) : Nat × Nat :=
  if p.op = 12 ∨ p.op = 13 then (p.off, s.pageKey p.part p.off)
  else
    let e := s.exportAt p.expid
    (e.base + p.off, s.pageKey e.part (e.base + p.off))
/-- The addresses of the words that an operation touches at its home. -/
def State.touched (s : State) (p : Packet) : List Nat :=
  let e := s.exportAt p.expid
  let a := (s.packetAt p).1
  if p.op = 3 then
    let tail := s.word64 e (p.off + 8)
    a :: (e.base + p.base + p.ops.getD 0 0) :: (if tail = 0 then [] else [e.base + p.base + tail])
  else [a]
/-- The replay buffer that takes an operation whose domain is out of service, and the address it waits for (R276). -/
def State.packetHeld (s : State) (p : Packet) : Option (Nat × Nat × Nat) :=
  (s.touched p).findSome? (fun a => (s.heldAt a).map (fun d => (d.1, d.2, a)))
/-- Whether an operation's die is fenced: it is answered with an error completion (R398). -/
def State.packetFenced (s : State) (p : Packet) : Bool := s.fenced.any (fun e => e.1 == homeDie (s.packetAt p).1)

/-- A packet goes on at its home in cycle `c`. -/
def State.packetAgain (s : State) (p : Packet) (i : Instr) (c : Nat) : State :=
  s.push { cyc := c, cls := 4, key := agentKey p.src p.pseq, ins := i, arg := .packet p }

/-- A packet that has passed its checks: each 64-byte block of a range of several takes a free home cycle of its own (R246). -/
def State.beginBlocks (s : State) (p : Packet) : Packet × State :=
  let n := blockNum (s.packetAt p).1 p.len
  if n ≤ 1 then ({ p with begun := true, todo := [(s.now, 0)] }, s)
  else
    let (l, s) := (List.range n).foldl (fun (x : List (Nat × Nat) × State) i =>
      (x.1 ++ [(x.2.now + x.2.drawVal, i)], x.2.drew)) ([], s)
    ({ p with begun := true, todo := l }, s)
/-- One block of a peer's access at its home: read into the packet, or written. None where its slice accepts no more requests in
this cycle (R279). -/
def State.packetBlock (s : State) (p : Packet) (i : Nat) : Option (Packet × State) :=
  let a := s.packetAt p
  let t := blockAt a.1 p.len i
  (s.acceptLine t.1).map (fun s =>
    if p.op = 0 ∨ p.op = 12 then
      let s := s.lookup t.1 true
      ({ p with got := Fm.set p.got i (s.peekBlock t.1 a.2) }, s)
    else (p, s.storeBlock { op := .write, addr := a.1, len := p.len, data := p.data, key := a.2,
                            tags := if p.ops.isEmpty then none else some p.ops, ctags := p.ctags, alloc := .engine } i))
/-- The blocks of a peer's access whose cycles have come take their places. -/
def State.packetBlocks (s : State) (p : Packet) : Packet × State :=
  let (p, rest, s) := p.todo.foldl (fun (x : Packet × List (Nat × Nat) × State) e =>
    let (p, rest, s) := x
    if s.now < e.1 then (p, rest ++ [e], s)
    else match s.packetBlock p e.2 with
      | some (p, s) => (p, rest, s)
      | none => (p, rest ++ [(s.now + 1, e.2)], s)) (p, [], s)
  ({ p with todo := rest }, s)
/-- The next cycle of a packet's blocks. -/
def Packet.next (p : Packet) : Option Nat :=
  match p.todo with
  | [] => none
  | x :: r => some (r.foldl (fun m y => min m y.1) x.1)

/-- The reply to a peer's load, of what its blocks gave: of tier 3 memory with their tags and granule tags (R24, R288, R289). -/
def State.readReply (s : State) (p : Packet) : State :=
  let a := (s.packetAt p).1
  let bad := p.got.any (fun e => e.2.bad)
  let x := p.got.foldl (fun x e =>
    let t := blockAt a p.len e.1
    x + bits e.2.data.toNat (8 * (t.2.1 - t.1)) (8 * t.2.2) * 2 ^ (8 * (t.2.1 - a))) 0
  let ctags := ((List.range (cdiv p.len 16)).map (fun i =>
    let g := a + 16 * i
    if (Fm.get {} p.got (g / 64 - a / 64)).ctag.getLsbD (g / 16 % 4) then 2 ^ i else 0)).foldl (· + ·) 0
  s.reply p 6 (if bad then 1 else 0) (if p.op = 12 then p.got.map (fun e => e.2.tag) else []) (if bad then 0 else x)
    (if bad ∨ p.op ≠ 12 then 0 else ctags)

/-- A peer's load goes on: it is answered when its last block has been read. -/
def State.peerRead (s : State) (p : Packet) : State :=
  let (p, s) := s.packetBlocks p
  match p.next with
  | some c => s.packetAgain p .remoteOpExecute c
  | none => s.readReply p

/-- The key of what a peer module sends without a path: the operations and the tier 3 writes that it sends again are known by their
number (R393). -/
def plainKey (p : Packet) : Nat := 2 ^ 40 + p.src
/-- What the home agent keeps of a path replaced. -/
def State.setPath (s : State) (k : Nat) (r : RPath) : State := { s with rpaths := Fm.set s.rpaths k r }
/-- Whether a numbered operation of a peer was accepted before, and the state in which it is accepted. -/
def State.repeated (s : State) (p : Packet) : Bool := (Fm.get {} s.rpaths (plainKey p) : RPath).seen.contains p.id
def State.acceptOp (s : State) (p : Packet) : State :=
  let r : RPath := Fm.get {} s.rpaths (plainKey p)
  s.setPath (plainKey p) { r with seen := r.seen ++ [p.id] }

/-- One node of RCHASE, a load of its own (R396): a match, the end of the list, the next node, or 16 nodes. A node is 32 bytes; one
that lies outside the region ends the operation (R200). -/
def State.chaseNode (s : State) (p : Packet) : State :=
  let e := s.exportAt p.expid
  let n := p.off - p.base
  let word (i : Nat) : Nat := s.word64 e (p.off + 8 * i)
  let t := s.lookup (e.base + p.off) true
  if p.left = 0 then s.reply p 6 0 [0, 2 ^ 64 - 1] 0
  else if !e.inside p.off 32 then s.reply p 6 0 [0, 2 ^ 64 - 2] 0
  else if word 1 = p.ops.getD 0 0 then t.reply p 6 0 [word 2, n] 0
  else if word 0 = 0 then t.reply p 6 0 [0, 0] 0
  else t.drew.packetAgain { p with off := p.base + word 0, left := p.left - 1, begun := true } .remoteOpExecute (t.now + 1 + t.drawVal)

/-- An operation of a peer that has passed its checks is performed. -/
def State.performOp (s : State) (p : Packet) : State :=
  let e := s.exportAt p.expid
  match p.op with
  | 2 =>
    let (l, s) := ((s.acceptOp p).lookup (e.base + p.off) true).remoteCas e p
    s.reply p 6 0 l 0
  | 3 =>
    let (l, s) := ((s.acceptOp p).lookup (e.base + p.off) true).remoteEnqueue e p
    s.reply p 6 0 l 0
  | 4 => s.chaseNode p
  | _ =>
    let (p, s) := s.beginBlocks p
    s.peerRead p

/-- REMOTE_OP_EXECUTE (R396): loads, RCAS2, RENQ and RCHASE of a peer, and its reads of tier 3 memory. -/
def execRemoteOpExecute (s : State) : Host.Outcome State Fault Refusal :=
  match s.arg with
  | .packet p =>
    match s.packetHeld p with
    | some (d, k, a) => .next (s.withhold (d, k) a 4 .remoteOpExecute (.packet p))
    | none =>
      if s.packetFenced p then .next (s.reply p 6 1 [] 0)
      else if p.begun then .next (if p.op = 4 then s.chaseNode p else s.peerRead p)
      else if (p.op = 2 ∨ p.op = 3) ∧ s.repeated p then .next s
      else if (p.op = 2 ∨ p.op = 3) ∧ (s.acceptLine (s.packetAt p).1).isNone then .next (s.packetAgain p .remoteOpExecute (s.now + 1))
      else
        let s := if p.op = 2 ∨ p.op = 3 then (s.acceptLine (s.packetAt p).1).getD s else s
        match if p.op = 12 then 0 else s.exportCheck p (if p.op = 2 ∨ p.op = 3 then 2 else 0) with
        | 2 => .next (s.reply p 8 0 [] 0)
        | 1 => .next (s.reply p 6 1 [] 0)
        | _ => .next (if p.op ≠ 12 ∧ !(s.exportAt p.expid).inside p.off p.extent then s.reply p 6 1 [] 0 else s.performOp p)
  | _ => .next s

/-- The key of a path at the home agent. -/
def pathKey (p : Packet) : Nat := p.src * 8192 + p.sid

/-- The store of a packet takes its home cycle, or is dropped (R395, R398): its blocks go on from here. -/
def State.beginWrite (s : State) (p : Packet) : Option (Packet × State) :=
  if s.packetFenced p then none
  else if p.op = 13 then some (s.beginBlocks p)
  else if s.exportCheck p 1 ≠ 0 ∨ !(s.exportAt p.expid).inside p.off p.len then none
  else some (s.beginBlocks p)
/-- The answer to a store: an acknowledgement, or the error completion of a refused window store (R202). -/
def State.writeReply (s : State) (p : Packet) : State :=
  s.reply p (if p.op ≠ 13 ∧ s.exportCheck p 1 = 2 then 8 else 7) 0 [] 0

/-- The flags that a path holds are tried again. -/
def State.tryFlags (s : State) (k : Nat) : State :=
  (Fm.get {} s.rpaths k : RPath).flags.foldl (fun s f =>
    s.push { cyc := s.now, cls := 4, key := agentKey f.src f.pseq, ins := .releaseFlagCommit, arg := .packet f }) s

/-- A store of a peer is visible, or was dropped: it is answered, and counts for the flags of its path (R262). -/
def State.storeDone (s : State) (p : Packet) : State :=
  let s := s.writeReply p
  if p.op = 13 then s
  else
    let r : RPath := Fm.get {} s.rpaths (pathKey p)
    (s.setPath (pathKey p) { r with vis := r.vis ++ [p.pseq] }).tryFlags (pathKey p)
/-- A store of a peer goes on: it is done when its last block is written. -/
def State.storeOn (s : State) (p : Packet) : State :=
  let (p, s) := s.packetBlocks p
  match p.next with
  | some c => s.packetAgain p .remoteStoreArrival c
  | none => s.storeDone p

/-- REMOTE_STORE_ARRIVAL (R262, R263): a duplicate is discarded; a release flag is held until its stores are visible; a store whose
domain is out of service is held there, and counts when it has had its home cycle (R276). -/
def execRemoteStoreArrival (s : State) : Host.Outcome State Fault Refusal :=
  match s.arg with
  | .packet p =>
    let k := pathKey p
    let r : RPath := Fm.get {} s.rpaths k
    let go (s : State) : State := match s.packetHeld p with
      | some (d, b, a) => s.withhold (d, b) a 4 .remoteStoreArrival (.packet { p with begun := true })
      | none =>
        if p.todo.isEmpty then match s.beginWrite p with
          | some (p, s) => s.storeOn p
          | none => s.storeDone p
        else s.storeOn p
    if p.op = 14 then .next (s.poison p.off p.len)
    else if p.begun then .next (go s)
    else if p.op = 13 then .next (if s.repeated p then s else go (s.acceptOp p))
    else if r.seen.contains p.pseq then .next s
    else
      let s := s.setPath k { r with seen := r.seen ++ [p.pseq], flags := if p.op = 5 then r.flags ++ [p] else r.flags }
      .next (if p.op = 5 then s.tryFlags k else go s)
  | _ => .next s

/-- Whether a sequence number lies between that of a flag and that of the flag before it on the path, N + 1 lower (R262). -/
def Packet.counts (p : Packet) (x : Nat) : Bool := decide (p.pseq < x + p.count + 1) && decide (x < p.pseq)

/-- RELEASE_FLAG_COMMIT (R262): a flag takes its home cycle once N stores of its path with sequence numbers between those of the
two flags are visible. -/
def execReleaseFlagCommit (s : State) : Host.Outcome State Fault Refusal :=
  match s.arg with
  | .packet p =>
    let k := pathKey p
    let r : RPath := Fm.get {} s.rpaths k
    if !r.flags.contains p || r.vis.countP p.counts < p.count then .next s
    else match s.packetHeld p with
      | some (d, b, a) => .next (s.withhold (d, b) a 4 .releaseFlagCommit (.packet p))
      | none =>
        let done (s : State) : State := ((s.writeReply p).setPath k { r with
          flags := r.flags.filter (· != p), vis := r.vis.filter (fun x => !p.counts x) }).tryFlags k
        match s.beginWrite p with
        | none => .next (done s)
        | some (x, t) => .next (match t.packetBlock x 0 with
          | some y => done y.2
          | none => s.packetAgain p .releaseFlagCommit (s.now + 1))
  | _ => .next s

/-- EXPORT_TABLE_WRITE (R395, R24): the hypervisor writes an entry; for a new export one tagged root capability goes into a
granule of the importing partition's memory, given by physical address, key id and the 128 bits. -/
def execExportTableWrite (s : State) : Host.Outcome State Fault Refusal :=
  match s.arg with
  | .exportEntry n e root =>
    let s := { s with exports := Fm.set s.exports n e }
    match root with
    | none => .next s
    | some (pa, key, cap) =>
      let a := pa / 16 * 16
      .next (s.hwStore { op := .write, addr := a, len := 16, data := cap % 2 ^ 128, ctags := 1, key := key, alloc := .engine, cls := 3,
                         sid := 0xFFFF, issue := s.now })
  | _ => .next s

end Sys2Proof.Machine
end

