-- ==== Sys2Proof/Machine/Queue.lean ====
section
/-! DEFINITION. Operand queues and link queues (R224 to R231, R379, R380, R383, R387): pushes, pops, credits, reservations,
bindings and QDEPTH, the arrival of entries and credits, and link entries in their lane slots. -/

namespace Sys2Proof.Machine

open Sys2Proof

/-! ## Queues and out-ports -/

/-- The receiving queue of a kind: 0 operand, 1 link. -/
def Core.queue (c : Core) (kind q : Nat) : List QItem := Fm.get [] (if kind = 0 then c.oq else c.lq) q
def Core.setQueue (c : Core) (kind q : Nat) (l : List QItem) : Core :=
  if kind = 0 then { c with oq := Fm.set c.oq q l } else { c with lq := Fm.set c.lq q l }
/-- The out-port of a kind. -/
def Core.port (c : Core) (kind q : Nat) : Port := Fm.get {} (if kind = 0 then c.oport else c.lport) q
def Core.setPort (c : Core) (kind q : Nat) (p : Port) : Core :=
  if kind = 0 then { c with oport := Fm.set c.oport q p } else { c with lport := Fm.set c.lport q p }
/-- The out-port of a core. -/
def State.port (s : State) (core kind q : Nat) : Port := (s.core core).port kind q
def State.updPort (s : State) (core kind q : Nat) (f : Port → Port) : State :=
  s.updCore core (fun c => c.setPort kind q (f (c.port kind q)))

/-- Whether a push through the port has what it needs: a reservation for a loopback, else a credit (R228). -/
def Port.can (p : Port) : Bool := decide (0 < if p.loopback then p.resv else p.credits)

/-! ## Link slots (R227, R383, R387) -/

/-- Whether a partition's grant list holds a slot on a lane (R229). -/
def State.holdsLane (s : State) (part link lane : Nat) : Bool := (s.part part).cal.any (fun g => g.lane link lane && !g.sb)
/-- Whether the lane slot that starts now belongs to a partition: one of its standby grants while ALT = 1 (R393). -/
def State.slotHeld (s : State) (part n lane : Nat) : Bool :=
  (s.part part).cal.any (fun g => g.lane (s.wayOf n) lane && g.sb == (s.link n).alt && s.inSlot g s.now)

/-- The departure of a link port's first entry is considered at the next slot start from cycle `c` on. -/
def State.departAt (s : State) (core q c : Nat) : State :=
  s.push { cyc := s.nextMultiple c 32, cls := 4, key := 2 ^ 89 + core * 16 + q, ins := .linkEntryDepart, arg := .lane core q }

/-! ## Pushes and pops take place (R225, R226) -/

/-- One entry is pushed: an operand entry arrives after H, a link entry waits for its slot. -/
def State.pushEntry (s : State) (core kind q : Nat) (e : EntryBits) (part : Nat) : State :=
  let p := s.port core kind q
  let p' := { p with held := p.held + 1, resv := if p.loopback then p.resv - 1 else p.resv,
                     credits := if p.loopback then p.credits else p.credits - 1 }
  if kind = 0 then
    (s.updPort core kind q (fun _ => p')).push
      { cyc := s.now + hopLatency core p.core, cls := 1, key := 0, ins := .queueEntryArrival,
        arg := .entry p.core 0 p.queue { data := e, core := core, port := q } part (s.gen part) }
  else
    let w : LinkWait := { data := e, at_ := s.now, link := p.link, lane := p.lane, queue := p.queue, part := part, gen := s.gen part }
    let s' := s.updPort core kind q (fun _ => { p' with wait := p.wait ++ [w] })
    if p.wait.isEmpty then s'.departAt core q s.now else s'

/-- Whether no entry waits at a port: a reservation that waits holds up no push (R228). -/
def Port.clear (p : Port) : Bool := !p.pend.any (fun w => match w with
  | .push _ _ _ _ => true
  | _ => false)

/-- The first entry that waits at a port, where it has its credit or reservation. -/
def Port.readyPush (p : Port) : Option PortWait :=
  if p.can then p.pend.find? (fun w => match w with
    | .push _ _ _ _ => true
    | _ => false) else none

/-- What is next to go on at a port: entries leave in order (R226); a reservation waits for nothing but its credits (R228). -/
def Port.ready (p : Port) : Option PortWait :=
  match p.pend.find? (fun w => match w with
    | .rsv _ _ _ => true
    | _ => false) with
  | some (.rsv n a b) => if n ≤ p.credits then some (.rsv n a b) else p.readyPush
  | _ => p.readyPush

/-- What waits at a port goes on as far as credits and reservations allow. -/
def State.servePort (s : State) (core kind q : Nat) : Nat → State
  | 0 => s
  | k + 1 =>
    match (s.port core kind q).ready with
    | none => s
    | some (.push e sid i j) =>
      ((s.updPort core kind q (fun p => { p with pend := p.pend.erase (.push e sid i j) })).pushEntry core kind q e
        (s.seq sid).task.part).servePort core kind q k
    | some (.rsv n sid i) =>
      (s.updPort core kind q (fun p => { p with
        pend := p.pend.erase (.rsv n sid i), credits := p.credits - n, resv := p.resv + n })).servePort core kind q k

/-- The depths that a queue and the out-port of its number have before the first push or pop of a cycle are kept for the reads
of that cycle (R31). -/
def State.keepDepths (s : State) (core kind q : Nat) : State :=
  s.updCore core (fun c =>
    let l := c.depths.filter (fun d => d.cyc == s.now)
    if l.any (fun d => d.kind == kind && d.q == q) then { c with depths := l }
    else
      let p := c.port kind q
      { c with depths := l ++ [{ cyc := s.now, kind := kind, q := q, held := (c.queue kind q).length, credits := p.credits,
                                 resv := p.resv }] })

/-- Entries held, credits and reservation as a word of the present cycle reads them (R31, R231). -/
def State.depthsOf (s : State) (core kind q : Nat) : Nat × Nat × Nat :=
  let c := s.core core
  match c.depths.find? (fun d => d.cyc == s.now && d.kind == kind && d.q == q) with
  | some d => (d.held, d.credits, d.resv)
  | none => ((c.queue kind q).length, (c.port kind q).credits, (c.port kind q).resv)

/-- An entry of a push comes to its port. -/
def State.pushAt (s : State) (sid kind q : Nat) (e : EntryBits) (j issue : Nat) : State :=
  let core := coreKey sid
  let s := (s.keepDepths core kind q).updPort core kind q (fun p => { p with pend := p.pend ++ [.push e sid issue j] })
  s.servePort core kind q ((s.port core kind q).pend.length)

/-- The credit of an entry popped from queue `q`: under the present binding of the out-port that pushed it, and 0 where that
binding has this queue for its target. -/
def State.creditOf (s : State) (core q : Nat) (it : QItem) (part : Nat) : Arg :=
  let p := s.port it.core 0 it.port
  .credit it.core 0 it.port p.binds (if p.core = core ∧ p.queue = q then 0 else 1) core part

/-- A credit of a link entry goes to the peer with the next path sequence number; it is kept until the peer acknowledges it
(R386). -/
def State.sendCredit (s : State) (n lane part : Nat) : State :=
  let l := s.link n
  let p : Packet := { op := 10, src := s.hub.modn, dst := l.peer, part := part, gen := s.gen part, pseq := l.seq + 1,
                      link := s.wayOf n, lane := lane, dep := some s.now }
  let t := s.updLink n (fun l => { l with seq := l.seq + 1, owed := l.owed ++ [p] })
  { t with outbox := t.outbox ++ [p] }

/-- The credit of a popped entry goes back: to the out-port after H, or across the link after LAT (R226, R227). -/
def State.returnCredit (s : State) (core kind q : Nat) (it : QItem) (part : Nat) : State :=
  if kind = 0 then
    (s.updPort it.core 0 it.port (fun p => { p with held := p.held - 1 })).push
      { cyc := s.now + hopLatency core it.core, cls := 1, key := 0, ins := .queueCreditArrival, arg := s.creditOf core q it part }
  else s.sendCredit it.core it.port part

/-- A pop takes the first entry: its bytes land n − j + 3 cycles later, at +n + 3 when it is in time (R225; log entry 36). -/
def State.popEntry (s : State) (w : PopWait) (it : QItem) (rest : List QItem) : State :=
  let core := coreKey w.sid
  let s := (s.updCore core (fun c => c.setQueue w.kind w.q rest)).returnCredit core w.kind w.q it (s.seq w.sid).task.part
  s.landAt w.sid 5 w.issue (s.now + (w.n - w.j) + 3)
    [.tile w.tile (BitVec.ofNat 32768 (it.data.toNat * 2 ^ (8192 * w.j)))
      (BitVec.ofNat 32768 ((2 ^ 8192 - 1) * 2 ^ (8192 * w.j)))]

/-- Whether a pop waits at a queue. -/
def Core.popWaits (c : Core) (kind q : Nat) : Bool := c.pops.any (fun w => w.kind == kind && w.q == q)

/-- Waiting pops of a queue take entries, in order. -/
def State.servePops (s : State) (core kind q : Nat) : Nat → State
  | 0 => s
  | k + 1 =>
    let c := s.core core
    match c.pops.find? (fun w => w.kind == kind && w.q == q), c.queue kind q with
    | some w, it :: rest =>
      ((s.updCore core (fun c => { c with pops := c.pops.erase w })).popEntry w it rest).servePops core kind q k
    | _, _ => s

/-- An entry of a pop comes to its queue. -/
def State.popAt (s : State) (w : PopWait) : State :=
  let core := coreKey w.sid
  let s := (s.keepDepths core w.kind w.q).updCore core (fun c => { c with pops := c.pops ++ [w] })
  s.servePops core w.kind w.q 4

/-- Whether what a push or pop brought at entry `j` still waits. -/
def State.qWaits (s : State) (sid : Nat) (pop : Bool) (kind q issue j : Nat) : Bool :=
  let c := s.core (coreKey sid)
  if pop then c.pops.any (fun w => w.sid == sid && w.kind == kind && w.q == q && w.issue == issue && w.j == j)
  else (c.port kind q).pend.any (fun w => match w with
    | .push _ i t k => i == sid && t == issue && k == j
    | .rsv _ i t => i == sid && t == issue)

/-- The landings of this column that are not plain register writes: entries of pushes and pops after the first, in their
cycles, with the violation that a missing credit or entry is (R317). `first` marks the cycle of detection. -/
def State.landQueue (s : State) (sid : Nat) (l : Land) : State :=
  let check (s : State) (pop : Bool) (kind q issue j : Nat) (first : Bool) : State :=
    if !s.qWaits sid pop kind q issue j then s
    else
      let s' := s.violation sid 5 first
      if (s.seq sid).ut || (s.seq sid).trapMode then s'
      else s'.landAt sid 5 issue (s.now + 1) [.qwait pop kind q issue j]
  match l with
  | .push kind q e j issue => check (s.pushAt sid kind q e j issue) false kind q issue j true
  | .pop w => check (s.popAt w) true w.kind w.q w.issue w.j true
  | .qwait pop kind q issue j => check s pop kind q issue j false
  | .qrsv q n =>
    let core := coreKey sid
    let s := s.updPort core 0 q (fun p =>
      if n = 0 then { p with credits := p.credits + p.resv, resv := 0 }
      else { p with credits := p.credits - n, resv := p.resv + n })
    s.servePort core 0 q ((s.port core 0 q).pend.length)
  | _ => s

/-! ## The words -/

/-- A QUE word that may find no credit or no entry: in STALL mode and in untimed mode it does not issue, in TRAP mode it
issues with the timing fault and its entry waits (R226, R317). -/
def State.issueShort (s : State) (occ : Nat) (short : Bool) (k : State → State) : Host.Outcome State Fault Refusal :=
  if s.colBusy then .next s.stall
  else if short && !(s.me.trapMode && !s.me.ut) then .next s.stall
  else
    let s := s.occupy occ
    .next (k (if short then s.violation s.cur.sid s.cur.col (!s.cur.posted) else s))

/-- The legality of a QUE word: no management sequencer (R37), a queue that the core mode can name (R25), tiles (R29). -/
def State.queOk (s : State) (q : Nat) (tiles : List Nat) : Bool :=
  !isMgmt s.cur.sid && s.queueOk q && s.tilesOk tiles

/-- Entry `j` of a tile. -/
def entryOf (x : TileBits) (j : Nat) : EntryBits := BitVec.ofNat 8192 (x.toNat / 2 ^ (8192 * j))

/-- QPUSH and LKSEND (R225). -/
def State.pushWord (s : State) (kind : Nat) (p : BitVec 4) (v : BitVec 5) (n : BitVec 2) : Host.Outcome State Fault Refusal :=
  let q := s.physQueue p.toNat
  let pt := s.port (coreKey s.cur.sid) kind q
  let ok := s.queOk p.toNat [v.toNat] && pt.bound
  s.issueShort (n.toNat + 1) (ok && !(pt.can && pt.clear)) (fun s =>
    if !ok then s.illegal
    else
      let x := s.tile s.cur.sid v.toNat
      let t := s.now
      let s := (List.range n.toNat).foldl (fun s j =>
        s.landAt s.cur.sid 5 t (t + j + 1) [.push kind q (entryOf x (j + 1)) (j + 1) t]) s
      s.pushAt s.cur.sid kind q (entryOf x 0) 0 t)

/-- QPOP and LKRECV (R225). -/
def State.popWord (s : State) (kind : Nat) (v : BitVec 5) (qn : BitVec 4) (n : BitVec 2) : Host.Outcome State Fault Refusal :=
  let q := s.physQueue qn.toNat
  let c := s.core (coreKey s.cur.sid)
  let ok := s.queOk qn.toNat [v.toNat]
  s.issueShort (n.toNat + 1) (ok && ((c.queue kind q).isEmpty || c.popWaits kind q)) (fun s =>
    if !ok then s.illegal
    else
      let w (j : Nat) : PopWait :=
        { kind := kind, q := q, sid := s.cur.sid, tile := v.toNat, j := j, n := n.toNat + 1, issue := s.now }
      let s := (List.range n.toNat).foldl (fun s j => s.landAt s.cur.sid 5 s.now (s.now + j + 1) [.pop (w (j + 1))]) s
      s.popAt (w 0))

def execQpush (p : BitVec 4) (v : BitVec 5) (n : BitVec 2) (s : State) : Host.Outcome State Fault Refusal :=
  s.pushWord 0 p v n
def execLksend (p : BitVec 4) (v : BitVec 5) (n : BitVec 2) (s : State) : Host.Outcome State Fault Refusal :=
  s.pushWord 1 p v n
def execQpop (v : BitVec 5) (q : BitVec 4) (n : BitVec 2) (s : State) : Host.Outcome State Fault Refusal :=
  s.popWord 0 v q n
def execLkrecv (v : BitVec 5) (q : BitVec 4) (n : BitVec 2) (s : State) : Host.Outcome State Fault Refusal :=
  s.popWord 1 v q n

/-- QRSV (R228): in force at +1. -/
def execQrsv (p : BitVec 4) (n : BitVec 8) (s : State) : Host.Outcome State Fault Refusal :=
  let q := s.physQueue p.toNat
  let pt := s.port (coreKey s.cur.sid) 0 q
  let ok := s.queOk p.toNat [] && pt.bound && pt.loopback && decide (n.toNat ≤ 16)
  let short := ok && decide (pt.credits < n.toNat)
  s.issueShort 1 short (fun s =>
    if !ok then s.illegal
    else if short then
      s.updPort (coreKey s.cur.sid) 0 q (fun p => { p with pend := p.pend ++ [.rsv n.toNat s.cur.sid s.now] })
    else s.land 1 [.qrsv q n.toNat])

/-- QDEPTH (R231): the values at issue, written at +2. -/
def execQdepth (g : BitVec 6) (k : BitVec 1) (q : BitVec 4) (s : State) : Host.Outcome State Fault Refusal :=
  s.issue 1 (fun s =>
    if !s.queOk q.toNat [] then s.illegal
    else
      let n := s.physQueue q.toNat
      let p := s.port (coreKey s.cur.sid) k.toNat n
      let (held, credits, resv) := s.depthsOf (coreKey s.cur.sid) k.toNat n
      let v := held % 128 + credits % 128 * 2 ^ 7 + resv % 32 * 2 ^ 14 + p.rank % 8 * 2 ^ 19 +
        (if p.bound then 2 ^ 22 else 0) + (if p.loopback then 2 ^ 23 else 0)
      s.land 2 [.g g.toNat (BitVec.ofNat 64 v)])

/-! ## Bindings (R229) -/

/-- The half that owns physical queue or port `q` of a core, as a number that is the same for both halves of a FUSED core. -/
def State.halfOf (s : State) (core q : Nat) : Nat := if (s.core core).split then core + 4096 * (q / 8) else core

/-- Whether the half that owns a target queue belongs to a partition. -/
def State.targetGranted (s : State) (part core q : Nat) : Bool :=
  bit ((s.part part).get (0x10 + 36 * dieOf core) 36) (halfBit (s.halfOf core q))

/-- Whether some other out-port pushes to a target queue. Only ports in force are looked at: of two binds within 48 cycles both come
into force (log entry 117). -/
def State.targetTaken (s : State) (core q tcore tq : Nat) : Bool :=
  s.cores.any (fun e => e.2.oport.any (fun p => p.2.bound && p.2.core == tcore && p.2.queue == tq &&
    !(e.1 == core && p.1 == q)))

/-- Whether an out-port of another half binds a link and lane, or another out-port pushes to the same queue of the peer. -/
def State.laneTaken (s : State) (core q link lane peer : Nat) : Bool :=
  s.cores.any (fun e => e.2.lport.any (fun p => p.2.bound && p.2.link == link && p.2.lane == lane &&
    (s.halfOf e.1 p.1 != s.halfOf core q || (p.2.queue == peer && !(e.1 == core && p.1 == q)))))

/-- The core that a QBIND descriptor names, on the issuing die. -/
def bindCore (die desc : Nat) : Nat := die + 16 * bits desc 0 6 + 1024 * bits desc 6 2

/-- The bounds faults of R229 for an operand port. -/
def State.qbindBad (s : State) (core q desc : Nat) : Bool :=
  let t := bindCore (dieOf s.cur.sid) desc
  decide (0 < (s.port core 0 q).held) ||
  (bit desc 19 && (decide (35 < bits desc 0 6) || !s.targetGranted s.myPart t (bits desc 8 4) ||
    s.targetTaken core q t (bits desc 8 4)))

/-- The bounds faults of R229 for a link port. Whether the peer queue still holds entries whose credits have not come back is
not visible here: it is a free value (log entry 37). -/
def State.lkbindBad (s : State) (core q desc free : Nat) : Bool :=
  let p := s.port core 1 q
  let link := bits desc 0 4
  let lane := bits desc 8 4
  (decide (0 < p.held) && (decide (free % 2 = 1) || !p.wait.isEmpty)) ||
  (bit desc 19 && (!s.holdsLane s.myPart link lane || s.laneTaken core q link lane (bits desc 12 4)))

def execQbind (p : BitVec 4) (g : BitVec 6) (s : State) : Host.Outcome State Fault Refusal :=
  s.issue 1 (fun s =>
    if !s.queOk p.toNat [] || s.me.pl == 0 then s.illegal
    else
      let q := s.physQueue p.toNat
      let desc := s.me.gn g.toNat
      if s.qbindBad (coreKey s.cur.sid) q desc then s.boundsFault else s.land 48 [.bind 0 q desc])

def execLkbind (p : BitVec 4) (g : BitVec 6) (s : State) : Host.Outcome State Fault Refusal :=
  s.issue 1 (fun s =>
    if !s.queOk p.toNat [] || s.me.pl == 0 then s.illegal
    else
      let q := s.physQueue p.toNat
      let desc := s.me.gn g.toNat
      let core := coreKey s.cur.sid
      let free := s.drawVal
      let s := if (s.port core 1 q).held = 0 then s else s.drew
      if s.lkbindBad core q desc free then s.boundsFault else s.land 48 [.bind 1 q desc])

/-- What a port keeps when its binding changes: entries that came after the bind word issued, none of which is lost (R226). -/
def Port.rebound (p : Port) : Port :=
  { held := p.held, pend := p.pend, wait := p.wait, slotAfter := p.slotAfter, binds := p.binds + 1 }

/-- A binding takes force (R229): the port starts with the target's free slots, which an entry of its own on the way there does
not leave free, a link port with 64 credits; the kept generation of the link and lane is cleared (R227). -/
def State.bindInForce (s : State) (sid kind q desc : Nat) : State :=
  let core := coreKey sid
  if !bit desc 19 then s.updPort core kind q Port.rebound
  else if kind = 0 then
    let t := bindCore (dieOf sid) desc
    let tq := bits desc 8 4
    let n := ((s.core t).queue 0 tq).length
    let s := s.updPort core 0 q (fun p => { p.rebound with
      bound := true, core := t, queue := tq, rank := bits desc 16 3, loopback := t == core,
      credits := 16 - if p.bound && p.core == t && p.queue == tq then max n p.held else n })
    s.servePort core 0 q ((s.port core 0 q).pend.length)
  else
    let link := bits desc 0 4
    let lane := bits desc 8 4
    let s := s.updPort core 1 q (fun p => { p.rebound with
      bound := true, link := link, lane := lane, queue := bits desc 12 4, rank := bits desc 16 3, credits := 64 })
    let s := s.servePort core 1 q ((s.port core 1 q).pend.length)
    s.updCore core (fun c => { c with
      lport := c.lport.map (fun p => if p.2.link = link ∧ p.2.lane = lane then (p.1, { p.2 with kgen := none }) else p) })

/-! ## Arrivals (R226, R227, R387) -/

/-- QUEUE_ENTRY_ARRIVAL: an operand entry of the current generation joins its queue; one whose slots have not come yet is held on
its way (R381). -/
def execQueueEntryArrival (s : State) : Host.Outcome State Fault Refusal :=
  match s.arg with
  | .entry core kind q it part gen =>
    if part ≠ 63 ∧ gen ≠ s.gen part then .next s
    else if kind = 0 ∧ !s.entryCrosses part it.core core then .next (s.after 1 1 0 .queueEntryArrival s.arg)
    else
      let s := s.updCore core (fun c => c.setQueue kind q (c.queue kind q ++ [it]))
      .next (s.servePops core kind q 4)
  | _ => .next s

/-- The link port that a credit on a link and lane goes to: the one named, else the first that binds them (R229). -/
def State.lanePort (s : State) (core q link lane : Nat) : Option (Nat × Nat) :=
  let binds (p : Port) : Bool := p.bound && p.link == link && p.lane == lane
  if binds (s.port core 1 q) then some (core, q)
  else s.cores.findSome? (fun e => (e.2.lport.find? (fun p => binds p.2)).map (fun p => (e.1, p.1)))

/-- QUEUE_CREDIT_ARRIVAL: what waits at the port goes on. A credit of an earlier binding, or of an entry of another target, counts
nowhere. -/
def execQueueCreditArrival (s : State) : Host.Outcome State Fault Refusal :=
  match s.arg with
  | .credit core kind port link lane src part =>
    if kind = 0 ∧ !s.entryCrosses part src core then .next (s.after 1 1 0 .queueCreditArrival s.arg)
    else if kind = 0 then
      let s := s.updPort core 0 port (fun p => if p.binds = link ∧ lane = 0 then { p with credits := p.credits + 1 } else p)
      .next (s.servePort core 0 port ((s.port core 0 port).pend.length))
    else match s.lanePort core port link lane with
      | none => .next s
      | some (c, q) =>
        let s := s.updPort c 1 q (fun p => { p with credits := min 64 (p.credits + 1), held := p.held - 1 })
        .next (s.servePort c 1 q ((s.port c 1 q).pend.length))
  | _ => .next s

/-- Whether the first entry of a port is the first of its core to leave on its lane. -/
def Core.firstOnLane (c : Core) (q : Nat) : Bool :=
  match (c.port 1 q).wait with
  | [] => false
  | w :: _ => !c.lport.any (fun x => x.1 != q && (match x.2.wait with
      | [] => false
      | u :: _ => u.link == w.link && u.lane == w.lane && (decide (u.at_ < w.at_) || (u.at_ == w.at_ && decide (x.1 < q)))))

/-- LINK_ENTRY_DEPART (R227): in a slot of the partition on the lane the first entry departs with its path sequence number and is
kept until the peer acknowledges it (R386), or is discarded and counted while the link is down; otherwise it waits for the next
slot. -/
def execLinkEntryDepart (s : State) : Host.Outcome State Fault Refusal :=
  match s.arg with
  | .lane core q =>
    let c := s.core core
    let p := c.port 1 q
    match p.wait with
    | [] => .next s
    | w :: r =>
      if !c.firstOnLane q || !s.slotHeld w.part w.link w.lane || s.now < p.slotAfter then .next (s.departAt core q (s.now + 1))
      else
        let l := s.link w.link
        let s := s.updCore core (fun c => { c with lport := c.lport.map (fun x =>
          if (x.2.link = w.link ∧ x.2.lane = w.lane) ∨ x.1 = q then (x.1, { x.2 with slotAfter := s.now + 1 }) else x) })
        let s := if r.isEmpty then s else s.departAt core q (s.now + 1)
        if l.linked then
          let s := s.updPort core 1 q (fun p => { p with wait := r })
          let w := { w with num := some (w.num.getD (l.seq + 1)) }
          let n := w.num.getD 0
          let k : Packet := { op := 9, src := s.hub.modn, dst := l.peer, part := w.part, gen := w.gen, pseq := n,
                              link := s.wayOf w.link, lane := w.lane, queue := w.queue, data := w.data.toNat, dep := some s.now }
          let t := s.updLink w.link (fun l => { l with
            seq := max l.seq n, sent := l.sent.filter (fun x => x.2.2.num != some n) ++ [(core, q, w)] })
          .next { t with outbox := t.outbox ++ [k] }
        else
          let s := s.updPort core 1 q (fun p => { p with wait := r, held := p.held - 1 })
          .next (s.updLink w.link (fun l => { l with drop := l.drop + 1 }))
  | _ => .next s

/-- LINK_ENTRY_ARRIVAL (R227, R387): the entry joins the link queue that it names in the core half whose out-ports bind its
link and lane, or is discarded; the discarded entry is counted after the words of the cycle (`.link`, R134). -/
def execLinkEntryArrival (s : State) : Host.Outcome State Fault Refusal :=
  match s.arg with
  | .packet k =>
    let binds (p : Port) : Bool := p.bound && p.link == k.link && p.lane == k.lane
    match s.cores.find? (fun e => e.2.lport.any (fun p => binds p.2)) with
    | none => .next (s.after 0 4 (2 ^ 90 + k.link) .linkEntryArrival (.link k.link))
    | some (core, c) =>
      let p := c.port 1 k.queue
      let old := match p.kgen with
        | some g => k.gen == (g + 255) % 256
        | none => false
      if !binds p || old || decide (64 ≤ (c.queue 1 k.queue).length) then
        .next (s.after 0 4 (2 ^ 90 + k.link) .linkEntryArrival (.link k.link))
      else
        let it : QItem := { data := BitVec.ofNat 8192 k.data, core := k.link, port := k.lane }
        let s := s.updCore core (fun c =>
          let c := c.setQueue 1 k.queue (c.queue 1 k.queue ++ [it])
          { c with lport := c.lport.map (fun x => if binds x.2 then (x.1, { x.2 with kgen := some (k.gen % 256) }) else x) })
        .next (s.servePops core 1 k.queue 4)
  | .link n => .next (s.updLink n (fun l => { l with drop := l.drop + 1 }))
  | _ => .next s

end Sys2Proof.Machine
end

