-- ==== Sys2Proof/Machine/Vector.lean ====
section
/-! DEFINITION. The meanings of the VEC column (R147 to R173): every source is read at issue, the whole result lands at the
result cycle. -/

namespace Sys2Proof.Machine

open Sys2Proof

/-! ## Shells -/

/-- SHAPE of the present word's sequencer, its geometry and type (R147). -/
def State.shp (s : State) : BitVec 18 := s.me.shape
def State.ty (s : State) : Nat := shapeType s.me.shape
def State.cols (s : State) : Nat := shapeCols s.me.shape
def State.rows (s : State) : Nat := shapeRows s.me.shape
/-- Occupancy of an ordinary VEC word: b(B) (R155). -/
def State.occB (s : State) : Nat := slots (shapeBytes s.me.shape)
/-- Act of a word's mask field (R148). -/
def State.act (s : State) (k : BitVec 3) : MaskBits := s.me.mr k.toNat

/-- A VEC word that names the given tiles and holds the datapath for `occ` cycles: absent on management sequencers, and
tiles 16 to 31 are illegal in SPLIT mode (R154). -/
def State.vec (s : State) (tiles : List Nat) (occ : Nat) (k : State → State) : Host.Outcome State Fault Refusal :=
  s.issue occ (fun s => s.userOnly (fun s => s.withTiles tiles k))

/-- The result of a VEC word: elements of type `t` into tile `v`, and the flags of the active elements (R149, R152). -/
def State.vecOut (s : State) (lat v t : Nat) (l : List (Nat × Nat)) : State :=
  s.land lat (tileLand v t (l.map (·.1)) :: flagLands (orFlags l))

/-- M takes the fallback where the operation rounds nothing under the current type (R100). -/
def State.mFallback (s : State) (m : BitVec 2) (rounds : Bool) : State := s.fallback (m != 0 && !(rounds && !isInt s.ty))
/-- The mask field takes the fallback in words that take no mask (R100). -/
def State.kFallback (s : State) (k : BitVec 3) : State := s.fallback (k != 0)
/-- The rounding mode that applies: M, or 0 after the fallback. -/
def State.modeOf (s : State) (m : BitVec 2) : Nat := if isInt s.ty then 0 else m.toNat

/-! ## Element-wise arithmetic (R156) -/

/-- The integer that an element of an integer type holds. -/
def elemInt (t x : Nat) : Int := if isSigned t then sgn x (typeBits t) else (x % 2 ^ typeBits t : Nat)
/-- An integer stored in an element: the low bits (R9). -/
def elemBits (t : Nat) (x : Int) : Nat := ofInt x (typeBits t)

/-- An operation of up to three operands on decoded values, rounded once into the element type (R62, R152). -/
def floatOp (f : Nat → Val → Val → Val → Val × Nat) (t mode : Nat) (ov : Bool) (a b d : Nat) : Nat × Nat :=
  let v := f mode (decodeVal t a) (decodeVal t b) (decodeVal t d)
  let r := toType t mode ov v.1
  (r.1, v.2 ||| r.2 ||| decodeFlags t a ||| decodeFlags t b ||| decodeFlags t d)

/-- The operations of R156 on integers. -/
def iAdd (a b _ : Int) : Int := a + b
def iSub (a b _ : Int) : Int := a - b
def iMul (a b _ : Int) : Int := a * b
def iFma (a b d : Int) : Int := a * b + d
def iFms (a b d : Int) : Int := d - a * b
def iMin (a b _ : Int) : Int := min a b
def iMax (a b _ : Int) : Int := max a b
def iAbs (a _ _ : Int) : Int := a.natAbs
def iNeg (a _ _ : Int) : Int := -a
def iClamp (a b d : Int) : Int := min (max d a) b

/-- The operations of R156 on values. -/
def vAdd (m : Nat) (a b _ : Val) : Val × Nat := addVal m a b
def vSub (m : Nat) (a b _ : Val) : Val × Nat := addVal m a b.neg
def vMul (_ : Nat) (a b _ : Val) : Val × Nat := mulVal a b
def vFma (m : Nat) (a b d : Val) : Val × Nat := fmaVal m a b d
def vFms (m : Nat) (a b d : Val) : Val × Nat := fmaVal m a.neg b d
def vMin (_ : Nat) (a b _ : Val) : Val × Nat := minVal a b
def vMax (_ : Nat) (a b _ : Val) : Val × Nat := maxVal a b
def vClamp (_ : Nat) (a b d : Val) : Val × Nat :=
  let x := maxVal d a
  let y := minVal x.1 b
  (y.1, x.2 ||| y.2)
/-- VABS and VNEG change only the sign; a NaN becomes canonical (R156). -/
def vAbs (_ : Nat) (a _ _ : Val) : Val × Nat := (a.abs, nanFlags [a])
def vNeg (_ : Nat) (a _ _ : Val) : Val × Nat := (a.neg, nanFlags [a])

/-- One element of an element-wise operation. -/
def elemOp (fi : Int → Int → Int → Int) (ff : Nat → Val → Val → Val → Val × Nat) (t mode : Nat) (ov : Bool)
    (a b d : Nat) : Nat × Nat :=
  if isInt t then (elemBits t (fi (elemInt t a) (elemInt t b) (elemInt t d)), 0) else floatOp ff t mode ov a b d

/-- What an element-wise word names and does: operation on integers and on values, whether it rounds, and whether the
pass-through source is vd. An unused operand is read as 0. -/
structure EwOp where
  fi : Int → Int → Int → Int
  ff : Nat → Val → Val → Val → Val × Nat
  rounds : Bool
  useB : Bool
  passD : Bool

/-- An element-wise word (R156). -/
def State.elementwise (s : State) (o : EwOp) (v a b : BitVec 5) (k : BitVec 3) (m : BitVec 2) :
    Host.Outcome State Fault Refusal :=
  s.vec ([v.toNat, a.toNat] ++ if o.useB then [b.toNat] else []) s.occB (fun s =>
    let x := s.elemsOf a.toNat
    let y := if o.useB then s.elemsOf b.toNat else []
    let d := if o.passD then s.elemsOf v.toNat else []
    let s := s.mFallback m o.rounds
    s.vecOut (s.occB + 3) v.toNat s.ty
      (passThrough (s.act k) s.cols (if o.passD then d else x) (fun i =>
        elemOp o.fi o.ff s.ty (s.modeOf m) s.ovinf (x.getD i 0) (y.getD i 0) (d.getD i 0))))

def execVadd (v a b : BitVec 5) (k : BitVec 3) (m : BitVec 2) (s : State) : Host.Outcome State Fault Refusal :=
  s.elementwise { fi := iAdd, ff := vAdd, rounds := true, useB := true, passD := false } v a b k m
def execVsub (v a b : BitVec 5) (k : BitVec 3) (m : BitVec 2) (s : State) : Host.Outcome State Fault Refusal :=
  s.elementwise { fi := iSub, ff := vSub, rounds := true, useB := true, passD := false } v a b k m
def execVmul (v a b : BitVec 5) (k : BitVec 3) (m : BitVec 2) (s : State) : Host.Outcome State Fault Refusal :=
  s.elementwise { fi := iMul, ff := vMul, rounds := true, useB := true, passD := false } v a b k m
def execVfma (v a b : BitVec 5) (k : BitVec 3) (m : BitVec 2) (s : State) : Host.Outcome State Fault Refusal :=
  s.elementwise { fi := iFma, ff := vFma, rounds := true, useB := true, passD := true } v a b k m
def execVfms (v a b : BitVec 5) (k : BitVec 3) (m : BitVec 2) (s : State) : Host.Outcome State Fault Refusal :=
  s.elementwise { fi := iFms, ff := vFms, rounds := true, useB := true, passD := true } v a b k m
def execVmin (v a b : BitVec 5) (k : BitVec 3) (m : BitVec 2) (s : State) : Host.Outcome State Fault Refusal :=
  s.elementwise { fi := iMin, ff := vMin, rounds := false, useB := true, passD := false } v a b k m
def execVmax (v a b : BitVec 5) (k : BitVec 3) (m : BitVec 2) (s : State) : Host.Outcome State Fault Refusal :=
  s.elementwise { fi := iMax, ff := vMax, rounds := false, useB := true, passD := false } v a b k m
def execVabs (v a : BitVec 5) (k : BitVec 3) (m : BitVec 2) (s : State) : Host.Outcome State Fault Refusal :=
  s.elementwise { fi := iAbs, ff := vAbs, rounds := false, useB := false, passD := false } v a 0 k m
def execVneg (v a : BitVec 5) (k : BitVec 3) (m : BitVec 2) (s : State) : Host.Outcome State Fault Refusal :=
  s.elementwise { fi := iNeg, ff := vNeg, rounds := false, useB := false, passD := false } v a 0 k m
def execVclamp (v a b : BitVec 5) (k : BitVec 3) (m : BitVec 2) (s : State) : Host.Outcome State Fault Refusal :=
  s.elementwise { fi := iClamp, ff := vClamp, rounds := false, useB := true, passD := true } v a b k m

/-! ## Logic and shifts (R157) -/

/-- The operations on raw bits: element width, a, b. -/
def lAnd (_ a b : Nat) : Nat := a &&& b
def lOr (_ a b : Nat) : Nat := a ||| b
def lXor (_ a b : Nat) : Nat := a ^^^ b
def lNot (w a _ : Nat) : Nat := 2 ^ w - 1 - a
def lShl (w a b : Nat) : Nat := a * 2 ^ (b % w) % 2 ^ w
def lShr (w a b : Nat) : Nat := a / 2 ^ (b % w)
def lSar (w a b : Nat) : Nat := ofInt (sgn a w / 2 ^ (b % w)) w

/-- A word on raw bits (R157). -/
def State.bitwise (s : State) (f : Nat → Nat → Nat → Nat) (useB : Bool) (v a b : BitVec 5) (k : BitVec 3) (m : BitVec 2) :
    Host.Outcome State Fault Refusal :=
  s.vec ([v.toNat, a.toNat] ++ if useB then [b.toNat] else []) s.occB (fun s =>
    let x := s.elemsOf a.toNat
    let y := if useB then s.elemsOf b.toNat else []
    let s := s.mFallback m false
    s.vecOut (s.occB + 3) v.toNat s.ty
      (passThrough (s.act k) s.cols x (fun i => (f (typeBits s.ty) (x.getD i 0) (y.getD i 0), 0))))

def execVand (v a b : BitVec 5) (k : BitVec 3) (m : BitVec 2) (s : State) : Host.Outcome State Fault Refusal :=
  s.bitwise lAnd true v a b k m
def execVor (v a b : BitVec 5) (k : BitVec 3) (m : BitVec 2) (s : State) : Host.Outcome State Fault Refusal :=
  s.bitwise lOr true v a b k m
def execVxor (v a b : BitVec 5) (k : BitVec 3) (m : BitVec 2) (s : State) : Host.Outcome State Fault Refusal :=
  s.bitwise lXor true v a b k m
def execVnot (v a : BitVec 5) (k : BitVec 3) (m : BitVec 2) (s : State) : Host.Outcome State Fault Refusal :=
  s.bitwise lNot false v a 0 k m
def execVshl (v a b : BitVec 5) (k : BitVec 3) (m : BitVec 2) (s : State) : Host.Outcome State Fault Refusal :=
  s.bitwise lShl true v a b k m
def execVshr (v a b : BitVec 5) (k : BitVec 3) (m : BitVec 2) (s : State) : Host.Outcome State Fault Refusal :=
  s.bitwise lShr true v a b k m
def execVsar (v a b : BitVec 5) (k : BitVec 3) (m : BitVec 2) (s : State) : Host.Outcome State Fault Refusal :=
  s.bitwise lSar true v a b k m

/-! ## Compares, selection, mask operations (R158 to R160) -/

/-- The comparisons of R158 on values, with flags: code 0 =, 1 <, 2 ≤. -/
def cmpVals (o : Nat) (a b : Val) : Bool × Nat :=
  if a.isNan || b.isNan then (false, if o = 0 then nanFlags [a, b] else flagNV)
  else (match o with
    | 0 => eqVal a b
    | 1 => ltVal a b
    | _ => !ltVal b a, 0)

/-- A vector compare (R158): inactive positions get 0, a write to m0 is discarded (R151). -/
def State.vcompare (s : State) (o : Nat) (v : BitVec 3) (a b : BitVec 5) (k : BitVec 3) (m : BitVec 2) :
    Host.Outcome State Fault Refusal :=
  s.vec [a.toNat, b.toNat] s.occB (fun s =>
    let x := s.elemsOf a.toNat
    let y := s.elemsOf b.toNat
    let s := s.mFallback m false
    let res := (List.range (shapeCount s.shp)).map (fun i =>
      if activeAt (s.act k) s.cols i then
        let c := cmpVals o (decodeVal s.ty (x.getD i 0)) (decodeVal s.ty (y.getD i 0))
        (c.1, c.2 ||| decodeFlags s.ty (x.getD i 0) ||| decodeFlags s.ty (y.getD i 0))
      else (false, 0))
    s.land (s.occB + 3)
      (maskLand v.toNat s.rows s.cols (res.map (·.1)) :: flagLands (res.foldl (fun f e => f ||| e.2) 0)))

def execVcmpeq (v : BitVec 3) (a b : BitVec 5) (k : BitVec 3) (m : BitVec 2) (s : State) :
    Host.Outcome State Fault Refusal := s.vcompare 0 v a b k m
def execVcmplt (v : BitVec 3) (a b : BitVec 5) (k : BitVec 3) (m : BitVec 2) (s : State) :
    Host.Outcome State Fault Refusal := s.vcompare 1 v a b k m
def execVcmple (v : BitVec 3) (a b : BitVec 5) (k : BitVec 3) (m : BitVec 2) (s : State) :
    Host.Outcome State Fault Refusal := s.vcompare 2 v a b k m

/-- VSEL (R159): va where the selector is 1, vb elsewhere, bit for bit. -/
def execVsel (v a b : BitVec 5) (k : BitVec 3) (m : BitVec 2) (s : State) : Host.Outcome State Fault Refusal :=
  s.vec [v.toNat, a.toNat, b.toNat] s.occB (fun s =>
    let x := s.elemsOf a.toNat
    let y := s.elemsOf b.toNat
    let s := s.mFallback m false
    s.vecOut (s.occB + 3) v.toNat s.ty (passThrough (s.act k) s.cols y (fun i => (x.getD i 0, 0))))

/-- The mask operations of R160: 0 and, 1 or, 2 xor, 3 and-not. -/
def maskOp (o : BitVec 2) (x y : MaskBits) : MaskBits :=
  if o = 0 then x &&& y else if o = 1 then x ||| y else if o = 2 then x ^^^ y else x &&& ~~~y

/-- VMSKOP (R160). -/
def execVmskop (o : BitVec 2) (v a b k : BitVec 3) (m : BitVec 2) (s : State) : Host.Outcome State Fault Refusal :=
  s.vec [] 1 (fun s =>
    let r := maskOp o (s.me.mr a.toNat) (s.me.mr b.toNat)
    let s := (s.mFallback m false).kFallback k
    s.land 4 [.mask v.toNat r (BitVec.ofNat 16384 (shapeMask s.rows s.cols))])

/-! ## Moves, fills and element access (R161, R162) -/

/-- A word that computes every element and takes no mask: `src` names the tile whose elements `f` reads, if any, `tiles`
every tile named; `rounds` as in `mFallback`. -/
def State.fillWith (s : State) (tiles src : List Nat) (v : BitVec 5) (k : BitVec 3) (m : BitVec 2) (rounds : Bool)
    (f : State → List Nat → Nat → Nat × Nat) : Host.Outcome State Fault Refusal :=
  s.vec tiles s.occB (fun s =>
    let x := src.flatMap s.elemsOf
    let l := (List.range (shapeCount s.shp)).map (f s x)
    let s := (s.mFallback m rounds).kFallback k
    s.vecOut (s.occB + 3) v.toNat s.ty l)

def execVmov (v a : BitVec 5) (k : BitVec 3) (m : BitVec 2) (s : State) : Host.Outcome State Fault Refusal :=
  s.fillWith [v.toNat, a.toNat] [a.toNat] v k m false (fun _ x i => (x.getD i 0, 0))
def execVfill (v g : BitVec 5) (k : BitVec 3) (m : BitVec 2) (s : State) : Host.Outcome State Fault Refusal :=
  s.fillWith [v.toNat] [] v k m false (fun s _ _ => (s.me.gn g.toNat % 2 ^ typeBits s.ty, 0))

/-- The position number of VIOTA: 0 linear, 1 column, 2 row, 3 column-major (R161). -/
def iotaAt (kind : BitVec 2) (rows cols i : Nat) : Nat :=
  if kind = 0 then i else if kind = 1 then i % cols else if kind = 2 then i / cols else i % cols * rows + i / cols

/-- An exact integer converted to an element type (R63, R54, R57, R60). -/
def fromInteger (t mode : Nat) (ov : Bool) (x : Int) : Nat × Nat :=
  if isInt t then (narrowInt t (intVal x), 0) else toType t mode ov (intVal x)

def execViota (v g : BitVec 5) (n : BitVec 2) (k : BitVec 3) (m : BitVec 2) (s : State) :
    Host.Outcome State Fault Refusal :=
  s.fillWith [v.toNat] [] v k m true (fun s _ i =>
    fromInteger s.ty (s.modeOf m) s.ovinf (sg (s.me.gr g.toNat) + (iotaAt n s.rows s.cols i : Nat)))

/-- A broadcast: element `i` takes the source element that `f` names (R161). -/
def State.broadcast (s : State) (v a : BitVec 5) (k : BitVec 3) (m : BitVec 2) (f : State → Nat → Nat) :
    Host.Outcome State Fault Refusal :=
  s.vec [v.toNat, a.toNat] s.occB (fun s =>
    let x := s.elemsOf a.toNat
    let s := s.mFallback m false
    s.vecOut (s.occB + 3) v.toNat s.ty (passThrough (s.act k) s.cols x (fun i => (x.getD (f s i) 0, 0))))

def execVbrow (v a g : BitVec 5) (k : BitVec 3) (m : BitVec 2) (s : State) : Host.Outcome State Fault Refusal :=
  s.broadcast v a k m (fun s i => s.me.gn g.toNat % s.rows * s.cols + i % s.cols)
def execVbcol (v a g : BitVec 5) (k : BitVec 3) (m : BitVec 2) (s : State) : Host.Outcome State Fault Refusal :=
  s.broadcast v a k m (fun s i => i / s.cols * s.cols + s.me.gn g.toNat % s.cols)

/-- VGTE (R162): element n into a g register, extended by its type. -/
def execVgte (g a b : BitVec 5) (k : BitVec 3) (m : BitVec 2) (s : State) : Host.Outcome State Fault Refusal :=
  s.vec [a.toNat] 1 (fun s =>
    let x := (s.elemsOf a.toNat).getD (s.me.gn b.toNat % shapeCount s.shp) 0
    let s := (s.mFallback m false).kFallback k
    s.land 4 [.g g.toNat (BitVec.ofInt 64 (if isInt s.ty then elemInt s.ty x else x))])

/-- VPTE (R162): one element replaced, vd its own pass-through. -/
def execVpte (v a b : BitVec 5) (k : BitVec 3) (m : BitVec 2) (s : State) : Host.Outcome State Fault Refusal :=
  s.vec [v.toNat] 1 (fun s =>
    let n := s.me.gn b.toNat % shapeCount s.shp
    let l := ((s.elemsOf v.toNat).zipIdx).map (fun e =>
      (if e.2 = n then s.me.gn a.toNat % 2 ^ typeBits s.ty else e.1, 0))
    let s := (s.mFallback m false).kFallback k
    s.vecOut 4 v.toNat s.ty l)

/-! ## Reductions (R77, R78, R163, R164) -/

/-- One level of the tree: neighbours combined. -/
def treeLevel (f : Nat → Nat → Nat × Nat) : List Nat → List (Nat × Nat)
  | a :: b :: r => f a b :: treeLevel f r
  | [a] => [(a, 0)]
  | [] => []

/-- The tree of R77 over a list whose length is a power of two, in at most `n` levels, with the flags raised. -/
def treeReduce (f : Nat → Nat → Nat × Nat) : Nat → List Nat → Nat → Nat × Nat
  | 0, l, fl => (l.headD 0, fl)
  | n + 1, l, fl =>
    match l with
    | _ :: _ :: _ =>
      let r := treeLevel f l
      treeReduce f n (r.map (·.1)) (fl ||| orFlags r)
    | _ => (l.headD 0, fl)

/-- The least power of two at or above `c`. -/
def powerAbove (c : Nat) : Nat := if c ≤ 1 then 1 else 2 ^ ((c - 1).log2 + 1)

/-- The tree over `l`, padded with `pad` (R77). A tree over one element adds nothing and answers that element (log entry 110). -/
def tree (f : Nat → Nat → Nat × Nat) (pad : Nat) (l : List Nat) : Nat × Nat :=
  treeReduce f (powerAbove l.length).log2 (l ++ List.replicate (powerAbove l.length - l.length) pad) 0

/-- The padding value of a maximum: −∞, −448 for E4M3, the minimum of an integer type (R78). -/
def maxPad (t : Nat) : Nat :=
  if isInt t then elemBits t (intMin t) else if t = 4 then 0xFE else if t = 6 then 0x83 else signBit t true + infBits t

/-- Sum and maximum of two elements. -/
def sumStep (t mode : Nat) (ov : Bool) (a b : Nat) : Nat × Nat := elemOp iAdd vAdd t mode ov a b 0
def maxStep (t : Nat) (a b : Nat) : Nat × Nat := elemOp iMax vMax t 0 false a b 0

/-- The element numbers of row `r` or column `c` of a shape. -/
def rowIndices (cols r : Nat) : List Nat := (List.range cols).map (r * cols + ·)
def colIndices (rows cols c : Nat) : List Nat := (List.range rows).map (fun r => r * cols + c)

/-- The result of a reduction: groups of element numbers and where each result goes; every other element passes through
(R163). -/
def reduceInto (pass : List Nat) (groups : List (Nat × (Nat × Nat))) : List (Nat × Nat) :=
  (pass.zipIdx).map (fun e => match groups.find? (fun g => g.1 == e.2) with
    | some g => g.2
    | none => (e.1, 0))

/-- The groups of a reduction: rows go to element (r, 0), columns to element (0, c). -/
def reduceGroups (byRow : Bool) (rows cols : Nat) (f : List Nat → Nat × Nat) : List (Nat × (Nat × Nat)) :=
  if byRow then (List.range rows).map (fun r => (r * cols, f (rowIndices cols r)))
  else (List.range cols).map (fun c => (c, f (colIndices rows cols c)))

/-- A row or column reduction (R163). -/
def State.reduction (s : State) (byRow sum : Bool) (v a : BitVec 5) (k : BitVec 3) (m : BitVec 2) :
    Host.Outcome State Fault Refusal :=
  s.vec [v.toNat, a.toNat] s.occB (fun s =>
    let x := s.elemsOf a.toNat
    let t := s.ty
    let s := s.mFallback m sum
    let one (l : List Nat) : Nat × Nat :=
      if sum then
        let r := tree (sumStep t (s.modeOf m) s.ovinf) 0
          (l.map (fun i => if activeAt (s.act k) s.cols i then x.getD i 0 else 0))
        (r.1, r.2 ||| (l.filter (activeAt (s.act k) s.cols)).foldl (fun f i => f ||| decodeFlags t (x.getD i 0)) 0)
      else
        let l := l.filter (activeAt (s.act k) s.cols)
        let r := tree (maxStep t) (maxPad t) (maxPad t :: l.map (fun i => x.getD i 0))
        (r.1, r.2 ||| l.foldl (fun f i => f ||| decodeFlags t (x.getD i 0)) 0)
    s.vecOut (s.occB + 3) v.toNat t (reduceInto x (reduceGroups byRow s.rows s.cols one)))

def execVrsum (v a : BitVec 5) (k : BitVec 3) (m : BitVec 2) (s : State) : Host.Outcome State Fault Refusal :=
  s.reduction true true v a k m
def execVrmax (v a : BitVec 5) (k : BitVec 3) (m : BitVec 2) (s : State) : Host.Outcome State Fault Refusal :=
  s.reduction true false v a k m
def execVcsum (v a : BitVec 5) (k : BitVec 3) (m : BitVec 2) (s : State) : Host.Outcome State Fault Refusal :=
  s.reduction false true v a k m
def execVcmax (v a : BitVec 5) (k : BitVec 3) (m : BitVec 2) (s : State) : Host.Outcome State Fault Refusal :=
  s.reduction false false v a k m

/-- VRDOT (R164): each product rounded once, then the tree. -/
def execVrdot (v a b : BitVec 5) (k : BitVec 3) (m : BitVec 2) (s : State) : Host.Outcome State Fault Refusal :=
  s.vec [v.toNat, a.toNat, b.toNat] s.occB (fun s =>
    let x := s.elemsOf a.toNat
    let y := s.elemsOf b.toNat
    let t := s.ty
    let s := s.mFallback m true
    let one (l : List Nat) : Nat × Nat :=
      let p := l.map (fun i =>
        if activeAt (s.act k) s.cols i then elemOp iMul vMul t (s.modeOf m) s.ovinf (x.getD i 0) (y.getD i 0) 0 else (0, 0))
      let r := tree (sumStep t (s.modeOf m) s.ovinf) 0 (p.map (·.1))
      (r.1, r.2 ||| orFlags p)
    s.vecOut (s.occB + 3) v.toNat t (reduceInto x (reduceGroups true s.rows s.cols one)))

/-! ## Rearrangement (R165 to R168) -/

/-- VTRN (R165): C rows by R columns of the same type; more than 64 columns is illegal. -/
def execVtrn (v a : BitVec 5) (k : BitVec 3) (m : BitVec 2) (s : State) : Host.Outcome State Fault Refusal :=
  s.vec [v.toNat, a.toNat] s.occB (fun s =>
    if 64 < s.cols then s.illegal
    else
      let x := s.elemsOf a.toNat
      let s := (s.mFallback m false).kFallback k
      s.vecOut (s.occB + 3) v.toNat s.ty
        ((List.range (shapeCount s.shp)).map (fun i => (x.getD (i % s.rows * s.cols + i / s.rows) 0, 0))))

/-- VZIPk and VUNZk (R166): `f` names the source element, over all tiles, of element `i` of the concatenated result. -/
def State.zip (s : State) (n : Nat) (v a : BitVec 5) (k : BitVec 3) (m : BitVec 2) (f : Nat → Nat → Nat) :
    Host.Outcome State Fault Refusal :=
  s.vec (span v.toNat n ++ span a.toNat n) (n * s.occB) (fun s =>
    if 31 < a.toNat + n - 1 ∨ 31 < v.toNat + n - 1 then s.illegal
    else
      let c := shapeCount s.shp
      let src := (span a.toNat n).flatMap s.elemsOf
      let s := (s.mFallback m false).kFallback k
      s.land (n * s.occB + 3) ((List.range n).map (fun j =>
        tileLand (v.toNat + j) s.ty ((List.range c).map (fun i => src.getD (f c (j * c + i)) 0)))))

/-- The source of element `i` of VZIPk's result: tile i mod k, element i ÷ k. -/
def zipFrom (k c i : Nat) : Nat := i % k * c + i / k
/-- The source of element `i` of VUNZk's result z read at k × n + j, for tile j and element n. -/
def unzipFrom (k c i : Nat) : Nat := i % c * k + i / c

def execVzip2 (v a : BitVec 5) (k : BitVec 3) (m : BitVec 2) (s : State) : Host.Outcome State Fault Refusal :=
  s.zip 2 v a k m (zipFrom 2)
def execVzip3 (v a : BitVec 5) (k : BitVec 3) (m : BitVec 2) (s : State) : Host.Outcome State Fault Refusal :=
  s.zip 3 v a k m (zipFrom 3)
def execVzip4 (v a : BitVec 5) (k : BitVec 3) (m : BitVec 2) (s : State) : Host.Outcome State Fault Refusal :=
  s.zip 4 v a k m (zipFrom 4)
def execVunz2 (v a : BitVec 5) (k : BitVec 3) (m : BitVec 2) (s : State) : Host.Outcome State Fault Refusal :=
  s.zip 2 v a k m (unzipFrom 2)
def execVunz3 (v a : BitVec 5) (k : BitVec 3) (m : BitVec 2) (s : State) : Host.Outcome State Fault Refusal :=
  s.zip 3 v a k m (unzipFrom 3)
def execVunz4 (v a : BitVec 5) (k : BitVec 3) (m : BitVec 2) (s : State) : Host.Outcome State Fault Refusal :=
  s.zip 4 v a k m (unzipFrom 4)

/-- VPERM (R167): the index tile is read as unsigned bytes. -/
def execVperm (v a b : BitVec 5) (k : BitVec 3) (m : BitVec 2) (s : State) : Host.Outcome State Fault Refusal :=
  s.fillWith [v.toNat, a.toNat, b.toNat] [a.toNat] v k m false (fun s x i =>
    let j := (s.tile s.cur.sid b.toNat).toNat / 2 ^ (8 * (i % 4096)) % 256
    (x.getD (i / s.cols * s.cols + j % s.cols) 0, 0))

/-- VROT (R168). -/
def execVrot (v a g : BitVec 5) (k : BitVec 3) (m : BitVec 2) (s : State) : Host.Outcome State Fault Refusal :=
  s.fillWith [v.toNat, a.toNat] [a.toNat] v k m false (fun s x i =>
    let j : Int := (((i % s.cols : Nat) : Int) - sg (s.me.gr g.toNat)) % (s.cols : Int)
    (x.getD (i / s.cols * s.cols + j.toNat) 0, 0))

/-! ## Conversion and quantisation (R169 to R171) -/

/-- VCVT (R169). -/
def execVcvt (v a : BitVec 5) (t : BitVec 4) (k : BitVec 3) (m : BitVec 2) (s : State) :
    Host.Outcome State Fault Refusal :=
  let out := bytesFor t.toNat (shapeCount s.shp)
  let occ := slots (max (shapeBytes s.shp) out)
  s.vec [v.toNat, a.toNat] occ (fun s =>
    if 4096 < out then s.illegal
    else
      let l := (s.elemsOf a.toNat).map (convert s.ty t.toNat m.toNat s.ovinf)
      (s.kFallback k).vecOut (occ + 3) v.toNat t.toNat l)

/-- Entries of an amax ring that count (R21). -/
def Ring.counted (r : Ring) : List Nat := (List.range r.cnt).map (fun i => (Fm.get 0 r.ent i).toNat)
/-- An entry pushed into a ring (R21). -/
def Ring.push (r : Ring) (x : W32) : Ring :=
  { ent := Fm.set r.ent r.nxt x, nxt := (r.nxt + 1) % 16, cnt := min (r.cnt + 1) 16 }

/-- VQNT (R171): the format stands in the mask field; codes 5 to 7 are illegal. -/
def execVqnt (v a : BitVec 5) (n : BitVec 4) (f : BitVec 3) (s : State) : Host.Outcome State Fault Refusal :=
  let t := quantType f.toNat
  let out := bytesFor t (shapeCount s.shp)
  let occ := slots (max (shapeBytes s.shp) out)
  s.vec [v.toNat, a.toNat] occ (fun s =>
    if 5 ≤ f.toNat ∨ 4096 < out then s.illegal
    else
      let sc := selectScale (s.me.ring n.toNat).counted f.toNat
      let l := (s.elemsOf a.toNat).map (fun x =>
        let q := quantise f.toNat sc (decodeVal s.ty x)
        (q.1, q.2 ||| decodeFlags s.ty x))
      s.vecOut (occ + 3) v.toNat t l)

/-- The absolute maximum of R69 as FP32 bits, and the flags of its rounding to FP32 by RNE (R54). A NaN element, a signalling one
included, raises nothing (log entry 59). -/
def absMax (t : Nat) (l : List Nat) : W32 × Nat :=
  let m := l.foldl (fun a x => let v := (decodeVal t x).abs
                               if v.isNan then a else (maxVal a v).1) (.fin false 0 1)
  let r := toBinary 1 0 false m
  (BitVec.ofNat 32 r.1, r.2)

/-- VAMX (R170). -/
def execVamx (n : BitVec 4) (a : BitVec 5) (k : BitVec 3) (s : State) : Host.Outcome State Fault Refusal :=
  s.vec [a.toNat] s.occB (fun s =>
    let l := (((s.elemsOf a.toNat).zipIdx).filter (fun e => activeAt (s.act k) s.cols e.2)).map (·.1)
    let m := absMax s.ty l
    s.land (s.occB + 3) (.ring n.toNat m.1 :: flagLands (l.foldl (fun f x => f ||| decodeFlags s.ty x) m.2)))

/-! ## Special functions (R79 to R85, R172) -/

/-- A special-function word: number of the function as in `special`. -/
def State.specialWord (s : State) (fn : Nat) (v a : BitVec 5) (k : BitVec 3) : Host.Outcome State Fault Refusal :=
  s.vec [v.toNat, a.toNat] (2 * s.occB) (fun s =>
    let x := s.elemsOf a.toNat
    s.vecOut (2 * s.occB + 9) v.toNat s.ty
      (passThrough (s.act k) s.cols x (fun i => special fn s.ty (x.getD i 0) s.ovinf)))

def execVrcpa (v a : BitVec 5) (k : BitVec 3) (s : State) : Host.Outcome State Fault Refusal := s.specialWord 0 v a k
def execVrsqa (v a : BitVec 5) (k : BitVec 3) (s : State) : Host.Outcome State Fault Refusal := s.specialWord 1 v a k
def execVexp2 (v a : BitVec 5) (k : BitVec 3) (s : State) : Host.Outcome State Fault Refusal := s.specialWord 2 v a k
def execVlog2 (v a : BitVec 5) (k : BitVec 3) (s : State) : Host.Outcome State Fault Refusal := s.specialWord 3 v a k
def execVtanh (v a : BitVec 5) (k : BitVec 3) (s : State) : Host.Outcome State Fault Refusal := s.specialWord 4 v a k

/-- SHAPE (R147): the register takes the new value in the issue cycle; it occupies no datapath. A shape of more than 4,096
bytes is illegal. -/
def execShape (val : BitVec 18) (s : State) : Host.Outcome State Fault Refusal :=
  s.issueFree (fun s => s.userOnly (fun s =>
    if 4096 < shapeBytes val then s.illegal else s.updMe (fun q => { q with shape := val })))

end Sys2Proof.Machine
end

