-- ==== Sys2Proof/Machine/Async.lean ====
section
/-! DEFINITION. The command queues of the ASY column (R232, R233, R242), copies (R234, R235, R371 to R373) and the merge
lane (R238, R369). -/

namespace Sys2Proof.Machine

open Sys2Proof

/-! ## Command queues (R232) -/

/-- Entries of a task that have their place in a queue. -/
def Seq.inQueue (q : Seq) (launch n : Nat) : Nat := q.cmds.countP (fun c => c.q == n && c.room && c.launch == launch)
/-- Whether an entry cannot enter a queue: it is full, or an earlier entry waits for it. -/
def Seq.queueShut (q : Seq) (n : Nat) : Bool :=
  decide (32 ≤ q.inQueue q.task.launch n) || q.cmds.any (fun c => c.q == n && !c.room && c.launch == q.task.launch)
/-- A non-detached entry of the present task is not done: a copy in flight (R123, R232). -/
def Seq.inFlight (q : Seq) : Bool := q.cmds.any (fun c => !c.det && c.fence.isNone && c.launch == q.task.launch)

/-- The queues that an entry and the others of its QFENCE stand in. -/
def Cmd.queues (c : Cmd) : List Nat := match c.fence with
  | some m => onesOf m 16
  | none => [c.q]

/-- Entries that waited for room take their places, in order (R317). -/
def Seq.takePlaces (q : Seq) : Seq :=
  (((q.cmds.filter (fun c => !c.room)).map (fun c => (c.id, c.launch, c.queues))).eraseDups.foldl
    (fun (st : Seq × List Nat) e =>
      if e.2.2.any (fun n => st.2.contains n || decide (32 ≤ st.1.inQueue e.2.1 n)) then (st.1, st.2 ++ e.2.2)
      else ({ st.1 with cmds := st.1.cmds.map (fun c => if c.id = e.1 then { c with room := true } else c) }, st.2))
    (q, [])).1

/-- Whether an entry is the first of its queue. -/
def Seq.isFirst (q : Seq) (c : Cmd) : Bool :=
  !q.cmds.any (fun x => x.q == c.q && x.launch == c.launch && decide (x.ord < c.ord))
/-- Whether everything before a fence entry in its queues is done (R242). -/
def Seq.fenceOpen (q : Seq) (c : Cmd) : Bool :=
  !q.cmds.any (fun x => c.queues.contains x.q && x.launch == c.launch && decide (x.ord < c.ord))

/-- Whether the entries of a partition stand: its time stands, or STOP or MFREEZE has paused them (R333, R373). -/
def State.copiesHeld (s : State) (part : Nat) : Bool :=
  part != 63 && ((s.part part).stood.isSome || (s.part part).hold)
/-- Whether an entry stops at its next chunk boundary: a detached one with its partition, any other one with its task or a
freeze (R328, R331, R333, R371). -/
def State.entryHeld (s : State) (c : Cmd) : Bool :=
  if c.det then s.copiesHeld c.part
  else (c.part != 63 && (s.part c.part).stood.isSome) || (c.launch == (s.seq c.sid).task.launch &&
    (match (s.seq c.sid).run with
      | .ending _ | .saving _ => true
      | _ => false))

/-- Whether an entry belongs to an older generation of its partition: its work is discarded (R342). -/
def State.stale (s : State) (c : Cmd) : Bool := c.part != 63 && c.gen != s.gen c.part

/-- An entry changed. -/
def State.updCmd (s : State) (sid id : Nat) (f : Cmd → Cmd) : State :=
  s.updSeq sid (fun q => { q with cmds := q.cmds.map (fun c => if c.id = id then f c else c) })
/-- An entry by its identity. -/
def State.cmd (s : State) (sid id : Nat) : Option Cmd := (s.seq sid).cmds.find? (fun c => c.id == id)

/-- The start of an entry goes on the agenda: a lane is looked at before the words of the cycle, a scratchpad with its
accesses. -/
def State.startAt (s : State) (c : Cmd) (k : Nat) : State :=
  let s := s.updCmd c.sid c.id (fun c => { c with start := some k })
  match c.ins with
  | .cpy _ _ _ _ =>
    if c.gs.getD 2 0 = 0 then s.push { cyc := k, cls := 1, key := c.sid, ins := .cpyDone, arg := .cmd c.sid c.id }
    else s.push { cyc := k, cls := 2, key := c.sid, ins := .asyEntryStart, arg := .cmd c.sid c.id }
  | .merge _ _ => s.push { cyc := k, cls := 2, key := c.sid, ins := .asyEntryStart, arg := .cmd c.sid c.id }
  | _ => s.push { cyc := k, cls := 4, key := engineKey c.sid c.issue, ins := .asyEntryStart, arg := .cmd c.sid c.id }

/-- What the end or the arrival of an entry sets going: places, starts at S := max(issue + 1, done of the previous entry + 1),
fences (R232, R242). -/
def State.kick (s : State) (sid : Nat) : State :=
  let s := s.updSeq sid Seq.takePlaces
  (s.seq sid).cmds.foldl (fun s c =>
    if !c.room || c.start.isSome then s
    else match c.fence with
      | some _ =>
        if (s.seq sid).fenceOpen c then
          (s.updCmd sid c.id (fun c => { c with start := some s.now })).push
            { cyc := s.now, cls := 1, key := sid, ins := .qfenceDone, arg := .cmd sid c.id }
        else s
      | none => if (s.seq sid).isFirst c && !s.entryHeld c then s.startAt { c with sid := sid } (max (c.issue + 1) (s.now + 1)) else s) s

/-- An entry is done and leaves its queue. -/
def State.entryDone (s : State) (sid id : Nat) : State :=
  let s := s.updSeq sid (fun q => { q with cmds := q.cmds.filter (fun c => c.id != id) })
  let t : State := { s with saved := s.saved.map (fun x =>
    if x.sid = sid then { x with doneCmds := id :: x.doneCmds } else x) }
  t.kick sid
/-- An entry is done in cycle `c`. -/
def State.doneAt (s : State) (c sid id : Nat) (i : Instr) : State :=
  s.push { cyc := c, cls := 1, key := sid, ins := i, arg := .cmd sid id }

/-- The entry of the present word, with the operands read at issue. -/
def State.entry (s : State) (i : Instr) (q : Nat) (gs : List Nat) (hs : List Handle) (det : Bool) : Cmd :=
  { w := s.cur.w, ins := i, gs := gs, hs := hs, sid := s.cur.sid, q := q, issue := s.now, ord := s.me.cmdOrd,
    launch := s.me.task.launch, part := s.myPart, gen := s.gen s.myPart, det := det, shape := s.me.shape.toNat,
    yb := s.me.ybound, pt := s.ptime s.myPart }

/-- Entries enter their queues, or wait alone for room. -/
def State.enqueue (s : State) (l : List Cmd) (room : Bool) : State :=
  let (id, s) := s.fresh
  (s.updMe (fun q => { q with cmds := q.cmds ++ l.map (fun c => { c with id := id, room := room }), cmdOrd := q.cmdOrd + 1 })).kick
    s.cur.sid

/-- An ASY word of queue `n`: a full queue is a queue-full violation; in STALL and untimed mode the word does not issue, in
TRAP mode its entry alone waits (R232, R317). `k` gives the entry, or a fault. -/
def State.asyWord (s : State) (qs : List Nat) (k : Bool → State → State) : Host.Outcome State Fault Refusal :=
  let shut := qs.any s.me.queueShut
  s.issueShort 1 shut (k (!shut))

/-- The values of `n` g registers from `c`. -/
def State.gGroup (s : State) (c : BitVec 6) (n : Nat) : List Nat := (span c.toNat n).map s.me.gn

/-- A scratchpad address of an ASY word: the half has a scratchpad, `n` bytes, 64-aligned (R233, R269). -/
def State.asySpad (s : State) (addr n : Nat) : Bool :=
  s.hasSpad s.cur.sid && addr % 64 == 0 && decide (addr + n ≤ Config.spadBytes)

/-! ## QFENCE (R242) -/

def execQfence (m : BitVec 16) (s : State) : Host.Outcome State Fault Refusal :=
  let qs := onesOf m.toNat 16
  s.asyWord qs (fun room s =>
    if m = 0 then s
    else s.enqueue (qs.map (fun n => { s.entry (.qfence m) n [] [] false with fence := some m.toNat })) room)

/-- QFENCE_DONE: the fence entries leave their queues. -/
def execQfenceDone (s : State) : Host.Outcome State Fault Refusal :=
  match s.arg with
  | .cmd sid id => .next (s.entryDone sid id)
  | _ => .next s

/-! ## Copies (R234, R235, R371 to R373) -/

/-- The two sides of a copy: source and destination in the scratchpad, offsets, length, handles. -/
structure CopyOps where
  ss : Bool
  sd : Bool
  src : Nat
  dst : Nat
  len : Nat
  hs : Handle
  hd : Handle
  deriving DecidableEq, Repr

/-- The operands of a copy entry. -/
def Cmd.copy (c : Cmd) (m : Nat) : CopyOps :=
  { ss := bit m 0, sd := bit m 1, dst := c.gs.getD 0 0, src := c.gs.getD 1 0, len := c.gs.getD 2 0,
    hs := c.hs.getD 0 {}, hd := c.hs.getD 1 {} }
/-- M of a copy entry. -/
def Cmd.copyM (c : Cmd) : Nat := match c.ins with
  | .cpy _ _ _ m => m.toNat
  | .cpyd _ _ _ m => m.toNat
  | _ => 0
def Cmd.ops (c : Cmd) : CopyOps := c.copy c.copyM

/-- The checks of a copy at issue (R233, R234, R175): 0, or the fault code. -/
def State.copyCheck (s : State) (o : CopyOps) (local_ : Bool) : Nat :=
  if (!o.ss && !s.handleOk o.hs permRead) || (!o.sd && !s.handleOk o.hd permWrite) ||
      (local_ && ((!o.ss && o.hs.tier != 0) || (!o.sd && o.hd.tier != 0))) then 2
  else if o.len % 64 ≠ 0 ∨
      (if o.ss then !s.asySpad o.src o.len else !boundsOk o.hs o.src o.len 64) ∨
      (if o.sd then !s.asySpad o.dst o.len else !boundsOk o.hd o.dst o.len 64) then 3
  else 0

/-- CPY: non-detached, within the module's HBM4E and the scratchpad. -/
def execCpy (q h : BitVec 4) (g : BitVec 6) (m : BitVec 2) (s : State) : Host.Outcome State Fault Refusal :=
  s.asyWord [q.toNat] (fun room s =>
    if !groupOk g.toNat 4 then s.illegal
    else
      let gs := s.gGroup g 4
      let c := s.entry (.cpy q h g m) q.toNat gs [s.me.hr (gs.getD 3 0 % 16), s.me.hr h.toNat] false
      let e := s.copyCheck c.ops true
      if e ≠ 0 then s.fault e else s.enqueue [c] room)

/-- CPYD: detached, between any tiers; it ends with a release of the object (R235). -/
def execCpyd (q h : BitVec 4) (g : BitVec 6) (m : BitVec 2) (s : State) : Host.Outcome State Fault Refusal :=
  s.asyWord [q.toNat] (fun room s =>
    if !groupOk g.toNat 6 then s.illegal
    else
      let gs := s.gGroup g 6
      let ho := s.me.hr (gs.getD 4 0 % 16)
      let c := s.entry (.cpyd q h g m) q.toNat gs [s.me.hr (gs.getD 3 0 % 16), s.me.hr h.toNat, ho] true
      let e := s.copyCheck c.ops false
      if e = 2 ∨ !s.handleOk ho permAtomic ∨ ho.tier ≠ 0 then s.handleFault
      else if e ≠ 0 ∨ !boundsOk ho (gs.getD 5 0) 16 16 then s.boundsFault
      else s.enqueue [c] room)

/-- Lr and Lw of R234. -/
def CopyOps.lr (o : CopyOps) (die : Nat) : Nat := if o.ss then 12 else if o.hs.home = die then 150 else 190
def CopyOps.lw (o : CopyOps) (die : Nat) : Nat := if o.sd then 2 else if o.hd.home = die then 140 else 180
/-- The cycle by which the first `n` bytes are written by a lane that starts at `st`. -/
def CopyOps.by (o : CopyOps) (die st n : Nat) : Nat := st + o.lr die + cdiv n 256 + o.lw die

/-- Bytes of chunk `n`. -/
def CopyOps.chunkLen (o : CopyOps) (n : Nat) : Nat := min 65536 (o.len - 65536 * n)

/-- The tier sequencer of a die (R377). -/
def State.tier (s : State) (die : Nat) : TierSeq := Fm.get {} s.tiers die
def State.updTier (s : State) (die : Nat) (f : TierSeq → TierSeq) : State := { s with tiers := Fm.set s.tiers die (f (s.tier die)) }

/-- Whether a handle's page is host memory that is no tier 2 page: it keeps no tags (R288, log entry 98). -/
def hostPage (h : Handle) : Bool := h.tier != 2 && regionOf h.base == .cxl
/-- The access of an engine to one side of a chunk. A detached copy reaches host memory itself, at its address behind the CXL window
(R399, log entry 98). -/
def Cmd.access (c : Cmd) (h : Handle) (off len n : Nat) : Access :=
  let host := c.det && hostPage h
  { id := c.id, sid := c.sid, space := if host then .host else .phys, addr := h.base + off - if host then 2 ^ 48 else 0, len := len, alloc := .engine, key := h.key, part := c.part,
    gen := c.gen, cls := 3, tier := h.tier, issue := c.issue, col := 7, chunk := some (c.id, n) }
/-- The access of an engine to a range of the scratchpad of its cluster. -/
def Cmd.spadAccess (c : Cmd) (off len n : Nat) : Access := { c.access {} off len n with space := .spad (spadOf c.sid) }

/-- The tags of a chunk as its side keeps them: none on host memory. -/
def sideTags (spad : Bool) (h : Handle) (tags : List Nat) : List Nat :=
  if !spad && hostPage h then tags.map (fun _ => 0x7F00) else tags

/-- A handle's page where it lies now: engine entries address pages through the current mapping (R291). -/
def State.nowAt (s : State) (part : Nat) (h : Handle) : Handle :=
  match s.walk part h.vbase with
  | some (e, sz, _) =>
    let x := s.handleOf part h.vbase e sz
    if bit e 2 && sz == h.sz then { h with base := x.base, tier := x.tier, home := x.home, key := x.key } else h
  | none => h

/-- The operands of a copy entry with its pages where they lie now. -/
def State.opsNow (s : State) (c : Cmd) : CopyOps :=
  { c.ops with hs := s.nowAt c.part c.ops.hs, hd := s.nowAt c.part c.ops.hd }

/-- Whether a page move holds new chunks of an entry (R291). -/
def State.pageHeld (s : State) (c : Cmd) : Bool :=
  let on (spad : Bool) (h : Handle) : Bool :=
    !spad && s.revokes.any (fun r => r.copying && r.part == c.part && decide (r.vbase ≤ h.vbase) && decide (h.vbase < r.vbase + r.size))
  on c.ops.ss c.ops.hs || on c.ops.sd c.ops.hd

/-- The blocks of a CPY chunk at its source, all in its read cycle (R244): bytes, tags, the offset of the first uncorrectable
block; such a chunk reads as zeros (R234). -/
def State.readChunk (s : State) (c : Cmd) (n : Nat) : Loaded × State :=
  let o := s.opsNow c
  let off := o.src + 65536 * n
  let len := o.chunkLen n
  if o.ss then
    let cl := spadOf c.sid
    let bad := s.spadFirstBad cl off len
    ({ data := if bad.isSome then 0 else s.spadRead cl off len,
       tags := (List.range (len / 64)).map (fun i => s.spadTag cl (off + 64 * i)), bad := bad }, s)
  else if s.cutOff { c.access o.hs off len n with issue := s.now } then
    ({ tags := List.replicate (cdiv len 64) 0x7F00, bad := some 0 }, s)
  else
    let (l, s) := s.loadBlocks (c.access o.hs off len n)
    ({ l with data := if l.bad.isSome then 0 else l.data, tags := sideTags false o.hs l.tags }, s)

/-- The blocks of a CPY chunk written at its destination with their tags, all in one cycle; capability tags are cleared. -/
def State.writeChunk (s : State) (c : Cmd) (n data : Nat) (tags : List Nat) : State :=
  let o := s.opsNow c
  let off := o.dst + 65536 * n
  let len := o.chunkLen n
  if o.sd then s.storeBlocks { c.spadAccess off len n with op := .write, data := data, tags := some tags }
  else if s.cutOff { c.access o.hd off len n with issue := s.now } then s
  else s.storeBlocks { c.access o.hd off len n with op := .write, data := data, tags := some (sideTags false o.hd tags) }

/-- The block whose replay buffer takes a chunk, where its side lies in a domain that is out of service (R276, R431). -/
def State.chunkHeld (s : State) (spad : Bool) (h : Handle) (off : Nat) : Option (Nat × Nat) :=
  if spad then none else s.heldAt (h.base + off)

/-- A chunk's next step goes on the agenda. -/
def State.chunkAt (s : State) (c : Cmd) (k : Nat) (a : Arg) : State :=
  s.push { cyc := k, cls := 4, key := engineKey c.sid c.issue, ins := if c.det then .cpydDone else .cpyDone, arg := a }

/-- A chunk joins a replay buffer; it takes its step in its replay cycle. -/
def State.holdChunk (s : State) (c : Cmd) (d : Nat × Nat) (addr : Nat) (a : Arg) : State :=
  s.withhold d addr 4 (if c.det then .cpydDone else .cpyDone) a
/-- Whether a chunk of an entry is held. -/
def State.chunkWaits (s : State) (p : Cmd → Bool) : Bool :=
  s.replays.any (fun h => match h.arg with
    | .chunk c _ | .chunkData c _ _ _ _ _ => p c
    | _ => false)

/-- Whether an event is a read phase of an entry's chunk: the read is ahead, or the chunk is not in the buffer yet. -/
def Arg.reads (id : Nat) : Arg → Bool
  | .chunk c _ => c.id == id
  | .chunkData c _ _ _ _ w => c.id == id && !w
  | _ => false
/-- The write phases of an entry on the agenda: one more than the last chunk that is in one. -/
def State.writing (s : State) (id : Nat) : Nat :=
  (s.agenda.map (·.arg) ++ s.replays.map (·.arg)).foldl (fun m e => match e with
    | .chunkData c n _ _ _ true => if c.id = id then max m (n + 1) else m
    | _ => m) 0

/-- A stop in a read phase of a lane entry: what is being read is abandoned, and read again from the first chunk that has no
write phase (R371). -/
def State.pauseLane (s : State) (c : Cmd) : State :=
  let n := s.writing c.id
  { s with agenda := s.agenda.filter (fun e => !e.arg.reads c.id), replays := s.replays.filter (fun h => !h.arg.reads c.id) }.updCmd c.sid c.id
    (fun c => { c with paused := true, chunk := max c.chunk n })

/-- A lane entry (re)starts at chunk `n`, read in cycle `k` (R371). -/
def State.laneFrom (s : State) (c : Cmd) (n k : Nat) : State :=
  let o := c.ops
  let die := dieOf c.sid
  let st := k - (o.lr die - 10 + 256 * n)
  let s := s.updCmd c.sid c.id (fun c => { c with start := some st, paused := false, chunk := n })
  let s := s.updSeq c.sid (fun q => { q with laneFree := o.by die st o.len })
  s.chunkAt c k (.chunk { c with start := some st, paused := false } n)

/-- A chunk that was held for `k` cycles puts the rest of its entry off: the lane stays taken so much longer. -/
def State.slipLane (s : State) (c : Cmd) (k : Nat) : State :=
  (s.updCmd c.sid c.id (fun c => { c with start := c.start.map (· + k) })).updSeq c.sid (fun q => { q with laneFree := q.laneFree + k })
/-- The start of an entry as its held chunks have moved it. -/
def State.startOf (s : State) (c : Cmd) : Nat := ((s.cmd c.sid c.id).bind (·.start)).getD (c.start.getD s.now)

/-- One step of a CPY chunk: the read begins; the buffer is full; the bytes are visible. -/
def State.laneChunk (s : State) (c : Cmd) (n : Nat) : State :=
  let o := s.opsNow c
  let die := dieOf c.sid
  if (s.cmd c.sid c.id).isNone then s
  else if s.entryHeld c then s.pauseLane c
  else if s.pageHeld c then (s.slipLane c 1).chunkAt c (s.now + 1) (.chunk c n)
  else match s.chunkHeld o.ss o.hs (o.src + 65536 * n) with
    | some d => s.holdChunk c d (o.hs.base + o.src + 65536 * n) (.chunk c n)
    | none =>
      let o := c.ops
      let s := s.slipLane c (s.now - (s.startOf c + o.lr die - 10 + 256 * n))
      let (l, s) := s.readChunk c n
      let st := s.startOf c
      let k := max (s.now + 1) (o.by die st (min o.len (65536 * (n + 1))) - o.lw die)
      let s := if 65536 * (n + 1) < o.len then s.chunkAt c (max (s.now + 1) (st + o.lr die - 10 + 256 * (n + 1))) (.chunk c (n + 1))
        else s
      s.chunkAt c k (.chunkData c n l.data l.tags l.bad false)

/-- ERRS of an uncorrectable chunk (R179, R234): the handle and the offset, or the scratchpad address (R49). A task that is not on the
half any more has no ERRS there (log entry 114). -/
def State.chunkBad (s : State) (c : Cmd) (o : CopyOps) (n : Nat) (bad : Option Nat) : State :=
  match bad with
  | none => s
  | some b =>
    if (s.seq c.sid).run = .idle ∨ (s.seq c.sid).task.launch ≠ c.launch ∨ (s.seq c.sid).task.part ≠ c.part then s
    else s.uncorrectableNext c.sid 7 (if o.ss then 0 else c.gs.getD 3 0 % 16) (o.src + 65536 * n + b)

/-- A CPY chunk leaves the buffer, and is written Lw later; a stop in its read phase abandons it. -/
def State.laneData (s : State) (c : Cmd) (n data : Nat) (tags : List Nat) (bad : Option Nat) (write : Bool) : State :=
  let o := c.ops
  if s.stale c then s
  else if !write then
    if (s.cmd c.sid c.id).isNone then s
    else if s.entryHeld c then s.pauseLane c
    else s.chunkAt c (s.now + o.lw (dieOf c.sid)) (.chunkData c n data tags bad true)
  else match s.chunkHeld o.sd (s.opsNow c).hd (o.dst + 65536 * n) with
  | some d => s.holdChunk c d ((s.opsNow c).hd.base + o.dst + 65536 * n) (.chunkData c n data tags bad true)
  | none =>
    let s := s.slipLane c (s.now - o.by (dieOf c.sid) (s.startOf c) (min o.len (65536 * (n + 1))))
    let s := (s.writeChunk c n data tags).chunkBad c o n bad
    s.updCmd c.sid c.id (fun c => { c with chunk := max c.chunk (n + 1) })

/-- CPY_DONE (R234): the steps of a copy's chunks, and its end: in its done cycle, in which its last chunk is written, or later
where a chunk is held (R260). -/
def execCpyDone (s : State) : Host.Outcome State Fault Refusal :=
  match s.arg with
  | .chunk c n => .next (s.laneChunk c n)
  | .chunkData c n data tags bad w => .next (s.laneData c n data tags bad w)
  | .cmd sid id =>
    match s.cmd sid id with
    | none => .next s
    | some c =>
      let o := c.ops
      let done := o.by (dieOf sid) (c.start.getD 0) o.len
      let last := (cdiv o.len 65536) - 1
      if c.paused then .next s
      else if o.len ≠ 0 ∧ s.now < done then .next (s.doneAt done sid id .cpyDone)
      else if o.len ≠ 0 ∧ c.chunk ≤ last ∧ (s.chunkWaits (fun x => x.id == id) || (s.chunkHeld o.sd (s.opsNow c).hd (o.dst + 65536 * last)).isSome) then
        .next (s.doneAt (s.now + 1) sid id .cpyDone)
      else .next (s.entryDone sid id)
  | _ => .next s

/-- A lane that is still busy at S is a structural-occupancy violation: STALL holds every column, TRAP delays the entry alone
(R369, R371). -/
def State.laneBusy (s : State) (c : Cmd) : State :=
  let s := s.violation c.sid 7 (!c.posted)
  let s := s.updCmd c.sid c.id (fun c => { c with posted := true, start := some (s.now + 1) })
  s.push { cyc := s.now + 1, cls := 2, key := c.sid, ins := .asyEntryStart, arg := .cmd c.sid c.id }

/-- A CPY starts at S. -/
def State.startCopy (s : State) (c : Cmd) : State :=
  let o := c.ops
  let die := dieOf c.sid
  if (s.now ≤ (s.seq c.sid).laneFree ∧ (s.seq c.sid).laneFree ≠ 0) ∨ s.chunkWaits (fun x => x.sid == c.sid && !x.det) then s.laneBusy c
  else
    let s := s.laneFrom { c with start := some s.now } 0 (s.now + o.lr die - 10)
    s.doneAt (o.by die s.now o.len) c.sid c.id .cpyDone

/-! ### Detached copy engines (R372) -/

/-- The cycle in which a partition's copy slots of a die have given `n` cycles from cycle `c` on; none where it holds no
slot. -/
def State.slotEnd (s : State) (die part : Nat) : Nat → Nat → Nat → Option Nat
  | 0, _, _ => none
  | k + 1, c, n =>
    let b := c + Fm.get 0 s.beacon die
    let left := 16 - b % 16
    if part = 63 ∨ bit ((s.part part).get (0x150 + 8 * die) 8) (b / 16 % 64) then
      if n ≤ left then some (c + n) else s.slotEnd die part k (c + left) (n - left)
    else s.slotEnd die part k (c + left) n

/-- The same, whole rounds of 1,024 cycles first. -/
def State.slotsEnd (s : State) (die part c n : Nat) : Option Nat :=
  let p := if part = 63 then 64 else popcount ((s.part part).get (0x150 + 8 * die) 8) 64
  if p = 0 then none
  else
    let full := (n - 1) / (16 * p)
    s.slotEnd die part 130 (c + 1024 * full) (n - 16 * p * full)

/-- Bytes per cycle of a detached copy: within the module, to or from tier 2 or host memory, to or from tier 3. -/
def CopyOps.rate (o : CopyOps) : Nat :=
  let far (t : Nat) : Bool := (!o.ss && o.hs.tier == t) || (!o.sd && o.hd.tier == t)
  if far 2 || (!o.ss && hostPage o.hs) || (!o.sd && hostPage o.hd) then 256 else if far 3 then 512 else 1024

/-- The cycle from which a partition's slots of a die serve CPYD chunks: after the moves that are in their copy phases (R377). -/
def State.movesUntil (s : State) (die part : Nat) : Nat :=
  (s.tier die).act.foldl (fun c m => if m.part = part then max c m.until_ else c) 0

/-- Detached entries of a die, in S order. -/
def State.detachedOf (s : State) (die : Nat) : List Cmd := Fm.get [] s.detached die
def State.setDetached (s : State) (die : Nat) (l : List Cmd) : State := { s with detached := Fm.set s.detached die l }

/-- The four engines of a die take entries in S order; each reads its next chunk in a cycle that is not promised. -/
def State.engage (s : State) (die : Nat) : State :=
  let l := s.detachedOf die
  let free := 4 - l.countP (·.engaged)
  let next := ((l.filter (fun c => !c.engaged && !s.entryHeld c)).take free).map (·.id)
  let s := s.setDetached die (l.map (fun c => if next.contains c.id then { c with engaged := true, paused := false } else c))
  (s.detachedOf die).foldl (fun s c =>
    if next.contains c.id then s.drew.chunkAt c (s.now + 1 + s.drawVal) (.chunk c c.chunk) else s) s

/-- A CPYD starts at S: it waits at the head of its queue while the die holds 1,024 detached entries. -/
def State.startDetached (s : State) (c : Cmd) : State :=
  let die := dieOf c.sid
  if 1024 ≤ (s.detachedOf die).length then s.startAt c (s.now + 1)
  else (s.setDetached die (s.detachedOf die ++ [{ c with start := some s.now }])).engage die

/-- A detached entry gives its engine back at a chunk boundary. -/
def State.disengage (s : State) (c : Cmd) (n : Nat) : State :=
  let die := dieOf c.sid
  (s.setDetached die ((s.detachedOf die).map (fun x =>
    if x.id = c.id then { x with engaged := false, paused := true, chunk := n } else x))).engage die

/-- The entry as the die's table holds it. -/
def State.detachedCmd (s : State) (c : Cmd) : Option Cmd := (s.detachedOf (dieOf c.sid)).find? (fun x => x.id == c.id)

/-- The bytes of a detached chunk take their slots, behind the moves of the partition (R372, R377), then are written. A stop
before that is one in the read phase: the chunk is read again (R371). -/
def State.moveChunk (s : State) (c : Cmd) (n data : Nat) (tags : List Nat) (bad : Option Nat) : State :=
  let o := s.opsNow c
  let die := dieOf c.sid
  let from_ := s.movesUntil die c.part
  if (s.detachedCmd c).isNone then s
  else if s.entryHeld c then s.disengage c n
  else if s.now < from_ then s.chunkAt c from_ (.chunkData c n data tags bad false)
  else match s.slotsEnd die c.part s.now (cdiv (o.chunkLen n) o.rate) with
  | some k => s.drew.chunkAt c (max (s.now + 1) (k + s.drawVal)) (.chunkData c n data tags bad true)
  | none => s.chunkAt c (s.now + 1024) (.chunkData c n data tags bad false)

/-- The access of a detached chunk: its blocks have free home cycles of their own (R244, R246). -/
def State.chunkAccess (s : State) (a : Access) : State :=
  let (a, k, s) := s.freeBlocks { a with issue := s.now } (s.now + 1)
  (s.rest a k).answerBy a

/-- A detached chunk is read. -/
def State.readDetached (s : State) (c : Cmd) (n : Nat) : State :=
  let o := s.opsNow c
  let off := o.src + 65536 * n
  let len := o.chunkLen n
  if (s.detachedCmd c).isNone then s
  else if s.entryHeld c then s.disengage c n
  else if s.pageHeld c then s.chunkAt c (s.now + 1) (.chunk c n)
  else if len = 0 then s.moveChunk c n 0 [] none
  else s.chunkAccess (if o.ss then c.spadAccess off len n else c.access o.hs off len n)

/-- The release of a CPYD's object (R235), as a REL of the issuing sequencer that is issued now (R195, log entry 99), at the
place where the object lies now. -/
def State.releaseCopy (s : State) (c : Cmd) : State :=
  let ho := s.nowAt c.part (c.hs.getD 2 {})
  let (id, s) := s.fresh
  s.push { cyc := s.now, cls := 5, key := c.sid, ins := .relEffect,
           arg := .access { id := id, sid := c.sid, addr := ho.base + c.gs.getD 5 0, key := ho.key, part := c.part, gen := c.gen,
                            issue := s.now } }

/-- A chunk is written: the next one, or the release of the object (R235). -/
def State.chunkWritten (s : State) (c : Cmd) (n : Nat) : State :=
  let o := c.ops
  let die := dieOf c.sid
  if 65536 * (n + 1) < o.len then
    let s := s.setDetached die ((s.detachedOf die).map (fun x => if x.id = c.id then { x with chunk := n + 1 } else x))
    if s.entryHeld c then s.disengage c (n + 1) else s.drew.chunkAt c (s.now + 1 + s.drawVal) (.chunk c (n + 1))
  else
    let s := (s.setDetached die ((s.detachedOf die).filter (fun x => x.id != c.id))).engage die
    (s.releaseCopy c).doneAt s.now c.sid c.id .cpydDone

/-- A detached chunk that has been moved is written. -/
def State.writeDetached (s : State) (c : Cmd) (n data : Nat) (tags : List Nat) (bad : Option Nat) : State :=
  let o := s.opsNow c
  let off := o.dst + 65536 * n
  let len := o.chunkLen n
  if (s.detachedCmd c).isNone then s
  else if s.movesUntil (dieOf c.sid) c.part > s.now then s.moveChunk c n data tags bad
  else
    let s := s.chunkBad c o n bad
    if len = 0 then s.chunkWritten c n
    else s.chunkAccess { (if o.sd then c.spadAccess off len n else c.access o.hd off len n) with
      op := .write, data := data, tags := some (sideTags o.sd o.hd tags) }

/-- CPYD_DONE (R235, R372): the steps of a detached copy's chunks, and its end. -/
def execCpydDone (s : State) : Host.Outcome State Fault Refusal :=
  match s.arg with
  | .chunk c n => .next (s.readDetached c n)
  | .chunkData c n data tags bad true => .next (s.writeDetached c n data tags bad)
  | .chunkData c n data tags bad false => .next (s.moveChunk c n data tags bad)
  | .chunkReply id n data tags bad w =>
    match (s.detached.flatMap (·.2)).find? (fun c => c.id == id) with
    | none => .next s
    | some c =>
      if w then .next (s.chunkWritten c n)
      else
        let o := s.opsNow c
        let tags := if bad.isSome then List.replicate (o.chunkLen n / 64) 0x7F00 else tags
        .next (s.moveChunk c n (if bad.isSome then 0 else data) (sideTags o.ss o.hs tags) bad)
  | .cmd sid id => .next (s.entryDone sid id)
  | _ => .next s

/-! ## MERGE (R238, R369) -/

/-- RS of R237. -/
def recordStride (hw : Nat) : Nat := 64 * cdiv (4 * hw + 16) 64

/-- n, ROWS and HW of a geometry word. -/
def mergeGeom (x : Nat) : Nat × Nat × Nat := (bits x 0 2 + 1, bits x 2 6 + 1, 8 * (bits x 8 5 + 1))

/-- The operand checks of MERGE (R238). -/
def State.mergeOk (s : State) (base stride out geom : Nat) : Bool :=
  let (n, rows, hw) := mergeGeom geom
  let ext := rows * recordStride hw
  stride % 64 == 0 && s.asySpad out ext &&
  (List.range n).all (fun i =>
    let a := base + i * stride
    s.asySpad a ext && (decide (a + ext ≤ out) || decide (out + ext ≤ a)))

def execMerge (q : BitVec 4) (g : BitVec 6) (s : State) : Host.Outcome State Fault Refusal :=
  s.asyWord [q.toNat] (fun room s =>
    if !groupOk g.toNat 4 then s.illegal
    else
      let gs := s.gGroup g 4
      if !s.mergeOk (gs.getD 0 0) (gs.getD 1 0) (gs.getD 2 0) (gs.getD 3 0) then s.boundsFault
      else s.enqueue [s.entry (.merge q g) q.toNat gs [] false] room)

/-- A record: o, m, l and STAT as FP32 and 32-bit words. -/
structure Partial where
  o : List Nat
  m : Nat
  l : Nat
  stat : Nat
  deriving DecidableEq, Repr

/-- A record as it lies in memory. -/
def partialOf (hw : Nat) (bytes : List Nat) : Partial :=
  let w (i : Nat) : Nat := ofBytes ((bytes.drop (4 * i)).take 4)
  { o := (List.range hw).map w, m := w hw, l := w (hw + 1), stat := w (hw + 2) }

/-- VRMAX over FP32 values (R78). -/
def max32 (l : List Nat) : Nat := (tree (maxStep 1) (maxPad 1) (maxPad 1 :: l)).1

/-- One output row of MERGE: the values and STAT. -/
def mergeRow (hw : Nat) (rs : List Partial) : List Nat × Nat :=
  let v := rs.filter (fun r => r.l % 2 ^ 31 != 0 && decide (r.stat ≤ 1))
  let d (x : Nat) : Val := decodeVal 1 x
  let (out, st) :=
    if v.isEmpty then (List.replicate hw 0, 1)
    else
      let m := max32 (v.map (·.m))
      let (l, o) := v.foldl (fun (acc : Val × List Val) r =>
        let w := (exp2A (sub32 (d r.m) (d m))).1
        (fma32 w (d r.l) acc.1, (acc.2.zip r.o).map (fun e => fma32 w (d e.2) e.1)))
        ((d 0, List.replicate hw (d 0)) : Val × List Val)
      (o.map (fun x => bits32 (divVal x l).1), 0)
  (out, if rs.any (fun r => decide (2 ≤ r.stat)) then st + 4 else st)

/-- The output rows of a MERGE entry as bytes, each at stride RS. -/
def State.mergeBytes (s : State) (c : Cmd) : List Nat :=
  let (n, rows, hw) := mergeGeom (c.gs.getD 3 0)
  let rs := recordStride hw
  (List.range rows).flatMap (fun r =>
    let (o, st) := mergeRow hw ((List.range n).map (fun i =>
      partialOf hw (s.spadRow (spadOf c.sid) (c.gs.getD 0 0 + i * c.gs.getD 1 0 + r * rs) (4 * hw + 16))))
    (o ++ [st, 0, 0, 0]).flatMap (fun x => toBytes x 4) )

/-- Uncorrectable blocks among the records that a MERGE reads are recorded (R334). -/
def State.noteMerge (s : State) (c : Cmd) : State :=
  let (n, rows, hw) := mergeGeom (c.gs.getD 3 0)
  (List.range rows).foldl (fun s r => (List.range n).foldl (fun s i =>
    s.noteSpadRow c.sid 7 (spadOf c.sid) (c.gs.getD 0 0 + i * c.gs.getD 1 0 + r * recordStride hw) (4 * hw + 16)) s) s

/-- The rows of an output written at stride RS. -/
def State.writeRows (s : State) (cluster addr rs len : Nat) (l : List Nat) : State :=
  (List.range (l.length / len)).foldl (fun s r => s.spadWriteRow cluster (addr + r * rs) ((l.drop (len * r)).take len)) s

/-- A MERGE starts at S. -/
def State.startMerge (s : State) (c : Cmd) : State :=
  let (n, rows, hw) := mergeGeom (c.gs.getD 3 0)
  let free := (s.seq c.sid).mergeFree
  if s.now ≤ free ∧ free ≠ 0 then s.laneBusy c
  else
    let done := s.now + 14 + rows * (2 * n + cdiv hw 8)
    let s := s.updSeq c.sid (fun q => { q with mergeFree := done })
    let s := s.updCmd c.sid c.id (fun x => { x with start := some s.now })
    s.push { cyc := s.now + 2, cls := 4, key := engineKey c.sid c.issue, ins := .mergeDone, arg := .merge c.sid c.id done }

/-- MERGE_DONE (R238): the records are read, the rows are written in the done cycle, the entry is done. -/
def execMergeDone (s : State) : Host.Outcome State Fault Refusal :=
  match s.arg with
  | .merge sid id done =>
    match s.cmd sid id with
    | none => .next s
    | some c =>
      let s := (s.noteMerge c).push
        { cyc := done, cls := 4, key := engineKey sid c.issue, ins := .mergeDone, arg := .mergeRows c (s.mergeBytes c) }
      .next (s.doneAt done sid id .mergeDone)
  | .mergeRows c bytes =>
    let (_, _, hw) := mergeGeom (c.gs.getD 3 0)
    if s.stale c then .next s
    else .next (s.writeRows (spadOf c.sid) (c.gs.getD 2 0) (recordStride hw) (4 * hw + 16) bytes)
  | .cmd sid id => .next (s.entryDone sid id)
  | _ => .next s

end Sys2Proof.Machine
end

