-- ==== Sys2Proof/Machine/Matrix.lean ====
section
/-! DEFINITION. The matrix column (R203 to R223): the loop-nest tables, the checks and the duration of a nest, loading
weights, the nest as it runs, and access to accumulators. -/

namespace Sys2Proof.Machine

open Sys2Proof

/-! ## Table fields (R207, R208) -/

/-- A level record. -/
def NestTable.level (t : NestTable) (l : Nat) : Nat := (Fm.get 0 t.lvl l).toNat
/-- The level record with bits [lo + n − 1 : lo] replaced. -/
def NestTable.setLevel (t : NestTable) (l lo n x : Nat) : NestTable :=
  { t with lvl := Fm.set t.lvl l (BitVec.ofNat 80 (setBits (t.level l) lo n x)) }
/-- Bits of the global record. -/
def NestTable.fld (t : NestTable) (lo n : Nat) : Nat := bits t.glob.toNat lo n
def NestTable.setFld (t : NestTable) (lo n x : Nat) : NestTable :=
  { t with glob := BitVec.ofNat 128 (setBits t.glob.toNat lo n x) }

/-- Cnt of a level: an absent level counts 1 (R207). -/
def NestTable.cnt (t : NestTable) (l : Nat) : Nat := max 1 (bits (t.level l) 0 16)
/-- A stride: 0 A, 1 B, 2 accumulator row; an absent level has none. -/
def NestTable.stride (t : NestTable) (k l : Nat) : Int :=
  if bits (t.level l) 0 16 = 0 then 0 else sgn (bits (t.level l) (16 + 20 * k) 20) 20
/-- An event of a level: 0 RB, 1 CLR, 2 DRN, 3 ADVA; an absent level has none. -/
def NestTable.event (t : NestTable) (e l : Nat) : Bool := bits (t.level l) 0 16 != 0 && bit (t.level l) (76 + e)

/-- Formats that MGO allows, by group: 1 INT8 and INT4, 2 the 8-bit floating formats, 3 FP16 and BF16; 0 others (R215). -/
def fmtGroup (f : Nat) : Nat :=
  if f = 7 ∨ f = 15 then 1 else if f = 4 ∨ f = 5 ∨ f = 6 then 2 else if f = 2 ∨ f = 3 then 3 else 0
/-- Bit planes of AFMT (R216). -/
def planes (f : Nat) : Nat := if f = 7 then 8 else if f = 15 then 4 else if f = 2 ∨ f = 3 then 20 else 10

/-- Quadrant masks that can be fused (R204). -/
def fusable (m : Nat) : Bool := [1, 2, 4, 8, 3, 12, 5, 10, 15].contains m
/-- Whether a sequencer may use a mask: in SPLIT mode only its own quadrants (R29). -/
def State.maskOk (s : State) (sid m : Nat) : Bool :=
  fusable m && (!s.split sid || (if sqOf sid = 0 then m &&& 12 == 0 else m &&& 3 == 0))
/-- K halves and N halves that a mask has present, ascending (R204). -/
def kHalves (m : Nat) : List Nat := [0, 1].filter (fun k => bits m (2 * k) 2 != 0)
def nHalves (m : Nat) : List Nat := [0, 1].filter (fun j => bit m j || bit m (j + 2))
/-- K span; columns of one N-half (R205). -/
def kSpan (m : Nat) : Nat := 512 * (kHalves m).length
def nWidth (bf : Nat) : Nat := if bf = 2 ∨ bf = 3 then 256 else 512
/-- Bbytes of R206, and LB from a source kind. -/
def bBytes (bf m : Nat) : Nat := (if bf = 15 then 131072 else 262144) * popcount m 4
def loadTime (bk bf m : Nat) : Nat := bBytes bf m / (if bk = 0 then 2048 else 1024)

/-- Accumulator rows that a sequencer names, and the physical row (R26). -/
def State.accRows (s : State) (sid : Nat) : Nat := if s.split sid then 128 else 256
def State.physRow (s : State) (sid r : Nat) : Nat := if s.split sid && sqOf sid == 1 then r + 128 else r
/-- The physical queue or port of a sequencer's name. -/
def State.physQ (s : State) (sid n : Nat) : Nat := if s.split sid && sqOf sid == 1 then n + 8 else n

/-- The row `r` of the accumulators as a sequencer names it. -/
def State.accRow (s : State) (sid r : Nat) : RowBits := Fm.get 0 (s.core (coreKey sid)).acc (s.physRow sid r)
def State.setAccRow (s : State) (sid r : Nat) (x : RowBits) : State :=
  let p := s.physRow sid r
  s.updCore (coreKey sid) (fun c => { c with acc := Fm.set c.acc p x, badRows := c.badRows.filter (·.1 != p) })
/-- A nest writes a row: what the row held before the first write of the cycle is kept for the partner's nest (R31). -/
def State.setNestRow (s : State) (sid r : Nat) (x : RowBits) : State :=
  let p := s.physRow sid r
  let old := s.accRow sid r
  (s.updCore (coreKey sid) (fun c =>
    let l := c.rowsWere.filter (·.cyc == s.now)
    { c with rowsWere := if l.any (·.row == p) then l else { cyc := s.now, sid := sid, row := p, was := old } :: l })).setAccRow
    sid r x
/-- The row that a nest reads: what it held before the partner's nest wrote it in this cycle (R31). -/
def State.rowBefore (s : State) (sid r : Nat) : RowBits :=
  match (s.core (coreKey sid)).rowsWere.find? (fun e => e.cyc == s.now && e.row == s.physRow sid r && e.sid != sid) with
  | some e => e.was
  | none => s.accRow sid r
/-- A double-bit error in a row that is read is recorded: it reads as zeros (R334). -/
def State.noteRows (s : State) (sid : Nat) (rows : List Nat) : State :=
  (((s.core (coreKey sid)).badRows.filter (fun x => rows.any (fun r => s.physRow sid r == x.1)))).foldl
    (fun s _ => s.uncorrectableNext sid 4 0 0xFFFFFFF) s

/-! ## The plan of a nest: checks and duration (R215, R218) -/

/-- Least and greatest of a base plus Σ i × stride over the index space. -/
def corners (base : Int) (cs : List (Nat × Int)) : Int × Int :=
  cs.foldl (fun a e =>
    let d := ((e.1 : Int) - 1) * e.2
    (a.1 + min d 0, a.2 + max d 0)) (base, base)

/-- The distinct sums of i × stride over the given levels. -/
def strideSums (cs : List (Nat × Int)) : List Int :=
  cs.foldl (fun l e =>
    if e.1 ≤ 1 ∨ e.2 = 0 then l
    else ((l.map (fun v => (List.range e.1).map (fun (i : Nat) => v + (i : Int) * e.2))).flatten).eraseDups) [0]

/-- Counts and strides of kind `k` of the levels 0 to `n` − 1. -/
def NestTable.cs (t : NestTable) (k n : Nat) : List (Nat × Int) := (List.range n).map (fun l => (t.cnt l, t.stride k l))

/-- The accumulator rows that a nest touches, as the sequencer names them (R216). -/
def NestTable.rows (t : NestTable) : List Nat :=
  let v := (strideSums (t.cs 2 6)).map (fun (x : Int) => (x + (t.fld 89 8 : Nat)).toNat)
  if (nHalves (t.fld 109 4)).length = 2 then v ++ v.map (· + 64) else v

/-- Rows that one drain of level `l` writes. -/
def NestTable.drainRows (t : NestTable) (l : Nat) : Nat :=
  let v := strideSums (t.cs 2 (l + 1))
  (if (nHalves (t.fld 109 4)).length = 2 then (v ++ v.map (· + 64)).eraseDups else v).length
/-- Bytes of a drained element. -/
def drainSize (df : Nat) : Nat := if df = 1 then 4 else 2
/-- Dbytes of a drain of level `l` (R218): none for kind acc. -/
def NestTable.dBytes (t : NestTable) (l : Nat) : Nat :=
  if t.event 2 l ∧ t.fld 59 3 ≠ 4 then t.drainRows l * nWidth (t.fld 101 4) * drainSize (t.fld 105 4) else 0
/-- Steps S. -/
def NestTable.steps (t : NestTable) : Nat := (List.range 6).foldl (fun a l => a * t.cnt l) 1
/-- How many end groups have `l` as their highest level. -/
def NestTable.groups (t : NestTable) (l : Nat) : Nat :=
  let e (k : Nat) : Nat := (List.range 6).foldl (fun a i => if k < i then a * t.cnt i else a) 1
  if l = 5 then 1 else e l - e (l + 1)

/-- T of R218. -/
def NestTable.duration (t : NestTable) : Nat :=
  let lb := loadTime (t.fld 30 3) (t.fld 101 4) (t.fld 109 4)
  let d (n : Nat) : Nat := (List.range n).foldl (fun a l => a + cdiv (t.dBytes l) 512) 0
  let any (e n : Nat) : Bool := (List.range n).any (t.event e)
  6 + t.steps * planes (t.fld 97 4) +
  (List.range 5).foldl (fun a l => a + t.groups l *
    ((if any 2 (l + 1) then 12 else 0) + d (l + 1) + if any 0 (l + 1) then lb else 0)) 0 + 12 + d 6

/-- Bytes that the nest drains in all. -/
def NestTable.drained (t : NestTable) : Nat :=
  (List.range 6).foldl (fun a l => a + t.groups l * ((List.range (l + 1)).foldl (fun b k => b + t.dBytes k) 0)) 0

/-- The illegal-instruction faults of R215. -/
def State.nestIllegal (s : State) (sid : Nat) (t : NestTable) : Bool :=
  let tileBad (u : Nat) : Bool := 16 ≤ u && s.split sid
  let queueBad (u : Nat) : Bool := decide (8 ≤ u) && s.split sid
  let unbound (kind u : Nat) : Bool := queueBad u || !(s.port (coreKey sid) kind (s.physQ sid u)).bound
  let ak := t.fld 0 3; let bk := t.fld 30 3; let dk := t.fld 59 3
  let af := t.fld 97 4; let bf := t.fld 101 4; let df := t.fld 105 4
  !s.maskOk sid (t.fld 109 4) || decide (3 < ak) || !(bk == 0 || bk == 2) || decide (4 < dk) ||
  (ak == 1 && tileBad (t.fld 3 5)) || (decide (2 ≤ ak) && queueBad (t.fld 3 5)) || (bk == 2 && queueBad (t.fld 33 4)) ||
  (dk == 1 && tileBad (t.fld 62 5)) ||
  fmtGroup af == 0 || fmtGroup af != fmtGroup bf || !(df == 1 || df == 2 || df == 3) ||
  (decide (2 ≤ ak) && decide (64 < t.cnt 0)) ||
  (dk == 2 && unbound 0 (t.fld 62 5)) || (dk == 3 && unbound 1 (t.fld 62 5)) ||
  (t.fld 113 1 == 1 && unbound 0 (t.fld 114 4))

/-- Whether strides of levels that iterate keep 64-byte alignment. -/
def aligned64 (base : Nat) (cs : List (Nat × Int)) : Bool :=
  base % 64 == 0 && cs.all (fun e => decide (e.1 ≤ 1) || e.2 % 64 == 0)

/-- Row bytes of a table (R216). -/
def NestTable.rowBytes (t : NestTable) : Nat := kSpan (t.fld 109 4) * typeBits (t.fld 97 4) / 8

/-- The bounds faults of R215 and R269: A rows, the B blocks and the destination of a nest whose kinds are scratchpad, whether
or not the nest reloads or drains (log entry 38). -/
def State.nestBounds (s : State) (sid : Nat) (t : NestTable) : Bool :=
  let m := t.fld 109 4
  let span : Int := Config.spadBytes
  let rows := corners (t.fld 89 8) (t.cs 2 6)
  let a := corners (t.fld 8 22) (t.cs 0 6)
  let b := corners (t.fld 37 22) (t.cs 1 6)
  let two : Int := if (nHalves m).length = 2 then 64 else 0
  let ak := t.fld 0 3
  decide (rows.1 < 0) || decide ((s.accRows sid : Int) ≤ rows.2 + two) ||
  (ak == 0 && (!s.hasSpad sid || !aligned64 (t.fld 8 22) (t.cs 0 6) || decide (a.1 < 0) ||
    decide (span < a.2 + t.rowBytes))) ||
  (ak == 1 && (decide (a.1 < 0) || decide (4096 < a.2 + t.rowBytes))) ||
  (t.fld 30 3 == 0 &&
    (!s.hasSpad sid || !aligned64 (t.fld 37 22) (t.cs 1 6) || decide (b.1 < 0) ||
      decide (span < b.2 + bBytes (t.fld 101 4) m))) ||
  (t.fld 59 3 == 0 &&
    (!s.hasSpad sid || t.fld 67 22 % 64 != 0 || decide (span < (t.fld 67 22 + t.drained : Nat)))) ||
  (t.fld 59 3 == 1 && decide (4096 < t.drained))

/-! ## Writing the shadow table (R209 to R213) -/

/-- A word of the MAT column that management sequencers do not have and that occupies no datapath. -/
def State.shadowWord (s : State) (k : NestTable → NestTable) : Host.Outcome State Fault Refusal :=
  s.issueFree (fun s => s.userOnly (fun s => s.updMe (fun q => { q with shadow := k q.shadow })))

/-- MCFG: fields 5 to 7 and levels 6 and 7 are illegal. -/
def execMcfg (l : BitVec 3) (g : BitVec 6) (f : BitVec 3) (s : State) : Host.Outcome State Fault Refusal :=
  if 6 ≤ l.toNat ∨ 5 ≤ f.toNat then .next s.illegal
  else
    let v := s.me.gn g.toNat
    s.shadowWord (fun t => match f.toNat with
      | 0 => t.setLevel l.toNat 0 16 v
      | 1 => t.setLevel l.toNat 16 20 v
      | 2 => t.setLevel l.toNat 36 20 v
      | 3 => t.setLevel l.toNat 56 20 v
      | _ => t.setLevel l.toNat 76 4 v)

/-- MCFGI: group 0 sets COUNT and the events. -/
def execMcfgi (l : BitVec 3) (grp : BitVec 2) (val : BitVec 20) (s : State) : Host.Outcome State Fault Refusal :=
  if 6 ≤ l.toNat then .next s.illegal
  else
    let v := val.toNat
    s.shadowWord (fun t => match grp.toNat with
      | 0 => (t.setLevel l.toNat 0 16 v).setLevel l.toNat 76 4 (bits v 16 4)
      | 1 => t.setLevel l.toNat 16 20 v
      | 2 => t.setLevel l.toNat 36 20 v
      | _ => t.setLevel l.toNat 56 20 v)

/-- MSRC: role code 3 is illegal; a kind that names no unit records 0 and its unit field is reserved; the bits above a tile or
queue number are reserved (R89, R211). -/
def execMsrc (k : BitVec 3) (r : BitVec 2) (u : BitVec 6) (i : BitVec 8) (s : State) : Host.Outcome State Fault Refusal :=
  if r = 3 then .next s.illegal
  else
    let used := if k = 1 then 32 else if k = 2 ∨ k = 3 then 16 else if k = 0 then 64 else 1
    let unit := if k = 0 then 0 else u.toNat % used
    let base := if k = 0 then s.me.gn u.toNat else 0
    let rsv := decide (used ≤ u.toNat) || (r != 2 && i != 0)
    match s.shadowWord (fun t => match r.toNat with
      | 0 => ((t.setFld 0 3 k.toNat).setFld 3 5 unit).setFld 8 22 base
      | 1 => ((t.setFld 30 3 k.toNat).setFld 33 4 unit).setFld 37 22 base
      | _ => (((t.setFld 59 3 k.toNat).setFld 62 5 unit).setFld 67 22 base).setFld 89 8 i.toNat) with
    | .next s => .next (s.reserved rsv)
    | o => o

def execMfmt (a b f q : BitVec 4) (s : State) : Host.Outcome State Fault Refusal :=
  s.shadowWord (fun t =>
    (((t.setFld 97 4 a.toNat).setFld 101 4 b.toNat).setFld 109 4 q.toNat).setFld 105 4 f.toNat)

def execMfuse (q : BitVec 4) (f : BitVec 1) (s : State) : Host.Outcome State Fault Refusal :=
  s.shadowWord (fun t => (t.setFld 114 4 q.toNat).setFld 113 1 f.toNat)

/-- MDUR (R219). -/
def execMdur (g : BitVec 6) (s : State) : Host.Outcome State Fault Refusal :=
  s.issue 1 (fun s => s.userOnly (fun s =>
    let t := s.me.shadow
    s.land 4 [.g g.toNat (if s.nestIllegal s.cur.sid t || s.nestBounds s.cur.sid t then BitVec.allOnes 64
      else BitVec.ofNat 64 t.duration)]))

/-! ## Weights (R206, R214) -/

/-- Quadrants and banks that the running nests of the core hold (R32, R221). -/
def State.heldQuads (s : State) (sid : Nat) : Nat :=
  let f (q : Seq) : Nat := if q.nest.live then q.nest.claim else 0
  f (s.seq sid) ||| f (s.seq (partner sid))
def State.heldBanks (s : State) (sid : Nat) : Nat :=
  let f (q : Seq) : Nat := if q.nest.live then q.nest.claim ||| q.nest.banks else 0
  f (s.seq sid) ||| f (s.seq (partner sid))

/-- The place of block `b` of 64 bytes of a B block for a mask (R206): the quadrant, and the column and block in the column. -/
def weightPlace (m bf b : Nat) : Nat × Nat :=
  let rows := kSpan m * typeBits bf / 8 / 64
  let half := 512 * typeBits bf / 8 / 64
  let n := b / rows
  let k := (kHalves m).getD (b % rows / half) 0
  let j := (nHalves m).getD (n / nWidth bf) 0
  (2 * k + j, 16 * (n % nWidth bf) + b % half)
/-- Block `b` of a B block, with its scale, takes its place. -/
def State.placeWeights (s : State) (core m bf b : Nat) (x : BlockBits) (sc : Nat) : State :=
  let (i, key) := weightPlace m bf b
  s.updCore core (fun c => { c with quads := Fm.upd {} c.quads i (fun q =>
    { q with blk := Fm.set q.blk key x, sc := Fm.set q.sc key sc }) })

/-- Consecutive blocks of a B block take their places. -/
def State.placeBlocks (s : State) (core m bf first : Nat) (l : List (Nat × Nat)) : State :=
  (l.zipIdx).foldl (fun s e => s.placeWeights core m bf (first + e.2) (BitVec.ofNat 512 e.1.1) e.1.2) s
/-- Those of them that lie in some quadrants. -/
def State.placeSome (s : State) (core m some_ bf first : Nat) (l : List (Nat × Nat)) : State :=
  (l.zipIdx).foldl (fun s e =>
    if bit some_ (weightPlace m bf (first + e.2)).1 then s.placeWeights core m bf (first + e.2) (BitVec.ofNat 512 e.1.1) e.1.2
    else s) s

/-- 2,048 bytes of a scratchpad as blocks with their scale bytes. -/
def State.spadBlocks (s : State) (sid addr : Nat) : List (Nat × Nat) :=
  (List.range 32).map (fun i =>
    (s.spadRead (spadOf sid) (addr + 64 * i) 64, s.spadTag (spadOf sid) (addr + 64 * i) / 256 % 256))
/-- The 16 blocks of a queue entry; scale 2^0 (R73). -/
def entryBlocks (e : EntryBits) : List (Nat × Nat) := (List.range 16).map (fun i => (bits e.toNat (512 * i) 512, 127))

/-- The masked quadrants after a load for a mask `whole`: format, source and address of WSTATE. An MLDB clears the poison, a reload by a nest does
not (R302). -/
def State.loadedQuads (s : State) (sid m whole bf src addr : Nat) (mldb : Bool) : State :=
  s.updCore (coreKey sid) (fun c => { c with quads := (List.range 4).foldl (fun l i =>
    let q : Quad := Fm.get {} l i
    if bit m i then Fm.set l i {
      q with fmt := bf, src := src, addr := addr, poison := q.poison && !mldb, mask := whole, by_ := some sid } else l) c.quads })

/-- The head of an operand or link queue is taken by an engine of the core: its entry, and the state without it. -/
def State.takeEntry (s : State) (core kind q part : Nat) : Option (EntryBits × State) :=
  match (s.core core).queue kind q with
  | [] => none
  | it :: r => if (s.core core).popWaits kind q then none
    else some (it.data, ((s.keepDepths core kind q).updCore core (fun c => c.setQueue kind q r)).returnCredit core kind q it part)

/-- The next part of a load goes on the agenda: a scratchpad part in its own cycle's accesses, an entry before the words. -/
def State.nextPart (s : State) (b : BLoad) (c : Nat) : State :=
  s.push { cyc := c, cls := if b.j < b.n ∧ b.src = 1 then 4 else 2, key := homeKey b.sid b.issue 4, ins := .mldbComplete,
           arg := .bload b }

/-- One part of a load of weights, or its end. -/
def State.loadPart (s : State) (b : BLoad) : State :=
  let core := coreKey b.sid
  if b.n ≤ b.j then s.loadedQuads b.sid b.mask b.mask b.fmt b.src (if b.src = 1 then b.addr else 0) true
  else if b.src = 1 then
    ((s.noteSpad b.sid 4 (spadOf b.sid) (b.addr + 2048 * b.j) 2048).placeBlocks core b.mask b.fmt (32 * b.j) (s.spadBlocks b.sid (b.addr + 2048 * b.j))).nextPart { b with j := b.j + 1 }
      (s.now + 1)
  else match s.takeEntry core 0 b.addr b.part with
    | some (e, s') =>
      (s'.placeBlocks core b.mask b.fmt (16 * b.j) (entryBlocks e)).nextPart { b with j := b.j + 1, posted := false } (s.now + 1)
    | none => (s.violation b.sid 4 (!b.posted)).nextPart { b with posted := true } (s.now + 1)

/-- MLDB_COMPLETE (R214): the parts of a load of weights, one in each cycle, and its completion. A queue without an entry is a
queue-empty violation. -/
def execMldbComplete (s : State) : Host.Outcome State Fault Refusal :=
  match s.arg with
  | .bload b => if b.part ≠ 63 ∧ b.gen ≠ s.gen b.part then .next s else .next (s.loadPart b)
  | _ => .next s

/-- MLDB (R214). -/
def execMldb (g : BitVec 6) (q : BitVec 4) (s : State) : Host.Outcome State Fault Refusal :=
  if s.colBusy then .next s.stall
  else if isMgmt s.cur.sid then .next s.illegal
  else
    let sid := s.cur.sid
    let t := s.me.shadow
    let m := q.toNat
    let bk := t.fld 30 3
    let bf := t.fld 101 4
    let u := t.fld 33 4
    let addr := s.me.gn g.toNat % 2 ^ 22
    if !s.maskOk sid m || !(bk == 0 || bk == 2) || fmtGroup bf == 0 || (bk == 2 && decide (8 ≤ u) && s.split sid) then
      .next s.illegal
    else if bk = 0 ∧ (!s.hasSpad sid ∨ addr % 64 ≠ 0 ∨ Config.spadBytes < addr + bBytes bf m) then .next s.boundsFault
    else if s.heldQuads sid &&& m ≠ 0 then .next s.stall
    else
      let n := loadTime bk bf m
      let empty := bk == 2 && ((s.core (coreKey sid)).queue 0 (s.physQ sid u)).isEmpty
      if empty && !(s.me.trapMode && !s.me.ut) then .next s.stall
      else
        let s := s.occupy n
        let b : BLoad := { sid := sid, part := s.myPart, gen := s.gen s.myPart, src := if bk = 0 then 1 else 2,
                           addr := if bk = 0 then addr else s.physQ sid u, mask := m, fmt := bf, n := n, j := 0,
                           issue := s.now }
        .next (if bk = 0 then s.nextPart b s.now else s.loadPart { b with posted := s.cur.posted })

/-! ## The nest (R215 to R218) -/

/-- The running address of kind `k` at the indices `ix`: base + Σ i × stride. -/
def NestTable.addrAt (t : NestTable) (base : Nat) (k : Nat) (ix : List Nat) : Nat :=
  (((ix.zipIdx).foldl (fun a e => a + (e.1 : Int) * t.stride k e.2) (base : Int))).toNat

/-- The highest level that ends after the step at `ix`, plus 1; 0 where none ends. -/
def NestTable.ends (t : NestTable) (ix : List Nat) : Nat :=
  ((ix.zipIdx).takeWhile (fun e => e.1 + 1 == t.cnt e.2)).length

/-- The indices of the next step. -/
def NestTable.nextIx (t : NestTable) (ix : List Nat) : List Nat :=
  let n := t.ends ix
  (ix.zipIdx).map (fun e => if e.2 < n then 0 else if e.2 = n then e.1 + 1 else e.1)

/-- Where an act stands in its cycle: a drain into a tile among the landings, by the issue of the MGO (R31, R113); what reads
operands with the accesses; the rest before the words. -/
def NestAct.slot (sid issue : Nat) : NestAct → Nat × Nat
  | .place true _ _ _ => (1, landKey issue sid 4)
  | .row | .reload _ _ => (4, homeKey sid issue 4)
  | _ => (2, homeKey sid issue 4)

/-- The next act of a nest goes on the agenda. -/
def State.nestGo (s : State) (sid : Nat) : State :=
  let n := (s.seq sid).nest
  match n.todo with
  | [] => s
  | (d, a) :: _ =>
    let ins : Instr := match a with
      | .finish => .nestEnd
      | .bound => .nestSafeStop
      | _ => .nestStep
    let (cls, key) := a.slot sid n.issue
    s.push { cyc := max s.now (d + n.slip), cls := cls, key := key, ins := ins, arg := .seq sid }

/-- The nest of a sequencer changed. -/
def State.updNest (s : State) (sid : Nat) (f : Nest → Nest) : State := s.updSeq sid (fun q => { q with nest := f q.nest })

/-- The acts of the step at the nest's indices, from cycle `c`: pops of a stale slot, the credit of the first forwarded entry,
the row. -/
def NestTable.stepActs (t : NestTable) (phys : Nat → Nat) (n : Nest) (c : Nat) : List (Nat × NestAct) :=
  let ak := t.fld 0 3
  let stale := decide (2 ≤ ak) && !n.abuf.any (fun e => e.1 == n.ix.getD 0 0)
  (if stale then List.replicate (cdiv t.rowBytes 1024) (c, .pop (ak - 2) (phys (t.fld 3 5))) else []) ++
  (if t.fld 113 1 = 1 ∧ (ak < 2 ∨ stale) then [(c, .need (phys (t.fld 114 4)))] else []) ++ [(c, .row)]

/-- Elements of a row, with the scale of each: FP16 and BF16 ignore it (R66). -/
def rowElems (f : Nat) (n : Nat) (x : Nat) (scales : List Nat) : List (Nat × Nat) :=
  let w := typeBits f
  ((unpack w n x).zipIdx).map (fun e => (e.1, if fmtGroup f = 3 then 127 else scales.getD (e.2 * w / 512) 127))

/-- Whether a byte is a D8 class G code (R58). -/
def classG (x : Nat) : Bool := x % 128 == 1

/-- Warnings of a row: a scale other than 127 ignored, a class G code (R58, R66). -/
def rowWarns (f : Nat) (x n : Nat) (scales : List Nat) : Nat :=
  (if fmtGroup f = 3 ∧ scales.any (· != 127) then 8 else 0) ||| (if f = 6 ∧ (unpack 8 n x).any classG then 4 else 0)

/-- The same of the weights that a step takes from a quadrant (R58, R66, R73): of each column the blocks that its format uses. -/
def Quad.warns (q : Quad) (bf : Nat) : Nat :=
  let used (k : Nat) : Bool := decide (k < 16 * nWidth bf) && decide (k % 16 < typeBits bf)
  (if fmtGroup bf = 3 ∧ q.sc.any (fun e => used e.1 && e.2 != 127) then 8 else 0) |||
  (if bf = 6 ∧ q.blk.any (fun e => used e.1 && (unpack 8 64 e.2.toNat).any classG) then 4 else 0)

/-- The 256 elements of a B segment: group `g` of the quadrant's half, column `n`. -/
def Quad.segment (q : Quad) (bf n g : Nat) : List (Nat × Nat) :=
  let w := typeBits bf
  let per := 512 / w
  (List.range 256).map (fun i =>
    let e := 256 * g + i
    let key := 16 * n + e / per
    (bits (Fm.get 0 q.blk key).toNat (w * (e % per)) w, if fmtGroup bf = 3 then 127 else Fm.get 127 q.sc key))

/-- Whether a quadrant holds weights of another element width than `bf`: what its cells then read as is not stated (log entry
39). -/
def Quad.foreign (q : Quad) (bf : Nat) : Bool := !q.blk.isEmpty && typeBits q.fmt != typeBits bf

/-- One accumulator value after the groups of a row (R75). -/
def accumulate (af bf : Nat) (a : List (Nat × Nat)) (quads : List Quad) (n acc : Nat) : Nat :=
  (List.range (2 * quads.length)).foldl (fun acc g =>
    let sa := (a.drop (256 * g)).take 256
    let q := quads.getD (g / 2) {}
    let sb := q.segment bf n (g % 2)
    groupStep acc (sa.any (fun e => segBad af e.1 e.2)) (q.poison || sb.any (fun e => segBad bf e.1 e.2)) (align af sa)
      (align bf sb)) acc

/-- A step's accumulation into the rows r + 64j (R216). -/
def State.accumulateRow (s : State) (sid : Nat) (t : NestTable) (r : Nat) (a : List (Nat × Nat)) : State :=
  let m := t.fld 109 4
  let bf := t.fld 101 4
  ((nHalves m).zipIdx).foldl (fun s e =>
    let quads := (kHalves m).map (fun k => (Fm.get {} (s.core (coreKey sid)).quads (2 * k + e.1) : Quad))
    let row := (s.rowBefore sid (r + 64 * e.2)).toNat
    let w := nWidth bf
    let s := s.noteRows sid [r + 64 * e.2]
    let s := if quads.any (·.foreign bf) then
        let out := (List.range w).foldl (fun (x : Nat × State) n =>
          if quads.any (·.poison) then (x.1 + canonNaN 1 * 2 ^ (32 * n), x.2)
          else (x.1 + x.2.drawVal % 2 ^ 32 * 2 ^ (32 * n), x.2.drew)) (0, s)
        out.2.setNestRow sid (r + 64 * e.2) (BitVec.ofNat 16384 (setBits row 0 (32 * w) out.1))
      else
        let out := (List.range w).map (fun n => accumulate (t.fld 97 4) bf a quads n (bits row (32 * n) 32))
        s.setNestRow sid (r + 64 * e.2) (BitVec.ofNat 16384 (setBits row 0 (32 * w) (pack 32 out)))
    s) s

/-- The bytes of a drain (R217): rows in ascending number, Nq values each, in DFMT by RNE. -/
def State.drainBytes (s : State) (sid : Nat) (t : NestTable) (rows : List Nat) : Nat × Nat :=
  let w := nWidth (t.fld 101 4)
  let df := t.fld 105 4
  let sorted := (List.range 256).filter rows.contains
  let l := (sorted.map (fun r => (unpack 32 w (s.accRow sid r).toNat).map (fun x => (convert 1 df 0 false x).1))).flatten
  (pack (typeBits df) l, sorted.length * w * drainSize df)

/-- The acts of a drain of `n` bytes from cycle `c`: 512 bytes a cycle, a queue entry in the cycle that places its last byte
(R217, R426). The stream to a queue is cut into entries for each drain, the last of which is filled up with zeros (log entry 116). -/
def drainActs (dk unit : Nat) (data n c cursor : Nat) : List (Nat × NestAct) :=
  if dk = 2 ∨ dk = 3 then
    (List.range (cdiv n 1024)).map (fun e =>
      (c + min (1024 * e + 1023) (n - 1) / 512, .push true (dk - 2) unit (BitVec.ofNat 8192 (data / 2 ^ (8192 * e)))))
  else
    (List.range (cdiv n 512)).map (fun k =>
      (c + k, .place (dk == 1) (cursor + 512 * k) (min 512 (n - 512 * k)) (data / 2 ^ (4096 * k) % 2 ^ 4096)))

/-- The events of level `l` that a step ends, in the order DRN, CLR, then emptying Touched(l): the state, the acts, the cycle
after the drains, the drain cursor. -/
def State.endLevel (t : NestTable) (sid : Nat) (st : State × List (Nat × NestAct) × Nat) (l : Nat) :
    State × List (Nat × NestAct) × Nat :=
  let (s, acts, c) := st
  let n := (s.seq sid).nest
  let rows := n.touched.getD l []
  let dk := t.fld 59 3
  let (s, acts, c) :=
    if t.event 2 l && dk != 4 then
      let (data, len) := s.drainBytes sid t rows
      let unit := if dk = 1 then t.fld 62 5 else s.physQ sid (t.fld 62 5)
      ((s.noteRows sid rows).updNest sid (fun n => { n with cursor := n.cursor + len }), acts ++ drainActs dk unit data len c n.cursor,
       c + cdiv len 512)
    else (s, acts, c)
  let s := if t.event 1 l then rows.foldl (fun s r => s.setAccRow sid r 0) s else s
  (s.updNest sid (fun n => { n with touched := n.touched.set l [] }), acts, c)

/-- A double-bit error in a tile that a nest reads is recorded (R334). -/
def State.noteTile (s : State) (sid n : Nat) : State :=
  ((s.seq (if n < 16 then sid else partner sid)).upset.filter (fun x => match x with
    | .tile k _ => k == n % 16
    | _ => false)).foldl (fun s _ => s.uncorrectableNext sid 4 0 0xFFFFFFF) s

/-- The step of a nest in cycle `c` of its own clock (R216, R217): the row, the accumulation, the events of the levels that
end, and the acts up to the next step. -/
def State.nestRow (s : State) (sid c : Nat) : State :=
  let t := (s.seq sid).active
  let n := (s.seq sid).nest
  let ak := t.fld 0 3
  let af := t.fld 97 4
  let bf := t.fld 101 4
  let ks := kSpan (t.fld 109 4)
  let a := t.addrAt (t.fld 8 22) 0 n.ix
  let r := t.addrAt (t.fld 89 8) 2 n.ix
  let i0 := n.ix.getD 0 0
  let fresh := n.got.isEmpty
  let data :=
    if ak = 0 then ofBytes (s.spadRow (spadOf sid) a t.rowBytes)
    else if ak = 1 then (s.tile sid (t.fld 3 5)).toNat / 2 ^ (8 * a) % 2 ^ (8 * t.rowBytes)
    else if fresh then Fm.get 0 n.abuf i0
    else ((n.got.zipIdx).foldl (fun x e => x + e.1.toNat * 2 ^ (8192 * e.2)) 0) % 2 ^ (8 * t.rowBytes)
  let scales := if ak = 0 then (List.range (t.rowBytes / 64)).map (fun i =>
    s.spadTag (spadOf sid) (a + 64 * i) / 256 % 256) else []
  let s := if ak = 0 then s.noteSpad sid 4 (spadOf sid) a t.rowBytes
    else if ak = 1 then s.noteTile sid (t.fld 3 5) else s
  -- forwarding of a row that is taken from its source (R213): the first entry now, the rest one a cycle
  let fw := t.fld 113 1 == 1 && (decide (ak < 2) || !fresh)
  let s := if fw then
      s.pushAt sid 0 (s.physQ sid (t.fld 114 4)) (BitVec.ofNat 8192 data) 0 s.now else s
  let fwd := if fw then (List.range (cdiv t.rowBytes 1024 - 1)).map (fun j =>
    (c + j + 1, NestAct.push false 0 (s.physQ sid (t.fld 114 4)) (BitVec.ofNat 8192 (data / 2 ^ (8192 * (j + 1)))))) else []
  let quads := ((onesOf (t.fld 109 4) 4).map (fun i => (Fm.get {} (s.core (coreKey sid)).quads i : Quad))).filter (!·.foreign bf)
  let warns := quads.foldl (fun w q => w ||| q.warns bf) (rowWarns af data ks scales)
  let s := if warns = 0 then s else landReg s sid (.wrn (BitVec.ofNat 8 warns))
  let s := s.accumulateRow sid t r (rowElems af ks data scales)
  let rows := ((nHalves (t.fld 109 4)).zipIdx).map (fun e => r + 64 * e.2)
  let s := s.updNest sid (fun n => { n with
    abuf := if 2 ≤ ak then Fm.set n.abuf i0 data else n.abuf, got := []
    touched := n.touched.map (fun l => l ++ rows.filter (fun r => !l.contains r)) })
  -- the end group (R217)
  let top := t.ends n.ix
  let last := top == 6
  let levels := List.range top
  let c := c + planes af
  let c := if 0 < top ∧ (last ∨ levels.any (t.event 2)) then c + 12 else c
  let (s, acts, c) := levels.foldl (State.endLevel t sid) (s, [], c)
  let ix := t.nextIx n.ix
  let reload := !last && levels.any (t.event 0)
  let bk := t.fld 30 3
  let lb := loadTime bk (t.fld 101 4) (t.fld 109 4)
  let b := t.addrAt (t.fld 37 22) 1 ix
  let rl := if reload then (List.range lb).map (fun j => (c + j, if bk = 0 then .reload j b else NestAct.reloadQ j)) else []
  let c := if reload then c + lb else c
  let s := s.updNest sid (fun n => { n with
    ix := if last then n.ix else ix
    abuf := if !last && levels.any (t.event 3) then [] else n.abuf })
  let tail := if last then [(c, .finish)]
    else (if 4 ≤ top then [(c, .bound)] else []) ++ t.stepActs (s.physQ sid) (s.seq sid).nest c
  s.updNest sid (fun n => { n with todo := n.todo ++ fwd ++ acts ++ rl ++ tail })

/-- The nest waits one cycle for an entry or a credit (R218): in STALL mode every column holds with it. -/
def State.nestWait (s : State) (sid : Nat) : State :=
  let n := (s.seq sid).nest
  ((s.violation sid 4 (!n.posted)).updNest sid (fun n => { n with slip := n.slip + 1, posted := true })).nestGo sid

/-- The first act is done. -/
def State.nestDone (s : State) (sid : Nat) : State :=
  (s.updNest sid (fun n => { n with todo := n.todo.drop 1, posted := false })).nestGo sid

/-- The partition's time stands still: drains are held (R333). -/
def State.frozen (s : State) (sid : Nat) : Bool :=
  let p := (s.seq sid).task.part
  p != 63 && (s.part p).stood.isSome

/-- Drained bytes reach the scratchpad two cycles after they are placed (R244), or the tile. -/
def State.placeDrain (s : State) (sid : Nat) (toTile : Bool) (addr len data : Nat) : State :=
  if toTile then
    let u := (s.seq sid).active.fld 62 5
    s.setTile sid u (mergeBits (s.tile sid u) (BitVec.ofNat 32768 (data * 2 ^ (8 * addr)))
      (BitVec.ofNat 32768 ((2 ^ (8 * len) - 1) * 2 ^ (8 * addr))))
  else
    let p := (s.seq sid).task.part
    s.toHome (s.now + 2) (homeKey sid (s.seq sid).nest.issue 4)
      { sid := sid, op := .write, space := .spad (spadOf sid), addr := (s.seq sid).active.fld 67 22 + addr, len := len,
        data := data, part := p, gen := s.gen p, issue := (s.seq sid).nest.issue, col := 4 }

/-- One act of a nest. -/
def State.nestAct (s : State) (sid d : Nat) (a : NestAct) : State :=
  let core := coreKey sid
  let t := (s.seq sid).active
  match a with
  | .pop kind q =>
    match s.takeEntry core kind q (s.seq sid).task.part with
    | none => s.nestWait sid
    | some (e, s) => (s.updNest sid (fun n => { n with got := n.got ++ [e] })).nestDone sid
  | .need port =>
    let p := s.port core 0 port
    if p.can && p.clear then s.nestDone sid else s.nestWait sid
  | .push _ kind port e =>
    let p := s.port core kind port
    if !(p.can && p.clear) then s.nestWait sid
    else (s.pushAt sid kind port e 0 s.now).nestDone sid
  | .place toTile addr len data => (s.placeDrain sid toTile addr len data).nestDone sid
  | .reload j addr =>
    let s := s.noteSpad sid 4 (spadOf sid) (addr + 2048 * j) 2048
    let s := s.placeBlocks core (t.fld 109 4) (t.fld 101 4) (32 * j) (s.spadBlocks sid (addr + 2048 * j))
    (s.loadedQuads sid (t.fld 109 4) (t.fld 109 4) (t.fld 101 4) 1 addr false).nestDone sid
  | .reloadQ j =>
    match s.takeEntry core 0 (s.physQ sid (t.fld 33 4)) (s.seq sid).task.part with
    | none => s.nestWait sid
    | some (e, s) =>
      ((s.placeBlocks core (t.fld 109 4) (t.fld 101 4) (16 * j) (entryBlocks e)).loadedQuads sid (t.fld 109 4) (t.fld 109 4)
        (t.fld 101 4) 2 0 false).nestDone sid
  | .row => (s.updNest sid (fun n => { n with todo := n.todo.drop 1, posted := false })).nestRow sid d |>.nestGo sid
  | .bound | .finish => s.nestDone sid

/-- Whether an act is part of a drain. -/
def NestAct.drains : NestAct → Bool
  | .push d _ _ _ => d
  | .place _ _ _ _ => true
  | _ => false

/-- The acts of NEST_SAFE_STOP and NEST_END. -/
def NestAct.ends : NestAct → Bool
  | .bound | .finish => true
  | _ => false

/-- The present act of a nest that is due, if it is. -/
def State.nestDue (s : State) (sid : Nat) : Option (Nat × NestAct) :=
  let n := (s.seq sid).nest
  match n.todo with
  | [] => none
  | (d, a) :: _ => if n.live ∧ !n.parked ∧ d + n.slip ≤ s.now then some (d, a) else none

/-- NEST_STEP (R216 to R218): the next act of the nest. A drain whose cycle lies in a freeze is held, and the nest goes on to
its next safe boundary (R333). -/
def execNestStep (s : State) : Host.Outcome State Fault Refusal :=
  match s.arg with
  | .seq sid =>
    match s.nestDue sid with
    | none => .next s
    | some (d, a) =>
      if a.ends then .next s
      else if a.drains && s.frozen sid then .next ((s.updNest sid (fun n => { n with held := n.held ++ [(d, a)] })).nestDone sid)
      else .next (s.nestAct sid d a)
  | _ => .next s

/-- A nest stops at a safe boundary and keeps its progress; the drains that a freeze holds come first when it goes on. -/
def Nest.park (n : Nest) (todo : List (Nat × NestAct)) : Nest := { n with parked := true, todo := n.held ++ todo, held := [] }

/-- NEST_END (R218): the nest releases its quadrants. The end is a safe boundary too: a nest that a freeze stops ends after it
(R333). -/
def execNestEnd (s : State) : Host.Outcome State Fault Refusal :=
  match s.arg with
  | .seq sid =>
    match s.nestDue sid with
    | some (_, .finish) =>
      .next (s.updNest sid (fun n => if n.stop = 1 ∧ s.frozen sid then n.park n.todo else {}))
    | _ => .next s
  | _ => .next s

/-- NEST_SAFE_STOP (R220): at a safe boundary a nest that is asked to stop keeps its progress, or is discarded; it holds no
quadrant after a save. -/
def execNestSafeStop (s : State) : Host.Outcome State Fault Refusal :=
  match s.arg with
  | .seq sid =>
    match s.nestDue sid with
    | some (_, .bound) =>
      let n := (s.seq sid).nest
      if n.stop = 0 then .next (s.nestDone sid)
      else if n.stop = 3 then .next (s.updSeq sid (fun q => { q with nest := {}, active := {} }))
      else .next (s.updNest sid (fun n => { n.park (n.todo.drop 1) with live := n.stop == 1 }))
    | _ => .next s
  | _ => .next s

/-- MGO (R215): the shadow table is checked, copied and started. -/
def execMgo (s : State) : Host.Outcome State Fault Refusal :=
  if s.colBusy then .next s.stall
  else if isMgmt s.cur.sid then .next s.illegal
  else
    let sid := s.cur.sid
    let t := s.me.shadow
    if s.nestIllegal sid t then .next s.illegal
    else if s.nestBounds sid t then .next s.boundsFault
    else if s.me.nest.live || s.heldQuads sid &&& t.fld 109 4 != 0 then .next s.stall
    else
      let rows := t.rows
      let banks := (List.range 4).foldl (fun a b =>
        if rows.any (fun r => s.physRow sid r / 64 == b) then a + 2 ^ b else a) 0
      let n : Nest := { live := true, claim := t.fld 109 4, banks := banks, issue := s.now }
      let s := s.occupy 1
      let s := s.updSeq sid (fun q => { q with
        active := t, nest := { n with todo := t.stepActs (s.physQ sid) n (s.now + 6) } })
      .next (s.nestGo sid)

/-! ## Accumulators (R222, R223) -/

/-- Banks of `n` named rows from `r`. -/
def State.banksOf (s : State) (r n : Nat) : Nat :=
  (List.range 4).foldl (fun a b =>
    if 0 < n ∧ s.physRow s.cur.sid r / 64 ≤ b ∧ b ≤ s.physRow s.cur.sid (r + n - 1) / 64 then a + 2 ^ b else a) 0

/-- A word on `n` rows from `r`: outside the named range a bounds fault, on a bank that a nest holds a structural-occupancy
violation (R221). An MCLR of no rows has no occupancy and may issue in that of another word (R203). -/
def State.accWord (s : State) (r n occ : Nat) (colsOk : Bool) (k : State → State) : Host.Outcome State Fault Refusal :=
  if occ ≠ 0 ∧ s.colBusy then .next s.stall
  else if isMgmt s.cur.sid then .next s.illegal
  else if s.accRows s.cur.sid < r + n ∨ !colsOk then .next s.boundsFault
  else if s.heldBanks s.cur.sid &&& s.banksOf r n ≠ 0 then .next s.stall
  else .next (k (s.occupy occ))

/-- MCLR. -/
def execMclr (a b : BitVec 6) (s : State) : Host.Outcome State Fault Refusal :=
  let r := s.me.gn a.toNat
  let n := s.me.gn b.toNat
  s.accWord r n (cdiv n 4) true (fun s =>
    s.land (cdiv n 4 + 1) ((List.range n).map (fun i => .acc (s.physRow s.cur.sid (r + i)) 0 (BitVec.allOnes 16384))))

/-- MRD: FP32 values of a window of the accumulators converted to the tile's type. -/
def execMrd (v : BitVec 5) (r c : BitVec 6) (m : BitVec 2) (s : State) : Host.Outcome State Fault Refusal :=
  if !s.tilesOk [v.toNat] then s.issue 1 (fun s => s.illegal)
  else
    let r0 := s.me.gn r.toNat
    let c0 := s.me.gn c.toNat
    let sh := s.me.shape
    let occ := slots (shapeBytes sh)
    s.accWord r0 (shapeRows sh) occ (decide (c0 + shapeCols sh ≤ 512)) (fun s =>
      let t := shapeType sh
      let s := s.noteRows s.cur.sid (span r0 (shapeRows sh))
      let l := ((List.range (shapeRows sh)).map (fun i =>
        (unpack 32 (shapeCols sh) ((s.accRow s.cur.sid (r0 + i)).toNat / 2 ^ (32 * c0))).map
          (fun x => convert 1 t m.toNat s.ovinf x))).flatten
      s.land (occ + 3) (tileLand v.toNat t (l.map (·.1)) :: flagLands (orFlags l)))

/-- MWR: elements of the tile converted to FP32 into a window of the accumulators. -/
def execMwr (v : BitVec 5) (r c : BitVec 6) (m : BitVec 2) (s : State) : Host.Outcome State Fault Refusal :=
  if !s.tilesOk [v.toNat] then s.issue 1 (fun s => s.illegal)
  else
    let r0 := s.me.gn r.toNat
    let c0 := s.me.gn c.toNat
    let sh := s.me.shape
    let occ := slots (shapeBytes sh)
    s.accWord r0 (shapeRows sh) occ (decide (c0 + shapeCols sh ≤ 512)) (fun s =>
      let l := (s.elemsOf v.toNat).map (fun x => convert (shapeType sh) 1 m.toNat s.ovinf x)
      let n := shapeCols sh
      s.land (occ + 3) ((List.range (shapeRows sh)).map (fun i =>
        .acc (s.physRow s.cur.sid (r0 + i)) (BitVec.ofNat 16384 (pack 32 (((l.drop (n * i)).take n).map (·.1)) * 2 ^ (32 * c0)))
          (BitVec.ofNat 16384 ((2 ^ (32 * n) - 1) * 2 ^ (32 * c0)))) ++ flagLands (orFlags l)))

/-! ## Parity (R302) -/

/-- CIM_PARITY_ERROR: the quadrant is poisoned and the uncorrectable-data event raised for the owning half (R302, R334). -/
def execCimParityError (s : State) : Host.Outcome State Fault Refusal :=
  match s.arg with
  | .half core q =>
    let s := s.updCore core (fun c =>
      let x : Quad := Fm.get {} c.quads q
      { c with quads := Fm.set c.quads q { x with poison := true } })
    let sid := if (s.core core).split ∧ 2 ≤ q then core + 4096 else core
    .next (s.uncorrectableNext sid 4 0 (0xFFFFFF0 + q))
  | _ => .next s

end Sys2Proof.Machine
end

