-- ==== Sys2Proof/Machine/Attention.lean ====
section
/-! DEFINITION. Attention: the entries RATT, KAPP and KREL (R236, R237), contexts and their order (R361, R362), page lists
(R363 to R365), the partial result (R366), admission and the promise (R367, R368), proxy contexts (R370). -/

namespace Sys2Proof.Machine

open Sys2Proof

/-! ## Descriptors (R236) -/

/-- A field of `n` bytes at an offset of a descriptor. -/
def descFld (d : BlockBits) (off n : Nat) : Nat := bits d.toNat (8 * off) (8 * n)
def AttCmd.keys (a : AttCmd) : Nat := descFld a.desc 8 4
def AttCmd.plist (a : AttCmd) : Nat := descFld a.desc 12 2
def AttCmd.rows (a : AttCmd) : Nat := descFld a.desc 14 1 + 1
def AttCmd.hw (a : AttCmd) : Nat := 8 * (descFld a.desc 15 1 % 32 + 1)
def AttCmd.mask (a : AttCmd) : Nat := descFld a.desc 3 1 % 4
def AttCmd.kfmt (a : AttCmd) : Nat := descFld a.desc 3 1 / 4 % 4

/-- The element type of a KFMT (R20, R236): E4M3, D8, FP16. -/
def keyType (kfmt : Nat) : Nat := if kfmt = 0 then 4 else if kfmt = 1 then 6 else 2
/-- KS and VS of R363. -/
def keyStride (kfmt hw : Nat) : Nat := 64 * cdiv (hw * (if kfmt = 2 then 2 else 1)) 64
def valStride (hw : Nat) : Nat := 64 * cdiv (2 * hw) 64

/-- W of R367. -/
def AttCmd.work (a : AttCmd) : Nat := 64 + 3 * cdiv (a.rows * a.keys) 16
/-- The cycles that the records take to write (R237). -/
def AttCmd.wr (a : AttCmd) : Nat := cdiv (a.rows * recordStride a.hw) 2048

/-! ## The three words -/

/-- A word whose operand is the address of a descriptor. -/
def State.attWord (s : State) (i : Instr) (q : BitVec 4) (g : BitVec 6) : Host.Outcome State Fault Refusal :=
  s.asyWord [q.toNat] (fun room s =>
    if !s.asySpad (s.me.gn g.toNat) 64 then s.boundsFault
    else s.enqueue [s.entry i q.toNat [s.me.gn g.toNat] [] false] room)

def execRatt (q : BitVec 4) (g : BitVec 6) (u : BitVec 1) (s : State) : Host.Outcome State Fault Refusal :=
  s.attWord (.ratt q g u) q g
def execKapp (q : BitVec 4) (g : BitVec 6) (s : State) : Host.Outcome State Fault Refusal := s.attWord (.kapp q g) q g
def execKrel (q : BitVec 4) (g : BitVec 6) (s : State) : Host.Outcome State Fault Refusal := s.attWord (.krel q g) q g

/-! ## Contexts and lists -/

def ctxKey (die ctx : Nat) : Nat := 4096 * die + ctx
def State.ctx (s : State) (die ctx : Nat) : Ctx := Fm.get {} s.ctxs (ctxKey die ctx)
def State.updCtx (s : State) (die ctx : Nat) (f : Ctx → Ctx) : State :=
  { s with ctxs := Fm.set s.ctxs (ctxKey die ctx) (f (s.ctx die ctx)) }
def State.plist (s : State) (die n : Nat) : PList := Fm.get {} s.plists (65536 * die + n)
def State.setPlist (s : State) (die n : Nat) (l : PList) : State := { s with plists := Fm.set s.plists (65536 * die + n) l }
def State.attEngine (s : State) (die e : Nat) : AttEngine := Fm.get {} s.engines (16 * die + e)
def State.setEngine (s : State) (die e : Nat) (x : AttEngine) : State := { s with engines := Fm.set s.engines (16 * die + e) x }

/-! ## Page pools (R364; log entry 21) -/

/-- Free key-value pages of a partition on a die, in HBM4E or in the LPDDR tier. Their number at the start is a free value. -/
def State.pool_ (s : State) (die part : Nat) (cold : Bool) : Nat × State :=
  let k := 64 * die + part + (if cold then 1024 else 0)
  match s.kvPool.find? (fun e => e.1 == k) with
  | some e => (e.2, s)
  | none => (s.drawVal, { s.drew with kvPool := Fm.set s.kvPool k s.drawVal })
def State.setPool (s : State) (die part : Nat) (cold : Bool) (n : Nat) : State :=
  { s with kvPool := Fm.set s.kvPool (64 * die + part + (if cold then 1024 else 0)) n }

/-- Pages of a list. -/
def PList.pages (l : PList) : Nat := cdiv l.len 64
def PList.hot (l : PList) : Nat := l.pages - l.cold.length

/-- The partition of a list: that of its owner context. -/
def State.listPart (s : State) (die : Nat) (l : PList) : Nat := (s.ctx die l.owner).owner

/-- The least recently attended list of a partition with a hot page, by number. -/
def State.coolest (s : State) (die part : Nat) : Option Nat :=
  (s.plists.foldl (fun (b : Option (Nat × Nat)) e =>
    if e.1 / 65536 = die ∧ e.2.fixed ∧ s.listPart die e.2 = part ∧ 0 < e.2.hot then
      (match b with
        | some x => if e.2.stamp < x.2 then some (e.1 % 65536, e.2.stamp) else b
        | none => some (e.1 % 65536, e.2.stamp))
    else b) none).map (·.1)

/-- One page is taken for a list: HBM4E while the pool has a free page, if need be after the least recently attended list
was made cold; then the LPDDR tier. Answers whether the page is cold, or none where the pool is exhausted. -/
def State.takePage (s : State) (die part : Nat) : Option (Bool × State) :=
  let (hot, s) := s.pool_ die part false
  if 0 < hot then some (false, s.setPool die part false (hot - 1))
  else
    let (cold, s) := s.pool_ die part true
    match s.coolest die part with
    | some n =>
      let l := s.plist die n
      if l.hot ≤ cold then
        some (false, ((s.setPlist die n { l with cold := List.range l.pages }).setPool die part true (cold - l.hot)).setPool die
          part false (l.hot - 1))
      else if 0 < cold then some (true, s.setPool die part true (cold - 1)) else none
    | none => if 0 < cold then some (true, s.setPool die part true (cold - 1)) else none

/-- `n` pages from number `first`: the numbers of the cold ones. -/
def State.takePages (s : State) (die part first : Nat) : Nat → Option (List Nat × State)
  | 0 => some ([], s)
  | n + 1 =>
    match s.takePage die part with
    | none => none
    | some (c, s) => (s.takePages die part (first + 1) n).map (fun r => (if c then first :: r.1 else r.1, r.2))

/-- The pages of a list return to their pools and the list is free (R365). -/
def State.freeList (s : State) (die n : Nat) : State :=
  let l := s.plist die n
  let part := s.listPart die l
  let (h, s) := s.pool_ die part false
  let s := s.setPool die part false (h + l.hot)
  let (c, s) := s.pool_ die part true
  let s := s.setPool die part true (c + l.cold.length)
  { s with plists := Fm.del s.plists (65536 * die + n) }

/-! ## Records (R237) -/

/-- The bytes of one record. -/
def Partial.bytes (p : Partial) : List Nat := (p.o ++ [p.m, p.l, p.stat, 0]).flatMap (fun x => toBytes x 4)
/-- A record without a result: 1 empty, 2 refused, 3 failed. -/
def noPartial (hw stat : Nat) : Partial := { o := List.replicate hw 0, m := 0xFF800000, l := 0, stat := stat }

/-- The records of a RATT are written in cycle `c` with the warnings `w` of its keys, and its entry is done. -/
def State.recordsAt (s : State) (a : AttCmd) (c : Nat) (recs : List Nat) (w : Nat := 0) : State :=
  let s := s.push { cyc := c, cls := 4, key := engineKey a.cmd.sid a.cmd.issue, ins := .rattRecordWrite, arg := .records a w recs }
  let s := s.landAt a.cmd.sid 7 a.cmd.issue c [.retire a.cmd.id]
  s.doneAt c a.cmd.sid a.cmd.id .rattRecordWrite

/-- A RATT ends without a result. -/
def State.rattEnds (s : State) (a : AttCmd) (c stat : Nat) : State :=
  s.recordsAt a c ((List.range a.rows).flatMap (fun _ => (noPartial a.hw stat).bytes))

/-- RATT_RECORD_WRITE. The warnings that the keys gave go to the issuing task (R45; log entry 100). -/
def execRattRecordWrite (s : State) : Host.Outcome State Fault Refusal :=
  match s.arg with
  | .records a w recs =>
    if s.stale a.cmd then .next s
    else
      let s := if w ≠ 0 ∧ (s.seq a.cmd.sid).task.launch = a.cmd.launch then s.record a.cmd.sid [.wrn (BitVec.ofNat 8 w)] else s
      .next (s.writeRows (spadOf a.cmd.sid) (descFld a.desc 32 8 % 2 ^ 22) (recordStride a.hw) (4 * a.hw + 16) recs)
  | .cmd sid id => .next (s.entryDone sid id)
  | _ => .next s

/-! ## The start of an entry (R236, R237, R361, R368) -/

/-- Whether an entry fails at S: by its descriptor, or because its context is not granted to its partition. -/
def State.attFails (s : State) (a : AttCmd) : Bool :=
  let c := s.ctx a.die a.ctx
  decide (a.die < 4 ∨ 7 < a.die) || s.fenced.any (fun e => e.1 == a.die) || !c.v || c.owner != a.cmd.part || decide (4096 ≤ a.ctx) ||
  (match a.cmd.ins with
    | .ratt _ _ _ => a.mask == 3 || a.plist == 0xFFFF
    | .kapp _ _ => a.kfmt == 3 || a.plist == 0xFFFF
    | _ => false)

/-- The command as the entry's start reads it from the scratchpad: a RATT its query rows and bitmap, a KAPP its rows. -/
def State.attRead (s : State) (c : Cmd) : AttCmd :=
  let cl := spadOf c.sid
  let d := BitVec.ofNat 512 (s.spadRead cl (c.gs.getD 0 0) 64)
  { cmd := { c with start := some s.now }, die := descFld d 2 1, ctx := descFld d 0 2, seq := descFld d 4 4, desc := d,
    part := c.part, gen := c.gen, untimed := (match c.ins with
      | .ratt _ _ u => u == 1
      | _ => false) }
def State.attData (s : State) (a : AttCmd) : AttCmd :=
  let cl := spadOf a.cmd.sid
  match a.cmd.ins with
  | .ratt _ _ _ =>
    { a with
      q := (List.range a.rows).flatMap (fun r => s.spadRow cl (descFld a.desc 24 8 % 2 ^ 22 + r * valStride a.hw) (2 * a.hw))
      bitmap := if a.mask = 2 ∧ a.keys ≤ 65536 then s.spadRow cl (descFld a.desc 40 8 % 2 ^ 22) (cdiv a.keys 8) else [] }
  | .kapp _ _ =>
    let n := if a.keys ≤ 65536 then a.keys else 0
    let ks := keyStride a.kfmt a.hw
    let ka := descFld a.desc 24 8 % 2 ^ 22
    let va := descFld a.desc 32 8 % 2 ^ 22
    let vs := valStride a.hw
    { a with
      k := (List.range n).flatMap (fun j => s.spadRow cl (ka + j * ks) ks)
      ktags := (List.range (n * (ks / 64))).map (fun i => s.spadTag cl ((ka + 64 * i) % Config.spadBytes))
      q := (List.range n).flatMap (fun j => s.spadRow cl (va + j * vs) vs)
      vtags := (List.range (n * (vs / 64))).map (fun i => s.spadTag cl ((va + 64 * i) % Config.spadBytes)) }
  | _ => a

/-- The bytes that an entry reads at S beside its descriptor: address and length. -/
def AttCmd.spans (a : AttCmd) : List (Nat × Nat) :=
  match a.cmd.ins with
  | .ratt _ _ _ =>
    (List.range a.rows).map (fun r => (descFld a.desc 24 8 % 2 ^ 22 + r * valStride a.hw, 2 * a.hw)) ++
      (if a.mask = 2 ∧ a.keys ≤ 65536 then [(descFld a.desc 40 8 % 2 ^ 22, cdiv a.keys 8)] else [])
  | .kapp _ _ =>
    let n := if a.keys ≤ 65536 then a.keys else 0
    [(descFld a.desc 24 8 % 2 ^ 22, n * keyStride a.kfmt a.hw), (descFld a.desc 32 8 % 2 ^ 22, n * valStride a.hw)]
  | _ => []
/-- Uncorrectable blocks among what an entry reads at S are recorded (R334). -/
def State.noteSpans (s : State) (sid : Nat) (l : List (Nat × Nat)) : State :=
  l.foldl (fun s x => s.noteSpadRow sid 7 (spadOf sid) x.1 x.2) s

/-- An attention entry starts at S. -/
def State.startAttention (s : State) (c : Cmd) : State :=
  let a := s.attRead c
  let bad := s.attFails a
  let s := s.noteSpans c.sid ((c.gs.getD 0 0, 64) :: if bad then [] else a.spans)
  let s := s.updCmd c.sid c.id (fun x => { x with start := some s.now })
  match c.ins with
  | .ratt _ _ _ =>
    let promise := s.now + 126 + (a.work - 64) + a.wr
    let a := { a with promise := promise }
    let s := s.outstanding c.sid { id := c.id, kind := 7, issue := c.issue }
    let s := if a.untimed then s else
      s.push { cyc := promise, cls := 2, key := c.sid, ins := .arrivalViolation,
               arg := .access { id := c.id, sid := c.sid, col := 7 } }
    if bad then s.rattEnds a promise 3
    else
      let a := s.attData a
      s.push { cyc := s.now + 38, cls := 8, key := c.sid, ins := .attentionCommandArrival, arg := .att a }
  | _ =>
    let a := if bad then a else s.attData a
    let sent := if bad then 0 else match c.ins with
      | .kapp _ _ => a.keys * (keyStride a.kfmt a.hw + valStride a.hw)
      | _ => 0
    let late := (s.ctx a.die a.ctx).exp && !bad
    let k := s.now + 36 + cdiv sent 2048 + (if late then s.drawVal else 0)
    let s := if late then s.drew else s
    (s.push { cyc := k, cls := 4, key := engineKey c.sid c.issue, ins := .attentionAccept,
              arg := .records a (if bad then 3 else 0) [] }).doneAt k c.sid c.id .attentionAccept

/-! ## Sequence order (R362) -/

/-- δ of R362. -/
def Ctx.delta (c : Ctx) (n : Nat) : Nat := (n + 2 ^ 32 - c.next % 2 ^ 32) % 2 ^ 32

/-- A command that can no longer execute: a RATT fails, any other sets BROKEN where `breaks`. -/
def State.attDrop (s : State) (a : AttCmd) (breaks : Bool) : State :=
  match a.cmd.ins with
  | .ratt _ _ _ => s.rattEnds a (max a.promise s.now) 3
  | _ => if breaks then s.updCtx a.die a.ctx (fun c => { c with broken := true }) else s

/-- The row of a command's execution. -/
def AttCmd.row (a : AttCmd) : Instr := match a.cmd.ins with
  | .ratt _ _ _ => .rattAdmission
  | .kapp _ _ => .kappExecute
  | _ => .krelExecute

/-- Commands in the window whose SEQ is used are dropped; the one whose turn it is executes. -/
def State.nextTurn (s : State) (die n : Nat) : State :=
  let c := s.ctx die n
  let gone := c.window.filter (fun a => decide (32 ≤ c.delta a.seq))
  let s := s.updCtx die n (fun c => { c with window := c.window.filter (fun a => !decide (32 ≤ c.delta a.seq)) })
  let s := gone.foldl (fun s a => s.attDrop a true) s
  match (s.ctx die n).window.find? (fun a => a.seq == c.next % 2 ^ 32) with
  | none => s
  | some a => s.push { cyc := s.now, cls := 8, key := ctxKey die n, ins := a.row, arg := .att a }

/-- A command reaches its die. -/
def State.attArrive (s : State) (a : AttCmd) : State :=
  if s.stale a.cmd then s
  else if (match a.cmd.ins with | .krel _ _ => a.plist == 0xFFFF | _ => false) then
    s.push { cyc := s.now, cls := 8, key := ctxKey a.die a.ctx, ins := .contextControl, arg := .att a }
  else if 32 ≤ (s.ctx a.die a.ctx).delta a.seq ∨
      (s.ctx a.die a.ctx).window.any (fun x => x.seq == a.seq) then s.attDrop a true
  else (s.updCtx a.die a.ctx (fun c => { c with window := c.window ++ [a] })).nextTurn a.die a.ctx

/-- ATTENTION_COMMAND_ARRIVAL (R362). -/
def execAttentionCommandArrival (s : State) : Host.Outcome State Fault Refusal :=
  match s.arg with
  | .att a => .next (s.attArrive a)
  | _ => .next s

/-- ATTENTION_ACCEPT (R236, R237): KSTAT is written in the done cycle; an accepted command reaches its context. -/
def execAttentionAccept (s : State) : Host.Outcome State Fault Refusal :=
  match s.arg with
  | .records a stat _ =>
    if s.stale a.cmd then .next s
    else
      let s := s.spadWrite (spadOf a.cmd.sid) (a.cmd.gs.getD 0 0 + 48) 8 stat 0x7F00
      .next (if stat = 0 then s.attArrive a else s)
  | .cmd sid id => .next (s.entryDone sid id)
  | _ => .next s

/-- Whether it is the command's turn; it leaves the window with its execution, and NEXT advances. -/
def State.onTurn (s : State) (a : AttCmd) : Bool :=
  !s.stale a.cmd && (s.ctx a.die a.ctx).next % 2 ^ 32 == a.seq && (s.ctx a.die a.ctx).window.contains a
def State.tookTurn (s : State) (a : AttCmd) : State :=
  (s.updCtx a.die a.ctx (fun c => { c with window := c.window.erase a, next := (c.next + 1) % 2 ^ 32 })).nextTurn a.die a.ctx
def State.breakCtx (s : State) (a : AttCmd) : State := s.updCtx a.die a.ctx (fun c => { c with broken := true })

/-! ## Appends and releases (R363 to R365) -/

/-- The rows of a KAPP join their list. -/
def State.append (s : State) (a : AttCmd) : State :=
  let l := s.plist a.die a.plist
  let part := (s.ctx a.die a.ctx).owner
  if l.fixed ∧ (l.owner ≠ a.ctx ∨ l.kfmt ≠ a.kfmt ∨ l.hw ≠ a.hw) then s.breakCtx a
  else if 65536 < l.len + a.keys then s.breakCtx a
  else
    let first := l.pages
    match s.takePages a.die part first (cdiv (l.len + a.keys) 64 - first) with
    | none => s.breakCtx a
    | some (cold, s) =>
      -- the pages of the list itself may have been made cold to free HBM4E pages
      let l := { s.plist a.die a.plist with fixed := true, owner := a.ctx, kfmt := a.kfmt, hw := a.hw }
      let ks := keyStride a.kfmt a.hw
      let vs := valStride a.hw
      let l := (List.range a.keys).foldl (fun (l : PList) j => { l with
        len := l.len + 1
        krow := Fm.set l.krow l.len ((a.k.drop (j * ks)).take ks)
        ktag := Fm.set l.ktag l.len ((a.ktags.drop (j * (ks / 64))).take (ks / 64))
        vrow := Fm.set l.vrow l.len ((a.q.drop (j * vs)).take vs)
        vtag := Fm.set l.vtag l.len ((a.vtags.drop (j * (vs / 64))).take (vs / 64)) }) l
      s.setPlist a.die a.plist { l with cold := l.cold ++ cold }

/-- KAPP_EXECUTE (R362 to R364). -/
def execKappExecute (s : State) : Host.Outcome State Fault Refusal :=
  match s.arg with
  | .att a => .next (if s.onTurn a then (s.append a).tookTurn a else s)
  | _ => .next s

/-- KREL_EXECUTE (R365): it waits until the RATTs of its context before it have finished reading. -/
def execKrelExecute (s : State) : Host.Outcome State Fault Refusal :=
  match s.arg with
  | .att a =>
    let busy := ((s.ctx a.die a.ctx).reading.filter (fun r => decide (s.now < r.2))).foldl (fun m r => max m r.2) 0
    if !s.onTurn a then .next s
    else if s.now < busy then
      .next (s.push { cyc := busy, cls := 8, key := ctxKey a.die a.ctx, ins := .krelExecute, arg := .att a })
    else
      let l := s.plist a.die a.plist
      .next ((if !l.fixed then s else if l.owner ≠ a.ctx then s.breakCtx a else s.freeList a.die a.plist).tookTurn a)
  | _ => .next s

/-- The partition's share of engine cycles on a die (R365). -/
def State.attShare (s : State) (part die : Nat) : Nat := 16384 * bits ((s.part part).get (0x1E0 + 4 * (die - 4)) 4) 16 16 / 4096

/-- CONTEXT_CONTROL (R365): the context's lists are freed, BROKEN is cleared, NEXT and RESV set, and the waiting commands judged
again under the new NEXT. -/
def execContextControl (s : State) : Host.Outcome State Fault Refusal :=
  match s.arg with
  | .att a =>
    if s.stale a.cmd then .next s
    else
      let die := a.die
      let s := (s.plists.filter (fun e => e.1 / 65536 == die && e.2.fixed && e.2.owner == a.ctx)).foldl
        (fun s e => s.freeList die (e.1 % 65536)) s
      let part := (s.ctx die a.ctx).owner
      let used := (s.ctxs.filter (fun e => e.1 / 4096 == die && e.1 % 4096 != a.ctx && e.2.v && e.2.owner == part)).foldl
        (fun n e => n + e.2.resv) 0
      let s := s.updCtx die a.ctx (fun c => { c with
        broken := false, next := (a.seq + 1) % 2 ^ 32, resv := min (a.keys % 65536) (s.attShare part die - used) })
      let c := s.ctx die a.ctx
      let keep (x : AttCmd) : Bool := decide (1 ≤ c.delta x.seq ∧ c.delta x.seq ≤ 31)
      let s := s.updCtx die a.ctx (fun c => { c with window := c.window.filter keep })
      let s := (c.window.filter (fun x => !keep x)).foldl (fun s x => s.attDrop x false) s
      .next ((s.nextTurn die a.ctx).push
        { cyc := s.nextMultiple (s.now + 1) 1024, cls := 0, key := ctxKey die a.ctx, ins := .attentionCreditRefill,
          arg := .id (ctxKey die a.ctx) })
  | _ => .next s

/-- ATTENTION_CREDIT_REFILL (R367): at each Beacon multiple of 1,024. -/
def execAttentionCreditRefill (s : State) : Host.Outcome State Fault Refusal :=
  match s.arg with
  | .id k =>
    let s := s.updCtx (k / 4096) (k % 4096) (fun c => { c with credit := min c.resv (c.credit + c.resv) })
    let c := s.ctx (k / 4096) (k % 4096)
    .next (if c.resv != 0 then
      s.push { cyc := s.nextMultiple (s.now + 1) 1024, cls := 0, key := k, ins := .attentionCreditRefill, arg := .id k }
      else s)
  | _ => .next s

/-! ## The partial result (R366) -/

/-- Element `d` of a row of bytes, `n` bytes wide. -/
def rowElem (l : List Nat) (n d : Nat) : Nat := ofBytes ((l.drop (n * d)).take n)

/-- The key vector of slot `j`: each element in KFMT under the scale byte of its block (R66). -/
def PList.keyVec (l : PList) (j : Nat) : List Val :=
  let t := keyType l.kfmt
  let n := typeBits t / 8
  let row := Fm.get [] l.krow j
  (List.range l.hw).map (fun d =>
    let sc := (Fm.get [] l.ktag j).getD (n * d / 64) 0x7F00 / 256 % 256
    let v := decodeVal t (rowElem row n d)
    if t = 2 then v else if sc = 255 then .nan false else v.scale ((sc : Int) - 127))

/-- Warnings of the decoding of key `j` (R45, R58, R66): a class G code of D8, a scale byte other than 127 of FP16. Query and value
rows, which take no scale byte, give none (log entry 100). -/
def PList.keyWarns (l : PList) (j : Nat) : Nat :=
  (if l.kfmt = 1 ∧ ((Fm.get [] l.krow j).take l.hw).any classG then 4 else 0) |||
  (if l.kfmt = 2 ∧ (Fm.get [] l.ktag j).any (fun t => t / 256 % 256 != 127) then 8 else 0)

/-- Whether key `j` is valid for query row `r`. -/
def AttCmd.validKey (a : AttCmd) (r j : Nat) : Bool :=
  match a.mask with
  | 0 => true
  | 1 => decide (j ≤ descFld a.desc 20 4 + r)
  | _ => bit (a.bitmap.getD (j / 8) 0) (j % 8)

/-- The record of query row `r` over a list. -/
def AttCmd.attend (a : AttCmd) (l : PList) (r : Nat) : Partial :=
  let d32 (x : Nat) : Val := decodeVal 1 x
  let q := (List.range a.hw).map (fun d => decodeVal 2 (rowElem (a.q.drop (2 * a.hw * r)) 2 d))
  let s := ((List.range a.keys).filter (a.validKey r)).map (fun j =>
    let x := (q.zip (l.keyVec j)).map (fun e => bits32 (mulVal e.1 e.2).1)
    (j, bits32 (mul32 (d32 (tree (sumStep 1 0 false) 0 x).1) (d32 (descFld a.desc 16 4)))))
  if s.isEmpty then noPartial a.hw 1
  else
    let m := max32 (s.map (·.2))
    let (o, z) := s.foldl (fun (acc : List Val × Val) e =>
      let p := (exp2A (sub32 (d32 e.2) (d32 m))).1
      let v := Fm.get [] l.vrow e.1
      ((acc.1.zipIdx).map (fun x => fma32 p (decodeVal 2 (rowElem v 2 x.2)) x.1), add32 acc.2 p))
      ((List.replicate a.hw (d32 0), d32 0) : List Val × Val)
    { o := o.map bits32, m := m, l := bits32 z, stat := 0 }

/-- The records of a RATT over its list. -/
def AttCmd.records (a : AttCmd) (l : PList) : List Nat :=
  if l.len < a.keys then (List.range a.rows).flatMap (fun _ => (noPartial a.hw 3).bytes)
  else (List.range a.rows).flatMap (fun r => (a.attend l r).bytes)

/-- Whether a RATT reads a key: it is valid for a row, and the list is long enough (R366). -/
def AttCmd.readsKey (a : AttCmd) (l : PList) (j : Nat) : Bool :=
  decide (a.keys ≤ l.len) && decide (j < a.keys) && (List.range a.rows).any (fun r => a.validKey r j)
/-- Whether a RATT reads a page of its list (R364, R367). -/
def AttCmd.readsPage (a : AttCmd) (l : PList) (p : Nat) : Bool := (List.range 64).any (fun i => a.readsKey l (64 * p + i))
/-- The warnings of the keys that a RATT reads. -/
def AttCmd.warns (a : AttCmd) (l : PList) : Nat :=
  (List.range (if a.keys ≤ l.len then a.keys else 0)).foldl (fun w j => if a.readsKey l j then w ||| l.keyWarns j else w) 0

/-! ## Admission (R367) -/

/-- An engine for a RATT: a free one; for a timed RATT also one that runs an untimed RATT. -/
def State.findEngine (s : State) (die : Nat) (timed : Bool) : Option Nat :=
  match (List.range 16).find? (fun e => decide ((s.attEngine die e).free ≤ s.now)) with
  | some e => some e
  | none => if timed then (List.range 16).find? (fun e => decide ((s.attEngine die e).hold ≤ s.now)) else none

/-- An untimed RATT makes the cold pages that it reads hot, as long as HBM4E pages are free (R364). -/
def State.warm (s : State) (a : AttCmd) : State :=
  let l := s.plist a.die a.plist
  let part := s.listPart a.die l
  (l.cold.filter (a.readsPage l)).foldl (fun s p =>
    let (h, s) := s.pool_ a.die part false
    if h = 0 then s
    else
      let (c, s) := s.pool_ a.die part true
      let l := s.plist a.die a.plist
      ((s.setPlist a.die a.plist { l with cold := l.cold.filter (· != p) }).setPool a.die part false (h - 1)).setPool a.die part
        true (c + 1)) s

/-- A suspended untimed RATT ends `w` cycles later: its last read and its records (R365, R367). -/
def State.suspend (s : State) (die : Nat) (u : Nat × Nat × Nat) (w : Nat) : State :=
  let s := s.updCtx die u.2.2 (fun c => { c with reading := c.reading.map (fun r => if r.1 = u.2.1 then (r.1, r.2 + w) else r) })
  let mine (e : Ev) : Bool := match e.arg with
    | .records a _ _ => e.ins == .rattRecordWrite && a.cmd.sid == u.1 && a.cmd.id == u.2.1
    | .cmd sid id => e.ins == .rattRecordWrite && sid == u.1 && id == u.2.1
    | .land sid l => sid == u.1 && l == [.retire u.2.1]
    | _ => false
  { s with agenda := s.agenda.map (fun e => if mine e then { e with cyc := e.cyc + w } else e) }

/-- A RATT runs on engine `e`: its records are written when the engine has done its work. The cycle of an untimed one is not
promised; a timed one suspends it. -/
def State.attRun (s : State) (a : AttCmd) (e : Nat) : State :=
  let x := s.attEngine a.die e
  let l := s.plist a.die a.plist
  let fin := s.now + a.work
  let s := s.setPlist a.die a.plist { l with stamp := s.stamp + 1 }
  let s : State := { s with stamp := s.stamp + 1 }
  let s := if a.untimed then s.setEngine a.die e { free := fin, hold := s.now, untimed := some (a.cmd.sid, a.cmd.id, a.ctx) }
    else if x.free ≤ s.now then s.setEngine a.die e { free := fin, hold := fin }
    else
      let s := s.setEngine a.die e { x with free := x.free + a.work, hold := fin }
      match x.untimed with
      | some u => s.suspend a.die u a.work
      | none => s
  let s := s.updCtx a.die a.ctx (fun c => { c with
    reading := c.reading.filter (fun r => decide (s.now < r.2)) ++ [(a.cmd.id, fin)] })
  let c := fin + 24 + a.wr
  if a.untimed then s.drew.recordsAt a (c + s.drawVal) (a.records l) (a.warns l) else s.recordsAt a c (a.records l) (a.warns l)

/-- RATT_ADMISSION (R361 to R367, R370). -/
def execRattAdmission (s : State) : Host.Outcome State Fault Refusal :=
  match s.arg with
  | .att a =>
    let c := s.ctx a.die a.ctx
    let l := s.plist a.die a.plist
    let foreign := l.fixed && l.owner != a.ctx
    if !s.onTurn a then .next s
    else if foreign || c.broken || (l.fixed && l.hw != a.hw) then
      let s := if foreign then s.breakCtx a else s
      .next ((s.rattEnds a (max a.promise s.now) 3).tookTurn a)
    else match s.findEngine a.die (!a.untimed) with
      | none =>
        if a.untimed then
          .next (s.push { cyc := s.now + 1, cls := 8, key := ctxKey a.die a.ctx, ins := .rattAdmission, arg := .att a })
        else .next ((s.rattEnds a (max a.promise s.now) 2).tookTurn a)
      | some e =>
        if a.untimed then .next (((s.warm a).attRun a e).tookTurn a)
        else if decide (c.credit < a.work) || c.exp || l.cold.any (a.readsPage l) then
          .next ((s.rattEnds a (max a.promise s.now) 2).tookTurn a)
        else
          .next (((s.updCtx a.die a.ctx (fun c => { c with credit := c.credit - a.work })).attRun a e).tookTurn a)
  | _ => .next s

end Sys2Proof.Machine
end

