-- ==== Sys2Proof/Machine/Crypto.lean ====
section
/-! DEFINITION. SHA-256 (FIPS 180-4) and the verification of an RSA-3072 PSS signature (RFC 8017), which R405, R407 and R411 name
with all their parameters: public exponent 65,537, MGF1 with SHA-256, a salt of 32 bytes (log entry 12). -/

namespace Sys2Proof.Machine

/-! ## SHA-256 -/

/-- A 32-bit word rotated right. -/
def ror32 (x n : Nat) : Nat := x / 2 ^ n + x % 2 ^ n * 2 ^ (32 - n)

/-- The first `n` primes below 312, of which there are 64: a number below 19² is prime where no smaller prime below 19 divides it. -/
def firstPrimes (n : Nat) : List Nat :=
  (((List.range 312).drop 2).filter (fun p => [2, 3, 5, 7, 11, 13, 17].all (fun d => decide (p ≤ d) || p % d != 0))).take n

/-- The integer `k`-th root of `x`, its bits found from bit `n - 1` down, above the bits found before. -/
def rootBelow (k x : Nat) : Nat → Nat → Nat
  | 0, r => r
  | n + 1, r => rootBelow k x n (if (r + 2 ^ n) ^ k ≤ x then r + 2 ^ n else r)

/-- The first 32 bits of the fractional part of the `k`-th root of a prime. -/
def rootWord (k p : Nat) : Nat := rootBelow k (p * 2 ^ (32 * k)) 38 0 % 2 ^ 32

/-- The constants of the 64 rounds: of the cube roots of the first 64 primes. -/
def shaConstants : List Nat := (firstPrimes 64).map (rootWord 3)

/-- The eight working words. -/
structure ShaWords where
  a : Nat
  b : Nat
  c : Nat
  d : Nat
  e : Nat
  f : Nat
  g : Nat
  h : Nat
  deriving DecidableEq, Repr

/-- The initial hash value: of the square roots of the first eight primes. -/
def shaInitial : ShaWords :=
  let w (i : Nat) : Nat := rootWord 2 ((firstPrimes 8).getD i 2)
  ⟨w 0, w 1, w 2, w 3, w 4, w 5, w 6, w 7⟩

/-- The message padded to whole blocks: a bit 1, zeros, and the length in bits as 64 bits, the highest byte first. -/
def shaPadded (l : List Nat) : List Nat :=
  l ++ 128 :: List.replicate ((119 - l.length % 64) % 64) 0 ++ (toBytes (8 * l.length) 8).reverse

/-- A number of bytes with the highest first. -/
def bigEndian (l : List Nat) : Nat := l.foldl (fun a x => a * 256 + x % 256) 0

/-- The next word of the message schedule, from the sixteen before it, the newest first. -/
def shaNextWord (w : List Nat) : Nat :=
  let x := w.getD 1 0
  let y := w.getD 14 0
  ((ror32 x 17 ^^^ ror32 x 19 ^^^ x / 2 ^ 10) + w.getD 6 0 + (ror32 y 7 ^^^ ror32 y 18 ^^^ y / 2 ^ 3) + w.getD 15 0) % 2 ^ 32

/-- `n` words more of the message schedule, the newest first. -/
def shaSchedule : Nat → List Nat → List Nat
  | 0, w => w
  | n + 1, w => shaSchedule n (shaNextWord w :: w)

/-- One round, with its constant and its word of the schedule. -/
def ShaWords.round (s : ShaWords) (k w : Nat) : ShaWords :=
  let t := s.h + (ror32 s.e 6 ^^^ ror32 s.e 11 ^^^ ror32 s.e 25) + ((s.e &&& s.f) ^^^ ((2 ^ 32 - 1 - s.e) &&& s.g)) + k + w
  let u := (ror32 s.a 2 ^^^ ror32 s.a 13 ^^^ ror32 s.a 22) + ((s.a &&& s.b) ^^^ (s.a &&& s.c) ^^^ (s.b &&& s.c))
  ⟨(t + u) % 2 ^ 32, s.a, s.b, s.c, (s.d + t) % 2 ^ 32, s.e, s.f, s.g⟩

/-- The hash value after a block of sixteen words. -/
def ShaWords.block (s : ShaWords) (w : List Nat) : ShaWords :=
  let t := (shaConstants.zip (shaSchedule 48 w.reverse).reverse).foldl (fun t e => t.round e.1 e.2) s
  ⟨(s.a + t.a) % 2 ^ 32, (s.b + t.b) % 2 ^ 32, (s.c + t.c) % 2 ^ 32, (s.d + t.d) % 2 ^ 32,
   (s.e + t.e) % 2 ^ 32, (s.f + t.f) % 2 ^ 32, (s.g + t.g) % 2 ^ 32, (s.h + t.h) % 2 ^ 32⟩

/-- The hash value after a padded message. -/
def ShaWords.blocks (s : ShaWords) : Nat → List Nat → ShaWords
  | 0, _ => s
  | n + 1, m => (s.block ((List.range 16).map (fun i => bigEndian ((m.drop (4 * i)).take 4)))).blocks n (m.drop 64)

/-- The 32 bytes of the SHA-256 of a byte string. -/
def shaBytes (l : List Nat) : List Nat :=
  let m := shaPadded l
  let s := shaInitial.blocks (m.length / 64) m
  [s.a, s.b, s.c, s.d, s.e, s.f, s.g, s.h].flatMap (fun x => (toBytes x 4).reverse)

/-- SHA-256 as it stands in a field of 32 bytes, its first byte in the low bits. -/
def sha256 (l : List Nat) : BitVec 256 := BitVec.ofNat 256 (ofBytes (shaBytes l))

/-! ## RSA-3072 PSS -/

/-- MGF1 with SHA-256: `n` bytes of mask. -/
def mgf1 (seed : List Nat) (n : Nat) : List Nat :=
  ((List.range (cdiv n 32)).flatMap (fun i => shaBytes (seed ++ (toBytes i 4).reverse))).take n

/-- The bytewise exclusive or of two byte strings. -/
def xorBytes (a b : List Nat) : List Nat := List.zipWith (fun x y => x ^^^ y) a b

/-- `x` squared `n` times, modulo `m`. -/
def squares (m : Nat) : Nat → Nat → Nat
  | 0, x => x
  | n + 1, x => squares m n (x * x % m)

/-- The verification of an encoded message of 384 bytes (EMSA-PSS, with 3,071 bits) against a message digest. -/
def pssEncodes (em digest : List Nat) : Bool :=
  let h := (em.drop 351).take 32
  let db := xorBytes (em.take 351) (mgf1 h 351)
  decide (em.getD 0 0 < 128) && em.getD 383 0 == 188 && db.headD 0 % 128 == 0 && ((db.drop 1).take 317).all (· == 0) && db.getD 318 0 == 1 &&
  shaBytes (List.replicate 8 0 ++ digest ++ db.drop 319) == h

/-- Whether a signature verifies over a digest under a modulus of 3,072 bits, each a field of 384 bytes with its lowest byte first
(R405, R7). -/
def pssVerifies (n : Nat) (digest : BitVec 256) (sig : Nat) : Bool :=
  decide (2 ^ 3071 ≤ n) && decide (n < 2 ^ 3072) && decide (sig < n) &&
  pssEncodes (toBytes (squares n 16 sig * sig % n) 384).reverse (toBytes digest.toNat 32)

end Sys2Proof.Machine
end

