-- ==== Sys2Proof/Machine/Collective.lean ====
section
/-! DEFINITION. The collective reduction unit (R86, R239, R374 to R376) and the tier sequencers (R240, R241, R290 to R293,
R377), and the start of an ASY entry. -/

namespace Sys2Proof.Machine

open Sys2Proof

/-! ## Reduction groups -/

def State.coll (s : State) (n : Nat) : Coll := Fm.get {} s.colls n
def State.updColl (s : State) (n : Nat) (f : Coll → Coll) : State := { s with colls := Fm.set s.colls n (f (s.coll n)) }

/-- Group and op of a COLL entry. -/
def Cmd.group (c : Cmd) : Nat := bits (c.gs.getD 0 0) 0 12
def Cmd.collOp (c : Cmd) : Nat := bits (c.gs.getD 0 0) 12 2

/-- COLL (R239): the tile and SHAPE at issue; op 3 is illegal. -/
def execColl (q : BitVec 4) (v : BitVec 5) (g : BitVec 6) (s : State) : Host.Outcome State Fault Refusal :=
  s.asyWord [q.toNat] (fun room s =>
    if isMgmt s.cur.sid || !groupOk g.toNat 2 || !s.tilesOk [v.toNat] then s.illegal
    else
      let gs := s.gGroup g 2
      let c : Cmd := { s.entry (.coll q v g) q.toNat gs [] false with tile := s.tile s.cur.sid v.toNat }
      if c.collOp = 3 then s.illegal
      else if !s.asySpad (gs.getD 1 0) 64 then s.boundsFault
      else s.enqueue [c] room)

/-- B of a contribution. -/
def Cmd.bytes (c : Cmd) : Nat := shapeBytes (BitVec.ofNat 18 c.shape)
/-- The elements of a contribution, as bits. -/
def Cmd.elems (c : Cmd) : List Nat :=
  let sh := BitVec.ofNat 18 c.shape
  unpack (typeBits (shapeType sh)) (shapeCount sh) c.tile.toNat

/-- A COLL entry starts: its contribution is at the hub ⌈B ÷ 2048⌉ + 20 later (R376). -/
def State.startColl (s : State) (c : Cmd) : State :=
  (s.updCmd c.sid c.id (fun x => { x with start := some s.now })).push
    { cyc := s.now + cdiv c.bytes 2048 + 20, cls := 4, key := engineKey c.sid c.issue, ins := .collArrival, arg := .coll c.group c }

/-- The elements of a round's contributions, position by position, with NaN, in the module's exact form: for a sum the
fixed-point integer in 128 bits (R86), for maximum and minimum the value in its element type; bit 128 marks NaN. Of values that
compare equal, -0 and +0, the first to arrive stays (log entry 93). -/
def collPartial (g : Coll) (op : Nat) (l : List (List Nat)) : List Nat :=
  let t := shapeType (BitVec.ofNat 18 g.shape)
  let n := shapeCount (BitVec.ofNat 18 g.shape)
  (List.range n).map (fun i =>
    let xs := l.map (fun e => e.getD i 0)
    let vs := xs.map (decodeVal t)
    if vs.any Val.isNan then 2 ^ 128
    else if op = 0 then ofInt ((vs.map (fun v => (collEnter (sgn g.t 8) v).1)).foldl (· + ·) 0) 128
    else match xs with
      | [] => 0
      | x :: r => r.foldl (fun a b =>
          if ltVal (decodeVal t a) (decodeVal t b) = (op == 1) then (if eqVal (decodeVal t a) (decodeVal t b) then a else b)
          else a) x)

/-- Partials of several modules combined. -/
def collJoin (g : Coll) (op : Nat) (l : List (List Nat)) : List Nat :=
  let t := shapeType (BitVec.ofNat 18 g.shape)
  let n := shapeCount (BitVec.ofNat 18 g.shape)
  (List.range n).map (fun i =>
    let xs := l.map (fun e => e.getD i 0)
    if xs.any (fun x => decide (2 ^ 128 ≤ x)) then 2 ^ 128
    else if op = 0 then ofInt ((xs.map (fun x => sgn x 128)).foldl (· + ·) 0) 128
    else match xs with
      | [] => 0
      | x :: r => r.foldl (fun a b =>
          if ltVal (decodeVal t a) (decodeVal t b) = (op == 1) then (if eqVal (decodeVal t a) (decodeVal t b) then a else b)
          else a) x)

/-- The result of a round in RFMT, rounded once, by RNE, and the flags of that rounding (R86, R375). A maximum or minimum of integer
elements in an integer RFMT saturates and raises nothing (R63). An overflow of E5M2 or D8 gives infinity, since no FCTL is named (log
entry 93). -/
def collResult (g : Coll) (op : Nat) (l : List Nat) : List Nat × Nat :=
  let t := shapeType (BitVec.ofNat 18 g.shape)
  let out := l.map (fun x =>
    if 2 ^ 128 ≤ x then toType g.rfmt 0 true (.nan false)
    else if op = 0 then toType g.rfmt 0 true ((intVal (sgn x 128)).scale (sgn g.t 8 - 96))
    else if isInt t && isInt g.rfmt then (narrowInt g.rfmt (decodeVal t x), 0)
    else toType g.rfmt 0 true (decodeVal t x))
  let n := bytesFor g.rfmt l.length
  (toBytes (pack (typeBits g.rfmt) (out.map (·.1))) n, orFlags out)

/-- Rbytes of R375. -/
def Coll.rbytes (g : Coll) : Nat := bytesFor g.rfmt (shapeCount (BitVec.ofNat 18 g.shape))
/-- B of a group's round. -/
def Coll.b (g : Coll) : Nat := shapeBytes (BitVec.ofNat 18 g.shape)

/-- The status of a round: 1 shape mismatch, 3 op mismatch. -/
def collStatus (g : Coll) (l : List Cmd) : Nat :=
  if l.any (fun c => c.shape != g.shape) then 1
  else if l.any (fun c => c.collOp != (l.map Cmd.collOp).headD 0) then 3 else 0

/-- The completion of the open round goes on the agenda once it is full (R376). -/
def State.closeRound (s : State) (n : Nat) : State :=
  let g := s.coll n
  if g.ncont = 0 ∨ g.open_.length < g.ncont then s
  else
    let a := (g.open_.map (·.2)).foldl max 0
    s.push { cyc := max s.now (a + 8 + cdiv g.b 256), cls := 4, key := n, ins := .collRoundComplete, arg := .id n }

/-- The result is on its way to a contributor: result and status block at A + 22 + ⌈Rbytes ÷ 2048⌉. -/
def State.collTo (s : State) (c : Cmd) (bytes : List Nat) (round status flags : Nat) : State :=
  let k := s.now + 22 + cdiv bytes.length 2048
  (s.push { cyc := k, cls := 4, key := engineKey c.sid c.issue, ins := .collResultWrite,
            arg := .collResult c bytes round status flags }).doneAt k c.sid c.id .collResultWrite

/-- What a round records for a contributor whose task is still there. -/
def State.collFlags (s : State) (c : Cmd) (l : List Land) : State :=
  if (s.seq c.sid).task.launch = c.launch then s.record c.sid l else s

/-- COLL_ARRIVAL (R375, R376): a contribution joins the open round, the next, or waits at the ingress. One that the group does
not admit completes alone with status 2 (log entry 40). A saturation sets WRN.SATD of the contributor (R86), a class G code its
WRN.UNKFMT (R58). -/
def execCollArrival (s : State) : Host.Outcome State Fault Refusal :=
  match s.arg with
  | .coll n c =>
    let g := s.coll n
    if s.stale c then .next s
    else if !g.v || g.owner != c.part then
      .next (s.push { cyc := s.now + 8 + cdiv c.bytes 256, cls := 4, key := n, ins := .collRoundComplete, arg := .coll n c })
    else
      let t := shapeType (BitVec.ofNat 18 c.shape)
      let sat := c.collOp == 0 && c.elems.any (fun x => (collEnter (sgn g.t 8) (decodeVal t x)).2)
      let unk := t == 6 && c.elems.any classG
      let w := (if sat then 0x10 else 0) + (if unk then 4 else 0)
      let s := if w = 0 then s else s.collFlags c [.wrn (BitVec.ofNat 8 w)]
      if g.open_.length < g.ncont then
        .next ((s.updColl n (fun g => { g with open_ := g.open_ ++ [(c, s.now)] })).closeRound n)
      else if g.next.length < g.ncont then .next (s.updColl n (fun g => { g with next := g.next ++ [(c, s.now)] }))
      else .next (s.updColl n (fun g => { g with held := g.held ++ [(c, s.now)] }))
  | _ => .next s

/-- The next round opens; held arrivals enter in the completion cycle. -/
def State.openNext (s : State) (n : Nat) : State :=
  let s := s.updColl n (fun g =>
    let all := g.next ++ g.held.map (fun e => (e.1, s.now))
    { g with round := (g.round + 1) % 2 ^ 32, open_ := all.take g.ncont, next := (all.drop g.ncont).take g.ncont,
             held := (all.drop g.ncont).drop g.ncont })
  s.closeRound n

/-- The result of a round, its flags and its status; zeros where the status is not 0. -/
def Coll.outcome (g : Coll) (op st : Nat) (part : List Nat) : List Nat × Nat :=
  if st = 0 then collResult g op part else (List.replicate g.rbytes 0, 0)

/-- The contributors of round `r` of a SYS group receive its result. -/
def State.collReturn (s : State) (n r st : Nat) (out : List Nat × Nat) : State :=
  let l := (s.coll n).waiting.filter (fun e => e.1 == r)
  let s := s.updColl n (fun g => { g with waiting := g.waiting.filter (fun e => e.1 != r) })
  l.foldl (fun s e => s.collTo e.2 out.1 r st out.2) s

/-- A packet of a SYS round goes out in the first slot, of any lane of the link, that its partition holds (R375). -/
def State.emitOwn (s : State) (part : Nat) (p : Packet) : State :=
  let dep := (s.linkTo p.dst).bind (fun n =>
    ((List.range 33).map (fun i =>
      if i = 0 then s.now else (s.now + Fm.get 0 s.beacon 8) / 32 * 32 + 32 * i - Fm.get 0 s.beacon 8)).find? (fun c =>
        (s.part part).cal.any (fun g => (List.range 16).any (g.lane (s.wayOf n)) && (!g.sb || s.standsIn (s.wayOf n)) && s.inSlot g c)))
  { s with outbox := s.outbox ++ [{ p with part := part, gen := s.gen part, dep := dep }] }

/-- Round `r` of a SYS group at the root: when every module of MODS has sent its partial, the result goes to each (R375). A
mismatch of shape comes before one of the op, and ops that differ between modules are one. -/
def State.collRoot (s : State) (n r : Nat) : State :=
  let g := s.coll n
  let mods := onesOf g.mods 16
  let of (m : Nat) := g.partials.find? (fun p => p.1 == r && p.2.1 == m)
  if !mods.all (fun m => (of m).isSome) then s
  else
    let mine := mods.filterMap of
    let op := (mine.map (fun p => p.2.2.1 / 4)).headD 0
    let st := if mine.any (fun p => p.2.2.1 % 4 == 1) then 1
      else if mine.any (fun p => p.2.2.1 % 4 != 0 || p.2.2.1 / 4 != op) then 3 else 0
    let out := g.outcome op st (collJoin g op (mine.map (·.2.2.2)))
    let s := s.updColl n (fun g => { g with partials := g.partials.filter (fun p => p.1 != r) })
    mods.foldl (fun (s : State) m =>
      if m = s.hub.modn then s.collReturn n r st out
      else s.emitOwn g.owner { op := 11, src := s.hub.modn, dst := m, count := 1, id := n, pseq := r, len := st, ops := out.1,
                               data := out.2 }) s

/-- COLL_ROUND_COMPLETE (R86, R375, R376): the open round of a group; a contribution that was not admitted; a partial or a
result from another module. -/
def execCollRoundComplete (s : State) : Host.Outcome State Fault Refusal :=
  match s.arg with
  | .id n =>
    let g := s.coll n
    let l := g.open_.map (·.1)
    if g.ncont = 0 ∨ l.length < g.ncont then .next s
    else
      let st := collStatus g l
      let op := (l.map Cmd.collOp).headD 0
      let part := collPartial g op (l.map Cmd.elems)
      let r := (g.round + 1) % 2 ^ 32
      let s := s.openNext n
      if !g.sys then
        let out := g.outcome op st part
        .next (l.foldl (fun s c => s.collTo c out.1 r st out.2) s)
      else
        let s := s.updColl n (fun g => { g with waiting := g.waiting ++ l.map (fun c => (r, c)) })
        if g.root = s.hub.modn then
          .next ((s.updColl n (fun g => { g with partials := g.partials ++ [(r, s.hub.modn, st + 4 * op, part)] })).collRoot n r)
        else .next (s.emitOwn g.owner { op := 11, src := s.hub.modn, dst := g.root, id := n, pseq := r, len := st + 4 * op,
                                        ops := part })
  | .coll n c =>
    if s.stale c then .next s else .next (s.collTo c (List.replicate (s.coll n).rbytes 0) 0 2 0)
  | .packet p =>
    let n := p.id % 4096
    if p.count = 1 then .next (s.collReturn n p.pseq p.len (p.ops, p.data))
    else .next ((s.updColl n (fun g => { g with partials := g.partials ++ [(p.pseq, p.src, p.len, p.ops)] })).collRoot n p.pseq)
  | _ => .next s

/-- COLL_RESULT_WRITE (R375, R376): the result and the status block of 64 bytes after it; the flags of the final rounding go to
FSTAT of the contributor (R86, log entry 93). -/
def execCollResultWrite (s : State) : Host.Outcome State Fault Refusal :=
  match s.arg with
  | .collResult c bytes round status flags =>
    if s.stale c then .next s
    else
      let s := if flags = 0 then s else s.collFlags c [.fstat (BitVec.ofNat 5 flags)]
      .next (s.spadWriteRow (spadOf c.sid) (c.gs.getD 1 0) (bytes ++ toBytes round 8 ++ [status] ++ List.replicate 55 0))
  | .cmd sid id => .next (s.entryDone sid id)
  | _ => .next s

/-! ## Tier sequencers (R240, R241, R290 to R293, R377) -/

/-- TIER (R240): PERM write. -/
def execTier (q h : BitVec 4) (g : BitVec 6) (s : State) : Host.Outcome State Fault Refusal :=
  s.asyWord [q.toNat] (fun room s =>
    if !groupOk g.toNat 2 then s.illegal
    else if !s.handleOk (s.me.hr h.toNat) permWrite then s.handleFault
    else s.enqueue [s.entry (.tier q h g) q.toNat (s.gGroup g 2) [s.me.hr h.toNat] true] room)

/-- PFS (R241): a valid handle, and a range within its page. -/
def execPfs (q h : BitVec 4) (g : BitVec 6) (s : State) : Host.Outcome State Fault Refusal :=
  s.asyWord [q.toNat] (fun room s =>
    let x := s.me.hr h.toNat
    let gs := s.gGroup g 4
    if !groupOk g.toNat 4 then s.illegal
    else if !s.valid s.myPart x then s.handleFault
    else if !boundsOk x (gs.getD 0 0) (gs.getD 1 0) 1 then s.boundsFault
    else s.enqueue [s.entry (.pfs q h g) q.toNat gs [x] true] room)

/-- The die whose tier sequencer serves a page: its home die; a page behind the hub is served by the issuer's die (log
entry 41). -/
def serveDie (h : Handle) (sid : Nat) : Nat := if h.home < 8 then h.home else dieOf sid % 8

/-- Tasks of a partition that are running now. -/
def State.runningOf (s : State) (part : Nat) : List Nat :=
  (s.seqs.filter (fun e => (e.2.run == .run || e.2.run == .halted) && !isMgmt e.1 && e.2.task.part == part)).map (·.1)
/-- Ymax of R293. -/
def State.yMax (s : State) (part : Nat) : Nat := (s.runningOf part).foldl (fun m sid => max m (s.seq sid).ybound) 0

/-- C of R291. -/
def State.moveCycles (s : State) (die part size rate : Nat) : Nat :=
  let n := popcount ((s.part part).get (0x150 + 8 * die) 8) 64
  if n = 64 ∨ part = 63 then 512 + size / rate else 1024 * cdiv (512 + size / rate) (16 * max 1 n)

/-- Bytes per cycle of a move from one tier to another. -/
def moveRate (a b : Nat) : Nat := if a = 2 ∨ b = 2 then 256 else if a = 3 ∨ b = 3 then 512 else 1024

/-- The tier sequencer looks for moves to start. -/
def State.tierWake (s : State) (die : Nat) : State :=
  s.push { cyc := s.now, cls := 8, key := die, ins := .tierMoveStart, arg := .die die }

/-- An entry is accepted by its tier sequencer; `ord` is its place in the order of acceptance. -/
def State.tierAccept (s : State) (die : Nat) (m : Move) : State :=
  let (k, s) := s.fresh
  (s.updTier die (fun t => { t with pend := t.pend ++ [{ m with ord := k }] })).tierWake die

/-- A TIER entry starts: status 0 at acceptance (R377). -/
def State.startTier (s : State) (c : Cmd) : State :=
  let h := s.nowAt c.part (c.hs.getD 0 {})
  let x := c.gs.getD 0 0
  let tier := bits x 0 2
  let s := s.updCmd c.sid c.id (fun y => { y with start := some s.now })
  (s.vpoke c.part (c.gs.getD 1 0) 8 0).tierAccept (serveDie h c.sid)
    { cmd := c, part := c.part, gen := c.gen, va := h.vbase, size := pageSize h.sz, tier := tier,
      home := if tier = 3 then bits x 8 4 else bits x 4 4, deadline := s.ptime c.part }

/-- A PFS entry starts. -/
def State.startPfs (s : State) (c : Cmd) : State :=
  (s.updCmd c.sid c.id (fun y => { y with start := some s.now })).push
    { cyc := s.now, cls := 8, key := c.sid, ins := .pfsAccept, arg := .cmd c.sid c.id }

/-- The pages of a partition that `n` bytes from `va` touch, as they are mapped now: base and size. -/
def State.pagesIn (s : State) (part va n : Nat) : Nat → List (Nat × Nat)
  | 0 => []
  | k + 1 =>
    if n = 0 then []
    else match s.walk part va with
      | none => let d := 65536 - va % 65536; s.pagesIn part (va + d) (n - d) k
      | some (_, sz, _) =>
        let b := va / pageSize sz * pageSize sz
        let d := b + pageSize sz - va
        (b, pageSize sz) :: s.pagesIn part (va + d) (n - d) k

/-- PFS_ACCEPT (R241, R292): dropped and counted where the deadline lies before issue + YBOUND.CYC of the issuing task; else one
move for every page that the range touches. The entry is done either way. The home die of the destination is a free value where
the tier has several. -/
def execPfsAccept (s : State) : Host.Outcome State Fault Refusal :=
  match s.arg with
  | .cmd sid id =>
    match s.cmd sid id with
    | none => .next s
    | some c =>
      let h := s.nowAt c.part (c.hs.getD 0 {})
      let die := serveDie h sid
      let tier := bits (c.gs.getD 2 0) 16 2
      let dl := c.gs.getD 3 0
      let s := if dl < c.pt + c.yb then s.updTier die (fun t => { t with drop := t.drop + 1 })
        else (s.pagesIn c.part (h.vbase + c.gs.getD 0 0) (c.gs.getD 1 0) 8192).foldl (fun s p =>
          let lead := s.yMax c.part + 64 + s.moveCycles die c.part p.2 (moveRate h.tier tier)
          s.drew.tierAccept die
            { cmd := c, part := c.part, gen := c.gen, va := p.1, size := p.2, tier := tier,
              home := if tier = 1 then 4 + s.drawVal % 4 else if tier = 0 then s.drawVal % 8 else s.drawVal % 16,
              deadline := dl - lead, pfs := true }) s
      .next (s.entryDone sid id)
  | _ => .next s

/-- Whether a target exists: the tier, the die or the module (R289). -/
def State.targetOk (s : State) (tier home : Nat) : Bool :=
  match tier with
  | 0 => decide (home < 8)
  | 1 => decide (4 ≤ home ∧ home < 8)
  | 2 => true
  | _ => s.linked home

/-- The first byte of a target's region. -/
def targetBase (tier home : Nat) : Nat :=
  match tier with
  | 0 => dieBase home
  | 1 => dieBase home + 2 ^ 38
  | 2 => 2 ^ 48
  | _ => 2 ^ 51 + home * 2 ^ 47

/-- Whether a page is bound to a sync object or lies in a gate region (R291). -/
def State.pageBound (s : State) (base size : Nat) : Bool :=
  s.syncs.any (fun e => e.2.pages.contains (base, size)) ||
  s.gates.any (fun e => e.2.st != 0 && decide (base < e.2.base + 65536 * e.2.size) && decide (e.2.base < base + size))

/-- The pages that the shadow tables of a partition map, from a table on: physical base and size. -/
def State.leavesIn (s : State) (part : Nat) : List (Nat × Nat × Nat) → Nat → List (Nat × Nat)
  | [], _ => []
  | l :: r, table => (List.range (2 ^ l.2.1)).flatMap (fun i =>
      match s.entryAt (table + 8 * i) with
      | none => []
      | some e =>
        if bit e 1 then (if l.2.2 = 3 then [] else [((s.handleOf part 0 e l.2.2).base, pageSize l.2.2)])
        else s.leavesIn part r (leafBase e))

def overlaps (a n b m : Nat) : Bool := decide (a < b + m) && decide (b < a + n)

/-- Whether a partition holds a domain: its PART is the partition's, and so are all its slices (R270, R336, R337). -/
def State.holdsDomain (s : State) (part die k : Nat) : Bool :=
  let d := s.dom die k
  part == 63 || (d.part == part &&
    (span d.first (2 ^ d.l2c)).all (fun i => bit ((s.part part).get (0x110 + 4 * die) 4) i))

/-- Whether a destination can be reserved for a page: it lies in the target's region and in one domain range (R267), that of a
domain that the partition holds (R336), and no page of a partition, no destination of another move and no gate region overlaps it
(R290, log entry 42). -/
def State.freePlace (s : State) (part tier home dst size : Nat) : Bool :=
  let last := dst + size - 1
  regionOf dst == regionOf last && (regionOf dst).tier == tier && (match regionOf dst with
    | .hbm d => d == home && decide (s.blockOf d dst = s.blockOf d last) && (match s.blockOf d dst with
      | some k => s.holdsDomain part d k
      | none => false)
    | .lpddr d => d == home
    | .cxl => true
    | .peer m => m == home
    | .nothing => false) &&
  !s.parts.any (fun e => (s.leavesIn e.1 walkLevels (e.2.get 8 8)).any (fun p => overlaps dst size p.1 p.2)) &&
  !s.tiers.any (fun e => e.2.act.any (fun m => overlaps dst size m.dst m.size)) &&
  !s.gates.any (fun e => e.2.st != 0 && overlaps dst size e.2.base (65536 * e.2.size))

/-- A move ends: status 1 or 2; a PFS counts a failed page as dropped. -/
def State.moveEnds (s : State) (die : Nat) (m : Move) (ok : Bool) : State :=
  let s : State := { s with revokes := s.revokes.filter (fun r => !(r.die == die && r.move == some m.ord)) }
  let s := s.updTier die (fun t => { t with
    act := t.act.filter (fun x => x.ord != m.ord), drop := if m.pfs && !ok then t.drop + 1 else t.drop })
  let s := if m.pfs then s
    else (s.vpoke m.part (m.cmd.gs.getD 1 0) 8 (if ok then 1 else 2)).entryDone m.cmd.sid m.cmd.id
  s.tierWake die

/-- A revocation of a page begins at cycle r: its effects are there by r + 64 (R293). -/
def State.revoke (s : State) (part va size die : Nat) (move : Option Nat) : State :=
  let r : Revoke := { part := part, vbase := va, size := size, at_ := s.now, waiting := s.runningOf part, pending := true,
                      move := move, die := die, leaf := ((s.walk part va).map (·.1)).getD 0 }
  let s : State := { s with revokes := s.revokes ++ [r] }
  (s.drew.push { cyc := s.now + s.drawVal % 65, cls := 1, key := 1, ins := .pageRevoke, arg := .page part va size }).push
    { cyc := s.now + 65, cls := 8, key := die, ins := .revocationComplete, arg := .page part va size }

/-- Whether a move starts before another of its partition: the earlier deadline, then the order of acceptance. -/
def Move.before (x m : Move) : Bool :=
  x.part == m.part && (decide (x.deadline < m.deadline) || (decide (x.deadline = m.deadline) && decide (x.ord < m.ord)))
/-- The next move to start: the first of its partition, which runs at most two at a time; one whose page is moving waits, and those
behind it with it. -/
def TierSeq.pick (t : TierSeq) : Option Move :=
  t.pend.find? (fun m => !t.pend.any (·.before m) && decide (t.act.countP (·.part == m.part) < 2) &&
    !t.act.any (fun x => x.part == m.part && x.va == m.va))

/-- TIER_MOVE_START (R291, R377). The partition's space at the destination, and its address there, are free values (log
entry 42). -/
def execTierMoveStart (s : State) : Host.Outcome State Fault Refusal :=
  match s.arg with
  | .die die =>
    match (s.tier die).pick with
    | none => .next s
    | some m =>
      let s := s.updTier die (fun t => { t with pend := t.pend.erase m })
      if m.part ≠ 63 ∧ m.gen ≠ s.gen m.part then .next (s.tierWake die)
      else match s.walk m.part m.va with
        | none => .next ((s.updTier die (fun t => { t with act := t.act ++ [m] })).moveEnds die m false)
        | some (e, sz, leaf) =>
          let h := s.handleOf m.part m.va e sz
          let size := pageSize sz
          if serveDie h m.cmd.sid ≠ die then .next ((s.tierAccept (serveDie h m.cmd.sid) m).tierWake die)
          else
          let v := s.drawVal
          let m := { m with va := h.vbase, size := size, src := leaf, dst := targetBase m.tier m.home + v / 2 * size }
          let free := s.freePlace m.part m.tier m.home m.dst size
          let s := s.drew.updTier die (fun t => { t with act := t.act ++ [m] })
          if m.pfs && h.tier == m.tier then
            -- a page that is there already is left in place (R292)
            .next ((s.updTier die (fun t => { t with act := t.act.filter (fun x => x.ord != m.ord) })).tierWake die)
          else if !s.targetOk m.tier m.home || v % 2 == 0 || !free || s.pageBound h.base size then
            .next (s.moveEnds die m false)
          else .next ((s.revoke m.part h.vbase size die (some m.ord)).tierWake die)
  | _ => .next s

/-- The TLB entries of a page are dropped on every die (R293). -/
def State.dropTlb (s : State) (part va size : Nat) : State :=
  { s with tlb := s.tlb.map (fun e => (e.1, e.2.filter (fun t =>
      !(t.part == part && decide (t.h.vbase < va + size) && decide (va < t.h.vbase + pageSize t.h.sz))))) }

/-- A page was moved, or its shadow entry changed: handles to it in the frames of saved tasks come back with V = 0 (R298). -/
def State.pageGone (s : State) (part va size : Nat) : State :=
  { s with saved := s.saved.map (fun x => if x.task.part = part then { x with gone := x.gone ++ [(va, size)] } else x) }

/-- The revocation of a page on every die: RP in every handle of the partition that names it; TLB entries and RDC copies are
dropped. -/
def State.markRevoked (s : State) (part va size : Nat) : State :=
  let base := (s.translate part va).map (·.1)
  let s : State := { s with
    seqs := s.seqs.map (fun e =>
      if e.2.task.part = part then
        (e.1, { e.2 with h := e.2.h.map (fun x =>
          if x.2.v ∧ va ≤ x.2.vbase ∧ x.2.vbase < va + size then (x.1, { x.2 with rp := true }) else x) })
      else e) }
  let s := s.dropTlb part va size
  match base with
  | some b => s.dropRdcRange (fun _ => true) b size
  | none => s

/-- PAGE_REVOKE (R293): the effects of a revocation under way; otherwise the hypervisor's own revocation of a page begins here,
and its effects are there at once. -/
def execPageRevoke (s : State) : Host.Outcome State Fault Refusal :=
  match s.arg with
  | .page part va size =>
    if s.revokes.any (fun r => r.part == part && r.vbase == va && r.size == size) then .next (s.markRevoked part va size)
    else .next ((s.revoke part va size 8 none).markRevoked part va size)
  | _ => .next s

/-- A task has issued a YIELD or END, or was descheduled: revocations older than 64 cycles wait for it no more (R293). -/
def State.passedYield (s : State) (sid : Nat) (off : Bool) : State :=
  { s with revokes := s.revokes.map (fun r =>
      if off ∨ r.at_ + 64 < s.now then { r with waiting := r.waiting.filter (· != sid) } else r) }

/-- Whether an access or an engine chunk on a page of a partition is on its way, held (R276) or at another module: its base is `base` and lies at
`va`. -/
def State.pageInUse (s : State) (part va base size : Nat) : Bool :=
  s.replays.any (fun h => decide (base ≤ h.addr) && decide (h.addr < base + size)) ||
  s.awaiting.any (fun w => decide (w.acc.space = .phys) && decide (base ≤ w.acc.addr) && decide (w.acc.addr < base + size)) ||
  s.agenda.any (fun e => match e.arg with
    | .access a => decide (e.ins = .accessHomeCycle) && decide (a.space = .phys) && decide (base ≤ a.addr) && decide (a.addr < base + size)
    | .chunkData c _ _ _ _ _ => !c.ops.sd && c.part == part && decide (va ≤ c.ops.hd.vbase) && decide (c.ops.hd.vbase < va + size)
    | _ => false)

/-- REVOCATION_COMPLETE (R291, R293): every task that ran at r has yielded, ended or been descheduled. New chunks on the page are
held, what is on its way to it is waited for, and the copy runs in the slots of the partition. A revocation by the hypervisor
lasts until its new shadow entry is there. -/
def execRevocationComplete (s : State) : Host.Outcome State Fault Refusal :=
  match s.arg with
  | .page part va size =>
    match s.revokes.find? (fun r => r.part == part && r.vbase == va && r.size == size) with
    | none => .next s
    | some r =>
      let again (s : State) : State :=
        s.push { cyc := s.now + 1, cls := 8, key := r.die, ins := .revocationComplete, arg := .page part va size }
      if !r.waiting.isEmpty then .next (again s)
      else match r.move with
        | none =>
          if (s.walk part va).map (·.1) = some r.leaf then .next (again s)
          else .next (({ s with revokes := s.revokes.erase r }.dropTlb part va size).pageGone part va size)
        | some ord =>
          match (s.tier r.die).act.find? (fun m => m.ord == ord) with
          | none => .next { s with revokes := s.revokes.erase r }
          | some m =>
            let s : State := { s with revokes := s.revokes.map (fun x => if x = r then { r with copying := true } else x) }
            let base := ((s.translate part va).map (·.1)).getD 0
            if s.pageInUse part va base size then .next (again s)
            else
              let from_ := (s.walk part va).map (fun w => bits w.1 6 2)
              match s.slotsEnd r.die part s.now (512 + size / moveRate (from_.getD 0) m.tier) with
              | none => .next (again s)
              | some k =>
                let s := s.updTier r.die (fun t => { t with act := t.act.map (fun x => if x.ord = ord then { x with until_ := k } else x) })
                .next (s.push { cyc := k, cls := 8, key := r.die, ins := .tierMoveDone, arg := .move r.die ord })
  | _ => .next s

/-- A page as it is moved: its bytes, the tags of its blocks, the tags of its granules. -/
structure PageData where
  data : Nat
  tags : List Nat
  ctags : Nat
  deriving DecidableEq, Repr

/-- A page of this module as it is read for a move; none where a block is uncorrectable. -/
def State.readPage (s : State) (src size key : Nat) : Option PageData :=
  let blocks := (List.range (size / 64)).map (fun i => s.peekBlock (src + 64 * i) key)
  if blocks.any (·.bad) then none
  else some { data := pack 512 (blocks.map (·.data.toNat)), tags := blocks.map (·.tag), ctags := pack 4 (blocks.map (·.ctag.toNat)) }

/-- A page's bytes and tags at a place of this module; a domain that is out of service holds them (R276). -/
def State.writePage (s : State) (dst size key : Nat) (x : PageData) : State :=
  s.hwStore { op := .write, addr := dst, len := size, data := x.data, tags := some x.tags, ctags := x.ctags, key := key,
                  alloc := .engine }

/-- A shadow entry with a new tier, home and base (R294). -/
def movedEntry (e tier home dst : Nat) : Nat :=
  let base := if tier = 3 then dst % 2 ^ 42 else dst
  setBits (setBits (setBits e 6 2 tier) 8 4 (if tier = 2 then 0 else home)) 24 40 (base / 2 ^ 12)

/-- The access of a page move to another module. -/
def Move.remote (m : Move) (die id addr key : Nat) : Access :=
  { id := id, sid := m.cmd.sid, addr := addr, len := m.size, part := m.part, gen := m.gen, key := key, cls := 3, tier := 3,
    issue := m.cmd.issue, col := 7, dest := .move die m.ord, alloc := .engine }

/-- The end of a move whose copy is complete (R290): lines, RDC copies and TLB entries of the page are dropped, the shadow entry is
switched, sync objects in the page answer at their new place, the old location is zeroed. -/
def State.switchPage (s : State) (die : Nat) (m : Move) (e leaf : Nat) (h : Handle) : State :=
  let s := ((s.dropRdcRange (fun _ => true) h.base m.size).dropTlb m.part h.vbase m.size).pageGone m.part h.vbase m.size
  let s : State := { s with
    l2 := s.l2.map (fun x => (x.1, x.2.filter (fun l => !(decide (h.base ≤ l.pa * 64) && decide (l.pa * 64 < h.base + m.size)))))
    syncs := s.syncs.map (fun x =>
      if h.base / 16 ≤ x.1 ∧ x.1 < (h.base + m.size) / 16 then (m.dst / 16 + (x.1 - h.base / 16), x.2) else x) }
  let s := s.poke leaf 8 (movedEntry e m.tier m.home m.dst) 0
  let zeros : PageData := { data := 0, tags := List.replicate (m.size / 64) 0x7F00, ctags := 0 }
  let s := match regionOf h.base with
    | .peer k =>
      let (id, s) := s.fresh
      s.toPeer { m.remote die id h.base h.key with op := .write, tags := some zeros.tags, dest := .none } k 13
    | _ => s.writePage h.base m.size h.key zeros
  s.moveEnds die m true

/-- A page's contents go to the new home. -/
def State.placePage (s : State) (die : Nat) (m : Move) (e leaf : Nat) (h : Handle) (x : PageData) : State :=
  match regionOf m.dst with
  | .peer k =>
    let (id, s) := s.fresh
    s.toPeer { m.remote die id m.dst h.key with op := .write, data := x.data, tags := some x.tags, ctags := x.ctags } k 13
  | _ => (s.writePage m.dst m.size h.key x).switchPage die m e leaf h

/-- TIER_MOVE_DONE (R290, R291): the slots of the copy are over: the page is read and written at its new home. A home on another
module is read and written through the hub, and its answers come back here. -/
def execTierMoveDone (s : State) : Host.Outcome State Fault Refusal :=
  let on (die ord : Nat) (k : Move → Nat → Nat → Handle → State) : State :=
    match (s.tier die).act.find? (fun m => m.ord == ord) with
    | none => s
    | some m =>
      if m.part ≠ 63 ∧ m.gen ≠ s.gen m.part then s
      else match s.walk m.part m.va with
        | none => s.moveEnds die m false
        | some (e, sz, leaf) => k m e leaf (s.handleOf m.part m.va e sz)
  match s.arg with
  | .move die ord =>
    .next (on die ord (fun m e leaf h =>
      match s.heldAt h.base with
      -- a domain that is out of service takes no new request (R276)
      | some d => s.withhold d h.base 8 .tierMoveDone (.move die ord)
      | none =>
      match regionOf h.base with
      | .peer k =>
        let (id, t) := s.fresh
        t.toPeer (m.remote die id h.base h.key) k 12
      | _ =>
        match s.readPage h.base m.size h.key with
        | none => s.moveEnds die m false
        | some x => (s.lookups h.base m.size false).placePage die m e leaf h x))
  | .moveReply die ord data tags ctags bad write =>
    .next (on die ord (fun m e leaf h =>
      if bad then s.moveEnds die m false
      else if write then s.switchPage die m e leaf h
      else s.placePage die m e leaf h { data := data, tags := tags, ctags := ctags }))
  | _ => .next s

/-! ## The start of an entry -/

/-- ASY_ENTRY_START (R232): in its cycle S an entry begins, unless its task or partition has been stopped before. -/
def execAsyEntryStart (s : State) : Host.Outcome State Fault Refusal :=
  match s.arg with
  | .cmd sid id =>
    match s.cmd sid id with
    | none => .next s
    | some c =>
      if c.start ≠ some s.now ∨ s.stale c then .next s
      else if s.entryHeld c then .next (s.updCmd sid id (fun c => { c with start := none }))
      else match c.ins with
        | .cpy _ _ _ _ => .next (s.startCopy c)
        | .cpyd _ _ _ _ =>
          if c.ops.len = 0 then
            .next ((s.releaseCopy c).doneAt s.now sid id .cpydDone)
          else .next (s.startDetached c)
        | .ratt _ _ _ | .kapp _ _ | .krel _ _ => .next (s.startAttention c)
        | .merge _ _ => .next (s.startMerge c)
        | .coll _ _ _ => .next (s.startColl c)
        | .tier _ _ _ => .next (s.startTier c)
        | .pfs _ _ _ => .next (s.startPfs c)
        | _ => .next s
  | _ => .next s

end Sys2Proof.Machine
end

