-- ==== Sys2Proof/Machine/Domain.lean ====
section
/-! DEFINITION. Configuration of the L2 domains (R270, R273 to R277, R282, R430, R431): writes of DCFG, the masks and the
retention registers, the counters, and the replay of held requests. -/

namespace Sys2Proof.Machine

open Sys2Proof

/-! ## Reading the registers of a block (R273) -/

/-- Whether a slice of the domain holds a dirty line (DRT, R274). -/
def State.domainDirty (s : State) (die k : Nat) : Bool :=
  let d := s.dom die k
  s.l2.any (fun e => e.1 / 8192 / 32 == die && decide (d.first ≤ e.1 / 8192 % 32) &&
    decide (e.1 / 8192 % 32 < d.first + 2 ^ d.l2c) && e.2.any (·.dirty))

/-- DCFG as it reads (R274). -/
def State.dcfg (s : State) (die k : Nat) : Nat :=
  let d := s.dom die k
  d.first % 32 + d.l2c % 8 * 32 + (if d.v then 256 else 0) + d.part % 64 * 512 + (if s.domainDirty die k then 2 ^ 15 else 0) +
    (if d.bsy then 2 ^ 16 else 0) + (if d.err then 2 ^ 17 else 0)

/-- RTNnB, RTNnL or RTNnW as it reads (R282). -/
def Rtn.reg (r : Rtn) (i : Nat) : Nat :=
  match i with
  | 0 => r.base
  | 1 => r.last
  | _ => r.ways + (if r.v then 2 ^ 16 else 0) + r.grant * 2 ^ 17 + (if r.gv then 2 ^ 23 else 0)

/-- Register `r` of a block (R273). -/
def State.blockReg (s : State) (die k r : Nat) : Nat :=
  let d := s.dom die k
  if r < 4 then d.hm.getD r 0
  else if r = 4 then s.dcfg die k
  else if r < 0x20 then (d.rtnAt ((r - 8) / 3)).reg ((r - 8) % 3)
  else (Fm.get 0 d.cnt (r - 0x20)).toNat

/-! ## Held requests (R276, R431) -/

/-- The held requests of a die whose addresses a block in service and not busy now covers, in arrival order. -/
def State.heldFor (s : State) (die : Nat) : List Held :=
  s.replays.filter (fun h => h.die == die && (s.heldAt h.addr).isNone)

/-- A held request as the event of its replay: ahead of the new requests of the cycle. -/
def Held.event (h : Held) (now : Nat) : Ev := { cyc := now, cls := max 4 h.cls, key := 0, ins := h.ins, arg := h.arg }

/-- Held requests are replayed in arrival order: this is their home cycle. A slice that has no room for all its lines takes the rest
in the cycles that follow, ahead of new requests still (R279). -/
def State.replayHeld (s : State) (die : Nat) : State :=
  let l := s.heldFor die
  let t : State := { s with replays := s.replays.filter (fun h => !l.contains h) }
  l.foldl (fun t h => t.push (h.event s.now)) t

/-! ## DCFG (R276) -/

/-- Whether V := 1 is refused. -/
def State.enableRefused (s : State) (die k : Nat) : Bool :=
  let d := s.dom die k
  let n := 2 ^ d.l2c
  let last := if die < 4 then 16 else 32
  let m (i : Nat) : Nat := d.hm.getD i 0
  d.first % n != 0 || decide (last < d.first + n) || (decide (d.first < 16) && decide (16 < d.first + n)) ||
  (List.range 16).any (fun j => let e := s.dom die j
    j != k && e.v && decide (e.first < d.first + n) && decide (d.first < e.first + 2 ^ e.l2c)) ||
  (List.range 4).any (fun i =>
    if i < d.l2c then !bit (m i) i || (List.range d.l2c).any (fun j => j != i && bit (m i) j)
    else m i != 0)

/-- Every line in the block's slices is dropped; RTN0 to RTN7 are cleared but for their grants (R276). -/
def State.dropDomain (s : State) (die k : Nat) : State :=
  let d := s.dom die k
  let s : State := { s with l2 := s.l2.filter (fun e =>
    !(e.1 / 8192 / 32 == die && decide (d.first ≤ e.1 / 8192 % 32) && decide (e.1 / 8192 % 32 < d.first + 2 ^ d.l2c))) }
  s.updDom die k (fun d => { d with rtn := d.rtn.map (fun e => (e.1, { grant := e.2.grant, gv := e.2.gv })) })

/-- V := 1: the domain comes into service, at once where nothing changed, else after 6,144 cycles of BSY. An invalidation that is
in progress goes on. -/
def State.enable (s : State) (die k : Nat) : State :=
  if s.enableRefused die k then s.updDom die k (fun d => { d with err := true })
  else
    let d := s.dom die k
    let same := d.force == some d.map
    let s := if same then s else s.dropDomain die k
    let s := s.updDom die k (fun d => { d with v := true, bsy := d.bsy || !same, force := some d.map })
    if same then s.replayHeld die
    else
      let t : State := { s with agenda := s.agenda.filter (fun e =>
        !(decide (e.ins = .domainBsyEnd) && decide (e.arg = Arg.dcfg die k 4 0))) }
      t.after 6144 4 0 .domainBsyEnd (.dcfg die k 4 0)

/-- DCFG_WRITE: a write of DCFG, field by field against V as it stood before. -/
def execDcfgWrite (s : State) : Host.Outcome State Fault Refusal :=
  match s.arg with
  | .dcfg die k _ v =>
    let v := v.toNat
    let d := s.dom die k
    let first := bits v 0 5
    let l2c := bits v 5 3
    let l2c' := if 4 < l2c then d.l2c else l2c
    let part := bits v 9 6
    let differs := first != d.first || l2c' != d.l2c || part != d.part
    let bad := decide (4 < l2c) || (differs && d.v)
    let s := s.updDom die k (fun d =>
      let d := if d.v then d else { d with first := first, l2c := l2c', part := part }
      { d with err := (d.err && !bit v 17) || bad })
    if bit v 8 = d.v then .next s
    else if d.v then .next (s.updDom die k (fun d => { d with v := false }))
    else .next (s.enable die k)
  | _ => .next s

/-- HMASK_WRITE: accepted only while V = 0. -/
def execHmaskWrite (s : State) : Host.Outcome State Fault Refusal :=
  match s.arg with
  | .dcfg die k i v =>
    .next (s.updDom die k (fun d => if d.v then { d with err := true } else { d with hm := d.hm.set i (v.toNat % 2 ^ 30) }))
  | _ => .next s

/-- RTN_WRITE: accepted only while the union of reserved ways stays within 12 (R282). -/
def execRtnWrite (s : State) : Host.Outcome State Fault Refusal :=
  match s.arg with
  | .dcfg die k r v =>
    let n := (r - 8) / 3
    let v := v.toNat
    let d := s.dom die k
    let old := d.rtnAt n
    let addr := bits v 6 46 * 64
    let new : Rtn := match (r - 8) % 3 with
      | 0 => { old with base := addr }
      | 1 => { old with last := addr }
      | _ => { ways := bits v 0 16, v := bit v 16, grant := bits v 17 6, gv := bit v 23, base := old.base, last := old.last }
    if 12 < popcount (d.unionWith n new) 16 then .next (s.updDom die k (fun d => { d with err := true }))
    else if { new with grant := old.grant, gv := old.gv } = old then
      .next (s.updDom die k (fun d => { d with rtn := Fm.set d.rtn n new }))
    else .next (s.setRtn die k n new)
  | _ => .next s

/-- DOMAIN_BSY_END (R276): BSY clears and held requests are replayed. -/
def execDomainBsyEnd (s : State) : Host.Outcome State Fault Refusal :=
  match s.arg with
  | .dcfg die k _ _ => .next ((s.updDom die k (fun d => { d with bsy := false })).replayHeld die)
  | _ => .next s

end Sys2Proof.Machine
end

