-- ==== Sys2Proof/Machine/SysReg.lean ====
section
/-! DEFINITION. System registers (R41 to R51, R133, R134), the configuration registers of the dies (R272, R273, R378) and the
registers of the hub (R339, R352, R374, R389, R397): what they read as, who may name them, what a write does. -/

namespace Sys2Proof.Machine

open Sys2Proof

/-! ## Names and privilege -/

/-- TSTAT.PL: a management sequencer runs at H (R36, R37). -/
def State.level (s : State) (sid : Nat) : Nat := if isMgmt sid then 2 else (s.seq sid).pl

/-- The least level that may read a register of the sequencer (R41); none where the number is unassigned. -/
def readLevel (n : Nat) : Option Nat :=
  if n ≤ 5 ∨ (0xC ≤ n ∧ n ≤ 0x10) then some 0
  else if (8 ≤ n ∧ n ≤ 0xB) ∨ (0x11 ≤ n ∧ n ≤ 0x14) then some 1
  else none

/-- The least level that may write it (R41); none where no level may. -/
def writeLevel (n : Nat) : Option Nat :=
  match n with
  | 1 | 2 | 3 | 5 => some 0
  | 4 | 8 | 0xA | 0xC | 0xF | 0x11 | 0x12 | 0x13 | 0x14 => some 1
  | _ => none

/-- Whether a number is a configuration register of a die (R272, R273, R378). -/
def isDieReg (n : Nat) : Bool :=
  (decide (0x200 ≤ n ∧ n ≤ 0x5FF) && (let r := (n - 0x200) % 0x40
    decide (r ≤ 4) || decide (8 ≤ r ∧ r ≤ 0x24))) || n == 0xA00 || n == 0xA01

/-- Whether a number is a register of the hub itself. -/
def isHubReg (n : Nat) : Bool :=
  n == 0x100 || decide (0x600 ≤ n ∧ n ≤ 0x60B) || decide (0x700 ≤ n ∧ n ≤ 0x702) || decide (0x800 ≤ n ∧ n ≤ 0x802) ||
  (decide (0x900 ≤ n ∧ n < 0x940) && n % 4 != 3) || n == 0x940 || n == 0x941 || decide (0xC00 ≤ n ∧ n < 0xC30)

/-- Whether the sequencer may read register `n` now (R42). -/
def State.mayRead (s : State) (sid n : Nat) : Bool :=
  if n < 0x100 then (match readLevel n with
    | some l => decide (l ≤ s.level sid)
    | none => false)
  else isMgmt sid && (isDieReg n || isHubReg n)

/-- Whether the sequencer may write register `n` now (R42). A hub or die register whose fields are all read-only ignores the
write (R8). -/
def State.mayWrite (s : State) (sid n : Nat) : Bool :=
  if n < 0x100 then (match writeLevel n with
    | some l => decide (l ≤ s.level sid)
    | none => false)
  else isMgmt sid && (isDieReg n || isHubReg n)

/-- A number with ones in bits [hi:lo]. -/
def ones (lo hi : Nat) : Nat := 2 ^ (hi + 1) - 2 ^ lo

/-- The bits of a register that its table gives a field; the others are reserved (R8, R94, R134). -/
def namedBits (n : Nat) : Nat :=
  let cfg := (n - 0x200) % 0x40
  match n with
  | 1 => 0xFF
  | 2 => 0x1F
  | 3 => 1
  | 4 => 1 + ones 32 63
  | 5 => 0x3F + ones 8 35
  | 8 => 0xFFFF
  | 0xA => 0x7FFFF
  | 0xC => ones 16 55
  | 0xF => ones 0 31
  | 0x100 => 0xF
  | 0x600 | 0x800 => 0xFFF
  | 0x601 => 0x3FFF + ones 16 63
  | 0x604 => ones 16 51
  | 0x605 => ones 0 23
  | 0x606 | 0x607 => 0x3FF * (1 + 2 ^ 16 + 2 ^ 32 + 2 ^ 48)
  | 0x608 => 0x3FFF
  | 0x609 => 7
  | 0x60A => 3
  | 0x60B => ones 6 51
  | 0x700 => 0x7FF
  | 0x701 => ones 10 51
  | 0x702 => 0x1FF + 0xF000
  | 0x801 => ones 0 57
  | 0x940 => ones 0 22
  | 0x941 => 0x7F
  | 0xA01 => ones 0 22
  | _ =>
    if 0x200 ≤ n ∧ n ≤ 0x5FF then
      (if cfg < 4 then ones 0 29
       else if cfg = 4 then ones 0 17
       else if cfg < 0x20 then (if (cfg - 8) % 3 < 2 then ones 6 51 else ones 0 23)
       else ones 0 63)
    else if 0x900 ≤ n ∧ n < 0x940 then (if n % 4 = 0 then ones 0 10 else if n % 4 = 1 then ones 0 18 else ones 0 63)
    else ones 0 63

/-! ## Reads -/

/-- SEQID (R51, R438). -/
def State.seqid (s : State) (sid : Nat) : Nat :=
  let p := (s.seq sid).task.part
  sid % 8192 + p % 64 * 2 ^ 13 + s.gen p % 256 * 2 ^ 19

/-- TSTAT (R43). -/
def State.tstat (s : State) (sid : Nat) : Nat :=
  let q := s.seq sid
  let b (x : Bool) (i : Nat) : Nat := if x then 2 ^ i else 0
  b q.ut 0 + s.level sid * 2 + b q.tact 3 + b q.desync 4 + b (s.split sid) 5 + sqOf sid * 64 + q.lstk.length % 8 * 128 +
    b q.slend 10 + b q.stopp 11

/-- DLINE.LEFT: what is left of the deadline, or YBOUND where none is armed (R51). -/
def State.dlineLeft (s : State) (sid : Nat) : Nat :=
  let q := s.seq sid
  match q.dline with
  | some t => t - s.ptime q.task.part
  | none => q.ybound

/-- SMODE (R48). -/
def Seq.smode (q : Seq) : Nat := (if q.trapMode then 1 else 0) + q.hcyc * 2 ^ 32

/-- A register of the sequencer (R41). -/
def State.ownReg (s : State) (sid n : Nat) : Nat :=
  let q := s.seq sid
  match n with
  | 0 => s.tstat sid
  | 1 => q.wrn.toNat
  | 2 => q.fstat.toNat
  | 3 => if q.fctl then 1 else 0
  | 4 => q.smode
  | 5 => q.errs.toNat
  | 8 => q.tvec.toNat
  | 9 => q.tcause.toNat
  | 0xA => q.tpos.toNat
  | 0xB => q.ttime.toNat
  | 0xC => q.frame.toNat
  | 0xD => q.ybound
  | 0xE => s.dlineLeft sid
  | 0xF => (s.part q.task.part).clamp.toNat
  | 0x10 => s.seqid sid
  | _ => (Fm.get 0 q.scr (n - 0x11)).toNat

/-- A configuration register of a die (R273, R378); a die number that names no such die reads 0 (R272). -/
def State.dieReg (s : State) (die n : Nat) : Nat :=
  if 8 ≤ die then 0
  else if n = 0xA00 then (s.tier die).drop.toNat
  else if n = 0xA01 then (s.tier die).act.length % 128 + ((s.tier die).pend.map (·.cmd.id)).eraseDups.length % 2 ^ 16 * 128
  else s.blockReg die ((n - 0x200) / 0x40) ((n - 0x200) % 0x40)

/-- CGW0 and CGW1 of a group (R374). -/
def Coll.word (g : Coll) (i : Nat) : Nat :=
  if i = 0 then
    g.owner + (if g.v then 64 else 0) + (if g.sys then 128 else 0) + g.ncont * 2 ^ 8 + g.shape * 2 ^ 24 + g.t * 2 ^ 42 +
      g.rfmt * 2 ^ 50 + g.root * 2 ^ 54
  else g.mods + g.round * 2 ^ 16 + g.open_.length % 2 ^ 16 * 2 ^ 48

/-- LCFGn, LSTn or LCNTn (R389). -/
def Link.word (l : Link) (i : Nat) : Nat :=
  let b (x : Bool) (k : Nat) : Nat := if x then 2 ^ k else 0
  match i with
  | 0 => l.peer + b l.en 4 + b l.xp 5 + l.via * 64 + b l.alten 10
  | 1 => b l.up 0 + b l.fail 1 + b l.alt 2 + l.lat % 256 * 8 + l.meas % 256 * 2 ^ 11
  | _ => l.drop.toNat + l.replay.toNat * 2 ^ 32

/-- A register of the hub (R339, R352, R374, R389, R397), as management sequencer `sid` reads it. -/
def State.hubReg (s : State) (sid n : Nat) : Nat :=
  let h := s.hub
  let b (x : Bool) (k : Nat) : Nat := if x then 2 ^ k else 0
  match n with
  | 0x100 => Fm.get 8 s.dsel sid
  | 0x600 => h.gsel
  | 0x60A => h.gst
  | 0x60B => h.gaddr
  | 0x701 => h.paddr
  | 0x702 => h.psRes + h.psPart * 4 + b h.psErr 8 + h.psReason * 2 ^ 12
  | 0x800 => h.csel
  | 0x801 => (s.coll h.csel).word 0
  | 0x802 => (s.coll h.csel).word 1
  | 0x940 => b h.alDone 0 + b h.alErr 1 + h.aligned.toNat * 4 + h.modn * 2 ^ 18 + b h.ref_ 22
  | 0x941 => b h.drstBusy 5 + b h.drstRef 6
  | _ =>
    if 0x601 ≤ n ∧ n ≤ 0x608 then (s.gate h.gsel).word (n - 0x601)
    else if 0x900 ≤ n ∧ n < 0x940 then (s.link ((n - 0x900) / 4)).word (n % 4)
    else if 0xC00 ≤ n ∧ n < 0xC30 then Fm.get 0 h.wtb (n - 0xC00)
    else 0

/-! ## RDSR and SMODE -/

/-- RDSR (R134): the value in the issue cycle, written at +2; a register of another die is sampled at +20 and written at +42
(R272). -/
def execRdsr (g : BitVec 6) (r : BitVec 14) (s : State) : Host.Outcome State Fault Refusal :=
  let n := r.toNat
  let sid := s.cur.sid
  s.issue 1 (fun s =>
    if !s.mayRead sid n then s.illegal
    else if n < 0x100 then s.land 2 [.g g.toNat (BitVec.ofNat 64 (s.ownReg sid n))]
    else if isDieReg n then
      let die := Fm.get 8 s.dsel sid
      if 8 ≤ die then s.land 2 [.g g.toNat 0] else s.land 20 [.sample n die g.toNat s.now]
    else s.land 2 [.g g.toNat (BitVec.ofNat 64 (s.hubReg sid n))])

/-- SMODE (R133): the new mode applies from the next cycle on. -/
def execSmode (t : BitVec 1) (s : State) : Host.Outcome State Fault Refusal :=
  s.issue 1 (fun s => s.land 1 [.smode (t.getLsbD 0)])

/-! ## WRSR -/

/-- What a WRSR puts in place in cycle +`k`, before all else of that cycle, so that what the hardware sets in it stays set
(R134). -/
def State.effect (s : State) (k : Nat) (i : Instr) (a : Arg) : State := s.after k 0 (landKey s.now s.cur.sid 0) i a

/-- WRSR (R134). CLAMPCNT of a management sequencer is that of partition 63 (R51, log entry 91). -/
def execWrsr (g : BitVec 6) (r : BitVec 14) (s : State) : Host.Outcome State Fault Refusal :=
  let n := r.toNat
  let sid := s.cur.sid
  s.issue 1 (fun s =>
    let v := s.g g
    if !s.mayWrite sid n then s.illegal
    else
      let s := s.reserved (v.toNat &&& (2 ^ 64 - 1 - namedBits n) != 0)
      let blk := (n - 0x200) / 0x40
      let reg := (n - 0x200) % 0x40
      if n = 0xF then
        s.effect 2 .clampcntWrite (.partN s.myPart (if s.level sid = 2 then v.toNat % 2 ^ 32 else 0))
      else if n < 0x100 then s.effect 2 .resultLanding (.land sid [.sysreg n v])
      else if isDieReg n then
        let die := Fm.get 8 s.dsel sid
        if 8 ≤ die then s
        else if 0xA00 ≤ n ∨ 0x20 ≤ reg then s.effect 22 .resultLanding (.land sid [.hub die n v])
        else s.effect 22 (if reg < 4 then .hmaskWrite else if reg = 4 then .dcfgWrite else .rtnWrite) (.dcfg die blk reg v)
      else if n = 0x801 ∨ n = 0x802 then s.effect 2 .collGroupWrite (.dcfg 8 s.hub.csel (n - 0x801) v)
      else s.effect 2 .resultLanding (.land sid [.hub 8 n v]))

/-- A write lands in a register of the sequencer under the access codes of its fields (R8, R41 to R51). -/
def Seq.writeReg (q : Seq) (n : Nat) (v : W64) : Seq :=
  match n with
  | 1 => { q with wrn := q.wrn &&& ~~~(v.truncate 8) }
  | 2 => { q with fstat := q.fstat &&& ~~~(v.truncate 5) }
  | 3 => { q with fctl := v.getLsbD 0 }
  | 4 => { q with trapMode := v.getLsbD 0 }
  | 5 =>
    let x := q.errs &&& ~~~(v &&& 3)
    { q with errs := if x.getLsbD 0 then x else x &&& 2 }
  | 8 => { q with tvec := v.truncate 16 }
  | 0xA => { q with tpos := (q.tpos &&& 0x70000) ||| (v.truncate 16).zeroExtend 19 }
  | 0xC => { q with frame := BitVec.ofNat 64 (bits v.toNat 16 40 * 2 ^ 16) }
  | _ => { q with scr := Fm.set q.scr (n - 0x11) v }

/-- CLAMPCNT_WRITE (R51): S stores 0, H the value; an increment of the same cycle comes after. -/
def execClampcntWrite (s : State) : Host.Outcome State Fault Refusal :=
  match s.arg with
  | .partN p v => .next (s.updPart p (fun x => { x with clamp := BitVec.ofNat 32 v }))
  | _ => .next s

/-- COLL_GROUP_WRITE (R374): a field other than V is written only while V = 0; V = 1 opens round 0 with no arrival. -/
def execCollGroupWrite (s : State) : Host.Outcome State Fault Refusal :=
  match s.arg with
  | .dcfg _ n i v =>
    let x := v.toNat
    .next (s.updColl n (fun g =>
      if i = 1 then (if g.v then g else { g with mods := bits x 0 16 })
      else
        let g := if g.v then g else
          { g with owner := bits x 0 6, sys := bit x 7, ncont := bits x 8 16, shape := bits x 24 18, t := bits x 42 8,
                   rfmt := bits x 50 4, root := bits x 54 4 }
        if bit x 6 then { g with v := true, round := 0, open_ := [], next := [], held := [] } else { g with v := false }))
  | _ => .next s

/-- The instruction of a partition command (R340). -/
def partCommand (op : Nat) : Option Instr :=
  match op with
  | 1 => some .partitionCreate
  | 2 => some .partitionModify
  | 3 => some .partitionReset
  | 4 => some .partitionStop
  | 5 => some .partitionRelease
  | 6 => some .partitionDestroy
  | 7 => some .mfreeze
  | 8 => some .mthaw
  | _ => none

/-- The instruction of a gate operation (R353). -/
def gateCommand (op : Nat) : Option Instr :=
  match op with
  | 1 => some .gateCreate
  | 2 => some .gateUpdate
  | 3 => some .gateRevoke
  | 4 => some .gateFree
  | 5 => some .gateFreeze
  | 6 => some .gateExport
  | 7 => some .gateImport
  | _ => none

/-- A write of PCMD (R339): the hub runs one command at a time; a command that R340 does not list is invalid. -/
def State.writePcmd (s : State) (v : Nat) : State :=
  let p := bits v 5 6
  if s.hub.psRes = 3 then { s with hub := { s.hub with psErr := true } }
  else
    let s : State := { s with hub := { s.hub with psRes := 3, psPart := p, psReason := 0 } }
    match partCommand (bits v 0 4) with
    | some i =>
      if 48 ≤ p then { s with hub := { s.hub with psRes := 2 } }
      else s.after 0 7 0 i (.partN p (bits v 4 1))
    | none => { s with hub := { s.hub with psRes := 2 } }

/-- A write of GCMD (R352, R353). -/
def State.writeGcmd (s : State) (v : Nat) : State :=
  match gateCommand (bits v 0 3) with
  | some i => s.after 0 7 (gateKey 1 0) i (.gate s.hub.gsel)
  | none => s.gst 2

/-- A write lands in a register of the hub. -/
def State.writeHub (s : State) (sid n : Nat) (v : W64) : State :=
  let x := v.toNat
  let h := s.hub
  let put (h : Hub) : State := { s with hub := h }
  match n with
  | 0x100 => { s with dsel := Fm.set s.dsel sid (x % 16) }
  | 0x600 => put { h with gsel := x % 4096 }
  | 0x609 => s.writeGcmd x
  | 0x60B => put { h with gaddr := bits x 6 46 * 64 }
  | 0x700 => s.writePcmd x
  | 0x701 => put { h with paddr := bits x 10 42 * 1024 }
  | 0x702 => put { h with psErr := h.psErr && !bit x 8 }
  | 0x800 => put { h with csel := x % 4096 }
  | 0x940 => put { h with alErr := h.alErr && !bit x 1 }
  | 0x941 =>
    let s := put { h with drstRef := h.drstRef && !bit x 6 }
    if bit x 4 then s.after 0 7 0 .dieReset (.die (x % 16)) else s
  | _ =>
    if 0x601 ≤ n ∧ n ≤ 0x608 then put { h with stage := Fm.set h.stage (n - 0x601) v }
    else if 0x900 ≤ n ∧ n < 0x940 then
      s.updLink ((n - 0x900) / 4) (fun l =>
        match n % 4 with
        | 0 => { l with peer := bits x 0 4, en := bit x 4, xp := bit x 5, via := bits x 6 4, alten := bit x 10 }
        | 1 => { l with fail := l.fail && !bit x 1 }
        | _ => { l with drop := BitVec.ofNat 32 x, replay := BitVec.ofNat 32 (x / 2 ^ 32) })
    else if 0xC00 ≤ n ∧ n < 0xC30 then put { h with wtb := Fm.set h.wtb (n - 0xC00) x }
    else s

/-- A write lands in a counter of a die (R277, R378). -/
def State.writeDie (s : State) (die n : Nat) (v : W64) : State :=
  if n = 0xA00 then s.updTier die (fun t => { t with drop := v })
  else if n = 0xA01 then s
  else s.updDom die ((n - 0x200) / 0x40) (fun d => { d with cnt := Fm.set d.cnt ((n - 0x200) % 0x40 - 0x20) v })

end Sys2Proof.Machine
end

