-- ==== Sys2Proof/Machine/Driyth.lean ====
section
/-! DEFINITION. The translation of Driyth code into native words (R412 to R415): what each word reads and writes, regions, edges,
placement, emission, offsets and boundaries. -/

namespace Sys2Proof.Machine

open Sys2Proof

/-! ## What the edges are about (R415) -/

/-- What a word reads, what it writes and when, how long it holds its column, and its home or completion cycle. -/
structure DOps where
  reads : List Res := []
  writes : List (Res × Nat) := []
  occ : Nat := 1
  done : Nat := 1
  deriving DecidableEq, Repr

/-- g registers; predicates of selectors; tiles. -/
def gRes (l : List (BitVec 6)) : List Res := l.map (fun x => .g x.toNat)
def gRun (c : BitVec 6) (n : Nat) : List Res := (span c.toNat n).map .g
def pRes (l : List (BitVec 5)) : List Res := l.map (fun x => .p (x.toNat % 16))
def vRes (l : List (BitVec 5)) : List Res := l.map (fun x => .v x.toNat)
def vRun (c : BitVec 5) (n : Nat) : List Res := (span c.toNat n).map .v

/-- An SCA word: destination, sources, occupancy, latency (R112). -/
def scaOps (a : BitVec 6) (src : List (BitVec 6)) (occ lat : Nat) : DOps :=
  { reads := gRes src, writes := [(.g a.toNat, lat)], occ := occ }
/-- An integer compare. -/
def cmpOps (p : BitVec 4) (src : List (BitVec 6)) : DOps := { reads := gRes src, writes := [(.p p.toNat, 2)] }
/-- A word that raises flags at its result cycle writes FSTAT then (R113). -/
def DOps.flags (o : DOps) (lat : Nat) : DOps := { o with writes := o.writes ++ [(.fstat, lat)] }
/-- A word whose results FCTL.OVINF decides (R47). -/
def DOps.narrows (o : DOps) : DOps := { o with reads := .fctl :: o.reads }
/-- A floating-point SCA word that compares or selects, and one that rounds. -/
def fcOps (d : Res) (src : List (BitVec 6)) (occ lat : Nat) : DOps :=
  ({ reads := gRes src, writes := [(d, lat)], occ := occ } : DOps).flags lat
def fpOps (d : Res) (src : List (BitVec 6)) (occ lat : Nat) : DOps := (fcOps d src occ lat).narrows
/-- A VEC word: result at occupancy + 3 (R155). Logic, moves and permutations raise no flag; comparisons, absolute values and
maxima raise flags; arithmetic and conversions also read FCTL. -/
def vecOps (d : List Res) (src : List Res) (k : BitVec 3) (occ lat : Nat) : DOps :=
  { reads := [.shape, .m k.toNat] ++ src, writes := d.map (fun r => (r, lat)), occ := occ }
def vflOps (d : List Res) (src : List Res) (k : BitVec 3) (occ lat : Nat) : DOps := (vecOps d src k occ lat).flags lat
def vfpOps (d : List Res) (src : List Res) (k : BitVec 3) (occ lat : Nat) : DOps := (vflOps d src k occ lat).narrows
/-- A global load and a global store of one class: home at +L − 10 (R244). -/
def loadOps (d : Res) (h : BitVec 4) (c : BitVec 6) (occ lat : Nat) : DOps :=
  { reads := [.h h.toNat, .g c.toNat], writes := [(d, lat)], occ := occ, done := lat }
def storeOps (src : Res) (h : BitVec 4) (c : BitVec 6) (occ lat : Nat) : DOps :=
  { reads := [src, .h h.toNat, .g c.toNat], occ := occ, done := lat - 10 }
/-- An access of SHAPE's bytes. -/
def DOps.tile (o : DOps) : DOps := { o with reads := .shape :: o.reads }
/-- A tagged load: it converts to SHAPE's type (R67, R184). -/
def taggedOps (sh : BitVec 18) (v : BitVec 5) (h : BitVec 4) (c : BitVec 6) (lat : Nat) : DOps :=
  ((loadOps (.v v.toNat) h c (cdiv (taggedMax sh) 2048) lat).tile.flags lat).narrows
/-- The greatest one-way die latency (R176), taken where the home of an access is known only at run time. -/
def farthest : Nat := 40
/-- An access to a sync engine that answers in a g register. -/
def atomOps (g : BitVec 6) (h : BitVec 4) (c : BitVec 6) (src : List Res) : DOps :=
  { reads := [.h h.toNat, .g g.toNat, .g c.toNat] ++ src, writes := [(.g g.toNat, 48 + 2 * farthest)], done := 24 + farthest }
/-- A seam word: the words after it wait until it has completed (R178). -/
def seamOps (d : List Res) (src : List Res) : DOps := { reads := src, writes := d.map (fun r => (r, 1)) }

/-- The operands and figures of a word under a SHAPE (R323). A quantity known only at run time is taken at its greatest, or from
the translator version where it has none. -/
def dops (sh : BitVec 18) (op : Nat) (i : Instr) : DOps :=
  let b := slots (shapeBytes sh)
  let o := cdiv (shapeBytes sh) 2048
  let far := Config.translatorCycles op
  match i with
  -- CTL
  | .brp sel _ => { reads := pRes [sel] }
  | .lbrk sel _ => { reads := [.p (sel.toNat % 16)] }
  | .call _ => { writes := [(.g 63, 2)] }
  | .ret g | .loop g _ | .waitb g => { reads := gRes [g] }
  | .launch p h g => { reads := [.h h.toNat, .g g.toNat], writes := [(.p p.toNat, 48)] }
  | .rdsr g n => { reads := if n = 2 then [.fstat] else if n = 3 then [.fctl] else [], writes := [(.g g.toNat, 2)] }
  | .wrsr g n => { reads := [.g g.toNat], writes := if n = 2 then [(.fstat, 2)] else if n = 3 then [(.fctl, 2)] else [] }
  -- SCA
  | .add a b c | .sub a b c | .and a b c | .or a b c | .xor a b c | .andn a b c | .shl a b c | .shr a b c | .sar a b c
  | .ror a b c | .mins a b c | .maxs a b c | .minz a b c | .maxz a b c => scaOps a [b, c] 1 2
  | .addi a b _ => scaOps a [b] 1 2
  | .shli a b _ | .shri a b _ | .sari a b _ => scaOps a [b] 1 2
  | .sext a b _ | .zext a b _ => scaOps a [b] 1 2
  | .clz a b | .popc a b => scaOps a [b] 1 2
  | .mul a b c | .mulhs a b c | .mulhz a b c => scaOps a [b, c] 1 4
  | .divs a b c | .divz a b c | .rems a b c | .remz a b c => scaOps a [b, c] 20 20
  | .movi a _ => scaOps a [] 1 2
  | .movx a _ _ => scaOps a [] 1 2
  | .movhx a _ _ => scaOps a [a] 1 2
  | .beac a => scaOps a [] 1 2
  | .cmpeq p b c | .cmpne p b c | .cmplts p b c | .cmples p b c | .cmpltz p b c | .cmplez p b c => cmpOps p [b, c]
  | .cmpeqi p b _ | .cmpltsi p b _ => cmpOps p [b]
  | .sel a b c p => { scaOps a [b, c] 1 2 with reads := [.p p.toNat, .g b.toNat, .g c.toNat] }
  | .pand a b c | .por a b c | .pxor a b c => { reads := pRes [b, c], writes := [(.p a.toNat, 2)] }
  | .pnot a b => { reads := pRes [b], writes := [(.p a.toNat, 2)] }
  | .idx a l => { reads := [.i l.toNat], writes := [(.g a.toNat, 2)] }
  | .fadd a b c _ | .fsub a b c _ | .fmul a b c _ => fpOps (.g a.toNat) [b, c] 1 4
  | .faddLiteral a b c _ _ | .fsubLiteral a b c _ _ | .fmulLiteral a b c _ _ => fpOps (.g a.toNat) [b, c] 1 4
  | .ffma a b c _ => fpOps (.g a.toNat) [a, b, c] 1 5
  | .ffmaLiteral a b c _ _ => fpOps (.g a.toNat) [a, b, c] 1 5
  | .fdiv a b c _ => fpOps (.g a.toNat) [b, c] 16 16
  | .fdivLiteral a b c _ _ => fpOps (.g a.toNat) [b, c] 16 16
  | .fsqrt a b _ => fpOps (.g a.toNat) [b] 18 18
  | .fsqrtLiteral a b _ _ => fpOps (.g a.toNat) [b] 18 18
  | .fcvt a b _ _ _ => fpOps (.g a.toNat) [b] 1 4
  | .fcmplt a b c _ | .fcmpeq a b c _ => fcOps (.p a.toNat) [b, c] 1 2
  | .fmin a b c _ | .fmax a b c _ => fcOps (.g a.toNat) [b, c] 1 2
  -- VEC
  | .shape _ => { writes := [(.shape, 0)], occ := 0 }
  | .vadd v a b' k _ | .vsub v a b' k _ | .vmul v a b' k _ | .vrdot v a b' k _ => vfpOps (vRes [v]) (vRes [a, b']) k b (b + 3)
  | .vmin v a b' k _ | .vmax v a b' k _ => vflOps (vRes [v]) (vRes [a, b']) k b (b + 3)
  | .vand v a b' k _ | .vor v a b' k _ | .vxor v a b' k _ | .vshl v a b' k _ | .vshr v a b' k _ | .vsar v a b' k _ | .vsel v a b' k _
  | .vperm v a b' k _ => vecOps (vRes [v]) (vRes [a, b']) k b (b + 3)
  | .vfma v a b' k _ | .vfms v a b' k _ => vfpOps (vRes [v]) (vRes [v, a, b']) k b (b + 3)
  | .vclamp v a b' k _ => vflOps (vRes [v]) (vRes [v, a, b']) k b (b + 3)
  | .vrsum v a k _ | .vcsum v a k _ => vfpOps (vRes [v]) (vRes [a]) k b (b + 3)
  | .vabs v a k _ | .vneg v a k _ | .vrmax v a k _ | .vcmax v a k _ => vflOps (vRes [v]) (vRes [a]) k b (b + 3)
  | .vnot v a k _ | .vmov v a k _ | .vtrn v a k _ => vecOps (vRes [v]) (vRes [a]) k b (b + 3)
  | .vcmpeq v a b' k _ | .vcmplt v a b' k _ | .vcmple v a b' k _ => vflOps [.m v.toNat] (vRes [a, b']) k b (b + 3)
  | .vfill v g k _ => vecOps (vRes [v]) [.g g.toNat] k b (b + 3)
  | .viota v g _ k _ => vfpOps (vRes [v]) [.g g.toNat] k b (b + 3)
  | .vbrow v a g k _ | .vbcol v a g k _ | .vrot v a g k _ => vecOps (vRes [v]) [.v a.toNat, .g g.toNat] k b (b + 3)
  | .vzip2 v a k _ => vecOps (vRun v 2) (vRun a 2) k (2 * b) (2 * b + 3)
  | .vunz2 v a k _ => vecOps (vRun v 2) (vRun a 2) k (2 * b) (2 * b + 3)
  | .vzip3 v a k _ => vecOps (vRun v 3) (vRun a 3) k (3 * b) (3 * b + 3)
  | .vunz3 v a k _ => vecOps (vRun v 3) (vRun a 3) k (3 * b) (3 * b + 3)
  | .vzip4 v a k _ => vecOps (vRun v 4) (vRun a 4) k (4 * b) (4 * b + 3)
  | .vunz4 v a k _ => vecOps (vRun v 4) (vRun a 4) k (4 * b) (4 * b + 3)
  | .vcvt v a t k _ =>
    let n := slots (max (shapeBytes sh) (bytesFor t.toNat (shapeCount sh)))
    vfpOps (vRes [v]) (vRes [a]) k n (n + 3)
  | .vqnt v a r f =>
    let n := slots (max (shapeBytes sh) (bytesFor (quantType f.toNat) (shapeCount sh)))
    vflOps (vRes [v]) [.v a.toNat, .ring r.toNat] 0 n (n + 3)
  | .vamx r a k => vflOps [.ring r.toNat] (vRes [a]) k b (b + 3)
  | .vrcpa v a k | .vrsqa v a k | .vexp2 v a k | .vlog2 v a k | .vtanh v a k => vfpOps (vRes [v]) (vRes [a]) k (2 * b) (2 * b + 9)
  | .vgte g a b' _ _ => vecOps [.g g.toNat] [.v a.toNat, .g b'.toNat] 0 1 4
  | .vpte v a b' _ _ => vecOps (vRes [v]) [.v v.toNat, .g a.toNat, .g b'.toNat] 0 1 4
  | .vmskop _ v a b' _ _ => vecOps [.m v.toNat] [.m a.toNat, .m b'.toNat] 0 1 4
  -- MEM
  | .xlt h g => seamOps [.h h.toNat] (gRes [g])
  | .xltNw h g => { reads := gRes [g], writes := [(.h h.toNat, 24)], done := 24 }
  | .hrel h => { writes := [(.h h.toNat, 2)] }
  | .hchk p h => { reads := [.h h.toNat], writes := [(.p p.toNat, 2)] }
  | .hinfo g h _ => { reads := [.h h.toNat], writes := [(.g g.toNat, 2)] }
  | .lds v b' c => { reads := .shape :: gRes [b', c], writes := [(.v v.toNat, 12 + o)], occ := o, done := 12 + o }
  | .sts v b' c => { reads := [.shape, .v v.toNat] ++ gRes [b', c], occ := o, done := 2 + o }
  | .ldsg g b' c => { reads := gRes [b', c], writes := [(.g g.toNat, 13)], done := 13 }
  | .stsg g b' c => { reads := gRes [g, b', c], done := 3 }
  | .ldg _ v h c m | .ldge _ v h c m => (loadOps (.v v.toNat) h c o (classLatency m.toNat)).tile
  | .ldgUnt _ v h c l | .ldgeUnt _ v h c l => (loadOps (.v v.toNat) h c o l.toNat).tile
  | .ldt _ v h c m | .ldte _ v h c m => taggedOps sh v h c (classLatency m.toNat)
  | .ldtUnt _ v h c l | .ldteUnt _ v h c l => taggedOps sh v h c l.toNat
  | .ldgs _ g h c m => loadOps (.g g.toNat) h c 1 (classLatency m.toNat)
  | .ldgsUnt _ g h c l => loadOps (.g g.toNat) h c 1 l.toNat
  | .stg _ v h c m | .stnt _ v h c m => (storeOps (.v v.toNat) h c o (classLatency m.toNat)).tile
  | .stgUnt _ v h c l | .stntUnt _ v h c l => (storeOps (.v v.toNat) h c o l.toNat).tile
  | .stgs _ g h c m => storeOps (.g g.toNat) h c 1 (classLatency m.toNat)
  | .stgsUnt _ g h c l => storeOps (.g g.toNat) h c 1 l.toNat
  | .stq _ v h c m =>
    let x := (storeOps (.v v.toNat) h c o (classLatency m.toNat)).tile
    { x with reads := x.reads ++ (List.range 16).map .ring, writes := [(.fstat, o)] }
  | .stqUnt _ v h c l =>
    let x := (storeOps (.v v.toNat) h c o l.toNat).tile
    { x with reads := x.reads ++ (List.range 16).map .ring, writes := [(.fstat, o)] }
  | .drain => { done := far }
  | .pfl h b' c => { reads := [.h h.toNat] ++ gRes [b', c] }
  | .cwbr h b' c | .cinvr h b' c => { reads := [.h h.toNat] ++ gRes [b', c], done := 40 + 2 * farthest + 2 ^ 18 }
  | .rpin _ h g => { reads := [.h h.toNat, .g g.toNat], done := 48 + 2 * farthest }
  | .runpin _ h => { reads := [.h h.toNat], done := 48 + 2 * farthest }
  -- MAT
  | .mcfg _ g _ => { reads := [.g g.toNat, .shadow], writes := [(.shadow, 1)] }
  | .mcfgi _ _ _ | .msrc _ _ _ _ | .mfmt _ _ _ _ | .mfuse _ _ => { reads := [.shadow], writes := [(.shadow, 1)] }
  | .mldb g _ => { reads := [.g g.toNat, .shadow], occ := 1024 }
  | .mgo => { reads := [.shadow] }
  | .mclr a b' => { reads := gRes [a, b'], occ := 64 }
  | .mrd v r c _ =>
    (({ reads := .shape :: gRes [r, c], writes := [(.v v.toNat, b + 3)], occ := b } : DOps).flags (b + 3)).narrows
  | .mwr v r c _ => (({ reads := [.shape, .v v.toNat] ++ gRes [r, c], occ := b } : DOps).flags (b + 3)).narrows
  | .mdur g => { reads := [.shadow], writes := [(.g g.toNat, 4)] }
  -- QUE
  | .qpush p v n => { reads := [.v v.toNat, .oport p.toNat], writes := [(.oport p.toNat, 1)], occ := n.toNat + 1, done := n.toNat + 1 }
  | .qpop v q n =>
    { reads := [.oq q.toNat], writes := [(.oq q.toNat, n.toNat + 1), (.v v.toNat, n.toNat + 4)], occ := n.toNat + 1, done := n.toNat + 4 }
  | .lksend p v n => { reads := [.v v.toNat, .lport p.toNat], writes := [(.lport p.toNat, 1)], occ := n.toNat + 1, done := n.toNat + 1 }
  | .lkrecv v q n =>
    { reads := [.lq q.toNat], writes := [(.lq q.toNat, n.toNat + 1), (.v v.toNat, n.toNat + 4)], occ := n.toNat + 1, done := n.toNat + 4 }
  | .qrsv p _ => { reads := [.oport p.toNat], writes := [(.oport p.toNat, 1)] }
  | .qbind p g => { reads := [.g g.toNat], writes := [(.oport p.toNat, 48)], done := 48 }
  | .lkbind p g => { reads := [.g g.toNat], writes := [(.lport p.toNat, 48)], done := 48 }
  | .qdepth g k q =>
    { reads := if k = 0 then [.oq q.toNat, .oport q.toNat] else [.lq q.toNat, .lport q.toNat], writes := [(.g g.toNat, 2)], done := 2 }
  -- SYN
  | .aadd g h c _ | .aand g h c _ | .aor g h c _ | .axor g h c _ | .aswp g h c _ => atomOps g h c []
  | .amin g h c _ _ | .amax g h c _ _ => atomOps g h c []
  | .acas g h c _ => atomOps g h c [.g (g.toNat + 1)]
  | .acqTry g h c _ => atomOps g h c []
  | .acq g h c _ => seamOps (gRes [g]) [.h h.toNat, .g c.toNat]
  | .vatom v i' _ =>
    { reads := [.shape] ++ vRes [v, i'] ++ (List.range 16).map .h, occ := cdiv (shapeCount sh) 16
      done := cdiv (shapeCount sh) 16 + 48 + 2 * farthest }
  | .rel h c => { reads := [.h h.toNat, .g c.toNat], done := far }
  | .relQueues h c _ => { reads := [.h h.toNat, .g c.toNat], done := far }
  | .bind r h g | .unbind r h g => { reads := [.h r.toNat, .h h.toNat, .g g.toNat], done := 24 + farthest }
  | .gpass p g => { reads := [.g g.toNat], writes := [(.p p.toNat, 88)], done := 88 }
  | .gstat a g => { reads := [.g g.toNat], writes := [(.g a.toNat, 88)], done := 88 }
  | .gtake v g => seamOps (gRes [v]) (gRes [v, g])
  | .cld g k c => seamOps (gRes [g]) [.k k.toNat, .g c.toNat]
  | .cldv v k c => seamOps (vRes [v]) [.shape, .k k.toNat, .g c.toNat]
  | .cst g k c _ => { reads := [.k k.toNat] ++ gRes [g, c], done := far }
  | .cstv v k c => { reads := [.shape, .v v.toNat, .k k.toNat, .g c.toNat], done := far }
  | .rcas2 g k c n => seamOps (gRun g (2 * (n.toNat + 1) + 1)) ([.k k.toNat, .g c.toNat] ++ gRun g (2 * (n.toNat + 1)))
  | .renq g k c => seamOps (gRes [g]) ([.k k.toNat] ++ gRes [g, c])
  | .rchase g k c => seamOps (gRun g 2) ([.k k.toNat] ++ gRes [g, c])
  | .kmov a b' => { reads := [.k b'.toNat], writes := [(.k a.toNat, 2)] }
  | .knarrow a b' g => { reads := .k b'.toNat :: gRun g 2, writes := [(.k a.toNat, 2)] }
  | .kperm a b' _ => { reads := [.k b'.toNat], writes := [(.k a.toNat, 2)] }
  | .kld a h c m => loadOps (.k a.toNat) h c 1 (classLatency m.toNat)
  | .kst a h c m => storeOps (.k a.toNat) h c 1 (classLatency m.toNat)
  | .wld g w c => seamOps (gRes [g]) (gRes [w, c])
  | .wst g w c => { reads := gRes [g, w, c], done := far }
  | .sfence _ _ => { done := far }
  -- ASY
  | .cpy _ h g _ => { reads := .h h.toNat :: gRun g 4 ++ (List.range 16).map .h, done := far }
  | .cpyd _ h g _ => { reads := .h h.toNat :: gRun g 6 ++ (List.range 16).map .h, done := far }
  | .ratt _ g _ => { reads := gRes [g], done := far }
  | .kapp _ g | .krel _ g => { reads := gRes [g], done := far }
  | .merge _ g => { reads := gRun g 4, done := far }
  | .coll _ v g => { reads := [.shape, .v v.toNat] ++ gRun g 2, done := far }
  | .tier _ h g => { reads := .h h.toNat :: gRun g 2, done := far }
  | .pfs _ h g => { reads := .h h.toNat :: gRun g 4, done := far }
  | .qfence _ => { done := far }
  | .nop _ => { occ := 0 }
  | _ => {}

/-! ## Words and regions (R412, R414) -/

/-- A Driyth word: its index in the timetable, the word with its literal, and what the decoder finds. -/
structure DWord where
  idx : Nat
  w : Nat
  lit : Option Nat
  dec : Decoded
  deriving DecidableEq, Repr

/-- MORD: D[0] (R412). -/
def DWord.mord (d : DWord) : Bool := d.dec.dly % 2 == 1
/-- The index after the word and its literal. -/
def DWord.next (d : DWord) : Nat := d.idx + d.dec.len

/-- A timetable's words, or none where one has an unassigned OP (R412). `skip` says that a literal comes first. A word whose literal
is absent or of another engine is an instruction that faults when it issues (R93): the word behind it, which stands for itself too,
is carried with it in the literal's place. -/
def driWords : Bool → Nat → List Nat → Option (List DWord)
  | _, _, [] => some []
  | true, i, _ :: r => driWords false (i + 1) r
  | false, i, w :: r =>
    match decodeWord w r.head? with
    | .error _ =>
      match decodeWord w (some (engOf w * 2 ^ 29)) with
      | .error _ => none
      | .ok d => (driWords false (i + 1) r).map (fun l => { idx := i, w := w, lit := r.head?, dec := { d with len := 1 } } :: l)
    | .ok d =>
      (driWords (d.len == 2) (i + 1) r).map (fun l =>
        { idx := i, w := w, lit := if d.len = 2 then r.head? else none, dec := d } :: l)

/-- Whether a word may stand in Driyth code: no WAIT, YIELD or ALIGN, D[2:1] = 0, and no privilege that it can never have: H
always, S where the timetable has no handler (R412). -/
def DWord.allowed (d : DWord) (handler : Bool) : Bool :=
  let level (x : Option Nat) : Bool := match x with
    | some l => handler || l == 0
    | none => false
  decide (d.dec.dly < 2) && (match d.dec.ins with
    | .wait _ _ | .yield _ _ | .align => false
    | .eret | .qbind _ _ | .lkbind _ _ => handler
    | .rdsr _ n => level (if n.toNat < 0x100 then readLevel n.toNat else none)
    | .wrsr _ n => level (if n.toNat < 0x100 then writeLevel n.toNat else none)
    | _ => true)

/-- The Driyth index that a branch names (R91). -/
def DWord.target (d : DWord) : Option Int :=
  match d.dec.ins with
  | .br i => some (d.idx + i.toInt)
  | .call i => some (d.idx + i.toInt)
  | .brp _ i => some (d.idx + i.toInt)
  | .lbrk _ i => some (d.idx + i.toInt)
  | _ => none

/-- SEAM, WAITB and END join against every earlier word (R315). -/
def DWord.joins (d : DWord) : Bool :=
  match d.dec.ins with
  | .seam | .waitb _ | .endTask => true
  | _ => false

/-- START and LEN of a loop word's body (R118). -/
def DWord.body (d : DWord) : Option (Nat × Nat) :=
  match d.dec.ins with
  | .loop _ len => some (d.idx + 2, len.toNat)
  | .loopi _ len => some (d.idx + 2, len.toNat)
  | _ => none

/-- Whether control never passes to the next word. -/
def DWord.leaves (d : DWord) : Bool :=
  match d.dec.ins with
  | .br _ | .call _ | .ret _ | .eret | .endTask => true
  | _ => false

/-- Indices at which the first words of iterations, and the words after a loop, stand. -/
def joinsOf (l : List DWord) : List Nat :=
  l.flatMap (fun d => match d.body with
    | some (s, n) => [s, s + n]
    | none => [])
/-- Indices to which a transfer leads. -/
def landings (l : List DWord) (handler : Nat) : List Nat :=
  handler :: l.flatMap (fun d =>
    (match d.target with
     | some t => if 0 ≤ t then [t.toNat] else []
     | none => []) ++ if d.leaves then [d.next] else [])
/-- Indices at which a region begins (R414): branch targets, CTL words and the words after them, the first and the last words of loop
bodies, operator boundaries. -/
def regionHeads (l : List DWord) (bounds : List (Nat × Nat)) : List Nat :=
  bounds.map (·.1) ++ l.flatMap (fun d =>
    (match d.target with
     | some t => if 0 ≤ t then [t.toNat] else []
     | none => []) ++ (if d.dec.eng = 0 then [d.idx, d.next] else []) ++ (match d.body with
      | some (s, n) => s :: (l.filter (fun e => e.next == s + n)).map (·.idx)
      | none => []))
/-- Indices at which the floor or the fetch may change: where a region begins, after a loop, at the handler. -/
def pieceHeads (l : List DWord) (handler : Nat) (bounds : List (Nat × Nat)) : List Nat :=
  joinsOf l ++ landings l handler ++ regionHeads l bounds

/-- Words grouped into the pieces that begin at the heads. -/
def regionsOf (heads : List Nat) : List DWord → List (List DWord)
  | [] => []
  | d :: r =>
    match regionsOf heads r with
    | [] => [[d]]
    | (e :: x) :: y => if heads.contains e.idx then [d] :: (e :: x) :: y else (d :: e :: x) :: y
    | [] :: y => [d] :: y

/-! ## Placement (R415) -/

/-- A word in its cycle. -/
structure Placed where
  d : DWord
  t : Nat
  ops : DOps
  deriving DecidableEq, Repr

/-- The columns whose words MORD orders (R413). -/
def mordCol (e : Nat) : Bool := e == 3 || e == 5 || e == 6 || e == 7

/-- The first cycle that the edges from an earlier word allow (R415). `same` says that both stand in one region. -/
def edge (p : Placed) (d : DWord) (o : DOps) (same : Bool) : Nat :=
  let raw := p.ops.writes.foldl (fun a w => if o.reads.contains w.1 then max a (p.t + w.2) else a) 0
  let war := if o.writes.any (fun w => p.ops.reads.contains w.1) then p.t else 0
  let waw := p.ops.writes.foldl (fun a w =>
    o.writes.foldl (fun a x => if w.1 = x.1 then max a (p.t + w.2 + 1 - x.2) else a) a) 0
  let col := if p.d.dec.eng = d.dec.eng then max (p.t + 1) (if o.occ = 0 then 0 else p.t + p.ops.occ) else 0
  let mord := if same && d.mord && mordCol d.dec.eng && mordCol p.d.dec.eng then p.t + p.ops.done + 1 else 0
  max (max raw war) (max waw (max col mord))

/-- The operands and figures of a word of a timetable, SHAPE followed from its start. -/
def DWord.opsIn (d : DWord) (all : List DWord) : DOps :=
  let sh := all.foldl (fun s e => if e.idx < d.idx then (match e.dec.ins with
    | .shape v => v
    | _ => s) else s) (0x4000 : BitVec 18)
  dops sh (64 * d.dec.eng + opOf d.w) d.dec.ins
/-- Whether a word reads or writes a register. -/
def DOps.uses (o : DOps) (r : Res) : Bool := o.reads.contains r || o.writes.any (fun w => w.1 == r)

/-- Where control may pass from a word other than to the next one, and the cycles that this takes at least (R315). -/
def DWord.passes (d : DWord) (all : List DWord) : List (Nat × Nat) :=
  (match d.target with
   | some t => if 0 ≤ t then [(t.toNat, 4)] else []
   | none => []) ++
  (match d.dec.ins with
   | .ret _ | .eret => [(0, 4)]
   | .loop _ n => [(d.next + n.toNat, 1)]
   | _ => []) ++
  all.flatMap (fun e => match e.body with
    | some (s, n) => if d.next = s + n then [(s, 1)] else []
    | none => [])

/-- What the translator has reached: the words placed, how many before the region and the cycle at which it begins, Last_c + 1 of
each column, the floor, the base and position of fetch (R314), the cycle after every word so far, and the cycle before which no
word may issue. -/
structure DState where
  placed : List Placed := []
  first : Nat := 0
  start : Nat := 0
  last : Fm Nat := []
  floor : Nat := 0
  fbase : Nat := 0
  fpos : Nat := 0
  top : Nat := 0
  least : Nat := 0
  deriving DecidableEq, Repr

/-- The cycle before which a word that may pass control may not issue: what a word that control may reach reads or writes has been
delivered when that word may issue (R412, log entry 44). -/
def DState.carried (x : DState) (d : DWord) (all : List DWord) : Nat :=
  (d.passes all).foldl (fun t j => x.placed.foldl (fun t p => p.ops.writes.foldl (fun t w =>
    if all.any (fun e => decide (j.1 ≤ e.idx) && (e.opsIn all).uses w.1) then max t (p.t + w.2 - j.2) else t) t) t) 0

/-- The cycles that the words of a loop body wait at its head for the results of its last word (R412). -/
def carriedIn (all : List DWord) (s n : Nat) : Nat :=
  let body := all.filter (fun e => decide (s ≤ e.idx) && decide (e.idx < s + n))
  (all.filter (fun e => e.next == s + n)).foldl (fun t d => (d.opsIn all).writes.foldl (fun t w =>
    if body.any (fun e => (e.opsIn all).uses w.1) then max t (w.2 - 1) else t) t) 0

/-- One word of a region. -/
def DState.placeWord (x : DState) (all : List DWord) (d : DWord) : DState :=
  let o := d.opsIn all
  let n := x.placed.length
  let t := (x.placed.zipIdx).foldl (fun t e => max t (edge e.1 d o (decide (n - e.2 > x.first))))
    (max (max x.floor (x.fbase + x.fpos / 8)) (max x.least (x.carried d all)))
  { x with
    placed := { d := d, t := t, ops := o } :: x.placed
    fpos := x.fpos + (if d.lit.isSome then 2 else 1), top := max x.top (t + 1)
    floor := if d.joins then t + 1 else x.floor }

/-! ## Emission (R415) -/

/-- A native word, its literal, and the Driyth word that it stands for. -/
structure NItem where
  w : Nat
  lit : Option Nat := none
  src : Option DWord := none
  deriving DecidableEq, Repr

def NItem.len (n : NItem) : Nat := if n.lit.isSome then 2 else 1
/-- The number of native words. -/
def itemsLen (l : List NItem) : Nat := l.foldl (fun a n => a + n.len) 0

/-- A word with its delay replaced. -/
def withDelay (w d : Nat) : Nat := setBits w 26 3 d
/-- A WAIT of a column. -/
def waitWord (e n : Nat) : Nat := e * 2 ^ 29 + 2 ^ 20 + n

/-- The WAIT words and the delay that carry a column from `base` over `gap` cycles. -/
def gapWords (e : Nat) : Nat → Nat → List NItem × Nat
  | 0, gap => ([], gap)
  | n + 1, gap =>
    if gap ≤ 7 then ([], gap)
    else if gap ≤ 16384 then ([{ w := waitWord e (gap - 1) }], 0)
    else
      let r := gapWords e n (gap - 16384)
      ({ w := waitWord e 16383 } :: r.1, r.2)

/-- Order of emission: cycle, column, Driyth index. -/
def Placed.before (a b : Placed) : Bool :=
  decide (a.t < b.t) || (a.t == b.t && (decide (a.d.dec.eng < b.d.dec.eng) ||
    (a.d.dec.eng == b.d.dec.eng && decide (a.d.idx < b.d.idx))))
def insertPlaced (a : Placed) : List Placed → List Placed
  | [] => [a]
  | b :: r => if a.before b then a :: b :: r else b :: insertPlaced a r

/-- The native words of placed words in order; the floor of the region, and Last_c + 1 of each column. -/
def emit (floor : Nat) : Fm Nat → List Placed → List NItem × Fm Nat
  | last, [] => ([], last)
  | last, p :: r =>
    let e := p.d.dec.eng
    let base := max (Fm.get 0 last e) floor
    let (ws, d) := gapWords e (p.t / 16384 + 1) (p.t - base)
    let x := emit floor (Fm.set last e (p.t + 1)) r
    (ws ++ { w := withDelay p.d.w d, lit := p.d.lit, src := some p.d } :: x.1, x.2)

/-- The YIELD 0 of a boundary with its live mask. -/
def yieldItem (mask : Nat) : NItem := { w := 9 * 2 ^ 20, lit := some (mask % 2 ^ 29) }

/-- The state at the head of a piece: after a join, after a transfer, behind the YIELD of a boundary. -/
def DState.enter (x : DState) (all : List DWord) (d : DWord) (joins lands : List Nat) (bound : Option Nat) : DState × List NItem :=
  let h := d.idx
  let x := if joins.contains h then { x with floor := max x.floor x.top } else x
  let x := if lands.contains h && h != 0 then { x with floor := max x.floor (x.top + 3), fbase := x.top + 1, fpos := 0 } else x
  let x := if d.joins || bound.isSome then { x with floor := max x.floor x.top } else x
  let x := all.foldl (fun x e => match e.body with
    | some (s, n) => if s = h then { x with least := max x.least (x.floor + carriedIn all s n) } else x
    | none => x) x
  match bound with
  | none => (x, [])
  | some m =>
    let base := max (Fm.get 0 x.last 0) x.floor
    let t := max base (x.fbase + x.fpos / 8)
    let (ws, d) := gapWords 0 (t / 16384 + 1) (t - base)
    ({ x with last := Fm.set x.last 0 (t + 1), floor := t + 1, top := t + 1, fpos := x.fpos + 2 + itemsLen ws },
     ws ++ [{ yieldItem m with w := withDelay (yieldItem m).w d }])

/-- One piece, which begins a region where its first word is a head of one: its native words, or none where the region cannot be
placed within 2^20 cycles. -/
def DState.piece (x : DState) (all l : List DWord) (joins lands heads : List Nat) (bounds : List (Nat × Nat)) :
    Option (List NItem × DState) :=
  match l with
  | [] => some ([], x)
  | h :: _ =>
    let (x, pre) := x.enter all h joins lands ((bounds.find? (fun b => b.1 == h.idx)).map (·.2))
    let x := if heads.contains h.idx then { x with first := x.placed.length, start := max x.floor x.top } else x
    let y := l.foldl (fun y d => y.placeWord all d) x
    let mine := (y.placed.take l.length).foldl (fun r p => insertPlaced p r) []
    if mine.any (fun p => decide (x.start + 2 ^ 20 < p.t)) then none
    else
      let (ns, last) := emit x.floor x.last mine
      some (pre ++ ns, { y with last := last, fpos := x.fpos + itemsLen ns })

/-- All pieces in order: for each its first Driyth index and its native words. -/
def translatePieces (all : List DWord) (joins lands heads : List Nat) (bounds : List (Nat × Nat)) :
    List (List DWord) → DState → Option (List (Nat × List NItem))
  | [], _ => some []
  | l :: r, x =>
    match x.piece all l joins lands heads bounds with
    | none => none
    | some (ns, y) => (translatePieces all joins lands heads bounds r y).map (((l.map (·.idx)).headD 0, ns) :: ·)

/-! ## Offsets (R415) -/

/-- Native index at which the piece of a Driyth index begins. -/
def nativeAt : List (Nat × List NItem) → Nat → Nat → Option Nat
  | [], _, _ => none
  | (h, ns) :: r, pos, i => if h = i then some pos else nativeAt r (pos + itemsLen ns) i

/-- A word whose branch offset leads to native index `t` from native index `pos`; none where it does not fit. -/
def withOffset (w pos t n : Nat) : Option Nat :=
  let o : Int := (t : Int) - pos
  if -(2 ^ (n - 1) : Int) ≤ o ∧ o < 2 ^ (n - 1) then some (setBits w 0 n (ofInt o n)) else none

/-- One native item with its offset or LEN; `tot` is the length of the Driyth timetable, `ntot` of the native one. -/
def NItem.fix (n : NItem) (at_ : Nat → Option Nat) (pos tot ntot : Nat) : Option (List Nat) :=
  let out (w : Nat) : List Nat := w :: n.lit.toList
  match n.src with
  | none => some (out n.w)
  | some d =>
    match d.target with
    | some t =>
      if t < 0 then none
      else match at_ t.toNat with
        | none => none
        | some q =>
          let bitsN := match d.dec.ins with
            | .br _ | .call _ => 20
            | _ => 14
          (withOffset n.w pos q bitsN).map out
    | none =>
      match d.body with
      | some (s, len) =>
        if len = 0 then some (out n.w)
        else
          let e := if s + len = tot then some ntot else at_ (s + len)
          match e with
          | none => none
          | some e => if pos + 2 + 65536 ≤ e then none else some [n.w, setBits (n.lit.getD 0) 0 16 (e - (pos + 2))]
      | none => some (out n.w)

/-- All items in order. -/
def fixAll (at_ : Nat → Option Nat) (tot ntot : Nat) : Nat → List NItem → Option (List Nat)
  | _, [] => some []
  | pos, n :: r =>
    match n.fix at_ pos tot ntot, fixAll at_ tot ntot (pos + n.len) r with
    | some a, some b => some (a ++ b)
    | _, _ => none

/-- A timetable: its words, handler and boundaries, as native words and native handler; none where it is refused. -/
def translateTimetable (ws : List Nat) (handler : Nat) (bounds : List (Nat × Nat)) : Option (List Nat × Nat) :=
  match driWords false 0 ws with
  | none => none
  | some l =>
    if !l.all (·.allowed (handler != 0)) then none
    else
      match translatePieces l (joinsOf l) (landings l handler) (regionHeads l bounds) bounds
        (regionsOf (pieceHeads l handler bounds) l) {} with
      | none => none
      | some rs =>
        let items := rs.flatMap (·.2)
        let at_ (i : Nat) : Option Nat := nativeAt rs 0 i
        match fixAll at_ ws.length (itemsLen items) 0 items, (if handler = 0 then some 0 else at_ handler) with
        | some out, some h => some (out, h)
        | _, _ => none

/-- The translation of a code section: timetables (FIRST, W, HANDLER) and boundaries (index, mask) of the section. The native
timetables follow one another. -/
def translateCode (code : List Nat) (bounds : List (Nat × Nat)) : List (Nat × Nat × Nat) → Nat → Option (List Nat × List (Nat × Nat × Nat))
  | [], _ => some ([], [])
  | (first, w, handler) :: r, pos =>
    let mine := (bounds.filter (fun b => decide (first ≤ b.1) && decide (b.1 < first + w))).map (fun b => (b.1 - first, b.2))
    match translateTimetable ((code.drop first).take w) handler mine with
    | none => none
    | some (ns, h) =>
      (translateCode code bounds r (pos + ns.length)).map (fun x => (ns ++ x.1, (pos, ns.length, h) :: x.2))

end Sys2Proof.Machine
end

