-- ==== Sys2Proof/Machine/Frames.lean ====
section
/-! DEFINITION. Frames and notices (R39, R40, R298, R328 to R332, R335): the yield frame, the full frame, what a save waits for
and does, and what a restore puts back. -/

namespace Sys2Proof.Machine

open Sys2Proof

/-! ## Notices (R335) -/

/-- The address of a frame-pool slot (R329). -/
def State.slotVa (s : State) (part slot : Nat) : Nat := (s.part part).get 0x240 8 + 786432 * slot

/-- A notice of 32 bytes goes to the partition's ring, or is dropped and counted; then the notice object is released (R253,
R335). -/
def State.notice (s : State) (part x : Nat) : State :=
  let p := s.part part
  let base := p.get 0x220 8
  let size := p.get 0x228 2
  let k := p.get 0x270 8
  let c := min k (s.vpeek part (base + 32 * size) 8).1
  if size ≤ k - c then s.updPart part (fun p => p.put 0x238 4 (p.get 0x238 4 + 1))
  else
    let s := (s.vpoke part (base + 32 * (k % size)) 32 x).updPart part (fun p => p.put 0x270 8 (k + 1))
    match s.translate part (p.get 0x230 8) with
    | some (pa, key) => s.hwRelease pa key
    | none => s

/-- The 32 bytes of a notice: KIND, reason or code, SEQID, address, partition time (R311, R335). -/
def State.noticeOf (s : State) (part kind reason sid va t : Nat) : State :=
  s.notice part (kind + reason * 2 ^ 8 + sid % 2 ^ 16 * 2 ^ 16 + va % 2 ^ 64 * 2 ^ 64 + t % 2 ^ 64 * 2 ^ 128)

/-! ## Fields of a frame -/

/-- A field of a frame: offset, bytes, value. -/
abbrev Field := Nat × Nat × Nat

/-- A frame of `size` bytes is written at a virtual address: bytes not listed are 0. -/
def State.writeFrame (s : State) (part va size : Nat) (l : List Field) : State :=
  l.foldl (fun s f => s.vpoke part (va + f.1) f.2.1 f.2.2) (s.vpoke part va size 0)

/-- LOOPS at an offset: the six levels of a loop stack (R13). -/
def loopFields (base : Nat) (l : List LoopLevel) : List Field :=
  ((l.take 6).zipIdx).map (fun e => (base + 16 * e.2, 12,
    e.1.count % 2 ^ 32 + e.1.index % 2 ^ 32 * 2 ^ 32 + e.1.start % 2 ^ 16 * 2 ^ 64 + e.1.len % 2 ^ 16 * 2 ^ 80))

/-- TARG of a pending TRAP, and COL of the lowest pending event. -/
def Seq.targField (q : Seq) : Nat := if q.pend.any (·.code == 0x15) then q.targ else 0
def Seq.pcol (q : Seq) : Nat := match q.lowest with
  | some e => e.col
  | none => 0

/-- The sticky and control registers, in the order of both frames. -/
def Seq.stickyFields (q : Seq) (base wrn : Nat) : List Field :=
  [(base, 8, wrn), (base + 8, 8, q.fstat.toNat), (base + 16, 8, if q.fctl then 1 else 0), (base + 24, 8, q.smode),
   (base + 32, 8, q.errs.toNat)]

/-- The yield frame (R329). -/
def yieldFields (q : Seq) (live resume t wrn : Nat) : List Field :=
  [(0, 2, resume), (2, 1, q.lstk.length), (4, 4, live % 2 ^ 29), (8, 2, q.p.toNat), (0xA, 2, q.pendMask),
   (0xC, 2, q.targField), (0xE, 1, q.pcol)] ++ q.stickyFields 0x10 wrn ++ [(0x38, 8, t)] ++ loopFields 0x40 q.lstk ++
  (onesOf live 29).map (fun n => (0xA0 + 8 * n, 8, q.gn n))

/-- A loop-nest table at an offset (R207, R208, R330). -/
def tableFields (base : Nat) (t : NestTable) : List Field :=
  (List.range 6).map (fun l => (base + 16 * l, 10, t.level l)) ++ [(base + 0x60, 16, t.glob.toNat)]

/-- Progress of the levels of the active table. -/
def progressFields (t : NestTable) (n : Nest) : List Field :=
  (List.range 6).flatMap (fun l =>
    let b := 0x1980 + 32 * l
    [(b, 2, n.ix.getD l 0), (b + 2, 4, t.addrAt (t.fld 8 22) 0 n.ix), (b + 6, 4, t.addrAt (t.fld 37 22) 1 n.ix),
     (b + 10, 2, t.addrAt (t.fld 89 8) 2 n.ix), (b + 12, 1, if n.parked then 1 else 0)])

/-- The six operand slots of a CMD record (R330): the g values and then each handle as its VBASE. A CPYD has nine operands: its
offsets and length are below 2^32 and share slots (log entry 101). -/
def Cmd.slots (c : Cmd) : List Nat :=
  let g (i : Nat) : Nat := c.gs.getD i 0 % 2 ^ 32
  let hs := c.hs.map (·.vbase)
  match c.ins with
  | .cpyd _ _ _ _ => [g 0 + g 1 * 2 ^ 32, g 2 + g 5 * 2 ^ 32, g 3 % 16 + g 4 % 16 * 16] ++ hs
  | _ => c.gs ++ hs
/-- The g values in the slots of a record, and how many handles follow them from which slot. -/
def slotValues (i : Instr) (l : List Nat) : List Nat × List Nat :=
  let x (n : Nat) : Nat := l.getD n 0
  match i with
  | .cpyd _ _ _ _ =>
    ([x 0 % 2 ^ 32, x 0 / 2 ^ 32, x 1 % 2 ^ 32, x 2 % 16, x 2 / 16 % 16, x 1 / 2 ^ 32], l.drop 3)
  | .cpy _ _ _ _ => (l.take 4, l.drop 4)
  | .merge _ _ => (l.take 4, [])
  | .coll _ _ _ => (l.take 2, [])
  | .tier _ _ _ => (l.take 2, (l.drop 2).take 1)
  | .pfs _ _ _ => (l.take 4, (l.drop 4).take 1)
  | .ratt _ _ _ | .kapp _ _ | .krel _ _ => (l.take 1, [])
  | _ => ([], [])

/-- A CMD record (R330, R373): the word, its state, the next chunk, the operands read at issue. -/
def Cmd.record (c : Cmd) (started : Bool) : Nat :=
  c.w % 2 ^ 32 + (if started then 2 else 1) * 2 ^ 32 + (if started then c.chunk else 0) % 2 ^ 64 * 2 ^ 64 +
    ((c.slots.take 6).zipIdx).foldl (fun a e => a + e.1 % 2 ^ 64 * 2 ^ (128 + 64 * e.2)) 0

/-- The non-detached entries of the sequencer's task. -/
def Seq.ownCmds (q : Seq) : List Cmd := q.cmds.filter (fun c => !c.det && c.launch == q.task.launch)

/-- The entries of a list in queue `n`, and those that wait for room there. -/
def inOrder (l : List Cmd) (n : Nat) : List Cmd × List Cmd :=
  let x := l.filter (fun c => c.q == n)
  (x.take 32, x.drop 32)

/-- CMD: queue by queue, entry by entry. -/
def cmdFields (l : List Cmd) : List Field :=
  (List.range 16).flatMap (fun n =>
    ((inOrder l n).1.zipIdx).map (fun e => (0xA0000 + 2048 * n + 64 * e.2, 64, e.1.record e.1.start.isSome)))

/-- The quadrants that a sequencer owns (R29). -/
def State.ownQuads (s : State) (sid : Nat) : List Nat := (List.range 4).filter (fun i =>
  !s.split sid || (sqOf sid == 0) == decide (i < 2))

/-- The full frame (R330). -/
def State.fullFields (s : State) (sid code t wrn : Nat) : List Field :=
  let q := s.seq sid
  let c := s.core (coreKey sid)
  let b (x : Bool) (i : Nat) : Nat := if x then 2 ^ i else 0
  [(0, 1, code), (1, 1, if code < 8 then 1 else 0), (2, 1, q.ecol), (4, 2, q.pc), (6, 1, q.lstk.length),
   (7, 1, b q.ut 0 + b q.tact 1 + b q.desync 2 + q.pl * 8), (8, 8, t), (0x10, 8, s.seqid sid), (0x18, 2, q.p.toNat),
   (0x1A, 2, q.pendMask), (0x1C, 2, q.targField), (0x1E, 1, q.pcol), (0x20, 4, q.shape.toNat)] ++ q.stickyFields 0x28 wrn ++
  [(0x50, 8, s.dlineLeft sid), (0x58, 8, q.tvec.toNat), (0x60, 8, q.tpos.toNat), (0x68, 8, q.tcause.toNat),
   (0x70, 8, q.ttime.toNat), (0x78, 8, q.frame.toNat)] ++ loopFields 0x80 q.lstk ++
  (List.range 64).map (fun n => (0x400 + 8 * n, 8, q.gn n)) ++
  (List.range 16).map (fun n => (0x600 + 16 * n, 16, (q.hr n).bits)) ++
  (List.range 16).map (fun n => (0x700 + 16 * n, 16, (q.kr n).bits.toNat)) ++
  [(0x800, 2, (List.range 16).foldl (fun a n => a + b (q.kr n).tag n) 0)] ++
  (List.range 16).flatMap (fun j =>
    let r := q.ring j
    (List.range 16).map (fun i => (0x1000 + 128 * j + 4 * i, 4, (Fm.get 0 r.ent i).toNat)) ++
      [(0x1040 + 128 * j, 1, r.cnt), (0x1041 + 128 * j, 1, r.nxt)]) ++
  tableFields 0x1800 q.shadow ++ tableFields 0x1900 q.active ++ progressFields q.active q.nest ++
  (s.ownQuads sid).flatMap (fun i =>
    let x : Quad := Fm.get {} c.quads i
    [(0x1C00 + 16 * i, 1, if x.by_ == some sid then x.src else 0), (0x1C04 + 16 * i, 4, x.addr), (0x1C08 + 16 * i, 1, x.fmt)]) ++
  (List.range 16).map (fun n => (0x4000 + 4096 * n, 4096, (s.tile sid n).toNat)) ++
  (List.range 8).map (fun n => (0x14000 + 2048 * n, 2048, (q.mr n).toNat)) ++
  (List.range (s.accRows sid)).map (fun r => (0x20000 + 2048 * r, 2048, (s.accRow sid r).toNat)) ++ cmdFields q.ownCmds

/-- Where the full frame of a task lies (R329). -/
def State.frameVa (s : State) (sid : Nat) : Nat :=
  let q := s.seq sid
  if q.frame = 0 then s.slotVa q.task.part q.task.slot else q.frame.toNat

/-! ## Owned queues (R25, R29, R39) -/

/-- The physical queues that a sequencer owns. -/
def State.ownQueues (s : State) (sid : Nat) : List Nat := if s.split sid then span (8 * sqOf sid) 8 else List.range 16

/-- The owned queues are emptied: each discarded entry returns its credit as a pop does (R331). Answers whether there was one. -/
def State.emptyQueues (s : State) (sid : Nat) : Bool × State :=
  let core := coreKey sid
  [0, 1].foldl (fun st kind =>
    (s.ownQueues sid).foldl (fun (st : Bool × State) n =>
      let items := (st.2.core core).queue kind n
      if items.isEmpty then st
      else
        let s' := st.2.updCore core (fun c => c.setQueue kind n [])
        (true, items.foldl (fun s it => s.returnCredit core kind n it (s.seq sid).task.part) s')) st) (false, s)

/-- The pushes and pops of a sequencer that still wait are abandoned. -/
def State.dropWaits (s : State) (sid : Nat) : State :=
  let mine (w : PortWait) : Bool := match w with
    | .push _ i _ _ => i == sid
    | .rsv _ i _ => i == sid
  let clean (p : Port) : Port := { p with pend := p.pend.filter (fun w => !mine w) }
  let s := s.updCore (coreKey sid) (fun c => { c with
    pops := c.pops.filter (fun w => w.sid != sid)
    oport := c.oport.map (fun e => (e.1, clean e.2))
    lport := c.lport.map (fun e => (e.1, clean e.2)) })
  let ids := s.syncs.flatMap (fun e => (e.2.waiters.filter (fun a => a.sid == sid)).map (·.id)) ++
    s.gates.flatMap (fun e => (e.2.waiters.filter (fun r => r.sid == sid)).map (·.id))
  let s : State := { s with
    syncs := s.syncs.map (fun e => (e.1, { e.2 with waiters := e.2.waiters.filter (fun a => a.sid != sid) }))
    gates := s.gates.map (fun e => (e.1, { e.2 with waiters := e.2.waiters.filter (fun r => r.sid != sid) })) }
  s.updSeq sid (fun q => { q with outst := q.outst.filter (fun o => !ids.contains o.id) })

/-! ## The end of a task on its half -/

/-- The schedulers of a die look at their pools in this cycle. -/
def State.schedWake (s : State) (die : Nat) : State := s.after 0 8 2 .schedulerPlacement (.die die)

/-- Whether a lane performs a copy: one that has started, is not stopped and is not done (R371). -/
def Seq.copying (q : Seq) : Bool :=
  q.cmds.any (fun c => !c.det && c.start.isSome && !c.paused && (match c.ins with
    | .cpy _ _ _ _ => true
    | _ => false))
/-- What a half keeps when a task leaves it: engine entries, path counters, outstanding accesses. A lane whose copy was stopped is
free. -/
def Seq.vacant (q : Seq) : Seq :=
  { task := q.task, cmds := q.cmds, cmdOrd := q.cmdOrd, laneFree := if q.copying then q.laneFree else 0, mergeFree := q.mergeFree, paths := q.paths,
    outst := q.outst, claim := q.claim }

/-- The half becomes free; it passes to the entry that has reserved it (R309). -/
def State.freeHalf (s : State) (sid : Nat) : State :=
  ((s.updSeq sid Seq.vacant).passedYield sid true).schedWake (dieOf sid)

/-- A frame-pool slot is free again. -/
def State.freeSlot (s : State) (part slot : Nat) : State :=
  s.updPart part (fun p => { p with slots := p.slots.erase slot })

/-! ## What a save waits for -/

/-- Whether an event brings a result to a sequencer. -/
def Ev.bringsTo (e : Ev) (sid : Nat) : Bool :=
  match e.arg with
  | .land i _ => i == sid
  | .deliver a _ _ _ _ => a.sid == sid
  | .bload b => b.sid == sid
  | _ => false

/-- Whether everything that a task has issued has completed: accesses, results, its nest, and the engine entries that run on to
a boundary or to their end. A collective entry that has started is recorded as it is. -/
def State.settled (s : State) (sid : Nat) : Bool :=
  let q := s.seq sid
  q.outst.all (·.done s.now) && !s.agenda.any (·.bringsTo sid) && !q.nest.live && !q.sfence &&
  !q.ownCmds.any (fun c => c.start.isSome && !c.paused && (match c.ins with
    | .coll _ _ _ => false
    | _ => true))

/-- FULL_FRAME_SAVE (R331): it begins when every access that the task has issued has completed, and ends at most 420 cycles
later. -/
def execFullFrameSave (s : State) : Host.Outcome State Fault Refusal :=
  match s.arg with
  | .half sid code =>
    if (s.seq sid).run ≠ .ending code then .next s
    else
      let s := s.dropWaits sid
      if !s.settled sid then .next (s.after 1 8 sid .fullFrameSave (.half sid code))
      else
        let s := s.updSeq sid (fun q => { q with run := .saving code })
        let t := s.ptime (s.seq sid).task.part
        .next (s.drew.after (s.drawVal % (Config.saveBound + 1)) 8 sid .fullFrameSaveEnd (.seqN sid t))
  | _ => .next s

/-- The saved task of a half, as the scheduler keeps it. -/
def State.savedOf (s : State) (sid : Nat) (full : Bool) (code : Nat) (lost : Bool) : Saved :=
  let q := s.seq sid
  { sid := sid, home := sid, task := q.task, full := full, code := code, ybound := q.ybound, frameVa := s.frameVa sid,
    ready := !full, qlost := lost, hs := if full then (List.range 16).map q.hr else [],
    cmds := if full then q.ownCmds else [], nest := if full then q.nest else {}, faultVa := q.faultVa,
    masks := (List.range 4).map (fun i => (Fm.get {} (s.core (coreKey sid)).quads i : Quad).mask) }

/-- The tier sequencer reports in a cycle that is not promised whether the page that a task waits for is resident (R312, R331,
log entry 102). -/
def State.awaitPage (s : State) (part va : Nat) : State :=
  s.drew.after (1 + s.drawVal) 8 2 .schedulerPlacement (.page part va 0)

/-- The save of a frame reads storage: a double-bit error in what it saves reads as zeros and is recorded (R334). A yield frame holds
loop levels and the live g registers, a full frame everything. -/
def State.noteFrame (s : State) (sid : Nat) (live : Option Nat) : State :=
  let spots := (s.seq sid).upset.filter (fun x => match live, x with
    | none, _ => true
    | some l, .g n => decide (n < 29) && bit l n
    | some _, .level _ => true
    | some _, _ => false)
  let rows := if live.isSome then [] else (s.core (coreKey sid)).badRows.filter (fun x =>
    (List.range (s.accRows sid)).any (fun r => s.physRow sid r == x.1))
  (spots.map (fun _ => ()) ++ rows.map (fun _ => ())).foldl (fun s _ => s.uncorrectableNow sid 0 0xFFFFFFF) s

/-- FULL_FRAME_SAVE_END (R331): the frame is written, the notice of R335 is given, the half becomes free. -/
def execFullFrameSaveEnd (s : State) : Host.Outcome State Fault Refusal :=
  match s.arg with
  | .seqN sid t =>
    match (s.seq sid).run with
    | .saving code =>
      let (lost, s) := (s.noteFrame sid none).emptyQueues sid
      let q := s.seq sid
      let part := q.task.part
      let va := s.frameVa sid
      let wrn := if lost then (q.wrn ||| 0x40).toNat else q.wrn.toNat
      let s := s.writeFrame part va 720896 (s.fullFields sid code t wrn)
      let sv := s.savedOf sid true code lost
      let s : State :=
        if code < 8 then { s with fatalSlots := s.fatalSlots ++ [{ part := part, slot := q.task.slot }] }
        else { s with saved := s.saved ++ [sv] }
      let s := if code < 8 then s.noticeOf part 3 code sid va q.endedAt
        else if code = 9 then s.noticeOf part 4 9 sid va q.endedAt else s
      let s := s.updSeq sid (fun q => { q with cmds := q.cmds.filter (fun c => c.det || c.launch != q.task.launch) })
      let s := if code = 8 then s.awaitPage part sv.faultVa else s
      .next (s.freeHalf sid)
    | _ => .next s
  | _ => .next s

/-- FATAL_FRAME_FREE (R328): the supervisor has read a fatal frame; its slot is free. -/
def execFatalFrameFree (s : State) : Host.Outcome State Fault Refusal :=
  match s.arg with
  | .frame part slot =>
    if s.fatalSlots.contains { part := part, slot := slot } then
      let s : State := { s with fatalSlots := s.fatalSlots.erase { part := part, slot := slot } }
      .next ((s.freeSlot part slot).after 0 8 2 .schedulerPlacement .none)
    else .next s
  | _ => .next s

/-! ## Reading frames back -/

/-- `n` bytes at an offset of a frame. -/
def State.frameGet (s : State) (part va off n : Nat) : Nat := (s.vpeek part (va + off) n).1

/-- LOOPS of a frame. -/
def State.frameLoops (s : State) (part va base n : Nat) : List LoopLevel :=
  (List.range (min 6 n)).map (fun l =>
    let x := s.frameGet part va (base + 16 * l) 12
    { count := bits x 0 32, index := bits x 32 32, start := bits x 64 16, len := bits x 80 16 })

/-- PEND, TARG and PCOL refill the pending set (R329): the columns of events above the lowest are in no frame, and free. -/
def refill (mask col : Nat) (free : Nat) : List Pending :=
  match onesOf mask 16 with
  | [] => []
  | c :: r => { code := c + 16, col := col } :: r.map (fun c => { code := c + 16, col := free / 8 ^ c % 8 })

/-- The bits of ERRS that have a field (R49). -/
def errsMask : Nat := 0xFFFFFFF3F

/-- The sticky and control registers of a frame. -/
def State.frameSticky (s : State) (part va base : Nat) (q : Seq) : Seq :=
  let x (i : Nat) : Nat := s.frameGet part va (base + 8 * i) 8
  { q with wrn := BitVec.ofNat 8 (x 0), fstat := BitVec.ofNat 5 (x 1), fctl := bit (x 2) 0, trapMode := bit (x 3) 0,
           hcyc := bits (x 3) 32 32, errs := BitVec.ofNat 64 (x 4 &&& errsMask) }

/-- The registers of a yield frame over the start values (R39, R329). -/
def State.restoreYield (s : State) (sv : Saved) (q : Seq) (free : Nat) : Seq :=
  let part := sv.task.part
  let va := s.slotVa part sv.task.slot + 0xB0000
  let x (o n : Nat) : Nat := s.frameGet part va o n
  let q := s.frameSticky part va 0x10 q
  { q with
    p := BitVec.ofNat 16 (x 8 2), lstk := s.frameLoops part va 0x40 (x 2 1)
    g := (onesOf (x 4 4) 29).foldl (fun g n => Fm.set g n (BitVec.ofNat 64 (x (0xA0 + 8 * n) 8))) []
    pend := refill (x 0xA 2) (x 0xE 1 % 8) free, targ := x 0xC 2, pc := x 0 2
    wrn := if sv.qlost then q.wrn ||| 0x40 else q.wrn }

/-- A handle of a full frame (R298): V stays only where its generation is current and its page is resident, and neither was
moved nor has a changed shadow entry since the save. `kept` is the hidden base that the hardware kept of it. -/
def State.revalidate (s : State) (sv : Saved) (kept h : Handle) : Handle :=
  let part := sv.task.part
  match s.walk part h.vbase with
  | none => { h with v := false }
  | some (e, sz, _) =>
    let n := s.handleOf part h.vbase e sz
    let gone := sv.gone.any (fun x => decide (x.1 < h.vbase + pageSize h.sz) && decide (h.vbase < x.1 + x.2))
    let moved := kept.v && kept.vbase == h.vbase && kept.base != n.base
    if s.valid part h && bit e 2 && !gone && !moved && decide ({ n with rp := h.rp, base := h.base } = h) then
      { n with rp := h.rp || n.rp }
    else { h with v := false }

/-- A page of an engine entry, translated from its VBASE again (R332); a page that is not there holds nothing. -/
def State.handleAt (s : State) (part va : Nat) : Handle :=
  match s.walk part va with
  | some (e, sz, _) => if bit e 2 then s.handleOf part va e sz else { vbase := va, base := dieBase 8 }
  | none => { vbase := va, base := dieBase 8 }

/-- A CMD record read back (R332): the word is decoded again, its handles are translated again, and a started copy goes on at its
chunk. What the record does not hold is as the hardware kept it. -/
def State.ofRecord (s : State) (part : Nat) (kept : Cmd) (x : Nat) : Cmd :=
  let w := bits x 0 32
  let ins := match decodeWord w none with
    | .ok d => if d.eng = 7 then d.ins else kept.ins
    | .error _ => kept.ins
  let v := slotValues ins ((List.range 6).map (fun i => bits x (128 + 64 * i) 64))
  let c := { kept with w := w, ins := ins, gs := v.1, hs := v.2.map (s.handleAt part) }
  let started := bits x 32 32 == 2
  match ins with
  | .cpy _ _ _ _ | .cpyd _ _ _ _ =>
    if started then { c with start := some (kept.start.getD s.now), paused := true, chunk := bits x 64 64 }
    else { c with start := none, paused := false, chunk := 0 }
  | .coll _ _ _ => if started then kept else { c with start := none }
  | .qfence m => { c with fence := some m.toNat, start := none }
  | _ => { c with start := none, paused := false }

/-- The entries of the CMD field of a full frame on half `sid`, queue by queue. -/
def State.frameCmds (s : State) (sv : Saved) (sid : Nat) : List Cmd :=
  let part := sv.task.part
  let x := s.frameGet part sv.frameVa 0xA0000 32768
  (List.range 16).flatMap (fun n =>
    let (l, more) := inOrder sv.cmds n
    ((List.range 32).filterMap (fun e =>
      let r := bits x (8 * (2048 * n + 64 * e)) 512
      let kept := l.getD e { q := n, issue := s.now, ord := s.nextId + e, id := s.nextId + 32 * n + e, launch := sv.task.launch,
                             part := part, gen := s.gen part, yb := sv.ybound, pt := s.ptime part }
      if bits r 32 32 = 0 ∨ sv.doneCmds.contains kept.id then none
      else some { s.ofRecord part kept r with sid := sid })) ++ more.map (fun c => { c with sid := sid }))

/-- A loop-nest table of a frame. -/
def State.frameTable (s : State) (part va base : Nat) : NestTable :=
  { lvl := (List.range 6).map (fun l => (l, BitVec.ofNat 80 (s.frameGet part va (base + 16 * l) 10)))
    glob := BitVec.ofNat 128 (s.frameGet part va (base + 0x60) 16) }

/-- The registers of a full frame (R330, R332). -/
def State.restoreFull (s : State) (sv : Saved) (sid : Nat) (q : Seq) (free : Nat) : Seq :=
  let cmds := s.frameCmds sv sid
  let part := sv.task.part
  let va := sv.frameVa
  let x (o n : Nat) : Nat := s.frameGet part va o n
  let fl := x 7 1
  let q := s.frameSticky part va 0x28 q
  let n := sv.nest
  { q with
    pc := x 4 2, ut := bit fl 0, tact := bit fl 1, desync := bit fl 2 || !bit fl 0, pl := bits fl 3 2
    p := BitVec.ofNat 16 (x 0x18 2), pend := refill (x 0x1A 2) (x 0x1E 1 % 8) free, targ := x 0x1C 2
    shape := BitVec.ofNat 18 (x 0x20 4), tvec := BitVec.ofNat 16 (x 0x58 8), tpos := BitVec.ofNat 19 (x 0x60 8)
    tcause := BitVec.ofNat 12 (x 0x68 8), ttime := BitVec.ofNat 64 (x 0x70 8), frame := BitVec.ofNat 64 (x 0x78 8 / 2 ^ 16 % 2 ^ 40 * 2 ^ 16)
    lstk := s.frameLoops part va 0x80 (x 6 1)
    g := (List.range 64).map (fun i => (i, BitVec.ofNat 64 (x (0x400 + 8 * i) 8)))
    h := (List.range 16).map (fun i => (i, s.revalidate sv (sv.hs.getD i {}) (handleOfBits (x (0x600 + 16 * i) 16))))
    k := (List.range 16).map (fun i =>
      (i, { bits := BitVec.ofNat 128 (x (0x700 + 16 * i) 16), tag := bit (x 0x800 2) i }))
    rings := (List.range 16).map (fun j =>
      (j, { ent := (List.range 16).map (fun i => (i, BitVec.ofNat 32 (x (0x1000 + 128 * j + 4 * i) 4))),
            cnt := x (0x1040 + 128 * j) 1, nxt := x (0x1041 + 128 * j) 1 }))
    shadow := s.frameTable part va 0x1800, active := s.frameTable part va 0x1900
    nest :=
      if x 0x198C 1 % 2 = 1 then
        { n with live := true, parked := false, stop := 0, posted := false,
                 ix := (List.range 6).map (fun l => x (0x1980 + 32 * l) 2),
                 slip := (match n.todo with
                   | (d, _) :: _ => s.now - d
                   | [] => 0) }
      else {}
    v := (List.range 16).map (fun i => (i, BitVec.ofNat 32768 (x (0x4000 + 4096 * i) 4096)))
    m := (List.range 8).map (fun i => (i, BitVec.ofNat 16384 (x (0x14000 + 2048 * i) 2048)))
    cmds := q.cmds ++ cmds
    cmdOrd := cmds.foldl (fun a c => max a (c.ord + 1)) q.cmdOrd }

/-- The accumulators of a full frame. -/
def State.restoreAcc (s : State) (sid va : Nat) : State :=
  let part := (s.seq sid).task.part
  (List.range (s.accRows sid)).foldl (fun s r =>
    s.setAccRow sid r (BitVec.ofNat 16384 (s.frameGet part va (0x20000 + 2048 * r) 2048))) s

/-- WSTATE of quadrant `i` in a frame: source, address, format. -/
def State.wstate (s : State) (part va i : Nat) : Nat × Nat × Nat :=
  (s.frameGet part va (0x1C00 + 16 * i) 1, s.frameGet part va (0x1C04 + 16 * i) 4, s.frameGet part va (0x1C08 + 16 * i) 1)

/-- A reload of weights from the scratchpad: the mask that the B block is for, the quadrants that are reloaded from it, address,
format. -/
structure Reload where
  whole : Nat
  quads : Nat
  addr : Nat
  fmt : Nat
  deriving DecidableEq, Repr

/-- The quadrants that one MLDB loaded from the scratchpad are reloaded together (R330): the hardware keeps the mask of each. -/
def State.reloads (s : State) (sv : Saved) (own : List Nat) : List Reload :=
  let ws := (own.map (fun i => (i, s.wstate sv.task.part sv.frameVa i))).filter (fun e => e.2.1 == 1)
  let of (e : Nat × Nat × Nat × Nat) : Nat × Nat × Nat :=
    (if bit (sv.masks.getD e.1 0) e.1 then sv.masks.getD e.1 0 else 2 ^ e.1, e.2.2)
  (ws.map of).eraseDups.map (fun w =>
    { whole := w.1, quads := (ws.filter (fun e => of e == w)).foldl (fun m e => m + 2 ^ e.1) 0, addr := w.2.1, fmt := w.2.2 })

/-- Whether the partner of a FUSED core loaded a quadrant. -/
def State.byPartner (s : State) (sid i : Nat) : Bool :=
  !s.split sid && (Fm.get {} (s.core (coreKey sid)).quads i : Quad).by_ == some (partner sid)

/-- The weights come back: from the scratchpad, or poisoned where they came from a queue (R302, R330). A quadrant that the task had
not loaded holds its reset contents, unless the partner loaded it (log entry 103). -/
def State.restoreWeights (s : State) (sid : Nat) (sv : Saved) : State :=
  let own := s.ownQuads sid
  let core := coreKey sid
  let s := (s.reloads sv own).foldl (fun s w =>
    ((List.range (loadTime 0 w.fmt w.whole)).foldl (fun s j =>
      s.placeSome core w.whole w.quads w.fmt (32 * j) (s.spadBlocks sid (w.addr + 2048 * j))) s).loadedQuads sid w.quads w.whole w.fmt 1
        w.addr true) s
  own.foldl (fun s i =>
    let w := s.wstate sv.task.part sv.frameVa i
    if w.1 = 1 ∨ (w.1 ≠ 2 ∧ s.byPartner sid i) then s
    else s.updCore core (fun c => { c with quads := Fm.upd {} c.quads i (fun q =>
      if w.1 = 2 then { q with poison := true, src := 2, addr := w.2.1, fmt := w.2.2, by_ := some sid }
      else { fmt := w.2.2, poison := q.poison }) })) s

/-- A task that begins has loaded no quadrant: WSTATE names no source (R330). What the partner of a FUSED core loaded stays its
own. -/
def State.clearWstate (s : State) (sid : Nat) : State :=
  let own := s.ownQuads sid
  s.updCore (coreKey sid) (fun c => { c with quads := c.quads.map (fun e =>
    if own.contains e.1 && !s.byPartner sid e.1 then (e.1, { e.2 with src := 0, addr := 0 }) else e) })

/-- LB of the quadrants that a restore reloads (R332). -/
def State.reloadTime (s : State) (sv : Saved) (own : List Nat) : Nat :=
  (s.reloads sv own).foldl (fun a w => a + loadTime 0 w.fmt w.quads) 0

/-- Paused copies of the sequencer's task go on at their chunks, and entries that have not started may. -/
def State.resumeCmds (s : State) (sid : Nat) : State :=
  let s := (s.seq sid).ownCmds.foldl (fun s c =>
    if c.paused then
      let s := s.laneFrom c c.chunk s.now
      match s.cmd sid c.id with
      | some d => s.doneAt (max (s.now + 1) (d.ops.by (dieOf sid) (d.start.getD s.now) d.ops.len)) sid c.id .cpyDone
      | none => s
    else s) s
  s.kick sid

end Sys2Proof.Machine
end

