-- ==== Sys2Proof/Machine/Sched.lean ====
section
/-! DEFINITION. The schedulers of the compute dies (R38, R39, R305 to R313, R326, R329, R332): launches, placement, time slices,
the begin of a launch, the resume of a saved task, the release of a half. -/

namespace Sys2Proof.Machine

open Sys2Proof

/-! ## Images (R406, R408) -/

/-- An image-table entry: the layout of its 64 bytes is the model's (log entry 43). -/
structure Image where
  st : Nat
  reason : Nat
  ntt : Nat
  base : Nat
  code : Nat
  tts : Nat
  digest : Nat
  deriving DecidableEq, Repr

/-- The device-physical address of an image-table entry. -/
def State.imageAt (s : State) (part img : Nat) : Nat := (s.part part).get 0x250 8 + 64 * (img % 4096)

/-- An image-table entry, read under key id 0. -/
def State.image (s : State) (part img : Nat) : Image :=
  let x := (s.peek (s.imageAt part img) 64 0).1
  { st := bits x 0 8, reason := bits x 8 8, ntt := bits x 32 8, base := bits x 64 64, code := bits x 128 64,
    tts := bits x 192 64, digest := bits x 256 256 }

/-- The 64 bytes of an entry. -/
def Image.word (i : Image) : Nat :=
  i.st % 256 + i.reason % 256 * 2 ^ 8 + i.ntt % 256 * 2 ^ 32 + i.base % 2 ^ 64 * 2 ^ 64 + i.code % 2 ^ 64 * 2 ^ 128 +
    i.tts % 2 ^ 64 * 2 ^ 192 + i.digest % 2 ^ 256 * 2 ^ 256

/-- FIRST, W and HANDLER of a timetable (R406). -/
def State.timetable (s : State) (i : Image) (tt : Nat) : Nat × Nat × Nat :=
  let x := (s.peek (i.tts + 16 * tt) 16 0).1
  (bits x 0 32, bits x 32 32, bits x 64 32)

/-- Q of R308. -/
def loadCycles (w : Nat) : Nat := 40 + cdiv (4 * w) 2048

/-- The words of a timetable enter the instruction store that the half addresses (R12, R310). -/
def State.loadWords (s : State) (sid code words : Nat) : State :=
  let n := min words (s.words sid)
  (blocksOf code (4 * n)).foldl (fun s t =>
    let b := s.peekBlock t.1 0
    let first := (t.2.1 - code) / 4
    (s.lookup t.1 false).updCore (storeKey sid) (fun c =>
      (List.range (t.2.2 / 4)).foldl (fun c i =>
        let w := s.physWord sid (first + i)
        { c with store := Fm.set c.store w (BitVec.ofNat 32 (bits b.data.toNat (8 * (t.2.1 - t.1) + 32 * i) 32))
                 badWords := if b.bad then w :: c.badWords else c.badWords.filter (· != w) }) c)) s

/-! ## Launch descriptors (R305, R306) -/

/-- The fields of a descriptor. -/
def Launch.parse (l : Launch) (d : Nat) : Launch :=
  { l with start := bits d 0 64, args := bits d 64 56, dep := bits d 120 56, img := bits d 176 12, tt := bits d 188 4,
           die := bits d 192 4, prio := bits d 196 2, exact := bit d 198, depv := bit d 199, ybound := 64 * bits d 200 16,
           mask := bits d 224 288 }

/-- The core halves of a launch, lowest bit of MASK first. -/
def Launch.halves (l : Launch) : List Nat := (onesOf l.mask 288).map (halfSid l.die)
/-- Q of a launch. -/
def Launch.q (l : Launch) : Nat := loadCycles l.words

/-- The physical address and key of a dependency object, where it is mapped with PERM atomic and TIER 0. -/
def State.objectAt (s : State) (part va : Nat) : Option (Nat × Nat) :=
  match s.walk part va with
  | none => none
  | some (e, sz, _) =>
    let h := s.handleOf part va e sz
    if bit e 2 && bit h.perm 2 && h.tier == 0 then some (h.base + (va - h.vbase) / 16 * 16, h.key) else none

/-- The first check of R306 that a launch fails; 0 where it passes all. One submitted before a reset completes has reason 3, whatever
its descriptor reads as under the new key (R343). -/
def State.launchReason (s : State) (l : Launch) : Nat :=
  let im := s.image l.part l.img
  let owned := (s.part l.part).get (0x10 + 36 * l.die) 36
  if l.early ∨ s.pstate l.part = 3 then 3
  else if im.st ≠ 2 ∨ im.ntt ≤ l.tt then 1
  else if 4 ≤ l.die ∨ (l.sidFrom < 8192 ∧ dieOf l.sidFrom ≠ l.die) then 2
  else if l.mask = 0 ∨ l.mask &&& owned ≠ l.mask then 3
  else if l.ybound = 0 ∨ 1048576 < l.ybound then 4
  else if l.depv ∧ (s.objectAt l.part l.dep).isNone then 5
  else if l.bad then 6
  else 0

/-- Whether SEQ of a launch's dependency object is not 0. -/
def State.depSeen (s : State) (l : Launch) : Bool :=
  match s.objectAt l.part l.dep with
  | some (pa, k) => (s.syncAt pa k).seq != 0
  | none => false

/-- A pool entry changed. -/
def State.updLaunch (s : State) (id : Nat) (f : Launch → Launch) : State :=
  { s with pool := s.pool.map (fun l => if l.id = id then f l else l) }
/-- A pool entry is free again. -/
def State.dropLaunch (s : State) (id : Nat) : State := { s with pool := s.pool.filter (fun l => l.id != id) }

/-- The schedulers look again at a launch when its partition's time has reached START − Q. -/
def State.timeWake (s : State) (l : Launch) : State :=
  s.push { cyc := max (s.now + 1) (s.cycleOf l.part (l.start - l.q)), cls := 8, key := 2, ins := .schedulerPlacement,
           arg := .partN l.part l.id }

/-- Validation of a received launch (R306); a refused one leaves the pool and is reported (R311). -/
def State.validate (s : State) (l : Launch) : State :=
  let l := l.parse l.desc.toNat
  let r := s.launchReason l
  if r ≠ 0 then
    ((s.dropLaunch l.id).noticeOf l.part 1 r l.sidFrom l.descVa (s.ptime l.part)).after 0 8 2 .schedulerPlacement .none
  else
    let im := s.image l.part l.img
    let (first, w, handler) := s.timetable im l.tt
    let l := { l with valid := true, words := w, first := first, handler := handler, code := im.code + 4 * first,
                      depReady := s.depSeen l }
    ((s.updLaunch l.id (fun _ => l)).schedWake l.die).timeWake l

/-- LAUNCH_RECEIVE (R127, R306): the descriptor is read at its home as a memory-class load; received, it is validated. -/
def execLaunchReceive (s : State) : Host.Outcome State Fault Refusal :=
  match s.arg with
  | .launch l h off =>
    let a : Access := { sid := l.sidFrom, addr := h.base + off, len := 64, key := h.key, cls := 1, part := l.part }
    if !(s.pool.any (fun x => x.id == l.id)) then .next s
    else match s.heldBy a with
    | some d => .next (s.withhold d a.addr 4 .launchReceive (.launch l h off))
    | none =>
      let (x, s) := s.loadBlocks a
      let s := s.updLaunch l.id (fun l => { l with desc := BitVec.ofNat 512 x.data, bad := x.bad.isSome })
      let far := if h.home = dieOf l.sidFrom then 150 else 190
      .next (s.push { cyc := max (s.now + 1) (l.age + far), cls := 8, key := 1, ins := .launchReceive, arg := .id l.id })
  | .id n =>
    match s.pool.find? (fun l => l.id == n) with
    | some l => .next (s.validate l)
    | none => .next s
  | _ => .next s

/-! ## Placement (R307 to R312) -/

/-- Frame-pool slots that no task has (R329). -/
def State.freeSlots (s : State) (part : Nat) : List Nat :=
  (List.range ((s.part part).get 0x248 2)).filter (fun n => !(s.part part).slots.contains n)

/-- Whether the schedulers place work of a partition: the Beacon is aligned (R303), the partition runs and no stop is in
progress. -/
def State.placing (s : State) (part : Nat) : Bool := s.hub.alDone && s.pstate part == 1 && !(s.part part).hold

/-- Whether a half's owner, the mode of a core of which one image names a half, or the scratchpad owner differs between two record
images (R348). -/
def halfAffected (old new : BitVec 8192) (sid : Nat) : Bool :=
  let x := old ^^^ new
  let d := dieOf sid
  bit (recGet x (0x10 + 36 * d) 36) (halfBit sid) || (bit (recGet x (0xA0 + 18 * d) 18) (4 * cluOf sid + coreOf sid) &&
      bits (recGet (old ||| new) (0x10 + 36 * d) 36) (8 * cluOf sid + 2 * coreOf sid) 2 != 0) ||
    bit (recGet x (0xF0 + 8 * d) 8) (cluOf sid)
/-- Whether a MODIFY that waits affects a half, or its cluster is being retired. -/
def State.halfShut (s : State) (sid : Nat) : Bool :=
  s.retiring.contains (spadOf sid) || s.parts.any (fun e => match e.2.modify with
    | some img => halfAffected e.2.img img sid
    | none => false)

/-- Whether a task runs on a half, or is placed there. -/
def State.halfBusy (s : State) (sid : Nat) : Bool := (s.seq sid).run != .idle

/-- What the scheduler may place: a launch or a saved task. -/
structure Cand where
  prio : Nat
  age : Nat
  ageKey : Nat
  /-- The halves of its mask; where `any`, those of which the lowest free one serves (R348). -/
  halves : List Nat
  any : Bool := false
  /-- The launch, or none for the saved task that `index` of its launch names. -/
  launch : Option Nat
  task : Task
  deriving DecidableEq, Repr

/-- What the entry is: a launch, or a saved task. -/
def Cand.who (c : Cand) : Option Nat × Task := (c.launch, c.task)

/-- Whether a partition holds a half (R336). -/
def State.ownsHalf (s : State) (part sid : Nat) : Bool :=
  bit ((s.part part).get (0x10 + 36 * dieOf sid) 36) (halfBit sid)
/-- Whether a partition holds every half of a launch's mask still: a loss or another record may have taken one (R336). -/
def State.launchStands (s : State) (l : Launch) : Bool :=
  l.mask &&& (s.part l.part).get (0x10 + 36 * l.die) 36 == l.mask

/-- Whether a launch is ready (R308). -/
def State.launchReady (s : State) (l : Launch) : Bool :=
  l.valid && l.placed.isNone && s.placing l.part && s.launchStands l && decide (l.start ≤ s.ptime l.part + l.q) && (!l.depv || l.depReady) &&
    decide (l.halves.length ≤ (s.freeSlots l.part).length)

/-- Halves of a partition on a die, lowest SEQID first. -/
def State.halvesOn (s : State) (part die : Nat) : List Nat :=
  let l := (onesOf ((s.part part).get (0x10 + 36 * die) 36) 288).map (halfSid die)
  l.foldl (fun r x => r.filter (· < x) ++ x :: r.filter (x < ·)) []

/-- Whether a saved task may go to any half: its own has left the partition (R312, R348, R349). -/
def State.freeToMove (s : State) (x : Saved) : Bool := x.anyHalf || !s.ownsHalf x.task.part x.home

/-- Order of placement: priority, then age (R309). -/
def Cand.before (a b : Cand) : Bool :=
  decide (b.prio < a.prio) || (a.prio == b.prio && (decide (a.age < b.age) || (a.age == b.age && (decide (a.ageKey < b.ageKey) ||
    (a.ageKey == b.ageKey && decide (a.task.index < b.task.index))))))
/-- A candidate placed in that order. -/
def insertCand (a : Cand) : List Cand → List Cand
  | [] => [a]
  | b :: r => if a.before b then a :: b :: r else b :: insertCand a r

/-- The ready launches and ready tasks of a die, in order. -/
def State.cands (s : State) (die : Nat) : List Cand :=
  let a := (s.pool.filter (fun l => l.die == die && s.launchReady l)).map (fun l =>
    ({ prio := l.prio, age := l.age, ageKey := l.ageKey, halves := l.halves, launch := some l.id, task := {} } : Cand))
  let b := (s.saved.filter (fun x => x.ready && x.placed.isNone && dieOf x.sid == die && s.placing x.task.part)).map (fun x =>
    ({ prio := x.task.prio, age := x.task.age, ageKey := x.task.ageKey, launch := none, task := x.task, any := s.freeToMove x,
       halves := if s.freeToMove x then s.halvesOn x.task.part die else [x.home] } : Cand))
  (a ++ b).foldl (fun l c => insertCand c l) []

/-- The first multiple of 1,024 at or after a partition time. -/
def ceil1024 (t : Nat) : Nat := cdiv t 1024 * 1024

/-- A launch is placed (R310): its halves are reserved for it, its frame slots taken; an exact start that is missed is a schedule
fault. -/
def State.placeLaunch (s : State) (id : Nat) : State :=
  match s.pool.find? (fun l => l.id == id) with
  | none => s
  | some l =>
    let c := s.ptime l.part
    if l.exact ∧ l.start < c + l.q then
      ((s.dropLaunch id).noticeOf l.part 2 0 l.sidFrom l.descVa c).schedWake l.die
    else
      let t := if l.exact then l.start else ceil1024 (max (c + l.q) l.start)
      let slots := (s.freeSlots l.part).take l.halves.length
      let s := s.updPart l.part (fun p => { p with slots := p.slots ++ slots })
      let s := s.updLaunch id (fun l => { l with placed := some t, slots := slots })
      let s := l.halves.foldl (fun s h => s.updSeq h (fun q => { q with run := .placed, claim := none })) s
      s.push { cyc := s.cycleOf l.part t, cls := 0, key := 0, ins := .launchBegin, arg := .id id }

/-- A saved task is placed on a half (R312, R332). -/
def State.placeSaved (s : State) (t : Task) (half : Nat) : State :=
  match s.saved.find? (fun x => x.task == t) with
  | none => s
  | some x =>
    let extra := if x.full then 420 + s.reloadTime x (s.ownQuads half) else 0
    let at_ := ceil1024 (s.ptime t.part + loadCycles t.words + extra)
    let s : State := { s with saved := s.saved.map (fun y =>
      if y.task = t then { y with placed := some at_, home := half, anyHalf := false } else y) }
    let s := s.updSeq half (fun q => { q with run := .placed, claim := none })
    s.push { cyc := s.cycleOf t.part at_, cls := 0, key := 0, ins := if x.full then .fullFrameRestore else .taskResume,
             arg := .seq half }

/-- Whether a candidate is ready still: an earlier placement may have taken the frame slots that a launch needs (R308, R329). -/
def State.stillReady (s : State) (c : Cand) : Bool :=
  match c.launch with
  | some id => s.pool.any (fun l => l.id == id && s.launchReady l)
  | none => true

/-- Whether a free half has passed to another entry, which is ready still: it is that entry's alone (R309, log entry 104). -/
def State.passed (s : State) (all : List Cand) (c : Cand) (h : Nat) : Bool :=
  match (s.seq h).claim with
  | some w => !s.halfBusy h && w != c.who && all.any (fun d => d.who == w)
  | none => false

/-- The halves that an entry needs: its mask, or the lowest free half of its partition on the die, where there is one (R348). -/
def State.needs (s : State) (all : List Cand) (res : List Nat) (c : Cand) : List Nat :=
  if c.any then
    (c.halves.filter (fun h => !s.halfBusy h && !s.halfShut h && !res.contains h && !s.passed all c h)).take 1
  else c.halves

/-- An entry reserves halves: those on which a task runs pass to it when the task gives them up (R309). -/
def State.reserve (s : State) (c : Cand) (l : List Nat) : State :=
  l.foldl (fun s h => if s.halfBusy h then s.updSeq h (fun q => { q with claim := some c.who }) else s) s

/-- The candidates of a die in order: each is placed where all its halves are free, else it reserves those that no earlier one
has (R309). -/
def State.placeAll (all : List Cand) : List Cand → List Nat → State → State
  | [], _, s => s
  | c :: r, res, s =>
    let hs := s.needs all res c
    if hs.isEmpty || hs.any s.halfShut || !s.stillReady c then State.placeAll all r res s
    else if hs.all (fun h => !s.halfBusy h && !res.contains h && !s.passed all c h) then
      State.placeAll all r res (match c.launch with
        | some id => s.placeLaunch id
        | none => s.placeSaved c.task (hs.headD 0))
    else
      let mine := hs.filter (fun h => !res.contains h && !s.passed all c h)
      State.placeAll all r (res ++ mine) (s.reserve c mine)

/-- The claims on the busy halves of a die are made anew at each look. -/
def State.unclaim (s : State) (die : Nat) : State :=
  { s with seqs := s.seqs.map (fun e =>
      if dieOf e.1 = die ∧ e.2.claim.isSome ∧ e.2.run ≠ .idle then (e.1, { e.2 with claim := none }) else e) }

/-- The highest claim on a busy half: the priority of the ready entry that has reserved it. -/
def reservedBy (sid : Nat) : List Cand → Option Nat
  | [] => none
  | c :: r => if !c.any && c.halves.contains sid then some c.prio else reservedBy sid r

/-- Whether TSTAT.SLEND is due in a running task: a ready entry of equal or higher priority has reserved its half (R312). -/
def State.wanted (s : State) (sid : Nat) : Bool :=
  let q := s.seq sid
  (q.run == .run || q.run == .halted) && !q.slend && (match reservedBy sid (s.cands (dieOf sid)) with
    | some p => decide (q.task.prio ≤ p)
    | none => false)

/-- The partition time at which a task has run its quantum. -/
def State.quantumEnd (s : State) (sid : Nat) : Nat :=
  let t := (s.seq sid).task
  t.since + (s.part t.part).get 4 4

/-- The end of the quantum of a task that stands in the way goes on the agenda. -/
def State.armSlice (s : State) (sid : Nat) : State :=
  if s.wanted sid && !s.agenda.any (fun e => decide (e.ins = .timeSliceEnd) && decide (e.arg = .seq sid)) then
    s.push { cyc := s.cycleOf (s.seq sid).task.part (s.quantumEnd sid), cls := 8, key := 3, ins := .timeSliceEnd, arg := .seq sid }
  else s

/-- One look of a die's scheduler at its pools. -/
def State.schedule (s : State) (die : Nat) : State :=
  let s := s.unclaim die
  let s := State.placeAll (s.cands die) (s.cands die) [] s
  (((s.cands die).filter (fun c => !c.any)).flatMap (·.halves)).foldl (fun s h => s.armSlice h) s

/-- TIME_SLICE_END (R312). -/
def execTimeSliceEnd (s : State) : Host.Outcome State Fault Refusal :=
  match s.arg with
  | .seq sid =>
    if !s.wanted sid then .next s
    else if s.ptime (s.seq sid).task.part < s.quantumEnd sid then .next (s.armSlice sid)
    else .next (s.updSeq sid (fun q => { q with slend := true }))
  | _ => .next s

/-- Whether an event is a request of sequencer `sid` to the release or to the gate units. -/
def Ev.restOf (sid : Nat) (e : Ev) : Bool :=
  match e.arg with
  | .rel i _ _ _ => i == sid
  | .greq r => r.sid == sid
  | _ => false

/-- Whether the words that a task issued before its END have all completed (R128). -/
def State.allDone (s : State) (sid : Nat) : Bool :=
  let c := s.core (coreKey sid)
  let mine (w : PortWait) : Bool := match w with
    | .push _ i _ _ => i == sid
    | .rsv _ i _ => i == sid
  s.settled sid && !s.agenda.any (·.restOf sid) && (s.seq sid).ownCmds.isEmpty && !c.pops.any (fun w => w.sid == sid) &&
    !c.oport.any (fun e => e.2.pend.any mine) && !c.lport.any (fun e => e.2.pend.any mine)

/-- Every die's scheduler looks at its pools. -/
def State.schedAll (s : State) : State := s.after 0 8 2 .schedulerPlacement .none

/-- SCHEDULER_PLACEMENT (R308, R309): the look of a die's scheduler; a released object, which is sampled; the time of a pending
launch; the residency of the page that a task waits for (R331); a task that has issued END, whose half is released when its words
have completed. -/
def execSchedulerPlacement (s : State) : Host.Outcome State Fault Refusal :=
  match s.arg with
  | .die d => .next (s.schedule d)
  | .none => .next ((List.range 4).foldl (fun s d => s.schedule d) s)
  | .id n =>
    let hit := s.pool.filter (fun l => l.valid && l.depv && ((s.objectAt l.part l.dep).map (fun x => x.1 / 16) == some n))
    let s := hit.foldl (fun s l => s.updLaunch l.id (fun l => { l with depReady := s.depSeen l })) s
    .next ((hit.map (·.die)).eraseDups.foldl (fun s d => s.schedule d) s)
  | .partN p id =>
    match s.pool.find? (fun l => l.id == id) with
    | none => .next s
    | some l =>
      if l.placed.isSome then .next s
      else if s.ptime p + l.q < l.start then .next (s.timeWake l)
      else .next (s.schedule l.die)
  | .page part va _ =>
    let waits (x : Saved) : Bool := x.full && x.code == 8 && !x.ready && x.task.part == part && x.faultVa == va
    if !s.saved.any waits then .next s
    else if (s.translate part va).isNone then .next (s.awaitPage part va)
    else .next { s with saved := s.saved.map (fun x => if waits x then { x with ready := true } else x) }.schedAll
  | .seq sid =>
    let q := s.seq sid
    if q.run ≠ .finishing then .next s
    else if !s.allDone sid then .next (s.after 1 8 4 .schedulerPlacement (.seq sid))
    else if isMgmt sid then .next (s.updSeq sid (fun q => { q with run := .idle }))
    else .next ((s.freeSlot q.task.part q.task.slot).freeHalf sid)
  | _ => .next s

/-! ## Begin and resume (R38, R39, R310, R332) -/

/-- The start values of R38 on a half; no result of an earlier task lands any more. A task that resumes from a yield frame has
them too where R39 and R329 name no value, in SHAPE, FRAME and TCAUSE; so has one that resumes from a full frame in SCR0 to SCR3,
which are in no frame (log entry 90). -/
def State.startHalf (s : State) (sid : Nat) (t : Task) (ybound : Nat) : State :=
  let s : State := { s with agenda := s.agenda.filter (fun e => !e.bringsTo sid) }
  let (_, s) := s.emptyQueues sid
  let s := (List.range (s.accRows sid)).foldl (fun s r => s.setAccRow sid r 0) s
  let s := (s.clearWstate sid).loadWords sid t.code t.words
  s.updSeq sid (fun q => { q.vacant with
    task := { t with since := s.ptime t.part }, ybound := ybound, tvec := BitVec.ofNat 16 t.handler,
    g := [(0, BitVec.ofNat 64 t.args), (1, BitVec.ofNat 64 t.index), (2, BitVec.ofNat 64 t.halves)] })

/-- The deadline fault goes on the agenda for the partition time at which a deadline expires (R123, R320). -/
def State.armDeadline (s : State) (sid : Nat) : State :=
  let q := s.seq sid
  match q.dline with
  | some t =>
    s.push { cyc := max s.now (s.cycleOf q.task.part t), cls := 9, key := sid, ins := .deadlineFault, arg := .seqN sid t }
  | none => s

/-- The task runs from word `pc` in the present cycle (R314): its deadline counts from here (R310, R312). -/
def State.goFrom (s : State) (sid pc : Nat) : State :=
  (s.updSeq sid (fun q => { q with
    run := .run, dline := some (s.ptime q.task.part + q.ybound), fpc := pc, frun := pc, fbase := s.now, fpos := 0, ffo := 0,
    fgrp := 0, fflo := 0, fstk := fetchStack q.lstk, fhold := false, fstop := false, fq := [], bq := [], joins := [],
    grp := 0, cols := [], floor := s.now, slip := 0, lastIssue := 0, heldAt := none })).armDeadline sid

/-- A launch that the partition's halves no longer bear goes back to the pool (R336). -/
def State.unplace (s : State) (l : Launch) : State :=
  let s := l.halves.foldl (fun s h => if (s.seq h).run = .placed then s.updSeq h (fun q => { q with run := .idle }) else s) s
  let s := s.updPart l.part (fun p => { p with slots := p.slots.filter (fun n => !l.slots.contains n) })
  (s.updLaunch l.id (fun l => { l with placed := none, slots := [] })).schedWake l.die

/-- A child begins: the RDC lines of the pages that are bound to its dependency object are dropped on its die, as for a granted ACQ
(R252, R308). -/
def State.acquired (s : State) (l : Launch) : State :=
  match l.depv, s.objectAt l.part l.dep with
  | true, some (pa, k) => s.dropPages l.die (s.syncAt pa k).pages
  | _, _ => s

/-- LAUNCH_BEGIN (R310): all tasks of the launch begin in one cycle. -/
def execLaunchBegin (s : State) : Host.Outcome State Fault Refusal :=
  match s.arg with
  | .id n =>
    match s.pool.find? (fun l => l.id == n) with
    | none => .next s
    | some l =>
      let t := l.placed.getD 0
      if !s.launchStands l then .next (s.unplace l)
      else if s.ptime l.part < t then
        .next (s.push { cyc := max (s.now + 1) (s.cycleOf l.part t), cls := 0, key := 0, ins := .launchBegin, arg := .id n })
      else
        let s := (l.halves.zipIdx).foldl (fun s e =>
          let k : Task := { part := l.part, launch := l.id, img := l.img, tt := l.tt, words := l.words, handler := l.handler,
                            code := l.code, prio := l.prio, age := l.age, ageKey := l.ageKey, slot := l.slots.getD e.2 0,
                            args := l.args, index := e.2, halves := l.halves.length }
          (s.startHalf e.1 k l.ybound).goFrom e.1 0) s
        .next (((s.acquired l).dropLaunch n).schedWake l.die)
  | _ => .next s

/-- The saved task that is placed on a half. -/
def State.placedOn (s : State) (sid : Nat) : Option Saved := s.saved.find? (fun x => x.home == sid && x.placed.isSome)

/-- Again when the partition's time has come. -/
def State.resumeAgain (s : State) (x : Saved) (sid : Nat) (i : Instr) : State :=
  s.push { cyc := max (s.now + 1) (s.cycleOf x.task.part (x.placed.getD 0)), cls := 0, key := 0, ins := i, arg := .seq sid }

/-- A saved task whose half is no longer the partition's is ready again (R336, R348). -/
def State.unplaceSaved (s : State) (x : Saved) (sid : Nat) : State :=
  let t : State := { s with saved := s.saved.map (fun y => if y = x then { y with placed := none, anyHalf := true } else y) }
  (t.updSeq sid (fun q => { q with run := .idle })).schedWake (dieOf sid)

/-- FULL_FRAME_RESTORE (R332): registers, accumulators, weights and engine entries of a full frame. -/
def execFullFrameRestore (s : State) : Host.Outcome State Fault Refusal :=
  match s.arg with
  | .seq sid =>
    match s.placedOn sid with
    | none => .next s
    | some x =>
      if !s.ownsHalf x.task.part sid then .next (s.unplaceSaved x sid)
      else if s.ptime x.task.part < x.placed.getD 0 then .next (s.resumeAgain x sid .fullFrameRestore)
      else
        let s := s.startHalf sid x.task x.ybound
        let free := s.drawVal
        let s := s.drew
        let s := s.updSeq sid (fun q => { s.restoreFull x sid q free with run := .placed })
        let s : State := { s with nextId := s.nextId + 512 }
        let s := s.vlookups x.task.part x.frameVa 0xB0000
        .next (((s.restoreAcc sid x.frameVa).restoreWeights sid x).after 0 0 1 .taskResume (.seq sid))
  | _ => .next s

/-- TASK_RESUME (R312): a yield frame's registers take their places and its pending events are delivered before the first word, as
after a stop at a YIELD (R123, R329); the repartition notice is pending after a forced change (R348). -/
def execTaskResume (s : State) : Host.Outcome State Fault Refusal :=
  match s.arg with
  | .seq sid =>
    match s.placedOn sid with
    | none => .next s
    | some x =>
      if !s.ownsHalf x.task.part sid then .next (s.unplaceSaved x sid)
      else if s.ptime x.task.part < x.placed.getD 0 then .next (s.resumeAgain x sid .taskResume)
      else
        let rest (s : State) : State := { s with saved := s.saved.erase x }
        if x.full then
          let pc := (s.seq sid).pc
          let s := (((rest s).goFrom sid pc).resumeCmds sid).nestGo sid
          .next (if x.code = 9 ∧ s.frameGet x.task.part (x.frameVa + 2) 0 1 = 0 then s.takeEvent sid pc else s)
        else
          let s := s.startHalf sid x.task x.ybound
          let free := s.drawVal
          let s := s.drew
          let s := s.updSeq sid (fun q => s.restoreYield x { q with g := [] } free)
          let s := s.vlookups x.task.part (s.slotVa x.task.part x.task.slot + 0xB0000) 512
          let s := s.updSeq sid (fun q => if x.notice then q.post 0x10 0 else q)
          .next (((rest s).goFrom sid (s.seq sid).pc).takeEvent sid (s.seq sid).pc)
  | _ => .next s

/-! ## YIELD gives the slot away (R39, R123, R312, R329) -/

/-- The yield frame is written, the owned queues are emptied, a nest is stopped and discarded; the half is free 32 cycles
later. -/
def State.giveAway (s : State) (sid live resume : Nat) : State :=
  let (lost, s) := (s.noteFrame sid (some live)).emptyQueues sid
  let s := s.updSeq sid (fun q => { q with slend := false, stopp := false, nest := { q.nest with stop := if q.nest.live then 3 else 0 } })
  let q := s.seq sid
  let part := q.task.part
  let s := s.writeFrame part (s.slotVa part q.task.slot + 0xB0000) 512 (yieldFields q live resume (s.ptime part) q.wrn.toNat)
  let sv := s.savedOf sid false 0 lost
  let s := s.updSeq sid (fun q => { q with run := .leaving, fq := [], joins := [], pc := resume, dline := none })
  s.after 32 8 sid .yieldHandover (.saved { sv with notice := s.halfShut sid })

/-- YIELD_HANDOVER (R312): the half is free, the task is ready. -/
def execYieldHandover (s : State) : Host.Outcome State Fault Refusal :=
  match s.arg with
  | .saved x =>
    if (s.seq x.sid).run ≠ .leaving then .next s
    else if (s.seq x.sid).nest.live then .next (s.after 1 8 x.sid .yieldHandover (.saved x))
    else .next ({ s with saved := s.saved ++ [x] }.freeHalf x.sid)
  | _ => .next s

end Sys2Proof.Machine
end

