-- ==== Sys2Proof/Machine/Partition.lean ====
section
/-! DEFINITION. Partition records and commands (R336 to R341, R347, R348, R359, R373, R383), and the retirement of clusters and
slices (R349, R350). -/

namespace Sys2Proof.Machine

open Sys2Proof

/-! ## Holdings of a record (R337) -/

/-- HALVES, MODE, CLUSTERS, SLICES and COPYSL of a record for a die. -/
def recHalves (img : BitVec 8192) (die : Nat) : Nat := if die < 4 then recGet img (0x10 + 36 * die) 36 else 0
def recMode (img : BitVec 8192) (die : Nat) : Nat := if die < 4 then recGet img (0xA0 + 18 * die) 18 else 0
def recClusters (img : BitVec 8192) (die : Nat) : Nat := if die < 4 then recGet img (0xF0 + 8 * die) 8 else 0
def recSlices (img : BitVec 8192) (die : Nat) : Nat := recGet img (0x110 + 4 * die) 4
/-- First context and count on attention die 4 + j. -/
def recCtx (img : BitVec 8192) (j : Nat) : Nat × Nat := (recGet img (0x1E0 + 4 * j) 2, recGet img (0x1E2 + 4 * j) 2)
/-- The valid key ids. -/
def recKeys (img : BitVec 8192) : List Nat :=
  (List.range 32).filterMap (fun i => let e := recGet img (0x190 + 2 * i) 2; if bit e 15 then some (bits e 0 11) else none)

/-- The records of the other partitions that are not free. -/
def State.others (s : State) (p : Nat) : List Part := (s.parts.filter (fun e => e.1 != p && e.2.get 2 1 != 0)).map (·.2)

/-- The clusters of a die in which a set of halves has one. -/
def clustersOf (halves : Nat) : List Nat := (List.range 36).filter (fun c => bits halves (8 * c) 8 != 0)

/-! ## The calendar grant list (R383) -/

/-- A grant-list entry. -/
def Grant.ofWord (w : Nat) : Grant :=
  { kind := bits w 0 2, die := bits w 2 4, unit := bits w 6 8, first := bits w 14 10, cnt := bits w 24 10, sb := bit w 62 }

/-- The entries of a list from an address, up to the first with V = 0. -/
def State.grantList (s : State) : Nat → Nat → List Grant
  | 0, _ => []
  | n + 1, a => let w := (s.peek a 8 0).1; if bit w 63 then Grant.ofWord w :: s.grantList n (a + 8) else []

/-- The length of the calendar that a grant is for. -/
def Grant.round (g : Grant) : Nat := if g.kind = 3 then 32 else 1024
/-- The slots that a grant names: place and slot. -/
def Grant.slots (g : Grant) : List (Nat × Nat × Nat × Nat) :=
  (List.range (g.cnt + 1)).map (fun i => (g.kind, g.die, g.unit, (g.first + i) % g.round))

/-- Whether two grants name a slot in common. -/
def Grant.meets (a b : Grant) : Bool :=
  a.kind == b.kind && a.die == b.die && a.unit == b.unit && a.slots.any (fun x => b.slots.contains x)

/-- Whether no slot is named twice in a list, by two grants or by one that runs around its calendar. -/
def grantsApart : List Grant → Bool
  | [] => true
  | g :: r => decide (g.cnt < g.round) && !r.any (g.meets ·) && grantsApart r

/-- The most entries that a list without repeated slots can hold. -/
def grantLimit : Nat := 2 ^ 20

/-! ## The checks of R338 -/

/-- Check 1: every resource named is free or held already. -/
def State.recFree (s : State) (p : Nat) (img : BitVec 8192) : Bool :=
  let apart (o : Part) : Bool :=
    (recGet img 0x10 144 &&& o.get 0x10 144) == 0 && (recGet img 0xF0 64 &&& o.get 0xF0 64) == 0 &&
    (recGet img 0x150 64 &&& o.get 0x150 64) == 0 && (recGet img 0x200 16 &&& o.get 0x200 16) == 0 &&
    (List.range 4).all (fun j => let a := recCtx img j; let b := recCtx o.img j
      decide (a.1 + a.2 ≤ b.1 ∨ b.1 + b.2 ≤ a.1 ∨ a.2 = 0 ∨ b.2 = 0))
  let cal := s.grantList grantLimit (recGet img 0x1F0 8)
  (s.others p).all apart &&
  (List.range 4).all (fun d =>
    decide (recClusters img d < 2 ^ 36) &&
    (onesOf (recClusters img d) 36 ++ clustersOf (recHalves img d)).all (fun c => !s.lostClusters.contains (36 * d + c))) &&
  (List.range 8).all (fun d => (onesOf (recSlices img d) 32).all (fun i => !s.lostSlices.contains (32 * d + i))) &&
  grantsApart cal && (s.others p).all (fun o => !cal.any (fun g => o.cal.any (g.meets ·)))

/-- Check 2: a FUSED core is named whole. -/
def recFused (img : BitVec 8192) : Bool :=
  (List.range 4).all (fun d => (List.range 144).all (fun k =>
    bit (recMode img d) k || bit (recHalves img d) (2 * k) == bit (recHalves img d) (2 * k + 1)))

/-- The clusters of a die that hold halves of two partitions. -/
def State.shared (s : State) (p die : Nat) (img : BitVec 8192) : List Nat :=
  (List.range 36).filter (fun c =>
    1 < ((recHalves img die :: (s.others p).map (fun o => recHalves o.img die)).filter (fun h => bits h (8 * c) 8 != 0)).length)

/-- Check 3: at most one cluster of a die holds halves of two partitions, and a cluster whose scratchpad a record names has no half
of another partition in it unless it is that one. -/
def State.recShared (s : State) (p die : Nat) (img : BitVec 8192) : Bool :=
  let both := s.shared p die img
  decide (both.length ≤ 1) && (onesOf (recClusters img die) 36).all (fun c =>
    both.contains c || !(s.others p).any (fun o => bits (recHalves o.img die) (8 * c) 8 != 0))

/-- Check 4: the slices of each die are whole domains in service that name the partition. -/
def State.recDomains (s : State) (p : Nat) (img : BitVec 8192) : Bool :=
  (List.range 8).all (fun die =>
    let m := recSlices img die
    let own := (List.range 16).foldl (fun a k =>
      let d := s.dom die k
      let x := (2 ^ (2 ^ d.l2c) - 1) * 2 ^ d.first
      if d.v && d.part == p && (x &&& m) == x then a ||| x else a) 0
    own == m)

/-- Check 6: sums over all partitions fit each die. -/
def State.recSums (s : State) (p : Nat) (img : BitVec 8192) : Bool :=
  let sum (off n : Nat) : Nat := (s.others p).foldl (fun a o => a + o.get off n) (recGet img off n)
  (List.range 8).all (fun d =>
    let t := recGet img (0x1D0 + 2 * d) 2
    decide (sum (0x130 + 4 * d) 4 ≤ 262144) && decide (sum (0x1D0 + 2 * d) 2 ≤ 3072) && (t == 0 || decide (16 ≤ t))) &&
  (List.range 4).all (fun j => decide ((recCtx img j).1 + (recCtx img j).2 ≤ 4096) && decide (sum (0x1E2 + 4 * j) 2 ≤ 4096))

/-- Core halves, clusters and slices named, module-wide. -/
def recCounts (img : BitVec 8192) : List Nat :=
  [popcount (recGet img 0x10 144) 1152, popcount (recGet img 0xF0 32) 256, popcount (recGet img 0x110 32) 256]
/-- MINH, MINCL, MINSL. -/
def recMins (img : BitVec 8192) : List Nat := [recGet img 0x212 2, recGet img 0x214 2, recGet img 0x216 2]

/-- The number of the first check of R338 that a record fails; 0 where it passes all. -/
def State.recReason (s : State) (p : Nat) (img : BitVec 8192) : Nat :=
  if !s.recFree p img then 1
  else if !recFused img then 2
  else if (List.range 4).any (fun d => !s.recShared p d img) then 3
  else if !s.recDomains p img then 4
  else if (recKeys img).any (fun k => k == 0 || (s.others p).any (·.hasKey k) || s.gates.any (fun g => g.2.st != 0 && g.2.key == k))
    then 5
  else if !s.recSums p img then 6
  else if ((recMins img).zip (recCounts img)).any (fun e => decide (e.2 < e.1)) then 7
  else if !bit (recGet img 0x200 16) (recGet img 0x210 1) then 8
  else 0

/-! ## Loading a record -/

/-- The record image at PADDR, under key id 0. -/
def State.imageAtPaddr (s : State) : BitVec 8192 := BitVec.ofNat 8192 (s.peek s.hub.paddr 1024 0).1

/-- PSTAT (R339). -/
def State.pstat (s : State) (res reason : Nat) : State := { s with hub := { s.hub with psRes := res, psReason := reason } }

/-- The contexts of a record are granted; EXP, for which the record has no field, is a free value (R361). -/
def State.grantContexts (s : State) (p : Nat) (old new : BitVec 8192) : State :=
  let x := s.drawVal
  (List.range 4).foldl (fun s j =>
    let off := span (recCtx old j).1 (recCtx old j).2
    let on := span (recCtx new j).1 (recCtx new j).2
    let s := off.foldl (fun s c => if on.contains c then s else s.updCtx (4 + j) c (fun k => { k with v := false })) s
    on.foldl (fun s c => if off.contains c then s else s.updCtx (4 + j) c (fun k => { k with owner := p, v := true, exp := bit x j })) s)
    s.drew

/-- A record takes force: core modes, contexts, keys and calendar follow it. -/
def State.loadRecord (s : State) (p : Nat) (img : BitVec 8192) : State :=
  let old := (s.part p).img
  let s := (List.range 4).foldl (fun s d => (onesOf (recHalves img d) 288).foldl (fun s b =>
    s.updCore (coreKey (halfSid d b)) (fun c => { c with split := bit (recMode img d) (b / 2) })) s) s
  let s := s.grantContexts p old img
  let s := (recKeys img).foldl (fun s k => s.giveKey k) s
  let cal := s.grantList grantLimit (recGet img 0x1F0 8)
  s.updPart p (fun x => { x with img := img, cal := cal })

/-- The fields that the hub keeps of its own record when a MODIFY loads another image: GEN, STATE, NDROP, CLAMP, GFLT, FOFF and
NPROD. -/
def keepHubFields (old new : BitVec 8192) : BitVec 8192 :=
  [(1, 1), (2, 1), (0x238, 4), (0x258, 4), (0x260, 8), (0x268, 8), (0x270, 8)].foldl (fun x f => recSet x f.1 f.2 (recGet old f.1 f.2)) new

/-- Gates that a partition owns, in a state. -/
def State.ownGates (s : State) (p st : Nat) : List Nat := (s.gates.filter (fun e => e.2.owner == p && e.2.st == st)).map (·.1)
/-- A partition's time has taken another value: its active gates refill at the next multiple of that (R355). -/
def State.rearm (s : State) (p : Nat) : State := (s.ownGates p 1).foldl (fun s n => s.armRefill n s.now) s

/-! ## CREATE and MODIFY (R340, R348) -/

/-- PARTITION_CREATE. -/
def execPartitionCreate (s : State) : Host.Outcome State Fault Refusal :=
  match s.arg with
  | .partN p _ =>
    if s.pstate p ≠ 0 then .next (s.pstat 2 0)
    else
      let img := s.imageAtPaddr
      let r := s.recReason p img
      if r ≠ 0 then .next (s.pstat 2 r)
      else
        let img := [(1, 1, 0), (2, 1, 1), (0x268, 8, 0), (0x270, 8, 0)].foldl (fun x f => recSet x f.1 f.2.1 f.2.2) img
        .next ((((s.loadRecord p img).rearm p).pstat 0 0).schedAll)
  | _ => .next s

/-- The halves that a change of a record affects. -/
def State.affected (s : State) (p : Nat) (img : BitVec 8192) : List Nat :=
  (List.range 4).flatMap (fun d => ((List.range 288).map (halfSid d)).filter (halfAffected (s.part p).img img))

/-- The change is applied: a saved task whose half leaves the partition may go to any half of it. A MODIFY of a degraded
partition makes it stopped, from where RELEASE runs it again (R350). -/
def State.applyModify (s : State) (p : Nat) (img : BitVec 8192) : State :=
  let img := keepHubFields (s.part p).img img
  let img := if recGet img 2 1 = 4 then recSet img 2 1 2 else img
  let s := s.loadRecord p img
  let s := s.updPart p (fun x => { x with modify := none })
  let t : State := { s with saved := s.saved.map (fun x =>
    if x.task.part = p ∧ !bit (recHalves img (dieOf x.home)) (halfBit x.home) then { x with anyHalf := true } else x) }
  (t.pstat 0 0).schedAll

/-- Every running task on one of the halves is to give its slot away. -/
def State.askSlots (s : State) (l : List Nat) : State :=
  l.foldl (fun s h => if (s.seq h).run = .run ∨ (s.seq h).run = .halted then s.updSeq h (fun q => { q with slend := true }) else s) s

/-- PARTITION_MODIFY. -/
def execPartitionModify (s : State) : Host.Outcome State Fault Refusal :=
  match s.arg with
  | .partN p force =>
    if s.pstate p ≠ 1 ∧ s.pstate p ≠ 4 then .next (s.pstat 2 0)
    else
      let img := s.imageAtPaddr
      let r := s.recReason p img
      let l := s.affected p img
      if r ≠ 0 then .next (s.pstat 2 r)
      else if l.all (fun h => !s.halfBusy h) then .next (s.applyModify p img)
      else if force = 0 then .next (s.pstat 1 0)
      else
        .next (((s.updPart p (fun x => { x with modify := some img })).askSlots l).after 1 8 5 .modifyApply (.part p))
  | _ => .next s

/-- MODIFY_APPLY (R348): once every affected half is free. -/
def execModifyApply (s : State) : Host.Outcome State Fault Refusal :=
  match s.arg with
  | .part p =>
    match (s.part p).modify with
    | none => .next s
    | some img =>
      let l := s.affected p img
      if l.all (fun h => !s.halfBusy h) then .next (s.applyModify p img)
      else .next ((s.askSlots l).after 1 8 5 .modifyApply (.part p))
  | _ => .next s

/-! ## STOP, RELEASE, MFREEZE, MTHAW (R340, R347, R359, R373) -/

/-- The halves on which tasks of a partition run, those that it has lost among them, and those of its own on which one is placed. -/
def State.halvesBusy (s : State) (p : Nat) : List Nat :=
  (s.seqs.filter (fun e => e.2.run != .idle && !isMgmt e.1 && (if e.2.run = .placed then s.ownsHalf p e.1 else e.2.task.part == p))).map
    (·.1)

/-- Whether a taker of a sequencer waits at a gate. -/
def State.taking (s : State) (sid : Nat) : Bool := s.gates.any (fun e => e.2.waiters.any (fun r => r.sid == sid))

/-- STOPP in every running task of a partition; a task that waits in a GTAKE stops there, and its GTAKE executes again (R359). -/
def State.stopTasks (s : State) (l : List Nat) : State :=
  l.foldl (fun s h =>
    let q := s.seq h
    if q.run = .run ∨ q.run = .halted then
      if s.taking h then s.endTask h 9 6 q.pc else s.setSeq h { q with stopp := true }
    else s) s

/-- The hub begins to stop a partition: `k` says what follows, 0 STOP, 1 MFREEZE. -/
def State.beginStop (s : State) (p k : Nat) : State :=
  ((s.updPart p (fun x => { x with hold := true })).stopTasks (s.halvesBusy p)).after 1 8 5 .partitionStopComplete (.partN p k)

/-- PARTITION_STOP. -/
def execPartitionStop (s : State) : Host.Outcome State Fault Refusal :=
  match s.arg with
  | .partN p _ => .next (if s.pstate p = 1 ∨ s.pstate p = 4 then s.beginStop p 0 else s.pstat 2 0)
  | _ => .next s

/-- MFREEZE. -/
def execMfreeze (s : State) : Host.Outcome State Fault Refusal :=
  match s.arg with
  | .partN p _ => .next (if s.pstate p = 1 ∨ s.pstate p = 4 then s.beginStop p 1 else s.pstat 2 0)
  | _ => .next s

/-- The paused detached entries of a partition, die by die, in the order of each die's table. -/
def State.detachedPart (s : State) (p : Nat) : List Cmd :=
  (List.range 4).flatMap (fun d => (s.detachedOf d).filter (fun c => c.part == p))

/-- Where the record of detached entry `i` lies (R373). -/
def State.detachedVa (s : State) (p i : Nat) : Nat := s.slotVa p ((s.part p).get 0x248 2) + 64 * i

/-- The records of the detached area from record `i` on, up to the first that is empty. -/
def State.detachedRecords (s : State) (p : Nat) : Nat → Nat → List Nat
  | 0, _ => []
  | n + 1, i =>
    let r := (s.vpeek p (s.detachedVa p i) 64).1
    if bits r 32 32 = 0 then [] else r :: s.detachedRecords p n (i + 1)

/-- The lowest half of a partition. -/
def State.lowestHalf (s : State) (p : Nat) : Nat :=
  (((List.range 4).flatMap (fun d => s.halvesOn p d)).foldl (fun (m : Option Nat) h => match m with
    | none => some h
    | some x => some (min x h)) none).getD 0

/-- MTHAW reads the records again (R373): the entry of a record that a die's table holds takes the record's values, any other record
is a new entry, of the partition's lowest half (log entry 105). Each goes on at its chunk. -/
def State.reloadDetached (s : State) (p : Nat) : State :=
  let have_ := s.detachedPart p
  ((s.detachedRecords p 1024 0).zipIdx).foldl (fun s e =>
    match have_[e.2]? with
    | some c =>
      let x : Cmd := { s.ofRecord p c e.1 with start := c.start, engaged := false, paused := true }
      s.setDetached (dieOf c.sid) ((s.detachedOf (dieOf c.sid)).map (fun y => if y.id = c.id then x else y))
    | none =>
      let (id, s) := s.fresh
      let sid := s.lowestHalf p
      let x := s.ofRecord p { id := id, sid := sid, part := p, gen := s.gen p, det := true, issue := s.now } e.1
      s.setDetached (dieOf sid) (s.detachedOf (dieOf sid) ++ [{ x with start := some s.now, engaged := false, paused := true }])) s

/-- MFREEZE ends: partition time and the owned gates freeze in one cycle, before the gates refill (R358, R359); the records of
detached entries are written, the rest of their area is empty. -/
def State.migrate (s : State) (p : Nat) : State :=
  let s := s.vpoke p (s.detachedVa p 0) 65536 0
  let s := ((s.detachedPart p).take 1024).zipIdx.foldl (fun s e => s.vpoke p (s.detachedVa p e.2) 64 (e.1.record true)) s
  let s := (s.ownGates p 1).foldl (fun s n => s.freezeGate n) s
  s.updPart p (fun x => { (x.put 2 1 5) with stood := some (s.ptime p), settle := s.now + 420 })

/-- PARTITION_STOP_COMPLETE: when all tasks have stopped and every detached entry has reached a chunk boundary. An MFREEZE then
freezes time and gates in the next cycle (number 3); the tasks of a degraded partition only stop (number 2, R350). -/
def execPartitionStopComplete (s : State) : Host.Outcome State Fault Refusal :=
  match s.arg with
  | .partN p 3 => .next ((s.migrate p).pstat 0 0)
  | .partN p 2 =>
    let l := s.halvesBusy p
    .next (if l.isEmpty ∨ s.pstate p ≠ 4 then s else (s.stopTasks l).after 1 8 5 .partitionStopComplete (.partN p 2))
  | .partN p k =>
    let l := s.halvesBusy p
    if !l.isEmpty || (s.detachedPart p).any (·.engaged) then
      .next ((s.stopTasks l).after 1 8 5 .partitionStopComplete (.partN p k))
    else
      let s := s.updPart p (fun x => x.put 0x258 4 x.clamp.toNat)
      .next (if k = 0 then (s.updPart p (fun x => x.put 2 1 2)).pstat 0 0
        else s.after 1 7 (gateKey 1 0) .partitionStopComplete (.partN p 3))
  | _ => .next s

/-- Engine entries of a partition go on: detached ones at their chunks, lane copies and entries not yet started. -/
def State.resumeEntries (s : State) (p : Nat) : State :=
  let s := (List.range 4).foldl (fun s d => s.engage d) s
  ((s.seqs.filter (fun e => e.2.cmds.any (fun c => c.part == p))).map (·.1)).foldl (fun s sid => s.resumeCmds sid) s

/-- Stopped tasks are ready and the partition runs. -/
def State.releasePart (s : State) (p : Nat) : State :=
  let t : State := { s with saved := s.saved.map (fun x => if x.task.part = p ∧ x.code = 9 then { x with ready := true } else x) }
  ((t.updPart p (fun x => { (x.put 2 1 1) with hold := false })).resumeEntries p).schedAll

/-- PARTITION_RELEASE. -/
def execPartitionRelease (s : State) : Host.Outcome State Fault Refusal :=
  match s.arg with
  | .partN p _ => .next (if s.pstate p = 2 then (s.releasePart p).pstat 0 0 else s.pstat 2 0)
  | _ => .next s

/-- The first cycle from now on in which the Beacon is at a multiple of 1,024 from the freeze value of a partition (R304). -/
def State.resumeCycle (s : State) (p : Nat) : Nat :=
  let f := (s.part p).stood.getD 0 + (s.part p).get 0x268 8
  let d := (s.beaconOf 8 + 2 ^ 64 - f % 2 ^ 64) % 1024
  if d = 0 then s.now else s.now + (1024 - d)

/-- MTHAW: the image is loaded, with the count of clamps that it carries (R347), and the partition resumes at the next aligned Beacon value. -/
def execMthaw (s : State) : Host.Outcome State Fault Refusal :=
  match s.arg with
  | .partN p _ =>
    if s.pstate p ≠ 5 then .next (s.pstat 2 0)
    else
      let img := s.imageAtPaddr
      let r := s.recReason p img
      if r ≠ 0 then .next (s.pstat 2 r)
      else
        let s := (s.loadRecord p (recSet img 2 1 5)).updPart p (fun x => { x with clamp := BitVec.ofNat 32 (recGet img 0x258 4) })
        .next (s.push { cyc := s.resumeCycle p, cls := 0, key := 0, ins := .freezeResume, arg := .partN p 1 })
  | _ => .next s

/-! ## Retirement (R349, R350) -/

/-- The partition that holds slice `n` of a die. -/
def State.sliceOwner (s : State) (die n : Nat) : Option Nat :=
  (s.parts.find? (fun e => e.2.get 2 1 != 0 && bit (recSlices e.2.img die) n)).map (·.1)
/-- The partitions that hold halves or the scratchpad of a cluster. -/
def State.clusterOwners (s : State) (die n : Nat) : List Nat :=
  (s.parts.filter (fun e => e.2.get 2 1 != 0 && (bits (recHalves e.2.img die) (8 * n) 8 != 0 || bit (recClusters e.2.img die) n))).map
    (·.1)

/-- The partitions that hold halves of a cluster. -/
def State.clusterTenants (s : State) (die n : Nat) : Nat :=
  s.parts.countP (fun e => e.2.get 2 1 != 0 && bits (recHalves e.2.img die) (8 * n) 8 != 0)

/-- The first minimum that a record breaches: 1 halves, 2 clusters, 3 slices; 0 none. -/
def recBreach (img : BitVec 8192) : Nat :=
  match (((recMins img).zip (recCounts img)).zipIdx).find? (fun e => decide (e.1.2 < e.1.1)) with
  | some e => e.2 + 1
  | none => 0

/-- A partition below a minimum is degraded, each of its tasks stops, those that are placed and have not begun among them, and its
supervisor is told (R350). One that is free or degraded already is left; one that is resetting is degraded when its reset completes. -/
def State.degrade (s : State) (p die : Nat) : State :=
  let b := recBreach (s.part p).img
  let st := s.pstate p
  if b = 0 ∨ st = 0 ∨ st = 4 then s
  else if st = 3 then s.updPart p (fun x => { x with loss := some die })
  else
    let s := (s.updPart p (fun x => x.put 2 1 4)).stopTasks (s.halvesBusy p)
    let s := s.after 1 8 5 .partitionStopComplete (.partN p 2)
    s.notice p (5 + b * 2 ^ 8 + 0xFFFF * 2 ^ 16 + die * 2 ^ 32 + s.ptime p % 2 ^ 64 * 2 ^ 128)

/-- The owner loses a cluster: its halves and its scratchpad. -/
def State.loseCluster (s : State) (die n : Nat) : State :=
  let halves := (List.range 8).map (fun b => halfSid die (8 * n + b))
  let owners := s.clusterOwners die n
  let s : State := { s with lostClusters := s.lostClusters ++ [36 * die + n] }
  let s := s.stopTasks halves
  let t : State := { s with saved := s.saved.map (fun x => if halves.contains x.home then { x with anyHalf := true } else x) }
  owners.foldl (fun s p =>
    let h := setBits (recHalves (s.part p).img die) (8 * n) 8 0
    let c := setBits (recClusters (s.part p).img die) n 1 0
    (s.updPart p (fun x => (x.put (0x10 + 36 * die) 36 h).put (0xF0 + 8 * die) 8 c)).degrade p die) t

/-- The domains in service that hold a slice of a pair. -/
def State.pairDomains (s : State) (die n : Nat) : List Nat :=
  (List.range 16).filter (fun k => let d := s.dom die k
    d.v && [n / 2 * 2, n / 2 * 2 + 1].any (fun i => decide (d.first ≤ i) && decide (i < d.first + 2 ^ d.l2c)))

/-- The owners lose a slice pair. A domain with a lost slice goes out of service: what the partition does not hold does not serve it
(R336), and the hypervisor sets up its other slices anew (log entry 74). -/
def State.losePair (s : State) (die n : Nat) : State :=
  let lo := n / 2 * 2
  let s : State := { s with lostSlices := s.lostSlices ++ [32 * die + lo, 32 * die + lo + 1] }
  let owners := ([lo, lo + 1].filterMap (s.sliceOwner die)).eraseDups
  let s := (s.pairDomains die n).foldl (fun s k => s.updDom die k (fun d => { d with v := false })) s
  owners.foldl (fun s p =>
    (s.updPart p (fun x => x.put (0x110 + 4 * die) 4 (setBits (recSlices x.img die) lo 2 0))).degrade p die) s

/-- The dirty lines of a domain go to memory and stay in place, clean. -/
def State.writeBack (s : State) (die k : Nat) : State :=
  let d := s.dom die k
  let mine (key : Nat) : Bool := key / 8192 / 32 == die && decide (d.first ≤ key / 8192 % 32) &&
    decide (key / 8192 % 32 < d.first + 2 ^ d.l2c)
  let s := (span d.first (2 ^ d.l2c)).foldl (fun s i => s.drainSlice (32 * die + i)) s
  let dirty := s.l2.flatMap (fun e => if mine e.1 then e.2.filter (·.dirty) else [])
  let s := dirty.foldl (fun s l =>
    s.dramWrite (dramLoc die d.map (l.pa * 64)) (l.pa * 64) l.key l.data.toNat (2 ^ 64 - 1) l.tag l.ctag l.bad) s
  { s with l2 := s.l2.map (fun e => if mine e.1 then (e.1, e.2.map (fun l => { l with dirty := false })) else e) }

/-- The spare pair takes the numbers of the pair: each domain with a slice of it is written back and comes into service again with
its masks unchanged. -/
def State.sparePairUsed (s : State) (die n : Nat) : State :=
  let s : State := { s with sparePair := s.sparePair ++ [die] }
  (s.pairDomains die n).foldl (fun s k => ((s.writeBack die k).updDom die k (fun d => { d with v := false })).enable die k) s

/-- The spare cluster takes a cluster's number: when its tasks have stopped, the scratchpad is copied, a block that cannot be
read staying poisoned, and the stopped tasks are released. -/
def State.spareClusterUsed (s : State) (die n : Nat) : State :=
  let halves := (List.range 8).map (fun b => halfSid die (8 * n + b))
  if halves.any s.halfBusy then (s.stopTasks halves).after 1 8 5 .resourceRetire (.retire die true n)
  else
    let t : State := { s with
      retiring := s.retiring.filter (· != 36 * die + n)
      saved := s.saved.map (fun x => if x.code = 9 ∧ halves.contains x.home ∧ s.pstate x.task.part = 1 then { x with ready := true } else x) }
    t.schedAll

/-- RESOURCE_RETIRE: a cluster (`true`) or a slice, or a channel of its pair. -/
def execResourceRetire (s : State) : Host.Outcome State Fault Refusal :=
  match s.arg with
  | .retire die true n =>
    if s.retiring.contains (36 * die + n) then .next (s.spareClusterUsed die n)
    else if s.lostClusters.contains (36 * die + n) then .next s
    else
      let sharedOnDie := (List.range 36).any (fun c => 1 < s.clusterTenants die c)
      if s.spareCluster.contains die ∨ (s.clusterTenants die n ≤ 1 ∧ sharedOnDie) then .next (s.loseCluster die n)
      else
        let t : State := { s with spareCluster := s.spareCluster ++ [die], retiring := s.retiring ++ [36 * die + n] }
        .next (t.spareClusterUsed die n)
  | .retire die false n =>
    if s.lostSlices.contains (32 * die + n) then .next s
    else if s.sparePair.contains die then .next (s.losePair die n)
    else .next (s.sparePairUsed die n)
  | _ => .next s

end Sys2Proof.Machine
end

