-- ==== Sys2Proof/Machine/Reset.lean ====
section
/-! DEFINITION. Function-level reset and the wipe (R342 to R346), DESTROY (R340), and the debug freeze (R304, R333). -/

namespace Sys2Proof.Machine

open Sys2Proof

/-! ## Transactions of an older generation (R342) -/

/-- The partition and generation that a subject on the agenda carries. -/
def Arg.owner : Arg → Option (Nat × Nat)
  | .access a => some (a.part, a.gen)
  | .deliver a _ _ _ _ => some (a.part, a.gen)
  | .hostAccess _ _ a => some (a.part, a.gen)
  | .greq r => some (r.part, r.gen)
  | .bload b => some (b.part, b.gen)
  | .ranges a _ _ => some (a.part, a.gen)
  | .rtn _ _ _ _ p g => some (p, g)
  | .entry _ _ _ _ p g => some (p, g)
  | .att a => some (a.part, a.gen)
  | .records a _ _ => some (a.part, a.gen)
  | .mergeRows c _ => some (c.part, c.gen)
  | .chunk c _ => some (c.part, c.gen)
  | .chunkData c _ _ _ _ _ => some (c.part, c.gen)
  | .coll _ c => some (c.part, c.gen)
  | .collResult c _ _ _ _ => some (c.part, c.gen)
  | _ => Option.none

/-- Whether a transaction of an older generation of a partition is still under way. -/
def State.oldWork (s : State) (p : Nat) : Bool :=
  s.agenda.any (fun e => match e.arg.owner with
    | some (q, g) => q == p && g != s.gen p
    | none => false)

/-! ## RESET and DESTROY (R340, R343) -/

/-- A function-level reset begins: GEN advances in the hub's record, STATE := 3; the dies go by the old generation until they stop
(R342, R343). -/
def State.beginReset (s : State) (p : Nat) (destroy : Bool) : State :=
  let s := s.updPart p (fun x => { (x.put 1 1 (x.get 1 1 + 1)).put 2 1 3 with
    destroying := destroy, modify := none, dieGen := some (x.get 1 1) })
  s.after 20 0 0 .resetQuiesce (.part p)

/-- PARTITION_RESET: refused as BUSY while a transaction of the older generation is left (R342). -/
def execPartitionReset (s : State) : Host.Outcome State Fault Refusal :=
  match s.arg with
  | .partN p _ =>
    let st := s.pstate p
    if st ≠ 1 ∧ st ≠ 2 ∧ st ≠ 4 then .next (s.pstat 2 0)
    else if s.oldWork p then .next (s.pstat 1 0)
    else .next (s.beginReset p false)
  | _ => .next s

/-- PARTITION_DESTROY: RESET, then every holding is free. A reset that runs already is continued. -/
def execPartitionDestroy (s : State) : Host.Outcome State Fault Refusal :=
  match s.arg with
  | .partN p _ =>
    let st := s.pstate p
    if st = 0 then .next (s.pstat 2 0)
    else
      let s := s.updPart p (fun x => x.put 0x258 4 x.clamp.toNat)
      if st = 3 then .next (s.updPart p (fun x => { x with destroying := true }))
      else if s.oldWork p then .next (s.pstat 1 0)
      else .next (s.beginReset p true)
  | _ => .next s

/-! ## RESET_QUIESCE (R343, R346) -/

/-- The halves on which a partition's tasks are, or which it holds. -/
def State.halvesOf (s : State) (p : Nat) : List Nat :=
  let own := (List.range 4).flatMap (fun d => (onesOf (recHalves (s.part p).img d) 288).map (halfSid d))
  own ++ ((s.seqs.filter (fun e => !isMgmt e.1 && e.2.run != .idle && e.2.task.part == p && !own.contains e.1)).map (·.1))

/-- What a half keeps: the numbers of its task, its paths, the entries of other partitions. -/
def Seq.quiet (p : Nat) (q : Seq) : Seq :=
  { task := q.task, paths := q.paths, cmds := q.cmds.filter (fun c => c.part != p), cmdOrd := q.cmdOrd }

/-- A half stops: nothing of its task is kept, and no result lands any more. -/
def State.quietHalf (s : State) (p sid : Nat) : State :=
  let s : State := { s with agenda := s.agenda.filter (fun e => !e.bringsTo sid) }
  ((s.dropWaits sid).updSeq sid (Seq.quiet p)).passedYield sid true

/-- What a gate keeps when a partition is reset: its waiting takers go, and its admitted passes whose cR has not come. -/
def State.quietGate (s : State) (p : Nat) (g : Gate) : Gate :=
  { g with waiters := g.waiters.filter (fun r => r.part != p)
           passes := g.passes.filter (fun x => x.req.part != p || (decide (x.req.result < s.now) && !s.pendingBy (s.now - 1) g x.req)) }

/-- Pending work of a partition in the pools and engines is discarded. -/
def State.discard (s : State) (p : Nat) : State :=
  let mine (c : Cmd) : Bool := c.part == p
  { s with
    pool := s.pool.filter (fun l => l.part != p)
    saved := s.saved.filter (fun x => x.task.part != p)
    fatalSlots := s.fatalSlots.filter (fun x => x.part != p)
    seqs := s.seqs.map (fun e => (e.1, { e.2 with cmds := e.2.cmds.filter (fun c => !mine c) }))
    detached := s.detached.map (fun e => (e.1, e.2.filter (fun c => !mine c)))
    gates := s.gates.map (fun e => (e.1, s.quietGate p e.2))
    colls := s.colls.map (fun e => (e.1, { e.2 with
      open_ := e.2.open_.filter (fun c => !mine c.1), next := e.2.next.filter (fun c => !mine c.1)
      held := e.2.held.filter (fun c => !mine c.1), waiting := e.2.waiting.filter (fun c => !mine c.2) }))
    ctxs := s.ctxs.map (fun e => (e.1, { e.2 with window := e.2.window.filter (fun a => a.part != p) }))
    tiers := s.tiers.map (fun e => (e.1, { e.2 with act := e.2.act.filter (fun m => m.part != p),
                                                    pend := e.2.pend.filter (fun m => m.part != p) }))
    revokes := s.revokes.filter (fun r => r.part != p)
    awaiting := s.awaiting.filter (fun w => w.acc.part != p) }

/-! ## The wipe (R345) -/

/-- A page of a leaf: base, size, key. -/
abbrev OwnPage := Nat × Nat × Nat

/-- The valid entries of a table of `n` entries: index and entry. -/
def State.tableEntries (s : State) (base n : Nat) : List Nat :=
  (List.range n).filterMap (fun i => s.entryAt (base + 8 * i))

/-- The resident pages of tiers 0 and 1 below a table whose entries are at level `k`, counted from T3 = 0 up (R294). -/
def State.pagesBelow (s : State) : Nat → Nat → List OwnPage
  | k, base =>
    let n := if k = 0 then 32 else if k = 1 then 128 else 16384
    let leaf (e : Nat) : List OwnPage :=
      if bit e 1 && bit e 2 && decide (bits e 6 2 < 2) then [(leafBase e, pageSize k, bits e 12 11)] else []
    (s.tableEntries base n).flatMap (fun e =>
      if bit e 1 then (if k = 3 then [] else leaf e)
      else match k with
        | 0 => []
        | k + 1 => s.pagesBelow k (leafBase e))

/-- Whether an address lies in a gate's region. -/
def State.inRegion (s : State) (pa : Nat) : Bool :=
  s.gates.any (fun g => g.2.st != 0 && decide (g.2.base ≤ pa) && decide (pa < g.2.base + 65536 * g.2.size))

/-- The DRAM that a partition's shadow tables map as its own, in pieces of 64 KiB, without the regions of gates. -/
def State.ownPages (s : State) (p : Nat) : List OwnPage :=
  (s.pagesBelow 3 ((s.part p).get 8 8)).flatMap (fun x =>
    ((List.range (x.2.1 / 65536)).map (fun i => (x.1 + 65536 * i, 65536, x.2.2))).filter (fun y => !s.inRegion y.1))

/-- A half's registers and its part of the core are zero; engine entries of other partitions go on. -/
def State.wipeHalf (s : State) (p sid : Nat) : State :=
  let sq := sqOf sid
  let split := s.split sid
  let mine (n size : Nat) : Bool := !split || n / size == sq
  let s := s.updSeq sid (fun q => { paths := q.paths, cmds := q.cmds.filter (fun c => c.part != p), cmdOrd := q.cmdOrd })
  let s := s.updCore (storeKey sid) (fun c => { c with
    store := c.store.filter (fun e => !mine e.1 32768), badWords := c.badWords.filter (fun n => !mine n 32768) })
  s.updCore (coreKey sid) (fun c => { c with
    acc := c.acc.filter (fun e => !mine e.1 128), badRows := c.badRows.filter (fun x => !mine x.1 128), quads := c.quads.filter (fun e => !mine e.1 2)
    oq := c.oq.filter (fun e => !mine e.1 8), lq := c.lq.filter (fun e => !mine e.1 8)
    oport := c.oport.filter (fun e => !mine e.1 8), lport := c.lport.filter (fun e => !mine e.1 8)
    pops := c.pops.filter (fun w => !mine w.q 8) })

/-- A cluster's scratchpad is zero. -/
def State.wipeSpad (s : State) (cluster : Nat) : State :=
  let b := cluster * Config.spadBytes
  let mine (a : Nat) : Bool := decide (b ≤ a) && decide (a < b + Config.spadBytes)
  { s with spad := s.spad.filter (fun x => !mine x.1), stag := s.stag.filter (fun x => !mine (64 * x.1)),
           sbad := s.sbad.filter (fun x => !mine (64 * x)) }

/-- What a slice holds of the regions of gates goes to memory, since they are not wiped. -/
def State.keepRegions (s : State) (k : Nat) : State :=
  let s := ((Fm.get [] s.wbuf k).filter (fun e => s.inRegion e.pa)).foldl (fun s e =>
    s.dramWrite e.loc e.pa e.key e.data.toNat e.mask.toNat e.tag e.ctag e.bad) s
  let dirty := s.l2.flatMap (fun e => if e.1 / 8192 = k then e.2.filter (fun l => l.dirty && s.inRegion (64 * l.pa)) else [])
  dirty.foldl (fun s l =>
    s.dramWrite (s.place (64 * l.pa)).loc (64 * l.pa) l.key l.data.toNat (2 ^ 64 - 1) l.tag l.ctag l.bad) s
/-- The lines of a slice are gone. -/
def State.wipeSlice (s : State) (k : Nat) : State :=
  let s := s.keepRegions k
  { s with l2 := s.l2.filter (fun e => e.1 / 8192 != k), wbuf := Fm.del s.wbuf k, miss := Fm.del s.miss k }

/-- An attention context is zero but for its grant. -/
def Ctx.wiped (c : Ctx) : Ctx := { owner := c.owner, v := c.v, exp := c.exp }

/-- The wipe of what a partition holds in SRAM. An object without a bound page is the partition's where its bytes are. -/
def State.wipeSram (s : State) (p : Nat) : State :=
  let img := (s.part p).img
  let own := s.ownPages p
  let s := (s.halvesOf p).foldl (fun s h => s.wipeHalf p h) s
  let s := (List.range 4).foldl (fun s d => (onesOf (recClusters img d) 36).foldl (fun s c => s.wipeSpad (36 * d + c)) s) s
  let s := (List.range 8).foldl (fun s d => (onesOf (recSlices img d) 32).foldl (fun s i => s.wipeSlice (32 * d + i)) s) s
  let s : State := { s with
    rdc := s.rdc.map (fun e => (e.1, e.2.filter (fun l => l.part != p)))
    tlb := s.tlb.map (fun e => (e.1, e.2.filter (fun t => t.part != p)))
    syncs := s.syncs.filter (fun e => !(e.2.part == p || (e.2.part == 63 && own.any (fun x =>
      decide (x.1 ≤ 16 * e.1) && decide (16 * e.1 < x.1 + x.2.1))))) }
  (List.range 4).foldl (fun s j => (span (recCtx img j).1 (recCtx img j).2).foldl (fun s c => s.updCtx (4 + j) c Ctx.wiped) s) s

/-- The wipe of what a partition holds in DRAM: the key-value pages of its contexts, and its own pages. -/
def State.wipeDram (s : State) (p : Nat) : State :=
  let img := (s.part p).img
  let t : State := { s with
    kvPool := s.kvPool.filter (fun e => e.1 % 64 != p)
    plists := s.plists.filter (fun e => !(List.range 4).any (fun j =>
      let r := recCtx img j
      e.1 / 65536 == 4 + j && e.2.fixed && decide (r.1 ≤ e.2.owner) && decide (e.2.owner < r.1 + r.2))) }
  (s.ownPages p).foldl (fun s x => s.poke x.1 x.2.1 0 x.2.2) t

/-- The channel pairs among which a page's bytes are spread evenly: a name for the group, and their number (R271). -/
def State.pairsOf (s : State) (pa : Nat) : Nat × Nat :=
  match regionOf pa with
  | .hbm n => match s.blockOf n pa with
    | some k => (16 * n + k, 2 ^ (s.dom n k).l2c)
    | none => (16 * n + 16, 1)
  | _ => (256 + homeDie pa, 1)
/-- The longest that the DRAM wipe takes: 64 bytes in a cycle on each channel pair (R343). -/
def State.wipeBound (s : State) (p : Nat) : Nat :=
  let m : Fm Nat := (s.ownPages p).foldl (fun m x =>
    let g := s.pairsOf x.1
    Fm.upd 0 m g.1 (· + x.2.1 / 64 / g.2)) []
  m.foldl (fun a e => max a e.2) 0

/-- The transactions of an older generation on the agenda and in the replay buffers are discarded (R342, R344). -/
def State.dropOld (s : State) (p : Nat) : State :=
  let old (o : Option (Nat × Nat)) : Bool := match o with
    | some (q, g) => q == p && g != s.gen p
    | none => false
  { s with agenda := s.agenda.filter (fun e => !old e.arg.owner)
           replays := s.replays.filter (fun h => !old h.arg.owner) }

/-- RESET_QUIESCE: at t + 20 the partition's sequencers stop, its work is discarded and its keys are replaced. The SRAM wipe ends
within 65,536 cycles, and with it, or later, the DRAM wipe. -/
def execResetQuiesce (s : State) : Host.Outcome State Fault Refusal :=
  match s.arg with
  | .part p =>
    let s := s.updPart p (fun x => { x with dieGen := none })
    let s := (s.discard p).dropOld p
    let s := (s.halvesOf p).foldl (fun s h => s.quietHalf p h) s
    let s := (recKeys (s.part p).img).foldl (fun s k => s.newKey k) s
    let s := (s.updPart p (fun x => { x with slots := [], stood := none, bkpt := [], hold := false })).rearm p
    let n := s.drawVal % 65536
    let s := s.drew.after (1 + n) 8 0 .resetWipeComplete (.partN p 1)
    let m := s.drawVal % (s.wipeBound p + 1)
    .next (s.drew.after (1 + max n m) 8 1 .resetWipeComplete (.part p))
  | _ => .next s

/-- A record without holdings: STATE 0. -/
def freeRecord (img : BitVec 8192) : BitVec 8192 := recSet (recSet img 0x10 0x202 0) 2 1 0

/-- RESET_WIPE_COMPLETE: the SRAM is wiped (number 1); the DRAM is too, and STATE := 2 with no tasks, 4 where a loss
meanwhile left it below a minimum (R350), or 0 after a DESTROY. -/
def execResetWipeComplete (s : State) : Host.Outcome State Fault Refusal :=
  match s.arg with
  | .partN p _ => .next (s.wipeSram p)
  | .part p =>
    let s := s.wipeDram p
    let old := (s.part p).img
    let gone := (s.part p).destroying
    let loss := (s.part p).loss
    let s := s.updPart p (fun x => { ((x.put 2 1 2).put 0x258 4 0).put 0x270 8 0 with clamp := 0, destroying := false, loss := none })
    let s := if gone then
        (s.grantContexts p old 0).updPart p (fun x => { x with img := freeRecord x.img, cal := [] })
      else match loss with
        | some die => s.degrade p die
        | none => s
    let s := if s.hub.psRes = 3 ∧ s.hub.psPart = p then s.pstat 0 0 else s
    .next s.schedAll
  | _ => .next s

/-! ## The debug freeze (R333) -/

/-- The cycle in which the Beacon of the hub has a value at or after now. -/
def State.atBeacon (s : State) (f : Nat) : Nat := s.now + (f - s.beaconOf 8)

/-- DEBUG_FREEZE_REQUEST: the hypervisor names a cycle f. -/
def execDebugFreezeRequest (s : State) : Host.Outcome State Fault Refusal :=
  match s.arg with
  | .freeze p f => .next (s.push { cyc := s.atBeacon f, cls := 0, key := 0, ins := .freezeBegin, arg := .freeze p f })
  | _ => .next s

/-- What is under way for a partition completes by cycle `by_` (R265, R333): the home cycles and arrivals that are not promised,
and the chunks that are in their write phases. -/
def Ev.settled (e : Ev) (p by_ : Nat) : Ev :=
  match e.arg with
  | .access a =>
    if e.ins = .accessHomeCycle ∧ a.part = p then { e with cyc := min e.cyc by_, arg := .access { a with
      todo := a.todo.map (fun l => l.map (fun x => (min x.1 by_, x.2))) } }
    else e
  | .deliver a _ _ _ _ => if a.part = p then { e with cyc := min e.cyc by_ } else e
  | .chunkData c _ _ _ _ true => if c.part = p then { e with cyc := min e.cyc by_ } else e
  | _ => e

/-- FREEZE_BEGIN: partition time stops, and no sequencer of the partition issues; nests stop at their next safe boundary, and
accesses under way complete within 420 cycles. -/
def execFreezeBegin (s : State) : Host.Outcome State Fault Refusal :=
  match s.arg with
  | .freeze p _ =>
    if (s.part p).stood.isSome ∨ s.pstate p = 0 ∨ s.pstate p = 3 then .next s
    else
      let t := s.ptime p
      let u : State := { s with agenda := s.agenda.map (fun e => e.settled p (s.now + 420)), seqs := s.seqs.map (fun e =>
        if e.2.task.part = p ∧ !isMgmt e.1 then
          (e.1, { e.2 with run := if e.2.run = .run then .halted else e.2.run,
                           nest := if e.2.nest.live ∧ e.2.nest.stop = 0 then { e.2.nest with stop := 1 } else e.2.nest })
        else e) }
      .next (u.updPart p (fun x => { x with stood := some t, settle := s.now + 420 }))
  | _ => .next s

/-- DEBUG_RESUME_REQUEST: the partition resumes at the first aligned Beacon value (R304). -/
def execDebugResumeRequest (s : State) : Host.Outcome State Fault Refusal :=
  match s.arg with
  | .part p =>
    if (s.part p).stood.isNone ∨ s.pstate p = 5 then .next s
    else .next (s.push { cyc := s.resumeCycle p, cls := 0, key := 0, ins := .freezeResume, arg := .partN p 0 })
  | _ => .next s

/-- A halted sequencer goes on after `d` cycles of freeze. -/
def Seq.thaw (q : Seq) (now d : Nat) (bkpt : Bool) : Seq :=
  if q.run != .halted then q
  else if bkpt then { q with run := .run, cols := [], floor := now - q.slip, desync := true, heldAt := none }
  else { q with run := .run, slip := q.slip + d, fbase := q.fbase + d, heldAt := none
                cols := q.cols.map (fun c => (c.1, { c.2 with free := c.2.free + d }))
                fq := q.fq.map (fun e => { e with arr := e.arr + d }) }

/-- The partition's time runs again: FOFF grows by the length of the freeze, and what stood goes on; a refill of the partition time
at which it stood takes place now (R355). -/
def State.unfreeze (s : State) (p : Nat) : State :=
  let x := s.part p
  let f := (x.stood.getD 0 + x.get 0x268 8) % 2 ^ 64
  let d := (s.beaconOf 8 + 2 ^ 64 - f) % 2 ^ 64
  let mine := (s.seqs.filter (fun e => e.2.task.part == p && !isMgmt e.1)).map (·.1)
  let s := s.updPart p (fun y => { (y.put 0x268 8 (y.get 0x268 8 + d)) with stood := none, bkpt := [] })
  let s := mine.foldl (fun s sid =>
    let s := s.updSeq sid (fun q => q.thaw s.now d (x.bkpt.contains sid))
    if (s.seq sid).nest.live then
      (s.updNest sid (fun n => { n with parked := false, stop := if n.stop = 1 then 0 else n.stop, slip := n.slip + d,
                                        todo := n.held ++ n.todo, held := [] })).nestGo sid
    else s) s
  ((s.rearm p).resumeEntries p).schedAll

/-- FREEZE_RESUME: the end of a debug freeze, or of a migration, whose gates are active again and whose tasks are released. -/
def execFreezeResume (s : State) : Host.Outcome State Fault Refusal :=
  match s.arg with
  | .partN p k =>
    if (s.part p).stood.isNone then .next s
    else
      let s := s.unfreeze p
      if k = 0 then .next s
      else
        let s := (s.ownGates p 2).foldl (fun s n => s.thawGate n) s
        let s := s.reloadDetached p
        .next ((s.releasePart p).pstat 0 0)
  | _ => .next s

end Sys2Proof.Machine
end

