-- ==== Sys2Proof/Machine/Fabric.lean ====
section
/-! DEFINITION. Onino links (R386 to R393), ALIGN (R126, R303, R390) and the reset of a die (R398). -/

namespace Sys2Proof.Machine

open Sys2Proof

/-! ## Arriving flits (R386 to R388, R396) -/

/-- The key of the entries and credits of a peer module among the paths: those that it sends again are known by their numbers. -/
def entryKey (p : Packet) : Nat := 2 ^ 41 + p.src

/-- The cycles that the delay-equalising buffer of a link keeps a timed entry (R387, R390). On the alternate path the last of its
two links has a LAT and a MEAS that this module does not know: a free number (R393). -/
def State.equalise (s : State) (n : Nat) : Nat × State :=
  let l := s.link n
  if l.alt then (s.drawVal, s.drew) else (l.lat - l.meas, s)

/-- A timed entry or credit: a number that was accepted before is discarded (R263, R386); any other is acknowledged and passes the
equalising buffer. -/
def State.acceptEntry (s : State) (n : Nat) (p : Packet) : State :=
  let r : RPath := Fm.get {} s.rpaths (entryKey p)
  let s := s.emit { op := 15, src := s.hub.modn, dst := p.src, pseq := p.pseq, link := n }
  if r.seen.contains p.pseq then s
  else
    let s := s.setPath (entryKey p) { r with seen := r.seen ++ [p.pseq] }
    let (d, s) := s.equalise n
    if p.op = 9 then s.after d 1 0 .linkEntryArrival (.packet { p with link := n })
    else s.after d 1 0 .queueCreditArrival (.credit 0 1 0 n p.lane 0 p.part)

/-- What an accepted packet sets going. -/
def State.accept (s : State) (n : Nat) (p : Packet) : State :=
  match p.op with
  | 0 | 2 | 3 | 4 | 12 => s.after 0 4 (agentKey p.src p.pseq) .remoteOpExecute (.packet p)
  | 1 | 5 | 13 | 14 => s.after 0 4 (agentKey p.src p.pseq) .remoteStoreArrival (.packet p)
  | 8 =>
    let store := match s.awaited p.id with
      | some w => w.pkt.op == 1
      | none => false
    s.after 0 1 0 (if store then .wstErrorCompletion else .remoteReplyArrival) (.packet p)
  | 9 | 10 => s.acceptEntry n p
  | 11 => s.after 0 4 (p.id % 4096) .collRoundComplete (.packet p)
  | 15 => s.updLink n (fun l => { l with
      sent := l.sent.filter (fun x => x.2.2.num != some p.pseq), owed := l.owed.filter (fun x => x.pseq != p.pseq) })
  | 16 => s
  | _ => s.after 0 1 0 .remoteReplyArrival (.packet p)

/-- A link fails (R392): FAIL and UP; with ALTEN, the failover follows within 2,048 cycles (R393). -/
def State.failLink (s : State) (n : Nat) : State :=
  let l := s.link n
  if !l.up then s
  else
    let s := s.updLink n (fun l => { l with up := false, fail := true, replays := [] })
    if l.alten then s.drew.after (s.drawVal % 2049) 7 n .linkFailover (.link n) else s

/-- The receiver of a link that is up is watched: 64 cycles after the last valid flit or idle marker it is looked at (R392). -/
def State.watchLink (s : State) (n : Nat) : State :=
  s.push { cyc := max (s.now + 1) ((s.link n).heard + 64), cls := 7, key := n, ins := .linkFail, arg := .silence n }

/-- FLIT_RECEIVE (R386): a flit that fails its CRC or authentication is replayed and counted, and the eighth replay within
1,024 cycles fails the link (R392). -/
def execFlitReceive (s : State) : Host.Outcome State Fault Refusal :=
  match s.arg with
  | .flit n ok p =>
    if !(s.link n).linked then .next s
    else if ok then .next ((s.updLink n (fun l => { l with heard := s.now })).accept n p)
    else
      let recent := s.now :: (s.link n).replays.filter (fun c => decide (s.now < c + 1024))
      let s := s.updLink n (fun l => { l with replay := l.replay + 1, replays := recent })
      .next (if 8 ≤ recent.length then s.after 0 7 n .linkFail (.link n) else s)
  | _ => .next s

/-- LINK_FAIL (R392): a failure that is reported, and the watch on a receiver that has seen nothing valid for 64 cycles. -/
def execLinkFail (s : State) : Host.Outcome State Fault Refusal :=
  match s.arg with
  | .link n => .next (s.failLink n)
  | .silence n =>
    let l := s.link n
    .next (if !l.up then s else if l.heard + 64 ≤ s.now then s.failLink n else s.watchLink n)
  | _ => .next s

/-- An entry that its peer has not acknowledged stands first at its port again, with its number (R393). -/
def State.resend (s : State) (x : Nat × Nat × LinkWait) : State :=
  (s.updPort x.1 1 x.2.1 (fun p => { p with wait := x.2.2 :: p.wait })).departAt x.1 x.2.1 s.now

/-- LINK_FAILOVER (R263, R393): traffic takes the alternate path; the entries, credits, remote stores and flags that are not
acknowledged, and the reads and writes of tier 3 memory that are not answered, are sent again with their numbers. Seam instructions
are not. -/
def execLinkFailover (s : State) : Host.Outcome State Fault Refusal :=
  match s.arg with
  | .link n =>
    let l := s.link n
    if !l.alten || l.up then .next s
    else
      let s := s.updLink n (fun l => { l with alt := true, sent := [] })
      let s := l.sent.foldr (fun x s => s.resend x) s
      let s : State := { s with outbox := s.outbox ++ l.owed.map (fun p => { p with link := s.wayOf n, dep := some s.now }) }
      .next ((s.awaiting.filter (fun w => w.pkt.dst == l.peer && [1, 5, 12, 13].contains w.pkt.op)).foldl (fun s w => s.emit w.pkt) s)
  | _ => .next s

/-! ## ALIGN (R126, R390) -/

/-- Whether a partition of the module is in STATE 1. -/
def State.anyRunning (s : State) : Bool := s.parts.any (fun e => e.2.get 2 1 == 1)

/-- ALIGN: legal at H on a management sequencer, which it holds until the last step ends, at most 2^20 cycles after issue, and
which it runs timed whatever UT holds (R37, R126). -/
def execAlign (s : State) : Host.Outcome State Fault Refusal :=
  s.issue 1 (fun s =>
    let sid := s.cur.sid
    if !isMgmt sid then s.illegal
    else
      let n := s.drawVal % 2 ^ 20 + 1
      (s.drew.updSeq sid (fun q => { q with seam := true, ut := false, alignUt := some q.ut })).after n 4 sid .alignComplete (.seq sid))

/-- What the hub's copy adds to the cycle count; a Beacon that has not started starts at 0 now. -/
def State.hubOffset (s : State) : Nat :=
  match s.beacon.find? (fun e => e.1 == 8) with
  | some e => e.2
  | none => (2 ^ 64 - s.now % 2 ^ 64) % 2 ^ 64

/-- Every die's copy of the Beacon takes the hub's (R390 step 1). -/
def State.loadBeacons (s : State) : State := { s with beacon := (List.range 9).map (fun d => (d, s.hubOffset)) }

/-- What training finds on a link, as drawn: 0 in the lowest bit where the peer does not answer; the next bit says whether the
peer's Beacon agrees; the rest is MEAS. -/
def State.trained (s : State) (n : Nat) : State × Option (Bool × Nat) :=
  let v := s.drawVal
  if !(s.link n).en || (s.link n).xp then (s, none)
  else (s.drew, if bit v 0 then some (bit v 1, v / 4 % 256) else none)

/-- What training has found on the links: the links that answer, each with whether the peer's Beacon agrees, and MEAS. -/
def State.trainAll (s : State) : State × List (Nat × Bool × Nat) :=
  (List.range 16).foldl (fun x n =>
    match x.1.trained n with
    | (s, some r) => (s, x.2 ++ [(n, r)])
    | (s, none) => (s, x.2)) (s, [])

/-- Steps 3 to 5 for a link that answers: LAT, UP and ALIGNED, with a new key of the two modules (R386, R410), or the link down with
ERR. `compare` says that running partitions forbid a new Beacon value. -/
def State.alignLink (s : State) (n : Nat) (compare agrees : Bool) (meas : Nat) : State :=
  let l := s.link n
  let lat := if l.lat = 0 then max 96 (8 * cdiv meas 8) else l.lat
  let bad := decide (160 < meas) || decide (lat < meas) || (compare && !agrees)
  let s := s.updLink n (fun l =>
    if bad then { l with meas := meas, up := false }
    else { l with meas := meas, lat := lat, up := true, alt := false, heard := s.now, key := s.keyNext + 1 })
  let h := s.hub
  let t : State := { s with hub := { h with alErr := h.alErr || bad,
                                            aligned := if bad then h.aligned else h.aligned ||| BitVec.ofNat 16 (2 ^ n) } }
  if bad then t else { t with keyNext := t.keyNext + 1 }.watchLink n

/-- The steps of R390: the module's dies and links have one Beacon, and DONE is set. The reference is the lowest module among those
that answer; a reference compares nothing. -/
def State.align (s : State) : State :=
  let run := s.anyRunning
  let differ := (List.range 8).any (fun d => s.beaconOf d != s.beaconOf 8)
  let s := if run then s else s.loadBeacons
  let s : State := { s with hub := { s.hub with aligned := 0, alErr := s.hub.alErr || (run && differ) } }
  let (s, l) := s.trainAll
  let ref := l.all (fun x => decide (s.hub.modn < (s.link x.1).peer))
  let s := l.foldl (fun s x => s.alignLink x.1 (run && !ref) x.2.1 x.2.2) s
  -- a module that is not the reference takes the marker's value plus MEAS, which is a free value of this module
  let s := if ref || run then s
    else
      let v := s.drawVal
      ({ s.drew with beacon := Fm.set s.beacon 8 (v % 2 ^ 64) }).loadBeacons
  { s with hub := { s.hub with alDone := true, ref_ := ref } }

/-- ALIGN_COMPLETE: the last step ends, and the sequencer goes on. -/
def execAlignComplete (s : State) : Host.Outcome State Fault Refusal :=
  match s.arg with
  | .seq sid =>
    .next (((landReg s.align sid .seamEnd).updSeq sid (fun q => { q with ut := q.alignUt.getD q.ut, alignUt := none })).schedAll)
  | _ => .next s

/-! ## Die reset (R398) -/

/-- Whether a task is placed on a half of a die. -/
def State.dieBusy (s : State) (die : Nat) : Bool :=
  s.seqs.any (fun e => dieOf e.1 == die && !isMgmt e.1 && e.2.run != .idle)

/-- DIE_RESET (R398): refused for H and for a die with tasks, else BUSY, and 20 cycles later the fence. A DIE that names no die
(9 to 15) and a GO while a reset runs are refused too, which is the model's choice (log entry 89). -/
def execDieReset (s : State) : Host.Outcome State Fault Refusal :=
  match s.arg with
  | .die n =>
    if 8 ≤ n ∨ s.dieBusy n ∨ s.hub.drstBusy then .next { s with hub := { s.hub with drstRef := true } }
    else .next (({ s with hub := { s.hub with drstBusy := true } }).after 20 0 0 .dieResetFence (.die n))
  | _ => .next s

/-- DIE_RESET_FENCE: nothing more is sent to the die. -/
def execDieResetFence (s : State) : Host.Outcome State Fault Refusal :=
  match s.arg with
  | .die n => .next (({ s with fenced := Fm.set s.fenced n s.now }).after 64 0 0 .dieResetExecute (.die n))
  | _ => .next s

/-- The DRAM of a page is zero, its tags 0x7F00 (R345). -/
def State.wipePage (s : State) (x : OwnPage) : State :=
  (blocksOf x.1 x.2.1).foldl (fun s t => s.dramWrite (s.place t.1).loc t.1 x.2.2 0 (2 ^ 64 - 1) 0x7F00 0 false) s

/-- Requests that wait on a die, at its sync engine or in its replay buffers, are answered with error completions; what else waits in
a buffer meets the fence when it comes again (R398). -/
def State.turnAway (s : State) (die : Nat) : State :=
  let waiters := (s.syncs.filter (fun e => homeDie (16 * e.1) == die)).flatMap (fun e => e.2.waiters)
  let held := s.replays.filter (fun h => h.die == die)
  let t : State := { s with replays := s.replays.filter (fun h => h.die != die) }
  let t := waiters.foldl (fun t a => t.errorAt a) t
  held.foldl (fun t h => match h.ins, h.arg with
    | .accessHomeCycle, .access a => t.errorAt a
    | _, _ => t.push (h.event t.now)) t

/-- What a die holds is zero or at its reset value: scratchpads, cores, slices, RDC, TLB, sync engines, domain blocks, attention
state, engine tables. -/
def State.wipeDie (s : State) (die : Nat) : State :=
  let pages := (s.parts.flatMap (fun e => if e.2.get 2 1 = 0 then [] else s.ownPages e.1)).filter (fun x => homeDie x.1 == die)
  let s := if die < 4 then (List.range 36).foldl (fun s c => s.wipeSpad (36 * die + c)) s else s
  let s := (List.range 32).foldl (fun s i => s.wipeSlice (32 * die + i)) s
  let s := pages.foldl (fun s x => s.wipePage x) s
  { s with
    seqs := s.seqs.map (fun e => if dieOf e.1 = die then (e.1, { paths := e.2.paths }) else e)
    cores := s.cores.filter (fun e => e.1 % 16 != die || decide (65536 ≤ e.1))
    doms := s.doms.filter (fun e => e.1 / 16 != die), rdc := s.rdc.filter (fun e => e.1 / 8192 / 4 != die)
    tlb := Fm.del s.tlb die, syncs := s.syncs.filter (fun e => homeDie (16 * e.1) != die)
    ctxs := s.ctxs.filter (fun e => e.1 / 4096 != die), plists := s.plists.filter (fun e => e.1 / 65536 != die)
    engines := s.engines.filter (fun e => e.1 / 16 != die), kvPool := s.kvPool.filter (fun e => e.1 % 1024 / 64 != die)
    detached := Fm.del s.detached die, tiers := Fm.del s.tiers die }

/-- DIE_RESET_EXECUTE: the die resets and is wiped; its links retrain in a number of cycles that the spec does not give. -/
def execDieResetExecute (s : State) : Host.Outcome State Fault Refusal :=
  match s.arg with
  | .die n => .next (((s.turnAway n).wipeDie n).drew.after (1 + s.drawVal) 0 0 .dieResetComplete (.die n))
  | _ => .next s

/-- DIE_RESET_COMPLETE: the die's Beacon copy is the hub's, its links are open, BUSY clears. -/
def execDieResetComplete (s : State) : Host.Outcome State Fault Refusal :=
  match s.arg with
  | .die n =>
    let t : State := { s with fenced := Fm.del s.fenced n, beacon := if s.beacon.isEmpty then [] else Fm.set s.beacon n s.hubOffset,
                              hub := { s.hub with drstBusy := false } }
    .next t.schedAll
  | _ => .next s

end Sys2Proof.Machine
end

