-- ==== Sys2Proof/Machine/HostEv.lean ====
section
/-! DEFINITION. The host's side of the module: virtual functions and their rings (R401 to R404), Bruex images (R405 to R408),
attestation (R411), fuses and the life cycle (R409, R416). -/

namespace Sys2Proof.Machine

open Sys2Proof

/-! ## Virtual functions (R401, R402) -/

def State.vf (s : State) (f : Nat) : Vf := Fm.get {} s.vfs f
def State.updVf (s : State) (f : Nat) (k : Vf → Vf) : State := { s with vfs := Fm.set s.vfs f (k (s.vf f)) }

/-- What the host reads at an offset of a function's register block: all ones where the function is not bound (R401), 0 at a
register that is not listed. -/
def State.vfRead (s : State) (f reg : Nat) : Nat :=
  match s.vfPart f with
  | none => 2 ^ 64 - 1
  | some p =>
    let v := s.vf f
    match reg with
    | 0x000 => v.sqb
    | 0x008 => v.sqn
    | 0x010 => v.sqt
    | 0x018 => v.sqh
    | 0x020 => v.cqb
    | 0x028 => v.cqh
    | 0x030 => v.cqt
    | 0x038 => (if v.en then 1 else 0) + (if v.ovf then 2 else 0) + 4 * p
    | _ => 0

/-- The index after `n` in a ring of SIZE + 1 entries. -/
def Vf.after (v : Vf) (n : Nat) : Nat := if v.sqn ≤ n then 0 else n + 1

/-- Whether a doorbell write covers no entry that is left to read: its function's ring is not in service, or has been read up to
its TAIL; a TAIL beyond SIZE names no entry (log entry 47). -/
def State.bellVoid (s : State) (b : Nat × Nat × Nat) : Bool :=
  let v := s.vf b.1
  !v.en || (s.vfPart b.1).isNone || v.sqh == b.2.1 || decide (v.sqn < b.2.1)
/-- The hub goes on to read the entries of the oldest doorbell write that has some, 16 cycles after the last entry of its function
(R403, R404). -/
def State.ringNext (s : State) : State :=
  let s := { s with bells := s.bells.dropWhile s.bellVoid }
  match s.bells with
  | [] => s
  | b :: _ =>
    if s.agenda.any (fun e => decide (e.ins = .sqDoorbell) && decide (e.arg = .id b.1)) then s
    else s.push { cyc := max s.now (s.vf b.1).next, cls := 4, key := hostKey, ins := .sqDoorbell, arg := .id b.1 }
/-- A doorbell write, or the start of a ring, takes its place in the order of arrival. -/
def State.startRing (s : State) (f : Nat) : State :=
  { s with bells := s.bells ++ [(f, (s.vf f).sqt, s.now)] }.ringNext

/-- Whether a host write that reached the hub by cycle `c` has not reached its home (R404). -/
def State.hostWriting (s : State) (c : Nat) : Bool :=
  (s.agenda.map (·.arg) ++ s.replays.map (·.arg)).any (fun x => match x with
    | .access a => a.alloc == .hostPort && a.op == .write && decide (a.issue ≤ c)
    | _ => false)
/-- Whether an earlier entry has not taken effect. -/
def State.entryWaits (s : State) : Bool :=
  (s.agenda.map (·.arg) ++ s.replays.map (·.arg)).any (fun x => match x with
    | .sub _ _ => true
    | _ => false)

/-- VF_REGISTER_WRITE: a write of a function that is not bound is dropped; the ring's place and size are fixed while it is in
service. -/
def execVfRegisterWrite (s : State) : Host.Outcome State Fault Refusal :=
  match s.arg with
  | .vf f reg x =>
    if (s.vfPart f).isNone then .next s
    else
      let en := (s.vf f).en
      let v := x.toNat
      .next (match reg with
        | 0x000 => if en then s else s.updVf f (fun q => { q with sqb := v / 64 * 64 })
        | 0x008 => if en then s else s.updVf f (fun q => { q with sqn := v % 4096 })
        | 0x020 => if en then s else s.updVf f (fun q => { q with cqb := v / 16 * 16 })
        | 0x028 => if en && decide ((s.vf f).sqn < v % 4096) then s else s.updVf f (fun q => { q with cqh := v % 4096 })
        | 0x038 =>
          let t := s.updVf f (fun q => { q with en := bit v 0, ovf := q.ovf && !bit v 1 })
          if bit v 0 && !en then t.startRing f else t
        | _ => s)
  | _ => .next s

/-- A completion is written, or dropped with OVF where the ring is full (R402, R403). Bytes 4 to 7 are free. -/
def State.completion (s : State) (f : Nat) (entry : BlockBits) (status reason value : Nat) : State :=
  let v := s.vf f
  let next := v.after v.cqt
  if next = v.cqh then s.updVf f (fun q => { q with ovf := true })
  else
    let x := bits entry.toNat 16 16 + status * 2 ^ 16 + reason * 2 ^ 24 + s.drawVal % 2 ^ 32 * 2 ^ 32 + value % 2 ^ 64 * 2 ^ 64
    { (s.drew.updVf f (fun q => { q with cqt := next })) with hostMem := Memory.write s.hostMem (v.cqb + 16 * v.cqt) 16 x }

/-- The entry `e` of a function is carried out. -/
def State.performEntry (s : State) (f : Nat) (e : BlockBits) : State :=
  let row (i : Instr) : State := s.after 0 4 (hostKey + 1) i (.sub f e)
  match e.toNat % 256 with
  | 1 => row .hostLoad
  | 2 => row .hostLaunch
  | 3 => row .hostRelease
  | 4 => row .hostUnload
  | 5 => row .hostQuote
  | _ => s.completion f e 3 0 0

/-- SQ_DOORBELL: a write of SQT; and the hub's reading of the next entry of the oldest doorbell write, one in 16 cycles for each
function, after the host writes that came before that write and after the entries before it (R403, R404). -/
def execSqDoorbell (s : State) : Host.Outcome State Fault Refusal :=
  match s.arg with
  | .vf f _ x =>
    if (s.vfPart f).isNone then .next s
    else .next ((s.updVf f (fun q => { q with sqt := x.toNat % 4096 })).startRing f)
  | .id f =>
    let v := s.vf f
    match s.bells with
    | [] => .next s
    | b :: _ =>
      if b.1 ≠ f ∨ s.bellVoid b then .next s.ringNext
      else if s.now < v.next ∨ s.hostWriting b.2.2 ∨ s.entryWaits then
        .next (s.push { cyc := max (s.now + 1) v.next, cls := 4, key := hostKey, ins := .sqDoorbell, arg := .id f })
      else
        let entry := BitVec.ofNat 512 (Memory.read s.hostMem (v.sqb + 64 * v.sqh) 64)
        .next (((s.updVf f (fun q => { q with sqh := v.after v.sqh, next := s.now + 16 })).performEntry f entry).ringNext)
  | _ => .next s

/-- FUNCTION_LEVEL_RESET (R341, R402): the rings are emptied; that of the control function resets its partition, as soon as the
hub can take the command. A function that is not bound is left (R401). -/
def execFunctionLevelReset (s : State) : Host.Outcome State Fault Refusal :=
  match s.arg with
  | .vf f again _ =>
    match s.vfPart f with
    | none => .next s
    | some p =>
      let s := if again = 0 then
          { s.updVf f (fun q => { q with sqh := q.sqt, cqt := q.cqh }) with bells := s.bells.filter (fun b => b.1 != f) }.ringNext
        else s
      if (s.part p).get 0x210 1 ≠ f then .next s
      else if s.hub.psRes = 3 then .next (s.after 1 7 0 .functionLevelReset (.vf f 1 0))
      else
        let s : State := { s with hub := { s.hub with psRes := 3, psPart := p, psReason := 0 } }
        .next (s.after 0 7 0 .partitionReset (.partN p 0))
  | _ => .next s

/-! ## Bruex images (R405 to R407) -/

/-- A section entry (R406). -/
structure Sect where
  type : Nat
  link : Nat
  off : Nat
  size : Nat
  voff : Nat
  digest : Nat
  deriving DecidableEq, Repr

/-- A submitted image: its bytes as one number, and their count. -/
structure Bruex where
  b : Nat
  n : Nat
  deriving DecidableEq, Repr

/-- `n` bytes at an offset. -/
def Bruex.at_ (x : Bruex) (off n : Nat) : Nat := bits x.b (8 * off) (8 * n)
def Bruex.kind (x : Bruex) : Nat := x.at_ 6 1
def Bruex.svn (x : Bruex) : Nat := x.at_ 8 2
def Bruex.cls (x : Bruex) : Nat := x.at_ 0xA 1
def Bruex.keysel (x : Bruex) : Nat := x.at_ 0xB 1

/-- The section entries. -/
def Bruex.sects (x : Bruex) : List Sect :=
  (List.range (x.at_ 7 1)).map (fun i =>
    let o := 0x100 + 48 * i
    { type := x.at_ o 1, link := x.at_ (o + 1) 1, off := x.at_ (o + 4) 4, size := x.at_ (o + 8) 4, voff := x.at_ (o + 12) 4
      digest := x.at_ (o + 16) 32 })
/-- The bytes of a section, as one number. -/
def Bruex.body (x : Bruex) (t : Sect) : Nat := x.at_ t.off t.size
/-- The sections of a type. -/
def Bruex.of (x : Bruex) (type : Nat) : List Sect := x.sects.filter (fun t => t.type == type)
/-- The words of a section. -/
def Bruex.words (x : Bruex) (t : Sect) : List Nat := unpack 32 (t.size / 4) (x.body t)
/-- The digest of the header, the section digests and the key: SHA-256 of bytes 0x000 to 0x87F. -/
def Bruex.source (x : Bruex) : BitVec 256 := sha256 (toBytes x.b 0x880)

/-- Whether no two sections overlap. -/
def sectsApart : List Sect → Bool
  | [] => true
  | t :: r => !r.any (fun u => decide (t.off < u.off + u.size) && decide (u.off < t.off + t.size)) && sectsApart r

/-- Check 1 of R407, with the places that R405 gives the sections. -/
def Bruex.shapeOk (x : Bruex) : Bool :=
  decide (0xA00 ≤ x.n) && x.at_ 0 4 == 0x31585242 && x.at_ 4 2 == 1 && x.at_ 0x10 8 == x.n &&
  decide (1 ≤ x.at_ 7 1) && decide (x.at_ 7 1 ≤ 32) &&
  x.sects.all (fun t => decide (0xA00 ≤ t.off) && t.off % 64 == 0 && decide (t.off + t.size ≤ x.n)) && sectsApart x.sects

/-- Check 3: the key's hash is the fused one of an enrolled slot that is not revoked. -/
def State.keyOk (s : State) (x : Bruex) : Bool :=
  let k := x.keysel
  decide (k ≤ 4) && s.fuses.enrolled.getLsbD k && !s.fuses.revoked.getLsbD k &&
  sha256 (toBytes (x.at_ 0x700 384) 384) == Fm.get 0 s.fuses.khash k && (k == 0 || decide (x.kind < 2))

/-- The timetable table: FIRST, W and HANDLER of each entry. -/
def Bruex.timetables (x : Bruex) (t : Sect) : List (Nat × Nat × Nat) :=
  (List.range (t.size / 16)).map (fun i =>
    let e := x.at_ (t.off + 16 * i) 16
    (bits e 0 32, bits e 32 32, bits e 64 32))

/-- Check 7: the native code and its timetables, or none where the check fails. It asks nothing of KINDs 2 and 3, which have
neither. -/
def Bruex.native (x : Bruex) : Option (List Nat × List (Nat × Nat × Nat)) :=
  if 2 ≤ x.kind then some ([], [])
  else
  let tagged := (x.sects.zipIdx).all (fun e => e.1.type != 2 || x.sects.any (fun u => u.type == 3 && u.link == e.2))
  match x.of (if x.kind = 0 then 1 else 6), x.of 4 with
  | [c], [t] =>
    let code := x.words c
    let tts := x.timetables t
    let ok := tts.all (fun e => decide (e.1 + e.2.1 ≤ code.length) && decide (e.2.2 < e.2.1))
    if !tagged ∨ !ok ∨ 256 < t.size ∨ t.size % 16 ≠ 0 then none
    else if x.kind = 0 then some (code, tts)
    else
      let bounds := (x.of 7).flatMap (fun u => (List.range (u.size / 8)).map (fun i =>
        let e := x.at_ (u.off + 8 * i) 8
        (bits e 0 32, bits e 32 29)))
      translateCode code bounds tts 0
  | _, _ => none

/-- Verification in the order of R407: the reason of the first check that fails, or the native code. -/
def State.verify (s : State) (x : Bruex) : Except Nat (List Nat × List (Nat × Nat × Nat)) :=
  if !x.shapeOk then .error 1
  else if x.at_ 0xC 2 ≠ (if x.kind = 1 then 0 else 9) then .error 2
  else if !s.keyOk x then .error 3
  else if s.fuses.life = 4 || !pssVerifies (x.at_ 0x700 384) x.source (x.at_ 0x880 384) then .error 4
  else if !x.sects.all (fun t => (sha256 (toBytes (x.body t) t.size)).toNat == t.digest) then .error 5
  else if x.svn < Fm.get 0 s.fuses.arc x.cls then .error 6
  else match x.native with
    | some c => .ok c
    | none => .error 7

/-! ## HOST_LOAD (R403, R408) -/

/-- Whether `n` bytes from a virtual address are mapped writable. -/
def State.writable (s : State) (part va n : Nat) : Bool :=
  (pagesOf va n).all (fun t => match s.walk part t.1 with
    | some (e, sz, _) => bit e 2 && bit (s.handleOf part t.1 e sz).perm 1
    | none => false)

/-- Bytes stored at a virtual address with one block tag (R67). -/
def State.vstore (s : State) (part va n x tag : Nat) : State :=
  (pagesOf va n).foldl (fun s t =>
    match s.translate part t.1 with
    | some (pa, k) =>
      s.hwStore { sid := 0xFFFF, op := .write, addr := pa, len := t.2, data := bits x (8 * (t.1 - va)) (8 * t.2),
                  tags := some (List.replicate (blockNum pa t.2) tag), key := k, alloc := .engine, cls := 3, issue := s.now, leave := s.now }
    | none => s) s

/-- The tag of block `i` of section number `k`, as its tags section gives it. -/
def Bruex.tagOf (x : Bruex) (k i : Nat) : Nat :=
  match x.sects.find? (fun u => u.type == 3 && u.link == k) with
  | some u => if 2 * i + 2 ≤ u.size then x.at_ (u.off + 2 * i) 2 else 0x7F00
  | none => 0x7F00

/-- A launch descriptor of an image: fields that byte 27 marks take the image base, byte 27 is cleared, IMG is written. -/
def patchDescriptor (d base img : Nat) : Nat :=
  let d' := if bit d 216 then setBits d 64 56 (bits d 64 56 + base) else d
  let d' := if bit d 217 then setBits d' 120 56 (bits d 120 56 + base) else d'
  setBits (setBits d' 216 8 0) 176 12 img

/-- A section's bytes enter the partition's memory. -/
def State.placeSect (s : State) (part img base : Nat) (x : Bruex) (t : Sect) (k : Nat) : State :=
  (List.range (cdiv t.size 64)).foldl (fun s i =>
    let n := min 64 (t.size - 64 * i)
    let d := x.at_ (t.off + 64 * i) n
    let d := if t.type = 5 then patchDescriptor d base img else d
    s.vstore part (base + t.voff + 64 * i) n d (if t.type = 2 then x.tagOf k i else 0x7F00)) s

/-- An image-table entry written. -/
def State.setImage (s : State) (part img : Nat) (i : Image) : State := s.poke (s.imageAt part img) 64 i.word 0

/-- The pages that the shadow tables of a partition map writable, from a table on: physical base and size. -/
def State.writableIn (s : State) : List (Nat × Nat × Nat) → Nat → List (Nat × Nat)
  | [], _ => []
  | l :: r, table => (List.range (2 ^ l.2.1)).flatMap (fun i =>
      match s.entryAt (table + 8 * i) with
      | none => []
      | some e =>
        if bit e 1 then (if l.2.2 = 3 ∨ !bit e 4 ∨ 2 ≤ bits e 6 2 then [] else [(leafBase e, pageSize l.2.2)])
        else s.writableIn r (leafBase e))
/-- What an image area may not overlap: pages that a shadow entry maps writable (R408), the regions of gates, the code of the images
that are loaded. -/
def State.taken (s : State) : List (Nat × Nat) :=
  s.parts.flatMap (fun e => if e.2.get 2 1 = 0 then [] else s.writableIn walkLevels (e.2.get 8 8)) ++
  (s.gates.filter (fun g => g.2.st != 0)).map (fun g => (g.2.base, 65536 * g.2.size)) ++
  s.imageSrc.map (fun e => let i := s.image (e.1 / 4096) (e.1 % 4096); (i.code, i.tts - i.code + 16 * i.ntt))
/-- The first of `k` places of 64 KiB steps of the compute dies' HBM4E, from place `j` on, at which `n` bytes lie in one die's memory
and overlap nothing that is taken. -/
def freeArea (taken : List (Nat × Nat)) (n : Nat) : Nat → Nat → Option Nat
  | 0, _ => none
  | k + 1, j =>
    let a := dieBase (j / 976562 % 4) + j % 976562 * 65536
    if regionOf a = regionOf (a + n - 1) ∧ regionOf a ≠ .nothing ∧ !taken.any (fun t => overlaps a n t.1 t.2) then some a
    else freeArea taken n k (j + 1)

/-- The effects of LOAD once the image is verified and its pages are writable: native code and timetable table in the image
area at `at_`; data and descriptor sections; the entry. -/
def State.loadImage (s : State) (part img base at_ : Nat) (x : Bruex) (code : List Nat) (tts : List (Nat × Nat × Nat)) : State :=
  let n := 4 * code.length
  let table := at_ + cdiv n 16 * 16
  let s := s.poke at_ n (pack 32 code) 0
  let s := s.poke table (16 * tts.length) (pack 128 (tts.map (fun e => e.1 + e.2.1 * 2 ^ 32 + e.2.2 * 2 ^ 64))) 0
  let s := (x.sects.zipIdx).foldl (fun s e =>
    if e.1.type = 2 ∨ e.1.type = 5 then s.placeSect part img base x e.1 e.2 else s) s
  let s := s.setImage part img { st := 2, reason := 0, ntt := tts.length, base := base, code := at_, tts := table,
                                 digest := (sha256 (toBytes (pack 32 code) n)).toNat }
  { s with imageSrc := Fm.set s.imageSrc (4096 * part + img) x.source }

/-- HOST_LOAD: refused where IMG is verified already; else verified, and loaded or refused with its reason. The place of the image area
is free among those that R408 allows; where there is none, reason 1 (log entry 43). -/
def execHostLoad (s : State) : Host.Outcome State Fault Refusal :=
  match s.arg with
  | .sub f e =>
    match s.vfPart f with
    | none => .next s
    | some p =>
      let img := bits e.toNat 32 16
      let base := bits e.toNat 192 64
      let x : Bruex := { b := Memory.read s.hostMem (bits e.toNat 64 64) (bits e.toNat 128 64), n := bits e.toNat 128 64 }
      if 4096 ≤ img ∨ (s.image p img).st = 2 then .next (s.completion f e 1 1 0)
      else
        let refuse (s : State) (r : Nat) : State :=
          (s.setImage p img { st := 3, reason := r, ntt := 0, base := 0, code := 0, tts := 0, digest := 0 }).completion f e 1 r 0
        if base % 65536 ≠ 0 then .next (refuse s 1)
        else match s.verify x with
          | .error r => .next (refuse s r)
          | .ok (code, tts) =>
            let seen := max (Fm.get 0 s.fuses.seenSvn x.cls) x.svn
            let s : State := { s with fuses := { s.fuses with seenSvn := Fm.set s.fuses.seenSvn x.cls seen } }
            if !x.sects.all (fun t => (t.type != 2 && t.type != 5) || s.writable p (base + t.voff) t.size) then .next (refuse s 1)
            else match freeArea s.taken (4 * code.length + 15 + 16 * tts.length) 3906248 s.drawVal with
              | none => .next (refuse s.drew 1)
              | some a => .next ((s.drew.loadImage p img base a x code tts).completion f e 0 0 0)
  | _ => .next s

/-! ## LAUNCH, RELEASE, UNLOAD (R403, R404) -/

/-- HOST_LAUNCH: the launch is accepted where the pool has room; it is validated with SEQID 0xFFFF. -/
def execHostLaunch (s : State) : Host.Outcome State Fault Refusal :=
  match s.arg with
  | .sub f e =>
    match s.vfPart f with
    | none => .next s
    | some p =>
      let va := bits e.toNat 64 64
      if 256 ≤ s.pool.countP (fun l => l.part == p) then .next (s.completion f e 1 0 0)
      else
        let place := if va % 64 = 0 then s.walk p va else none
        let l : Launch := { id := s.launchNext, part := p, descVa := va, age := s.now, ageKey := 65535, early := s.pstate p == 3 }
        let t : State := { s with pool := s.pool ++ [l], launchNext := s.launchNext + 1 }
        let t := t.completion f e 0 0 0
        .next (match place with
          | some (x, sz, _) =>
            if bit x 2 then
              let h := s.handleOf p va x sz
              t.after 1 4 hostKey .launchReceive (.launch l h (va - h.vbase))
            else (t.updLaunch l.id (fun l => { l with bad := true })).after 1 8 1 .launchReceive (.id l.id)
          | none => (t.updLaunch l.id (fun l => { l with bad := true })).after 1 8 1 .launchReceive (.id l.id))
  | _ => .next s

/-- HOST_RELEASE: a REL by a non-holder; a domain that is out of service holds it (R276). -/
def execHostRelease (s : State) : Host.Outcome State Fault Refusal :=
  match s.arg with
  | .sub f e =>
    match s.vfPart f with
    | none => .next s
    | some p =>
      match s.objectAt p (bits e.toNat 64 64) with
      | none => .next (s.completion f e 1 0 0)
      | some (pa, k) =>
        match s.heldAt pa with
        | some d => .next (s.withhold d pa 4 .hostRelease (.sub f e))
        | none => .next ((s.releaseAt pa k 0xFFFF).completion f e 0 0 0)
  | _ => .next s

/-- Whether a task, a pending launch, with its descriptor read or not, or a ready task of an image exists. -/
def State.imageBusy (s : State) (p img : Nat) : Bool :=
  s.seqs.any (fun q => !isMgmt q.1 && q.2.run != .idle && q.2.task.part == p && q.2.task.img == img) ||
  s.pool.any (fun l => l.part == p && (if l.valid then l.img else bits (s.vpeek p l.descVa 64).1 176 12) == img) || s.saved.any (fun x => x.task.part == p && x.task.img == img)

/-- HOST_UNLOAD: the image number is free again, unless it is in use. -/
def execHostUnload (s : State) : Host.Outcome State Fault Refusal :=
  match s.arg with
  | .sub f e =>
    match s.vfPart f with
    | none => .next s
    | some p =>
      let img := bits e.toNat 32 16 % 4096
      if s.imageBusy p img then .next (s.completion f e 2 0 0)
      else
        let t : State := { s with imageSrc := Fm.del s.imageSrc (4096 * p + img) }
        .next ((t.setImage p img { st := 0, reason := 0, ntt := 0, base := 0, code := 0, tts := 0, digest := 0 }).completion f e 0 0 0)
  | _ => .next s

/-! ## QUOTE (R411) -/

/-- The verified images of a partition, ascending. -/
def State.verified (s : State) (p : Nat) : List Nat := (List.range 4096).filter (fun i => (s.image p i).st == 2)

/-- The bytes of a quote before the signature. -/
def State.quoteBody (s : State) (p nonce : Nat) : List Nat :=
  let l := s.verified p
  let x := s.fuses
  toBytes 0x51545242 4 ++ toBytes (320 + 72 * l.length + 384) 4 ++ toBytes x.serial 8 ++
  [x.life, p, s.gen p] ++ List.replicate 5 0 ++
  (List.range 32).flatMap (fun c => toBytes (Fm.get 0 x.arc c) 4) ++
  (List.range 4).flatMap (fun i => toBytes (Fm.get 0 x.digests i).toNat 32) ++
  toBytes nonce 32 ++ toBytes Config.translatorVersion 4 ++ toBytes l.length 4 ++
  l.flatMap (fun i => toBytes i 4 ++ toBytes 0 4 ++ toBytes (Fm.get 0 s.imageSrc (4096 * p + i)).toNat 32 ++
    toBytes (s.image p i).digest 32)

/-- HOST_QUOTE: the record and its signature by the identity key, whose salt is free; without that key the signature is free. -/
def execHostQuote (s : State) : Host.Outcome State Fault Refusal :=
  match s.arg with
  | .sub f e =>
    match s.vfPart f with
    | none => .next s
    | some p =>
      let body := s.quoteBody p (bits e.toNat 192 256)
      let sign := if s.fuses.identity then Config.identitySign (sha256 body) s.drawVal else s.drawVal
      .next ((s.drew.vpoke p (bits e.toNat 64 64) (body.length + 384) (ofBytes body + sign % 2 ^ 3072 * 2 ^ (8 * body.length))).completion
        f e 0 0 (body.length + 384))
  | _ => .next s

/-! ## Fuses and the life cycle (R409, R410, R416) -/

/-- ANTI_ROLLBACK_RAISE: counter `c` takes value `v` where an image of that class and at least that SVN was verified since the
last reset. A counter only increases, and counters 0 to 7 are raised by Alzin firmware only. -/
def execAntiRollbackRaise (s : State) : Host.Outcome State Fault Refusal :=
  match s.arg with
  | .raise fw c v =>
    let x := s.fuses
    if c < 32 ∧ (fw ∨ 8 ≤ c) ∧ v ≤ 64 ∧ v ≤ Fm.get 0 x.seenSvn c ∧ Fm.get 0 x.arc c < v then
      .next { s with fuses := { x with arc := Fm.set x.arc c v } }
    else .next s
  | _ => .next s

/-- OWNER_KEY_ENROL: the enrolment fuse of slots 1 to 4, with the key's hash. -/
def execOwnerKeyEnrol (s : State) : Host.Outcome State Fault Refusal :=
  match s.arg with
  | .fuse n hash =>
    let x := s.fuses
    if n = 0 ∨ 4 < n ∨ x.enrolled.getLsbD n then .next s
    else .next { s with fuses := { x with enrolled := x.enrolled ||| BitVec.ofNat 5 (2 ^ n),
                                          khash := Fm.set x.khash n (BitVec.ofNat 256 hash) } }
  | _ => .next s

/-- OWNER_KEY_REVOKE: the revocation fuse of slots 1 to 4. -/
def execOwnerKeyRevoke (s : State) : Host.Outcome State Fault Refusal :=
  match s.arg with
  | .fuse n _ =>
    if n = 0 ∨ 4 < n then .next s
    else .next { s with fuses := { s.fuses with revoked := s.fuses.revoked ||| BitVec.ofNat 5 (2 ^ n) } }
  | _ => .next s

/-- The wipe of the module (R416): every SRAM, every DRAM block with tag 0x7F00, the key store, and with the memory the image
tables: the registers and instruction stores of every sequencer, the tables of the hub, the state of the engines. -/
def State.wipeModule (s : State) : State :=
  { s with
    mem := [], mtag := [], ctag := [], bkey := [], bad := [], spad := [], stag := [], sbad := []
    l2 := [], wbuf := [], miss := [], rdc := [], tlb := [], syncs := [], keys := [], ctxs := [], plists := [], kvPool := []
    seqs := [], cores := [], imageSrc := [], parts := [], gates := [], colls := [], exports := [], rpaths := [], pool := [], saved := []
    fatalSlots := [], engines := [], detached := [], tiers := [], revokes := [], replays := [], awaiting := [], accepted := []
    hub := { s.hub with stage := [] } }

/-- LIFE_CYCLE_CHANGE: the next state of the order, at boot before ALIGN, with the wipe. DEPLOYED has an owner key enrolled,
RETURNED revokes the owner keys, RETIRED destroys the identity key. -/
def execLifeCycleChange (s : State) : Host.Outcome State Fault Refusal :=
  match s.arg with
  | .fuse n _ =>
    let x := s.fuses
    let owner := (List.range 4).any (fun i => x.enrolled.getLsbD (i + 1))
    if n ≠ x.life + 1 ∨ 4 < n ∨ 5 ≤ s.bootStep ∨ (n = 2 ∧ !owner) then .next s
    else
      let x : Fuses := { x with life := n, revoked := if n = 3 then x.revoked ||| 0x1E else x.revoked
                                identity := x.identity && n != 4 }
      .next { s.wipeModule with fuses := x }
  | _ => .next s

end Sys2Proof.Machine
end

