-- ==== Sys2Proof/Machine/Boot.lean ====
section
/-! DEFINITION. Boot (R417), the stop of the module (R418), the start of a management task (R38, R432) and the scrub (R302). -/

namespace Sys2Proof.Machine

open Sys2Proof

/-- The most cycles that boot step `n` takes (R417); step 7 has no bound. -/
def bootBound (n : Nat) : Option Nat := [2 ^ 20, 2 ^ 24, 2 ^ 28, 2 ^ 24, 2 ^ 20, 2 ^ 30][n - 1]?

/-- Boot step `n` begins: it ends after a number of cycles within its bound. -/
def State.beginStep (s : State) (n : Nat) : State :=
  let k := match bootBound n with
    | some b => s.drawVal % b
    | none => s.drawVal
  s.drew.after (1 + k) 0 0 .powerOnReset (.id n)

/-- The module stops: nothing is ahead of it any more. BOOTST says why. -/
def State.stopModule (s : State) (why : Nat) : State :=
  { s with stopped := true, agenda := [], bootst := BitVec.ofNat 16 why,
           seqs := s.seqs.map (fun e => (e.1, { e.2 with run := .idle, fq := [], joins := [] })) }

/-- What the host reads of the physical function: BOOTST at BAR0 offset 0x000, and, once the function is usable, the certificate of the
identity key (R411, R417). -/
def State.pfRead (s : State) (off : Nat) : Option Nat :=
  if off = 0 then some s.bootst.toNat else if s.bootStep < 7 ∨ !s.fuses.identity then none else Config.certificate off

/-- The next `n` images of the boot, which come from outside the machine: free bytes and lengths (log entry 48). -/
def State.drawImages (s : State) : Nat → List Bruex × State
  | 0 => ([], s)
  | n + 1 =>
    let x : Bruex := { b := s.drawVal, n := s.drew.drawVal }
    let (l, s) := s.drew.drew.drawImages n
    (x :: l, s)
/-- The check of R407 that a boot image fails; 0 where it passes all and is of its KIND. -/
def State.bootReason (s : State) (kind : Nat) (x : Bruex) : Nat :=
  match s.verify x with
  | .error r => r
  | .ok _ => if x.kind = kind then 0 else 7

/-- A verified image: its SVN counts for its class (R409). -/
def State.sawImage (s : State) (x : Bruex) : State :=
  { s with fuses := { s.fuses with seenSvn := Fm.upd 0 s.fuses.seenSvn x.cls (max x.svn) } }
/-- The digest of a verified image that quotes report (R411). -/
def State.setDigest (s : State) (i : Nat) (x : Bruex) : State :=
  { s with fuses := { s.fuses with digests := Fm.set s.fuses.digests i x.source } }

/-- A management sequencer starts at word 0, untimed, with the registers of R38 (R37, R432). -/
def State.startMgmt (s : State) (sid words handler code : Nat) : State :=
  let t : Task := { words := words, handler := handler, code := code, halves := 1, since := s.ptime 63 }
  let s := s.updSeq sid (fun q => { q.vacant with task := t, tvec := BitVec.ofNat 16 handler })
  (s.goFrom sid 0).updSeq sid (fun q => { q with ut := true, dline := none })

/-- The hypervisor image starts on the management sequencers: each has the words of the payload in its instruction store and starts
at word 0 (log entry 48). -/
def State.startHypervisor (s : State) (x : Bruex) : State :=
  let words := (x.of 8).flatMap x.words
  (List.range 8).foldl (fun s n =>
    let sid := mgmtSid n
    let store := words.zipIdx.foldl (fun m e => Fm.set m e.2 (BitVec.ofNat 32 e.1)) []
    (s.updCore (storeKey sid) (fun c => { c with badWords := [], store := store })).startMgmt sid words.length 0 0) s

/-- The wipe of boot step 6: the management sequencers, which run the hypervisor since step 4, keep their state (log entry 82). -/
def State.bootWipe (s : State) : State :=
  let t := s.wipeModule
  { t with seqs := s.seqs.filter (fun e => isMgmt e.1), cores := s.cores.filter (fun e => decide (65536 ≤ e.1)) }

/-- What a boot step does: its reason where it fails, 0 where it succeeds. Step 2 verifies the firmware of the hub, the home agent, the
tier sequencers and the schedulers, step 4 the hypervisor; step 5 aligns the Beacon, step 6 wipes the module and makes the key of
id 0. -/
def State.bootEffect (s : State) (n : Nat) : Nat × State :=
  match n with
  | 1 =>
    let v := s.drawVal
    -- the firmware of the security processor, which runs from ROM
    (0, { s.drew with fuses := { s.fuses with digests := Fm.set s.fuses.digests 0 (BitVec.ofNat 256 v) } })
  | 2 =>
    let (l, s) := s.drawImages 4
    match l.find? (fun x => s.bootReason 2 x != 0) with
    | some x => (s.bootReason 2 x, s)
    | none => (0, ((l.take 2).zipIdx).foldl (fun s e => s.setDigest (e.2 + 1) e.1) (l.foldl (fun s x => s.sawImage x) s))
  | 4 =>
    let (l, s) := s.drawImages 1
    l.foldl (fun r x => if s.bootReason 3 x ≠ 0 then (s.bootReason 3 x, r.2)
      else (r.1, ((r.2.sawImage x).setDigest 3 x).startHypervisor x)) (0, s)
  | 5 => (0, s.align)
  | 6 => (0, s.bootWipe.newKey 0)
  | _ => (0, s)

/-- POWER_ON_RESET: the steps in order; each one succeeds or fails, and a failure stops the boot with BOOTST. -/
def execPowerOnReset (s : State) : Host.Outcome State Fault Refusal :=
  match s.arg with
  | .none => .next (s.beginStep 1)
  | .id n =>
    let v := s.drawVal
    let s := s.drew
    if bit v 0 then .next (s.stopModule (n + v / 2 % 256 * 256))
    else
      let (r, s) := s.bootEffect n
      if r ≠ 0 then .next (s.stopModule (n + r % 256 * 256))
      else
        let s : State := { s with bootStep := n }
        .next (if n < 7 then s.beginStep (n + 1) else s)
  | _ => .next s

/-- THERMAL_SHUTDOWN: all dies stop at once, with BOOTST[7:0] = 0xFE. -/
def execThermalShutdown (s : State) : Host.Outcome State Fault Refusal := .next (s.stopModule 0xFE)

/-- MANAGEMENT_TASK_START: management sequencer `n` starts a timetable, untimed (R37), with the registers of R38. It has no
launch and no mask (R438), so g0 to g2 are 0 like the others. -/
def execManagementTaskStart (s : State) : Host.Outcome State Fault Refusal :=
  match s.arg with
  | .mgmt n words handler code =>
    let sid := mgmtSid n
    if 8 ≤ n ∨ (s.seq sid).run ≠ .idle then .next s
    else .next ((s.loadWords sid code words).startMgmt sid words handler code)
  | _ => .next s

/-- 64 bits of a register are lost: they read as zeros. -/
def zeroWord (x w : Nat) : Nat := setBits x (64 * w) 64 0

/-- A double-bit error strikes storage of a sequencer; the mask tile m0 holds nothing. -/
def Seq.strike (q : Seq) (x : Spot) : Seq :=
  let q := { q with upset := if q.upset.contains x then q.upset else q.upset ++ [x] }
  match x with
  | .g n => q.setG n 0
  | .tile n w => { q with v := Fm.upd 0 q.v n (fun t => BitVec.ofNat 32768 (zeroWord t.toNat w)) }
  | .mask n w => if n = 0 then q.mend (· == x) else q.setM n (BitVec.ofNat 16384 (zeroWord (q.mr n).toNat w))
  | .level n => { q with lstk := q.lstk.modify n (fun l => { l with count := 0, index := 0 }) }
  | .amax r e => { q with rings := Fm.set q.rings r { q.ring r with ent := Fm.set (q.ring r).ent e 0 } }

/-- A double-bit error strikes: what it strikes is uncorrectable and reads as zeros (R301, R302, R334). -/
def State.strike (s : State) : Upset → State
  | .spot sid x => s.updSeq sid (fun q => q.strike x)
  | .row core r w => s.updCore core (fun c => { c with
      acc := Fm.upd 0 c.acc r (fun x => BitVec.ofNat 16384 (zeroWord x.toNat w)), badRows := c.badRows ++ [(r, w)] })
  | .word key n => s.updCore key (fun c => { c with badWords := n :: c.badWords })
  | .spad cluster a => { s with sbad := (spadAddr cluster a / 64) :: s.sbad.filter (· != spadAddr cluster a / 64) }
  | .line pa =>
    let p := s.place pa
    s.setLines p ((s.lines p).map (fun l => if l.pa = pa / 64 then { l with bad := true } else l))
  | .rdc die pa =>
    { s with rdc := Fm.set s.rdc (rdcKey die pa) ((Fm.get [] s.rdc (rdcKey die pa)).map (fun l =>
        if l.pa = pa / 64 then { l with bad := true } else l)) }

/-- SRAM_SCRUB (R302): a line is read and corrected in cycles reserved for it. A single-bit error never shows, so nothing changes; a
double-bit error, where the event names one, cannot be corrected. -/
def execSramScrub (s : State) : Host.Outcome State Fault Refusal :=
  match s.arg with
  | .upset u => .next (s.strike u)
  | _ => .next s

end Sys2Proof.Machine
end

