-- ==== Sys2Proof/Machine/Fetch.lean ====
section
/-! DEFINITION. The fetch unit, the splitter and the issue rule of a sequencer (R92, R119, R314 to R316, R437): which
words stand in the column queues, when each arrived, which word is due, and the joins ahead. -/

namespace Sys2Proof.Machine

open Sys2Proof

/-- CTL opcodes by what they do to fetch: 2 BR, 3 BRP, 4 CALL, 5 RET, 6 LOOP, 7 LOOPI, 8 LBRK, 9 YIELD, 10 SEAM, 11
WAITB, 14 END, 16 ERET (R96). 63 for a word of another column. -/
def ctlOp (q : QWord) : Nat := if q.col = 0 ∧ !q.oor then opOf q.w else 63

/-- A word behind which nothing issues until it has issued: a transfer that may be taken (R116; log entry 6). -/
def QWord.undecided (q : QWord) : Bool :=
  let o := ctlOp q
  o == 2 || o == 3 || o == 4 || o == 5 || o == 6 || o == 8 || o == 16 || q.oor

/-- Whether a word, or the literal that follows it, is uncorrectable in the instruction store (R302, R324). -/
def State.wordBad (s : State) (sid : Nat) (e : QWord) : Bool :=
  let l := (s.core (storeKey sid)).badWords
  l.contains (s.physWord sid e.pc) || (e.lit.isSome && l.contains (s.physWord sid (e.pc + 1)))

/-- Words of column `c` in the queues. -/
def Seq.inColumn (q : Seq) (c : Nat) : Nat := q.fq.countP (·.col == c)

/-- The arrival cycle of the next fetch position (R314). -/
def Seq.arrival (q : Seq) : Nat := q.fbase + q.fpos / 8

/-- The loop test at the end of a body (R119), on the fetch loop stack, innermost level last in `n`: the levels that end
are popped, `n` counts them. Answers the new stack, the next word index, the join, or none where the count is not known
yet (R437). -/
def loopEnd (run last : Nat) : List FetchLevel → Nat → Option (List FetchLevel × Nat × JoinOp × Nat)
  | [], n => some ([], last + 1, .pop n false, last + 1)
  | l :: r, n =>
    if l.start + l.len = last + 1 ∧ l.start ≤ run ∧ run < l.start + l.len then
      match l.count with
      | none => none
      | some c =>
        if l.iter + 1 < c then
          some ({ l with iter := l.iter + 1 } :: r, l.start, if n = 0 then .advance else .pop n true, l.start)
        else loopEnd run last r (n + 1)
    else some (l :: r, last + 1, .pop n false, run)

/-- Whether the word that ends at index `last` is the end word of the innermost level (R119). -/
def atLoopEnd (run last : Nat) : List FetchLevel → Bool
  | [] => false
  | l :: _ => l.start + l.len == last + 1 && decide (l.start ≤ run) && decide (run < l.start + l.len)

/-- The join behind the words fetched so far. -/
def Seq.addJoin (q : Seq) (op : JoinOp) (pc : Nat) : Seq :=
  { q with fgrp := q.fgrp + 1, joins := q.joins ++ [{ after := q.ffo, op := op, pc := pc, grp := q.fgrp + 1 }] }

/-- Fetch passes index `last`: the loop test, if it applies there, else the next index (R119, R437). -/
def Seq.passed (q : Seq) (last : Nat) : Seq :=
  if atLoopEnd q.frun last q.fstk then
    match loopEnd q.frun last q.fstk 0 with
    | none => { q with fhold := true, fpc := last }
    | some (stk, next, op, run) =>
      { q.addJoin op next with fstk := stk, fpc := next, frun := if op = .advance then next else run, fhold := false }
  else { q with fpc := last + 1 }

/-- The splitter places a word in the queue of its column; from the first word on whose queue is full, it holds back that word
and all behind it (R314). -/
def Seq.splitWord (q : Seq) (e : QWord) : Seq :=
  if q.bq.isEmpty && decide (q.inColumn e.col < 32) then { q with fq := q.fq ++ [{ e with arr := q.arrival }] }
  else { q with bq := q.bq ++ [{ e with arr := q.fpos }] }

/-- Fetch of one instruction word with its literal (R92, R93, R314). It stops behind a word after which fetch is always
redirected, and at an index out of range, which joins against every word before it (R12). A literal that is missing leaves the
word behind its owner an instruction word of its own (log entry 87). A body may end with the owner of a literal or with the literal
(R119). -/
def State.fetchOne (s : State) (sid : Nat) : State :=
  let q := s.seq sid
  match s.fetchAt sid q.fpc with
  | none =>
    let q := if q.ffo != 0 then q.addJoin .plain q.fpc else q
    let q := q.splitWord { pc := q.fpc % 65536, w := 0, fo := q.ffo, grp := q.fgrp, flo := q.fflo, oor := true, stk := q.fstk }
    s.setSeq sid { q with ffo := q.ffo + 1, fstop := true }
  | some w =>
      let col := engOf w
      let lit := s.fetchAt sid (q.fpc + 1)
      let n := if takesLiteral w && lit.any (fun l => engOf l == engOf w) then 2 else 1
      let op := if col = 0 then opOf w else 63
      let alone := op == 9 || op == 10 || op == 11 || op == 14
      let q := if alone && q.ffo != 0 then q.addJoin .plain q.fpc else q
      let e : QWord := { pc := q.fpc, w := w, lit := if takesLiteral w then lit else none, col := col, dly := dlyOf w,
                         fo := q.ffo, grp := q.fgrp, flo := q.fflo, stk := q.fstk }
      let last := q.fpc + n - 1
      let q := q.splitWord e
      let q := { q with ffo := q.ffo + 1, fpos := q.fpos + n }
      let q := if alone then q.addJoin .plain (last + 1) else q
      if op = 2 ∨ op = 4 ∨ op = 5 ∨ op = 14 ∨ op = 16 then s.setSeq sid { q with fstop := true, fpc := last + 1 }
      else if n = 2 ∧ (op = 6 ∨ op = 7) then
        let len := bits (lit.getD 0) 0 16
        if op = 7 ∧ bits w 0 20 = 0 then s.setSeq sid { q.addJoin .first (last + 1 + len) with fpc := last + 1 + len }
        else
          let q := q.addJoin .first (last + 1)
          s.setSeq sid { q with
            fstk := { count := if op = 7 then some (bits w 0 20) else none, iter := 0, start := last + 1, len := len,
                      fo := e.fo } :: q.fstk
            fpc := last + 1, frun := last + 1 }
      else s.setSeq sid (q.passed (if atLoopEnd q.frun e.pc q.fstk then e.pc else last))

/-- The words read and not issued, in fetch order: those in the column queues and those that the splitter holds back. -/
def Seq.ahead (q : Seq) : List QWord := q.fq ++ q.bq

/-- Whether a word of column `c` that is not read yet could be due: none of the column is read, and the column's chain and the
floor have come (R315); in timed mode only, where each column's head is due on its own. -/
def Seq.mayStarve (q : Seq) (now c : Nat) : Bool :=
  !q.ut && !q.ahead.any (·.col == c) && decide (max q.floor ((q.column c).next.getD 0) ≤ now - q.slip)

/-- Whether the fetch unit goes on. Behind a full queue it reads on only where a word of some column may starve before the next
join, to know that word and its cycle (R314, R316). -/
def Seq.fetching (q : Seq) (now : Nat) : Bool :=
  !(q.fhold || q.fstop) && (q.bq.isEmpty || (q.fgrp == q.grp && (List.range 8).any (q.mayStarve now)))

/-- Up to `n` further words. -/
def State.fetchN (s : State) (sid : Nat) : Nat → State
  | 0 => s
  | n + 1 => if (s.seq sid).fetching s.now && (s.seq sid).run == .run then (s.fetchOne sid).fetchN sid n else s

/-- The words that the fetch unit of `sid` can read now: it reads on until a column queue is full or the path behind it is
not known; each word carries the cycle in which it arrives (R314). -/
def State.fetchAhead (s : State) (sid : Nat) : State := s.fetchN sid 66000

/-- Words that the splitter held back reach their queues, until one finds its queue full. -/
def Seq.release (q : Seq) : Nat → Seq
  | 0 => q
  | n + 1 =>
    match q.bq with
    | [] => q
    | e :: r =>
      if q.inColumn e.col < 32 then
        Seq.release { q with fq := q.fq ++ [{ e with arr := q.fbase + e.arr / 8 }], bq := r } n
      else q

/-- A word of column `c` has left its queue: a word that the splitter held back for it reaches the queue in the next cycle, and
the words behind it follow, eight to a cycle (R314). -/
def Seq.unblock (q : Seq) (now c : Nat) : Seq :=
  match q.bq with
  | [] => q
  | e :: _ =>
    if e.col ≠ c then q
    else
      let q := if q.fbase + e.arr / 8 ≤ now then
          { q with fbase := now + 1, fpos := q.fpos - e.arr, bq := q.bq.map (fun x => { x with arr := x.arr - e.arr }) }
        else q
      q.release q.bq.length

/-! ## Which word is due (R315, R316) -/

/-- The cycle t of R315 in the sequencer's own clock. -/
def Seq.timeOf (q : Seq) (e : QWord) : Nat :=
  let f := max q.floor e.flo
  (match (q.column e.col).next with
   | none => f
   | some n => max n f) + e.dly

/-- Whether the word may issue as far as joins, seams and undecided words go. -/
def Seq.eligible (q : Seq) (e : QWord) : Bool :=
  e.grp == q.grp && !q.seam && q.waitb.isNone && !q.ahead.any (fun x => decide (x.fo < e.fo) && x.undecided)

/-- The words whose cycle has come: in timed mode the heads of the columns with t at or before now; in untimed mode the
first word in fetch order, not before its arrival (R316). -/
def Seq.dueWords (q : Seq) (now : Nat) : List QWord :=
  if q.run != .run || q.heldAt == some now then []
  else if q.ut then
    match q.fq with
    | [] => []
    | e :: _ =>
      if q.eligible e && decide (q.timeOf e ≤ now - q.slip) && decide (e.arr ≤ now) && e.tried != some now then [e] else []
  else
    (List.range 8).filterMap (fun c =>
      match q.ahead.find? (fun e => e.col == c) with
      | none => none
      | some e => if q.eligible e && decide (q.timeOf e ≤ now - q.slip) && e.tried != some now then some e else none)

/-- The due words that have not reached their queue: fetch starvation in timed mode (R316). -/
def Seq.starved (q : Seq) (now : Nat) : List QWord :=
  (q.dueWords now).filter (fun e => decide (now < e.arr) || q.bq.any (fun x => x.fo == e.fo))

/-- The next join, where every word before it has issued and J has come (R120); J is in the sequencer's own clock. -/
def Seq.joinDue (q : Seq) (now : Nat) : Option Join :=
  match q.joins with
  | [] => none
  | j :: _ =>
    if (q.run == .run) && !q.seam && q.waitb.isNone && !q.ahead.any (fun e => decide (e.fo < j.after)) &&
        decide (q.lastIssue + 1 ≤ now - q.slip ∨ j.op = .plain) && q.heldAt != some now
    then some j else none

/-- The words after a join: floor J. A column's chain, never beyond J but for a WAIT, stays, so that a WAIT delays the next word
of its column behind the join too (R115, R315; log entry 45). -/
def Seq.joinTo (q : Seq) (j : Join) (fl : Nat) : Seq :=
  { q with joins := q.joins.drop 1, grp := j.grp, floor := max q.floor fl }

/-- What a join does to the architectural loop stack (R119, R120). -/
def applyJoin (op : JoinOp) (l : List LoopLevel) : List LoopLevel :=
  match op with
  | .plain | .first => l
  | .advance =>
    match l.reverse with
    | [] => []
    | x :: r => ({ x with index := x.index + 1 } :: r).reverse
  | .pop n adv =>
    let l := l.take (l.length - n)
    match adv, l.reverse with
    | true, x :: r => ({ x with index := x.index + 1 } :: r).reverse
    | _, _ => l

end Sys2Proof.Machine
end

