-- ==== Sys2Proof/Machine/Control.lean ====
section
/-! DEFINITION. The meanings of the CTL column but for the system registers (R115 to R132, R437, R438), and of the events of
fetch and issue (R120, R125, R314, R316, R320). -/

namespace Sys2Proof.Machine

open Sys2Proof

/-! ## NOP, WAIT and unassigned opcodes -/

/-- NOP (R115): no effect; a column that a management sequencer does not have executes nothing (R37, R438). -/
def execNop (e : BitVec 3) (s : State) : Host.Outcome State Fault Refusal :=
  s.issueFree (fun s => if isMgmt s.cur.sid && [2, 4, 5].contains e.toNat then s.illegal else s)

/-- WAIT (R115): the next word of its column issues imm14 cycles later than it would. -/
def execWait (e : BitVec 3) (i : BitVec 14) (s : State) : Host.Outcome State Fault Refusal :=
  s.issueFree (fun s =>
    if isMgmt s.cur.sid && [2, 4, 5].contains e.toNat then s.illegal else { s with cur := { s.cur with extra := i.toNat } })

/-- A word whose OP its engine does not assign (R94, R95): an illegal instruction, which is what it does, in its due cycle, also while
its column is occupied (log entry 88). -/
def execUnassignedOpcode (_w : BitVec 32) (s : State) : Host.Outcome State Fault Refusal := .next s.illegal

/-! ## Branches (R116, R117) -/

def execBr (i : BitVec 20) (s : State) : Host.Outcome State Fault Refusal :=
  s.issue 1 (fun s => s.transfer (branchTarget s.cur.pc i.toInt) s.cur.stk)

def execBrp (sel : BitVec 5) (i : BitVec 14) (s : State) : Host.Outcome State Fault Refusal :=
  s.issue 1 (fun s => if s.me.pred sel.toNat then s.transfer (branchTarget s.cur.pc i.toInt) s.cur.stk else s)

def execCall (i : BitVec 20) (s : State) : Host.Outcome State Fault Refusal :=
  s.issue 1 (fun s =>
    (s.land 2 [.g 63 (BitVec.ofNat 64 (s.cur.pc + 1))]).transfer (branchTarget s.cur.pc i.toInt) s.cur.stk)

/-- RET: a register with bits above 15 set names an index out of range. -/
def execRet (g : BitVec 6) (s : State) : Host.Outcome State Fault Refusal :=
  s.issue 1 (fun s =>
    let x := (s.g g).toNat
    s.transfer (if x < 65536 then x else 65536 + x % 65536) s.cur.stk)

/-! ## Loops (R118 to R121, R437) -/

/-- Whether a body of `len` words from `start` is empty or ends outside the innermost level. -/
def Seq.loopBad (q : Seq) (start len : Nat) : Bool :=
  len == 0 || (match q.lstk.getLast? with
    | some l => decide (l.start + l.len < start + len)
    | none => false)

/-- The fetch unit learns the count of the loop word at place `fo` of fetch order. -/
def FetchLevel.learn (fo c : Nat) (l : FetchLevel) : FetchLevel :=
  if l.fo = fo ∧ l.count.isNone then { l with count := some c } else l

/-- A loop level is pushed (R13, R118). -/
def Seq.pushLevel (q : Seq) (count start len : Nat) : Seq :=
  { q with lstk := q.lstk ++ [{ count := count, index := 0, start := start, len := len }] }

/-- The count of a LOOP is known: a fetch unit that held at the body's last word goes on. The rules do not say when the words
after the hold arrive, but not before the next cycle: `free` is a free value (log entry 8). -/
def Seq.countKnown (q : Seq) (now fo c free : Nat) : Seq :=
  let learn (e : QWord) : QWord := { e with stk := e.stk.map (FetchLevel.learn fo c) }
  let q : Seq := { q with fstk := q.fstk.map (FetchLevel.learn fo c), fq := q.fq.map learn, bq := q.bq.map learn }
  if q.fhold then
    let q : Seq := { q with fpos := max q.fpos (8 * (now + 1 + free - q.fbase)) }
    q.passed q.fpc
  else q

/-- LOOP: the count is read here; a count of 0 is a taken transfer to the word after the body. -/
def execLoop (g : BitVec 6) (len : BitVec 16) (s : State) : Host.Outcome State Fault Refusal :=
  s.issue 1 (fun s =>
    let q := s.me
    let start := s.cur.pc + 2
    let c := (s.g g).toNat % 2 ^ 32
    if q.loopBad start len.toNat then s.illegal
    else if c = 0 then
      (s.transfer (start + len.toNat) s.cur.stk).updMe (fun q => q.addJoin .first (start + len.toNat))
    else if 6 ≤ q.lstk.length then s.illegal
    else
      let free := s.drawVal
      let s := if q.fhold then s.drew else s
      s.setMe ((q.pushLevel c start len.toNat).countKnown s.now s.cur.fo c free))

/-- LOOPI: the fetch unit knows the count; with a count of 0 it has gone on behind the body. -/
def execLoopi (cnt : BitVec 20) (len : BitVec 16) (s : State) : Host.Outcome State Fault Refusal :=
  s.issue 1 (fun s =>
    let q := s.me
    let start := s.cur.pc + 2
    if q.loopBad start len.toNat then s.illegal
    else if cnt = 0 then s
    else if 6 ≤ q.lstk.length then s.illegal
    else s.setMe (q.pushLevel cnt.toNat start len.toNat))

/-- LBRK: where the condition holds, the innermost level is popped and the branch taken. -/
def execLbrk (sel : BitVec 6) (i : BitVec 14) (s : State) : Host.Outcome State Fault Refusal :=
  s.issue 1 (fun s =>
    let q := s.me
    if q.lstk.isEmpty then s.illegal
    else if bit sel.toNat 5 || q.pred (sel.toNat % 32) then
      (s.setMe { q with lstk := q.lstk.dropLast }).transfer (branchTarget s.cur.pc i.toInt) (s.cur.stk.drop 1)
    else s)

/-! ## Delivery points: YIELD, SEAM, END (R123, R124, R128) -/

/-- Whether a copy or a nest of the sequencer is in flight where no one may be (R123, R128, R317). -/
def Seq.stillBusy (q : Seq) : Bool := !q.ut && (q.inFlight || q.nest.live)

/-- Where no loop level is active, a pending event is delivered here. -/
def State.deliverHere (s : State) (sid resume : Nat) : State :=
  if (s.seq sid).lstk.isEmpty then s.takeEvent sid resume else s

/-- A new deadline `d` cycles of partition time from now. -/
def State.newDeadline (s : State) (sid d : Nat) : State :=
  (s.updSeq sid (fun q => { q with dline := some (s.ptime q.task.part + d) })).armDeadline sid

/-- Handles whose page is being revoked become invalid (R39). -/
def Seq.dropRevoked (q : Seq) : Seq :=
  { q with h := q.h.map (fun e => (e.1, if e.2.rp then { e.2 with v := false } else e.2)) }

/-- What a YIELD does where nothing of the sequencer is in flight, or where a timing fault says that something is. -/
def State.yield (s : State) (d live : Nat) : State :=
  let sid := s.cur.sid
  let pc := s.cur.pc + 2
  let s := s.updMe Seq.dropRevoked
  let s := s.passedYield sid false
  if isMgmt sid then s
  else
    let y := s.me.ybound
    let s := s.fallback (decide (y < d))
    let s := s.newDeadline sid (if d = 0 ∨ y < d then y else d)
    let q := s.me
    if q.tact then s
    else
    let s := s.settleWarnings
    let q := s.me
    if q.stopp then (s.setMe { q with slend := false, stopp := false }).endTask sid 9 0 pc
    else if q.slend then s.giveAway sid live pc
    else s.deliverHere sid pc

/-- YIELD (R122, R123). -/
def execYield (i : BitVec 14) (live : BitVec 29) (s : State) : Host.Outcome State Fault Refusal :=
  if s.colBusy then .next s.stall
  else if s.me.stillBusy && !s.me.trapMode then .next s.stall
  else
    let s := s.occupy 1
    let s := if s.me.stillBusy then s.violation s.cur.sid 0 true else s
    .next (s.yield (64 * i.toNat) live.toNat)

/-- SEAM (R124). -/
def execSeam (s : State) : Host.Outcome State Fault Refusal :=
  s.issue 1 (fun s => (s.updMe (fun q => { q with ut := true })).deliverHere s.cur.sid (s.cur.pc + 1))

/-- What END does to a task whose half it ends on: nothing more issues, and the half is released when what was issued has
completed. A management sequencer has no half: it is idle from then on. -/
def State.ended (s : State) : State :=
  let sid := s.cur.sid
  let off (q : Seq) (r : Run) : Seq := { q with run := r, fq := [], bq := [], joins := [], fstop := true, dline := none }
  ((s.updMe (fun q => off q .finishing)).passedYield sid false).after 0 8 4 .schedulerPlacement (.seq sid)

/-- END (R128): a pending event is delivered first, and END issues again after the handler. -/
def execEndTask (s : State) : Host.Outcome State Fault Refusal :=
  if s.colBusy then .next s.stall
  else if s.me.stillBusy && !s.me.trapMode then .next s.stall
  else
    let s := s.occupy 1
    let s := if s.me.stillBusy then s.violation s.cur.sid 0 true else s
    let q := s.me
    .next (if q.lstk.isEmpty && !q.tact && !q.pend.isEmpty then s.takeEvent s.cur.sid s.cur.pc else s.ended)

/-! ## WAITB (R125) -/

/-- The end of a WAITB goes on the agenda for partition time `t`. -/
def State.armWaitb (s : State) (sid t : Nat) : State :=
  s.push { cyc := max s.now (s.cycleOf (s.seq sid).task.part t), cls := 1, key := landKey s.now sid 0, ins := .waitbComplete,
           arg := .seqN sid t }

def execWaitb (g : BitVec 6) (s : State) : Host.Outcome State Fault Refusal :=
  s.issue 1 (fun s =>
    let t := (s.g g).toNat
    if s.me.tact then s.illegal
    else if t < s.ptime s.myPart then { s.updMe (fun q => q.post 0x11 0) with cur := { s.cur with fault := true } }
    else (s.updMe (fun q => { q with waitb := some t })).armWaitb s.cur.sid t)

/-- WAITB_COMPLETE: partition time has reached G; the sequencer is timed and in step. -/
def execWaitbComplete (s : State) : Host.Outcome State Fault Refusal :=
  match s.arg with
  | .seqN sid t =>
    let q := s.seq sid
    if q.waitb ≠ some t then .next s
    else if s.ptime q.task.part < t ∨ q.run = .halted then
      .next (s.push { cyc := max (s.now + 1) (s.cycleOf q.task.part t), cls := 1, key := landKey s.now sid 0,
                      ins := .waitbComplete, arg := .seqN sid t })
    else .next (s.setSeq sid { q with waitb := none, ut := false, desync := false, floor := max q.floor (s.now - q.slip + 1) })
  | _ => .next s

/-! ## LAUNCH (R127) -/

/-- LAUNCH: a pool entry is reserved where one is free; the descriptor is read as a memory-class load. -/
def execLaunch (p h : BitVec 4) (g : BitVec 6) (s : State) : Host.Outcome State Fault Refusal :=
  s.issue 1 (fun s =>
    let x := s.me.hr h.toNat
    let off := s.me.gn g.toNat
    let sid := s.cur.sid
    let part := s.myPart
    if !s.handleOk x permRead then s.handleFault
    else if !boundsOk x off 64 64 then s.boundsFault
    else if part = 63 ∨ 256 ≤ s.pool.countP (fun l => l.part == part) then s.land 48 [.p p.toNat false]
    else
      let early := s.pstate part == 3
      let l : Launch :=
        { id := s.launchNext, part := part, sidFrom := sid, descVa := x.vbase + off, age := s.now, ageKey := sid, early := early }
      let s : State := { s with pool := s.pool ++ [l], launchNext := s.launchNext + 1 }
      (s.land 48 [.p p.toNat true]).after 140 4 (homeKey sid s.now 0) .launchReceive (.launch l x off))

/-! ## TRAP, ERET, BKPT (R129 to R132) -/

def execTrap (i : BitVec 14) (s : State) : Host.Outcome State Fault Refusal :=
  s.issue 1 (fun s => s.updMe (fun q =>
    let q := if q.fatal || q.pend.any (·.code == 0x15) then q else { q with targ := i.toNat }
    q.post 0x15 0))

def execEret (s : State) : Host.Outcome State Fault Refusal :=
  s.issue 1 (fun s =>
    let q := s.me
    if isMgmt s.cur.sid || q.pl != 1 || !q.tact || q.lstk.length != q.tpos.toNat / 65536 then s.illegal
    else s.returnFromEvent)

/-- The words of the present cycle that have not issued, which a BKPT leaves for the resume cycle (R132, R333). -/
def Seq.standing (q : Seq) (now : Nat) : Seq :=
  let due := q.dueWords now
  { q with fq := q.fq.map (fun e => if due.any (fun d => d.fo == e.fo) then { e with dly := 0 } else e) }

/-- BKPT: a NOP, or, with debug enabled, the freeze of the partition at t + 64; its own sequencer issues nothing after it. -/
def execBkpt (_i : BitVec 14) (s : State) : Host.Outcome State Fault Refusal :=
  s.issue 1 (fun s =>
    let p := s.myPart
    if p = 63 || !bit ((s.part p).get 3 1) 0 then s
    else
      let sid := s.cur.sid
      let s := s.updMe (fun q => { q.standing s.now with run := .halted, pc := s.cur.pc })
      let s := s.updPart p (fun x => { x with bkpt := x.bkpt ++ [sid] })
      s.after 64 0 0 .freezeBegin (.freeze p (s.beaconOf 8 + 64)))

/-! ## Events of fetch and issue -/

/-- FETCH_WORDS (R314): the fetch unit of a sequencer reads on; every step does this first for each running sequencer. -/
def execFetchWords (s : State) : Host.Outcome State Fault Refusal :=
  match s.arg with
  | .seq sid => .next (if (s.seq sid).run = .run then s.fetchAhead sid else s)
  | _ => .next s

/-- FETCH_STARVATION (R316, R317): a word is due that has not reached its column queue. -/
def execFetchStarvation (s : State) : Host.Outcome State Fault Refusal :=
  match s.arg with
  | .seqN sid fo =>
    match (s.seq sid).ahead.find? (fun e => e.fo == fo) with
    | none => .next s
    | some e =>
      .next ((s.violation sid e.col (!e.posted)).updSeq sid (fun q =>
        let tried (x : QWord) : QWord :=
          if x.fo = fo then { x with posted := x.posted || q.trapMode, tried := some s.now } else x
        { q with fq := q.fq.map tried, bq := q.bq.map tried }))
  | _ => .next s

/-- A boundary that advances or pops a loop level reads it: a double-bit error there is recorded, and the level is written anew
(R334). -/
def State.noteLevels (s : State) (sid : Nat) (op : JoinOp) : State :=
  let bad := (s.seq sid).upset.filter (fun x => match x with
    | .level _ => op != .plain && op != .first
    | _ => false)
  bad.foldl (fun s x => (s.updSeq sid (fun q => q.mend (· == x))).uncorrectable sid 0 0 0xFFFFFFF) s

/-- ITERATION_BOUNDARY (R119, R120, R130): the words behind a join may issue from J on, the loop stack takes its new value, and
at a join of a loop a pending event is delivered. -/
def execIterationBoundary (s : State) : Host.Outcome State Fault Refusal :=
  match s.arg with
  | .seq sid =>
    let q := s.seq sid
    match q.joinDue s.now with
    | none => .next s
    | some j =>
      let q : Seq := { q.joinTo j (q.lastIssue + 1) with lstk := applyJoin j.op q.lstk }
      let s := (s.setSeq sid q).noteLevels sid j.op
      .next (if j.op = .plain then s else s.takeEvent sid j.pc)
  | _ => .next s

/-- DEADLINE_FAULT (R123, R320): no YIELD has issued by the time at which the deadline expires. -/
def execDeadlineFault (s : State) : Host.Outcome State Fault Refusal :=
  match s.arg with
  | .seqN sid t =>
    let q := s.seq sid
    if q.dline ≠ some t ∨ (q.run ≠ .run ∧ q.run ≠ .halted) then .next s
    else if s.ptime q.task.part < t then
      .next (s.push { cyc := max (s.now + 1) (s.cycleOf q.task.part t), cls := 9, key := sid, ins := .deadlineFault,
                      arg := .seqN sid t })
    else .next (s.endTask sid 5 0 (match q.fq with
      | e :: _ => e.pc
      | [] => q.fpc))
  | _ => .next s

end Sys2Proof.Machine
end

