-- ==== Sys2Proof/Machine/Landing.lean ====
section
/-! DEFINITION. RESULT_LANDING: every effect that takes its place in a cycle after its word issued (R113, R134, R149, R225,
R229, R272). -/

namespace Sys2Proof.Machine

open Sys2Proof

/-- One effect takes its place. -/
def State.landOne (s : State) (sid : Nat) (l : Land) : State :=
  match l with
  | .push _ _ _ _ _ | .pop _ | .qwait _ _ _ _ _ | .qrsv _ _ => s.landQueue sid l
  | .bind kind q desc => s.bindInForce sid kind q desc
  | .sysreg n v => s.updSeq sid (fun q => q.writeReg n v)
  | .hub die n v => if die = 8 then s.writeHub sid n v else s.writeDie die n v
  | .sample n die dst issue => s.landAt sid 0 issue (issue + 42) [.g dst (BitVec.ofNat 64 (s.dieReg die n))]
  | l => landReg s sid l

/-- RESULT_LANDING (R113): the effects of one word that land in this cycle, in order. -/
def execResultLanding (s : State) : Host.Outcome State Fault Refusal :=
  match s.arg with
  | .land sid l => .next (l.foldl (fun s x => s.landOne sid x) s)
  | _ => .next s

end Sys2Proof.Machine
end

