-- ==== Sys2Proof/Machine/Scalar.lean ====
section
/-! DEFINITION. The meanings of the SCA column (R112, R135 to R146). -/

namespace Sys2Proof.Machine

open Sys2Proof

/-! ## Shells -/

/-- A word that writes g register `a` at +`lat` and holds the datapath for `occ` cycles (R112, R113). -/
def State.toG (s : State) (occ lat : Nat) (a : BitVec 6) (v : W64) : Host.Outcome State Fault Refusal :=
  s.issue occ (fun s => s.land lat [.g a.toNat v])

/-- A word that writes predicate `p` at +2 (R112). -/
def State.toP (s : State) (p : BitVec 4) (b : Bool) : Host.Outcome State Fault Refusal :=
  s.issue 1 (fun s => s.land 2 [.p p.toNat b])

/-- A floating-point word: result and flags land together (R46, R112). -/
def State.toF (s : State) (occ lat : Nat) (a : BitVec 6) (v : W64 × Nat) : Host.Outcome State Fault Refusal :=
  s.issue occ (fun s => s.land lat (.g a.toNat v.1 :: flagLands v.2))

/-- A floating-point compare: predicate and flags (R144). -/
def State.toFP (s : State) (p : BitVec 4) (v : Bool × Nat) : Host.Outcome State Fault Refusal :=
  s.issue 1 (fun s => s.land 2 (.p p.toNat v.1 :: flagLands v.2))

/-! ## Integer arithmetic and logic (R136, R137) -/

def execAdd (a b c : BitVec 6) (s : State) : Host.Outcome State Fault Refusal := s.toG 1 2 a (s.g b + s.g c)
def execSub (a b c : BitVec 6) (s : State) : Host.Outcome State Fault Refusal := s.toG 1 2 a (s.g b - s.g c)
def execAddi (a b : BitVec 6) (i : BitVec 8) (s : State) : Host.Outcome State Fault Refusal :=
  s.toG 1 2 a (s.g b + i.signExtend 64)
def execMul (a b c : BitVec 6) (s : State) : Host.Outcome State Fault Refusal := s.toG 1 4 a (s.g b * s.g c)
def execMulhs (a b c : BitVec 6) (s : State) : Host.Outcome State Fault Refusal := s.toG 1 4 a (mulHighS (s.g b) (s.g c))
def execMulhz (a b c : BitVec 6) (s : State) : Host.Outcome State Fault Refusal := s.toG 1 4 a (mulHigh (s.g b) (s.g c))
def execDivs (a b c : BitVec 6) (s : State) : Host.Outcome State Fault Refusal := s.toG 20 20 a (divS (s.g b) (s.g c))
def execDivz (a b c : BitVec 6) (s : State) : Host.Outcome State Fault Refusal := s.toG 20 20 a (divZ (s.g b) (s.g c))
def execRems (a b c : BitVec 6) (s : State) : Host.Outcome State Fault Refusal := s.toG 20 20 a (remS (s.g b) (s.g c))
def execRemz (a b c : BitVec 6) (s : State) : Host.Outcome State Fault Refusal := s.toG 20 20 a (remZ (s.g b) (s.g c))
def execAnd (a b c : BitVec 6) (s : State) : Host.Outcome State Fault Refusal := s.toG 1 2 a (s.g b &&& s.g c)
def execOr (a b c : BitVec 6) (s : State) : Host.Outcome State Fault Refusal := s.toG 1 2 a (s.g b ||| s.g c)
def execXor (a b c : BitVec 6) (s : State) : Host.Outcome State Fault Refusal := s.toG 1 2 a (s.g b ^^^ s.g c)
def execAndn (a b c : BitVec 6) (s : State) : Host.Outcome State Fault Refusal := s.toG 1 2 a (s.g b &&& ~~~(s.g c))

/-- The count of a shift by register: gc[5:0] (R136). -/
def shiftCount (c : W64) : Nat := c.toNat % 64

def execShl (a b c : BitVec 6) (s : State) : Host.Outcome State Fault Refusal := s.toG 1 2 a (s.g b <<< shiftCount (s.g c))
def execShr (a b c : BitVec 6) (s : State) : Host.Outcome State Fault Refusal := s.toG 1 2 a (s.g b >>> shiftCount (s.g c))
def execSar (a b c : BitVec 6) (s : State) : Host.Outcome State Fault Refusal :=
  s.toG 1 2 a ((s.g b).sshiftRight (shiftCount (s.g c)))
def execRor (a b c : BitVec 6) (s : State) : Host.Outcome State Fault Refusal :=
  s.toG 1 2 a ((s.g b).rotateRight (shiftCount (s.g c)))
def execShli (a b i : BitVec 6) (s : State) : Host.Outcome State Fault Refusal := s.toG 1 2 a (s.g b <<< i.toNat)
def execShri (a b i : BitVec 6) (s : State) : Host.Outcome State Fault Refusal := s.toG 1 2 a (s.g b >>> i.toNat)
def execSari (a b i : BitVec 6) (s : State) : Host.Outcome State Fault Refusal := s.toG 1 2 a ((s.g b).sshiftRight i.toNat)
def execMins (a b c : BitVec 6) (s : State) : Host.Outcome State Fault Refusal :=
  s.toG 1 2 a (if sg (s.g b) ≤ sg (s.g c) then s.g b else s.g c)
def execMaxs (a b c : BitVec 6) (s : State) : Host.Outcome State Fault Refusal :=
  s.toG 1 2 a (if sg (s.g b) ≤ sg (s.g c) then s.g c else s.g b)
def execMinz (a b c : BitVec 6) (s : State) : Host.Outcome State Fault Refusal :=
  s.toG 1 2 a (if (s.g b).toNat ≤ (s.g c).toNat then s.g b else s.g c)
def execMaxz (a b c : BitVec 6) (s : State) : Host.Outcome State Fault Refusal :=
  s.toG 1 2 a (if (s.g b).toNat ≤ (s.g c).toNat then s.g c else s.g b)
def execClz (a b : BitVec 6) (s : State) : Host.Outcome State Fault Refusal :=
  s.toG 1 2 a (BitVec.ofNat 64 (leadingZeros (s.g b)))
def execPopc (a b : BitVec 6) (s : State) : Host.Outcome State Fault Refusal :=
  s.toG 1 2 a (BitVec.ofNat 64 (onesCount (s.g b)))

/-! ## Constants (R138) -/

def execMovi (a : BitVec 6) (i : BitVec 14) (s : State) : Host.Outcome State Fault Refusal := s.toG 1 2 a (i.signExtend 64)
/-- MOVX: imm14 in bits [42:29], the literal in bits [28:0]. -/
def execMovx (g : BitVec 6) (hi : BitVec 14) (lo : BitVec 29) (s : State) : Host.Outcome State Fault Refusal :=
  s.toG 1 2 g ((hi ++ lo).signExtend 64)
/-- MOVHX: bits [63:32] replaced, bits [31:0] read at issue. -/
def execMovhx (g : BitVec 6) (hi : BitVec 3) (lo : BitVec 29) (s : State) : Host.Outcome State Fault Refusal :=
  s.toG 1 2 g ((hi ++ lo) ++ (s.g g).setWidth 32)

/-! ## Compares, selection and predicate logic (R139, R140) -/

def execCmpeq (p : BitVec 4) (b c : BitVec 6) (s : State) : Host.Outcome State Fault Refusal := s.toP p (s.g b == s.g c)
def execCmpne (p : BitVec 4) (b c : BitVec 6) (s : State) : Host.Outcome State Fault Refusal := s.toP p (s.g b != s.g c)
def execCmplts (p : BitVec 4) (b c : BitVec 6) (s : State) : Host.Outcome State Fault Refusal :=
  s.toP p (decide (sg (s.g b) < sg (s.g c)))
def execCmples (p : BitVec 4) (b c : BitVec 6) (s : State) : Host.Outcome State Fault Refusal :=
  s.toP p (decide (sg (s.g b) ≤ sg (s.g c)))
def execCmpltz (p : BitVec 4) (b c : BitVec 6) (s : State) : Host.Outcome State Fault Refusal :=
  s.toP p (decide ((s.g b).toNat < (s.g c).toNat))
def execCmplez (p : BitVec 4) (b c : BitVec 6) (s : State) : Host.Outcome State Fault Refusal :=
  s.toP p (decide ((s.g b).toNat ≤ (s.g c).toNat))
def execCmpeqi (p : BitVec 4) (b : BitVec 6) (i : BitVec 8) (s : State) : Host.Outcome State Fault Refusal :=
  s.toP p (s.g b == i.signExtend 64)
def execCmpltsi (p : BitVec 4) (b : BitVec 6) (i : BitVec 8) (s : State) : Host.Outcome State Fault Refusal :=
  s.toP p (decide (sg (s.g b) < i.toInt))
/-- SEL: M names p0 to p3. -/
def execSel (a b c : BitVec 6) (p : BitVec 2) (s : State) : Host.Outcome State Fault Refusal :=
  s.toG 1 2 a (if s.me.pr p.toNat then s.g b else s.g c)
def execPand (a : BitVec 4) (b c : BitVec 5) (s : State) : Host.Outcome State Fault Refusal :=
  s.toP a (s.me.pred b.toNat && s.me.pred c.toNat)
def execPor (a : BitVec 4) (b c : BitVec 5) (s : State) : Host.Outcome State Fault Refusal :=
  s.toP a (s.me.pred b.toNat || s.me.pred c.toNat)
def execPxor (a : BitVec 4) (b c : BitVec 5) (s : State) : Host.Outcome State Fault Refusal :=
  s.toP a (s.me.pred b.toNat != s.me.pred c.toNat)
def execPnot (a : BitVec 4) (b : BitVec 5) (s : State) : Host.Outcome State Fault Refusal := s.toP a (!s.me.pred b.toNat)

/-- IDX (R141): INDEX of an active level, else 0; levels 6 and 7 are an illegal instruction (R90). -/
def execIdx (a : BitVec 6) (l : BitVec 3) (s : State) : Host.Outcome State Fault Refusal :=
  if 6 ≤ l.toNat then s.issue 1 State.illegal
  else s.toG 1 2 a (BitVec.ofNat 64 (((s.me.lstk[l.toNat]?).map (·.index)).getD 0))

/-- SEXT and ZEXT (R142): the field holds w − 1. -/
def execSext (a b w : BitVec 6) (s : State) : Host.Outcome State Fault Refusal :=
  s.toG 1 2 a (signExtendFrom (s.g b) (w.toNat + 1))
def execZext (a b w : BitVec 6) (s : State) : Host.Outcome State Fault Refusal :=
  s.toG 1 2 a (zeroExtendFrom (s.g b) (w.toNat + 1))

/-! ## Floating point (R143 to R145) -/

/-- gb + gc, gb − gc, gb × gc, gb ÷ gc, sqrt(gb) and gb × gc + ga, rounded once (R143). -/
def fAdd (t mode : Nat) (b c : W64) : W64 × Nat := scalarRound t mode (addVal mode (scalarVal t b) (scalarVal t c))
def fSub (t mode : Nat) (b c : W64) : W64 × Nat := scalarRound t mode (addVal mode (scalarVal t b) (scalarVal t c).neg)
def fMul (t mode : Nat) (b c : W64) : W64 × Nat := scalarRound t mode (mulVal (scalarVal t b) (scalarVal t c))
def fDiv (t mode : Nat) (b c : W64) : W64 × Nat := scalarRound t mode (divVal (scalarVal t b) (scalarVal t c))
def fSqrt (t mode : Nat) (b : W64) : W64 × Nat := scalarRound t mode (sqrtVal (scalarVal t b))
def fFma (t mode : Nat) (b c a : W64) : W64 × Nat :=
  scalarRound t mode (fmaVal mode (scalarVal t b) (scalarVal t c) (scalarVal t a))

def execFadd (a b c : BitVec 6) (p : BitVec 1) (s : State) : Host.Outcome State Fault Refusal :=
  s.toF 1 4 a (fAdd (precision p) 0 (s.g b) (s.g c))
def execFaddLiteral (a b c : BitVec 6) (p : BitVec 1) (rm : BitVec 2) (s : State) : Host.Outcome State Fault Refusal :=
  s.toF 1 4 a (fAdd (precision p) rm.toNat (s.g b) (s.g c))
def execFsub (a b c : BitVec 6) (p : BitVec 1) (s : State) : Host.Outcome State Fault Refusal :=
  s.toF 1 4 a (fSub (precision p) 0 (s.g b) (s.g c))
def execFsubLiteral (a b c : BitVec 6) (p : BitVec 1) (rm : BitVec 2) (s : State) : Host.Outcome State Fault Refusal :=
  s.toF 1 4 a (fSub (precision p) rm.toNat (s.g b) (s.g c))
def execFmul (a b c : BitVec 6) (p : BitVec 1) (s : State) : Host.Outcome State Fault Refusal :=
  s.toF 1 4 a (fMul (precision p) 0 (s.g b) (s.g c))
def execFmulLiteral (a b c : BitVec 6) (p : BitVec 1) (rm : BitVec 2) (s : State) : Host.Outcome State Fault Refusal :=
  s.toF 1 4 a (fMul (precision p) rm.toNat (s.g b) (s.g c))
def execFfma (a b c : BitVec 6) (p : BitVec 1) (s : State) : Host.Outcome State Fault Refusal :=
  s.toF 1 5 a (fFma (precision p) 0 (s.g b) (s.g c) (s.g a))
def execFfmaLiteral (a b c : BitVec 6) (p : BitVec 1) (rm : BitVec 2) (s : State) : Host.Outcome State Fault Refusal :=
  s.toF 1 5 a (fFma (precision p) rm.toNat (s.g b) (s.g c) (s.g a))
def execFdiv (a b c : BitVec 6) (p : BitVec 1) (s : State) : Host.Outcome State Fault Refusal :=
  s.toF 16 16 a (fDiv (precision p) 0 (s.g b) (s.g c))
def execFdivLiteral (a b c : BitVec 6) (p : BitVec 1) (rm : BitVec 2) (s : State) : Host.Outcome State Fault Refusal :=
  s.toF 16 16 a (fDiv (precision p) rm.toNat (s.g b) (s.g c))
def execFsqrt (a b : BitVec 6) (p : BitVec 1) (s : State) : Host.Outcome State Fault Refusal :=
  s.toF 18 18 a (fSqrt (precision p) 0 (s.g b))
def execFsqrtLiteral (a b : BitVec 6) (p : BitVec 1) (rm : BitVec 2) (s : State) : Host.Outcome State Fault Refusal :=
  s.toF 18 18 a (fSqrt (precision p) rm.toNat (s.g b))

/-- FCVT (R145). -/
def execFcvt (a b : BitVec 6) (dst src : BitVec 4) (rm : BitVec 2) (s : State) : Host.Outcome State Fault Refusal :=
  s.toF 1 4 a (scalarConvert dst.toNat src.toNat rm.toNat s.ovinf (s.g b))

def execFcmplt (a : BitVec 4) (b c : BitVec 6) (p : BitVec 1) (s : State) : Host.Outcome State Fault Refusal :=
  s.toFP a (cmpLt (scalarVal (precision p) (s.g b)) (scalarVal (precision p) (s.g c)))
def execFcmpeq (a : BitVec 4) (b c : BitVec 6) (p : BitVec 1) (s : State) : Host.Outcome State Fault Refusal :=
  s.toFP a (cmpEq (scalarVal (precision p) (s.g b)) (scalarVal (precision p) (s.g c)))
def execFmin (a b c : BitVec 6) (p : BitVec 1) (s : State) : Host.Outcome State Fault Refusal :=
  s.toF 1 2 a (scalarRound (precision p) 0 (minVal (scalarVal (precision p) (s.g b)) (scalarVal (precision p) (s.g c))))
def execFmax (a b c : BitVec 6) (p : BitVec 1) (s : State) : Host.Outcome State Fault Refusal :=
  s.toF 1 2 a (scalarRound (precision p) 0 (maxVal (scalarVal (precision p) (s.g b)) (scalarVal (precision p) (s.g c))))

/-- BEAC (R146): partition time in the issue cycle. -/
def execBeac (a : BitVec 6) (s : State) : Host.Outcome State Fault Refusal :=
  s.toG 1 2 a (BitVec.ofNat 64 (s.ptime s.myPart))

end Sys2Proof.Machine
end

