-- ==== Sys2Proof/Machine/Dispatch.lean ====
section
/-! DEFINITION. One arm per instruction: each calls its meaning. -/

namespace Sys2Proof.Machine

open Sys2Proof

def exec (i : Instr) (s : State) : Host.Outcome State Fault Refusal :=
  match i with
  | .nop e => Sys2Proof.Machine.execNop e s
  | .wait e im => Sys2Proof.Machine.execWait e im s
  | .br im => Sys2Proof.Machine.execBr im s
  | .brp sel im => Sys2Proof.Machine.execBrp sel im s
  | .call im => Sys2Proof.Machine.execCall im s
  | .ret g => Sys2Proof.Machine.execRet g s
  | .loop g len => Sys2Proof.Machine.execLoop g len s
  | .loopi cnt len => Sys2Proof.Machine.execLoopi cnt len s
  | .lbrk sel im => Sys2Proof.Machine.execLbrk sel im s
  | .yield im live => Sys2Proof.Machine.execYield im live s
  | .seam => Sys2Proof.Machine.execSeam s
  | .waitb g => Sys2Proof.Machine.execWaitb g s
  | .align => Sys2Proof.Machine.execAlign s
  | .launch p h g => Sys2Proof.Machine.execLaunch p h g s
  | .endTask => Sys2Proof.Machine.execEndTask s
  | .trap im => Sys2Proof.Machine.execTrap im s
  | .eret => Sys2Proof.Machine.execEret s
  | .bkpt im => Sys2Proof.Machine.execBkpt im s
  | .smode t => Sys2Proof.Machine.execSmode t s
  | .rdsr g sl => Sys2Proof.Machine.execRdsr g sl s
  | .wrsr g sl => Sys2Proof.Machine.execWrsr g sl s
  | .add a b c => Sys2Proof.Machine.execAdd a b c s
  | .sub a b c => Sys2Proof.Machine.execSub a b c s
  | .addi a b im => Sys2Proof.Machine.execAddi a b im s
  | .mul a b c => Sys2Proof.Machine.execMul a b c s
  | .mulhs a b c => Sys2Proof.Machine.execMulhs a b c s
  | .mulhz a b c => Sys2Proof.Machine.execMulhz a b c s
  | .divs a b c => Sys2Proof.Machine.execDivs a b c s
  | .divz a b c => Sys2Proof.Machine.execDivz a b c s
  | .rems a b c => Sys2Proof.Machine.execRems a b c s
  | .remz a b c => Sys2Proof.Machine.execRemz a b c s
  | .and a b c => Sys2Proof.Machine.execAnd a b c s
  | .or a b c => Sys2Proof.Machine.execOr a b c s
  | .xor a b c => Sys2Proof.Machine.execXor a b c s
  | .andn a b c => Sys2Proof.Machine.execAndn a b c s
  | .shl a b c => Sys2Proof.Machine.execShl a b c s
  | .shr a b c => Sys2Proof.Machine.execShr a b c s
  | .sar a b c => Sys2Proof.Machine.execSar a b c s
  | .ror a b c => Sys2Proof.Machine.execRor a b c s
  | .shli a b im => Sys2Proof.Machine.execShli a b im s
  | .shri a b im => Sys2Proof.Machine.execShri a b im s
  | .sari a b im => Sys2Proof.Machine.execSari a b im s
  | .mins a b c => Sys2Proof.Machine.execMins a b c s
  | .maxs a b c => Sys2Proof.Machine.execMaxs a b c s
  | .minz a b c => Sys2Proof.Machine.execMinz a b c s
  | .maxz a b c => Sys2Proof.Machine.execMaxz a b c s
  | .clz a b => Sys2Proof.Machine.execClz a b s
  | .popc a b => Sys2Proof.Machine.execPopc a b s
  | .movi a im => Sys2Proof.Machine.execMovi a im s
  | .movx g hi lo => Sys2Proof.Machine.execMovx g hi lo s
  | .movhx g hi lo => Sys2Proof.Machine.execMovhx g hi lo s
  | .cmpeq p b c => Sys2Proof.Machine.execCmpeq p b c s
  | .cmpne p b c => Sys2Proof.Machine.execCmpne p b c s
  | .cmplts p b c => Sys2Proof.Machine.execCmplts p b c s
  | .cmples p b c => Sys2Proof.Machine.execCmples p b c s
  | .cmpltz p b c => Sys2Proof.Machine.execCmpltz p b c s
  | .cmplez p b c => Sys2Proof.Machine.execCmplez p b c s
  | .cmpeqi p b im => Sys2Proof.Machine.execCmpeqi p b im s
  | .cmpltsi p b im => Sys2Proof.Machine.execCmpltsi p b im s
  | .sel a b c p => Sys2Proof.Machine.execSel a b c p s
  | .pand a b c => Sys2Proof.Machine.execPand a b c s
  | .por a b c => Sys2Proof.Machine.execPor a b c s
  | .pxor a b c => Sys2Proof.Machine.execPxor a b c s
  | .pnot a b => Sys2Proof.Machine.execPnot a b s
  | .idx a l => Sys2Proof.Machine.execIdx a l s
  | .sext a b w => Sys2Proof.Machine.execSext a b w s
  | .zext a b w => Sys2Proof.Machine.execZext a b w s
  | .fadd a b c p => Sys2Proof.Machine.execFadd a b c p s
  | .faddLiteral a b c p rm => Sys2Proof.Machine.execFaddLiteral a b c p rm s
  | .fsub a b c p => Sys2Proof.Machine.execFsub a b c p s
  | .fsubLiteral a b c p rm => Sys2Proof.Machine.execFsubLiteral a b c p rm s
  | .fmul a b c p => Sys2Proof.Machine.execFmul a b c p s
  | .fmulLiteral a b c p rm => Sys2Proof.Machine.execFmulLiteral a b c p rm s
  | .ffma a b c p => Sys2Proof.Machine.execFfma a b c p s
  | .ffmaLiteral a b c p rm => Sys2Proof.Machine.execFfmaLiteral a b c p rm s
  | .fdiv a b c p => Sys2Proof.Machine.execFdiv a b c p s
  | .fdivLiteral a b c p rm => Sys2Proof.Machine.execFdivLiteral a b c p rm s
  | .fsqrt a b p => Sys2Proof.Machine.execFsqrt a b p s
  | .fsqrtLiteral a b p rm => Sys2Proof.Machine.execFsqrtLiteral a b p rm s
  | .fcvt a b dst src rm => Sys2Proof.Machine.execFcvt a b dst src rm s
  | .fcmplt a b c p => Sys2Proof.Machine.execFcmplt a b c p s
  | .fcmpeq a b c p => Sys2Proof.Machine.execFcmpeq a b c p s
  | .fmin a b c p => Sys2Proof.Machine.execFmin a b c p s
  | .fmax a b c p => Sys2Proof.Machine.execFmax a b c p s
  | .beac a => Sys2Proof.Machine.execBeac a s
  | .shape val => Sys2Proof.Machine.execShape val s
  | .vadd v a b k m => Sys2Proof.Machine.execVadd v a b k m s
  | .vsub v a b k m => Sys2Proof.Machine.execVsub v a b k m s
  | .vmul v a b k m => Sys2Proof.Machine.execVmul v a b k m s
  | .vfma v a b k m => Sys2Proof.Machine.execVfma v a b k m s
  | .vfms v a b k m => Sys2Proof.Machine.execVfms v a b k m s
  | .vmin v a b k m => Sys2Proof.Machine.execVmin v a b k m s
  | .vmax v a b k m => Sys2Proof.Machine.execVmax v a b k m s
  | .vabs v a k m => Sys2Proof.Machine.execVabs v a k m s
  | .vneg v a k m => Sys2Proof.Machine.execVneg v a k m s
  | .vand v a b k m => Sys2Proof.Machine.execVand v a b k m s
  | .vor v a b k m => Sys2Proof.Machine.execVor v a b k m s
  | .vxor v a b k m => Sys2Proof.Machine.execVxor v a b k m s
  | .vnot v a k m => Sys2Proof.Machine.execVnot v a k m s
  | .vshl v a b k m => Sys2Proof.Machine.execVshl v a b k m s
  | .vshr v a b k m => Sys2Proof.Machine.execVshr v a b k m s
  | .vsar v a b k m => Sys2Proof.Machine.execVsar v a b k m s
  | .vcmpeq v a b k m => Sys2Proof.Machine.execVcmpeq v a b k m s
  | .vcmplt v a b k m => Sys2Proof.Machine.execVcmplt v a b k m s
  | .vcmple v a b k m => Sys2Proof.Machine.execVcmple v a b k m s
  | .vsel v a b k m => Sys2Proof.Machine.execVsel v a b k m s
  | .vmov v a k m => Sys2Proof.Machine.execVmov v a k m s
  | .vfill v g k m => Sys2Proof.Machine.execVfill v g k m s
  | .vbrow v a g k m => Sys2Proof.Machine.execVbrow v a g k m s
  | .vbcol v a g k m => Sys2Proof.Machine.execVbcol v a g k m s
  | .vrsum v a k m => Sys2Proof.Machine.execVrsum v a k m s
  | .vrmax v a k m => Sys2Proof.Machine.execVrmax v a k m s
  | .vcsum v a k m => Sys2Proof.Machine.execVcsum v a k m s
  | .vcmax v a k m => Sys2Proof.Machine.execVcmax v a k m s
  | .vtrn v a k m => Sys2Proof.Machine.execVtrn v a k m s
  | .vzip2 v a k m => Sys2Proof.Machine.execVzip2 v a k m s
  | .vzip3 v a k m => Sys2Proof.Machine.execVzip3 v a k m s
  | .vzip4 v a k m => Sys2Proof.Machine.execVzip4 v a k m s
  | .vunz2 v a k m => Sys2Proof.Machine.execVunz2 v a k m s
  | .vunz3 v a k m => Sys2Proof.Machine.execVunz3 v a k m s
  | .vunz4 v a k m => Sys2Proof.Machine.execVunz4 v a k m s
  | .vperm v a b k m => Sys2Proof.Machine.execVperm v a b k m s
  | .vrot v a g k m => Sys2Proof.Machine.execVrot v a g k m s
  | .vcvt v a t k m => Sys2Proof.Machine.execVcvt v a t k m s
  | .vqnt v a n f => Sys2Proof.Machine.execVqnt v a n f s
  | .vamx n a k => Sys2Proof.Machine.execVamx n a k s
  | .vrcpa v a k => Sys2Proof.Machine.execVrcpa v a k s
  | .vrsqa v a k => Sys2Proof.Machine.execVrsqa v a k s
  | .vexp2 v a k => Sys2Proof.Machine.execVexp2 v a k s
  | .vlog2 v a k => Sys2Proof.Machine.execVlog2 v a k s
  | .vtanh v a k => Sys2Proof.Machine.execVtanh v a k s
  | .vgte g a b k m => Sys2Proof.Machine.execVgte g a b k m s
  | .vpte v a b k m => Sys2Proof.Machine.execVpte v a b k m s
  | .vmskop o v a b k m => Sys2Proof.Machine.execVmskop o v a b k m s
  | .viota v g n k m => Sys2Proof.Machine.execViota v g n k m s
  | .vrdot v a b k m => Sys2Proof.Machine.execVrdot v a b k m s
  | .vclamp v a b k m => Sys2Proof.Machine.execVclamp v a b k m s
  | .xlt h g => Sys2Proof.Machine.execXlt h g s
  | .xltNw h g => Sys2Proof.Machine.execXltNw h g s
  | .hrel h => Sys2Proof.Machine.execHrel h s
  | .hchk p h => Sys2Proof.Machine.execHchk p h s
  | .hinfo g h sl => Sys2Proof.Machine.execHinfo g h sl s
  | .lds v b c => Sys2Proof.Machine.execLds v b c s
  | .sts v b c => Sys2Proof.Machine.execSts v b c s
  | .ldsg g b c => Sys2Proof.Machine.execLdsg g b c s
  | .stsg g b c => Sys2Proof.Machine.execStsg g b c s
  | .ldg r v h c m => Sys2Proof.Machine.execLdg r v h c m s
  | .ldgUnt r v h c lat => Sys2Proof.Machine.execLdgUnt r v h c lat s
  | .stg r v h c m => Sys2Proof.Machine.execStg r v h c m s
  | .stgUnt r v h c lat => Sys2Proof.Machine.execStgUnt r v h c lat s
  | .ldgs r g h c m => Sys2Proof.Machine.execLdgs r g h c m s
  | .ldgsUnt r g h c lat => Sys2Proof.Machine.execLdgsUnt r g h c lat s
  | .stgs r g h c m => Sys2Proof.Machine.execStgs r g h c m s
  | .stgsUnt r g h c lat => Sys2Proof.Machine.execStgsUnt r g h c lat s
  | .ldt r v h c m => Sys2Proof.Machine.execLdt r v h c m s
  | .ldtUnt r v h c lat => Sys2Proof.Machine.execLdtUnt r v h c lat s
  | .stq r v h c m => Sys2Proof.Machine.execStq r v h c m s
  | .stqUnt r v h c lat => Sys2Proof.Machine.execStqUnt r v h c lat s
  | .stnt r v h c m => Sys2Proof.Machine.execStnt r v h c m s
  | .stntUnt r v h c lat => Sys2Proof.Machine.execStntUnt r v h c lat s
  | .drain => Sys2Proof.Machine.execDrain s
  | .pfl h b c => Sys2Proof.Machine.execPfl h b c s
  | .cwbr h b c => Sys2Proof.Machine.execCwbr h b c s
  | .cinvr h b c => Sys2Proof.Machine.execCinvr h b c s
  | .rpin n h g => Sys2Proof.Machine.execRpin n h g s
  | .runpin n h => Sys2Proof.Machine.execRunpin n h s
  | .ldge r v h c m => Sys2Proof.Machine.execLdge r v h c m s
  | .ldgeUnt r v h c lat => Sys2Proof.Machine.execLdgeUnt r v h c lat s
  | .ldte r v h c m => Sys2Proof.Machine.execLdte r v h c m s
  | .ldteUnt r v h c lat => Sys2Proof.Machine.execLdteUnt r v h c lat s
  | .mcfg l g f => Sys2Proof.Machine.execMcfg l g f s
  | .mcfgi l grp val => Sys2Proof.Machine.execMcfgi l grp val s
  | .msrc k r u im => Sys2Proof.Machine.execMsrc k r u im s
  | .mfmt a b f q => Sys2Proof.Machine.execMfmt a b f q s
  | .mldb g q => Sys2Proof.Machine.execMldb g q s
  | .mgo => Sys2Proof.Machine.execMgo s
  | .mclr a b => Sys2Proof.Machine.execMclr a b s
  | .mrd v r c m => Sys2Proof.Machine.execMrd v r c m s
  | .mwr v r c m => Sys2Proof.Machine.execMwr v r c m s
  | .mfuse q f => Sys2Proof.Machine.execMfuse q f s
  | .mdur g => Sys2Proof.Machine.execMdur g s
  | .qpush p v n => Sys2Proof.Machine.execQpush p v n s
  | .qpop v q n => Sys2Proof.Machine.execQpop v q n s
  | .qrsv p n => Sys2Proof.Machine.execQrsv p n s
  | .qbind p g => Sys2Proof.Machine.execQbind p g s
  | .lksend p v n => Sys2Proof.Machine.execLksend p v n s
  | .lkrecv v q n => Sys2Proof.Machine.execLkrecv v q n s
  | .lkbind p g => Sys2Proof.Machine.execLkbind p g s
  | .qdepth g k q => Sys2Proof.Machine.execQdepth g k q s
  | .aadd g h c w => Sys2Proof.Machine.execAadd g h c w s
  | .aand g h c w => Sys2Proof.Machine.execAand g h c w s
  | .aor g h c w => Sys2Proof.Machine.execAor g h c w s
  | .axor g h c w => Sys2Proof.Machine.execAxor g h c w s
  | .amin g h c sl w => Sys2Proof.Machine.execAmin g h c sl w s
  | .amax g h c sl w => Sys2Proof.Machine.execAmax g h c sl w s
  | .aswp g h c w => Sys2Proof.Machine.execAswp g h c w s
  | .acas g h c w => Sys2Proof.Machine.execAcas g h c w s
  | .vatom v im o => Sys2Proof.Machine.execVatom v im o s
  | .acq g h c sl => Sys2Proof.Machine.execAcq g h c sl s
  | .acqTry g h c sl => Sys2Proof.Machine.execAcqTry g h c sl s
  | .rel h c => Sys2Proof.Machine.execRel h c s
  | .relQueues h c mask => Sys2Proof.Machine.execRelQueues h c mask s
  | .bind r h g => Sys2Proof.Machine.execBind r h g s
  | .unbind r h g => Sys2Proof.Machine.execUnbind r h g s
  | .gpass p g => Sys2Proof.Machine.execGpass p g s
  | .gtake v g => Sys2Proof.Machine.execGtake v g s
  | .gstat sl g => Sys2Proof.Machine.execGstat sl g s
  | .cld g k c => Sys2Proof.Machine.execCld g k c s
  | .cst g k c r => Sys2Proof.Machine.execCst g k c r s
  | .cldv v k c => Sys2Proof.Machine.execCldv v k c s
  | .cstv v k c => Sys2Proof.Machine.execCstv v k c s
  | .rcas2 g k c n => Sys2Proof.Machine.execRcas2 g k c n s
  | .renq g k c => Sys2Proof.Machine.execRenq g k c s
  | .rchase g k c => Sys2Proof.Machine.execRchase g k c s
  | .kmov a b => Sys2Proof.Machine.execKmov a b s
  | .knarrow a b g => Sys2Proof.Machine.execKnarrow a b g s
  | .kperm a b im => Sys2Proof.Machine.execKperm a b im s
  | .kld a h c m => Sys2Proof.Machine.execKld a h c m s
  | .kst a h c m => Sys2Proof.Machine.execKst a h c m s
  | .wld g w c => Sys2Proof.Machine.execWld g w c s
  | .wst g w c => Sys2Proof.Machine.execWst g w c s
  | .sfence q sl => Sys2Proof.Machine.execSfence q sl s
  | .cpy q h g m => Sys2Proof.Machine.execCpy q h g m s
  | .cpyd q h g m => Sys2Proof.Machine.execCpyd q h g m s
  | .ratt q g u => Sys2Proof.Machine.execRatt q g u s
  | .kapp q g => Sys2Proof.Machine.execKapp q g s
  | .krel q g => Sys2Proof.Machine.execKrel q g s
  | .merge q g => Sys2Proof.Machine.execMerge q g s
  | .coll q v g => Sys2Proof.Machine.execColl q v g s
  | .tier q h g => Sys2Proof.Machine.execTier q h g s
  | .pfs q h g => Sys2Proof.Machine.execPfs q h g s
  | .qfence m => Sys2Proof.Machine.execQfence m s
  | .unassignedOpcode w => Sys2Proof.Machine.execUnassignedOpcode w s
  | .clampcntWrite => Sys2Proof.Machine.execClampcntWrite s
  | .fetchWords => Sys2Proof.Machine.execFetchWords s
  | .fetchStarvation => Sys2Proof.Machine.execFetchStarvation s
  | .iterationBoundary => Sys2Proof.Machine.execIterationBoundary s
  | .resultLanding => Sys2Proof.Machine.execResultLanding s
  | .loadDataDelivery => Sys2Proof.Machine.execLoadDataDelivery s
  | .arrivalViolation => Sys2Proof.Machine.execArrivalViolation s
  | .accessHomeCycle => Sys2Proof.Machine.execAccessHomeCycle s
  | .xltWalkComplete => Sys2Proof.Machine.execXltWalkComplete s
  | .acqGrant => Sys2Proof.Machine.execAcqGrant s
  | .relEffect => Sys2Proof.Machine.execRelEffect s
  | .drainComplete => Sys2Proof.Machine.execDrainComplete s
  | .sfenceComplete => Sys2Proof.Machine.execSfenceComplete s
  | .cacheRangeComplete => Sys2Proof.Machine.execCacheRangeComplete s
  | .retentionInForce => Sys2Proof.Machine.execRetentionInForce s
  | .waitbComplete => Sys2Proof.Machine.execWaitbComplete s
  | .deadlineFault => Sys2Proof.Machine.execDeadlineFault s
  | .launchReceive => Sys2Proof.Machine.execLaunchReceive s
  | .schedulerPlacement => Sys2Proof.Machine.execSchedulerPlacement s
  | .launchBegin => Sys2Proof.Machine.execLaunchBegin s
  | .timeSliceEnd => Sys2Proof.Machine.execTimeSliceEnd s
  | .yieldHandover => Sys2Proof.Machine.execYieldHandover s
  | .fullFrameSave => Sys2Proof.Machine.execFullFrameSave s
  | .fullFrameSaveEnd => Sys2Proof.Machine.execFullFrameSaveEnd s
  | .fullFrameRestore => Sys2Proof.Machine.execFullFrameRestore s
  | .taskResume => Sys2Proof.Machine.execTaskResume s
  | .nestStep => Sys2Proof.Machine.execNestStep s
  | .nestEnd => Sys2Proof.Machine.execNestEnd s
  | .nestSafeStop => Sys2Proof.Machine.execNestSafeStop s
  | .mldbComplete => Sys2Proof.Machine.execMldbComplete s
  | .queueEntryArrival => Sys2Proof.Machine.execQueueEntryArrival s
  | .queueCreditArrival => Sys2Proof.Machine.execQueueCreditArrival s
  | .linkEntryDepart => Sys2Proof.Machine.execLinkEntryDepart s
  | .linkEntryArrival => Sys2Proof.Machine.execLinkEntryArrival s
  | .asyEntryStart => Sys2Proof.Machine.execAsyEntryStart s
  | .cpyDone => Sys2Proof.Machine.execCpyDone s
  | .cpydDone => Sys2Proof.Machine.execCpydDone s
  | .attentionCommandArrival => Sys2Proof.Machine.execAttentionCommandArrival s
  | .attentionAccept => Sys2Proof.Machine.execAttentionAccept s
  | .kappExecute => Sys2Proof.Machine.execKappExecute s
  | .krelExecute => Sys2Proof.Machine.execKrelExecute s
  | .contextControl => Sys2Proof.Machine.execContextControl s
  | .rattAdmission => Sys2Proof.Machine.execRattAdmission s
  | .rattRecordWrite => Sys2Proof.Machine.execRattRecordWrite s
  | .attentionCreditRefill => Sys2Proof.Machine.execAttentionCreditRefill s
  | .mergeDone => Sys2Proof.Machine.execMergeDone s
  | .collArrival => Sys2Proof.Machine.execCollArrival s
  | .collRoundComplete => Sys2Proof.Machine.execCollRoundComplete s
  | .collResultWrite => Sys2Proof.Machine.execCollResultWrite s
  | .tierMoveStart => Sys2Proof.Machine.execTierMoveStart s
  | .pageRevoke => Sys2Proof.Machine.execPageRevoke s
  | .revocationComplete => Sys2Proof.Machine.execRevocationComplete s
  | .tierMoveDone => Sys2Proof.Machine.execTierMoveDone s
  | .pfsAccept => Sys2Proof.Machine.execPfsAccept s
  | .qfenceDone => Sys2Proof.Machine.execQfenceDone s
  | .gatePassAdmit => Sys2Proof.Machine.execGatePassAdmit s
  | .gateVersionEffect => Sys2Proof.Machine.execGateVersionEffect s
  | .gateRefill => Sys2Proof.Machine.execGateRefill s
  | .gateTakeArrival => Sys2Proof.Machine.execGateTakeArrival s
  | .gateTakeComplete => Sys2Proof.Machine.execGateTakeComplete s
  | .gateStatusSample => Sys2Proof.Machine.execGateStatusSample s
  | .gateCreate => Sys2Proof.Machine.execGateCreate s
  | .gateUpdate => Sys2Proof.Machine.execGateUpdate s
  | .gateRevoke => Sys2Proof.Machine.execGateRevoke s
  | .gateFree => Sys2Proof.Machine.execGateFree s
  | .gateFreeze => Sys2Proof.Machine.execGateFreeze s
  | .gateExport => Sys2Proof.Machine.execGateExport s
  | .gateImport => Sys2Proof.Machine.execGateImport s
  | .remoteOpExecute => Sys2Proof.Machine.execRemoteOpExecute s
  | .remoteStoreArrival => Sys2Proof.Machine.execRemoteStoreArrival s
  | .releaseFlagCommit => Sys2Proof.Machine.execReleaseFlagCommit s
  | .remoteReplyArrival => Sys2Proof.Machine.execRemoteReplyArrival s
  | .wstErrorCompletion => Sys2Proof.Machine.execWstErrorCompletion s
  | .hostAccessArrival => Sys2Proof.Machine.execHostAccessArrival s
  | .requestTimeout => Sys2Proof.Machine.execRequestTimeout s
  | .cimParityError => Sys2Proof.Machine.execCimParityError s
  | .dcfgWrite => Sys2Proof.Machine.execDcfgWrite s
  | .hmaskWrite => Sys2Proof.Machine.execHmaskWrite s
  | .rtnWrite => Sys2Proof.Machine.execRtnWrite s
  | .domainBsyEnd => Sys2Proof.Machine.execDomainBsyEnd s
  | .collGroupWrite => Sys2Proof.Machine.execCollGroupWrite s
  | .dieReset => Sys2Proof.Machine.execDieReset s
  | .dieResetFence => Sys2Proof.Machine.execDieResetFence s
  | .dieResetExecute => Sys2Proof.Machine.execDieResetExecute s
  | .dieResetComplete => Sys2Proof.Machine.execDieResetComplete s
  | .partitionCreate => Sys2Proof.Machine.execPartitionCreate s
  | .partitionModify => Sys2Proof.Machine.execPartitionModify s
  | .partitionReset => Sys2Proof.Machine.execPartitionReset s
  | .partitionStop => Sys2Proof.Machine.execPartitionStop s
  | .partitionRelease => Sys2Proof.Machine.execPartitionRelease s
  | .partitionDestroy => Sys2Proof.Machine.execPartitionDestroy s
  | .mfreeze => Sys2Proof.Machine.execMfreeze s
  | .mthaw => Sys2Proof.Machine.execMthaw s
  | .resetQuiesce => Sys2Proof.Machine.execResetQuiesce s
  | .resetWipeComplete => Sys2Proof.Machine.execResetWipeComplete s
  | .modifyApply => Sys2Proof.Machine.execModifyApply s
  | .partitionStopComplete => Sys2Proof.Machine.execPartitionStopComplete s
  | .resourceRetire => Sys2Proof.Machine.execResourceRetire s
  | .debugFreezeRequest => Sys2Proof.Machine.execDebugFreezeRequest s
  | .freezeBegin => Sys2Proof.Machine.execFreezeBegin s
  | .debugResumeRequest => Sys2Proof.Machine.execDebugResumeRequest s
  | .freezeResume => Sys2Proof.Machine.execFreezeResume s
  | .flitReceive => Sys2Proof.Machine.execFlitReceive s
  | .linkFail => Sys2Proof.Machine.execLinkFail s
  | .linkFailover => Sys2Proof.Machine.execLinkFailover s
  | .alignComplete => Sys2Proof.Machine.execAlignComplete s
  | .vfRegisterWrite => Sys2Proof.Machine.execVfRegisterWrite s
  | .sqDoorbell => Sys2Proof.Machine.execSqDoorbell s
  | .hostLoad => Sys2Proof.Machine.execHostLoad s
  | .hostLaunch => Sys2Proof.Machine.execHostLaunch s
  | .hostRelease => Sys2Proof.Machine.execHostRelease s
  | .hostUnload => Sys2Proof.Machine.execHostUnload s
  | .hostQuote => Sys2Proof.Machine.execHostQuote s
  | .functionLevelReset => Sys2Proof.Machine.execFunctionLevelReset s
  | .antiRollbackRaise => Sys2Proof.Machine.execAntiRollbackRaise s
  | .lifeCycleChange => Sys2Proof.Machine.execLifeCycleChange s
  | .powerOnReset => Sys2Proof.Machine.execPowerOnReset s
  | .thermalShutdown => Sys2Proof.Machine.execThermalShutdown s
  | .fatalFrameFree => Sys2Proof.Machine.execFatalFrameFree s
  | .exportTableWrite => Sys2Proof.Machine.execExportTableWrite s
  | .managementTaskStart => Sys2Proof.Machine.execManagementTaskStart s
  | .ownerKeyEnrol => Sys2Proof.Machine.execOwnerKeyEnrol s
  | .ownerKeyRevoke => Sys2Proof.Machine.execOwnerKeyRevoke s
  | .sramScrub => Sys2Proof.Machine.execSramScrub s

end Sys2Proof.Machine
end

