-- ==== Sys2Proof/Machine/Run.lean ====
section
/-! DEFINITION. What happens in one cycle and in which order (R178, R245, R315 to R319): the agenda, the due joins, the
due words, and the passage to the next cycle. `step` (Step.lean) chooses with these and runs `exec`. -/

namespace Sys2Proof.Machine

open Sys2Proof

/-! ## The agenda -/

/-- The order of two events: cycle, class, key. Of equal events the one put on the agenda first comes first. -/
def evLt (a b : Ev) : Bool :=
  decide (a.cyc < b.cyc) || (a.cyc == b.cyc && (decide (a.cls < b.cls) || (a.cls == b.cls && decide (a.key < b.key))))

/-- The first event in order among those that meet `p`, with its place in the list, counted from `i`. -/
def pickEv (p : Ev → Bool) : List Ev → Nat → Option (Nat × Ev) → Option (Nat × Ev)
  | [], _, b => b
  | e :: r, i, b =>
    let b := if p e then (match b with
      | none => some (i, e)
      | some (j, f) => if evLt e f then some (i, e) else some (j, f)) else b
    pickEv p r (i + 1) b

/-- The next event that is due and whose class lies in [lo, hi], and the state without it. -/
def State.popEvent (s : State) (lo hi : Nat) : Option (Ev × State) :=
  match pickEv (fun e => decide (e.cyc ≤ s.now) && decide (lo ≤ e.cls) && decide (e.cls ≤ hi)) s.agenda 0 none with
  | none => none
  | some (i, e) => some (e, { s with agenda := s.agenda.eraseIdx i, arg := e.arg })

/-- The earliest cycle on the agenda. -/
def firstCycle : List Ev → Option Nat
  | [] => none
  | e :: r => match firstCycle r with
    | none => some e.cyc
    | some c => some (min e.cyc c)

/-! ## Words and joins -/

/-- Every running sequencer's fetch unit has read on. -/
def State.fetchAll (s : State) : State :=
  s.seqs.foldl (fun s e => if e.2.run == .run then s.fetchAhead e.1 else s) s

/-- The first sequencer whose next join is due. -/
def State.nextJoin (s : State) : Option Nat :=
  (s.seqs.find? (fun e => (e.2.joinDue s.now).isSome)).map (·.1)

/-- The state in which a word executes. -/
def State.beginWord (s : State) (sid : Nat) (e : QWord) : State :=
  { s with cur := { sid := sid, col := e.col, pc := e.pc, w := e.w, fo := e.fo, posted := e.posted, stk := e.stk } }

/-- The state in which a decoded word executes. -/
def State.withDecoded (s : State) (d : Decoded) : State :=
  { s with cur := { s.cur with len := d.len, rsvd := d.rsvd, fb := d.fb } }

/-- The word as its sequencer executes it: an index outside the addressable range, an uncorrectable word and a word the
decoder rejects raise the illegal-instruction fault at issue (R12, R93, R95, R324). -/
def State.runWord (exec : Instr → State → Host.Outcome State Fault Refusal) (s : State) (sid : Nat) (e : QWord) :
    Host.Outcome State Fault Refusal :=
  let s := s.beginWord sid e
  if e.oor || s.wordBad sid e then .next s.illegal
  else match decodeWord e.w e.lit with
    | .error .unassigned => exec (.unassignedOpcode (BitVec.ofNat 32 e.w)) s
    | .error _ => .next s.illegal
    | .ok d => exec d.ins (s.withDecoded d)

/-- Whether the word would not issue in this cycle. -/
def State.wordHeld (exec : Instr → State → Host.Outcome State Fault Refusal) (s : State) (sid : Nat) (e : QWord) : Bool :=
  match s.runWord exec sid e with
  | .next t => t.cur.held
  | _ => false

/-- The next word of a sequencer: one that starves or would be held comes first, because no word of a held cycle issues
(R318); else the due words in ascending engine number (R315). The Boolean says that the word starves. -/
def State.pickWord (exec : Instr → State → Host.Outcome State Fault Refusal) (s : State) (sid : Nat) (q : Seq) :
    Option (QWord × Bool) :=
  match q.dueWords s.now with
  | [] => none
  | e :: r =>
    match q.starved s.now with
    | x :: _ => some (x, true)
    | [] =>
      if r.isEmpty || q.ut || q.trapMode then some (e, false)
      else match (e :: r).find? (s.wordHeld exec sid) with
        | some x => some (x, false)
        | none => some (e, false)

/-- The first sequencer, by SEQID, with a due word. -/
def State.nextWordOf (exec : Instr → State → Host.Outcome State Fault Refusal) (s : State) :
    List (Nat × Seq) → Option (Nat × QWord × Bool)
  | [] => none
  | (sid, q) :: r =>
    match s.pickWord exec sid q with
    | some (e, b) => some (sid, e, b)
    | none => s.nextWordOf exec r

/-- Whether a word that reads these registers reads the spot of a sequencer: an amax entry counts below CNT. -/
def Seq.reads (q : Seq) (l : List Res) : Spot → Bool
  | .g n => l.contains (.g n)
  | .tile n _ => l.contains (.v n)
  | .mask n _ => l.contains (.m n)
  | .level n => l.contains (.i n)
  | .amax r e => l.contains (.ring r) && decide (e < (q.ring r).cnt)

/-- The spots with a double-bit error that a word of `sid` reads, among the partner's its tiles v16 to v31 (R334). -/
def State.struckBy (s : State) (sid : Nat) (l : List Res) : List Spot :=
  let q := s.seq sid
  q.upset.filter (q.reads l) ++ (s.seq (partner sid)).upset.filter (fun x => match x with
    | .tile n _ => l.contains (.v (n + 16))
    | _ => false)

/-- Each double-bit error that the issued word has read as zeros is recorded (R334). -/
def State.noteSpots (s : State) (e : QWord) : State :=
  let sid := s.cur.sid
  if s.cur.fault || ((s.seq sid).upset.isEmpty && (s.seq (partner sid)).upset.isEmpty) then s
  else match decodeWord e.w e.lit with
    | .ok d => (s.struckBy sid (dops (s.seq sid).shape 0 d.ins).reads).foldl (fun s _ => s.uncorrectable sid e.col 0 0xFFFFFFF) s
    | .error _ => s

/-- What is left to do when the meaning of a word has run: a word that could not issue stays first in its queue, any other
leaves it; its column's chain goes on from the next cycle (R115, R315); RSVD and FALLBACK are set at issue (R94, R100). -/
def State.finishWord (s : State) (e : QWord) : State :=
  let sid := s.cur.sid
  let q := s.seq sid
  if s.cur.held then
    s.setSeq sid { q with
      fq := q.fq.map (fun x => if x.fo = e.fo then { x with posted := x.posted || q.trapMode, tried := some s.now } else x) }
  else
    let t := s.now - q.slip
    let q := { q with fq := q.fq.filter (fun x => x.fo != e.fo), lastIssue := max q.lastIssue t }
    let q := q.setColumn e.col { q.column e.col with next := some (t + 1 + s.cur.extra) }
    ((s.setSeq sid (q.unblock s.now e.col)).settleWarnings).noteSpots e

/-! ## The passage of cycles -/

/-- A sequencer that may issue a word or pass a join by the clock alone. -/
def Seq.busy (q : Seq) : Bool :=
  q.run == .run && q.waitb.isNone && !q.seam && !(q.fq.isEmpty && q.joins.isEmpty)

/-- The next cycle in which anything can happen: the next one while a sequencer is busy, else the first on the agenda. -/
def State.nextCycle (s : State) : Nat :=
  if s.seqs.any (·.2.busy) then s.now + 1
  else match firstCycle s.agenda with
    | some c => max c (s.now + 1)
    | none => s.now + 1

/-- Whether the module has stopped and has nothing left to do (R417, R418). -/
def State.over (s : State) : Bool := s.stopped && s.agenda.isEmpty && !s.seqs.any (fun e => e.2.run == .run)

/-- Nothing more happens in this cycle. -/
def State.tick (s : State) : Host.Outcome State Fault Refusal :=
  if s.over then .fault .moduleStopped else .next { s with now := s.nextCycle }

end Sys2Proof.Machine
end

