-- ==== Sys2Proof/Machine/Step.lean ====
section
/-! DEFINITION. One step of the module: the next event, loop join or word in the order of its cycle, or the passage to the
next cycle. And where a word is placed that the next step is to fetch. -/

namespace Sys2Proof.Machine

open Sys2Proof

/-- The word that a sequencer executes next, and what the step does about it. -/
def stepWord (s : State) (sid : Nat) (e : QWord) (starves : Bool) : Host.Outcome State Fault Refusal :=
  if starves then exec .fetchStarvation { s with arg := .seqN sid e.fo }
  else match s.runWord exec sid e with
    | .next t => .next (t.finishWord e)
    | .fault f => .fault f
    | .refused r => .refused r

/-- One step. In a cycle, what lands and arrives comes first, then joins, then the words of the cycle, then accesses at
their homes and the hardware's own events; then the next cycle begins. -/
def step (s : State) : Host.Outcome State Fault Refusal :=
  let s := s.fetchAll
  match s.popEvent 0 2 with
  | some (e, t) => exec e.ins t
  | none =>
    match s.nextJoin with
    | some sid => exec .iterationBoundary { s with arg := .seq sid }
    | none =>
      match s.nextWordOf exec s.seqs with
      | some (sid, e, b) => stepWord s sid e b
      | none =>
        match s.popEvent 3 9 with
        | some (e, t) => exec e.ins t
        | none => s.tick

/-- The state with an instruction placed where the step fetches next: in word 0 (and the literal in word 1) of the
instruction store of user sequencer 0, which runs from there, with nothing else due before it: the words behind it in other
columns come in the next cycle. -/
def State.withFetchWord (s : State) (nbits w : Nat) : State :=
  let v := w % 2 ^ nbits
  let c := s.core 0
  let now := s.now + dlyOf (v % 2 ^ 32)
  let cols := ((List.range 8).filter (· != engOf (v % 2 ^ 32))).map (fun c => (c, ({ next := some (now + 1) } : Column)))
  { s with
    now := now
    agenda := s.agenda.filter (fun e => now < e.cyc)
    cores := Fm.set s.cores 0 { c with split := false,
                                       store := Fm.set (Fm.set c.store 0 (BitVec.ofNat 32 v)) 1 (BitVec.ofNat 32 (v / 2 ^ 32)) }
    seqs := Fm.set s.seqs 0 { s.seq 0 with
      run := .run, fpc := 0, fbase := s.now, fpos := 0, ffo := 0, fgrp := 0, fflo := 0, fstk := [], frun := 0,
      fhold := false, fstop := false, fq := [], bq := [], joins := [], grp := 0, cols := cols, floor := 0, slip := 0,
      heldAt := none, seam := false, waitb := none } }

end Sys2Proof.Machine
end

