-- ==== Sys2Proof/Laws/PerInstr.lean ====
section
/-! SUPPORT. The family Encoding: for every constructor of Instr, the decoder reads back what the encoder writes (R87 to
R97); one lemma for each constructor. -/

namespace Sys2Proof.Laws.Encoding

open Sys2Proof

/-- What the encoding of an instruction must do: a word that the map leaves unassigned is rejected under that name; any
other well-formed instruction decodes, at every delay, to itself with its engine, its delay and its length, with no
reserved bit set and no fallback, and no byte is left over. -/
def Statement (i : Instr) : Prop :=
  i.wellFormed = true →
    match i with
    | .unassignedOpcode w => ∀ r, decodeBytes (bytesOfWord w.toNat ++ r) = .error .unassigned
    | _ => ∀ d : BitVec 3, decodeBytes ((encode d i).flatMap bytesOfWord) =
        .ok ({ ins := i, eng := (encode d i).headD 0 / 2 ^ 29, dly := d.toNat, len := (encode d i).length }, [])

theorem takeWord_bytes (w : Nat) (h : w < 2 ^ 32) (r : List Byte) : takeWord (bytesOfWord w ++ r) = some (w, r) := by
  have key : wordOf (BitVec.ofNat 8 w) (BitVec.ofNat 8 (w / 2 ^ 8)) (BitVec.ofNat 8 (w / 2 ^ 16)) (BitVec.ofNat 8 (w / 2 ^ 24)) = w := by
    simp only [wordOf, BitVec.toNat_ofNat]; omega
  have : takeWord (bytesOfWord w ++ r) = some (wordOf (BitVec.ofNat 8 w) (BitVec.ofNat 8 (w / 2 ^ 8)) (BitVec.ofNat 8 (w / 2 ^ 16)) (BitVec.ofNat 8 (w / 2 ^ 24)), r) := rfl
  rw [this, key]

theorem fld_eq (w lo n : Nat) (x : BitVec n) (h : w / 2 ^ lo % 2 ^ n = x.toNat) : fld w lo n = x := by
  apply BitVec.eq_of_toNat_eq
  rw [← h]; rfl

theorem nz_eq (w lo n : Nat) (h : w / 2 ^ lo % 2 ^ n = 0) : nz w lo n = false := by
  simp [nz, h]

theorem dec2_ok (w l : Nat) (f : Nat → Instr × Bool) (h : engOf l = engOf w) :
    dec2 w (some l) f = .ok { ins := (f l).1, eng := engOf w, dly := dlyOf w, len := 2, rsvd := (f l).2, fb := false } := by
  simp [dec2, h]

theorem word_parts (e : Nat) (d : BitVec 3) (op fx : Nat) (fs : List (Nat × Nat)) (he : e < 8) (ho : op < 64)
    (hp : fx + place fs < 2 ^ 20) :
    engOf (word e d op fx fs) = e ∧ opOf (word e d op fx fs) = op ∧ dlyOf (word e d op fx fs) = d.toNat ∧
    word e d op fx fs % 2 ^ 20 = fx + place fs ∧ word e d op fx fs < 2 ^ 32 ∧ word e d op fx fs / 2 ^ 29 = e := by
  have := d.isLt
  simp only [engOf, opOf, dlyOf, word, base]
  refine ⟨?_, ?_, ?_, ?_, ?_, ?_⟩ <;> omega

theorem decodeBytes_of (bs : List Byte) (w : Nat) (r : List Byte) (d : Decoded) (h1 : takeWord bs = some (w, r))
    (h2 : decodeWord w ((takeWord r).map (·.1)) = .ok d) : decodeBytes bs = .ok (d, if d.len = 2 then r.drop 4 else r) := by
  unfold decodeBytes
  rw [h1]
  dsimp only
  rw [h2]

theorem decodeBytes_err (bs : List Byte) (w : Nat) (r : List Byte) (h1 : takeWord bs = some (w, r))
    (h2 : decodeWord w ((takeWord r).map (·.1)) = .error .unassigned) : decodeBytes bs = .error .unassigned := by
  unfold decodeBytes
  rw [h1]
  dsimp only
  rw [h2]

/-- An unassigned word that is well formed. -/
theorem not_assigned (w : BitVec 32) (h : Instr.wellFormed (.unassignedOpcode w) = true) :
    assigned (w.toNat / 2 ^ 29) (w.toNat / 2 ^ 20 % 64) = false := by
  revert h
  generalize hx : assigned (w.toNat / 2 ^ 29) (w.toNat / 2 ^ 20 % 64) = x
  unfold Instr.wellFormed Instr.fieldsOk
  dsimp only
  rw [hx]
  intro h
  cases x
  · rfl
  · exact absurd (show (true && !true) = true from h) (by decide)

/-- An instruction of one word. -/
theorem one (e op fx : Nat) (fs : List (Nat × Nat)) (i : Instr) (he : e < 8) (ho : op < 64) (hp : fx + place fs < 2 ^ 20)
    (henc : ∀ d, encode d i = [word e d op fx fs])
    (hdec : ∀ w, engOf w = e → opOf w = op → w % 2 ^ 20 = fx + place fs → decodeWord w none = dec1 w i false)
    (d : BitVec 3) : decodeBytes ((encode d i).flatMap bytesOfWord) =
        .ok ({ ins := i, eng := (encode d i).headD 0 / 2 ^ 29, dly := d.toNat, len := (encode d i).length }, []) := by
  obtain ⟨h1, h2, h3, h4, h5, h6⟩ := word_parts e d op fx fs he ho hp
  have h := hdec _ h1 h2 h4
  have hb := takeWord_bytes _ h5 []
  rw [henc]
  generalize word e d op fx fs = w at *
  have e0 : (takeWord []).map (·.1) = (none : Option Nat) := rfl
  rw [List.flatMap_cons, List.flatMap_nil, List.headD_cons, h6, decodeBytes_of _ _ _ _ hb (by rw [e0, h]; rfl)]
  dsimp only
  rw [h1, h3]
  rfl

theorem literal_parts (e : Nat) (fs : List (Nat × Nat)) (he : e < 8) (hp : place fs < 2 ^ 29) :
    engOf (literal e fs) = e ∧ literal e fs % 2 ^ 29 = place fs ∧ literal e fs < 2 ^ 32 := by
  simp only [engOf, literal]
  refine ⟨?_, ?_, ?_⟩ <;> omega

/-- An instruction of a word and its literal. -/
theorem two (e op fx : Nat) (fs ls : List (Nat × Nat)) (i : Instr) (he : e < 8) (ho : op < 64)
    (hp : fx + place fs < 2 ^ 20) (hl : place ls < 2 ^ 29)
    (henc : ∀ d, encode d i = [word e d op fx fs, literal e ls])
    (hdec : ∀ w l, engOf w = e → opOf w = op → w % 2 ^ 20 = fx + place fs → engOf l = e → l % 2 ^ 29 = place ls →
      decodeWord w (some l) = .ok { ins := i, eng := engOf w, dly := dlyOf w, len := 2, rsvd := false, fb := false })
    (d : BitVec 3) : decodeBytes ((encode d i).flatMap bytesOfWord) =
        .ok ({ ins := i, eng := (encode d i).headD 0 / 2 ^ 29, dly := d.toNat, len := (encode d i).length }, []) := by
  obtain ⟨h1, h2, h3, h4, h5, h6⟩ := word_parts e d op fx fs he ho hp
  obtain ⟨g1, g2, g3⟩ := literal_parts e ls he hl
  have h := hdec _ _ h1 h2 h4 g1 g2
  have hb := takeWord_bytes _ h5 (bytesOfWord (literal e ls) ++ [])
  have hc := takeWord_bytes _ g3 []
  rw [henc]
  generalize word e d op fx fs = w at *
  generalize literal e ls = l at *
  have hx : decodeWord w ((takeWord (bytesOfWord l ++ [])).map (·.1)) =
      .ok { ins := i, eng := engOf w, dly := dlyOf w, len := 2, rsvd := false, fb := false } := by
    rw [hc]; exact h
  rw [List.flatMap_cons, List.flatMap_cons, List.flatMap_nil, List.headD_cons, h6,
    decodeBytes_of _ _ _ _ hb hx]
  dsimp only
  rw [h1, h3]
  rfl

theorem in0 (w : Nat) (lit : Option Nat) (h : engOf w = 0) : decodeWord w lit = decodeCtl w lit := by
  unfold decodeWord; rw [h]; rfl
theorem in1 (w : Nat) (lit : Option Nat) (h : engOf w = 1) : decodeWord w lit = decodeSca w lit := by
  unfold decodeWord; rw [h]; rfl
theorem in2 (w : Nat) (lit : Option Nat) (h : engOf w = 2) : decodeWord w lit = decodeVec w lit := by
  unfold decodeWord; rw [h]; rfl
theorem in3 (w : Nat) (lit : Option Nat) (h : engOf w = 3) : decodeWord w lit = decodeMem w lit := by
  unfold decodeWord; rw [h]; rfl
theorem in4 (w : Nat) (lit : Option Nat) (h : engOf w = 4) : decodeWord w lit = decodeMat w lit := by
  unfold decodeWord; rw [h]; rfl
theorem in5 (w : Nat) (lit : Option Nat) (h : engOf w = 5) : decodeWord w lit = decodeQue w lit := by
  unfold decodeWord; rw [h]; rfl
theorem in6 (w : Nat) (lit : Option Nat) (h : engOf w = 6) : decodeWord w lit = decodeSyn w lit := by
  unfold decodeWord; rw [h]; rfl
theorem in7 (w : Nat) (lit : Option Nat) (h : engOf w = 7) : decodeWord w lit = decodeAsy w lit := by
  unfold decodeWord; rw [h]; rfl

theorem unCtl (w : Nat) (lit : Option Nat) (h : 20 < opOf w) : decodeCtl w lit = .error .unassigned := by
  unfold decodeCtl; split <;> first | omega | rfl
theorem unSca (w : Nat) (lit : Option Nat) (h : 59 < opOf w) : decodeSca w lit = .error .unassigned := by
  unfold decodeSca; split <;> first | omega | rfl
theorem unVec (w : Nat) (lit : Option Nat) (h : 53 < opOf w) : decodeVec w lit = .error .unassigned := by
  unfold decodeVec; split <;> first | omega | rfl
theorem unMem (w : Nat) (lit : Option Nat) (h : 24 < opOf w) : decodeMem w lit = .error .unassigned := by
  unfold decodeMem; split <;> first | omega | rfl
theorem unMat (w : Nat) (lit : Option Nat) (h : 12 < opOf w) : decodeMat w lit = .error .unassigned := by
  unfold decodeMat; split <;> first | omega | rfl
theorem unQue (w : Nat) (lit : Option Nat) (h : 9 < opOf w) : decodeQue w lit = .error .unassigned := by
  unfold decodeQue; split <;> first | omega | rfl
theorem unSyn (w : Nat) (lit : Option Nat) (h : 32 < opOf w) : decodeSyn w lit = .error .unassigned := by
  unfold decodeSyn; split <;> first | omega | rfl
theorem unAsy (w : Nat) (lit : Option Nat) (h : 11 < opOf w) : decodeAsy w lit = .error .unassigned := by
  unfold decodeAsy; split <;> first | omega | rfl

/-- A word of an unassigned opcode is rejected. -/
theorem unassigned (w : BitVec 32) : Statement (.unassignedOpcode w) := by
  intro hf r
  have hw : assigned (engOf w.toNat) (opOf w.toNat) = false := by
    have h := w.isLt
    have h8 : w.toNat / 2 ^ 29 % 8 = w.toNat / 2 ^ 29 := by omega
    unfold engOf opOf
    rw [h8]
    exact not_assigned w hf
  have key : ∀ lit, decodeWord w.toNat lit = .error .unassigned := by
    intro lit
    have h8 : engOf w.toNat < 8 := Nat.mod_lt _ (by decide)
    rcases (by omega : engOf w.toNat = 0 ∨ engOf w.toNat = 1 ∨ engOf w.toNat = 2 ∨ engOf w.toNat = 3 ∨
      engOf w.toNat = 4 ∨ engOf w.toNat = 5 ∨ engOf w.toNat = 6 ∨ engOf w.toNat = 7) with h | h | h | h | h | h | h | h
    · rw [in0 _ _ h]; rw [h] at hw; exact unCtl _ _ (by simpa only [assigned, decide_eq_false_iff_not, Nat.not_le] using hw)
    · rw [in1 _ _ h]; rw [h] at hw; exact unSca _ _ (by simpa only [assigned, decide_eq_false_iff_not, Nat.not_le] using hw)
    · rw [in2 _ _ h]; rw [h] at hw; exact unVec _ _ (by simpa only [assigned, decide_eq_false_iff_not, Nat.not_le] using hw)
    · rw [in3 _ _ h]; rw [h] at hw; exact unMem _ _ (by simpa only [assigned, decide_eq_false_iff_not, Nat.not_le] using hw)
    · rw [in4 _ _ h]; rw [h] at hw; exact unMat _ _ (by simpa only [assigned, decide_eq_false_iff_not, Nat.not_le] using hw)
    · rw [in5 _ _ h]; rw [h] at hw; exact unQue _ _ (by simpa only [assigned, decide_eq_false_iff_not, Nat.not_le] using hw)
    · rw [in6 _ _ h]; rw [h] at hw; exact unSyn _ _ (by simpa only [assigned, decide_eq_false_iff_not, Nat.not_le] using hw)
    · rw [in7 _ _ h]; rw [h] at hw; exact unAsy _ _ (by simpa only [assigned, decide_eq_false_iff_not, Nat.not_le] using hw)
  exact decodeBytes_err _ _ r (takeWord_bytes _ w.isLt r) (key _)

/-- A word without effect or a wait in any column. -/
theorem nop (e : BitVec 3) : Statement (.nop e) := by
  intro _
  refine one e.toNat 0 0 [] (.nop e) e.isLt (by decide) (by decide) (fun _ => rfl) ?_
  intro w hE hO hw
  simp only [place] at hw
  have he : fld w 29 3 = e := fld_eq w 29 3 e hE
  have hn : nz w 0 20 = false := nz_eq w 0 20 (by omega)
  have h8 := e.isLt
  rcases (by omega : e.toNat = 0 ∨ e.toNat = 1 ∨ e.toNat = 2 ∨ e.toNat = 3 ∨ e.toNat = 4 ∨ e.toNat = 5 ∨ e.toNat = 6 ∨
    e.toNat = 7) with h | h | h | h | h | h | h | h
  · rw [in0 w _ (hE.trans h)]; unfold decodeCtl; rw [hO]; show dec1 w (.nop (fld w 29 3)) (nz w 0 20) = _; rw [he, hn]
  · rw [in1 w _ (hE.trans h)]; unfold decodeSca; rw [hO]; show dec1 w (.nop (fld w 29 3)) (nz w 0 20) = _; rw [he, hn]
  · rw [in2 w _ (hE.trans h)]; unfold decodeVec; rw [hO]; show dec1 w (.nop (fld w 29 3)) (nz w 0 20) = _; rw [he, hn]
  · rw [in3 w _ (hE.trans h)]; unfold decodeMem; rw [hO]; show dec1 w (.nop (fld w 29 3)) (nz w 0 20) = _; rw [he, hn]
  · rw [in4 w _ (hE.trans h)]; unfold decodeMat; rw [hO]; show dec1 w (.nop (fld w 29 3)) (nz w 0 20) = _; rw [he, hn]
  · rw [in5 w _ (hE.trans h)]; unfold decodeQue; rw [hO]; show dec1 w (.nop (fld w 29 3)) (nz w 0 20) = _; rw [he, hn]
  · rw [in6 w _ (hE.trans h)]; unfold decodeSyn; rw [hO]; show dec1 w (.nop (fld w 29 3)) (nz w 0 20) = _; rw [he, hn]
  · rw [in7 w _ (hE.trans h)]; unfold decodeAsy; rw [hO]; show dec1 w (.nop (fld w 29 3)) (nz w 0 20) = _; rw [he, hn]

theorem wait (e : BitVec 3) (imm : BitVec 14) : Statement (.wait e imm) := by
  have hi := imm.isLt
  intro _
  refine one e.toNat 1 0 [(imm.toNat, 0)] (.wait e imm) e.isLt (by decide) (by simp only [place]; omega) (fun _ => rfl) ?_
  intro w hE hO hw
  simp only [place] at hw
  have he : fld w 29 3 = e := fld_eq w 29 3 e hE
  have hj : fld w 0 14 = imm := fld_eq w 0 14 imm (by omega)
  have hn : nz w 14 6 = false := nz_eq w 14 6 (by omega)
  have h8 := e.isLt
  rcases (by omega : e.toNat = 0 ∨ e.toNat = 1 ∨ e.toNat = 2 ∨ e.toNat = 3 ∨ e.toNat = 4 ∨ e.toNat = 5 ∨ e.toNat = 6 ∨
    e.toNat = 7) with h | h | h | h | h | h | h | h
  · rw [in0 w _ (hE.trans h)]; unfold decodeCtl; rw [hO]; show dec1 w (.wait (fld w 29 3) (fld w 0 14)) (nz w 14 6) = _; rw [he, hj, hn]
  · rw [in1 w _ (hE.trans h)]; unfold decodeSca; rw [hO]; show dec1 w (.wait (fld w 29 3) (fld w 0 14)) (nz w 14 6) = _; rw [he, hj, hn]
  · rw [in2 w _ (hE.trans h)]; unfold decodeVec; rw [hO]; show dec1 w (.wait (fld w 29 3) (fld w 0 14)) (nz w 14 6) = _; rw [he, hj, hn]
  · rw [in3 w _ (hE.trans h)]; unfold decodeMem; rw [hO]; show dec1 w (.wait (fld w 29 3) (fld w 0 14)) (nz w 14 6) = _; rw [he, hj, hn]
  · rw [in4 w _ (hE.trans h)]; unfold decodeMat; rw [hO]; show dec1 w (.wait (fld w 29 3) (fld w 0 14)) (nz w 14 6) = _; rw [he, hj, hn]
  · rw [in5 w _ (hE.trans h)]; unfold decodeQue; rw [hO]; show dec1 w (.wait (fld w 29 3) (fld w 0 14)) (nz w 14 6) = _; rw [he, hj, hn]
  · rw [in6 w _ (hE.trans h)]; unfold decodeSyn; rw [hO]; show dec1 w (.wait (fld w 29 3) (fld w 0 14)) (nz w 14 6) = _; rw [he, hj, hn]
  · rw [in7 w _ (hE.trans h)]; unfold decodeAsy; rw [hO]; show dec1 w (.wait (fld w 29 3) (fld w 0 14)) (nz w 14 6) = _; rw [he, hj, hn]

theorem shape1_lt (x0 : BitVec 20) : 0 + place [(x0.toNat, 0)] < 2 ^ 20 := by
  have h0 := x0.isLt
  simp only [place]; omega
theorem shape1 (x0 : BitVec 20) (w : Nat) (h : w % 2 ^ 20 = 0 + place [(x0.toNat, 0)]) :
    fld w 0 20 = x0 := by
  have h0 := x0.isLt
  simp only [place] at h
  exact fld_eq _ _ _ _ (by omega)

theorem shape2_lt (x0 : BitVec 5) (x1 : BitVec 14) : 0 + place [(x0.toNat, 14), (x1.toNat, 0)] < 2 ^ 20 := by
  have h0 := x0.isLt; have h1 := x1.isLt
  simp only [place]; omega
theorem shape2 (x0 : BitVec 5) (x1 : BitVec 14) (w : Nat) (h : w % 2 ^ 20 = 0 + place [(x0.toNat, 14), (x1.toNat, 0)]) :
    fld w 14 5 = x0 ∧ fld w 0 14 = x1 ∧ nz w 19 1 = false := by
  have h0 := x0.isLt; have h1 := x1.isLt
  simp only [place] at h
  exact ⟨fld_eq _ _ _ _ (by omega), fld_eq _ _ _ _ (by omega), nz_eq _ _ _ (by omega)⟩

theorem shape3_lt (x0 : BitVec 6) : 0 + place [(x0.toNat, 14)] < 2 ^ 20 := by
  have h0 := x0.isLt
  simp only [place]; omega
theorem shape3 (x0 : BitVec 6) (w : Nat) (h : w % 2 ^ 20 = 0 + place [(x0.toNat, 14)]) :
    fld w 14 6 = x0 ∧ nz w 0 14 = false := by
  have h0 := x0.isLt
  simp only [place] at h
  exact ⟨fld_eq _ _ _ _ (by omega), nz_eq _ _ _ (by omega)⟩

theorem shape4_lt (x0 : BitVec 6) (x1 : BitVec 16) : 0 + place [(x0.toNat, 14)] < 2 ^ 20 ∧ place [(x1.toNat, 0)] < 2 ^ 29 := by
  have h0 := x0.isLt; have h1 := x1.isLt
  simp only [place]; omega
theorem shape4 (x0 : BitVec 6) (x1 : BitVec 16) (w l : Nat) (h : w % 2 ^ 20 = 0 + place [(x0.toNat, 14)]) (g : l % 2 ^ 29 = place [(x1.toNat, 0)]) :
    fld w 14 6 = x0 ∧ fld l 0 16 = x1 ∧ nz w 0 14 = false ∧ nz l 16 13 = false := by
  have h0 := x0.isLt; have h1 := x1.isLt
  simp only [place] at h g
  exact ⟨fld_eq _ _ _ _ (by omega), fld_eq _ _ _ _ (by omega), nz_eq _ _ _ (by omega), nz_eq _ _ _ (by omega)⟩

theorem shape5_lt (x0 : BitVec 20) (x1 : BitVec 16) : 0 + place [(x0.toNat, 0)] < 2 ^ 20 ∧ place [(x1.toNat, 0)] < 2 ^ 29 := by
  have h0 := x0.isLt; have h1 := x1.isLt
  simp only [place]; omega
theorem shape5 (x0 : BitVec 20) (x1 : BitVec 16) (w l : Nat) (h : w % 2 ^ 20 = 0 + place [(x0.toNat, 0)]) (g : l % 2 ^ 29 = place [(x1.toNat, 0)]) :
    fld w 0 20 = x0 ∧ fld l 0 16 = x1 ∧ nz l 16 13 = false := by
  have h0 := x0.isLt; have h1 := x1.isLt
  simp only [place] at h g
  exact ⟨fld_eq _ _ _ _ (by omega), fld_eq _ _ _ _ (by omega), nz_eq _ _ _ (by omega)⟩

theorem shape6_lt (x0 : BitVec 6) (x1 : BitVec 14) : 0 + place [(x0.toNat, 14), (x1.toNat, 0)] < 2 ^ 20 := by
  have h0 := x0.isLt; have h1 := x1.isLt
  simp only [place]; omega
theorem shape6 (x0 : BitVec 6) (x1 : BitVec 14) (w : Nat) (h : w % 2 ^ 20 = 0 + place [(x0.toNat, 14), (x1.toNat, 0)]) :
    fld w 14 6 = x0 ∧ fld w 0 14 = x1 := by
  have h0 := x0.isLt; have h1 := x1.isLt
  simp only [place] at h
  exact ⟨fld_eq _ _ _ _ (by omega), fld_eq _ _ _ _ (by omega)⟩

theorem shape7_lt (x0 : BitVec 14) (x1 : BitVec 29) : 0 + place [(x0.toNat, 0)] < 2 ^ 20 ∧ place [(x1.toNat, 0)] < 2 ^ 29 := by
  have h0 := x0.isLt; have h1 := x1.isLt
  simp only [place]; omega
theorem shape7 (x0 : BitVec 14) (x1 : BitVec 29) (w l : Nat) (h : w % 2 ^ 20 = 0 + place [(x0.toNat, 0)]) (g : l % 2 ^ 29 = place [(x1.toNat, 0)]) :
    fld w 0 14 = x0 ∧ fld l 0 29 = x1 ∧ nz w 14 6 = false := by
  have h0 := x0.isLt; have h1 := x1.isLt
  simp only [place] at h g
  exact ⟨fld_eq _ _ _ _ (by omega), fld_eq _ _ _ _ (by omega), nz_eq _ _ _ (by omega)⟩

theorem shape8_lt (x0 : BitVec 4) (x1 : BitVec 4) (x2 : BitVec 6) : 0 + place [(x0.toNat, 14), (x1.toNat, 8), (x2.toNat, 2)] < 2 ^ 20 := by
  have h0 := x0.isLt; have h1 := x1.isLt; have h2 := x2.isLt
  simp only [place]; omega
theorem shape8 (x0 : BitVec 4) (x1 : BitVec 4) (x2 : BitVec 6) (w : Nat) (h : w % 2 ^ 20 = 0 + place [(x0.toNat, 14), (x1.toNat, 8), (x2.toNat, 2)]) :
    fld w 14 4 = x0 ∧ fld w 8 4 = x1 ∧ fld w 2 6 = x2 ∧ nz w 0 2 = false ∧ nz w 12 2 = false ∧ nz w 18 2 = false := by
  have h0 := x0.isLt; have h1 := x1.isLt; have h2 := x2.isLt
  simp only [place] at h
  exact ⟨fld_eq _ _ _ _ (by omega), fld_eq _ _ _ _ (by omega), fld_eq _ _ _ _ (by omega), nz_eq _ _ _ (by omega), nz_eq _ _ _ (by omega), nz_eq _ _ _ (by omega)⟩

theorem shape9_lt (x0 : BitVec 14) : 0 + place [(x0.toNat, 0)] < 2 ^ 20 := by
  have h0 := x0.isLt
  simp only [place]; omega
theorem shape9 (x0 : BitVec 14) (w : Nat) (h : w % 2 ^ 20 = 0 + place [(x0.toNat, 0)]) :
    fld w 0 14 = x0 ∧ nz w 14 6 = false := by
  have h0 := x0.isLt
  simp only [place] at h
  exact ⟨fld_eq _ _ _ _ (by omega), nz_eq _ _ _ (by omega)⟩

theorem shape10_lt (x0 : BitVec 1) : 0 + place [(x0.toNat, 0)] < 2 ^ 20 := by
  have h0 := x0.isLt
  simp only [place]; omega
theorem shape10 (x0 : BitVec 1) (w : Nat) (h : w % 2 ^ 20 = 0 + place [(x0.toNat, 0)]) :
    fld w 0 1 = x0 ∧ nz w 1 19 = false := by
  have h0 := x0.isLt
  simp only [place] at h
  exact ⟨fld_eq _ _ _ _ (by omega), nz_eq _ _ _ (by omega)⟩

theorem shape11_lt (x0 : BitVec 6) (x1 : BitVec 6) (x2 : BitVec 6) : 0 + place [(x0.toNat, 14), (x1.toNat, 8), (x2.toNat, 2)] < 2 ^ 20 := by
  have h0 := x0.isLt; have h1 := x1.isLt; have h2 := x2.isLt
  simp only [place]; omega
theorem shape11 (x0 : BitVec 6) (x1 : BitVec 6) (x2 : BitVec 6) (w : Nat) (h : w % 2 ^ 20 = 0 + place [(x0.toNat, 14), (x1.toNat, 8), (x2.toNat, 2)]) :
    fld w 14 6 = x0 ∧ fld w 8 6 = x1 ∧ fld w 2 6 = x2 ∧ nz w 0 2 = false := by
  have h0 := x0.isLt; have h1 := x1.isLt; have h2 := x2.isLt
  simp only [place] at h
  exact ⟨fld_eq _ _ _ _ (by omega), fld_eq _ _ _ _ (by omega), fld_eq _ _ _ _ (by omega), nz_eq _ _ _ (by omega)⟩

theorem shape12_lt (x0 : BitVec 6) (x1 : BitVec 6) (x2 : BitVec 8) : 0 + place [(x0.toNat, 14), (x1.toNat, 8), (x2.toNat, 0)] < 2 ^ 20 := by
  have h0 := x0.isLt; have h1 := x1.isLt; have h2 := x2.isLt
  simp only [place]; omega
theorem shape12 (x0 : BitVec 6) (x1 : BitVec 6) (x2 : BitVec 8) (w : Nat) (h : w % 2 ^ 20 = 0 + place [(x0.toNat, 14), (x1.toNat, 8), (x2.toNat, 0)]) :
    fld w 14 6 = x0 ∧ fld w 8 6 = x1 ∧ fld w 0 8 = x2 := by
  have h0 := x0.isLt; have h1 := x1.isLt; have h2 := x2.isLt
  simp only [place] at h
  exact ⟨fld_eq _ _ _ _ (by omega), fld_eq _ _ _ _ (by omega), fld_eq _ _ _ _ (by omega)⟩

theorem shape13_lt (x0 : BitVec 6) (x1 : BitVec 6) (x2 : BitVec 6) : 0 + place [(x0.toNat, 14), (x1.toNat, 8), (x2.toNat, 0)] < 2 ^ 20 := by
  have h0 := x0.isLt; have h1 := x1.isLt; have h2 := x2.isLt
  simp only [place]; omega
theorem shape13 (x0 : BitVec 6) (x1 : BitVec 6) (x2 : BitVec 6) (w : Nat) (h : w % 2 ^ 20 = 0 + place [(x0.toNat, 14), (x1.toNat, 8), (x2.toNat, 0)]) :
    fld w 14 6 = x0 ∧ fld w 8 6 = x1 ∧ fld w 0 6 = x2 ∧ nz w 6 2 = false := by
  have h0 := x0.isLt; have h1 := x1.isLt; have h2 := x2.isLt
  simp only [place] at h
  exact ⟨fld_eq _ _ _ _ (by omega), fld_eq _ _ _ _ (by omega), fld_eq _ _ _ _ (by omega), nz_eq _ _ _ (by omega)⟩

theorem shape14_lt (x0 : BitVec 6) (x1 : BitVec 6) : 0 + place [(x0.toNat, 14), (x1.toNat, 8)] < 2 ^ 20 := by
  have h0 := x0.isLt; have h1 := x1.isLt
  simp only [place]; omega
theorem shape14 (x0 : BitVec 6) (x1 : BitVec 6) (w : Nat) (h : w % 2 ^ 20 = 0 + place [(x0.toNat, 14), (x1.toNat, 8)]) :
    fld w 14 6 = x0 ∧ fld w 8 6 = x1 ∧ nz w 0 8 = false := by
  have h0 := x0.isLt; have h1 := x1.isLt
  simp only [place] at h
  exact ⟨fld_eq _ _ _ _ (by omega), fld_eq _ _ _ _ (by omega), nz_eq _ _ _ (by omega)⟩

theorem shape15_lt (x0 : BitVec 6) (x1 : BitVec 14) (x2 : BitVec 29) : 0 + place [(x0.toNat, 14), (x1.toNat, 0)] < 2 ^ 20 ∧ place [(x2.toNat, 0)] < 2 ^ 29 := by
  have h0 := x0.isLt; have h1 := x1.isLt; have h2 := x2.isLt
  simp only [place]; omega
theorem shape15 (x0 : BitVec 6) (x1 : BitVec 14) (x2 : BitVec 29) (w l : Nat) (h : w % 2 ^ 20 = 0 + place [(x0.toNat, 14), (x1.toNat, 0)]) (g : l % 2 ^ 29 = place [(x2.toNat, 0)]) :
    fld w 14 6 = x0 ∧ fld w 0 14 = x1 ∧ fld l 0 29 = x2 := by
  have h0 := x0.isLt; have h1 := x1.isLt; have h2 := x2.isLt
  simp only [place] at h g
  exact ⟨fld_eq _ _ _ _ (by omega), fld_eq _ _ _ _ (by omega), fld_eq _ _ _ _ (by omega)⟩

theorem shape16_lt (x0 : BitVec 6) (x1 : BitVec 3) (x2 : BitVec 29) : 0 + place [(x0.toNat, 14), (x1.toNat, 0)] < 2 ^ 20 ∧ place [(x2.toNat, 0)] < 2 ^ 29 := by
  have h0 := x0.isLt; have h1 := x1.isLt; have h2 := x2.isLt
  simp only [place]; omega
theorem shape16 (x0 : BitVec 6) (x1 : BitVec 3) (x2 : BitVec 29) (w l : Nat) (h : w % 2 ^ 20 = 0 + place [(x0.toNat, 14), (x1.toNat, 0)]) (g : l % 2 ^ 29 = place [(x2.toNat, 0)]) :
    fld w 14 6 = x0 ∧ fld w 0 3 = x1 ∧ fld l 0 29 = x2 ∧ nz w 3 11 = false := by
  have h0 := x0.isLt; have h1 := x1.isLt; have h2 := x2.isLt
  simp only [place] at h g
  exact ⟨fld_eq _ _ _ _ (by omega), fld_eq _ _ _ _ (by omega), fld_eq _ _ _ _ (by omega), nz_eq _ _ _ (by omega)⟩

theorem shape17_lt (x0 : BitVec 4) (x1 : BitVec 6) (x2 : BitVec 6) : 0 + place [(x0.toNat, 14), (x1.toNat, 8), (x2.toNat, 2)] < 2 ^ 20 := by
  have h0 := x0.isLt; have h1 := x1.isLt; have h2 := x2.isLt
  simp only [place]; omega
theorem shape17 (x0 : BitVec 4) (x1 : BitVec 6) (x2 : BitVec 6) (w : Nat) (h : w % 2 ^ 20 = 0 + place [(x0.toNat, 14), (x1.toNat, 8), (x2.toNat, 2)]) :
    fld w 14 4 = x0 ∧ fld w 8 6 = x1 ∧ fld w 2 6 = x2 ∧ nz w 0 2 = false ∧ nz w 18 2 = false := by
  have h0 := x0.isLt; have h1 := x1.isLt; have h2 := x2.isLt
  simp only [place] at h
  exact ⟨fld_eq _ _ _ _ (by omega), fld_eq _ _ _ _ (by omega), fld_eq _ _ _ _ (by omega), nz_eq _ _ _ (by omega), nz_eq _ _ _ (by omega)⟩

theorem shape18_lt (x0 : BitVec 4) (x1 : BitVec 6) (x2 : BitVec 8) : 0 + place [(x0.toNat, 14), (x1.toNat, 8), (x2.toNat, 0)] < 2 ^ 20 := by
  have h0 := x0.isLt; have h1 := x1.isLt; have h2 := x2.isLt
  simp only [place]; omega
theorem shape18 (x0 : BitVec 4) (x1 : BitVec 6) (x2 : BitVec 8) (w : Nat) (h : w % 2 ^ 20 = 0 + place [(x0.toNat, 14), (x1.toNat, 8), (x2.toNat, 0)]) :
    fld w 14 4 = x0 ∧ fld w 8 6 = x1 ∧ fld w 0 8 = x2 ∧ nz w 18 2 = false := by
  have h0 := x0.isLt; have h1 := x1.isLt; have h2 := x2.isLt
  simp only [place] at h
  exact ⟨fld_eq _ _ _ _ (by omega), fld_eq _ _ _ _ (by omega), fld_eq _ _ _ _ (by omega), nz_eq _ _ _ (by omega)⟩

theorem shape19_lt (x0 : BitVec 6) (x1 : BitVec 6) (x2 : BitVec 6) (x3 : BitVec 2) : 0 + place [(x0.toNat, 14), (x1.toNat, 8), (x2.toNat, 2), (x3.toNat, 0)] < 2 ^ 20 := by
  have h0 := x0.isLt; have h1 := x1.isLt; have h2 := x2.isLt; have h3 := x3.isLt
  simp only [place]; omega
theorem shape19 (x0 : BitVec 6) (x1 : BitVec 6) (x2 : BitVec 6) (x3 : BitVec 2) (w : Nat) (h : w % 2 ^ 20 = 0 + place [(x0.toNat, 14), (x1.toNat, 8), (x2.toNat, 2), (x3.toNat, 0)]) :
    fld w 14 6 = x0 ∧ fld w 8 6 = x1 ∧ fld w 2 6 = x2 ∧ fld w 0 2 = x3 := by
  have h0 := x0.isLt; have h1 := x1.isLt; have h2 := x2.isLt; have h3 := x3.isLt
  simp only [place] at h
  exact ⟨fld_eq _ _ _ _ (by omega), fld_eq _ _ _ _ (by omega), fld_eq _ _ _ _ (by omega), fld_eq _ _ _ _ (by omega)⟩

theorem shape20_lt (x0 : BitVec 4) (x1 : BitVec 5) (x2 : BitVec 5) : 0 + place [(x0.toNat, 14), (x1.toNat, 8), (x2.toNat, 2)] < 2 ^ 20 := by
  have h0 := x0.isLt; have h1 := x1.isLt; have h2 := x2.isLt
  simp only [place]; omega
theorem shape20 (x0 : BitVec 4) (x1 : BitVec 5) (x2 : BitVec 5) (w : Nat) (h : w % 2 ^ 20 = 0 + place [(x0.toNat, 14), (x1.toNat, 8), (x2.toNat, 2)]) :
    fld w 14 4 = x0 ∧ fld w 8 5 = x1 ∧ fld w 2 5 = x2 ∧ nz w 0 2 = false ∧ nz w 7 1 = false ∧ nz w 13 1 = false ∧ nz w 18 2 = false := by
  have h0 := x0.isLt; have h1 := x1.isLt; have h2 := x2.isLt
  simp only [place] at h
  exact ⟨fld_eq _ _ _ _ (by omega), fld_eq _ _ _ _ (by omega), fld_eq _ _ _ _ (by omega), nz_eq _ _ _ (by omega), nz_eq _ _ _ (by omega), nz_eq _ _ _ (by omega), nz_eq _ _ _ (by omega)⟩

theorem shape21_lt (x0 : BitVec 4) (x1 : BitVec 5) : 0 + place [(x0.toNat, 14), (x1.toNat, 8)] < 2 ^ 20 := by
  have h0 := x0.isLt; have h1 := x1.isLt
  simp only [place]; omega
theorem shape21 (x0 : BitVec 4) (x1 : BitVec 5) (w : Nat) (h : w % 2 ^ 20 = 0 + place [(x0.toNat, 14), (x1.toNat, 8)]) :
    fld w 14 4 = x0 ∧ fld w 8 5 = x1 ∧ nz w 0 8 = false ∧ nz w 13 1 = false ∧ nz w 18 2 = false := by
  have h0 := x0.isLt; have h1 := x1.isLt
  simp only [place] at h
  exact ⟨fld_eq _ _ _ _ (by omega), fld_eq _ _ _ _ (by omega), nz_eq _ _ _ (by omega), nz_eq _ _ _ (by omega), nz_eq _ _ _ (by omega)⟩

theorem shape22_lt (x0 : BitVec 6) (x1 : BitVec 3) : 0 + place [(x0.toNat, 14), (x1.toNat, 8)] < 2 ^ 20 := by
  have h0 := x0.isLt; have h1 := x1.isLt
  simp only [place]; omega
theorem shape22 (x0 : BitVec 6) (x1 : BitVec 3) (w : Nat) (h : w % 2 ^ 20 = 0 + place [(x0.toNat, 14), (x1.toNat, 8)]) :
    fld w 14 6 = x0 ∧ fld w 8 3 = x1 ∧ nz w 0 8 = false ∧ nz w 11 3 = false := by
  have h0 := x0.isLt; have h1 := x1.isLt
  simp only [place] at h
  exact ⟨fld_eq _ _ _ _ (by omega), fld_eq _ _ _ _ (by omega), nz_eq _ _ _ (by omega), nz_eq _ _ _ (by omega)⟩

theorem shape23_lt (x0 : BitVec 6) (x1 : BitVec 6) (x2 : BitVec 6) (x3 : BitVec 1) : 0 + place [(x0.toNat, 14), (x1.toNat, 8), (x2.toNat, 2), (x3.toNat, 0)] < 2 ^ 20 := by
  have h0 := x0.isLt; have h1 := x1.isLt; have h2 := x2.isLt; have h3 := x3.isLt
  simp only [place]; omega
theorem shape23 (x0 : BitVec 6) (x1 : BitVec 6) (x2 : BitVec 6) (x3 : BitVec 1) (w : Nat) (h : w % 2 ^ 20 = 0 + place [(x0.toNat, 14), (x1.toNat, 8), (x2.toNat, 2), (x3.toNat, 0)]) :
    ¬ (w / 2 % 2 = 1) ∧ fld w 14 6 = x0 ∧ fld w 8 6 = x1 ∧ fld w 2 6 = x2 ∧ fld w 0 1 = x3 := by
  have h0 := x0.isLt; have h1 := x1.isLt; have h2 := x2.isLt; have h3 := x3.isLt
  simp only [place] at h
  exact ⟨by omega, fld_eq _ _ _ _ (by omega), fld_eq _ _ _ _ (by omega), fld_eq _ _ _ _ (by omega), fld_eq _ _ _ _ (by omega)⟩

theorem shape24_lt (x0 : BitVec 6) (x1 : BitVec 6) (x2 : BitVec 6) (x3 : BitVec 1) (x4 : BitVec 2) : 2 + place [(x0.toNat, 14), (x1.toNat, 8), (x2.toNat, 2), (x3.toNat, 0)] < 2 ^ 20 ∧ place [(x4.toNat, 0)] < 2 ^ 29 := by
  have h0 := x0.isLt; have h1 := x1.isLt; have h2 := x2.isLt; have h3 := x3.isLt; have h4 := x4.isLt
  simp only [place]; omega
theorem shape24 (x0 : BitVec 6) (x1 : BitVec 6) (x2 : BitVec 6) (x3 : BitVec 1) (x4 : BitVec 2) (w l : Nat) (h : w % 2 ^ 20 = 2 + place [(x0.toNat, 14), (x1.toNat, 8), (x2.toNat, 2), (x3.toNat, 0)]) (g : l % 2 ^ 29 = place [(x4.toNat, 0)]) :
    w / 2 % 2 = 1 ∧ fld w 14 6 = x0 ∧ fld w 8 6 = x1 ∧ fld w 2 6 = x2 ∧ fld w 0 1 = x3 ∧ fld l 0 2 = x4 ∧ nz l 2 27 = false := by
  have h0 := x0.isLt; have h1 := x1.isLt; have h2 := x2.isLt; have h3 := x3.isLt; have h4 := x4.isLt
  simp only [place] at h g
  exact ⟨by omega, fld_eq _ _ _ _ (by omega), fld_eq _ _ _ _ (by omega), fld_eq _ _ _ _ (by omega), fld_eq _ _ _ _ (by omega), fld_eq _ _ _ _ (by omega), nz_eq _ _ _ (by omega)⟩

theorem shape25_lt (x0 : BitVec 6) (x1 : BitVec 6) (x2 : BitVec 1) : 0 + place [(x0.toNat, 14), (x1.toNat, 8), (x2.toNat, 0)] < 2 ^ 20 := by
  have h0 := x0.isLt; have h1 := x1.isLt; have h2 := x2.isLt
  simp only [place]; omega
theorem shape25 (x0 : BitVec 6) (x1 : BitVec 6) (x2 : BitVec 1) (w : Nat) (h : w % 2 ^ 20 = 0 + place [(x0.toNat, 14), (x1.toNat, 8), (x2.toNat, 0)]) :
    ¬ (w / 2 % 2 = 1) ∧ fld w 14 6 = x0 ∧ fld w 8 6 = x1 ∧ fld w 0 1 = x2 ∧ nz w 2 6 = false := by
  have h0 := x0.isLt; have h1 := x1.isLt; have h2 := x2.isLt
  simp only [place] at h
  exact ⟨by omega, fld_eq _ _ _ _ (by omega), fld_eq _ _ _ _ (by omega), fld_eq _ _ _ _ (by omega), nz_eq _ _ _ (by omega)⟩

theorem shape26_lt (x0 : BitVec 6) (x1 : BitVec 6) (x2 : BitVec 1) (x3 : BitVec 2) : 2 + place [(x0.toNat, 14), (x1.toNat, 8), (x2.toNat, 0)] < 2 ^ 20 ∧ place [(x3.toNat, 0)] < 2 ^ 29 := by
  have h0 := x0.isLt; have h1 := x1.isLt; have h2 := x2.isLt; have h3 := x3.isLt
  simp only [place]; omega
theorem shape26 (x0 : BitVec 6) (x1 : BitVec 6) (x2 : BitVec 1) (x3 : BitVec 2) (w l : Nat) (h : w % 2 ^ 20 = 2 + place [(x0.toNat, 14), (x1.toNat, 8), (x2.toNat, 0)]) (g : l % 2 ^ 29 = place [(x3.toNat, 0)]) :
    w / 2 % 2 = 1 ∧ fld w 14 6 = x0 ∧ fld w 8 6 = x1 ∧ fld w 0 1 = x2 ∧ fld l 0 2 = x3 ∧ nz w 2 6 = false ∧ nz l 2 27 = false := by
  have h0 := x0.isLt; have h1 := x1.isLt; have h2 := x2.isLt; have h3 := x3.isLt
  simp only [place] at h g
  exact ⟨by omega, fld_eq _ _ _ _ (by omega), fld_eq _ _ _ _ (by omega), fld_eq _ _ _ _ (by omega), fld_eq _ _ _ _ (by omega), nz_eq _ _ _ (by omega), nz_eq _ _ _ (by omega)⟩

theorem shape27_lt (x0 : BitVec 6) (x1 : BitVec 6) (x2 : BitVec 4) (x3 : BitVec 4) (x4 : BitVec 2) : 0 + place [(x0.toNat, 14), (x1.toNat, 8)] < 2 ^ 20 ∧ place [(x2.toNat, 0), (x3.toNat, 4), (x4.toNat, 8)] < 2 ^ 29 := by
  have h0 := x0.isLt; have h1 := x1.isLt; have h2 := x2.isLt; have h3 := x3.isLt; have h4 := x4.isLt
  simp only [place]; omega
theorem shape27 (x0 : BitVec 6) (x1 : BitVec 6) (x2 : BitVec 4) (x3 : BitVec 4) (x4 : BitVec 2) (w l : Nat) (h : w % 2 ^ 20 = 0 + place [(x0.toNat, 14), (x1.toNat, 8)]) (g : l % 2 ^ 29 = place [(x2.toNat, 0), (x3.toNat, 4), (x4.toNat, 8)]) :
    fld w 14 6 = x0 ∧ fld w 8 6 = x1 ∧ fld l 0 4 = x2 ∧ fld l 4 4 = x3 ∧ fld l 8 2 = x4 ∧ nz w 0 8 = false ∧ nz l 10 19 = false := by
  have h0 := x0.isLt; have h1 := x1.isLt; have h2 := x2.isLt; have h3 := x3.isLt; have h4 := x4.isLt
  simp only [place] at h g
  exact ⟨fld_eq _ _ _ _ (by omega), fld_eq _ _ _ _ (by omega), fld_eq _ _ _ _ (by omega), fld_eq _ _ _ _ (by omega), fld_eq _ _ _ _ (by omega), nz_eq _ _ _ (by omega), nz_eq _ _ _ (by omega)⟩

theorem shape28_lt (x0 : BitVec 4) (x1 : BitVec 6) (x2 : BitVec 6) (x3 : BitVec 1) : 0 + place [(x0.toNat, 14), (x1.toNat, 8), (x2.toNat, 2), (x3.toNat, 0)] < 2 ^ 20 := by
  have h0 := x0.isLt; have h1 := x1.isLt; have h2 := x2.isLt; have h3 := x3.isLt
  simp only [place]; omega
theorem shape28 (x0 : BitVec 4) (x1 : BitVec 6) (x2 : BitVec 6) (x3 : BitVec 1) (w : Nat) (h : w % 2 ^ 20 = 0 + place [(x0.toNat, 14), (x1.toNat, 8), (x2.toNat, 2), (x3.toNat, 0)]) :
    fld w 14 4 = x0 ∧ fld w 8 6 = x1 ∧ fld w 2 6 = x2 ∧ fld w 0 1 = x3 ∧ nz w 18 2 = false ∧ nz w 1 1 = false := by
  have h0 := x0.isLt; have h1 := x1.isLt; have h2 := x2.isLt; have h3 := x3.isLt
  simp only [place] at h
  exact ⟨fld_eq _ _ _ _ (by omega), fld_eq _ _ _ _ (by omega), fld_eq _ _ _ _ (by omega), fld_eq _ _ _ _ (by omega), nz_eq _ _ _ (by omega), nz_eq _ _ _ (by omega)⟩

theorem shape29_lt (x0 : BitVec 6) (x1 : BitVec 6) (x2 : BitVec 6) (x3 : BitVec 1) : 0 + place [(x0.toNat, 14), (x1.toNat, 8), (x2.toNat, 2), (x3.toNat, 0)] < 2 ^ 20 := by
  have h0 := x0.isLt; have h1 := x1.isLt; have h2 := x2.isLt; have h3 := x3.isLt
  simp only [place]; omega
theorem shape29 (x0 : BitVec 6) (x1 : BitVec 6) (x2 : BitVec 6) (x3 : BitVec 1) (w : Nat) (h : w % 2 ^ 20 = 0 + place [(x0.toNat, 14), (x1.toNat, 8), (x2.toNat, 2), (x3.toNat, 0)]) :
    fld w 14 6 = x0 ∧ fld w 8 6 = x1 ∧ fld w 2 6 = x2 ∧ fld w 0 1 = x3 ∧ nz w 1 1 = false := by
  have h0 := x0.isLt; have h1 := x1.isLt; have h2 := x2.isLt; have h3 := x3.isLt
  simp only [place] at h
  exact ⟨fld_eq _ _ _ _ (by omega), fld_eq _ _ _ _ (by omega), fld_eq _ _ _ _ (by omega), fld_eq _ _ _ _ (by omega), nz_eq _ _ _ (by omega)⟩

theorem shape30_lt (x0 : BitVec 18) : 0 + place [] < 2 ^ 20 ∧ place [(x0.toNat, 0)] < 2 ^ 29 := by
  have h0 := x0.isLt
  simp only [place]; omega
theorem shape30 (x0 : BitVec 18) (w l : Nat) (h : w % 2 ^ 20 = 0 + place []) (g : l % 2 ^ 29 = place [(x0.toNat, 0)]) :
    fld l 0 18 = x0 ∧ nz w 0 20 = false ∧ nz l 18 11 = false := by
  have h0 := x0.isLt
  simp only [place] at h g
  exact ⟨fld_eq _ _ _ _ (by omega), nz_eq _ _ _ (by omega), nz_eq _ _ _ (by omega)⟩

theorem shape31_lt (x0 : BitVec 5) (x1 : BitVec 5) (x2 : BitVec 5) (x3 : BitVec 3) (x4 : BitVec 2) : 0 + place [(x0.toNat, 15), (x1.toNat, 10), (x2.toNat, 5), (x3.toNat, 2), (x4.toNat, 0)] < 2 ^ 20 := by
  have h0 := x0.isLt; have h1 := x1.isLt; have h2 := x2.isLt; have h3 := x3.isLt; have h4 := x4.isLt
  simp only [place]; omega
theorem shape31 (x0 : BitVec 5) (x1 : BitVec 5) (x2 : BitVec 5) (x3 : BitVec 3) (x4 : BitVec 2) (w : Nat) (h : w % 2 ^ 20 = 0 + place [(x0.toNat, 15), (x1.toNat, 10), (x2.toNat, 5), (x3.toNat, 2), (x4.toNat, 0)]) :
    fld w 15 5 = x0 ∧ fld w 10 5 = x1 ∧ fld w 5 5 = x2 ∧ fld w 2 3 = x3 ∧ fld w 0 2 = x4 := by
  have h0 := x0.isLt; have h1 := x1.isLt; have h2 := x2.isLt; have h3 := x3.isLt; have h4 := x4.isLt
  simp only [place] at h
  exact ⟨fld_eq _ _ _ _ (by omega), fld_eq _ _ _ _ (by omega), fld_eq _ _ _ _ (by omega), fld_eq _ _ _ _ (by omega), fld_eq _ _ _ _ (by omega)⟩

theorem shape32_lt (x0 : BitVec 5) (x1 : BitVec 5) (x2 : BitVec 3) (x3 : BitVec 2) : 0 + place [(x0.toNat, 15), (x1.toNat, 10), (x2.toNat, 2), (x3.toNat, 0)] < 2 ^ 20 := by
  have h0 := x0.isLt; have h1 := x1.isLt; have h2 := x2.isLt; have h3 := x3.isLt
  simp only [place]; omega
theorem shape32 (x0 : BitVec 5) (x1 : BitVec 5) (x2 : BitVec 3) (x3 : BitVec 2) (w : Nat) (h : w % 2 ^ 20 = 0 + place [(x0.toNat, 15), (x1.toNat, 10), (x2.toNat, 2), (x3.toNat, 0)]) :
    fld w 15 5 = x0 ∧ fld w 10 5 = x1 ∧ fld w 2 3 = x2 ∧ fld w 0 2 = x3 ∧ nz w 5 5 = false := by
  have h0 := x0.isLt; have h1 := x1.isLt; have h2 := x2.isLt; have h3 := x3.isLt
  simp only [place] at h
  exact ⟨fld_eq _ _ _ _ (by omega), fld_eq _ _ _ _ (by omega), fld_eq _ _ _ _ (by omega), fld_eq _ _ _ _ (by omega), nz_eq _ _ _ (by omega)⟩

theorem shape33_lt (x0 : BitVec 3) (x1 : BitVec 5) (x2 : BitVec 5) (x3 : BitVec 3) (x4 : BitVec 2) : 0 + place [(x0.toNat, 15), (x1.toNat, 10), (x2.toNat, 5), (x3.toNat, 2), (x4.toNat, 0)] < 2 ^ 20 := by
  have h0 := x0.isLt; have h1 := x1.isLt; have h2 := x2.isLt; have h3 := x3.isLt; have h4 := x4.isLt
  simp only [place]; omega
theorem shape33 (x0 : BitVec 3) (x1 : BitVec 5) (x2 : BitVec 5) (x3 : BitVec 3) (x4 : BitVec 2) (w : Nat) (h : w % 2 ^ 20 = 0 + place [(x0.toNat, 15), (x1.toNat, 10), (x2.toNat, 5), (x3.toNat, 2), (x4.toNat, 0)]) :
    fld w 15 3 = x0 ∧ fld w 10 5 = x1 ∧ fld w 5 5 = x2 ∧ fld w 2 3 = x3 ∧ fld w 0 2 = x4 ∧ nz w 18 2 = false := by
  have h0 := x0.isLt; have h1 := x1.isLt; have h2 := x2.isLt; have h3 := x3.isLt; have h4 := x4.isLt
  simp only [place] at h
  exact ⟨fld_eq _ _ _ _ (by omega), fld_eq _ _ _ _ (by omega), fld_eq _ _ _ _ (by omega), fld_eq _ _ _ _ (by omega), fld_eq _ _ _ _ (by omega), nz_eq _ _ _ (by omega)⟩

theorem shape34_lt (x0 : BitVec 5) (x1 : BitVec 5) (x2 : BitVec 4) (x3 : BitVec 3) (x4 : BitVec 2) : 0 + place [(x0.toNat, 15), (x1.toNat, 10), (x2.toNat, 5), (x3.toNat, 2), (x4.toNat, 0)] < 2 ^ 20 := by
  have h0 := x0.isLt; have h1 := x1.isLt; have h2 := x2.isLt; have h3 := x3.isLt; have h4 := x4.isLt
  simp only [place]; omega
theorem shape34 (x0 : BitVec 5) (x1 : BitVec 5) (x2 : BitVec 4) (x3 : BitVec 3) (x4 : BitVec 2) (w : Nat) (h : w % 2 ^ 20 = 0 + place [(x0.toNat, 15), (x1.toNat, 10), (x2.toNat, 5), (x3.toNat, 2), (x4.toNat, 0)]) :
    fld w 15 5 = x0 ∧ fld w 10 5 = x1 ∧ fld w 5 4 = x2 ∧ fld w 2 3 = x3 ∧ fld w 0 2 = x4 ∧ nz w 9 1 = false := by
  have h0 := x0.isLt; have h1 := x1.isLt; have h2 := x2.isLt; have h3 := x3.isLt; have h4 := x4.isLt
  simp only [place] at h
  exact ⟨fld_eq _ _ _ _ (by omega), fld_eq _ _ _ _ (by omega), fld_eq _ _ _ _ (by omega), fld_eq _ _ _ _ (by omega), fld_eq _ _ _ _ (by omega), nz_eq _ _ _ (by omega)⟩

theorem shape35_lt (x0 : BitVec 5) (x1 : BitVec 5) (x2 : BitVec 4) (x3 : BitVec 3) : 0 + place [(x0.toNat, 15), (x1.toNat, 10), (x2.toNat, 5), (x3.toNat, 2)] < 2 ^ 20 := by
  have h0 := x0.isLt; have h1 := x1.isLt; have h2 := x2.isLt; have h3 := x3.isLt
  simp only [place]; omega
theorem shape35 (x0 : BitVec 5) (x1 : BitVec 5) (x2 : BitVec 4) (x3 : BitVec 3) (w : Nat) (h : w % 2 ^ 20 = 0 + place [(x0.toNat, 15), (x1.toNat, 10), (x2.toNat, 5), (x3.toNat, 2)]) :
    fld w 15 5 = x0 ∧ fld w 10 5 = x1 ∧ fld w 5 4 = x2 ∧ fld w 2 3 = x3 ∧ nz w 0 2 = false ∧ nz w 9 1 = false := by
  have h0 := x0.isLt; have h1 := x1.isLt; have h2 := x2.isLt; have h3 := x3.isLt
  simp only [place] at h
  exact ⟨fld_eq _ _ _ _ (by omega), fld_eq _ _ _ _ (by omega), fld_eq _ _ _ _ (by omega), fld_eq _ _ _ _ (by omega), nz_eq _ _ _ (by omega), nz_eq _ _ _ (by omega)⟩

theorem shape36_lt (x0 : BitVec 4) (x1 : BitVec 5) (x2 : BitVec 3) : 0 + place [(x0.toNat, 15), (x1.toNat, 10), (x2.toNat, 2)] < 2 ^ 20 := by
  have h0 := x0.isLt; have h1 := x1.isLt; have h2 := x2.isLt
  simp only [place]; omega
theorem shape36 (x0 : BitVec 4) (x1 : BitVec 5) (x2 : BitVec 3) (w : Nat) (h : w % 2 ^ 20 = 0 + place [(x0.toNat, 15), (x1.toNat, 10), (x2.toNat, 2)]) :
    fld w 15 4 = x0 ∧ fld w 10 5 = x1 ∧ fld w 2 3 = x2 ∧ nz w 0 2 = false ∧ nz w 5 5 = false ∧ nz w 19 1 = false := by
  have h0 := x0.isLt; have h1 := x1.isLt; have h2 := x2.isLt
  simp only [place] at h
  exact ⟨fld_eq _ _ _ _ (by omega), fld_eq _ _ _ _ (by omega), fld_eq _ _ _ _ (by omega), nz_eq _ _ _ (by omega), nz_eq _ _ _ (by omega), nz_eq _ _ _ (by omega)⟩

theorem shape37_lt (x0 : BitVec 5) (x1 : BitVec 5) (x2 : BitVec 3) : 0 + place [(x0.toNat, 15), (x1.toNat, 10), (x2.toNat, 2)] < 2 ^ 20 := by
  have h0 := x0.isLt; have h1 := x1.isLt; have h2 := x2.isLt
  simp only [place]; omega
theorem shape37 (x0 : BitVec 5) (x1 : BitVec 5) (x2 : BitVec 3) (w : Nat) (h : w % 2 ^ 20 = 0 + place [(x0.toNat, 15), (x1.toNat, 10), (x2.toNat, 2)]) :
    fld w 15 5 = x0 ∧ fld w 10 5 = x1 ∧ fld w 2 3 = x2 ∧ nz w 0 2 = false ∧ nz w 5 5 = false := by
  have h0 := x0.isLt; have h1 := x1.isLt; have h2 := x2.isLt
  simp only [place] at h
  exact ⟨fld_eq _ _ _ _ (by omega), fld_eq _ _ _ _ (by omega), fld_eq _ _ _ _ (by omega), nz_eq _ _ _ (by omega), nz_eq _ _ _ (by omega)⟩

theorem shape38_lt (x0 : BitVec 2) (x1 : BitVec 3) (x2 : BitVec 3) (x3 : BitVec 3) (x4 : BitVec 3) (x5 : BitVec 2) : 0 + place [(x0.toNat, 18), (x1.toNat, 15), (x2.toNat, 10), (x3.toNat, 5), (x4.toNat, 2), (x5.toNat, 0)] < 2 ^ 20 := by
  have h0 := x0.isLt; have h1 := x1.isLt; have h2 := x2.isLt; have h3 := x3.isLt; have h4 := x4.isLt; have h5 := x5.isLt
  simp only [place]; omega
theorem shape38 (x0 : BitVec 2) (x1 : BitVec 3) (x2 : BitVec 3) (x3 : BitVec 3) (x4 : BitVec 3) (x5 : BitVec 2) (w : Nat) (h : w % 2 ^ 20 = 0 + place [(x0.toNat, 18), (x1.toNat, 15), (x2.toNat, 10), (x3.toNat, 5), (x4.toNat, 2), (x5.toNat, 0)]) :
    fld w 18 2 = x0 ∧ fld w 15 3 = x1 ∧ fld w 10 3 = x2 ∧ fld w 5 3 = x3 ∧ fld w 2 3 = x4 ∧ fld w 0 2 = x5 ∧ nz w 8 2 = false ∧ nz w 13 2 = false := by
  have h0 := x0.isLt; have h1 := x1.isLt; have h2 := x2.isLt; have h3 := x3.isLt; have h4 := x4.isLt; have h5 := x5.isLt
  simp only [place] at h
  exact ⟨fld_eq _ _ _ _ (by omega), fld_eq _ _ _ _ (by omega), fld_eq _ _ _ _ (by omega), fld_eq _ _ _ _ (by omega), fld_eq _ _ _ _ (by omega), fld_eq _ _ _ _ (by omega), nz_eq _ _ _ (by omega), nz_eq _ _ _ (by omega)⟩

theorem shape39_lt (x0 : BitVec 5) (x1 : BitVec 5) (x2 : BitVec 2) (x3 : BitVec 3) (x4 : BitVec 2) : 0 + place [(x0.toNat, 15), (x1.toNat, 10), (x2.toNat, 5), (x3.toNat, 2), (x4.toNat, 0)] < 2 ^ 20 := by
  have h0 := x0.isLt; have h1 := x1.isLt; have h2 := x2.isLt; have h3 := x3.isLt; have h4 := x4.isLt
  simp only [place]; omega
theorem shape39 (x0 : BitVec 5) (x1 : BitVec 5) (x2 : BitVec 2) (x3 : BitVec 3) (x4 : BitVec 2) (w : Nat) (h : w % 2 ^ 20 = 0 + place [(x0.toNat, 15), (x1.toNat, 10), (x2.toNat, 5), (x3.toNat, 2), (x4.toNat, 0)]) :
    fld w 15 5 = x0 ∧ fld w 10 5 = x1 ∧ fld w 5 2 = x2 ∧ fld w 2 3 = x3 ∧ fld w 0 2 = x4 ∧ nz w 7 3 = false := by
  have h0 := x0.isLt; have h1 := x1.isLt; have h2 := x2.isLt; have h3 := x3.isLt; have h4 := x4.isLt
  simp only [place] at h
  exact ⟨fld_eq _ _ _ _ (by omega), fld_eq _ _ _ _ (by omega), fld_eq _ _ _ _ (by omega), fld_eq _ _ _ _ (by omega), fld_eq _ _ _ _ (by omega), nz_eq _ _ _ (by omega)⟩

theorem shape40_lt (x0 : BitVec 4) (x1 : BitVec 6) : 0 + place [(x0.toNat, 14), (x1.toNat, 8)] < 2 ^ 20 := by
  have h0 := x0.isLt; have h1 := x1.isLt
  simp only [place]; omega
theorem shape40 (x0 : BitVec 4) (x1 : BitVec 6) (w : Nat) (h : w % 2 ^ 20 = 0 + place [(x0.toNat, 14), (x1.toNat, 8)]) :
    ¬ (w % 2 = 1) ∧ fld w 14 4 = x0 ∧ fld w 8 6 = x1 ∧ nz w 1 7 = false ∧ nz w 18 2 = false := by
  have h0 := x0.isLt; have h1 := x1.isLt
  simp only [place] at h
  exact ⟨by omega, fld_eq _ _ _ _ (by omega), fld_eq _ _ _ _ (by omega), nz_eq _ _ _ (by omega), nz_eq _ _ _ (by omega)⟩

theorem shape41_lt (x0 : BitVec 4) (x1 : BitVec 6) : 1 + place [(x0.toNat, 14), (x1.toNat, 8)] < 2 ^ 20 := by
  have h0 := x0.isLt; have h1 := x1.isLt
  simp only [place]; omega
theorem shape41 (x0 : BitVec 4) (x1 : BitVec 6) (w : Nat) (h : w % 2 ^ 20 = 1 + place [(x0.toNat, 14), (x1.toNat, 8)]) :
    w % 2 = 1 ∧ fld w 14 4 = x0 ∧ fld w 8 6 = x1 ∧ nz w 1 7 = false ∧ nz w 18 2 = false := by
  have h0 := x0.isLt; have h1 := x1.isLt
  simp only [place] at h
  exact ⟨by omega, fld_eq _ _ _ _ (by omega), fld_eq _ _ _ _ (by omega), nz_eq _ _ _ (by omega), nz_eq _ _ _ (by omega)⟩

theorem shape42_lt (x0 : BitVec 4) : 0 + place [(x0.toNat, 14)] < 2 ^ 20 := by
  have h0 := x0.isLt
  simp only [place]; omega
theorem shape42 (x0 : BitVec 4) (w : Nat) (h : w % 2 ^ 20 = 0 + place [(x0.toNat, 14)]) :
    fld w 14 4 = x0 ∧ nz w 0 14 = false ∧ nz w 18 2 = false := by
  have h0 := x0.isLt
  simp only [place] at h
  exact ⟨fld_eq _ _ _ _ (by omega), nz_eq _ _ _ (by omega), nz_eq _ _ _ (by omega)⟩

theorem shape43_lt (x0 : BitVec 4) (x1 : BitVec 4) : 0 + place [(x0.toNat, 14), (x1.toNat, 8)] < 2 ^ 20 := by
  have h0 := x0.isLt; have h1 := x1.isLt
  simp only [place]; omega
theorem shape43 (x0 : BitVec 4) (x1 : BitVec 4) (w : Nat) (h : w % 2 ^ 20 = 0 + place [(x0.toNat, 14), (x1.toNat, 8)]) :
    fld w 14 4 = x0 ∧ fld w 8 4 = x1 ∧ nz w 0 8 = false ∧ nz w 12 2 = false ∧ nz w 18 2 = false := by
  have h0 := x0.isLt; have h1 := x1.isLt
  simp only [place] at h
  exact ⟨fld_eq _ _ _ _ (by omega), fld_eq _ _ _ _ (by omega), nz_eq _ _ _ (by omega), nz_eq _ _ _ (by omega), nz_eq _ _ _ (by omega)⟩

theorem shape44_lt (x0 : BitVec 6) (x1 : BitVec 4) (x2 : BitVec 2) : 0 + place [(x0.toNat, 14), (x1.toNat, 8), (x2.toNat, 2)] < 2 ^ 20 := by
  have h0 := x0.isLt; have h1 := x1.isLt; have h2 := x2.isLt
  simp only [place]; omega
theorem shape44 (x0 : BitVec 6) (x1 : BitVec 4) (x2 : BitVec 2) (w : Nat) (h : w % 2 ^ 20 = 0 + place [(x0.toNat, 14), (x1.toNat, 8), (x2.toNat, 2)]) :
    fld w 14 6 = x0 ∧ fld w 8 4 = x1 ∧ fld w 2 2 = x2 ∧ nz w 0 2 = false ∧ nz w 4 4 = false ∧ nz w 12 2 = false := by
  have h0 := x0.isLt; have h1 := x1.isLt; have h2 := x2.isLt
  simp only [place] at h
  exact ⟨fld_eq _ _ _ _ (by omega), fld_eq _ _ _ _ (by omega), fld_eq _ _ _ _ (by omega), nz_eq _ _ _ (by omega), nz_eq _ _ _ (by omega), nz_eq _ _ _ (by omega)⟩

theorem shape45_lt (x0 : BitVec 5) (x1 : BitVec 6) (x2 : BitVec 6) : 0 + place [(x0.toNat, 14), (x1.toNat, 8), (x2.toNat, 2)] < 2 ^ 20 := by
  have h0 := x0.isLt; have h1 := x1.isLt; have h2 := x2.isLt
  simp only [place]; omega
theorem shape45 (x0 : BitVec 5) (x1 : BitVec 6) (x2 : BitVec 6) (w : Nat) (h : w % 2 ^ 20 = 0 + place [(x0.toNat, 14), (x1.toNat, 8), (x2.toNat, 2)]) :
    fld w 14 5 = x0 ∧ fld w 8 6 = x1 ∧ fld w 2 6 = x2 ∧ nz w 19 1 = false ∧ nz w 0 2 = false := by
  have h0 := x0.isLt; have h1 := x1.isLt; have h2 := x2.isLt
  simp only [place] at h
  exact ⟨fld_eq _ _ _ _ (by omega), fld_eq _ _ _ _ (by omega), fld_eq _ _ _ _ (by omega), nz_eq _ _ _ (by omega), nz_eq _ _ _ (by omega)⟩

theorem shape46_lt (x0 : BitVec 1) (x1 : BitVec 5) (x2 : BitVec 4) (x3 : BitVec 6) (x4 : BitVec 2) : 0 + place [(x0.toNat, 19), (x1.toNat, 14), (x2.toNat, 8), (x3.toNat, 2), (x4.toNat, 0)] < 2 ^ 20 := by
  have h0 := x0.isLt; have h1 := x1.isLt; have h2 := x2.isLt; have h3 := x3.isLt; have h4 := x4.isLt
  simp only [place]; omega
theorem shape46 (x0 : BitVec 1) (x1 : BitVec 5) (x2 : BitVec 4) (x3 : BitVec 6) (x4 : BitVec 2) (w : Nat) (hm : x4.toNat < 3) (h : w % 2 ^ 20 = 0 + place [(x0.toNat, 19), (x1.toNat, 14), (x2.toNat, 8), (x3.toNat, 2), (x4.toNat, 0)]) :
    ¬ (w % 4 = 3) ∧ fld w 19 1 = x0 ∧ fld w 14 5 = x1 ∧ fld w 8 4 = x2 ∧ fld w 2 6 = x3 ∧ fld w 0 2 = x4 ∧ nz w 12 2 = false := by
  have h0 := x0.isLt; have h1 := x1.isLt; have h2 := x2.isLt; have h3 := x3.isLt; have h4 := x4.isLt
  simp only [place] at h
  exact ⟨by omega, fld_eq _ _ _ _ (by omega), fld_eq _ _ _ _ (by omega), fld_eq _ _ _ _ (by omega), fld_eq _ _ _ _ (by omega), fld_eq _ _ _ _ (by omega), nz_eq _ _ _ (by omega)⟩

theorem shape47_lt (x0 : BitVec 1) (x1 : BitVec 5) (x2 : BitVec 4) (x3 : BitVec 6) (x4 : BitVec 29) : 3 + place [(x0.toNat, 19), (x1.toNat, 14), (x2.toNat, 8), (x3.toNat, 2)] < 2 ^ 20 ∧ place [(x4.toNat, 0)] < 2 ^ 29 := by
  have h0 := x0.isLt; have h1 := x1.isLt; have h2 := x2.isLt; have h3 := x3.isLt; have h4 := x4.isLt
  simp only [place]; omega
theorem shape47 (x0 : BitVec 1) (x1 : BitVec 5) (x2 : BitVec 4) (x3 : BitVec 6) (x4 : BitVec 29) (w l : Nat) (h : w % 2 ^ 20 = 3 + place [(x0.toNat, 19), (x1.toNat, 14), (x2.toNat, 8), (x3.toNat, 2)]) (g : l % 2 ^ 29 = place [(x4.toNat, 0)]) :
    w % 4 = 3 ∧ fld w 19 1 = x0 ∧ fld w 14 5 = x1 ∧ fld w 8 4 = x2 ∧ fld w 2 6 = x3 ∧ fld l 0 29 = x4 ∧ nz w 12 2 = false := by
  have h0 := x0.isLt; have h1 := x1.isLt; have h2 := x2.isLt; have h3 := x3.isLt; have h4 := x4.isLt
  simp only [place] at h g
  exact ⟨by omega, fld_eq _ _ _ _ (by omega), fld_eq _ _ _ _ (by omega), fld_eq _ _ _ _ (by omega), fld_eq _ _ _ _ (by omega), fld_eq _ _ _ _ (by omega), nz_eq _ _ _ (by omega)⟩

theorem shape48_lt (x0 : BitVec 3) (x1 : BitVec 4) (x2 : BitVec 6) : 0 + place [(x0.toNat, 14), (x1.toNat, 8), (x2.toNat, 2)] < 2 ^ 20 := by
  have h0 := x0.isLt; have h1 := x1.isLt; have h2 := x2.isLt
  simp only [place]; omega
theorem shape48 (x0 : BitVec 3) (x1 : BitVec 4) (x2 : BitVec 6) (w : Nat) (h : w % 2 ^ 20 = 0 + place [(x0.toNat, 14), (x1.toNat, 8), (x2.toNat, 2)]) :
    fld w 14 3 = x0 ∧ fld w 8 4 = x1 ∧ fld w 2 6 = x2 ∧ nz w 0 2 = false ∧ nz w 12 2 = false ∧ nz w 17 3 = false := by
  have h0 := x0.isLt; have h1 := x1.isLt; have h2 := x2.isLt
  simp only [place] at h
  exact ⟨fld_eq _ _ _ _ (by omega), fld_eq _ _ _ _ (by omega), fld_eq _ _ _ _ (by omega), nz_eq _ _ _ (by omega), nz_eq _ _ _ (by omega), nz_eq _ _ _ (by omega)⟩

theorem shape49_lt (x0 : BitVec 3) (x1 : BitVec 4) : 0 + place [(x0.toNat, 14), (x1.toNat, 8)] < 2 ^ 20 := by
  have h0 := x0.isLt; have h1 := x1.isLt
  simp only [place]; omega
theorem shape49 (x0 : BitVec 3) (x1 : BitVec 4) (w : Nat) (h : w % 2 ^ 20 = 0 + place [(x0.toNat, 14), (x1.toNat, 8)]) :
    fld w 14 3 = x0 ∧ fld w 8 4 = x1 ∧ nz w 0 8 = false ∧ nz w 12 2 = false ∧ nz w 17 3 = false := by
  have h0 := x0.isLt; have h1 := x1.isLt
  simp only [place] at h
  exact ⟨fld_eq _ _ _ _ (by omega), fld_eq _ _ _ _ (by omega), nz_eq _ _ _ (by omega), nz_eq _ _ _ (by omega), nz_eq _ _ _ (by omega)⟩

theorem shape50_lt (x0 : BitVec 3) (x1 : BitVec 6) (x2 : BitVec 3) : 0 + place [(x0.toNat, 14), (x1.toNat, 8), (x2.toNat, 2)] < 2 ^ 20 := by
  have h0 := x0.isLt; have h1 := x1.isLt; have h2 := x2.isLt
  simp only [place]; omega
theorem shape50 (x0 : BitVec 3) (x1 : BitVec 6) (x2 : BitVec 3) (w : Nat) (h : w % 2 ^ 20 = 0 + place [(x0.toNat, 14), (x1.toNat, 8), (x2.toNat, 2)]) :
    fld w 14 3 = x0 ∧ fld w 8 6 = x1 ∧ fld w 2 3 = x2 ∧ nz w 0 2 = false ∧ nz w 5 3 = false ∧ nz w 17 3 = false := by
  have h0 := x0.isLt; have h1 := x1.isLt; have h2 := x2.isLt
  simp only [place] at h
  exact ⟨fld_eq _ _ _ _ (by omega), fld_eq _ _ _ _ (by omega), fld_eq _ _ _ _ (by omega), nz_eq _ _ _ (by omega), nz_eq _ _ _ (by omega), nz_eq _ _ _ (by omega)⟩

theorem shape51_lt (x0 : BitVec 3) (x1 : BitVec 2) (x2 : BitVec 20) : 0 + place [(x0.toNat, 14), (x1.toNat, 0)] < 2 ^ 20 ∧ place [(x2.toNat, 0)] < 2 ^ 29 := by
  have h0 := x0.isLt; have h1 := x1.isLt; have h2 := x2.isLt
  simp only [place]; omega
theorem shape51 (x0 : BitVec 3) (x1 : BitVec 2) (x2 : BitVec 20) (w l : Nat) (h : w % 2 ^ 20 = 0 + place [(x0.toNat, 14), (x1.toNat, 0)]) (g : l % 2 ^ 29 = place [(x2.toNat, 0)]) :
    fld w 14 3 = x0 ∧ fld w 0 2 = x1 ∧ fld l 0 20 = x2 ∧ nz w 17 3 = false ∧ nz w 2 12 = false ∧ nz l 20 9 = false := by
  have h0 := x0.isLt; have h1 := x1.isLt; have h2 := x2.isLt
  simp only [place] at h g
  exact ⟨fld_eq _ _ _ _ (by omega), fld_eq _ _ _ _ (by omega), fld_eq _ _ _ _ (by omega), nz_eq _ _ _ (by omega), nz_eq _ _ _ (by omega), nz_eq _ _ _ (by omega)⟩

theorem shape52_lt (x0 : BitVec 3) (x1 : BitVec 2) (x2 : BitVec 6) (x3 : BitVec 8) : 0 + place [(x0.toNat, 16), (x1.toNat, 14), (x2.toNat, 8), (x3.toNat, 0)] < 2 ^ 20 := by
  have h0 := x0.isLt; have h1 := x1.isLt; have h2 := x2.isLt; have h3 := x3.isLt
  simp only [place]; omega
theorem shape52 (x0 : BitVec 3) (x1 : BitVec 2) (x2 : BitVec 6) (x3 : BitVec 8) (w : Nat) (h : w % 2 ^ 20 = 0 + place [(x0.toNat, 16), (x1.toNat, 14), (x2.toNat, 8), (x3.toNat, 0)]) :
    fld w 16 3 = x0 ∧ fld w 14 2 = x1 ∧ fld w 8 6 = x2 ∧ fld w 0 8 = x3 ∧ nz w 19 1 = false := by
  have h0 := x0.isLt; have h1 := x1.isLt; have h2 := x2.isLt; have h3 := x3.isLt
  simp only [place] at h
  exact ⟨fld_eq _ _ _ _ (by omega), fld_eq _ _ _ _ (by omega), fld_eq _ _ _ _ (by omega), fld_eq _ _ _ _ (by omega), nz_eq _ _ _ (by omega)⟩

theorem shape53_lt (x0 : BitVec 4) (x1 : BitVec 4) (x2 : BitVec 4) (x3 : BitVec 4) : 0 + place [(x0.toNat, 14), (x1.toNat, 8), (x2.toNat, 4), (x3.toNat, 0)] < 2 ^ 20 := by
  have h0 := x0.isLt; have h1 := x1.isLt; have h2 := x2.isLt; have h3 := x3.isLt
  simp only [place]; omega
theorem shape53 (x0 : BitVec 4) (x1 : BitVec 4) (x2 : BitVec 4) (x3 : BitVec 4) (w : Nat) (h : w % 2 ^ 20 = 0 + place [(x0.toNat, 14), (x1.toNat, 8), (x2.toNat, 4), (x3.toNat, 0)]) :
    fld w 14 4 = x0 ∧ fld w 8 4 = x1 ∧ fld w 4 4 = x2 ∧ fld w 0 4 = x3 ∧ nz w 12 2 = false ∧ nz w 18 2 = false := by
  have h0 := x0.isLt; have h1 := x1.isLt; have h2 := x2.isLt; have h3 := x3.isLt
  simp only [place] at h
  exact ⟨fld_eq _ _ _ _ (by omega), fld_eq _ _ _ _ (by omega), fld_eq _ _ _ _ (by omega), fld_eq _ _ _ _ (by omega), nz_eq _ _ _ (by omega), nz_eq _ _ _ (by omega)⟩

theorem shape54_lt (x0 : BitVec 6) (x1 : BitVec 4) : 0 + place [(x0.toNat, 14), (x1.toNat, 8)] < 2 ^ 20 := by
  have h0 := x0.isLt; have h1 := x1.isLt
  simp only [place]; omega
theorem shape54 (x0 : BitVec 6) (x1 : BitVec 4) (w : Nat) (h : w % 2 ^ 20 = 0 + place [(x0.toNat, 14), (x1.toNat, 8)]) :
    fld w 14 6 = x0 ∧ fld w 8 4 = x1 ∧ nz w 0 8 = false ∧ nz w 12 2 = false := by
  have h0 := x0.isLt; have h1 := x1.isLt
  simp only [place] at h
  exact ⟨fld_eq _ _ _ _ (by omega), fld_eq _ _ _ _ (by omega), nz_eq _ _ _ (by omega), nz_eq _ _ _ (by omega)⟩

theorem shape55_lt (x0 : BitVec 5) (x1 : BitVec 6) (x2 : BitVec 6) (x3 : BitVec 2) : 0 + place [(x0.toNat, 14), (x1.toNat, 8), (x2.toNat, 2), (x3.toNat, 0)] < 2 ^ 20 := by
  have h0 := x0.isLt; have h1 := x1.isLt; have h2 := x2.isLt; have h3 := x3.isLt
  simp only [place]; omega
theorem shape55 (x0 : BitVec 5) (x1 : BitVec 6) (x2 : BitVec 6) (x3 : BitVec 2) (w : Nat) (h : w % 2 ^ 20 = 0 + place [(x0.toNat, 14), (x1.toNat, 8), (x2.toNat, 2), (x3.toNat, 0)]) :
    fld w 14 5 = x0 ∧ fld w 8 6 = x1 ∧ fld w 2 6 = x2 ∧ fld w 0 2 = x3 ∧ nz w 19 1 = false := by
  have h0 := x0.isLt; have h1 := x1.isLt; have h2 := x2.isLt; have h3 := x3.isLt
  simp only [place] at h
  exact ⟨fld_eq _ _ _ _ (by omega), fld_eq _ _ _ _ (by omega), fld_eq _ _ _ _ (by omega), fld_eq _ _ _ _ (by omega), nz_eq _ _ _ (by omega)⟩

theorem shape56_lt (x0 : BitVec 4) (x1 : BitVec 1) : 0 + place [(x0.toNat, 14), (x1.toNat, 0)] < 2 ^ 20 := by
  have h0 := x0.isLt; have h1 := x1.isLt
  simp only [place]; omega
theorem shape56 (x0 : BitVec 4) (x1 : BitVec 1) (w : Nat) (h : w % 2 ^ 20 = 0 + place [(x0.toNat, 14), (x1.toNat, 0)]) :
    fld w 14 4 = x0 ∧ fld w 0 1 = x1 ∧ nz w 1 13 = false ∧ nz w 18 2 = false := by
  have h0 := x0.isLt; have h1 := x1.isLt
  simp only [place] at h
  exact ⟨fld_eq _ _ _ _ (by omega), fld_eq _ _ _ _ (by omega), nz_eq _ _ _ (by omega), nz_eq _ _ _ (by omega)⟩

theorem shape57_lt (x0 : BitVec 4) (x1 : BitVec 5) (x2 : BitVec 2) : 0 + place [(x0.toNat, 14), (x1.toNat, 8), (x2.toNat, 2)] < 2 ^ 20 := by
  have h0 := x0.isLt; have h1 := x1.isLt; have h2 := x2.isLt
  simp only [place]; omega
theorem shape57 (x0 : BitVec 4) (x1 : BitVec 5) (x2 : BitVec 2) (w : Nat) (h : w % 2 ^ 20 = 0 + place [(x0.toNat, 14), (x1.toNat, 8), (x2.toNat, 2)]) :
    fld w 14 4 = x0 ∧ fld w 8 5 = x1 ∧ fld w 2 2 = x2 ∧ nz w 0 2 = false ∧ nz w 4 4 = false ∧ nz w 13 1 = false ∧ nz w 18 2 = false := by
  have h0 := x0.isLt; have h1 := x1.isLt; have h2 := x2.isLt
  simp only [place] at h
  exact ⟨fld_eq _ _ _ _ (by omega), fld_eq _ _ _ _ (by omega), fld_eq _ _ _ _ (by omega), nz_eq _ _ _ (by omega), nz_eq _ _ _ (by omega), nz_eq _ _ _ (by omega), nz_eq _ _ _ (by omega)⟩

theorem shape58_lt (x0 : BitVec 5) (x1 : BitVec 4) (x2 : BitVec 2) : 0 + place [(x0.toNat, 14), (x1.toNat, 8), (x2.toNat, 2)] < 2 ^ 20 := by
  have h0 := x0.isLt; have h1 := x1.isLt; have h2 := x2.isLt
  simp only [place]; omega
theorem shape58 (x0 : BitVec 5) (x1 : BitVec 4) (x2 : BitVec 2) (w : Nat) (h : w % 2 ^ 20 = 0 + place [(x0.toNat, 14), (x1.toNat, 8), (x2.toNat, 2)]) :
    fld w 14 5 = x0 ∧ fld w 8 4 = x1 ∧ fld w 2 2 = x2 ∧ nz w 0 2 = false ∧ nz w 4 4 = false ∧ nz w 12 2 = false ∧ nz w 19 1 = false := by
  have h0 := x0.isLt; have h1 := x1.isLt; have h2 := x2.isLt
  simp only [place] at h
  exact ⟨fld_eq _ _ _ _ (by omega), fld_eq _ _ _ _ (by omega), fld_eq _ _ _ _ (by omega), nz_eq _ _ _ (by omega), nz_eq _ _ _ (by omega), nz_eq _ _ _ (by omega), nz_eq _ _ _ (by omega)⟩

theorem shape59_lt (x0 : BitVec 4) (x1 : BitVec 8) : 0 + place [(x0.toNat, 14), (x1.toNat, 0)] < 2 ^ 20 := by
  have h0 := x0.isLt; have h1 := x1.isLt
  simp only [place]; omega
theorem shape59 (x0 : BitVec 4) (x1 : BitVec 8) (w : Nat) (h : w % 2 ^ 20 = 0 + place [(x0.toNat, 14), (x1.toNat, 0)]) :
    fld w 14 4 = x0 ∧ fld w 0 8 = x1 ∧ nz w 8 6 = false ∧ nz w 18 2 = false := by
  have h0 := x0.isLt; have h1 := x1.isLt
  simp only [place] at h
  exact ⟨fld_eq _ _ _ _ (by omega), fld_eq _ _ _ _ (by omega), nz_eq _ _ _ (by omega), nz_eq _ _ _ (by omega)⟩

theorem shape60_lt (x0 : BitVec 4) (x1 : BitVec 6) : 0 + place [(x0.toNat, 14), (x1.toNat, 8)] < 2 ^ 20 := by
  have h0 := x0.isLt; have h1 := x1.isLt
  simp only [place]; omega
theorem shape60 (x0 : BitVec 4) (x1 : BitVec 6) (w : Nat) (h : w % 2 ^ 20 = 0 + place [(x0.toNat, 14), (x1.toNat, 8)]) :
    fld w 14 4 = x0 ∧ fld w 8 6 = x1 ∧ nz w 0 8 = false ∧ nz w 18 2 = false := by
  have h0 := x0.isLt; have h1 := x1.isLt
  simp only [place] at h
  exact ⟨fld_eq _ _ _ _ (by omega), fld_eq _ _ _ _ (by omega), nz_eq _ _ _ (by omega), nz_eq _ _ _ (by omega)⟩

theorem shape61_lt (x0 : BitVec 6) (x1 : BitVec 1) (x2 : BitVec 4) : 0 + place [(x0.toNat, 14), (x1.toNat, 12), (x2.toNat, 8)] < 2 ^ 20 := by
  have h0 := x0.isLt; have h1 := x1.isLt; have h2 := x2.isLt
  simp only [place]; omega
theorem shape61 (x0 : BitVec 6) (x1 : BitVec 1) (x2 : BitVec 4) (w : Nat) (h : w % 2 ^ 20 = 0 + place [(x0.toNat, 14), (x1.toNat, 12), (x2.toNat, 8)]) :
    fld w 14 6 = x0 ∧ fld w 12 1 = x1 ∧ fld w 8 4 = x2 ∧ nz w 0 8 = false ∧ nz w 13 1 = false := by
  have h0 := x0.isLt; have h1 := x1.isLt; have h2 := x2.isLt
  simp only [place] at h
  exact ⟨fld_eq _ _ _ _ (by omega), fld_eq _ _ _ _ (by omega), fld_eq _ _ _ _ (by omega), nz_eq _ _ _ (by omega), nz_eq _ _ _ (by omega)⟩

theorem shape62_lt (x0 : BitVec 6) (x1 : BitVec 4) (x2 : BitVec 6) (x3 : BitVec 1) : 0 + place [(x0.toNat, 14), (x1.toNat, 8), (x2.toNat, 2), (x3.toNat, 0)] < 2 ^ 20 := by
  have h0 := x0.isLt; have h1 := x1.isLt; have h2 := x2.isLt; have h3 := x3.isLt
  simp only [place]; omega
theorem shape62 (x0 : BitVec 6) (x1 : BitVec 4) (x2 : BitVec 6) (x3 : BitVec 1) (w : Nat) (h : w % 2 ^ 20 = 0 + place [(x0.toNat, 14), (x1.toNat, 8), (x2.toNat, 2), (x3.toNat, 0)]) :
    fld w 14 6 = x0 ∧ fld w 8 4 = x1 ∧ fld w 2 6 = x2 ∧ fld w 0 1 = x3 ∧ nz w 1 1 = false ∧ nz w 12 2 = false := by
  have h0 := x0.isLt; have h1 := x1.isLt; have h2 := x2.isLt; have h3 := x3.isLt
  simp only [place] at h
  exact ⟨fld_eq _ _ _ _ (by omega), fld_eq _ _ _ _ (by omega), fld_eq _ _ _ _ (by omega), fld_eq _ _ _ _ (by omega), nz_eq _ _ _ (by omega), nz_eq _ _ _ (by omega)⟩

theorem shape63_lt (x0 : BitVec 6) (x1 : BitVec 4) (x2 : BitVec 6) (x3 : BitVec 1) (x4 : BitVec 1) : 0 + place [(x0.toNat, 14), (x1.toNat, 8), (x2.toNat, 2), (x3.toNat, 1), (x4.toNat, 0)] < 2 ^ 20 := by
  have h0 := x0.isLt; have h1 := x1.isLt; have h2 := x2.isLt; have h3 := x3.isLt; have h4 := x4.isLt
  simp only [place]; omega
theorem shape63 (x0 : BitVec 6) (x1 : BitVec 4) (x2 : BitVec 6) (x3 : BitVec 1) (x4 : BitVec 1) (w : Nat) (h : w % 2 ^ 20 = 0 + place [(x0.toNat, 14), (x1.toNat, 8), (x2.toNat, 2), (x3.toNat, 1), (x4.toNat, 0)]) :
    fld w 14 6 = x0 ∧ fld w 8 4 = x1 ∧ fld w 2 6 = x2 ∧ fld w 1 1 = x3 ∧ fld w 0 1 = x4 ∧ nz w 12 2 = false := by
  have h0 := x0.isLt; have h1 := x1.isLt; have h2 := x2.isLt; have h3 := x3.isLt; have h4 := x4.isLt
  simp only [place] at h
  exact ⟨fld_eq _ _ _ _ (by omega), fld_eq _ _ _ _ (by omega), fld_eq _ _ _ _ (by omega), fld_eq _ _ _ _ (by omega), fld_eq _ _ _ _ (by omega), nz_eq _ _ _ (by omega)⟩

theorem shape64_lt (x0 : BitVec 5) (x1 : BitVec 5) (x2 : BitVec 3) : 0 + place [(x0.toNat, 14), (x1.toNat, 8), (x2.toNat, 2)] < 2 ^ 20 := by
  have h0 := x0.isLt; have h1 := x1.isLt; have h2 := x2.isLt
  simp only [place]; omega
theorem shape64 (x0 : BitVec 5) (x1 : BitVec 5) (x2 : BitVec 3) (w : Nat) (h : w % 2 ^ 20 = 0 + place [(x0.toNat, 14), (x1.toNat, 8), (x2.toNat, 2)]) :
    fld w 14 5 = x0 ∧ fld w 8 5 = x1 ∧ fld w 2 3 = x2 ∧ nz w 0 2 = false ∧ nz w 5 3 = false ∧ nz w 13 1 = false ∧ nz w 19 1 = false := by
  have h0 := x0.isLt; have h1 := x1.isLt; have h2 := x2.isLt
  simp only [place] at h
  exact ⟨fld_eq _ _ _ _ (by omega), fld_eq _ _ _ _ (by omega), fld_eq _ _ _ _ (by omega), nz_eq _ _ _ (by omega), nz_eq _ _ _ (by omega), nz_eq _ _ _ (by omega), nz_eq _ _ _ (by omega)⟩

theorem shape65_lt (x0 : BitVec 6) (x1 : BitVec 4) (x2 : BitVec 6) (x3 : BitVec 1) : 0 + place [(x0.toNat, 14), (x1.toNat, 8), (x2.toNat, 2), (x3.toNat, 0)] < 2 ^ 20 := by
  have h0 := x0.isLt; have h1 := x1.isLt; have h2 := x2.isLt; have h3 := x3.isLt
  simp only [place]; omega
theorem shape65 (x0 : BitVec 6) (x1 : BitVec 4) (x2 : BitVec 6) (x3 : BitVec 1) (w : Nat) (h : w % 2 ^ 20 = 0 + place [(x0.toNat, 14), (x1.toNat, 8), (x2.toNat, 2), (x3.toNat, 0)]) :
    ¬ (w / 2 % 2 = 1) ∧ fld w 14 6 = x0 ∧ fld w 8 4 = x1 ∧ fld w 2 6 = x2 ∧ fld w 0 1 = x3 ∧ nz w 12 2 = false := by
  have h0 := x0.isLt; have h1 := x1.isLt; have h2 := x2.isLt; have h3 := x3.isLt
  simp only [place] at h
  exact ⟨by omega, fld_eq _ _ _ _ (by omega), fld_eq _ _ _ _ (by omega), fld_eq _ _ _ _ (by omega), fld_eq _ _ _ _ (by omega), nz_eq _ _ _ (by omega)⟩

theorem shape66_lt (x0 : BitVec 6) (x1 : BitVec 4) (x2 : BitVec 6) (x3 : BitVec 1) : 2 + place [(x0.toNat, 14), (x1.toNat, 8), (x2.toNat, 2), (x3.toNat, 0)] < 2 ^ 20 := by
  have h0 := x0.isLt; have h1 := x1.isLt; have h2 := x2.isLt; have h3 := x3.isLt
  simp only [place]; omega
theorem shape66 (x0 : BitVec 6) (x1 : BitVec 4) (x2 : BitVec 6) (x3 : BitVec 1) (w : Nat) (h : w % 2 ^ 20 = 2 + place [(x0.toNat, 14), (x1.toNat, 8), (x2.toNat, 2), (x3.toNat, 0)]) :
    w / 2 % 2 = 1 ∧ fld w 14 6 = x0 ∧ fld w 8 4 = x1 ∧ fld w 2 6 = x2 ∧ fld w 0 1 = x3 ∧ nz w 12 2 = false := by
  have h0 := x0.isLt; have h1 := x1.isLt; have h2 := x2.isLt; have h3 := x3.isLt
  simp only [place] at h
  exact ⟨by omega, fld_eq _ _ _ _ (by omega), fld_eq _ _ _ _ (by omega), fld_eq _ _ _ _ (by omega), fld_eq _ _ _ _ (by omega), nz_eq _ _ _ (by omega)⟩

theorem shape67_lt (x0 : BitVec 4) (x1 : BitVec 6) : 0 + place [(x0.toNat, 8), (x1.toNat, 2)] < 2 ^ 20 := by
  have h0 := x0.isLt; have h1 := x1.isLt
  simp only [place]; omega
theorem shape67 (x0 : BitVec 4) (x1 : BitVec 6) (w : Nat) (h : w % 2 ^ 20 = 0 + place [(x0.toNat, 8), (x1.toNat, 2)]) :
    ¬ (w / 2 % 2 = 1) ∧ fld w 8 4 = x0 ∧ fld w 2 6 = x1 ∧ nz w 0 1 = false ∧ nz w 12 8 = false := by
  have h0 := x0.isLt; have h1 := x1.isLt
  simp only [place] at h
  exact ⟨by omega, fld_eq _ _ _ _ (by omega), fld_eq _ _ _ _ (by omega), nz_eq _ _ _ (by omega), nz_eq _ _ _ (by omega)⟩

theorem shape68_lt (x0 : BitVec 4) (x1 : BitVec 6) (x2 : BitVec 16) : 2 + place [(x0.toNat, 8), (x1.toNat, 2)] < 2 ^ 20 ∧ place [(x2.toNat, 0)] < 2 ^ 29 := by
  have h0 := x0.isLt; have h1 := x1.isLt; have h2 := x2.isLt
  simp only [place]; omega
theorem shape68 (x0 : BitVec 4) (x1 : BitVec 6) (x2 : BitVec 16) (w l : Nat) (h : w % 2 ^ 20 = 2 + place [(x0.toNat, 8), (x1.toNat, 2)]) (g : l % 2 ^ 29 = place [(x2.toNat, 0)]) :
    w / 2 % 2 = 1 ∧ fld w 8 4 = x0 ∧ fld w 2 6 = x1 ∧ fld l 0 16 = x2 ∧ nz w 14 6 = false ∧ nz w 12 2 = false ∧ nz w 0 1 = false ∧ nz l 16 13 = false := by
  have h0 := x0.isLt; have h1 := x1.isLt; have h2 := x2.isLt
  simp only [place] at h g
  exact ⟨by omega, fld_eq _ _ _ _ (by omega), fld_eq _ _ _ _ (by omega), fld_eq _ _ _ _ (by omega), nz_eq _ _ _ (by omega), nz_eq _ _ _ (by omega), nz_eq _ _ _ (by omega), nz_eq _ _ _ (by omega)⟩

theorem shape69_lt (x0 : BitVec 6) (x1 : BitVec 4) (x2 : BitVec 6) : 0 + place [(x0.toNat, 14), (x1.toNat, 8), (x2.toNat, 2)] < 2 ^ 20 := by
  have h0 := x0.isLt; have h1 := x1.isLt; have h2 := x2.isLt
  simp only [place]; omega
theorem shape69 (x0 : BitVec 6) (x1 : BitVec 4) (x2 : BitVec 6) (w : Nat) (h : w % 2 ^ 20 = 0 + place [(x0.toNat, 14), (x1.toNat, 8), (x2.toNat, 2)]) :
    fld w 14 6 = x0 ∧ fld w 8 4 = x1 ∧ fld w 2 6 = x2 ∧ nz w 0 2 = false ∧ nz w 12 2 = false := by
  have h0 := x0.isLt; have h1 := x1.isLt; have h2 := x2.isLt
  simp only [place] at h
  exact ⟨fld_eq _ _ _ _ (by omega), fld_eq _ _ _ _ (by omega), fld_eq _ _ _ _ (by omega), nz_eq _ _ _ (by omega), nz_eq _ _ _ (by omega)⟩

theorem shape70_lt (x0 : BitVec 6) (x1 : BitVec 4) (x2 : BitVec 6) (x3 : BitVec 1) : 0 + place [(x0.toNat, 14), (x1.toNat, 8), (x2.toNat, 2), (x3.toNat, 1)] < 2 ^ 20 := by
  have h0 := x0.isLt; have h1 := x1.isLt; have h2 := x2.isLt; have h3 := x3.isLt
  simp only [place]; omega
theorem shape70 (x0 : BitVec 6) (x1 : BitVec 4) (x2 : BitVec 6) (x3 : BitVec 1) (w : Nat) (h : w % 2 ^ 20 = 0 + place [(x0.toNat, 14), (x1.toNat, 8), (x2.toNat, 2), (x3.toNat, 1)]) :
    fld w 14 6 = x0 ∧ fld w 8 4 = x1 ∧ fld w 2 6 = x2 ∧ fld w 1 1 = x3 ∧ nz w 0 1 = false ∧ nz w 12 2 = false := by
  have h0 := x0.isLt; have h1 := x1.isLt; have h2 := x2.isLt; have h3 := x3.isLt
  simp only [place] at h
  exact ⟨fld_eq _ _ _ _ (by omega), fld_eq _ _ _ _ (by omega), fld_eq _ _ _ _ (by omega), fld_eq _ _ _ _ (by omega), nz_eq _ _ _ (by omega), nz_eq _ _ _ (by omega)⟩

theorem shape71_lt (x0 : BitVec 5) (x1 : BitVec 4) (x2 : BitVec 6) : 0 + place [(x0.toNat, 14), (x1.toNat, 8), (x2.toNat, 2)] < 2 ^ 20 := by
  have h0 := x0.isLt; have h1 := x1.isLt; have h2 := x2.isLt
  simp only [place]; omega
theorem shape71 (x0 : BitVec 5) (x1 : BitVec 4) (x2 : BitVec 6) (w : Nat) (h : w % 2 ^ 20 = 0 + place [(x0.toNat, 14), (x1.toNat, 8), (x2.toNat, 2)]) :
    fld w 14 5 = x0 ∧ fld w 8 4 = x1 ∧ fld w 2 6 = x2 ∧ nz w 0 2 = false ∧ nz w 12 2 = false ∧ nz w 19 1 = false := by
  have h0 := x0.isLt; have h1 := x1.isLt; have h2 := x2.isLt
  simp only [place] at h
  exact ⟨fld_eq _ _ _ _ (by omega), fld_eq _ _ _ _ (by omega), fld_eq _ _ _ _ (by omega), nz_eq _ _ _ (by omega), nz_eq _ _ _ (by omega), nz_eq _ _ _ (by omega)⟩

theorem shape72_lt (x0 : BitVec 6) (x1 : BitVec 4) (x2 : BitVec 6) (x3 : BitVec 2) : 0 + place [(x0.toNat, 14), (x1.toNat, 8), (x2.toNat, 2), (x3.toNat, 0)] < 2 ^ 20 := by
  have h0 := x0.isLt; have h1 := x1.isLt; have h2 := x2.isLt; have h3 := x3.isLt
  simp only [place]; omega
theorem shape72 (x0 : BitVec 6) (x1 : BitVec 4) (x2 : BitVec 6) (x3 : BitVec 2) (w : Nat) (h : w % 2 ^ 20 = 0 + place [(x0.toNat, 14), (x1.toNat, 8), (x2.toNat, 2), (x3.toNat, 0)]) :
    fld w 14 6 = x0 ∧ fld w 8 4 = x1 ∧ fld w 2 6 = x2 ∧ fld w 0 2 = x3 ∧ nz w 12 2 = false := by
  have h0 := x0.isLt; have h1 := x1.isLt; have h2 := x2.isLt; have h3 := x3.isLt
  simp only [place] at h
  exact ⟨fld_eq _ _ _ _ (by omega), fld_eq _ _ _ _ (by omega), fld_eq _ _ _ _ (by omega), fld_eq _ _ _ _ (by omega), nz_eq _ _ _ (by omega)⟩

theorem shape73_lt (x0 : BitVec 4) (x1 : BitVec 4) (x2 : BitVec 8) : 0 + place [(x0.toNat, 14), (x1.toNat, 8), (x2.toNat, 0)] < 2 ^ 20 := by
  have h0 := x0.isLt; have h1 := x1.isLt; have h2 := x2.isLt
  simp only [place]; omega
theorem shape73 (x0 : BitVec 4) (x1 : BitVec 4) (x2 : BitVec 8) (w : Nat) (h : w % 2 ^ 20 = 0 + place [(x0.toNat, 14), (x1.toNat, 8), (x2.toNat, 0)]) :
    fld w 14 4 = x0 ∧ fld w 8 4 = x1 ∧ fld w 0 8 = x2 ∧ nz w 12 2 = false ∧ nz w 18 2 = false := by
  have h0 := x0.isLt; have h1 := x1.isLt; have h2 := x2.isLt
  simp only [place] at h
  exact ⟨fld_eq _ _ _ _ (by omega), fld_eq _ _ _ _ (by omega), fld_eq _ _ _ _ (by omega), nz_eq _ _ _ (by omega), nz_eq _ _ _ (by omega)⟩

theorem shape74_lt (x0 : BitVec 4) (x1 : BitVec 4) (x2 : BitVec 6) (x3 : BitVec 2) : 0 + place [(x0.toNat, 14), (x1.toNat, 8), (x2.toNat, 2), (x3.toNat, 0)] < 2 ^ 20 := by
  have h0 := x0.isLt; have h1 := x1.isLt; have h2 := x2.isLt; have h3 := x3.isLt
  simp only [place]; omega
theorem shape74 (x0 : BitVec 4) (x1 : BitVec 4) (x2 : BitVec 6) (x3 : BitVec 2) (w : Nat) (h : w % 2 ^ 20 = 0 + place [(x0.toNat, 14), (x1.toNat, 8), (x2.toNat, 2), (x3.toNat, 0)]) :
    fld w 14 4 = x0 ∧ fld w 8 4 = x1 ∧ fld w 2 6 = x2 ∧ fld w 0 2 = x3 ∧ nz w 12 2 = false ∧ nz w 18 2 = false := by
  have h0 := x0.isLt; have h1 := x1.isLt; have h2 := x2.isLt; have h3 := x3.isLt
  simp only [place] at h
  exact ⟨fld_eq _ _ _ _ (by omega), fld_eq _ _ _ _ (by omega), fld_eq _ _ _ _ (by omega), fld_eq _ _ _ _ (by omega), nz_eq _ _ _ (by omega), nz_eq _ _ _ (by omega)⟩

theorem shape75_lt (x0 : BitVec 1) (x1 : BitVec 3) : 0 + place [(x0.toNat, 3), (x1.toNat, 0)] < 2 ^ 20 := by
  have h0 := x0.isLt; have h1 := x1.isLt
  simp only [place]; omega
theorem shape75 (x0 : BitVec 1) (x1 : BitVec 3) (w : Nat) (h : w % 2 ^ 20 = 0 + place [(x0.toNat, 3), (x1.toNat, 0)]) :
    fld w 3 1 = x0 ∧ fld w 0 3 = x1 ∧ nz w 4 16 = false := by
  have h0 := x0.isLt; have h1 := x1.isLt
  simp only [place] at h
  exact ⟨fld_eq _ _ _ _ (by omega), fld_eq _ _ _ _ (by omega), nz_eq _ _ _ (by omega)⟩

theorem shape76_lt (x0 : BitVec 4) (x1 : BitVec 6) (x2 : BitVec 1) : 0 + place [(x0.toNat, 14), (x1.toNat, 8), (x2.toNat, 0)] < 2 ^ 20 := by
  have h0 := x0.isLt; have h1 := x1.isLt; have h2 := x2.isLt
  simp only [place]; omega
theorem shape76 (x0 : BitVec 4) (x1 : BitVec 6) (x2 : BitVec 1) (w : Nat) (h : w % 2 ^ 20 = 0 + place [(x0.toNat, 14), (x1.toNat, 8), (x2.toNat, 0)]) :
    fld w 14 4 = x0 ∧ fld w 8 6 = x1 ∧ fld w 0 1 = x2 ∧ nz w 1 7 = false ∧ nz w 18 2 = false := by
  have h0 := x0.isLt; have h1 := x1.isLt; have h2 := x2.isLt
  simp only [place] at h
  exact ⟨fld_eq _ _ _ _ (by omega), fld_eq _ _ _ _ (by omega), fld_eq _ _ _ _ (by omega), nz_eq _ _ _ (by omega), nz_eq _ _ _ (by omega)⟩

theorem shape77_lt (x0 : BitVec 4) (x1 : BitVec 6) : 0 + place [(x0.toNat, 14), (x1.toNat, 2)] < 2 ^ 20 := by
  have h0 := x0.isLt; have h1 := x1.isLt
  simp only [place]; omega
theorem shape77 (x0 : BitVec 4) (x1 : BitVec 6) (w : Nat) (h : w % 2 ^ 20 = 0 + place [(x0.toNat, 14), (x1.toNat, 2)]) :
    fld w 14 4 = x0 ∧ fld w 2 6 = x1 ∧ nz w 0 2 = false ∧ nz w 8 6 = false ∧ nz w 18 2 = false := by
  have h0 := x0.isLt; have h1 := x1.isLt
  simp only [place] at h
  exact ⟨fld_eq _ _ _ _ (by omega), fld_eq _ _ _ _ (by omega), nz_eq _ _ _ (by omega), nz_eq _ _ _ (by omega), nz_eq _ _ _ (by omega)⟩

theorem shape78_lt (x0 : BitVec 4) (x1 : BitVec 5) (x2 : BitVec 6) : 0 + place [(x0.toNat, 14), (x1.toNat, 8), (x2.toNat, 2)] < 2 ^ 20 := by
  have h0 := x0.isLt; have h1 := x1.isLt; have h2 := x2.isLt
  simp only [place]; omega
theorem shape78 (x0 : BitVec 4) (x1 : BitVec 5) (x2 : BitVec 6) (w : Nat) (h : w % 2 ^ 20 = 0 + place [(x0.toNat, 14), (x1.toNat, 8), (x2.toNat, 2)]) :
    fld w 14 4 = x0 ∧ fld w 8 5 = x1 ∧ fld w 2 6 = x2 ∧ nz w 0 2 = false ∧ nz w 13 1 = false ∧ nz w 18 2 = false := by
  have h0 := x0.isLt; have h1 := x1.isLt; have h2 := x2.isLt
  simp only [place] at h
  exact ⟨fld_eq _ _ _ _ (by omega), fld_eq _ _ _ _ (by omega), fld_eq _ _ _ _ (by omega), nz_eq _ _ _ (by omega), nz_eq _ _ _ (by omega), nz_eq _ _ _ (by omega)⟩

theorem shape79_lt (x0 : BitVec 16) : 0 + place [(x0.toNat, 0)] < 2 ^ 20 := by
  have h0 := x0.isLt
  simp only [place]; omega
theorem shape79 (x0 : BitVec 16) (w : Nat) (h : w % 2 ^ 20 = 0 + place [(x0.toNat, 0)]) :
    fld w 0 16 = x0 ∧ nz w 16 4 = false := by
  have h0 := x0.isLt
  simp only [place] at h
  exact ⟨fld_eq _ _ _ _ (by omega), nz_eq _ _ _ (by omega)⟩

theorem shape80_lt  : 0 + place [] < 2 ^ 20 := by
  decide
theorem shape80  (w : Nat) (h : w % 2 ^ 20 = 0 + place []) :
    nz w 0 20 = false := by
  simp only [place] at h
  exact nz_eq _ _ _ (by omega)

theorem br (i : BitVec 20) : Statement (.br i) := by
  intro _
  refine one 0 2 0 [(i.toNat, 0)] (.br i) (by decide) (by decide) (shape1_lt i) (fun _ => rfl) ?_
  intro W hE hO hw
  have f0 := shape1 i W hw
  rw [in0 W _ hE]; unfold decodeCtl; rw [hO]
  show dec1 W (.br (fld W 0 20)) (false) = _
  rw [f0]

theorem brp (sel : BitVec 5) (i : BitVec 14) : Statement (.brp sel i) := by
  intro _
  refine one 0 3 0 [(sel.toNat, 14), (i.toNat, 0)] (.brp sel i) (by decide) (by decide) (shape2_lt sel i) (fun _ => rfl) ?_
  intro W hE hO hw
  obtain ⟨f0, f1, f2⟩ := shape2 sel i W hw
  rw [in0 W _ hE]; unfold decodeCtl; rw [hO]
  show dec1 W (.brp (fld W 14 5) (fld W 0 14)) (nz W 19 1) = _
  rw [f0, f1, f2]

theorem call (i : BitVec 20) : Statement (.call i) := by
  intro _
  refine one 0 4 0 [(i.toNat, 0)] (.call i) (by decide) (by decide) (shape1_lt i) (fun _ => rfl) ?_
  intro W hE hO hw
  have f0 := shape1 i W hw
  rw [in0 W _ hE]; unfold decodeCtl; rw [hO]
  show dec1 W (.call (fld W 0 20)) (false) = _
  rw [f0]

theorem ret (g : BitVec 6) : Statement (.ret g) := by
  intro _
  refine one 0 5 0 [(g.toNat, 14)] (.ret g) (by decide) (by decide) (shape3_lt g) (fun _ => rfl) ?_
  intro W hE hO hw
  obtain ⟨f0, f1⟩ := shape3 g W hw
  rw [in0 W _ hE]; unfold decodeCtl; rw [hO]
  show dec1 W (.ret (fld W 14 6)) (nz W 0 14) = _
  rw [f0, f1]

theorem loop (g : BitVec 6) (len : BitVec 16) : Statement (.loop g len) := by
  intro _
  refine two 0 6 0 [(g.toNat, 14)] [(len.toNat, 0)] (.loop g len) (by decide) (by decide) (shape4_lt g len).1
    (shape4_lt g len).2 (fun _ => rfl) ?_
  intro W L hE hO hw hl hL
  obtain ⟨f0, f1, f2, f3⟩ := shape4 g len W L hw hL
  rw [in0 W _ hE]; unfold decodeCtl; rw [hO]
  refine (dec2_ok W L _ (hl.trans hE.symm)).trans ?_
  show (Except.ok ({ ins := .loop (fld W 14 6) (fld L 0 16), eng := engOf W, dly := dlyOf W, len := 2, rsvd := nz W 0 14 || nz L 16 13, fb := false } : Decoded) : Except Reject Decoded) = _
  rw [f0, f1, f2, f3]
  try rfl

theorem loopi (cnt : BitVec 20) (len : BitVec 16) : Statement (.loopi cnt len) := by
  intro _
  refine two 0 7 0 [(cnt.toNat, 0)] [(len.toNat, 0)] (.loopi cnt len) (by decide) (by decide) (shape5_lt cnt len).1
    (shape5_lt cnt len).2 (fun _ => rfl) ?_
  intro W L hE hO hw hl hL
  obtain ⟨f0, f1, f2⟩ := shape5 cnt len W L hw hL
  rw [in0 W _ hE]; unfold decodeCtl; rw [hO]
  refine (dec2_ok W L _ (hl.trans hE.symm)).trans ?_
  show (Except.ok ({ ins := .loopi (fld W 0 20) (fld L 0 16), eng := engOf W, dly := dlyOf W, len := 2, rsvd := nz L 16 13, fb := false } : Decoded) : Except Reject Decoded) = _
  rw [f0, f1, f2]

theorem lbrk (sel : BitVec 6) (i : BitVec 14) : Statement (.lbrk sel i) := by
  intro _
  refine one 0 8 0 [(sel.toNat, 14), (i.toNat, 0)] (.lbrk sel i) (by decide) (by decide) (shape6_lt sel i) (fun _ => rfl) ?_
  intro W hE hO hw
  obtain ⟨f0, f1⟩ := shape6 sel i W hw
  rw [in0 W _ hE]; unfold decodeCtl; rw [hO]
  show dec1 W (.lbrk (fld W 14 6) (fld W 0 14)) (false) = _
  rw [f0, f1]

theorem yield (i : BitVec 14) (live : BitVec 29) : Statement (.yield i live) := by
  intro _
  refine two 0 9 0 [(i.toNat, 0)] [(live.toNat, 0)] (.yield i live) (by decide) (by decide) (shape7_lt i live).1
    (shape7_lt i live).2 (fun _ => rfl) ?_
  intro W L hE hO hw hl hL
  obtain ⟨f0, f1, f2⟩ := shape7 i live W L hw hL
  rw [in0 W _ hE]; unfold decodeCtl; rw [hO]
  refine (dec2_ok W L _ (hl.trans hE.symm)).trans ?_
  show (Except.ok ({ ins := .yield (fld W 0 14) (fld L 0 29), eng := engOf W, dly := dlyOf W, len := 2, rsvd := nz W 14 6, fb := false } : Decoded) : Except Reject Decoded) = _
  rw [f0, f1, f2]

theorem waitb (g : BitVec 6) : Statement (.waitb g) := by
  intro _
  refine one 0 11 0 [(g.toNat, 14)] (.waitb g) (by decide) (by decide) (shape3_lt g) (fun _ => rfl) ?_
  intro W hE hO hw
  obtain ⟨f0, f1⟩ := shape3 g W hw
  rw [in0 W _ hE]; unfold decodeCtl; rw [hO]
  show dec1 W (.waitb (fld W 14 6)) (nz W 0 14) = _
  rw [f0, f1]

theorem launch (p : BitVec 4) (h : BitVec 4) (g : BitVec 6) : Statement (.launch p h g) := by
  intro _
  refine one 0 13 0 [(p.toNat, 14), (h.toNat, 8), (g.toNat, 2)] (.launch p h g) (by decide) (by decide) (shape8_lt p h g) (fun _ => rfl) ?_
  intro W hE hO hw
  obtain ⟨f0, f1, f2, f3, f4, f5⟩ := shape8 p h g W hw
  rw [in0 W _ hE]; unfold decodeCtl; rw [hO]
  show dec1 W (.launch (fld W 14 4) (fld W 8 4) (fld W 2 6)) (nz W 0 2 || nz W 12 2 || nz W 18 2) = _
  rw [f0, f1, f2, f3, f4, f5]
  try rfl

theorem trap (i : BitVec 14) : Statement (.trap i) := by
  intro _
  refine one 0 15 0 [(i.toNat, 0)] (.trap i) (by decide) (by decide) (shape9_lt i) (fun _ => rfl) ?_
  intro W hE hO hw
  obtain ⟨f0, f1⟩ := shape9 i W hw
  rw [in0 W _ hE]; unfold decodeCtl; rw [hO]
  show dec1 W (.trap (fld W 0 14)) (nz W 14 6) = _
  rw [f0, f1]

theorem bkpt (i : BitVec 14) : Statement (.bkpt i) := by
  intro _
  refine one 0 17 0 [(i.toNat, 0)] (.bkpt i) (by decide) (by decide) (shape9_lt i) (fun _ => rfl) ?_
  intro W hE hO hw
  obtain ⟨f0, f1⟩ := shape9 i W hw
  rw [in0 W _ hE]; unfold decodeCtl; rw [hO]
  show dec1 W (.bkpt (fld W 0 14)) (nz W 14 6) = _
  rw [f0, f1]

theorem smode (t : BitVec 1) : Statement (.smode t) := by
  intro _
  refine one 0 18 0 [(t.toNat, 0)] (.smode t) (by decide) (by decide) (shape10_lt t) (fun _ => rfl) ?_
  intro W hE hO hw
  obtain ⟨f0, f1⟩ := shape10 t W hw
  rw [in0 W _ hE]; unfold decodeCtl; rw [hO]
  show dec1 W (.smode (fld W 0 1)) (nz W 1 19) = _
  rw [f0, f1]

theorem rdsr (g : BitVec 6) (s : BitVec 14) : Statement (.rdsr g s) := by
  intro _
  refine one 0 19 0 [(g.toNat, 14), (s.toNat, 0)] (.rdsr g s) (by decide) (by decide) (shape6_lt g s) (fun _ => rfl) ?_
  intro W hE hO hw
  obtain ⟨f0, f1⟩ := shape6 g s W hw
  rw [in0 W _ hE]; unfold decodeCtl; rw [hO]
  show dec1 W (.rdsr (fld W 14 6) (fld W 0 14)) (false) = _
  rw [f0, f1]

theorem wrsr (g : BitVec 6) (s : BitVec 14) : Statement (.wrsr g s) := by
  intro _
  refine one 0 20 0 [(g.toNat, 14), (s.toNat, 0)] (.wrsr g s) (by decide) (by decide) (shape6_lt g s) (fun _ => rfl) ?_
  intro W hE hO hw
  obtain ⟨f0, f1⟩ := shape6 g s W hw
  rw [in0 W _ hE]; unfold decodeCtl; rw [hO]
  show dec1 W (.wrsr (fld W 14 6) (fld W 0 14)) (false) = _
  rw [f0, f1]

theorem add (a : BitVec 6) (b : BitVec 6) (c : BitVec 6) : Statement (.add a b c) := by
  intro _
  refine one 1 2 0 [(a.toNat, 14), (b.toNat, 8), (c.toNat, 2)] (.add a b c) (by decide) (by decide) (shape11_lt a b c) (fun _ => rfl) ?_
  intro W hE hO hw
  obtain ⟨f0, f1, f2, f3⟩ := shape11 a b c W hw
  rw [in1 W _ hE]; unfold decodeSca; rw [hO]
  show dec1 W (.add (fld W 14 6) (fld W 8 6) (fld W 2 6)) (nz W 0 2) = _
  rw [f0, f1, f2, f3]

theorem sub (a : BitVec 6) (b : BitVec 6) (c : BitVec 6) : Statement (.sub a b c) := by
  intro _
  refine one 1 3 0 [(a.toNat, 14), (b.toNat, 8), (c.toNat, 2)] (.sub a b c) (by decide) (by decide) (shape11_lt a b c) (fun _ => rfl) ?_
  intro W hE hO hw
  obtain ⟨f0, f1, f2, f3⟩ := shape11 a b c W hw
  rw [in1 W _ hE]; unfold decodeSca; rw [hO]
  show dec1 W (.sub (fld W 14 6) (fld W 8 6) (fld W 2 6)) (nz W 0 2) = _
  rw [f0, f1, f2, f3]

theorem addi (a : BitVec 6) (b : BitVec 6) (i : BitVec 8) : Statement (.addi a b i) := by
  intro _
  refine one 1 4 0 [(a.toNat, 14), (b.toNat, 8), (i.toNat, 0)] (.addi a b i) (by decide) (by decide) (shape12_lt a b i) (fun _ => rfl) ?_
  intro W hE hO hw
  obtain ⟨f0, f1, f2⟩ := shape12 a b i W hw
  rw [in1 W _ hE]; unfold decodeSca; rw [hO]
  show dec1 W (.addi (fld W 14 6) (fld W 8 6) (fld W 0 8)) (false) = _
  rw [f0, f1, f2]

theorem mul (a : BitVec 6) (b : BitVec 6) (c : BitVec 6) : Statement (.mul a b c) := by
  intro _
  refine one 1 5 0 [(a.toNat, 14), (b.toNat, 8), (c.toNat, 2)] (.mul a b c) (by decide) (by decide) (shape11_lt a b c) (fun _ => rfl) ?_
  intro W hE hO hw
  obtain ⟨f0, f1, f2, f3⟩ := shape11 a b c W hw
  rw [in1 W _ hE]; unfold decodeSca; rw [hO]
  show dec1 W (.mul (fld W 14 6) (fld W 8 6) (fld W 2 6)) (nz W 0 2) = _
  rw [f0, f1, f2, f3]

theorem mulhs (a : BitVec 6) (b : BitVec 6) (c : BitVec 6) : Statement (.mulhs a b c) := by
  intro _
  refine one 1 6 0 [(a.toNat, 14), (b.toNat, 8), (c.toNat, 2)] (.mulhs a b c) (by decide) (by decide) (shape11_lt a b c) (fun _ => rfl) ?_
  intro W hE hO hw
  obtain ⟨f0, f1, f2, f3⟩ := shape11 a b c W hw
  rw [in1 W _ hE]; unfold decodeSca; rw [hO]
  show dec1 W (.mulhs (fld W 14 6) (fld W 8 6) (fld W 2 6)) (nz W 0 2) = _
  rw [f0, f1, f2, f3]

theorem mulhz (a : BitVec 6) (b : BitVec 6) (c : BitVec 6) : Statement (.mulhz a b c) := by
  intro _
  refine one 1 7 0 [(a.toNat, 14), (b.toNat, 8), (c.toNat, 2)] (.mulhz a b c) (by decide) (by decide) (shape11_lt a b c) (fun _ => rfl) ?_
  intro W hE hO hw
  obtain ⟨f0, f1, f2, f3⟩ := shape11 a b c W hw
  rw [in1 W _ hE]; unfold decodeSca; rw [hO]
  show dec1 W (.mulhz (fld W 14 6) (fld W 8 6) (fld W 2 6)) (nz W 0 2) = _
  rw [f0, f1, f2, f3]

theorem divs (a : BitVec 6) (b : BitVec 6) (c : BitVec 6) : Statement (.divs a b c) := by
  intro _
  refine one 1 8 0 [(a.toNat, 14), (b.toNat, 8), (c.toNat, 2)] (.divs a b c) (by decide) (by decide) (shape11_lt a b c) (fun _ => rfl) ?_
  intro W hE hO hw
  obtain ⟨f0, f1, f2, f3⟩ := shape11 a b c W hw
  rw [in1 W _ hE]; unfold decodeSca; rw [hO]
  show dec1 W (.divs (fld W 14 6) (fld W 8 6) (fld W 2 6)) (nz W 0 2) = _
  rw [f0, f1, f2, f3]

theorem divz (a : BitVec 6) (b : BitVec 6) (c : BitVec 6) : Statement (.divz a b c) := by
  intro _
  refine one 1 9 0 [(a.toNat, 14), (b.toNat, 8), (c.toNat, 2)] (.divz a b c) (by decide) (by decide) (shape11_lt a b c) (fun _ => rfl) ?_
  intro W hE hO hw
  obtain ⟨f0, f1, f2, f3⟩ := shape11 a b c W hw
  rw [in1 W _ hE]; unfold decodeSca; rw [hO]
  show dec1 W (.divz (fld W 14 6) (fld W 8 6) (fld W 2 6)) (nz W 0 2) = _
  rw [f0, f1, f2, f3]

theorem rems (a : BitVec 6) (b : BitVec 6) (c : BitVec 6) : Statement (.rems a b c) := by
  intro _
  refine one 1 10 0 [(a.toNat, 14), (b.toNat, 8), (c.toNat, 2)] (.rems a b c) (by decide) (by decide) (shape11_lt a b c) (fun _ => rfl) ?_
  intro W hE hO hw
  obtain ⟨f0, f1, f2, f3⟩ := shape11 a b c W hw
  rw [in1 W _ hE]; unfold decodeSca; rw [hO]
  show dec1 W (.rems (fld W 14 6) (fld W 8 6) (fld W 2 6)) (nz W 0 2) = _
  rw [f0, f1, f2, f3]

theorem remz (a : BitVec 6) (b : BitVec 6) (c : BitVec 6) : Statement (.remz a b c) := by
  intro _
  refine one 1 11 0 [(a.toNat, 14), (b.toNat, 8), (c.toNat, 2)] (.remz a b c) (by decide) (by decide) (shape11_lt a b c) (fun _ => rfl) ?_
  intro W hE hO hw
  obtain ⟨f0, f1, f2, f3⟩ := shape11 a b c W hw
  rw [in1 W _ hE]; unfold decodeSca; rw [hO]
  show dec1 W (.remz (fld W 14 6) (fld W 8 6) (fld W 2 6)) (nz W 0 2) = _
  rw [f0, f1, f2, f3]

theorem and (a : BitVec 6) (b : BitVec 6) (c : BitVec 6) : Statement (.and a b c) := by
  intro _
  refine one 1 12 0 [(a.toNat, 14), (b.toNat, 8), (c.toNat, 2)] (.and a b c) (by decide) (by decide) (shape11_lt a b c) (fun _ => rfl) ?_
  intro W hE hO hw
  obtain ⟨f0, f1, f2, f3⟩ := shape11 a b c W hw
  rw [in1 W _ hE]; unfold decodeSca; rw [hO]
  show dec1 W (.and (fld W 14 6) (fld W 8 6) (fld W 2 6)) (nz W 0 2) = _
  rw [f0, f1, f2, f3]

theorem or (a : BitVec 6) (b : BitVec 6) (c : BitVec 6) : Statement (.or a b c) := by
  intro _
  refine one 1 13 0 [(a.toNat, 14), (b.toNat, 8), (c.toNat, 2)] (.or a b c) (by decide) (by decide) (shape11_lt a b c) (fun _ => rfl) ?_
  intro W hE hO hw
  obtain ⟨f0, f1, f2, f3⟩ := shape11 a b c W hw
  rw [in1 W _ hE]; unfold decodeSca; rw [hO]
  show dec1 W (.or (fld W 14 6) (fld W 8 6) (fld W 2 6)) (nz W 0 2) = _
  rw [f0, f1, f2, f3]

theorem xor (a : BitVec 6) (b : BitVec 6) (c : BitVec 6) : Statement (.xor a b c) := by
  intro _
  refine one 1 14 0 [(a.toNat, 14), (b.toNat, 8), (c.toNat, 2)] (.xor a b c) (by decide) (by decide) (shape11_lt a b c) (fun _ => rfl) ?_
  intro W hE hO hw
  obtain ⟨f0, f1, f2, f3⟩ := shape11 a b c W hw
  rw [in1 W _ hE]; unfold decodeSca; rw [hO]
  show dec1 W (.xor (fld W 14 6) (fld W 8 6) (fld W 2 6)) (nz W 0 2) = _
  rw [f0, f1, f2, f3]

theorem andn (a : BitVec 6) (b : BitVec 6) (c : BitVec 6) : Statement (.andn a b c) := by
  intro _
  refine one 1 15 0 [(a.toNat, 14), (b.toNat, 8), (c.toNat, 2)] (.andn a b c) (by decide) (by decide) (shape11_lt a b c) (fun _ => rfl) ?_
  intro W hE hO hw
  obtain ⟨f0, f1, f2, f3⟩ := shape11 a b c W hw
  rw [in1 W _ hE]; unfold decodeSca; rw [hO]
  show dec1 W (.andn (fld W 14 6) (fld W 8 6) (fld W 2 6)) (nz W 0 2) = _
  rw [f0, f1, f2, f3]

theorem shl (a : BitVec 6) (b : BitVec 6) (c : BitVec 6) : Statement (.shl a b c) := by
  intro _
  refine one 1 16 0 [(a.toNat, 14), (b.toNat, 8), (c.toNat, 2)] (.shl a b c) (by decide) (by decide) (shape11_lt a b c) (fun _ => rfl) ?_
  intro W hE hO hw
  obtain ⟨f0, f1, f2, f3⟩ := shape11 a b c W hw
  rw [in1 W _ hE]; unfold decodeSca; rw [hO]
  show dec1 W (.shl (fld W 14 6) (fld W 8 6) (fld W 2 6)) (nz W 0 2) = _
  rw [f0, f1, f2, f3]

theorem shr (a : BitVec 6) (b : BitVec 6) (c : BitVec 6) : Statement (.shr a b c) := by
  intro _
  refine one 1 17 0 [(a.toNat, 14), (b.toNat, 8), (c.toNat, 2)] (.shr a b c) (by decide) (by decide) (shape11_lt a b c) (fun _ => rfl) ?_
  intro W hE hO hw
  obtain ⟨f0, f1, f2, f3⟩ := shape11 a b c W hw
  rw [in1 W _ hE]; unfold decodeSca; rw [hO]
  show dec1 W (.shr (fld W 14 6) (fld W 8 6) (fld W 2 6)) (nz W 0 2) = _
  rw [f0, f1, f2, f3]

theorem sar (a : BitVec 6) (b : BitVec 6) (c : BitVec 6) : Statement (.sar a b c) := by
  intro _
  refine one 1 18 0 [(a.toNat, 14), (b.toNat, 8), (c.toNat, 2)] (.sar a b c) (by decide) (by decide) (shape11_lt a b c) (fun _ => rfl) ?_
  intro W hE hO hw
  obtain ⟨f0, f1, f2, f3⟩ := shape11 a b c W hw
  rw [in1 W _ hE]; unfold decodeSca; rw [hO]
  show dec1 W (.sar (fld W 14 6) (fld W 8 6) (fld W 2 6)) (nz W 0 2) = _
  rw [f0, f1, f2, f3]

theorem ror (a : BitVec 6) (b : BitVec 6) (c : BitVec 6) : Statement (.ror a b c) := by
  intro _
  refine one 1 19 0 [(a.toNat, 14), (b.toNat, 8), (c.toNat, 2)] (.ror a b c) (by decide) (by decide) (shape11_lt a b c) (fun _ => rfl) ?_
  intro W hE hO hw
  obtain ⟨f0, f1, f2, f3⟩ := shape11 a b c W hw
  rw [in1 W _ hE]; unfold decodeSca; rw [hO]
  show dec1 W (.ror (fld W 14 6) (fld W 8 6) (fld W 2 6)) (nz W 0 2) = _
  rw [f0, f1, f2, f3]

theorem shli (a : BitVec 6) (b : BitVec 6) (i : BitVec 6) : Statement (.shli a b i) := by
  intro _
  refine one 1 20 0 [(a.toNat, 14), (b.toNat, 8), (i.toNat, 0)] (.shli a b i) (by decide) (by decide) (shape13_lt a b i) (fun _ => rfl) ?_
  intro W hE hO hw
  obtain ⟨f0, f1, f2, f3⟩ := shape13 a b i W hw
  rw [in1 W _ hE]; unfold decodeSca; rw [hO]
  show dec1 W (.shli (fld W 14 6) (fld W 8 6) (fld W 0 6)) (nz W 6 2) = _
  rw [f0, f1, f2, f3]

theorem shri (a : BitVec 6) (b : BitVec 6) (i : BitVec 6) : Statement (.shri a b i) := by
  intro _
  refine one 1 21 0 [(a.toNat, 14), (b.toNat, 8), (i.toNat, 0)] (.shri a b i) (by decide) (by decide) (shape13_lt a b i) (fun _ => rfl) ?_
  intro W hE hO hw
  obtain ⟨f0, f1, f2, f3⟩ := shape13 a b i W hw
  rw [in1 W _ hE]; unfold decodeSca; rw [hO]
  show dec1 W (.shri (fld W 14 6) (fld W 8 6) (fld W 0 6)) (nz W 6 2) = _
  rw [f0, f1, f2, f3]

theorem sari (a : BitVec 6) (b : BitVec 6) (i : BitVec 6) : Statement (.sari a b i) := by
  intro _
  refine one 1 22 0 [(a.toNat, 14), (b.toNat, 8), (i.toNat, 0)] (.sari a b i) (by decide) (by decide) (shape13_lt a b i) (fun _ => rfl) ?_
  intro W hE hO hw
  obtain ⟨f0, f1, f2, f3⟩ := shape13 a b i W hw
  rw [in1 W _ hE]; unfold decodeSca; rw [hO]
  show dec1 W (.sari (fld W 14 6) (fld W 8 6) (fld W 0 6)) (nz W 6 2) = _
  rw [f0, f1, f2, f3]

theorem mins (a : BitVec 6) (b : BitVec 6) (c : BitVec 6) : Statement (.mins a b c) := by
  intro _
  refine one 1 23 0 [(a.toNat, 14), (b.toNat, 8), (c.toNat, 2)] (.mins a b c) (by decide) (by decide) (shape11_lt a b c) (fun _ => rfl) ?_
  intro W hE hO hw
  obtain ⟨f0, f1, f2, f3⟩ := shape11 a b c W hw
  rw [in1 W _ hE]; unfold decodeSca; rw [hO]
  show dec1 W (.mins (fld W 14 6) (fld W 8 6) (fld W 2 6)) (nz W 0 2) = _
  rw [f0, f1, f2, f3]

theorem maxs (a : BitVec 6) (b : BitVec 6) (c : BitVec 6) : Statement (.maxs a b c) := by
  intro _
  refine one 1 24 0 [(a.toNat, 14), (b.toNat, 8), (c.toNat, 2)] (.maxs a b c) (by decide) (by decide) (shape11_lt a b c) (fun _ => rfl) ?_
  intro W hE hO hw
  obtain ⟨f0, f1, f2, f3⟩ := shape11 a b c W hw
  rw [in1 W _ hE]; unfold decodeSca; rw [hO]
  show dec1 W (.maxs (fld W 14 6) (fld W 8 6) (fld W 2 6)) (nz W 0 2) = _
  rw [f0, f1, f2, f3]

theorem minz (a : BitVec 6) (b : BitVec 6) (c : BitVec 6) : Statement (.minz a b c) := by
  intro _
  refine one 1 25 0 [(a.toNat, 14), (b.toNat, 8), (c.toNat, 2)] (.minz a b c) (by decide) (by decide) (shape11_lt a b c) (fun _ => rfl) ?_
  intro W hE hO hw
  obtain ⟨f0, f1, f2, f3⟩ := shape11 a b c W hw
  rw [in1 W _ hE]; unfold decodeSca; rw [hO]
  show dec1 W (.minz (fld W 14 6) (fld W 8 6) (fld W 2 6)) (nz W 0 2) = _
  rw [f0, f1, f2, f3]

theorem maxz (a : BitVec 6) (b : BitVec 6) (c : BitVec 6) : Statement (.maxz a b c) := by
  intro _
  refine one 1 26 0 [(a.toNat, 14), (b.toNat, 8), (c.toNat, 2)] (.maxz a b c) (by decide) (by decide) (shape11_lt a b c) (fun _ => rfl) ?_
  intro W hE hO hw
  obtain ⟨f0, f1, f2, f3⟩ := shape11 a b c W hw
  rw [in1 W _ hE]; unfold decodeSca; rw [hO]
  show dec1 W (.maxz (fld W 14 6) (fld W 8 6) (fld W 2 6)) (nz W 0 2) = _
  rw [f0, f1, f2, f3]

theorem clz (a : BitVec 6) (b : BitVec 6) : Statement (.clz a b) := by
  intro _
  refine one 1 27 0 [(a.toNat, 14), (b.toNat, 8)] (.clz a b) (by decide) (by decide) (shape14_lt a b) (fun _ => rfl) ?_
  intro W hE hO hw
  obtain ⟨f0, f1, f2⟩ := shape14 a b W hw
  rw [in1 W _ hE]; unfold decodeSca; rw [hO]
  show dec1 W (.clz (fld W 14 6) (fld W 8 6)) (nz W 0 8) = _
  rw [f0, f1, f2]

theorem popc (a : BitVec 6) (b : BitVec 6) : Statement (.popc a b) := by
  intro _
  refine one 1 28 0 [(a.toNat, 14), (b.toNat, 8)] (.popc a b) (by decide) (by decide) (shape14_lt a b) (fun _ => rfl) ?_
  intro W hE hO hw
  obtain ⟨f0, f1, f2⟩ := shape14 a b W hw
  rw [in1 W _ hE]; unfold decodeSca; rw [hO]
  show dec1 W (.popc (fld W 14 6) (fld W 8 6)) (nz W 0 8) = _
  rw [f0, f1, f2]

theorem movi (a : BitVec 6) (i : BitVec 14) : Statement (.movi a i) := by
  intro _
  refine one 1 29 0 [(a.toNat, 14), (i.toNat, 0)] (.movi a i) (by decide) (by decide) (shape6_lt a i) (fun _ => rfl) ?_
  intro W hE hO hw
  obtain ⟨f0, f1⟩ := shape6 a i W hw
  rw [in1 W _ hE]; unfold decodeSca; rw [hO]
  show dec1 W (.movi (fld W 14 6) (fld W 0 14)) (false) = _
  rw [f0, f1]

theorem movx (g : BitVec 6) (hi : BitVec 14) (lo : BitVec 29) : Statement (.movx g hi lo) := by
  intro _
  refine two 1 30 0 [(g.toNat, 14), (hi.toNat, 0)] [(lo.toNat, 0)] (.movx g hi lo) (by decide) (by decide) (shape15_lt g hi lo).1
    (shape15_lt g hi lo).2 (fun _ => rfl) ?_
  intro W L hE hO hw hl hL
  obtain ⟨f0, f1, f2⟩ := shape15 g hi lo W L hw hL
  rw [in1 W _ hE]; unfold decodeSca; rw [hO]
  refine (dec2_ok W L _ (hl.trans hE.symm)).trans ?_
  show (Except.ok ({ ins := .movx (fld W 14 6) (fld W 0 14) (fld L 0 29), eng := engOf W, dly := dlyOf W, len := 2, rsvd := false, fb := false } : Decoded) : Except Reject Decoded) = _
  rw [f0, f1, f2]

theorem movhx (g : BitVec 6) (hi : BitVec 3) (lo : BitVec 29) : Statement (.movhx g hi lo) := by
  intro _
  refine two 1 31 0 [(g.toNat, 14), (hi.toNat, 0)] [(lo.toNat, 0)] (.movhx g hi lo) (by decide) (by decide) (shape16_lt g hi lo).1
    (shape16_lt g hi lo).2 (fun _ => rfl) ?_
  intro W L hE hO hw hl hL
  obtain ⟨f0, f1, f2, f3⟩ := shape16 g hi lo W L hw hL
  rw [in1 W _ hE]; unfold decodeSca; rw [hO]
  refine (dec2_ok W L _ (hl.trans hE.symm)).trans ?_
  show (Except.ok ({ ins := .movhx (fld W 14 6) (fld W 0 3) (fld L 0 29), eng := engOf W, dly := dlyOf W, len := 2, rsvd := nz W 3 11, fb := false } : Decoded) : Except Reject Decoded) = _
  rw [f0, f1, f2, f3]

theorem cmpeq (p : BitVec 4) (b : BitVec 6) (c : BitVec 6) : Statement (.cmpeq p b c) := by
  intro _
  refine one 1 32 0 [(p.toNat, 14), (b.toNat, 8), (c.toNat, 2)] (.cmpeq p b c) (by decide) (by decide) (shape17_lt p b c) (fun _ => rfl) ?_
  intro W hE hO hw
  obtain ⟨f0, f1, f2, f3, f4⟩ := shape17 p b c W hw
  rw [in1 W _ hE]; unfold decodeSca; rw [hO]
  show dec1 W (.cmpeq (fld W 14 4) (fld W 8 6) (fld W 2 6)) (nz W 0 2 || nz W 18 2) = _
  rw [f0, f1, f2, f3, f4]
  try rfl

theorem cmpne (p : BitVec 4) (b : BitVec 6) (c : BitVec 6) : Statement (.cmpne p b c) := by
  intro _
  refine one 1 33 0 [(p.toNat, 14), (b.toNat, 8), (c.toNat, 2)] (.cmpne p b c) (by decide) (by decide) (shape17_lt p b c) (fun _ => rfl) ?_
  intro W hE hO hw
  obtain ⟨f0, f1, f2, f3, f4⟩ := shape17 p b c W hw
  rw [in1 W _ hE]; unfold decodeSca; rw [hO]
  show dec1 W (.cmpne (fld W 14 4) (fld W 8 6) (fld W 2 6)) (nz W 0 2 || nz W 18 2) = _
  rw [f0, f1, f2, f3, f4]
  try rfl

theorem cmplts (p : BitVec 4) (b : BitVec 6) (c : BitVec 6) : Statement (.cmplts p b c) := by
  intro _
  refine one 1 34 0 [(p.toNat, 14), (b.toNat, 8), (c.toNat, 2)] (.cmplts p b c) (by decide) (by decide) (shape17_lt p b c) (fun _ => rfl) ?_
  intro W hE hO hw
  obtain ⟨f0, f1, f2, f3, f4⟩ := shape17 p b c W hw
  rw [in1 W _ hE]; unfold decodeSca; rw [hO]
  show dec1 W (.cmplts (fld W 14 4) (fld W 8 6) (fld W 2 6)) (nz W 0 2 || nz W 18 2) = _
  rw [f0, f1, f2, f3, f4]
  try rfl

theorem cmples (p : BitVec 4) (b : BitVec 6) (c : BitVec 6) : Statement (.cmples p b c) := by
  intro _
  refine one 1 35 0 [(p.toNat, 14), (b.toNat, 8), (c.toNat, 2)] (.cmples p b c) (by decide) (by decide) (shape17_lt p b c) (fun _ => rfl) ?_
  intro W hE hO hw
  obtain ⟨f0, f1, f2, f3, f4⟩ := shape17 p b c W hw
  rw [in1 W _ hE]; unfold decodeSca; rw [hO]
  show dec1 W (.cmples (fld W 14 4) (fld W 8 6) (fld W 2 6)) (nz W 0 2 || nz W 18 2) = _
  rw [f0, f1, f2, f3, f4]
  try rfl

theorem cmpltz (p : BitVec 4) (b : BitVec 6) (c : BitVec 6) : Statement (.cmpltz p b c) := by
  intro _
  refine one 1 36 0 [(p.toNat, 14), (b.toNat, 8), (c.toNat, 2)] (.cmpltz p b c) (by decide) (by decide) (shape17_lt p b c) (fun _ => rfl) ?_
  intro W hE hO hw
  obtain ⟨f0, f1, f2, f3, f4⟩ := shape17 p b c W hw
  rw [in1 W _ hE]; unfold decodeSca; rw [hO]
  show dec1 W (.cmpltz (fld W 14 4) (fld W 8 6) (fld W 2 6)) (nz W 0 2 || nz W 18 2) = _
  rw [f0, f1, f2, f3, f4]
  try rfl

theorem cmplez (p : BitVec 4) (b : BitVec 6) (c : BitVec 6) : Statement (.cmplez p b c) := by
  intro _
  refine one 1 37 0 [(p.toNat, 14), (b.toNat, 8), (c.toNat, 2)] (.cmplez p b c) (by decide) (by decide) (shape17_lt p b c) (fun _ => rfl) ?_
  intro W hE hO hw
  obtain ⟨f0, f1, f2, f3, f4⟩ := shape17 p b c W hw
  rw [in1 W _ hE]; unfold decodeSca; rw [hO]
  show dec1 W (.cmplez (fld W 14 4) (fld W 8 6) (fld W 2 6)) (nz W 0 2 || nz W 18 2) = _
  rw [f0, f1, f2, f3, f4]
  try rfl

theorem cmpeqi (p : BitVec 4) (b : BitVec 6) (i : BitVec 8) : Statement (.cmpeqi p b i) := by
  intro _
  refine one 1 38 0 [(p.toNat, 14), (b.toNat, 8), (i.toNat, 0)] (.cmpeqi p b i) (by decide) (by decide) (shape18_lt p b i) (fun _ => rfl) ?_
  intro W hE hO hw
  obtain ⟨f0, f1, f2, f3⟩ := shape18 p b i W hw
  rw [in1 W _ hE]; unfold decodeSca; rw [hO]
  show dec1 W (.cmpeqi (fld W 14 4) (fld W 8 6) (fld W 0 8)) (nz W 18 2) = _
  rw [f0, f1, f2, f3]

theorem cmpltsi (p : BitVec 4) (b : BitVec 6) (i : BitVec 8) : Statement (.cmpltsi p b i) := by
  intro _
  refine one 1 39 0 [(p.toNat, 14), (b.toNat, 8), (i.toNat, 0)] (.cmpltsi p b i) (by decide) (by decide) (shape18_lt p b i) (fun _ => rfl) ?_
  intro W hE hO hw
  obtain ⟨f0, f1, f2, f3⟩ := shape18 p b i W hw
  rw [in1 W _ hE]; unfold decodeSca; rw [hO]
  show dec1 W (.cmpltsi (fld W 14 4) (fld W 8 6) (fld W 0 8)) (nz W 18 2) = _
  rw [f0, f1, f2, f3]

theorem sel (a : BitVec 6) (b : BitVec 6) (c : BitVec 6) (p : BitVec 2) : Statement (.sel a b c p) := by
  intro _
  refine one 1 40 0 [(a.toNat, 14), (b.toNat, 8), (c.toNat, 2), (p.toNat, 0)] (.sel a b c p) (by decide) (by decide) (shape19_lt a b c p) (fun _ => rfl) ?_
  intro W hE hO hw
  obtain ⟨f0, f1, f2, f3⟩ := shape19 a b c p W hw
  rw [in1 W _ hE]; unfold decodeSca; rw [hO]
  show dec1 W (.sel (fld W 14 6) (fld W 8 6) (fld W 2 6) (fld W 0 2)) (false) = _
  rw [f0, f1, f2, f3]

theorem pand (a : BitVec 4) (b : BitVec 5) (c : BitVec 5) : Statement (.pand a b c) := by
  intro _
  refine one 1 41 0 [(a.toNat, 14), (b.toNat, 8), (c.toNat, 2)] (.pand a b c) (by decide) (by decide) (shape20_lt a b c) (fun _ => rfl) ?_
  intro W hE hO hw
  obtain ⟨f0, f1, f2, f3, f4, f5, f6⟩ := shape20 a b c W hw
  rw [in1 W _ hE]; unfold decodeSca; rw [hO]
  show dec1 W (.pand (fld W 14 4) (fld W 8 5) (fld W 2 5)) (nz W 0 2 || nz W 7 1 || nz W 13 1 || nz W 18 2) = _
  rw [f0, f1, f2, f3, f4, f5, f6]
  try rfl

theorem por (a : BitVec 4) (b : BitVec 5) (c : BitVec 5) : Statement (.por a b c) := by
  intro _
  refine one 1 42 0 [(a.toNat, 14), (b.toNat, 8), (c.toNat, 2)] (.por a b c) (by decide) (by decide) (shape20_lt a b c) (fun _ => rfl) ?_
  intro W hE hO hw
  obtain ⟨f0, f1, f2, f3, f4, f5, f6⟩ := shape20 a b c W hw
  rw [in1 W _ hE]; unfold decodeSca; rw [hO]
  show dec1 W (.por (fld W 14 4) (fld W 8 5) (fld W 2 5)) (nz W 0 2 || nz W 7 1 || nz W 13 1 || nz W 18 2) = _
  rw [f0, f1, f2, f3, f4, f5, f6]
  try rfl

theorem pxor (a : BitVec 4) (b : BitVec 5) (c : BitVec 5) : Statement (.pxor a b c) := by
  intro _
  refine one 1 43 0 [(a.toNat, 14), (b.toNat, 8), (c.toNat, 2)] (.pxor a b c) (by decide) (by decide) (shape20_lt a b c) (fun _ => rfl) ?_
  intro W hE hO hw
  obtain ⟨f0, f1, f2, f3, f4, f5, f6⟩ := shape20 a b c W hw
  rw [in1 W _ hE]; unfold decodeSca; rw [hO]
  show dec1 W (.pxor (fld W 14 4) (fld W 8 5) (fld W 2 5)) (nz W 0 2 || nz W 7 1 || nz W 13 1 || nz W 18 2) = _
  rw [f0, f1, f2, f3, f4, f5, f6]
  try rfl

theorem pnot (a : BitVec 4) (b : BitVec 5) : Statement (.pnot a b) := by
  intro _
  refine one 1 44 0 [(a.toNat, 14), (b.toNat, 8)] (.pnot a b) (by decide) (by decide) (shape21_lt a b) (fun _ => rfl) ?_
  intro W hE hO hw
  obtain ⟨f0, f1, f2, f3, f4⟩ := shape21 a b W hw
  rw [in1 W _ hE]; unfold decodeSca; rw [hO]
  show dec1 W (.pnot (fld W 14 4) (fld W 8 5)) (nz W 0 8 || nz W 13 1 || nz W 18 2) = _
  rw [f0, f1, f2, f3, f4]
  try rfl

theorem idx (a : BitVec 6) (l : BitVec 3) : Statement (.idx a l) := by
  intro _
  refine one 1 45 0 [(a.toNat, 14), (l.toNat, 8)] (.idx a l) (by decide) (by decide) (shape22_lt a l) (fun _ => rfl) ?_
  intro W hE hO hw
  obtain ⟨f0, f1, f2, f3⟩ := shape22 a l W hw
  rw [in1 W _ hE]; unfold decodeSca; rw [hO]
  show dec1 W (.idx (fld W 14 6) (fld W 8 3)) (nz W 0 8 || nz W 11 3) = _
  rw [f0, f1, f2, f3]
  try rfl

theorem sext (a : BitVec 6) (b : BitVec 6) (w : BitVec 6) : Statement (.sext a b w) := by
  intro _
  refine one 1 46 0 [(a.toNat, 14), (b.toNat, 8), (w.toNat, 0)] (.sext a b w) (by decide) (by decide) (shape13_lt a b w) (fun _ => rfl) ?_
  intro W hE hO hw
  obtain ⟨f0, f1, f2, f3⟩ := shape13 a b w W hw
  rw [in1 W _ hE]; unfold decodeSca; rw [hO]
  show dec1 W (.sext (fld W 14 6) (fld W 8 6) (fld W 0 6)) (nz W 6 2) = _
  rw [f0, f1, f2, f3]

theorem zext (a : BitVec 6) (b : BitVec 6) (w : BitVec 6) : Statement (.zext a b w) := by
  intro _
  refine one 1 47 0 [(a.toNat, 14), (b.toNat, 8), (w.toNat, 0)] (.zext a b w) (by decide) (by decide) (shape13_lt a b w) (fun _ => rfl) ?_
  intro W hE hO hw
  obtain ⟨f0, f1, f2, f3⟩ := shape13 a b w W hw
  rw [in1 W _ hE]; unfold decodeSca; rw [hO]
  show dec1 W (.zext (fld W 14 6) (fld W 8 6) (fld W 0 6)) (nz W 6 2) = _
  rw [f0, f1, f2, f3]

theorem fadd (a : BitVec 6) (b : BitVec 6) (c : BitVec 6) (p : BitVec 1) : Statement (.fadd a b c p) := by
  intro _
  refine one 1 48 0 [(a.toNat, 14), (b.toNat, 8), (c.toNat, 2), (p.toNat, 0)] (.fadd a b c p) (by decide) (by decide) (shape23_lt a b c p) (fun _ => rfl) ?_
  intro W hE hO hw
  obtain ⟨hc, f0, f1, f2, f3⟩ := shape23 a b c p W hw
  rw [in1 W _ hE]; unfold decodeSca; rw [hO]
  show (if W / 2 % 2 = 1 then _ else _) = _
  rw [if_neg hc]
  show dec1 W (.fadd (fld W 14 6) (fld W 8 6) (fld W 2 6) (fld W 0 1)) (false) = _
  rw [f0, f1, f2, f3]

theorem faddLiteral (a : BitVec 6) (b : BitVec 6) (c : BitVec 6) (p : BitVec 1) (rm : BitVec 2) : Statement (.faddLiteral a b c p rm) := by
  intro _
  refine two 1 48 2 [(a.toNat, 14), (b.toNat, 8), (c.toNat, 2), (p.toNat, 0)] [(rm.toNat, 0)] (.faddLiteral a b c p rm) (by decide) (by decide) (shape24_lt a b c p rm).1
    (shape24_lt a b c p rm).2 (fun _ => rfl) ?_
  intro W L hE hO hw hl hL
  obtain ⟨hc, f0, f1, f2, f3, f4, f5⟩ := shape24 a b c p rm W L hw hL
  rw [in1 W _ hE]; unfold decodeSca; rw [hO]
  show (if W / 2 % 2 = 1 then _ else _) = _
  rw [if_pos hc]
  refine (dec2_ok W L _ (hl.trans hE.symm)).trans ?_
  show (Except.ok ({ ins := .faddLiteral (fld W 14 6) (fld W 8 6) (fld W 2 6) (fld W 0 1) (fld L 0 2), eng := engOf W, dly := dlyOf W, len := 2, rsvd := nz L 2 27, fb := false } : Decoded) : Except Reject Decoded) = _
  rw [f0, f1, f2, f3, f4, f5]

theorem fsub (a : BitVec 6) (b : BitVec 6) (c : BitVec 6) (p : BitVec 1) : Statement (.fsub a b c p) := by
  intro _
  refine one 1 49 0 [(a.toNat, 14), (b.toNat, 8), (c.toNat, 2), (p.toNat, 0)] (.fsub a b c p) (by decide) (by decide) (shape23_lt a b c p) (fun _ => rfl) ?_
  intro W hE hO hw
  obtain ⟨hc, f0, f1, f2, f3⟩ := shape23 a b c p W hw
  rw [in1 W _ hE]; unfold decodeSca; rw [hO]
  show (if W / 2 % 2 = 1 then _ else _) = _
  rw [if_neg hc]
  show dec1 W (.fsub (fld W 14 6) (fld W 8 6) (fld W 2 6) (fld W 0 1)) (false) = _
  rw [f0, f1, f2, f3]

theorem fsubLiteral (a : BitVec 6) (b : BitVec 6) (c : BitVec 6) (p : BitVec 1) (rm : BitVec 2) : Statement (.fsubLiteral a b c p rm) := by
  intro _
  refine two 1 49 2 [(a.toNat, 14), (b.toNat, 8), (c.toNat, 2), (p.toNat, 0)] [(rm.toNat, 0)] (.fsubLiteral a b c p rm) (by decide) (by decide) (shape24_lt a b c p rm).1
    (shape24_lt a b c p rm).2 (fun _ => rfl) ?_
  intro W L hE hO hw hl hL
  obtain ⟨hc, f0, f1, f2, f3, f4, f5⟩ := shape24 a b c p rm W L hw hL
  rw [in1 W _ hE]; unfold decodeSca; rw [hO]
  show (if W / 2 % 2 = 1 then _ else _) = _
  rw [if_pos hc]
  refine (dec2_ok W L _ (hl.trans hE.symm)).trans ?_
  show (Except.ok ({ ins := .fsubLiteral (fld W 14 6) (fld W 8 6) (fld W 2 6) (fld W 0 1) (fld L 0 2), eng := engOf W, dly := dlyOf W, len := 2, rsvd := nz L 2 27, fb := false } : Decoded) : Except Reject Decoded) = _
  rw [f0, f1, f2, f3, f4, f5]

theorem fmul (a : BitVec 6) (b : BitVec 6) (c : BitVec 6) (p : BitVec 1) : Statement (.fmul a b c p) := by
  intro _
  refine one 1 50 0 [(a.toNat, 14), (b.toNat, 8), (c.toNat, 2), (p.toNat, 0)] (.fmul a b c p) (by decide) (by decide) (shape23_lt a b c p) (fun _ => rfl) ?_
  intro W hE hO hw
  obtain ⟨hc, f0, f1, f2, f3⟩ := shape23 a b c p W hw
  rw [in1 W _ hE]; unfold decodeSca; rw [hO]
  show (if W / 2 % 2 = 1 then _ else _) = _
  rw [if_neg hc]
  show dec1 W (.fmul (fld W 14 6) (fld W 8 6) (fld W 2 6) (fld W 0 1)) (false) = _
  rw [f0, f1, f2, f3]

theorem fmulLiteral (a : BitVec 6) (b : BitVec 6) (c : BitVec 6) (p : BitVec 1) (rm : BitVec 2) : Statement (.fmulLiteral a b c p rm) := by
  intro _
  refine two 1 50 2 [(a.toNat, 14), (b.toNat, 8), (c.toNat, 2), (p.toNat, 0)] [(rm.toNat, 0)] (.fmulLiteral a b c p rm) (by decide) (by decide) (shape24_lt a b c p rm).1
    (shape24_lt a b c p rm).2 (fun _ => rfl) ?_
  intro W L hE hO hw hl hL
  obtain ⟨hc, f0, f1, f2, f3, f4, f5⟩ := shape24 a b c p rm W L hw hL
  rw [in1 W _ hE]; unfold decodeSca; rw [hO]
  show (if W / 2 % 2 = 1 then _ else _) = _
  rw [if_pos hc]
  refine (dec2_ok W L _ (hl.trans hE.symm)).trans ?_
  show (Except.ok ({ ins := .fmulLiteral (fld W 14 6) (fld W 8 6) (fld W 2 6) (fld W 0 1) (fld L 0 2), eng := engOf W, dly := dlyOf W, len := 2, rsvd := nz L 2 27, fb := false } : Decoded) : Except Reject Decoded) = _
  rw [f0, f1, f2, f3, f4, f5]

theorem ffma (a : BitVec 6) (b : BitVec 6) (c : BitVec 6) (p : BitVec 1) : Statement (.ffma a b c p) := by
  intro _
  refine one 1 51 0 [(a.toNat, 14), (b.toNat, 8), (c.toNat, 2), (p.toNat, 0)] (.ffma a b c p) (by decide) (by decide) (shape23_lt a b c p) (fun _ => rfl) ?_
  intro W hE hO hw
  obtain ⟨hc, f0, f1, f2, f3⟩ := shape23 a b c p W hw
  rw [in1 W _ hE]; unfold decodeSca; rw [hO]
  show (if W / 2 % 2 = 1 then _ else _) = _
  rw [if_neg hc]
  show dec1 W (.ffma (fld W 14 6) (fld W 8 6) (fld W 2 6) (fld W 0 1)) (false) = _
  rw [f0, f1, f2, f3]

theorem ffmaLiteral (a : BitVec 6) (b : BitVec 6) (c : BitVec 6) (p : BitVec 1) (rm : BitVec 2) : Statement (.ffmaLiteral a b c p rm) := by
  intro _
  refine two 1 51 2 [(a.toNat, 14), (b.toNat, 8), (c.toNat, 2), (p.toNat, 0)] [(rm.toNat, 0)] (.ffmaLiteral a b c p rm) (by decide) (by decide) (shape24_lt a b c p rm).1
    (shape24_lt a b c p rm).2 (fun _ => rfl) ?_
  intro W L hE hO hw hl hL
  obtain ⟨hc, f0, f1, f2, f3, f4, f5⟩ := shape24 a b c p rm W L hw hL
  rw [in1 W _ hE]; unfold decodeSca; rw [hO]
  show (if W / 2 % 2 = 1 then _ else _) = _
  rw [if_pos hc]
  refine (dec2_ok W L _ (hl.trans hE.symm)).trans ?_
  show (Except.ok ({ ins := .ffmaLiteral (fld W 14 6) (fld W 8 6) (fld W 2 6) (fld W 0 1) (fld L 0 2), eng := engOf W, dly := dlyOf W, len := 2, rsvd := nz L 2 27, fb := false } : Decoded) : Except Reject Decoded) = _
  rw [f0, f1, f2, f3, f4, f5]

theorem fdiv (a : BitVec 6) (b : BitVec 6) (c : BitVec 6) (p : BitVec 1) : Statement (.fdiv a b c p) := by
  intro _
  refine one 1 52 0 [(a.toNat, 14), (b.toNat, 8), (c.toNat, 2), (p.toNat, 0)] (.fdiv a b c p) (by decide) (by decide) (shape23_lt a b c p) (fun _ => rfl) ?_
  intro W hE hO hw
  obtain ⟨hc, f0, f1, f2, f3⟩ := shape23 a b c p W hw
  rw [in1 W _ hE]; unfold decodeSca; rw [hO]
  show (if W / 2 % 2 = 1 then _ else _) = _
  rw [if_neg hc]
  show dec1 W (.fdiv (fld W 14 6) (fld W 8 6) (fld W 2 6) (fld W 0 1)) (false) = _
  rw [f0, f1, f2, f3]

theorem fdivLiteral (a : BitVec 6) (b : BitVec 6) (c : BitVec 6) (p : BitVec 1) (rm : BitVec 2) : Statement (.fdivLiteral a b c p rm) := by
  intro _
  refine two 1 52 2 [(a.toNat, 14), (b.toNat, 8), (c.toNat, 2), (p.toNat, 0)] [(rm.toNat, 0)] (.fdivLiteral a b c p rm) (by decide) (by decide) (shape24_lt a b c p rm).1
    (shape24_lt a b c p rm).2 (fun _ => rfl) ?_
  intro W L hE hO hw hl hL
  obtain ⟨hc, f0, f1, f2, f3, f4, f5⟩ := shape24 a b c p rm W L hw hL
  rw [in1 W _ hE]; unfold decodeSca; rw [hO]
  show (if W / 2 % 2 = 1 then _ else _) = _
  rw [if_pos hc]
  refine (dec2_ok W L _ (hl.trans hE.symm)).trans ?_
  show (Except.ok ({ ins := .fdivLiteral (fld W 14 6) (fld W 8 6) (fld W 2 6) (fld W 0 1) (fld L 0 2), eng := engOf W, dly := dlyOf W, len := 2, rsvd := nz L 2 27, fb := false } : Decoded) : Except Reject Decoded) = _
  rw [f0, f1, f2, f3, f4, f5]

theorem fsqrt (a : BitVec 6) (b : BitVec 6) (p : BitVec 1) : Statement (.fsqrt a b p) := by
  intro _
  refine one 1 53 0 [(a.toNat, 14), (b.toNat, 8), (p.toNat, 0)] (.fsqrt a b p) (by decide) (by decide) (shape25_lt a b p) (fun _ => rfl) ?_
  intro W hE hO hw
  obtain ⟨hc, f0, f1, f2, f3⟩ := shape25 a b p W hw
  rw [in1 W _ hE]; unfold decodeSca; rw [hO]
  show (if W / 2 % 2 = 1 then _ else _) = _
  rw [if_neg hc]
  show dec1 W (.fsqrt (fld W 14 6) (fld W 8 6) (fld W 0 1)) (nz W 2 6) = _
  rw [f0, f1, f2, f3]

theorem fsqrtLiteral (a : BitVec 6) (b : BitVec 6) (p : BitVec 1) (rm : BitVec 2) : Statement (.fsqrtLiteral a b p rm) := by
  intro _
  refine two 1 53 2 [(a.toNat, 14), (b.toNat, 8), (p.toNat, 0)] [(rm.toNat, 0)] (.fsqrtLiteral a b p rm) (by decide) (by decide) (shape26_lt a b p rm).1
    (shape26_lt a b p rm).2 (fun _ => rfl) ?_
  intro W L hE hO hw hl hL
  obtain ⟨hc, f0, f1, f2, f3, f4, f5⟩ := shape26 a b p rm W L hw hL
  rw [in1 W _ hE]; unfold decodeSca; rw [hO]
  show (if W / 2 % 2 = 1 then _ else _) = _
  rw [if_pos hc]
  refine (dec2_ok W L _ (hl.trans hE.symm)).trans ?_
  show (Except.ok ({ ins := .fsqrtLiteral (fld W 14 6) (fld W 8 6) (fld W 0 1) (fld L 0 2), eng := engOf W, dly := dlyOf W, len := 2, rsvd := nz W 2 6 || nz L 2 27, fb := false } : Decoded) : Except Reject Decoded) = _
  rw [f0, f1, f2, f3, f4, f5]
  try rfl

theorem fcvt (a : BitVec 6) (b : BitVec 6) (dst : BitVec 4) (src : BitVec 4) (rm : BitVec 2) : Statement (.fcvt a b dst src rm) := by
  intro _
  refine two 1 54 0 [(a.toNat, 14), (b.toNat, 8)] [(dst.toNat, 0), (src.toNat, 4), (rm.toNat, 8)] (.fcvt a b dst src rm) (by decide) (by decide) (shape27_lt a b dst src rm).1
    (shape27_lt a b dst src rm).2 (fun _ => rfl) ?_
  intro W L hE hO hw hl hL
  obtain ⟨f0, f1, f2, f3, f4, f5, f6⟩ := shape27 a b dst src rm W L hw hL
  rw [in1 W _ hE]; unfold decodeSca; rw [hO]
  refine (dec2_ok W L _ (hl.trans hE.symm)).trans ?_
  show (Except.ok ({ ins := .fcvt (fld W 14 6) (fld W 8 6) (fld L 0 4) (fld L 4 4) (fld L 8 2), eng := engOf W, dly := dlyOf W, len := 2, rsvd := nz W 0 8 || nz L 10 19, fb := false } : Decoded) : Except Reject Decoded) = _
  rw [f0, f1, f2, f3, f4, f5, f6]
  try rfl

theorem fcmplt (a : BitVec 4) (b : BitVec 6) (c : BitVec 6) (p : BitVec 1) : Statement (.fcmplt a b c p) := by
  intro _
  refine one 1 55 0 [(a.toNat, 14), (b.toNat, 8), (c.toNat, 2), (p.toNat, 0)] (.fcmplt a b c p) (by decide) (by decide) (shape28_lt a b c p) (fun _ => rfl) ?_
  intro W hE hO hw
  obtain ⟨f0, f1, f2, f3, f4, f5⟩ := shape28 a b c p W hw
  rw [in1 W _ hE]; unfold decodeSca; rw [hO]
  show dec1 W (.fcmplt (fld W 14 4) (fld W 8 6) (fld W 2 6) (fld W 0 1)) (nz W 18 2) (nz W 1 1) = _
  rw [f0, f1, f2, f3, f4, f5]
  try rfl

theorem fcmpeq (a : BitVec 4) (b : BitVec 6) (c : BitVec 6) (p : BitVec 1) : Statement (.fcmpeq a b c p) := by
  intro _
  refine one 1 56 0 [(a.toNat, 14), (b.toNat, 8), (c.toNat, 2), (p.toNat, 0)] (.fcmpeq a b c p) (by decide) (by decide) (shape28_lt a b c p) (fun _ => rfl) ?_
  intro W hE hO hw
  obtain ⟨f0, f1, f2, f3, f4, f5⟩ := shape28 a b c p W hw
  rw [in1 W _ hE]; unfold decodeSca; rw [hO]
  show dec1 W (.fcmpeq (fld W 14 4) (fld W 8 6) (fld W 2 6) (fld W 0 1)) (nz W 18 2) (nz W 1 1) = _
  rw [f0, f1, f2, f3, f4, f5]
  try rfl

theorem fmin (a : BitVec 6) (b : BitVec 6) (c : BitVec 6) (p : BitVec 1) : Statement (.fmin a b c p) := by
  intro _
  refine one 1 57 0 [(a.toNat, 14), (b.toNat, 8), (c.toNat, 2), (p.toNat, 0)] (.fmin a b c p) (by decide) (by decide) (shape29_lt a b c p) (fun _ => rfl) ?_
  intro W hE hO hw
  obtain ⟨f0, f1, f2, f3, f4⟩ := shape29 a b c p W hw
  rw [in1 W _ hE]; unfold decodeSca; rw [hO]
  show dec1 W (.fmin (fld W 14 6) (fld W 8 6) (fld W 2 6) (fld W 0 1)) (false) (nz W 1 1) = _
  rw [f0, f1, f2, f3, f4]

theorem fmax (a : BitVec 6) (b : BitVec 6) (c : BitVec 6) (p : BitVec 1) : Statement (.fmax a b c p) := by
  intro _
  refine one 1 58 0 [(a.toNat, 14), (b.toNat, 8), (c.toNat, 2), (p.toNat, 0)] (.fmax a b c p) (by decide) (by decide) (shape29_lt a b c p) (fun _ => rfl) ?_
  intro W hE hO hw
  obtain ⟨f0, f1, f2, f3, f4⟩ := shape29 a b c p W hw
  rw [in1 W _ hE]; unfold decodeSca; rw [hO]
  show dec1 W (.fmax (fld W 14 6) (fld W 8 6) (fld W 2 6) (fld W 0 1)) (false) (nz W 1 1) = _
  rw [f0, f1, f2, f3, f4]

theorem beac (a : BitVec 6) : Statement (.beac a) := by
  intro _
  refine one 1 59 0 [(a.toNat, 14)] (.beac a) (by decide) (by decide) (shape3_lt a) (fun _ => rfl) ?_
  intro W hE hO hw
  obtain ⟨f0, f1⟩ := shape3 a W hw
  rw [in1 W _ hE]; unfold decodeSca; rw [hO]
  show dec1 W (.beac (fld W 14 6)) (nz W 0 14) = _
  rw [f0, f1]

theorem shape (val : BitVec 18) : Statement (.shape val) := by
  intro _
  refine two 2 2 0 [] [(val.toNat, 0)] (.shape val) (by decide) (by decide) (shape30_lt val).1
    (shape30_lt val).2 (fun _ => rfl) ?_
  intro W L hE hO hw hl hL
  obtain ⟨f0, f1, f2⟩ := shape30 val W L hw hL
  rw [in2 W _ hE]; unfold decodeVec; rw [hO]
  refine (dec2_ok W L _ (hl.trans hE.symm)).trans ?_
  show (Except.ok ({ ins := .shape (fld L 0 18), eng := engOf W, dly := dlyOf W, len := 2, rsvd := nz W 0 20 || nz L 18 11, fb := false } : Decoded) : Except Reject Decoded) = _
  rw [f0, f1, f2]
  try rfl

theorem vadd (v : BitVec 5) (a : BitVec 5) (b : BitVec 5) (k : BitVec 3) (m : BitVec 2) : Statement (.vadd v a b k m) := by
  intro _
  refine one 2 3 0 [(v.toNat, 15), (a.toNat, 10), (b.toNat, 5), (k.toNat, 2), (m.toNat, 0)] (.vadd v a b k m) (by decide) (by decide) (shape31_lt v a b k m) (fun _ => rfl) ?_
  intro W hE hO hw
  obtain ⟨f0, f1, f2, f3, f4⟩ := shape31 v a b k m W hw
  rw [in2 W _ hE]; unfold decodeVec; rw [hO]
  show dec1 W (.vadd (fld W 15 5) (fld W 10 5) (fld W 5 5) (fld W 2 3) (fld W 0 2)) (false) = _
  rw [f0, f1, f2, f3, f4]

theorem vsub (v : BitVec 5) (a : BitVec 5) (b : BitVec 5) (k : BitVec 3) (m : BitVec 2) : Statement (.vsub v a b k m) := by
  intro _
  refine one 2 4 0 [(v.toNat, 15), (a.toNat, 10), (b.toNat, 5), (k.toNat, 2), (m.toNat, 0)] (.vsub v a b k m) (by decide) (by decide) (shape31_lt v a b k m) (fun _ => rfl) ?_
  intro W hE hO hw
  obtain ⟨f0, f1, f2, f3, f4⟩ := shape31 v a b k m W hw
  rw [in2 W _ hE]; unfold decodeVec; rw [hO]
  show dec1 W (.vsub (fld W 15 5) (fld W 10 5) (fld W 5 5) (fld W 2 3) (fld W 0 2)) (false) = _
  rw [f0, f1, f2, f3, f4]

theorem vmul (v : BitVec 5) (a : BitVec 5) (b : BitVec 5) (k : BitVec 3) (m : BitVec 2) : Statement (.vmul v a b k m) := by
  intro _
  refine one 2 5 0 [(v.toNat, 15), (a.toNat, 10), (b.toNat, 5), (k.toNat, 2), (m.toNat, 0)] (.vmul v a b k m) (by decide) (by decide) (shape31_lt v a b k m) (fun _ => rfl) ?_
  intro W hE hO hw
  obtain ⟨f0, f1, f2, f3, f4⟩ := shape31 v a b k m W hw
  rw [in2 W _ hE]; unfold decodeVec; rw [hO]
  show dec1 W (.vmul (fld W 15 5) (fld W 10 5) (fld W 5 5) (fld W 2 3) (fld W 0 2)) (false) = _
  rw [f0, f1, f2, f3, f4]

theorem vfma (v : BitVec 5) (a : BitVec 5) (b : BitVec 5) (k : BitVec 3) (m : BitVec 2) : Statement (.vfma v a b k m) := by
  intro _
  refine one 2 6 0 [(v.toNat, 15), (a.toNat, 10), (b.toNat, 5), (k.toNat, 2), (m.toNat, 0)] (.vfma v a b k m) (by decide) (by decide) (shape31_lt v a b k m) (fun _ => rfl) ?_
  intro W hE hO hw
  obtain ⟨f0, f1, f2, f3, f4⟩ := shape31 v a b k m W hw
  rw [in2 W _ hE]; unfold decodeVec; rw [hO]
  show dec1 W (.vfma (fld W 15 5) (fld W 10 5) (fld W 5 5) (fld W 2 3) (fld W 0 2)) (false) = _
  rw [f0, f1, f2, f3, f4]

theorem vfms (v : BitVec 5) (a : BitVec 5) (b : BitVec 5) (k : BitVec 3) (m : BitVec 2) : Statement (.vfms v a b k m) := by
  intro _
  refine one 2 7 0 [(v.toNat, 15), (a.toNat, 10), (b.toNat, 5), (k.toNat, 2), (m.toNat, 0)] (.vfms v a b k m) (by decide) (by decide) (shape31_lt v a b k m) (fun _ => rfl) ?_
  intro W hE hO hw
  obtain ⟨f0, f1, f2, f3, f4⟩ := shape31 v a b k m W hw
  rw [in2 W _ hE]; unfold decodeVec; rw [hO]
  show dec1 W (.vfms (fld W 15 5) (fld W 10 5) (fld W 5 5) (fld W 2 3) (fld W 0 2)) (false) = _
  rw [f0, f1, f2, f3, f4]

theorem vmin (v : BitVec 5) (a : BitVec 5) (b : BitVec 5) (k : BitVec 3) (m : BitVec 2) : Statement (.vmin v a b k m) := by
  intro _
  refine one 2 8 0 [(v.toNat, 15), (a.toNat, 10), (b.toNat, 5), (k.toNat, 2), (m.toNat, 0)] (.vmin v a b k m) (by decide) (by decide) (shape31_lt v a b k m) (fun _ => rfl) ?_
  intro W hE hO hw
  obtain ⟨f0, f1, f2, f3, f4⟩ := shape31 v a b k m W hw
  rw [in2 W _ hE]; unfold decodeVec; rw [hO]
  show dec1 W (.vmin (fld W 15 5) (fld W 10 5) (fld W 5 5) (fld W 2 3) (fld W 0 2)) (false) = _
  rw [f0, f1, f2, f3, f4]

theorem vmax (v : BitVec 5) (a : BitVec 5) (b : BitVec 5) (k : BitVec 3) (m : BitVec 2) : Statement (.vmax v a b k m) := by
  intro _
  refine one 2 9 0 [(v.toNat, 15), (a.toNat, 10), (b.toNat, 5), (k.toNat, 2), (m.toNat, 0)] (.vmax v a b k m) (by decide) (by decide) (shape31_lt v a b k m) (fun _ => rfl) ?_
  intro W hE hO hw
  obtain ⟨f0, f1, f2, f3, f4⟩ := shape31 v a b k m W hw
  rw [in2 W _ hE]; unfold decodeVec; rw [hO]
  show dec1 W (.vmax (fld W 15 5) (fld W 10 5) (fld W 5 5) (fld W 2 3) (fld W 0 2)) (false) = _
  rw [f0, f1, f2, f3, f4]

theorem vabs (v : BitVec 5) (a : BitVec 5) (k : BitVec 3) (m : BitVec 2) : Statement (.vabs v a k m) := by
  intro _
  refine one 2 10 0 [(v.toNat, 15), (a.toNat, 10), (k.toNat, 2), (m.toNat, 0)] (.vabs v a k m) (by decide) (by decide) (shape32_lt v a k m) (fun _ => rfl) ?_
  intro W hE hO hw
  obtain ⟨f0, f1, f2, f3, f4⟩ := shape32 v a k m W hw
  rw [in2 W _ hE]; unfold decodeVec; rw [hO]
  show dec1 W (.vabs (fld W 15 5) (fld W 10 5) (fld W 2 3) (fld W 0 2)) (nz W 5 5) = _
  rw [f0, f1, f2, f3, f4]

theorem vneg (v : BitVec 5) (a : BitVec 5) (k : BitVec 3) (m : BitVec 2) : Statement (.vneg v a k m) := by
  intro _
  refine one 2 11 0 [(v.toNat, 15), (a.toNat, 10), (k.toNat, 2), (m.toNat, 0)] (.vneg v a k m) (by decide) (by decide) (shape32_lt v a k m) (fun _ => rfl) ?_
  intro W hE hO hw
  obtain ⟨f0, f1, f2, f3, f4⟩ := shape32 v a k m W hw
  rw [in2 W _ hE]; unfold decodeVec; rw [hO]
  show dec1 W (.vneg (fld W 15 5) (fld W 10 5) (fld W 2 3) (fld W 0 2)) (nz W 5 5) = _
  rw [f0, f1, f2, f3, f4]

theorem vand (v : BitVec 5) (a : BitVec 5) (b : BitVec 5) (k : BitVec 3) (m : BitVec 2) : Statement (.vand v a b k m) := by
  intro _
  refine one 2 12 0 [(v.toNat, 15), (a.toNat, 10), (b.toNat, 5), (k.toNat, 2), (m.toNat, 0)] (.vand v a b k m) (by decide) (by decide) (shape31_lt v a b k m) (fun _ => rfl) ?_
  intro W hE hO hw
  obtain ⟨f0, f1, f2, f3, f4⟩ := shape31 v a b k m W hw
  rw [in2 W _ hE]; unfold decodeVec; rw [hO]
  show dec1 W (.vand (fld W 15 5) (fld W 10 5) (fld W 5 5) (fld W 2 3) (fld W 0 2)) (false) = _
  rw [f0, f1, f2, f3, f4]

theorem vor (v : BitVec 5) (a : BitVec 5) (b : BitVec 5) (k : BitVec 3) (m : BitVec 2) : Statement (.vor v a b k m) := by
  intro _
  refine one 2 13 0 [(v.toNat, 15), (a.toNat, 10), (b.toNat, 5), (k.toNat, 2), (m.toNat, 0)] (.vor v a b k m) (by decide) (by decide) (shape31_lt v a b k m) (fun _ => rfl) ?_
  intro W hE hO hw
  obtain ⟨f0, f1, f2, f3, f4⟩ := shape31 v a b k m W hw
  rw [in2 W _ hE]; unfold decodeVec; rw [hO]
  show dec1 W (.vor (fld W 15 5) (fld W 10 5) (fld W 5 5) (fld W 2 3) (fld W 0 2)) (false) = _
  rw [f0, f1, f2, f3, f4]

theorem vxor (v : BitVec 5) (a : BitVec 5) (b : BitVec 5) (k : BitVec 3) (m : BitVec 2) : Statement (.vxor v a b k m) := by
  intro _
  refine one 2 14 0 [(v.toNat, 15), (a.toNat, 10), (b.toNat, 5), (k.toNat, 2), (m.toNat, 0)] (.vxor v a b k m) (by decide) (by decide) (shape31_lt v a b k m) (fun _ => rfl) ?_
  intro W hE hO hw
  obtain ⟨f0, f1, f2, f3, f4⟩ := shape31 v a b k m W hw
  rw [in2 W _ hE]; unfold decodeVec; rw [hO]
  show dec1 W (.vxor (fld W 15 5) (fld W 10 5) (fld W 5 5) (fld W 2 3) (fld W 0 2)) (false) = _
  rw [f0, f1, f2, f3, f4]

theorem vnot (v : BitVec 5) (a : BitVec 5) (k : BitVec 3) (m : BitVec 2) : Statement (.vnot v a k m) := by
  intro _
  refine one 2 15 0 [(v.toNat, 15), (a.toNat, 10), (k.toNat, 2), (m.toNat, 0)] (.vnot v a k m) (by decide) (by decide) (shape32_lt v a k m) (fun _ => rfl) ?_
  intro W hE hO hw
  obtain ⟨f0, f1, f2, f3, f4⟩ := shape32 v a k m W hw
  rw [in2 W _ hE]; unfold decodeVec; rw [hO]
  show dec1 W (.vnot (fld W 15 5) (fld W 10 5) (fld W 2 3) (fld W 0 2)) (nz W 5 5) = _
  rw [f0, f1, f2, f3, f4]

theorem vshl (v : BitVec 5) (a : BitVec 5) (b : BitVec 5) (k : BitVec 3) (m : BitVec 2) : Statement (.vshl v a b k m) := by
  intro _
  refine one 2 16 0 [(v.toNat, 15), (a.toNat, 10), (b.toNat, 5), (k.toNat, 2), (m.toNat, 0)] (.vshl v a b k m) (by decide) (by decide) (shape31_lt v a b k m) (fun _ => rfl) ?_
  intro W hE hO hw
  obtain ⟨f0, f1, f2, f3, f4⟩ := shape31 v a b k m W hw
  rw [in2 W _ hE]; unfold decodeVec; rw [hO]
  show dec1 W (.vshl (fld W 15 5) (fld W 10 5) (fld W 5 5) (fld W 2 3) (fld W 0 2)) (false) = _
  rw [f0, f1, f2, f3, f4]

theorem vshr (v : BitVec 5) (a : BitVec 5) (b : BitVec 5) (k : BitVec 3) (m : BitVec 2) : Statement (.vshr v a b k m) := by
  intro _
  refine one 2 17 0 [(v.toNat, 15), (a.toNat, 10), (b.toNat, 5), (k.toNat, 2), (m.toNat, 0)] (.vshr v a b k m) (by decide) (by decide) (shape31_lt v a b k m) (fun _ => rfl) ?_
  intro W hE hO hw
  obtain ⟨f0, f1, f2, f3, f4⟩ := shape31 v a b k m W hw
  rw [in2 W _ hE]; unfold decodeVec; rw [hO]
  show dec1 W (.vshr (fld W 15 5) (fld W 10 5) (fld W 5 5) (fld W 2 3) (fld W 0 2)) (false) = _
  rw [f0, f1, f2, f3, f4]

theorem vsar (v : BitVec 5) (a : BitVec 5) (b : BitVec 5) (k : BitVec 3) (m : BitVec 2) : Statement (.vsar v a b k m) := by
  intro _
  refine one 2 18 0 [(v.toNat, 15), (a.toNat, 10), (b.toNat, 5), (k.toNat, 2), (m.toNat, 0)] (.vsar v a b k m) (by decide) (by decide) (shape31_lt v a b k m) (fun _ => rfl) ?_
  intro W hE hO hw
  obtain ⟨f0, f1, f2, f3, f4⟩ := shape31 v a b k m W hw
  rw [in2 W _ hE]; unfold decodeVec; rw [hO]
  show dec1 W (.vsar (fld W 15 5) (fld W 10 5) (fld W 5 5) (fld W 2 3) (fld W 0 2)) (false) = _
  rw [f0, f1, f2, f3, f4]

theorem vcmpeq (v : BitVec 3) (a : BitVec 5) (b : BitVec 5) (k : BitVec 3) (m : BitVec 2) : Statement (.vcmpeq v a b k m) := by
  intro _
  refine one 2 19 0 [(v.toNat, 15), (a.toNat, 10), (b.toNat, 5), (k.toNat, 2), (m.toNat, 0)] (.vcmpeq v a b k m) (by decide) (by decide) (shape33_lt v a b k m) (fun _ => rfl) ?_
  intro W hE hO hw
  obtain ⟨f0, f1, f2, f3, f4, f5⟩ := shape33 v a b k m W hw
  rw [in2 W _ hE]; unfold decodeVec; rw [hO]
  show dec1 W (.vcmpeq (fld W 15 3) (fld W 10 5) (fld W 5 5) (fld W 2 3) (fld W 0 2)) (nz W 18 2) = _
  rw [f0, f1, f2, f3, f4, f5]

theorem vcmplt (v : BitVec 3) (a : BitVec 5) (b : BitVec 5) (k : BitVec 3) (m : BitVec 2) : Statement (.vcmplt v a b k m) := by
  intro _
  refine one 2 20 0 [(v.toNat, 15), (a.toNat, 10), (b.toNat, 5), (k.toNat, 2), (m.toNat, 0)] (.vcmplt v a b k m) (by decide) (by decide) (shape33_lt v a b k m) (fun _ => rfl) ?_
  intro W hE hO hw
  obtain ⟨f0, f1, f2, f3, f4, f5⟩ := shape33 v a b k m W hw
  rw [in2 W _ hE]; unfold decodeVec; rw [hO]
  show dec1 W (.vcmplt (fld W 15 3) (fld W 10 5) (fld W 5 5) (fld W 2 3) (fld W 0 2)) (nz W 18 2) = _
  rw [f0, f1, f2, f3, f4, f5]

theorem vcmple (v : BitVec 3) (a : BitVec 5) (b : BitVec 5) (k : BitVec 3) (m : BitVec 2) : Statement (.vcmple v a b k m) := by
  intro _
  refine one 2 21 0 [(v.toNat, 15), (a.toNat, 10), (b.toNat, 5), (k.toNat, 2), (m.toNat, 0)] (.vcmple v a b k m) (by decide) (by decide) (shape33_lt v a b k m) (fun _ => rfl) ?_
  intro W hE hO hw
  obtain ⟨f0, f1, f2, f3, f4, f5⟩ := shape33 v a b k m W hw
  rw [in2 W _ hE]; unfold decodeVec; rw [hO]
  show dec1 W (.vcmple (fld W 15 3) (fld W 10 5) (fld W 5 5) (fld W 2 3) (fld W 0 2)) (nz W 18 2) = _
  rw [f0, f1, f2, f3, f4, f5]

theorem vsel (v : BitVec 5) (a : BitVec 5) (b : BitVec 5) (k : BitVec 3) (m : BitVec 2) : Statement (.vsel v a b k m) := by
  intro _
  refine one 2 22 0 [(v.toNat, 15), (a.toNat, 10), (b.toNat, 5), (k.toNat, 2), (m.toNat, 0)] (.vsel v a b k m) (by decide) (by decide) (shape31_lt v a b k m) (fun _ => rfl) ?_
  intro W hE hO hw
  obtain ⟨f0, f1, f2, f3, f4⟩ := shape31 v a b k m W hw
  rw [in2 W _ hE]; unfold decodeVec; rw [hO]
  show dec1 W (.vsel (fld W 15 5) (fld W 10 5) (fld W 5 5) (fld W 2 3) (fld W 0 2)) (false) = _
  rw [f0, f1, f2, f3, f4]

theorem vmov (v : BitVec 5) (a : BitVec 5) (k : BitVec 3) (m : BitVec 2) : Statement (.vmov v a k m) := by
  intro _
  refine one 2 23 0 [(v.toNat, 15), (a.toNat, 10), (k.toNat, 2), (m.toNat, 0)] (.vmov v a k m) (by decide) (by decide) (shape32_lt v a k m) (fun _ => rfl) ?_
  intro W hE hO hw
  obtain ⟨f0, f1, f2, f3, f4⟩ := shape32 v a k m W hw
  rw [in2 W _ hE]; unfold decodeVec; rw [hO]
  show dec1 W (.vmov (fld W 15 5) (fld W 10 5) (fld W 2 3) (fld W 0 2)) (nz W 5 5) = _
  rw [f0, f1, f2, f3, f4]

theorem vfill (v : BitVec 5) (g : BitVec 5) (k : BitVec 3) (m : BitVec 2) : Statement (.vfill v g k m) := by
  intro _
  refine one 2 24 0 [(v.toNat, 15), (g.toNat, 10), (k.toNat, 2), (m.toNat, 0)] (.vfill v g k m) (by decide) (by decide) (shape32_lt v g k m) (fun _ => rfl) ?_
  intro W hE hO hw
  obtain ⟨f0, f1, f2, f3, f4⟩ := shape32 v g k m W hw
  rw [in2 W _ hE]; unfold decodeVec; rw [hO]
  show dec1 W (.vfill (fld W 15 5) (fld W 10 5) (fld W 2 3) (fld W 0 2)) (nz W 5 5) = _
  rw [f0, f1, f2, f3, f4]

theorem vbrow (v : BitVec 5) (a : BitVec 5) (g : BitVec 5) (k : BitVec 3) (m : BitVec 2) : Statement (.vbrow v a g k m) := by
  intro _
  refine one 2 25 0 [(v.toNat, 15), (a.toNat, 10), (g.toNat, 5), (k.toNat, 2), (m.toNat, 0)] (.vbrow v a g k m) (by decide) (by decide) (shape31_lt v a g k m) (fun _ => rfl) ?_
  intro W hE hO hw
  obtain ⟨f0, f1, f2, f3, f4⟩ := shape31 v a g k m W hw
  rw [in2 W _ hE]; unfold decodeVec; rw [hO]
  show dec1 W (.vbrow (fld W 15 5) (fld W 10 5) (fld W 5 5) (fld W 2 3) (fld W 0 2)) (false) = _
  rw [f0, f1, f2, f3, f4]

theorem vbcol (v : BitVec 5) (a : BitVec 5) (g : BitVec 5) (k : BitVec 3) (m : BitVec 2) : Statement (.vbcol v a g k m) := by
  intro _
  refine one 2 26 0 [(v.toNat, 15), (a.toNat, 10), (g.toNat, 5), (k.toNat, 2), (m.toNat, 0)] (.vbcol v a g k m) (by decide) (by decide) (shape31_lt v a g k m) (fun _ => rfl) ?_
  intro W hE hO hw
  obtain ⟨f0, f1, f2, f3, f4⟩ := shape31 v a g k m W hw
  rw [in2 W _ hE]; unfold decodeVec; rw [hO]
  show dec1 W (.vbcol (fld W 15 5) (fld W 10 5) (fld W 5 5) (fld W 2 3) (fld W 0 2)) (false) = _
  rw [f0, f1, f2, f3, f4]

theorem vrsum (v : BitVec 5) (a : BitVec 5) (k : BitVec 3) (m : BitVec 2) : Statement (.vrsum v a k m) := by
  intro _
  refine one 2 27 0 [(v.toNat, 15), (a.toNat, 10), (k.toNat, 2), (m.toNat, 0)] (.vrsum v a k m) (by decide) (by decide) (shape32_lt v a k m) (fun _ => rfl) ?_
  intro W hE hO hw
  obtain ⟨f0, f1, f2, f3, f4⟩ := shape32 v a k m W hw
  rw [in2 W _ hE]; unfold decodeVec; rw [hO]
  show dec1 W (.vrsum (fld W 15 5) (fld W 10 5) (fld W 2 3) (fld W 0 2)) (nz W 5 5) = _
  rw [f0, f1, f2, f3, f4]

theorem vrmax (v : BitVec 5) (a : BitVec 5) (k : BitVec 3) (m : BitVec 2) : Statement (.vrmax v a k m) := by
  intro _
  refine one 2 28 0 [(v.toNat, 15), (a.toNat, 10), (k.toNat, 2), (m.toNat, 0)] (.vrmax v a k m) (by decide) (by decide) (shape32_lt v a k m) (fun _ => rfl) ?_
  intro W hE hO hw
  obtain ⟨f0, f1, f2, f3, f4⟩ := shape32 v a k m W hw
  rw [in2 W _ hE]; unfold decodeVec; rw [hO]
  show dec1 W (.vrmax (fld W 15 5) (fld W 10 5) (fld W 2 3) (fld W 0 2)) (nz W 5 5) = _
  rw [f0, f1, f2, f3, f4]

theorem vcsum (v : BitVec 5) (a : BitVec 5) (k : BitVec 3) (m : BitVec 2) : Statement (.vcsum v a k m) := by
  intro _
  refine one 2 29 0 [(v.toNat, 15), (a.toNat, 10), (k.toNat, 2), (m.toNat, 0)] (.vcsum v a k m) (by decide) (by decide) (shape32_lt v a k m) (fun _ => rfl) ?_
  intro W hE hO hw
  obtain ⟨f0, f1, f2, f3, f4⟩ := shape32 v a k m W hw
  rw [in2 W _ hE]; unfold decodeVec; rw [hO]
  show dec1 W (.vcsum (fld W 15 5) (fld W 10 5) (fld W 2 3) (fld W 0 2)) (nz W 5 5) = _
  rw [f0, f1, f2, f3, f4]

theorem vcmax (v : BitVec 5) (a : BitVec 5) (k : BitVec 3) (m : BitVec 2) : Statement (.vcmax v a k m) := by
  intro _
  refine one 2 30 0 [(v.toNat, 15), (a.toNat, 10), (k.toNat, 2), (m.toNat, 0)] (.vcmax v a k m) (by decide) (by decide) (shape32_lt v a k m) (fun _ => rfl) ?_
  intro W hE hO hw
  obtain ⟨f0, f1, f2, f3, f4⟩ := shape32 v a k m W hw
  rw [in2 W _ hE]; unfold decodeVec; rw [hO]
  show dec1 W (.vcmax (fld W 15 5) (fld W 10 5) (fld W 2 3) (fld W 0 2)) (nz W 5 5) = _
  rw [f0, f1, f2, f3, f4]

theorem vtrn (v : BitVec 5) (a : BitVec 5) (k : BitVec 3) (m : BitVec 2) : Statement (.vtrn v a k m) := by
  intro _
  refine one 2 31 0 [(v.toNat, 15), (a.toNat, 10), (k.toNat, 2), (m.toNat, 0)] (.vtrn v a k m) (by decide) (by decide) (shape32_lt v a k m) (fun _ => rfl) ?_
  intro W hE hO hw
  obtain ⟨f0, f1, f2, f3, f4⟩ := shape32 v a k m W hw
  rw [in2 W _ hE]; unfold decodeVec; rw [hO]
  show dec1 W (.vtrn (fld W 15 5) (fld W 10 5) (fld W 2 3) (fld W 0 2)) (nz W 5 5) = _
  rw [f0, f1, f2, f3, f4]

theorem vzip2 (v : BitVec 5) (a : BitVec 5) (k : BitVec 3) (m : BitVec 2) : Statement (.vzip2 v a k m) := by
  intro _
  refine one 2 32 0 [(v.toNat, 15), (a.toNat, 10), (k.toNat, 2), (m.toNat, 0)] (.vzip2 v a k m) (by decide) (by decide) (shape32_lt v a k m) (fun _ => rfl) ?_
  intro W hE hO hw
  obtain ⟨f0, f1, f2, f3, f4⟩ := shape32 v a k m W hw
  rw [in2 W _ hE]; unfold decodeVec; rw [hO]
  show dec1 W (.vzip2 (fld W 15 5) (fld W 10 5) (fld W 2 3) (fld W 0 2)) (nz W 5 5) = _
  rw [f0, f1, f2, f3, f4]

theorem vzip3 (v : BitVec 5) (a : BitVec 5) (k : BitVec 3) (m : BitVec 2) : Statement (.vzip3 v a k m) := by
  intro _
  refine one 2 33 0 [(v.toNat, 15), (a.toNat, 10), (k.toNat, 2), (m.toNat, 0)] (.vzip3 v a k m) (by decide) (by decide) (shape32_lt v a k m) (fun _ => rfl) ?_
  intro W hE hO hw
  obtain ⟨f0, f1, f2, f3, f4⟩ := shape32 v a k m W hw
  rw [in2 W _ hE]; unfold decodeVec; rw [hO]
  show dec1 W (.vzip3 (fld W 15 5) (fld W 10 5) (fld W 2 3) (fld W 0 2)) (nz W 5 5) = _
  rw [f0, f1, f2, f3, f4]

theorem vzip4 (v : BitVec 5) (a : BitVec 5) (k : BitVec 3) (m : BitVec 2) : Statement (.vzip4 v a k m) := by
  intro _
  refine one 2 34 0 [(v.toNat, 15), (a.toNat, 10), (k.toNat, 2), (m.toNat, 0)] (.vzip4 v a k m) (by decide) (by decide) (shape32_lt v a k m) (fun _ => rfl) ?_
  intro W hE hO hw
  obtain ⟨f0, f1, f2, f3, f4⟩ := shape32 v a k m W hw
  rw [in2 W _ hE]; unfold decodeVec; rw [hO]
  show dec1 W (.vzip4 (fld W 15 5) (fld W 10 5) (fld W 2 3) (fld W 0 2)) (nz W 5 5) = _
  rw [f0, f1, f2, f3, f4]

theorem vunz2 (v : BitVec 5) (a : BitVec 5) (k : BitVec 3) (m : BitVec 2) : Statement (.vunz2 v a k m) := by
  intro _
  refine one 2 35 0 [(v.toNat, 15), (a.toNat, 10), (k.toNat, 2), (m.toNat, 0)] (.vunz2 v a k m) (by decide) (by decide) (shape32_lt v a k m) (fun _ => rfl) ?_
  intro W hE hO hw
  obtain ⟨f0, f1, f2, f3, f4⟩ := shape32 v a k m W hw
  rw [in2 W _ hE]; unfold decodeVec; rw [hO]
  show dec1 W (.vunz2 (fld W 15 5) (fld W 10 5) (fld W 2 3) (fld W 0 2)) (nz W 5 5) = _
  rw [f0, f1, f2, f3, f4]

theorem vunz3 (v : BitVec 5) (a : BitVec 5) (k : BitVec 3) (m : BitVec 2) : Statement (.vunz3 v a k m) := by
  intro _
  refine one 2 36 0 [(v.toNat, 15), (a.toNat, 10), (k.toNat, 2), (m.toNat, 0)] (.vunz3 v a k m) (by decide) (by decide) (shape32_lt v a k m) (fun _ => rfl) ?_
  intro W hE hO hw
  obtain ⟨f0, f1, f2, f3, f4⟩ := shape32 v a k m W hw
  rw [in2 W _ hE]; unfold decodeVec; rw [hO]
  show dec1 W (.vunz3 (fld W 15 5) (fld W 10 5) (fld W 2 3) (fld W 0 2)) (nz W 5 5) = _
  rw [f0, f1, f2, f3, f4]

theorem vunz4 (v : BitVec 5) (a : BitVec 5) (k : BitVec 3) (m : BitVec 2) : Statement (.vunz4 v a k m) := by
  intro _
  refine one 2 37 0 [(v.toNat, 15), (a.toNat, 10), (k.toNat, 2), (m.toNat, 0)] (.vunz4 v a k m) (by decide) (by decide) (shape32_lt v a k m) (fun _ => rfl) ?_
  intro W hE hO hw
  obtain ⟨f0, f1, f2, f3, f4⟩ := shape32 v a k m W hw
  rw [in2 W _ hE]; unfold decodeVec; rw [hO]
  show dec1 W (.vunz4 (fld W 15 5) (fld W 10 5) (fld W 2 3) (fld W 0 2)) (nz W 5 5) = _
  rw [f0, f1, f2, f3, f4]

theorem vperm (v : BitVec 5) (a : BitVec 5) (b : BitVec 5) (k : BitVec 3) (m : BitVec 2) : Statement (.vperm v a b k m) := by
  intro _
  refine one 2 38 0 [(v.toNat, 15), (a.toNat, 10), (b.toNat, 5), (k.toNat, 2), (m.toNat, 0)] (.vperm v a b k m) (by decide) (by decide) (shape31_lt v a b k m) (fun _ => rfl) ?_
  intro W hE hO hw
  obtain ⟨f0, f1, f2, f3, f4⟩ := shape31 v a b k m W hw
  rw [in2 W _ hE]; unfold decodeVec; rw [hO]
  show dec1 W (.vperm (fld W 15 5) (fld W 10 5) (fld W 5 5) (fld W 2 3) (fld W 0 2)) (false) = _
  rw [f0, f1, f2, f3, f4]

theorem vrot (v : BitVec 5) (a : BitVec 5) (g : BitVec 5) (k : BitVec 3) (m : BitVec 2) : Statement (.vrot v a g k m) := by
  intro _
  refine one 2 39 0 [(v.toNat, 15), (a.toNat, 10), (g.toNat, 5), (k.toNat, 2), (m.toNat, 0)] (.vrot v a g k m) (by decide) (by decide) (shape31_lt v a g k m) (fun _ => rfl) ?_
  intro W hE hO hw
  obtain ⟨f0, f1, f2, f3, f4⟩ := shape31 v a g k m W hw
  rw [in2 W _ hE]; unfold decodeVec; rw [hO]
  show dec1 W (.vrot (fld W 15 5) (fld W 10 5) (fld W 5 5) (fld W 2 3) (fld W 0 2)) (false) = _
  rw [f0, f1, f2, f3, f4]

theorem vcvt (v : BitVec 5) (a : BitVec 5) (t : BitVec 4) (k : BitVec 3) (m : BitVec 2) : Statement (.vcvt v a t k m) := by
  intro _
  refine one 2 40 0 [(v.toNat, 15), (a.toNat, 10), (t.toNat, 5), (k.toNat, 2), (m.toNat, 0)] (.vcvt v a t k m) (by decide) (by decide) (shape34_lt v a t k m) (fun _ => rfl) ?_
  intro W hE hO hw
  obtain ⟨f0, f1, f2, f3, f4, f5⟩ := shape34 v a t k m W hw
  rw [in2 W _ hE]; unfold decodeVec; rw [hO]
  show dec1 W (.vcvt (fld W 15 5) (fld W 10 5) (fld W 5 4) (fld W 2 3) (fld W 0 2)) (nz W 9 1) = _
  rw [f0, f1, f2, f3, f4, f5]

theorem vqnt (v : BitVec 5) (a : BitVec 5) (n : BitVec 4) (f : BitVec 3) : Statement (.vqnt v a n f) := by
  intro _
  refine one 2 41 0 [(v.toNat, 15), (a.toNat, 10), (n.toNat, 5), (f.toNat, 2)] (.vqnt v a n f) (by decide) (by decide) (shape35_lt v a n f) (fun _ => rfl) ?_
  intro W hE hO hw
  obtain ⟨f0, f1, f2, f3, f4, f5⟩ := shape35 v a n f W hw
  rw [in2 W _ hE]; unfold decodeVec; rw [hO]
  show dec1 W (.vqnt (fld W 15 5) (fld W 10 5) (fld W 5 4) (fld W 2 3)) (nz W 0 2 || nz W 9 1) = _
  rw [f0, f1, f2, f3, f4, f5]
  try rfl

theorem vamx (n : BitVec 4) (a : BitVec 5) (k : BitVec 3) : Statement (.vamx n a k) := by
  intro _
  refine one 2 42 0 [(n.toNat, 15), (a.toNat, 10), (k.toNat, 2)] (.vamx n a k) (by decide) (by decide) (shape36_lt n a k) (fun _ => rfl) ?_
  intro W hE hO hw
  obtain ⟨f0, f1, f2, f3, f4, f5⟩ := shape36 n a k W hw
  rw [in2 W _ hE]; unfold decodeVec; rw [hO]
  show dec1 W (.vamx (fld W 15 4) (fld W 10 5) (fld W 2 3)) (nz W 0 2 || nz W 5 5 || nz W 19 1) = _
  rw [f0, f1, f2, f3, f4, f5]
  try rfl

theorem vrcpa (v : BitVec 5) (a : BitVec 5) (k : BitVec 3) : Statement (.vrcpa v a k) := by
  intro _
  refine one 2 43 0 [(v.toNat, 15), (a.toNat, 10), (k.toNat, 2)] (.vrcpa v a k) (by decide) (by decide) (shape37_lt v a k) (fun _ => rfl) ?_
  intro W hE hO hw
  obtain ⟨f0, f1, f2, f3, f4⟩ := shape37 v a k W hw
  rw [in2 W _ hE]; unfold decodeVec; rw [hO]
  show dec1 W (.vrcpa (fld W 15 5) (fld W 10 5) (fld W 2 3)) (nz W 0 2 || nz W 5 5) = _
  rw [f0, f1, f2, f3, f4]
  try rfl

theorem vrsqa (v : BitVec 5) (a : BitVec 5) (k : BitVec 3) : Statement (.vrsqa v a k) := by
  intro _
  refine one 2 44 0 [(v.toNat, 15), (a.toNat, 10), (k.toNat, 2)] (.vrsqa v a k) (by decide) (by decide) (shape37_lt v a k) (fun _ => rfl) ?_
  intro W hE hO hw
  obtain ⟨f0, f1, f2, f3, f4⟩ := shape37 v a k W hw
  rw [in2 W _ hE]; unfold decodeVec; rw [hO]
  show dec1 W (.vrsqa (fld W 15 5) (fld W 10 5) (fld W 2 3)) (nz W 0 2 || nz W 5 5) = _
  rw [f0, f1, f2, f3, f4]
  try rfl

theorem vexp2 (v : BitVec 5) (a : BitVec 5) (k : BitVec 3) : Statement (.vexp2 v a k) := by
  intro _
  refine one 2 45 0 [(v.toNat, 15), (a.toNat, 10), (k.toNat, 2)] (.vexp2 v a k) (by decide) (by decide) (shape37_lt v a k) (fun _ => rfl) ?_
  intro W hE hO hw
  obtain ⟨f0, f1, f2, f3, f4⟩ := shape37 v a k W hw
  rw [in2 W _ hE]; unfold decodeVec; rw [hO]
  show dec1 W (.vexp2 (fld W 15 5) (fld W 10 5) (fld W 2 3)) (nz W 0 2 || nz W 5 5) = _
  rw [f0, f1, f2, f3, f4]
  try rfl

theorem vlog2 (v : BitVec 5) (a : BitVec 5) (k : BitVec 3) : Statement (.vlog2 v a k) := by
  intro _
  refine one 2 46 0 [(v.toNat, 15), (a.toNat, 10), (k.toNat, 2)] (.vlog2 v a k) (by decide) (by decide) (shape37_lt v a k) (fun _ => rfl) ?_
  intro W hE hO hw
  obtain ⟨f0, f1, f2, f3, f4⟩ := shape37 v a k W hw
  rw [in2 W _ hE]; unfold decodeVec; rw [hO]
  show dec1 W (.vlog2 (fld W 15 5) (fld W 10 5) (fld W 2 3)) (nz W 0 2 || nz W 5 5) = _
  rw [f0, f1, f2, f3, f4]
  try rfl

theorem vtanh (v : BitVec 5) (a : BitVec 5) (k : BitVec 3) : Statement (.vtanh v a k) := by
  intro _
  refine one 2 47 0 [(v.toNat, 15), (a.toNat, 10), (k.toNat, 2)] (.vtanh v a k) (by decide) (by decide) (shape37_lt v a k) (fun _ => rfl) ?_
  intro W hE hO hw
  obtain ⟨f0, f1, f2, f3, f4⟩ := shape37 v a k W hw
  rw [in2 W _ hE]; unfold decodeVec; rw [hO]
  show dec1 W (.vtanh (fld W 15 5) (fld W 10 5) (fld W 2 3)) (nz W 0 2 || nz W 5 5) = _
  rw [f0, f1, f2, f3, f4]
  try rfl

theorem vgte (g : BitVec 5) (a : BitVec 5) (b : BitVec 5) (k : BitVec 3) (m : BitVec 2) : Statement (.vgte g a b k m) := by
  intro _
  refine one 2 48 0 [(g.toNat, 15), (a.toNat, 10), (b.toNat, 5), (k.toNat, 2), (m.toNat, 0)] (.vgte g a b k m) (by decide) (by decide) (shape31_lt g a b k m) (fun _ => rfl) ?_
  intro W hE hO hw
  obtain ⟨f0, f1, f2, f3, f4⟩ := shape31 g a b k m W hw
  rw [in2 W _ hE]; unfold decodeVec; rw [hO]
  show dec1 W (.vgte (fld W 15 5) (fld W 10 5) (fld W 5 5) (fld W 2 3) (fld W 0 2)) (false) = _
  rw [f0, f1, f2, f3, f4]

theorem vpte (v : BitVec 5) (a : BitVec 5) (b : BitVec 5) (k : BitVec 3) (m : BitVec 2) : Statement (.vpte v a b k m) := by
  intro _
  refine one 2 49 0 [(v.toNat, 15), (a.toNat, 10), (b.toNat, 5), (k.toNat, 2), (m.toNat, 0)] (.vpte v a b k m) (by decide) (by decide) (shape31_lt v a b k m) (fun _ => rfl) ?_
  intro W hE hO hw
  obtain ⟨f0, f1, f2, f3, f4⟩ := shape31 v a b k m W hw
  rw [in2 W _ hE]; unfold decodeVec; rw [hO]
  show dec1 W (.vpte (fld W 15 5) (fld W 10 5) (fld W 5 5) (fld W 2 3) (fld W 0 2)) (false) = _
  rw [f0, f1, f2, f3, f4]

theorem vmskop (o : BitVec 2) (v : BitVec 3) (a : BitVec 3) (b : BitVec 3) (k : BitVec 3) (m : BitVec 2) : Statement (.vmskop o v a b k m) := by
  intro _
  refine one 2 50 0 [(o.toNat, 18), (v.toNat, 15), (a.toNat, 10), (b.toNat, 5), (k.toNat, 2), (m.toNat, 0)] (.vmskop o v a b k m) (by decide) (by decide) (shape38_lt o v a b k m) (fun _ => rfl) ?_
  intro W hE hO hw
  obtain ⟨f0, f1, f2, f3, f4, f5, f6, f7⟩ := shape38 o v a b k m W hw
  rw [in2 W _ hE]; unfold decodeVec; rw [hO]
  show dec1 W (.vmskop (fld W 18 2) (fld W 15 3) (fld W 10 3) (fld W 5 3) (fld W 2 3) (fld W 0 2)) (nz W 8 2 || nz W 13 2) = _
  rw [f0, f1, f2, f3, f4, f5, f6, f7]
  try rfl

theorem viota (v : BitVec 5) (g : BitVec 5) (n : BitVec 2) (k : BitVec 3) (m : BitVec 2) : Statement (.viota v g n k m) := by
  intro _
  refine one 2 51 0 [(v.toNat, 15), (g.toNat, 10), (n.toNat, 5), (k.toNat, 2), (m.toNat, 0)] (.viota v g n k m) (by decide) (by decide) (shape39_lt v g n k m) (fun _ => rfl) ?_
  intro W hE hO hw
  obtain ⟨f0, f1, f2, f3, f4, f5⟩ := shape39 v g n k m W hw
  rw [in2 W _ hE]; unfold decodeVec; rw [hO]
  show dec1 W (.viota (fld W 15 5) (fld W 10 5) (fld W 5 2) (fld W 2 3) (fld W 0 2)) (nz W 7 3) = _
  rw [f0, f1, f2, f3, f4, f5]

theorem vrdot (v : BitVec 5) (a : BitVec 5) (b : BitVec 5) (k : BitVec 3) (m : BitVec 2) : Statement (.vrdot v a b k m) := by
  intro _
  refine one 2 52 0 [(v.toNat, 15), (a.toNat, 10), (b.toNat, 5), (k.toNat, 2), (m.toNat, 0)] (.vrdot v a b k m) (by decide) (by decide) (shape31_lt v a b k m) (fun _ => rfl) ?_
  intro W hE hO hw
  obtain ⟨f0, f1, f2, f3, f4⟩ := shape31 v a b k m W hw
  rw [in2 W _ hE]; unfold decodeVec; rw [hO]
  show dec1 W (.vrdot (fld W 15 5) (fld W 10 5) (fld W 5 5) (fld W 2 3) (fld W 0 2)) (false) = _
  rw [f0, f1, f2, f3, f4]

theorem vclamp (v : BitVec 5) (a : BitVec 5) (b : BitVec 5) (k : BitVec 3) (m : BitVec 2) : Statement (.vclamp v a b k m) := by
  intro _
  refine one 2 53 0 [(v.toNat, 15), (a.toNat, 10), (b.toNat, 5), (k.toNat, 2), (m.toNat, 0)] (.vclamp v a b k m) (by decide) (by decide) (shape31_lt v a b k m) (fun _ => rfl) ?_
  intro W hE hO hw
  obtain ⟨f0, f1, f2, f3, f4⟩ := shape31 v a b k m W hw
  rw [in2 W _ hE]; unfold decodeVec; rw [hO]
  show dec1 W (.vclamp (fld W 15 5) (fld W 10 5) (fld W 5 5) (fld W 2 3) (fld W 0 2)) (false) = _
  rw [f0, f1, f2, f3, f4]

theorem xlt (h : BitVec 4) (g : BitVec 6) : Statement (.xlt h g) := by
  intro _
  refine one 3 2 0 [(h.toNat, 14), (g.toNat, 8)] (.xlt h g) (by decide) (by decide) (shape40_lt h g) (fun _ => rfl) ?_
  intro W hE hO hw
  obtain ⟨hc, f0, f1, f2, f3⟩ := shape40 h g W hw
  rw [in3 W _ hE]; unfold decodeMem; rw [hO]
  show (if W % 2 = 1 then _ else _) = _
  rw [if_neg hc]
  show dec1 W (.xlt (fld W 14 4) (fld W 8 6)) (nz W 1 7 || nz W 18 2) = _
  rw [f0, f1, f2, f3]
  try rfl

theorem xltNw (h : BitVec 4) (g : BitVec 6) : Statement (.xltNw h g) := by
  intro _
  refine one 3 2 1 [(h.toNat, 14), (g.toNat, 8)] (.xltNw h g) (by decide) (by decide) (shape41_lt h g) (fun _ => rfl) ?_
  intro W hE hO hw
  obtain ⟨hc, f0, f1, f2, f3⟩ := shape41 h g W hw
  rw [in3 W _ hE]; unfold decodeMem; rw [hO]
  show (if W % 2 = 1 then _ else _) = _
  rw [if_pos hc]
  show dec1 W (.xltNw (fld W 14 4) (fld W 8 6)) (nz W 1 7 || nz W 18 2) = _
  rw [f0, f1, f2, f3]
  try rfl

theorem hrel (h : BitVec 4) : Statement (.hrel h) := by
  intro _
  refine one 3 3 0 [(h.toNat, 14)] (.hrel h) (by decide) (by decide) (shape42_lt h) (fun _ => rfl) ?_
  intro W hE hO hw
  obtain ⟨f0, f1, f2⟩ := shape42 h W hw
  rw [in3 W _ hE]; unfold decodeMem; rw [hO]
  show dec1 W (.hrel (fld W 14 4)) (nz W 0 14 || nz W 18 2) = _
  rw [f0, f1, f2]
  try rfl

theorem hchk (p : BitVec 4) (h : BitVec 4) : Statement (.hchk p h) := by
  intro _
  refine one 3 4 0 [(p.toNat, 14), (h.toNat, 8)] (.hchk p h) (by decide) (by decide) (shape43_lt p h) (fun _ => rfl) ?_
  intro W hE hO hw
  obtain ⟨f0, f1, f2, f3, f4⟩ := shape43 p h W hw
  rw [in3 W _ hE]; unfold decodeMem; rw [hO]
  show dec1 W (.hchk (fld W 14 4) (fld W 8 4)) (nz W 0 8 || nz W 12 2 || nz W 18 2) = _
  rw [f0, f1, f2, f3, f4]
  try rfl

theorem hinfo (g : BitVec 6) (h : BitVec 4) (s : BitVec 2) : Statement (.hinfo g h s) := by
  intro _
  refine one 3 5 0 [(g.toNat, 14), (h.toNat, 8), (s.toNat, 2)] (.hinfo g h s) (by decide) (by decide) (shape44_lt g h s) (fun _ => rfl) ?_
  intro W hE hO hw
  obtain ⟨f0, f1, f2, f3, f4, f5⟩ := shape44 g h s W hw
  rw [in3 W _ hE]; unfold decodeMem; rw [hO]
  show dec1 W (.hinfo (fld W 14 6) (fld W 8 4) (fld W 2 2)) (nz W 0 2 || nz W 4 4 || nz W 12 2) = _
  rw [f0, f1, f2, f3, f4, f5]
  try rfl

theorem lds (v : BitVec 5) (b : BitVec 6) (c : BitVec 6) : Statement (.lds v b c) := by
  intro _
  refine one 3 6 0 [(v.toNat, 14), (b.toNat, 8), (c.toNat, 2)] (.lds v b c) (by decide) (by decide) (shape45_lt v b c) (fun _ => rfl) ?_
  intro W hE hO hw
  obtain ⟨f0, f1, f2, f3, f4⟩ := shape45 v b c W hw
  rw [in3 W _ hE]; unfold decodeMem; rw [hO]
  show dec1 W (.lds (fld W 14 5) (fld W 8 6) (fld W 2 6)) (nz W 19 1) (nz W 0 2) = _
  rw [f0, f1, f2, f3, f4]
  try rfl

theorem sts (v : BitVec 5) (b : BitVec 6) (c : BitVec 6) : Statement (.sts v b c) := by
  intro _
  refine one 3 7 0 [(v.toNat, 14), (b.toNat, 8), (c.toNat, 2)] (.sts v b c) (by decide) (by decide) (shape45_lt v b c) (fun _ => rfl) ?_
  intro W hE hO hw
  obtain ⟨f0, f1, f2, f3, f4⟩ := shape45 v b c W hw
  rw [in3 W _ hE]; unfold decodeMem; rw [hO]
  show dec1 W (.sts (fld W 14 5) (fld W 8 6) (fld W 2 6)) (nz W 19 1) (nz W 0 2) = _
  rw [f0, f1, f2, f3, f4]
  try rfl

theorem ldsg (g : BitVec 6) (b : BitVec 6) (c : BitVec 6) : Statement (.ldsg g b c) := by
  intro _
  refine one 3 8 0 [(g.toNat, 14), (b.toNat, 8), (c.toNat, 2)] (.ldsg g b c) (by decide) (by decide) (shape11_lt g b c) (fun _ => rfl) ?_
  intro W hE hO hw
  obtain ⟨f0, f1, f2, f3⟩ := shape11 g b c W hw
  rw [in3 W _ hE]; unfold decodeMem; rw [hO]
  show dec1 W (.ldsg (fld W 14 6) (fld W 8 6) (fld W 2 6)) (false) (nz W 0 2) = _
  rw [f0, f1, f2, f3]

theorem stsg (g : BitVec 6) (b : BitVec 6) (c : BitVec 6) : Statement (.stsg g b c) := by
  intro _
  refine one 3 9 0 [(g.toNat, 14), (b.toNat, 8), (c.toNat, 2)] (.stsg g b c) (by decide) (by decide) (shape11_lt g b c) (fun _ => rfl) ?_
  intro W hE hO hw
  obtain ⟨f0, f1, f2, f3⟩ := shape11 g b c W hw
  rw [in3 W _ hE]; unfold decodeMem; rw [hO]
  show dec1 W (.stsg (fld W 14 6) (fld W 8 6) (fld W 2 6)) (false) (nz W 0 2) = _
  rw [f0, f1, f2, f3]

theorem ldg (r : BitVec 1) (v : BitVec 5) (h : BitVec 4) (c : BitVec 6) (m : BitVec 2) : Statement (.ldg r v h c m) := by
  intro hf
  have hm : m.toNat < 3 := of_decide_eq_true hf
  refine one 3 10 0 [(r.toNat, 19), (v.toNat, 14), (h.toNat, 8), (c.toNat, 2), (m.toNat, 0)] (.ldg r v h c m) (by decide) (by decide) (shape46_lt r v h c m) (fun _ => rfl) ?_
  intro W hE hO hw
  obtain ⟨hc, f0, f1, f2, f3, f4, f5⟩ := shape46 r v h c m W hm hw
  rw [in3 W _ hE]; unfold decodeMem; rw [hO]
  show (if W % 4 = 3 then _ else _) = _
  rw [if_neg hc]
  show dec1 W (.ldg (fld W 19 1) (fld W 14 5) (fld W 8 4) (fld W 2 6) (fld W 0 2)) (nz W 12 2) = _
  rw [f0, f1, f2, f3, f4, f5]

theorem ldgUnt (r : BitVec 1) (v : BitVec 5) (h : BitVec 4) (c : BitVec 6) (lat : BitVec 29) : Statement (.ldgUnt r v h c lat) := by
  intro _
  refine two 3 10 3 [(r.toNat, 19), (v.toNat, 14), (h.toNat, 8), (c.toNat, 2)] [(lat.toNat, 0)] (.ldgUnt r v h c lat) (by decide) (by decide) (shape47_lt r v h c lat).1
    (shape47_lt r v h c lat).2 (fun _ => rfl) ?_
  intro W L hE hO hw hl hL
  obtain ⟨hc, f0, f1, f2, f3, f4, f5⟩ := shape47 r v h c lat W L hw hL
  rw [in3 W _ hE]; unfold decodeMem; rw [hO]
  show (if W % 4 = 3 then _ else _) = _
  rw [if_pos hc]
  refine (dec2_ok W L _ (hl.trans hE.symm)).trans ?_
  show (Except.ok ({ ins := .ldgUnt (fld W 19 1) (fld W 14 5) (fld W 8 4) (fld W 2 6) (fld L 0 29), eng := engOf W, dly := dlyOf W, len := 2, rsvd := nz W 12 2, fb := false } : Decoded) : Except Reject Decoded) = _
  rw [f0, f1, f2, f3, f4, f5]

theorem stg (r : BitVec 1) (v : BitVec 5) (h : BitVec 4) (c : BitVec 6) (m : BitVec 2) : Statement (.stg r v h c m) := by
  intro hf
  have hm : m.toNat < 3 := of_decide_eq_true hf
  refine one 3 11 0 [(r.toNat, 19), (v.toNat, 14), (h.toNat, 8), (c.toNat, 2), (m.toNat, 0)] (.stg r v h c m) (by decide) (by decide) (shape46_lt r v h c m) (fun _ => rfl) ?_
  intro W hE hO hw
  obtain ⟨hc, f0, f1, f2, f3, f4, f5⟩ := shape46 r v h c m W hm hw
  rw [in3 W _ hE]; unfold decodeMem; rw [hO]
  show (if W % 4 = 3 then _ else _) = _
  rw [if_neg hc]
  show dec1 W (.stg (fld W 19 1) (fld W 14 5) (fld W 8 4) (fld W 2 6) (fld W 0 2)) (nz W 12 2) = _
  rw [f0, f1, f2, f3, f4, f5]

theorem stgUnt (r : BitVec 1) (v : BitVec 5) (h : BitVec 4) (c : BitVec 6) (lat : BitVec 29) : Statement (.stgUnt r v h c lat) := by
  intro _
  refine two 3 11 3 [(r.toNat, 19), (v.toNat, 14), (h.toNat, 8), (c.toNat, 2)] [(lat.toNat, 0)] (.stgUnt r v h c lat) (by decide) (by decide) (shape47_lt r v h c lat).1
    (shape47_lt r v h c lat).2 (fun _ => rfl) ?_
  intro W L hE hO hw hl hL
  obtain ⟨hc, f0, f1, f2, f3, f4, f5⟩ := shape47 r v h c lat W L hw hL
  rw [in3 W _ hE]; unfold decodeMem; rw [hO]
  show (if W % 4 = 3 then _ else _) = _
  rw [if_pos hc]
  refine (dec2_ok W L _ (hl.trans hE.symm)).trans ?_
  show (Except.ok ({ ins := .stgUnt (fld W 19 1) (fld W 14 5) (fld W 8 4) (fld W 2 6) (fld L 0 29), eng := engOf W, dly := dlyOf W, len := 2, rsvd := nz W 12 2, fb := false } : Decoded) : Except Reject Decoded) = _
  rw [f0, f1, f2, f3, f4, f5]

theorem ldgs (r : BitVec 1) (g : BitVec 5) (h : BitVec 4) (c : BitVec 6) (m : BitVec 2) : Statement (.ldgs r g h c m) := by
  intro hf
  have hm : m.toNat < 3 := of_decide_eq_true hf
  refine one 3 12 0 [(r.toNat, 19), (g.toNat, 14), (h.toNat, 8), (c.toNat, 2), (m.toNat, 0)] (.ldgs r g h c m) (by decide) (by decide) (shape46_lt r g h c m) (fun _ => rfl) ?_
  intro W hE hO hw
  obtain ⟨hc, f0, f1, f2, f3, f4, f5⟩ := shape46 r g h c m W hm hw
  rw [in3 W _ hE]; unfold decodeMem; rw [hO]
  show (if W % 4 = 3 then _ else _) = _
  rw [if_neg hc]
  show dec1 W (.ldgs (fld W 19 1) (fld W 14 5) (fld W 8 4) (fld W 2 6) (fld W 0 2)) (nz W 12 2) = _
  rw [f0, f1, f2, f3, f4, f5]

theorem ldgsUnt (r : BitVec 1) (g : BitVec 5) (h : BitVec 4) (c : BitVec 6) (lat : BitVec 29) : Statement (.ldgsUnt r g h c lat) := by
  intro _
  refine two 3 12 3 [(r.toNat, 19), (g.toNat, 14), (h.toNat, 8), (c.toNat, 2)] [(lat.toNat, 0)] (.ldgsUnt r g h c lat) (by decide) (by decide) (shape47_lt r g h c lat).1
    (shape47_lt r g h c lat).2 (fun _ => rfl) ?_
  intro W L hE hO hw hl hL
  obtain ⟨hc, f0, f1, f2, f3, f4, f5⟩ := shape47 r g h c lat W L hw hL
  rw [in3 W _ hE]; unfold decodeMem; rw [hO]
  show (if W % 4 = 3 then _ else _) = _
  rw [if_pos hc]
  refine (dec2_ok W L _ (hl.trans hE.symm)).trans ?_
  show (Except.ok ({ ins := .ldgsUnt (fld W 19 1) (fld W 14 5) (fld W 8 4) (fld W 2 6) (fld L 0 29), eng := engOf W, dly := dlyOf W, len := 2, rsvd := nz W 12 2, fb := false } : Decoded) : Except Reject Decoded) = _
  rw [f0, f1, f2, f3, f4, f5]

theorem stgs (r : BitVec 1) (g : BitVec 5) (h : BitVec 4) (c : BitVec 6) (m : BitVec 2) : Statement (.stgs r g h c m) := by
  intro hf
  have hm : m.toNat < 3 := of_decide_eq_true hf
  refine one 3 13 0 [(r.toNat, 19), (g.toNat, 14), (h.toNat, 8), (c.toNat, 2), (m.toNat, 0)] (.stgs r g h c m) (by decide) (by decide) (shape46_lt r g h c m) (fun _ => rfl) ?_
  intro W hE hO hw
  obtain ⟨hc, f0, f1, f2, f3, f4, f5⟩ := shape46 r g h c m W hm hw
  rw [in3 W _ hE]; unfold decodeMem; rw [hO]
  show (if W % 4 = 3 then _ else _) = _
  rw [if_neg hc]
  show dec1 W (.stgs (fld W 19 1) (fld W 14 5) (fld W 8 4) (fld W 2 6) (fld W 0 2)) (nz W 12 2) = _
  rw [f0, f1, f2, f3, f4, f5]

theorem stgsUnt (r : BitVec 1) (g : BitVec 5) (h : BitVec 4) (c : BitVec 6) (lat : BitVec 29) : Statement (.stgsUnt r g h c lat) := by
  intro _
  refine two 3 13 3 [(r.toNat, 19), (g.toNat, 14), (h.toNat, 8), (c.toNat, 2)] [(lat.toNat, 0)] (.stgsUnt r g h c lat) (by decide) (by decide) (shape47_lt r g h c lat).1
    (shape47_lt r g h c lat).2 (fun _ => rfl) ?_
  intro W L hE hO hw hl hL
  obtain ⟨hc, f0, f1, f2, f3, f4, f5⟩ := shape47 r g h c lat W L hw hL
  rw [in3 W _ hE]; unfold decodeMem; rw [hO]
  show (if W % 4 = 3 then _ else _) = _
  rw [if_pos hc]
  refine (dec2_ok W L _ (hl.trans hE.symm)).trans ?_
  show (Except.ok ({ ins := .stgsUnt (fld W 19 1) (fld W 14 5) (fld W 8 4) (fld W 2 6) (fld L 0 29), eng := engOf W, dly := dlyOf W, len := 2, rsvd := nz W 12 2, fb := false } : Decoded) : Except Reject Decoded) = _
  rw [f0, f1, f2, f3, f4, f5]

theorem ldt (r : BitVec 1) (v : BitVec 5) (h : BitVec 4) (c : BitVec 6) (m : BitVec 2) : Statement (.ldt r v h c m) := by
  intro hf
  have hm : m.toNat < 3 := of_decide_eq_true hf
  refine one 3 14 0 [(r.toNat, 19), (v.toNat, 14), (h.toNat, 8), (c.toNat, 2), (m.toNat, 0)] (.ldt r v h c m) (by decide) (by decide) (shape46_lt r v h c m) (fun _ => rfl) ?_
  intro W hE hO hw
  obtain ⟨hc, f0, f1, f2, f3, f4, f5⟩ := shape46 r v h c m W hm hw
  rw [in3 W _ hE]; unfold decodeMem; rw [hO]
  show (if W % 4 = 3 then _ else _) = _
  rw [if_neg hc]
  show dec1 W (.ldt (fld W 19 1) (fld W 14 5) (fld W 8 4) (fld W 2 6) (fld W 0 2)) (nz W 12 2) = _
  rw [f0, f1, f2, f3, f4, f5]

theorem ldtUnt (r : BitVec 1) (v : BitVec 5) (h : BitVec 4) (c : BitVec 6) (lat : BitVec 29) : Statement (.ldtUnt r v h c lat) := by
  intro _
  refine two 3 14 3 [(r.toNat, 19), (v.toNat, 14), (h.toNat, 8), (c.toNat, 2)] [(lat.toNat, 0)] (.ldtUnt r v h c lat) (by decide) (by decide) (shape47_lt r v h c lat).1
    (shape47_lt r v h c lat).2 (fun _ => rfl) ?_
  intro W L hE hO hw hl hL
  obtain ⟨hc, f0, f1, f2, f3, f4, f5⟩ := shape47 r v h c lat W L hw hL
  rw [in3 W _ hE]; unfold decodeMem; rw [hO]
  show (if W % 4 = 3 then _ else _) = _
  rw [if_pos hc]
  refine (dec2_ok W L _ (hl.trans hE.symm)).trans ?_
  show (Except.ok ({ ins := .ldtUnt (fld W 19 1) (fld W 14 5) (fld W 8 4) (fld W 2 6) (fld L 0 29), eng := engOf W, dly := dlyOf W, len := 2, rsvd := nz W 12 2, fb := false } : Decoded) : Except Reject Decoded) = _
  rw [f0, f1, f2, f3, f4, f5]

theorem stq (r : BitVec 1) (v : BitVec 5) (h : BitVec 4) (c : BitVec 6) (m : BitVec 2) : Statement (.stq r v h c m) := by
  intro hf
  have hm : m.toNat < 3 := of_decide_eq_true hf
  refine one 3 15 0 [(r.toNat, 19), (v.toNat, 14), (h.toNat, 8), (c.toNat, 2), (m.toNat, 0)] (.stq r v h c m) (by decide) (by decide) (shape46_lt r v h c m) (fun _ => rfl) ?_
  intro W hE hO hw
  obtain ⟨hc, f0, f1, f2, f3, f4, f5⟩ := shape46 r v h c m W hm hw
  rw [in3 W _ hE]; unfold decodeMem; rw [hO]
  show (if W % 4 = 3 then _ else _) = _
  rw [if_neg hc]
  show dec1 W (.stq (fld W 19 1) (fld W 14 5) (fld W 8 4) (fld W 2 6) (fld W 0 2)) (nz W 12 2) = _
  rw [f0, f1, f2, f3, f4, f5]

theorem stqUnt (r : BitVec 1) (v : BitVec 5) (h : BitVec 4) (c : BitVec 6) (lat : BitVec 29) : Statement (.stqUnt r v h c lat) := by
  intro _
  refine two 3 15 3 [(r.toNat, 19), (v.toNat, 14), (h.toNat, 8), (c.toNat, 2)] [(lat.toNat, 0)] (.stqUnt r v h c lat) (by decide) (by decide) (shape47_lt r v h c lat).1
    (shape47_lt r v h c lat).2 (fun _ => rfl) ?_
  intro W L hE hO hw hl hL
  obtain ⟨hc, f0, f1, f2, f3, f4, f5⟩ := shape47 r v h c lat W L hw hL
  rw [in3 W _ hE]; unfold decodeMem; rw [hO]
  show (if W % 4 = 3 then _ else _) = _
  rw [if_pos hc]
  refine (dec2_ok W L _ (hl.trans hE.symm)).trans ?_
  show (Except.ok ({ ins := .stqUnt (fld W 19 1) (fld W 14 5) (fld W 8 4) (fld W 2 6) (fld L 0 29), eng := engOf W, dly := dlyOf W, len := 2, rsvd := nz W 12 2, fb := false } : Decoded) : Except Reject Decoded) = _
  rw [f0, f1, f2, f3, f4, f5]

theorem stnt (r : BitVec 1) (v : BitVec 5) (h : BitVec 4) (c : BitVec 6) (m : BitVec 2) : Statement (.stnt r v h c m) := by
  intro hf
  have hm : m.toNat < 3 := of_decide_eq_true hf
  refine one 3 16 0 [(r.toNat, 19), (v.toNat, 14), (h.toNat, 8), (c.toNat, 2), (m.toNat, 0)] (.stnt r v h c m) (by decide) (by decide) (shape46_lt r v h c m) (fun _ => rfl) ?_
  intro W hE hO hw
  obtain ⟨hc, f0, f1, f2, f3, f4, f5⟩ := shape46 r v h c m W hm hw
  rw [in3 W _ hE]; unfold decodeMem; rw [hO]
  show (if W % 4 = 3 then _ else _) = _
  rw [if_neg hc]
  show dec1 W (.stnt (fld W 19 1) (fld W 14 5) (fld W 8 4) (fld W 2 6) (fld W 0 2)) (nz W 12 2) = _
  rw [f0, f1, f2, f3, f4, f5]

theorem stntUnt (r : BitVec 1) (v : BitVec 5) (h : BitVec 4) (c : BitVec 6) (lat : BitVec 29) : Statement (.stntUnt r v h c lat) := by
  intro _
  refine two 3 16 3 [(r.toNat, 19), (v.toNat, 14), (h.toNat, 8), (c.toNat, 2)] [(lat.toNat, 0)] (.stntUnt r v h c lat) (by decide) (by decide) (shape47_lt r v h c lat).1
    (shape47_lt r v h c lat).2 (fun _ => rfl) ?_
  intro W L hE hO hw hl hL
  obtain ⟨hc, f0, f1, f2, f3, f4, f5⟩ := shape47 r v h c lat W L hw hL
  rw [in3 W _ hE]; unfold decodeMem; rw [hO]
  show (if W % 4 = 3 then _ else _) = _
  rw [if_pos hc]
  refine (dec2_ok W L _ (hl.trans hE.symm)).trans ?_
  show (Except.ok ({ ins := .stntUnt (fld W 19 1) (fld W 14 5) (fld W 8 4) (fld W 2 6) (fld L 0 29), eng := engOf W, dly := dlyOf W, len := 2, rsvd := nz W 12 2, fb := false } : Decoded) : Except Reject Decoded) = _
  rw [f0, f1, f2, f3, f4, f5]

theorem pfl (h : BitVec 4) (b : BitVec 6) (c : BitVec 6) : Statement (.pfl h b c) := by
  intro _
  refine one 3 18 0 [(h.toNat, 14), (b.toNat, 8), (c.toNat, 2)] (.pfl h b c) (by decide) (by decide) (shape17_lt h b c) (fun _ => rfl) ?_
  intro W hE hO hw
  obtain ⟨f0, f1, f2, f3, f4⟩ := shape17 h b c W hw
  rw [in3 W _ hE]; unfold decodeMem; rw [hO]
  show dec1 W (.pfl (fld W 14 4) (fld W 8 6) (fld W 2 6)) (nz W 0 2 || nz W 18 2) = _
  rw [f0, f1, f2, f3, f4]
  try rfl

theorem cwbr (h : BitVec 4) (b : BitVec 6) (c : BitVec 6) : Statement (.cwbr h b c) := by
  intro _
  refine one 3 19 0 [(h.toNat, 14), (b.toNat, 8), (c.toNat, 2)] (.cwbr h b c) (by decide) (by decide) (shape17_lt h b c) (fun _ => rfl) ?_
  intro W hE hO hw
  obtain ⟨f0, f1, f2, f3, f4⟩ := shape17 h b c W hw
  rw [in3 W _ hE]; unfold decodeMem; rw [hO]
  show dec1 W (.cwbr (fld W 14 4) (fld W 8 6) (fld W 2 6)) (nz W 0 2 || nz W 18 2) = _
  rw [f0, f1, f2, f3, f4]
  try rfl

theorem cinvr (h : BitVec 4) (b : BitVec 6) (c : BitVec 6) : Statement (.cinvr h b c) := by
  intro _
  refine one 3 20 0 [(h.toNat, 14), (b.toNat, 8), (c.toNat, 2)] (.cinvr h b c) (by decide) (by decide) (shape17_lt h b c) (fun _ => rfl) ?_
  intro W hE hO hw
  obtain ⟨f0, f1, f2, f3, f4⟩ := shape17 h b c W hw
  rw [in3 W _ hE]; unfold decodeMem; rw [hO]
  show dec1 W (.cinvr (fld W 14 4) (fld W 8 6) (fld W 2 6)) (nz W 0 2 || nz W 18 2) = _
  rw [f0, f1, f2, f3, f4]
  try rfl

theorem rpin (n : BitVec 3) (h : BitVec 4) (g : BitVec 6) : Statement (.rpin n h g) := by
  intro _
  refine one 3 21 0 [(n.toNat, 14), (h.toNat, 8), (g.toNat, 2)] (.rpin n h g) (by decide) (by decide) (shape48_lt n h g) (fun _ => rfl) ?_
  intro W hE hO hw
  obtain ⟨f0, f1, f2, f3, f4, f5⟩ := shape48 n h g W hw
  rw [in3 W _ hE]; unfold decodeMem; rw [hO]
  show dec1 W (.rpin (fld W 14 3) (fld W 8 4) (fld W 2 6)) (nz W 0 2 || nz W 12 2 || nz W 17 3) = _
  rw [f0, f1, f2, f3, f4, f5]
  try rfl

theorem runpin (n : BitVec 3) (h : BitVec 4) : Statement (.runpin n h) := by
  intro _
  refine one 3 22 0 [(n.toNat, 14), (h.toNat, 8)] (.runpin n h) (by decide) (by decide) (shape49_lt n h) (fun _ => rfl) ?_
  intro W hE hO hw
  obtain ⟨f0, f1, f2, f3, f4⟩ := shape49 n h W hw
  rw [in3 W _ hE]; unfold decodeMem; rw [hO]
  show dec1 W (.runpin (fld W 14 3) (fld W 8 4)) (nz W 0 8 || nz W 12 2 || nz W 17 3) = _
  rw [f0, f1, f2, f3, f4]
  try rfl

theorem ldge (r : BitVec 1) (v : BitVec 5) (h : BitVec 4) (c : BitVec 6) (m : BitVec 2) : Statement (.ldge r v h c m) := by
  intro hf
  have hm : m.toNat < 3 := of_decide_eq_true hf
  refine one 3 23 0 [(r.toNat, 19), (v.toNat, 14), (h.toNat, 8), (c.toNat, 2), (m.toNat, 0)] (.ldge r v h c m) (by decide) (by decide) (shape46_lt r v h c m) (fun _ => rfl) ?_
  intro W hE hO hw
  obtain ⟨hc, f0, f1, f2, f3, f4, f5⟩ := shape46 r v h c m W hm hw
  rw [in3 W _ hE]; unfold decodeMem; rw [hO]
  show (if W % 4 = 3 then _ else _) = _
  rw [if_neg hc]
  show dec1 W (.ldge (fld W 19 1) (fld W 14 5) (fld W 8 4) (fld W 2 6) (fld W 0 2)) (nz W 12 2) = _
  rw [f0, f1, f2, f3, f4, f5]

theorem ldgeUnt (r : BitVec 1) (v : BitVec 5) (h : BitVec 4) (c : BitVec 6) (lat : BitVec 29) : Statement (.ldgeUnt r v h c lat) := by
  intro _
  refine two 3 23 3 [(r.toNat, 19), (v.toNat, 14), (h.toNat, 8), (c.toNat, 2)] [(lat.toNat, 0)] (.ldgeUnt r v h c lat) (by decide) (by decide) (shape47_lt r v h c lat).1
    (shape47_lt r v h c lat).2 (fun _ => rfl) ?_
  intro W L hE hO hw hl hL
  obtain ⟨hc, f0, f1, f2, f3, f4, f5⟩ := shape47 r v h c lat W L hw hL
  rw [in3 W _ hE]; unfold decodeMem; rw [hO]
  show (if W % 4 = 3 then _ else _) = _
  rw [if_pos hc]
  refine (dec2_ok W L _ (hl.trans hE.symm)).trans ?_
  show (Except.ok ({ ins := .ldgeUnt (fld W 19 1) (fld W 14 5) (fld W 8 4) (fld W 2 6) (fld L 0 29), eng := engOf W, dly := dlyOf W, len := 2, rsvd := nz W 12 2, fb := false } : Decoded) : Except Reject Decoded) = _
  rw [f0, f1, f2, f3, f4, f5]

theorem ldte (r : BitVec 1) (v : BitVec 5) (h : BitVec 4) (c : BitVec 6) (m : BitVec 2) : Statement (.ldte r v h c m) := by
  intro hf
  have hm : m.toNat < 3 := of_decide_eq_true hf
  refine one 3 24 0 [(r.toNat, 19), (v.toNat, 14), (h.toNat, 8), (c.toNat, 2), (m.toNat, 0)] (.ldte r v h c m) (by decide) (by decide) (shape46_lt r v h c m) (fun _ => rfl) ?_
  intro W hE hO hw
  obtain ⟨hc, f0, f1, f2, f3, f4, f5⟩ := shape46 r v h c m W hm hw
  rw [in3 W _ hE]; unfold decodeMem; rw [hO]
  show (if W % 4 = 3 then _ else _) = _
  rw [if_neg hc]
  show dec1 W (.ldte (fld W 19 1) (fld W 14 5) (fld W 8 4) (fld W 2 6) (fld W 0 2)) (nz W 12 2) = _
  rw [f0, f1, f2, f3, f4, f5]

theorem ldteUnt (r : BitVec 1) (v : BitVec 5) (h : BitVec 4) (c : BitVec 6) (lat : BitVec 29) : Statement (.ldteUnt r v h c lat) := by
  intro _
  refine two 3 24 3 [(r.toNat, 19), (v.toNat, 14), (h.toNat, 8), (c.toNat, 2)] [(lat.toNat, 0)] (.ldteUnt r v h c lat) (by decide) (by decide) (shape47_lt r v h c lat).1
    (shape47_lt r v h c lat).2 (fun _ => rfl) ?_
  intro W L hE hO hw hl hL
  obtain ⟨hc, f0, f1, f2, f3, f4, f5⟩ := shape47 r v h c lat W L hw hL
  rw [in3 W _ hE]; unfold decodeMem; rw [hO]
  show (if W % 4 = 3 then _ else _) = _
  rw [if_pos hc]
  refine (dec2_ok W L _ (hl.trans hE.symm)).trans ?_
  show (Except.ok ({ ins := .ldteUnt (fld W 19 1) (fld W 14 5) (fld W 8 4) (fld W 2 6) (fld L 0 29), eng := engOf W, dly := dlyOf W, len := 2, rsvd := nz W 12 2, fb := false } : Decoded) : Except Reject Decoded) = _
  rw [f0, f1, f2, f3, f4, f5]

theorem mcfg (l : BitVec 3) (g : BitVec 6) (f : BitVec 3) : Statement (.mcfg l g f) := by
  intro _
  refine one 4 2 0 [(l.toNat, 14), (g.toNat, 8), (f.toNat, 2)] (.mcfg l g f) (by decide) (by decide) (shape50_lt l g f) (fun _ => rfl) ?_
  intro W hE hO hw
  obtain ⟨f0, f1, f2, f3, f4, f5⟩ := shape50 l g f W hw
  rw [in4 W _ hE]; unfold decodeMat; rw [hO]
  show dec1 W (.mcfg (fld W 14 3) (fld W 8 6) (fld W 2 3)) (nz W 0 2 || nz W 5 3 || nz W 17 3) = _
  rw [f0, f1, f2, f3, f4, f5]
  try rfl

theorem mcfgi (l : BitVec 3) (grp : BitVec 2) (val : BitVec 20) : Statement (.mcfgi l grp val) := by
  intro _
  refine two 4 3 0 [(l.toNat, 14), (grp.toNat, 0)] [(val.toNat, 0)] (.mcfgi l grp val) (by decide) (by decide) (shape51_lt l grp val).1
    (shape51_lt l grp val).2 (fun _ => rfl) ?_
  intro W L hE hO hw hl hL
  obtain ⟨f0, f1, f2, f3, f4, f5⟩ := shape51 l grp val W L hw hL
  rw [in4 W _ hE]; unfold decodeMat; rw [hO]
  refine (dec2_ok W L _ (hl.trans hE.symm)).trans ?_
  show (Except.ok ({ ins := .mcfgi (fld W 14 3) (fld W 0 2) (fld L 0 20), eng := engOf W, dly := dlyOf W, len := 2, rsvd := nz W 17 3 || nz W 2 12 || nz L 20 9, fb := false } : Decoded) : Except Reject Decoded) = _
  rw [f0, f1, f2, f3, f4, f5]
  try rfl

theorem msrc (k : BitVec 3) (r : BitVec 2) (u : BitVec 6) (i : BitVec 8) : Statement (.msrc k r u i) := by
  intro _
  refine one 4 4 0 [(k.toNat, 16), (r.toNat, 14), (u.toNat, 8), (i.toNat, 0)] (.msrc k r u i) (by decide) (by decide) (shape52_lt k r u i) (fun _ => rfl) ?_
  intro W hE hO hw
  obtain ⟨f0, f1, f2, f3, f4⟩ := shape52 k r u i W hw
  rw [in4 W _ hE]; unfold decodeMat; rw [hO]
  show dec1 W (.msrc (fld W 16 3) (fld W 14 2) (fld W 8 6) (fld W 0 8)) (nz W 19 1) = _
  rw [f0, f1, f2, f3, f4]

theorem mfmt (a : BitVec 4) (b : BitVec 4) (f : BitVec 4) (q : BitVec 4) : Statement (.mfmt a b f q) := by
  intro _
  refine one 4 5 0 [(a.toNat, 14), (b.toNat, 8), (f.toNat, 4), (q.toNat, 0)] (.mfmt a b f q) (by decide) (by decide) (shape53_lt a b f q) (fun _ => rfl) ?_
  intro W hE hO hw
  obtain ⟨f0, f1, f2, f3, f4, f5⟩ := shape53 a b f q W hw
  rw [in4 W _ hE]; unfold decodeMat; rw [hO]
  show dec1 W (.mfmt (fld W 14 4) (fld W 8 4) (fld W 4 4) (fld W 0 4)) (nz W 12 2 || nz W 18 2) = _
  rw [f0, f1, f2, f3, f4, f5]
  try rfl

theorem mldb (g : BitVec 6) (q : BitVec 4) : Statement (.mldb g q) := by
  intro _
  refine one 4 6 0 [(g.toNat, 14), (q.toNat, 8)] (.mldb g q) (by decide) (by decide) (shape54_lt g q) (fun _ => rfl) ?_
  intro W hE hO hw
  obtain ⟨f0, f1, f2, f3⟩ := shape54 g q W hw
  rw [in4 W _ hE]; unfold decodeMat; rw [hO]
  show dec1 W (.mldb (fld W 14 6) (fld W 8 4)) (nz W 0 8 || nz W 12 2) = _
  rw [f0, f1, f2, f3]
  try rfl

theorem mclr (a : BitVec 6) (b : BitVec 6) : Statement (.mclr a b) := by
  intro _
  refine one 4 8 0 [(a.toNat, 14), (b.toNat, 8)] (.mclr a b) (by decide) (by decide) (shape14_lt a b) (fun _ => rfl) ?_
  intro W hE hO hw
  obtain ⟨f0, f1, f2⟩ := shape14 a b W hw
  rw [in4 W _ hE]; unfold decodeMat; rw [hO]
  show dec1 W (.mclr (fld W 14 6) (fld W 8 6)) (nz W 0 8) = _
  rw [f0, f1, f2]

theorem mrd (v : BitVec 5) (r : BitVec 6) (c : BitVec 6) (m : BitVec 2) : Statement (.mrd v r c m) := by
  intro _
  refine one 4 9 0 [(v.toNat, 14), (r.toNat, 8), (c.toNat, 2), (m.toNat, 0)] (.mrd v r c m) (by decide) (by decide) (shape55_lt v r c m) (fun _ => rfl) ?_
  intro W hE hO hw
  obtain ⟨f0, f1, f2, f3, f4⟩ := shape55 v r c m W hw
  rw [in4 W _ hE]; unfold decodeMat; rw [hO]
  show dec1 W (.mrd (fld W 14 5) (fld W 8 6) (fld W 2 6) (fld W 0 2)) (nz W 19 1) = _
  rw [f0, f1, f2, f3, f4]

theorem mwr (v : BitVec 5) (r : BitVec 6) (c : BitVec 6) (m : BitVec 2) : Statement (.mwr v r c m) := by
  intro _
  refine one 4 10 0 [(v.toNat, 14), (r.toNat, 8), (c.toNat, 2), (m.toNat, 0)] (.mwr v r c m) (by decide) (by decide) (shape55_lt v r c m) (fun _ => rfl) ?_
  intro W hE hO hw
  obtain ⟨f0, f1, f2, f3, f4⟩ := shape55 v r c m W hw
  rw [in4 W _ hE]; unfold decodeMat; rw [hO]
  show dec1 W (.mwr (fld W 14 5) (fld W 8 6) (fld W 2 6) (fld W 0 2)) (nz W 19 1) = _
  rw [f0, f1, f2, f3, f4]

theorem mfuse (q : BitVec 4) (f : BitVec 1) : Statement (.mfuse q f) := by
  intro _
  refine one 4 11 0 [(q.toNat, 14), (f.toNat, 0)] (.mfuse q f) (by decide) (by decide) (shape56_lt q f) (fun _ => rfl) ?_
  intro W hE hO hw
  obtain ⟨f0, f1, f2, f3⟩ := shape56 q f W hw
  rw [in4 W _ hE]; unfold decodeMat; rw [hO]
  show dec1 W (.mfuse (fld W 14 4) (fld W 0 1)) (nz W 1 13 || nz W 18 2) = _
  rw [f0, f1, f2, f3]
  try rfl

theorem mdur (g : BitVec 6) : Statement (.mdur g) := by
  intro _
  refine one 4 12 0 [(g.toNat, 14)] (.mdur g) (by decide) (by decide) (shape3_lt g) (fun _ => rfl) ?_
  intro W hE hO hw
  obtain ⟨f0, f1⟩ := shape3 g W hw
  rw [in4 W _ hE]; unfold decodeMat; rw [hO]
  show dec1 W (.mdur (fld W 14 6)) (nz W 0 14) = _
  rw [f0, f1]

theorem qpush (p : BitVec 4) (v : BitVec 5) (n : BitVec 2) : Statement (.qpush p v n) := by
  intro _
  refine one 5 2 0 [(p.toNat, 14), (v.toNat, 8), (n.toNat, 2)] (.qpush p v n) (by decide) (by decide) (shape57_lt p v n) (fun _ => rfl) ?_
  intro W hE hO hw
  obtain ⟨f0, f1, f2, f3, f4, f5, f6⟩ := shape57 p v n W hw
  rw [in5 W _ hE]; unfold decodeQue; rw [hO]
  show dec1 W (.qpush (fld W 14 4) (fld W 8 5) (fld W 2 2)) (nz W 0 2 || nz W 4 4 || nz W 13 1 || nz W 18 2) = _
  rw [f0, f1, f2, f3, f4, f5, f6]
  try rfl

theorem qpop (v : BitVec 5) (q : BitVec 4) (n : BitVec 2) : Statement (.qpop v q n) := by
  intro _
  refine one 5 3 0 [(v.toNat, 14), (q.toNat, 8), (n.toNat, 2)] (.qpop v q n) (by decide) (by decide) (shape58_lt v q n) (fun _ => rfl) ?_
  intro W hE hO hw
  obtain ⟨f0, f1, f2, f3, f4, f5, f6⟩ := shape58 v q n W hw
  rw [in5 W _ hE]; unfold decodeQue; rw [hO]
  show dec1 W (.qpop (fld W 14 5) (fld W 8 4) (fld W 2 2)) (nz W 0 2 || nz W 4 4 || nz W 12 2 || nz W 19 1) = _
  rw [f0, f1, f2, f3, f4, f5, f6]
  try rfl

theorem qrsv (p : BitVec 4) (n : BitVec 8) : Statement (.qrsv p n) := by
  intro _
  refine one 5 4 0 [(p.toNat, 14), (n.toNat, 0)] (.qrsv p n) (by decide) (by decide) (shape59_lt p n) (fun _ => rfl) ?_
  intro W hE hO hw
  obtain ⟨f0, f1, f2, f3⟩ := shape59 p n W hw
  rw [in5 W _ hE]; unfold decodeQue; rw [hO]
  show dec1 W (.qrsv (fld W 14 4) (fld W 0 8)) (nz W 8 6 || nz W 18 2) = _
  rw [f0, f1, f2, f3]
  try rfl

theorem qbind (p : BitVec 4) (g : BitVec 6) : Statement (.qbind p g) := by
  intro _
  refine one 5 5 0 [(p.toNat, 14), (g.toNat, 8)] (.qbind p g) (by decide) (by decide) (shape60_lt p g) (fun _ => rfl) ?_
  intro W hE hO hw
  obtain ⟨f0, f1, f2, f3⟩ := shape60 p g W hw
  rw [in5 W _ hE]; unfold decodeQue; rw [hO]
  show dec1 W (.qbind (fld W 14 4) (fld W 8 6)) (nz W 0 8 || nz W 18 2) = _
  rw [f0, f1, f2, f3]
  try rfl

theorem lksend (p : BitVec 4) (v : BitVec 5) (n : BitVec 2) : Statement (.lksend p v n) := by
  intro _
  refine one 5 6 0 [(p.toNat, 14), (v.toNat, 8), (n.toNat, 2)] (.lksend p v n) (by decide) (by decide) (shape57_lt p v n) (fun _ => rfl) ?_
  intro W hE hO hw
  obtain ⟨f0, f1, f2, f3, f4, f5, f6⟩ := shape57 p v n W hw
  rw [in5 W _ hE]; unfold decodeQue; rw [hO]
  show dec1 W (.lksend (fld W 14 4) (fld W 8 5) (fld W 2 2)) (nz W 0 2 || nz W 4 4 || nz W 13 1 || nz W 18 2) = _
  rw [f0, f1, f2, f3, f4, f5, f6]
  try rfl

theorem lkrecv (v : BitVec 5) (q : BitVec 4) (n : BitVec 2) : Statement (.lkrecv v q n) := by
  intro _
  refine one 5 7 0 [(v.toNat, 14), (q.toNat, 8), (n.toNat, 2)] (.lkrecv v q n) (by decide) (by decide) (shape58_lt v q n) (fun _ => rfl) ?_
  intro W hE hO hw
  obtain ⟨f0, f1, f2, f3, f4, f5, f6⟩ := shape58 v q n W hw
  rw [in5 W _ hE]; unfold decodeQue; rw [hO]
  show dec1 W (.lkrecv (fld W 14 5) (fld W 8 4) (fld W 2 2)) (nz W 0 2 || nz W 4 4 || nz W 12 2 || nz W 19 1) = _
  rw [f0, f1, f2, f3, f4, f5, f6]
  try rfl

theorem lkbind (p : BitVec 4) (g : BitVec 6) : Statement (.lkbind p g) := by
  intro _
  refine one 5 8 0 [(p.toNat, 14), (g.toNat, 8)] (.lkbind p g) (by decide) (by decide) (shape60_lt p g) (fun _ => rfl) ?_
  intro W hE hO hw
  obtain ⟨f0, f1, f2, f3⟩ := shape60 p g W hw
  rw [in5 W _ hE]; unfold decodeQue; rw [hO]
  show dec1 W (.lkbind (fld W 14 4) (fld W 8 6)) (nz W 0 8 || nz W 18 2) = _
  rw [f0, f1, f2, f3]
  try rfl

theorem qdepth (g : BitVec 6) (k : BitVec 1) (q : BitVec 4) : Statement (.qdepth g k q) := by
  intro _
  refine one 5 9 0 [(g.toNat, 14), (k.toNat, 12), (q.toNat, 8)] (.qdepth g k q) (by decide) (by decide) (shape61_lt g k q) (fun _ => rfl) ?_
  intro W hE hO hw
  obtain ⟨f0, f1, f2, f3, f4⟩ := shape61 g k q W hw
  rw [in5 W _ hE]; unfold decodeQue; rw [hO]
  show dec1 W (.qdepth (fld W 14 6) (fld W 12 1) (fld W 8 4)) (nz W 0 8 || nz W 13 1) = _
  rw [f0, f1, f2, f3, f4]
  try rfl

theorem aadd (g : BitVec 6) (h : BitVec 4) (c : BitVec 6) (w : BitVec 1) : Statement (.aadd g h c w) := by
  intro _
  refine one 6 2 0 [(g.toNat, 14), (h.toNat, 8), (c.toNat, 2), (w.toNat, 0)] (.aadd g h c w) (by decide) (by decide) (shape62_lt g h c w) (fun _ => rfl) ?_
  intro W hE hO hw
  obtain ⟨f0, f1, f2, f3, f4, f5⟩ := shape62 g h c w W hw
  rw [in6 W _ hE]; unfold decodeSyn; rw [hO]
  show dec1 W (.aadd (fld W 14 6) (fld W 8 4) (fld W 2 6) (fld W 0 1)) (nz W 1 1 || nz W 12 2) = _
  rw [f0, f1, f2, f3, f4, f5]
  try rfl

theorem aand (g : BitVec 6) (h : BitVec 4) (c : BitVec 6) (w : BitVec 1) : Statement (.aand g h c w) := by
  intro _
  refine one 6 3 0 [(g.toNat, 14), (h.toNat, 8), (c.toNat, 2), (w.toNat, 0)] (.aand g h c w) (by decide) (by decide) (shape62_lt g h c w) (fun _ => rfl) ?_
  intro W hE hO hw
  obtain ⟨f0, f1, f2, f3, f4, f5⟩ := shape62 g h c w W hw
  rw [in6 W _ hE]; unfold decodeSyn; rw [hO]
  show dec1 W (.aand (fld W 14 6) (fld W 8 4) (fld W 2 6) (fld W 0 1)) (nz W 1 1 || nz W 12 2) = _
  rw [f0, f1, f2, f3, f4, f5]
  try rfl

theorem aor (g : BitVec 6) (h : BitVec 4) (c : BitVec 6) (w : BitVec 1) : Statement (.aor g h c w) := by
  intro _
  refine one 6 4 0 [(g.toNat, 14), (h.toNat, 8), (c.toNat, 2), (w.toNat, 0)] (.aor g h c w) (by decide) (by decide) (shape62_lt g h c w) (fun _ => rfl) ?_
  intro W hE hO hw
  obtain ⟨f0, f1, f2, f3, f4, f5⟩ := shape62 g h c w W hw
  rw [in6 W _ hE]; unfold decodeSyn; rw [hO]
  show dec1 W (.aor (fld W 14 6) (fld W 8 4) (fld W 2 6) (fld W 0 1)) (nz W 1 1 || nz W 12 2) = _
  rw [f0, f1, f2, f3, f4, f5]
  try rfl

theorem axor (g : BitVec 6) (h : BitVec 4) (c : BitVec 6) (w : BitVec 1) : Statement (.axor g h c w) := by
  intro _
  refine one 6 5 0 [(g.toNat, 14), (h.toNat, 8), (c.toNat, 2), (w.toNat, 0)] (.axor g h c w) (by decide) (by decide) (shape62_lt g h c w) (fun _ => rfl) ?_
  intro W hE hO hw
  obtain ⟨f0, f1, f2, f3, f4, f5⟩ := shape62 g h c w W hw
  rw [in6 W _ hE]; unfold decodeSyn; rw [hO]
  show dec1 W (.axor (fld W 14 6) (fld W 8 4) (fld W 2 6) (fld W 0 1)) (nz W 1 1 || nz W 12 2) = _
  rw [f0, f1, f2, f3, f4, f5]
  try rfl

theorem amin (g : BitVec 6) (h : BitVec 4) (c : BitVec 6) (s : BitVec 1) (w : BitVec 1) : Statement (.amin g h c s w) := by
  intro _
  refine one 6 6 0 [(g.toNat, 14), (h.toNat, 8), (c.toNat, 2), (s.toNat, 1), (w.toNat, 0)] (.amin g h c s w) (by decide) (by decide) (shape63_lt g h c s w) (fun _ => rfl) ?_
  intro W hE hO hw
  obtain ⟨f0, f1, f2, f3, f4, f5⟩ := shape63 g h c s w W hw
  rw [in6 W _ hE]; unfold decodeSyn; rw [hO]
  show dec1 W (.amin (fld W 14 6) (fld W 8 4) (fld W 2 6) (fld W 1 1) (fld W 0 1)) (nz W 12 2) = _
  rw [f0, f1, f2, f3, f4, f5]

theorem amax (g : BitVec 6) (h : BitVec 4) (c : BitVec 6) (s : BitVec 1) (w : BitVec 1) : Statement (.amax g h c s w) := by
  intro _
  refine one 6 7 0 [(g.toNat, 14), (h.toNat, 8), (c.toNat, 2), (s.toNat, 1), (w.toNat, 0)] (.amax g h c s w) (by decide) (by decide) (shape63_lt g h c s w) (fun _ => rfl) ?_
  intro W hE hO hw
  obtain ⟨f0, f1, f2, f3, f4, f5⟩ := shape63 g h c s w W hw
  rw [in6 W _ hE]; unfold decodeSyn; rw [hO]
  show dec1 W (.amax (fld W 14 6) (fld W 8 4) (fld W 2 6) (fld W 1 1) (fld W 0 1)) (nz W 12 2) = _
  rw [f0, f1, f2, f3, f4, f5]

theorem aswp (g : BitVec 6) (h : BitVec 4) (c : BitVec 6) (w : BitVec 1) : Statement (.aswp g h c w) := by
  intro _
  refine one 6 8 0 [(g.toNat, 14), (h.toNat, 8), (c.toNat, 2), (w.toNat, 0)] (.aswp g h c w) (by decide) (by decide) (shape62_lt g h c w) (fun _ => rfl) ?_
  intro W hE hO hw
  obtain ⟨f0, f1, f2, f3, f4, f5⟩ := shape62 g h c w W hw
  rw [in6 W _ hE]; unfold decodeSyn; rw [hO]
  show dec1 W (.aswp (fld W 14 6) (fld W 8 4) (fld W 2 6) (fld W 0 1)) (nz W 1 1 || nz W 12 2) = _
  rw [f0, f1, f2, f3, f4, f5]
  try rfl

theorem acas (g : BitVec 6) (h : BitVec 4) (c : BitVec 6) (w : BitVec 1) : Statement (.acas g h c w) := by
  intro _
  refine one 6 9 0 [(g.toNat, 14), (h.toNat, 8), (c.toNat, 2), (w.toNat, 0)] (.acas g h c w) (by decide) (by decide) (shape62_lt g h c w) (fun _ => rfl) ?_
  intro W hE hO hw
  obtain ⟨f0, f1, f2, f3, f4, f5⟩ := shape62 g h c w W hw
  rw [in6 W _ hE]; unfold decodeSyn; rw [hO]
  show dec1 W (.acas (fld W 14 6) (fld W 8 4) (fld W 2 6) (fld W 0 1)) (nz W 1 1 || nz W 12 2) = _
  rw [f0, f1, f2, f3, f4, f5]
  try rfl

theorem vatom (v : BitVec 5) (i : BitVec 5) (o : BitVec 3) : Statement (.vatom v i o) := by
  intro _
  refine one 6 10 0 [(v.toNat, 14), (i.toNat, 8), (o.toNat, 2)] (.vatom v i o) (by decide) (by decide) (shape64_lt v i o) (fun _ => rfl) ?_
  intro W hE hO hw
  obtain ⟨f0, f1, f2, f3, f4, f5, f6⟩ := shape64 v i o W hw
  rw [in6 W _ hE]; unfold decodeSyn; rw [hO]
  show dec1 W (.vatom (fld W 14 5) (fld W 8 5) (fld W 2 3)) (nz W 0 2 || nz W 5 3 || nz W 13 1 || nz W 19 1) = _
  rw [f0, f1, f2, f3, f4, f5, f6]
  try rfl

theorem acq (g : BitVec 6) (h : BitVec 4) (c : BitVec 6) (s : BitVec 1) : Statement (.acq g h c s) := by
  intro _
  refine one 6 11 0 [(g.toNat, 14), (h.toNat, 8), (c.toNat, 2), (s.toNat, 0)] (.acq g h c s) (by decide) (by decide) (shape65_lt g h c s) (fun _ => rfl) ?_
  intro W hE hO hw
  obtain ⟨hc, f0, f1, f2, f3, f4⟩ := shape65 g h c s W hw
  rw [in6 W _ hE]; unfold decodeSyn; rw [hO]
  show (if W / 2 % 2 = 1 then _ else _) = _
  rw [if_neg hc]
  show dec1 W (.acq (fld W 14 6) (fld W 8 4) (fld W 2 6) (fld W 0 1)) (nz W 12 2) = _
  rw [f0, f1, f2, f3, f4]

theorem acqTry (g : BitVec 6) (h : BitVec 4) (c : BitVec 6) (s : BitVec 1) : Statement (.acqTry g h c s) := by
  intro _
  refine one 6 11 2 [(g.toNat, 14), (h.toNat, 8), (c.toNat, 2), (s.toNat, 0)] (.acqTry g h c s) (by decide) (by decide) (shape66_lt g h c s) (fun _ => rfl) ?_
  intro W hE hO hw
  obtain ⟨hc, f0, f1, f2, f3, f4⟩ := shape66 g h c s W hw
  rw [in6 W _ hE]; unfold decodeSyn; rw [hO]
  show (if W / 2 % 2 = 1 then _ else _) = _
  rw [if_pos hc]
  show dec1 W (.acqTry (fld W 14 6) (fld W 8 4) (fld W 2 6) (fld W 0 1)) (nz W 12 2) = _
  rw [f0, f1, f2, f3, f4]

theorem rel (h : BitVec 4) (c : BitVec 6) : Statement (.rel h c) := by
  intro _
  refine one 6 12 0 [(h.toNat, 8), (c.toNat, 2)] (.rel h c) (by decide) (by decide) (shape67_lt h c) (fun _ => rfl) ?_
  intro W hE hO hw
  obtain ⟨hc, f0, f1, f2, f3⟩ := shape67 h c W hw
  rw [in6 W _ hE]; unfold decodeSyn; rw [hO]
  show (if W / 2 % 2 = 1 then _ else _) = _
  rw [if_neg hc]
  show dec1 W (.rel (fld W 8 4) (fld W 2 6)) (nz W 0 1 || nz W 12 8) = _
  rw [f0, f1, f2, f3]
  try rfl

theorem relQueues (h : BitVec 4) (c : BitVec 6) (mask : BitVec 16) : Statement (.relQueues h c mask) := by
  intro _
  refine two 6 12 2 [(h.toNat, 8), (c.toNat, 2)] [(mask.toNat, 0)] (.relQueues h c mask) (by decide) (by decide) (shape68_lt h c mask).1
    (shape68_lt h c mask).2 (fun _ => rfl) ?_
  intro W L hE hO hw hl hL
  obtain ⟨hc, f0, f1, f2, f3, f4, f5, f6⟩ := shape68 h c mask W L hw hL
  rw [in6 W _ hE]; unfold decodeSyn; rw [hO]
  show (if W / 2 % 2 = 1 then _ else _) = _
  rw [if_pos hc]
  refine (dec2_ok W L _ (hl.trans hE.symm)).trans ?_
  show (Except.ok ({ ins := .relQueues (fld W 8 4) (fld W 2 6) (fld L 0 16), eng := engOf W, dly := dlyOf W, len := 2, rsvd := nz W 14 6 || nz W 12 2 || nz W 0 1 || nz L 16 13, fb := false } : Decoded) : Except Reject Decoded) = _
  rw [f0, f1, f2, f3, f4, f5, f6]
  try rfl

theorem bind (r : BitVec 4) (h : BitVec 4) (g : BitVec 6) : Statement (.bind r h g) := by
  intro _
  refine one 6 13 0 [(r.toNat, 14), (h.toNat, 8), (g.toNat, 2)] (.bind r h g) (by decide) (by decide) (shape8_lt r h g) (fun _ => rfl) ?_
  intro W hE hO hw
  obtain ⟨f0, f1, f2, f3, f4, f5⟩ := shape8 r h g W hw
  rw [in6 W _ hE]; unfold decodeSyn; rw [hO]
  show dec1 W (.bind (fld W 14 4) (fld W 8 4) (fld W 2 6)) (nz W 0 2 || nz W 12 2 || nz W 18 2) = _
  rw [f0, f1, f2, f3, f4, f5]
  try rfl

theorem unbind (r : BitVec 4) (h : BitVec 4) (g : BitVec 6) : Statement (.unbind r h g) := by
  intro _
  refine one 6 14 0 [(r.toNat, 14), (h.toNat, 8), (g.toNat, 2)] (.unbind r h g) (by decide) (by decide) (shape8_lt r h g) (fun _ => rfl) ?_
  intro W hE hO hw
  obtain ⟨f0, f1, f2, f3, f4, f5⟩ := shape8 r h g W hw
  rw [in6 W _ hE]; unfold decodeSyn; rw [hO]
  show dec1 W (.unbind (fld W 14 4) (fld W 8 4) (fld W 2 6)) (nz W 0 2 || nz W 12 2 || nz W 18 2) = _
  rw [f0, f1, f2, f3, f4, f5]
  try rfl

theorem gpass (p : BitVec 4) (g : BitVec 6) : Statement (.gpass p g) := by
  intro _
  refine one 6 15 0 [(p.toNat, 14), (g.toNat, 8)] (.gpass p g) (by decide) (by decide) (shape60_lt p g) (fun _ => rfl) ?_
  intro W hE hO hw
  obtain ⟨f0, f1, f2, f3⟩ := shape60 p g W hw
  rw [in6 W _ hE]; unfold decodeSyn; rw [hO]
  show dec1 W (.gpass (fld W 14 4) (fld W 8 6)) (nz W 0 8 || nz W 18 2) = _
  rw [f0, f1, f2, f3]
  try rfl

theorem gtake (v : BitVec 6) (g : BitVec 6) : Statement (.gtake v g) := by
  intro _
  refine one 6 16 0 [(v.toNat, 14), (g.toNat, 8)] (.gtake v g) (by decide) (by decide) (shape14_lt v g) (fun _ => rfl) ?_
  intro W hE hO hw
  obtain ⟨f0, f1, f2⟩ := shape14 v g W hw
  rw [in6 W _ hE]; unfold decodeSyn; rw [hO]
  show dec1 W (.gtake (fld W 14 6) (fld W 8 6)) (nz W 0 8) = _
  rw [f0, f1, f2]

theorem gstat (s : BitVec 6) (g : BitVec 6) : Statement (.gstat s g) := by
  intro _
  refine one 6 17 0 [(s.toNat, 14), (g.toNat, 8)] (.gstat s g) (by decide) (by decide) (shape14_lt s g) (fun _ => rfl) ?_
  intro W hE hO hw
  obtain ⟨f0, f1, f2⟩ := shape14 s g W hw
  rw [in6 W _ hE]; unfold decodeSyn; rw [hO]
  show dec1 W (.gstat (fld W 14 6) (fld W 8 6)) (nz W 0 8) = _
  rw [f0, f1, f2]

theorem cld (g : BitVec 6) (k : BitVec 4) (c : BitVec 6) : Statement (.cld g k c) := by
  intro _
  refine one 6 18 0 [(g.toNat, 14), (k.toNat, 8), (c.toNat, 2)] (.cld g k c) (by decide) (by decide) (shape69_lt g k c) (fun _ => rfl) ?_
  intro W hE hO hw
  obtain ⟨f0, f1, f2, f3, f4⟩ := shape69 g k c W hw
  rw [in6 W _ hE]; unfold decodeSyn; rw [hO]
  show dec1 W (.cld (fld W 14 6) (fld W 8 4) (fld W 2 6)) (nz W 0 2 || nz W 12 2) = _
  rw [f0, f1, f2, f3, f4]
  try rfl

theorem cst (g : BitVec 6) (k : BitVec 4) (c : BitVec 6) (r : BitVec 1) : Statement (.cst g k c r) := by
  intro _
  refine one 6 19 0 [(g.toNat, 14), (k.toNat, 8), (c.toNat, 2), (r.toNat, 1)] (.cst g k c r) (by decide) (by decide) (shape70_lt g k c r) (fun _ => rfl) ?_
  intro W hE hO hw
  obtain ⟨f0, f1, f2, f3, f4, f5⟩ := shape70 g k c r W hw
  rw [in6 W _ hE]; unfold decodeSyn; rw [hO]
  show dec1 W (.cst (fld W 14 6) (fld W 8 4) (fld W 2 6) (fld W 1 1)) (nz W 0 1 || nz W 12 2) = _
  rw [f0, f1, f2, f3, f4, f5]
  try rfl

theorem cldv (v : BitVec 5) (k : BitVec 4) (c : BitVec 6) : Statement (.cldv v k c) := by
  intro _
  refine one 6 20 0 [(v.toNat, 14), (k.toNat, 8), (c.toNat, 2)] (.cldv v k c) (by decide) (by decide) (shape71_lt v k c) (fun _ => rfl) ?_
  intro W hE hO hw
  obtain ⟨f0, f1, f2, f3, f4, f5⟩ := shape71 v k c W hw
  rw [in6 W _ hE]; unfold decodeSyn; rw [hO]
  show dec1 W (.cldv (fld W 14 5) (fld W 8 4) (fld W 2 6)) (nz W 0 2 || nz W 12 2 || nz W 19 1) = _
  rw [f0, f1, f2, f3, f4, f5]
  try rfl

theorem cstv (v : BitVec 5) (k : BitVec 4) (c : BitVec 6) : Statement (.cstv v k c) := by
  intro _
  refine one 6 21 0 [(v.toNat, 14), (k.toNat, 8), (c.toNat, 2)] (.cstv v k c) (by decide) (by decide) (shape71_lt v k c) (fun _ => rfl) ?_
  intro W hE hO hw
  obtain ⟨f0, f1, f2, f3, f4, f5⟩ := shape71 v k c W hw
  rw [in6 W _ hE]; unfold decodeSyn; rw [hO]
  show dec1 W (.cstv (fld W 14 5) (fld W 8 4) (fld W 2 6)) (nz W 0 2 || nz W 12 2 || nz W 19 1) = _
  rw [f0, f1, f2, f3, f4, f5]
  try rfl

theorem rcas2 (g : BitVec 6) (k : BitVec 4) (c : BitVec 6) (n : BitVec 2) : Statement (.rcas2 g k c n) := by
  intro _
  refine one 6 22 0 [(g.toNat, 14), (k.toNat, 8), (c.toNat, 2), (n.toNat, 0)] (.rcas2 g k c n) (by decide) (by decide) (shape72_lt g k c n) (fun _ => rfl) ?_
  intro W hE hO hw
  obtain ⟨f0, f1, f2, f3, f4⟩ := shape72 g k c n W hw
  rw [in6 W _ hE]; unfold decodeSyn; rw [hO]
  show dec1 W (.rcas2 (fld W 14 6) (fld W 8 4) (fld W 2 6) (fld W 0 2)) (nz W 12 2) = _
  rw [f0, f1, f2, f3, f4]

theorem renq (g : BitVec 6) (k : BitVec 4) (c : BitVec 6) : Statement (.renq g k c) := by
  intro _
  refine one 6 23 0 [(g.toNat, 14), (k.toNat, 8), (c.toNat, 2)] (.renq g k c) (by decide) (by decide) (shape69_lt g k c) (fun _ => rfl) ?_
  intro W hE hO hw
  obtain ⟨f0, f1, f2, f3, f4⟩ := shape69 g k c W hw
  rw [in6 W _ hE]; unfold decodeSyn; rw [hO]
  show dec1 W (.renq (fld W 14 6) (fld W 8 4) (fld W 2 6)) (nz W 0 2 || nz W 12 2) = _
  rw [f0, f1, f2, f3, f4]
  try rfl

theorem rchase (g : BitVec 6) (k : BitVec 4) (c : BitVec 6) : Statement (.rchase g k c) := by
  intro _
  refine one 6 24 0 [(g.toNat, 14), (k.toNat, 8), (c.toNat, 2)] (.rchase g k c) (by decide) (by decide) (shape69_lt g k c) (fun _ => rfl) ?_
  intro W hE hO hw
  obtain ⟨f0, f1, f2, f3, f4⟩ := shape69 g k c W hw
  rw [in6 W _ hE]; unfold decodeSyn; rw [hO]
  show dec1 W (.rchase (fld W 14 6) (fld W 8 4) (fld W 2 6)) (nz W 0 2 || nz W 12 2) = _
  rw [f0, f1, f2, f3, f4]
  try rfl

theorem kmov (a : BitVec 4) (b : BitVec 4) : Statement (.kmov a b) := by
  intro _
  refine one 6 25 0 [(a.toNat, 14), (b.toNat, 8)] (.kmov a b) (by decide) (by decide) (shape43_lt a b) (fun _ => rfl) ?_
  intro W hE hO hw
  obtain ⟨f0, f1, f2, f3, f4⟩ := shape43 a b W hw
  rw [in6 W _ hE]; unfold decodeSyn; rw [hO]
  show dec1 W (.kmov (fld W 14 4) (fld W 8 4)) (nz W 0 8 || nz W 12 2 || nz W 18 2) = _
  rw [f0, f1, f2, f3, f4]
  try rfl

theorem knarrow (a : BitVec 4) (b : BitVec 4) (g : BitVec 6) : Statement (.knarrow a b g) := by
  intro _
  refine one 6 26 0 [(a.toNat, 14), (b.toNat, 8), (g.toNat, 2)] (.knarrow a b g) (by decide) (by decide) (shape8_lt a b g) (fun _ => rfl) ?_
  intro W hE hO hw
  obtain ⟨f0, f1, f2, f3, f4, f5⟩ := shape8 a b g W hw
  rw [in6 W _ hE]; unfold decodeSyn; rw [hO]
  show dec1 W (.knarrow (fld W 14 4) (fld W 8 4) (fld W 2 6)) (nz W 0 2 || nz W 12 2 || nz W 18 2) = _
  rw [f0, f1, f2, f3, f4, f5]
  try rfl

theorem kperm (a : BitVec 4) (b : BitVec 4) (i : BitVec 8) : Statement (.kperm a b i) := by
  intro _
  refine one 6 27 0 [(a.toNat, 14), (b.toNat, 8), (i.toNat, 0)] (.kperm a b i) (by decide) (by decide) (shape73_lt a b i) (fun _ => rfl) ?_
  intro W hE hO hw
  obtain ⟨f0, f1, f2, f3, f4⟩ := shape73 a b i W hw
  rw [in6 W _ hE]; unfold decodeSyn; rw [hO]
  show dec1 W (.kperm (fld W 14 4) (fld W 8 4) (fld W 0 8)) (nz W 12 2 || nz W 18 2) = _
  rw [f0, f1, f2, f3, f4]
  try rfl

theorem kld (a : BitVec 4) (h : BitVec 4) (c : BitVec 6) (m : BitVec 2) : Statement (.kld a h c m) := by
  intro _
  refine one 6 28 0 [(a.toNat, 14), (h.toNat, 8), (c.toNat, 2), (m.toNat, 0)] (.kld a h c m) (by decide) (by decide) (shape74_lt a h c m) (fun _ => rfl) ?_
  intro W hE hO hw
  obtain ⟨f0, f1, f2, f3, f4, f5⟩ := shape74 a h c m W hw
  rw [in6 W _ hE]; unfold decodeSyn; rw [hO]
  show dec1 W (.kld (fld W 14 4) (fld W 8 4) (fld W 2 6) (fld W 0 2)) (nz W 12 2 || nz W 18 2) = _
  rw [f0, f1, f2, f3, f4, f5]
  try rfl

theorem kst (a : BitVec 4) (h : BitVec 4) (c : BitVec 6) (m : BitVec 2) : Statement (.kst a h c m) := by
  intro _
  refine one 6 29 0 [(a.toNat, 14), (h.toNat, 8), (c.toNat, 2), (m.toNat, 0)] (.kst a h c m) (by decide) (by decide) (shape74_lt a h c m) (fun _ => rfl) ?_
  intro W hE hO hw
  obtain ⟨f0, f1, f2, f3, f4, f5⟩ := shape74 a h c m W hw
  rw [in6 W _ hE]; unfold decodeSyn; rw [hO]
  show dec1 W (.kst (fld W 14 4) (fld W 8 4) (fld W 2 6) (fld W 0 2)) (nz W 12 2 || nz W 18 2) = _
  rw [f0, f1, f2, f3, f4, f5]
  try rfl

theorem wld (g : BitVec 6) (w : BitVec 6) (c : BitVec 6) : Statement (.wld g w c) := by
  intro _
  refine one 6 30 0 [(g.toNat, 14), (w.toNat, 8), (c.toNat, 2)] (.wld g w c) (by decide) (by decide) (shape11_lt g w c) (fun _ => rfl) ?_
  intro W hE hO hw
  obtain ⟨f0, f1, f2, f3⟩ := shape11 g w c W hw
  rw [in6 W _ hE]; unfold decodeSyn; rw [hO]
  show dec1 W (.wld (fld W 14 6) (fld W 8 6) (fld W 2 6)) (nz W 0 2) = _
  rw [f0, f1, f2, f3]

theorem wst (g : BitVec 6) (w : BitVec 6) (c : BitVec 6) : Statement (.wst g w c) := by
  intro _
  refine one 6 31 0 [(g.toNat, 14), (w.toNat, 8), (c.toNat, 2)] (.wst g w c) (by decide) (by decide) (shape11_lt g w c) (fun _ => rfl) ?_
  intro W hE hO hw
  obtain ⟨f0, f1, f2, f3⟩ := shape11 g w c W hw
  rw [in6 W _ hE]; unfold decodeSyn; rw [hO]
  show dec1 W (.wst (fld W 14 6) (fld W 8 6) (fld W 2 6)) (nz W 0 2) = _
  rw [f0, f1, f2, f3]

theorem sfence (q : BitVec 1) (s : BitVec 3) : Statement (.sfence q s) := by
  intro _
  refine one 6 32 0 [(q.toNat, 3), (s.toNat, 0)] (.sfence q s) (by decide) (by decide) (shape75_lt q s) (fun _ => rfl) ?_
  intro W hE hO hw
  obtain ⟨f0, f1, f2⟩ := shape75 q s W hw
  rw [in6 W _ hE]; unfold decodeSyn; rw [hO]
  show dec1 W (.sfence (fld W 3 1) (fld W 0 3)) (nz W 4 16) = _
  rw [f0, f1, f2]

theorem cpy (q : BitVec 4) (h : BitVec 4) (g : BitVec 6) (m : BitVec 2) : Statement (.cpy q h g m) := by
  intro _
  refine one 7 2 0 [(q.toNat, 14), (h.toNat, 8), (g.toNat, 2), (m.toNat, 0)] (.cpy q h g m) (by decide) (by decide) (shape74_lt q h g m) (fun _ => rfl) ?_
  intro W hE hO hw
  obtain ⟨f0, f1, f2, f3, f4, f5⟩ := shape74 q h g m W hw
  rw [in7 W _ hE]; unfold decodeAsy; rw [hO]
  show dec1 W (.cpy (fld W 14 4) (fld W 8 4) (fld W 2 6) (fld W 0 2)) (nz W 12 2 || nz W 18 2) = _
  rw [f0, f1, f2, f3, f4, f5]
  try rfl

theorem cpyd (q : BitVec 4) (h : BitVec 4) (g : BitVec 6) (m : BitVec 2) : Statement (.cpyd q h g m) := by
  intro _
  refine one 7 3 0 [(q.toNat, 14), (h.toNat, 8), (g.toNat, 2), (m.toNat, 0)] (.cpyd q h g m) (by decide) (by decide) (shape74_lt q h g m) (fun _ => rfl) ?_
  intro W hE hO hw
  obtain ⟨f0, f1, f2, f3, f4, f5⟩ := shape74 q h g m W hw
  rw [in7 W _ hE]; unfold decodeAsy; rw [hO]
  show dec1 W (.cpyd (fld W 14 4) (fld W 8 4) (fld W 2 6) (fld W 0 2)) (nz W 12 2 || nz W 18 2) = _
  rw [f0, f1, f2, f3, f4, f5]
  try rfl

theorem ratt (q : BitVec 4) (g : BitVec 6) (u : BitVec 1) : Statement (.ratt q g u) := by
  intro _
  refine one 7 4 0 [(q.toNat, 14), (g.toNat, 8), (u.toNat, 0)] (.ratt q g u) (by decide) (by decide) (shape76_lt q g u) (fun _ => rfl) ?_
  intro W hE hO hw
  obtain ⟨f0, f1, f2, f3, f4⟩ := shape76 q g u W hw
  rw [in7 W _ hE]; unfold decodeAsy; rw [hO]
  show dec1 W (.ratt (fld W 14 4) (fld W 8 6) (fld W 0 1)) (nz W 1 7 || nz W 18 2) = _
  rw [f0, f1, f2, f3, f4]
  try rfl

theorem kapp (q : BitVec 4) (g : BitVec 6) : Statement (.kapp q g) := by
  intro _
  refine one 7 5 0 [(q.toNat, 14), (g.toNat, 8)] (.kapp q g) (by decide) (by decide) (shape60_lt q g) (fun _ => rfl) ?_
  intro W hE hO hw
  obtain ⟨f0, f1, f2, f3⟩ := shape60 q g W hw
  rw [in7 W _ hE]; unfold decodeAsy; rw [hO]
  show dec1 W (.kapp (fld W 14 4) (fld W 8 6)) (nz W 0 8 || nz W 18 2) = _
  rw [f0, f1, f2, f3]
  try rfl

theorem krel (q : BitVec 4) (g : BitVec 6) : Statement (.krel q g) := by
  intro _
  refine one 7 6 0 [(q.toNat, 14), (g.toNat, 8)] (.krel q g) (by decide) (by decide) (shape60_lt q g) (fun _ => rfl) ?_
  intro W hE hO hw
  obtain ⟨f0, f1, f2, f3⟩ := shape60 q g W hw
  rw [in7 W _ hE]; unfold decodeAsy; rw [hO]
  show dec1 W (.krel (fld W 14 4) (fld W 8 6)) (nz W 0 8 || nz W 18 2) = _
  rw [f0, f1, f2, f3]
  try rfl

theorem merge (q : BitVec 4) (g : BitVec 6) : Statement (.merge q g) := by
  intro _
  refine one 7 7 0 [(q.toNat, 14), (g.toNat, 2)] (.merge q g) (by decide) (by decide) (shape77_lt q g) (fun _ => rfl) ?_
  intro W hE hO hw
  obtain ⟨f0, f1, f2, f3, f4⟩ := shape77 q g W hw
  rw [in7 W _ hE]; unfold decodeAsy; rw [hO]
  show dec1 W (.merge (fld W 14 4) (fld W 2 6)) (nz W 0 2 || nz W 8 6 || nz W 18 2) = _
  rw [f0, f1, f2, f3, f4]
  try rfl

theorem coll (q : BitVec 4) (v : BitVec 5) (g : BitVec 6) : Statement (.coll q v g) := by
  intro _
  refine one 7 8 0 [(q.toNat, 14), (v.toNat, 8), (g.toNat, 2)] (.coll q v g) (by decide) (by decide) (shape78_lt q v g) (fun _ => rfl) ?_
  intro W hE hO hw
  obtain ⟨f0, f1, f2, f3, f4, f5⟩ := shape78 q v g W hw
  rw [in7 W _ hE]; unfold decodeAsy; rw [hO]
  show dec1 W (.coll (fld W 14 4) (fld W 8 5) (fld W 2 6)) (nz W 0 2 || nz W 13 1 || nz W 18 2) = _
  rw [f0, f1, f2, f3, f4, f5]
  try rfl

theorem tier (q : BitVec 4) (h : BitVec 4) (g : BitVec 6) : Statement (.tier q h g) := by
  intro _
  refine one 7 9 0 [(q.toNat, 14), (h.toNat, 8), (g.toNat, 2)] (.tier q h g) (by decide) (by decide) (shape8_lt q h g) (fun _ => rfl) ?_
  intro W hE hO hw
  obtain ⟨f0, f1, f2, f3, f4, f5⟩ := shape8 q h g W hw
  rw [in7 W _ hE]; unfold decodeAsy; rw [hO]
  show dec1 W (.tier (fld W 14 4) (fld W 8 4) (fld W 2 6)) (nz W 0 2 || nz W 12 2 || nz W 18 2) = _
  rw [f0, f1, f2, f3, f4, f5]
  try rfl

theorem pfs (q : BitVec 4) (h : BitVec 4) (g : BitVec 6) : Statement (.pfs q h g) := by
  intro _
  refine one 7 10 0 [(q.toNat, 14), (h.toNat, 8), (g.toNat, 2)] (.pfs q h g) (by decide) (by decide) (shape8_lt q h g) (fun _ => rfl) ?_
  intro W hE hO hw
  obtain ⟨f0, f1, f2, f3, f4, f5⟩ := shape8 q h g W hw
  rw [in7 W _ hE]; unfold decodeAsy; rw [hO]
  show dec1 W (.pfs (fld W 14 4) (fld W 8 4) (fld W 2 6)) (nz W 0 2 || nz W 12 2 || nz W 18 2) = _
  rw [f0, f1, f2, f3, f4, f5]
  try rfl

theorem qfence (m : BitVec 16) : Statement (.qfence m) := by
  intro _
  refine one 7 11 0 [(m.toNat, 0)] (.qfence m) (by decide) (by decide) (shape79_lt m) (fun _ => rfl) ?_
  intro W hE hO hw
  obtain ⟨f0, f1⟩ := shape79 m W hw
  rw [in7 W _ hE]; unfold decodeAsy; rw [hO]
  show dec1 W (.qfence (fld W 0 16)) (nz W 16 4) = _
  rw [f0, f1]

theorem unassignedOpcode (w : BitVec 32) : Statement (.unassignedOpcode w) := unassigned w

theorem seam : Statement (.seam) := by
  intro _
  refine one 0 10 0 [] (.seam) (by decide) (by decide) (shape80_lt ) (fun _ => rfl) ?_
  intro W hE hO hw
  have f0 := shape80  W hw
  rw [in0 W _ hE]; unfold decodeCtl; rw [hO]
  show dec1 W (.seam) (nz W 0 20) = _
  rw [f0]

theorem align : Statement (.align) := by
  intro _
  refine one 0 12 0 [] (.align) (by decide) (by decide) (shape80_lt ) (fun _ => rfl) ?_
  intro W hE hO hw
  have f0 := shape80  W hw
  rw [in0 W _ hE]; unfold decodeCtl; rw [hO]
  show dec1 W (.align) (nz W 0 20) = _
  rw [f0]

theorem endTask : Statement (.endTask) := by
  intro _
  refine one 0 14 0 [] (.endTask) (by decide) (by decide) (shape80_lt ) (fun _ => rfl) ?_
  intro W hE hO hw
  have f0 := shape80  W hw
  rw [in0 W _ hE]; unfold decodeCtl; rw [hO]
  show dec1 W (.endTask) (nz W 0 20) = _
  rw [f0]

theorem eret : Statement (.eret) := by
  intro _
  refine one 0 16 0 [] (.eret) (by decide) (by decide) (shape80_lt ) (fun _ => rfl) ?_
  intro W hE hO hw
  have f0 := shape80  W hw
  rw [in0 W _ hE]; unfold decodeCtl; rw [hO]
  show dec1 W (.eret) (nz W 0 20) = _
  rw [f0]

theorem drain : Statement (.drain) := by
  intro _
  refine one 3 17 0 [] (.drain) (by decide) (by decide) (shape80_lt ) (fun _ => rfl) ?_
  intro W hE hO hw
  have f0 := shape80  W hw
  rw [in3 W _ hE]; unfold decodeMem; rw [hO]
  show dec1 W (.drain) (nz W 0 20) = _
  rw [f0]

theorem mgo : Statement (.mgo) := by
  intro _
  refine one 4 7 0 [] (.mgo) (by decide) (by decide) (shape80_lt ) (fun _ => rfl) ?_
  intro W hE hO hw
  have f0 := shape80  W hw
  rw [in4 W _ hE]; unfold decodeMat; rw [hO]
  show dec1 W (.mgo) (nz W 0 20) = _
  rw [f0]

theorem clampcntWrite : Statement .clampcntWrite := fun h => absurd h (by decide)

theorem fetchWords : Statement .fetchWords := fun h => absurd h (by decide)

theorem fetchStarvation : Statement .fetchStarvation := fun h => absurd h (by decide)

theorem iterationBoundary : Statement .iterationBoundary := fun h => absurd h (by decide)

theorem resultLanding : Statement .resultLanding := fun h => absurd h (by decide)

theorem loadDataDelivery : Statement .loadDataDelivery := fun h => absurd h (by decide)

theorem arrivalViolation : Statement .arrivalViolation := fun h => absurd h (by decide)

theorem accessHomeCycle : Statement .accessHomeCycle := fun h => absurd h (by decide)

theorem xltWalkComplete : Statement .xltWalkComplete := fun h => absurd h (by decide)

theorem acqGrant : Statement .acqGrant := fun h => absurd h (by decide)

theorem relEffect : Statement .relEffect := fun h => absurd h (by decide)

theorem drainComplete : Statement .drainComplete := fun h => absurd h (by decide)

theorem sfenceComplete : Statement .sfenceComplete := fun h => absurd h (by decide)

theorem cacheRangeComplete : Statement .cacheRangeComplete := fun h => absurd h (by decide)

theorem retentionInForce : Statement .retentionInForce := fun h => absurd h (by decide)

theorem waitbComplete : Statement .waitbComplete := fun h => absurd h (by decide)

theorem deadlineFault : Statement .deadlineFault := fun h => absurd h (by decide)

theorem launchReceive : Statement .launchReceive := fun h => absurd h (by decide)

theorem schedulerPlacement : Statement .schedulerPlacement := fun h => absurd h (by decide)

theorem launchBegin : Statement .launchBegin := fun h => absurd h (by decide)

theorem timeSliceEnd : Statement .timeSliceEnd := fun h => absurd h (by decide)

theorem yieldHandover : Statement .yieldHandover := fun h => absurd h (by decide)

theorem fullFrameSave : Statement .fullFrameSave := fun h => absurd h (by decide)

theorem fullFrameSaveEnd : Statement .fullFrameSaveEnd := fun h => absurd h (by decide)

theorem fullFrameRestore : Statement .fullFrameRestore := fun h => absurd h (by decide)

theorem taskResume : Statement .taskResume := fun h => absurd h (by decide)

theorem nestStep : Statement .nestStep := fun h => absurd h (by decide)

theorem nestEnd : Statement .nestEnd := fun h => absurd h (by decide)

theorem nestSafeStop : Statement .nestSafeStop := fun h => absurd h (by decide)

theorem mldbComplete : Statement .mldbComplete := fun h => absurd h (by decide)

theorem queueEntryArrival : Statement .queueEntryArrival := fun h => absurd h (by decide)

theorem queueCreditArrival : Statement .queueCreditArrival := fun h => absurd h (by decide)

theorem linkEntryDepart : Statement .linkEntryDepart := fun h => absurd h (by decide)

theorem linkEntryArrival : Statement .linkEntryArrival := fun h => absurd h (by decide)

theorem asyEntryStart : Statement .asyEntryStart := fun h => absurd h (by decide)

theorem cpyDone : Statement .cpyDone := fun h => absurd h (by decide)

theorem cpydDone : Statement .cpydDone := fun h => absurd h (by decide)

theorem attentionCommandArrival : Statement .attentionCommandArrival := fun h => absurd h (by decide)

theorem attentionAccept : Statement .attentionAccept := fun h => absurd h (by decide)

theorem kappExecute : Statement .kappExecute := fun h => absurd h (by decide)

theorem krelExecute : Statement .krelExecute := fun h => absurd h (by decide)

theorem contextControl : Statement .contextControl := fun h => absurd h (by decide)

theorem rattAdmission : Statement .rattAdmission := fun h => absurd h (by decide)

theorem rattRecordWrite : Statement .rattRecordWrite := fun h => absurd h (by decide)

theorem attentionCreditRefill : Statement .attentionCreditRefill := fun h => absurd h (by decide)

theorem mergeDone : Statement .mergeDone := fun h => absurd h (by decide)

theorem collArrival : Statement .collArrival := fun h => absurd h (by decide)

theorem collRoundComplete : Statement .collRoundComplete := fun h => absurd h (by decide)

theorem collResultWrite : Statement .collResultWrite := fun h => absurd h (by decide)

theorem tierMoveStart : Statement .tierMoveStart := fun h => absurd h (by decide)

theorem pageRevoke : Statement .pageRevoke := fun h => absurd h (by decide)

theorem revocationComplete : Statement .revocationComplete := fun h => absurd h (by decide)

theorem tierMoveDone : Statement .tierMoveDone := fun h => absurd h (by decide)

theorem pfsAccept : Statement .pfsAccept := fun h => absurd h (by decide)

theorem qfenceDone : Statement .qfenceDone := fun h => absurd h (by decide)

theorem gatePassAdmit : Statement .gatePassAdmit := fun h => absurd h (by decide)

theorem gateVersionEffect : Statement .gateVersionEffect := fun h => absurd h (by decide)

theorem gateRefill : Statement .gateRefill := fun h => absurd h (by decide)

theorem gateTakeArrival : Statement .gateTakeArrival := fun h => absurd h (by decide)

theorem gateTakeComplete : Statement .gateTakeComplete := fun h => absurd h (by decide)

theorem gateStatusSample : Statement .gateStatusSample := fun h => absurd h (by decide)

theorem gateCreate : Statement .gateCreate := fun h => absurd h (by decide)

theorem gateUpdate : Statement .gateUpdate := fun h => absurd h (by decide)

theorem gateRevoke : Statement .gateRevoke := fun h => absurd h (by decide)

theorem gateFree : Statement .gateFree := fun h => absurd h (by decide)

theorem gateFreeze : Statement .gateFreeze := fun h => absurd h (by decide)

theorem gateExport : Statement .gateExport := fun h => absurd h (by decide)

theorem gateImport : Statement .gateImport := fun h => absurd h (by decide)

theorem remoteOpExecute : Statement .remoteOpExecute := fun h => absurd h (by decide)

theorem remoteStoreArrival : Statement .remoteStoreArrival := fun h => absurd h (by decide)

theorem releaseFlagCommit : Statement .releaseFlagCommit := fun h => absurd h (by decide)

theorem remoteReplyArrival : Statement .remoteReplyArrival := fun h => absurd h (by decide)

theorem wstErrorCompletion : Statement .wstErrorCompletion := fun h => absurd h (by decide)

theorem hostAccessArrival : Statement .hostAccessArrival := fun h => absurd h (by decide)

theorem requestTimeout : Statement .requestTimeout := fun h => absurd h (by decide)

theorem cimParityError : Statement .cimParityError := fun h => absurd h (by decide)

theorem dcfgWrite : Statement .dcfgWrite := fun h => absurd h (by decide)

theorem hmaskWrite : Statement .hmaskWrite := fun h => absurd h (by decide)

theorem rtnWrite : Statement .rtnWrite := fun h => absurd h (by decide)

theorem domainBsyEnd : Statement .domainBsyEnd := fun h => absurd h (by decide)

theorem collGroupWrite : Statement .collGroupWrite := fun h => absurd h (by decide)

theorem dieReset : Statement .dieReset := fun h => absurd h (by decide)

theorem dieResetFence : Statement .dieResetFence := fun h => absurd h (by decide)

theorem dieResetExecute : Statement .dieResetExecute := fun h => absurd h (by decide)

theorem dieResetComplete : Statement .dieResetComplete := fun h => absurd h (by decide)

theorem partitionCreate : Statement .partitionCreate := fun h => absurd h (by decide)

theorem partitionModify : Statement .partitionModify := fun h => absurd h (by decide)

theorem partitionReset : Statement .partitionReset := fun h => absurd h (by decide)

theorem partitionStop : Statement .partitionStop := fun h => absurd h (by decide)

theorem partitionRelease : Statement .partitionRelease := fun h => absurd h (by decide)

theorem partitionDestroy : Statement .partitionDestroy := fun h => absurd h (by decide)

theorem mfreeze : Statement .mfreeze := fun h => absurd h (by decide)

theorem mthaw : Statement .mthaw := fun h => absurd h (by decide)

theorem resetQuiesce : Statement .resetQuiesce := fun h => absurd h (by decide)

theorem resetWipeComplete : Statement .resetWipeComplete := fun h => absurd h (by decide)

theorem modifyApply : Statement .modifyApply := fun h => absurd h (by decide)

theorem partitionStopComplete : Statement .partitionStopComplete := fun h => absurd h (by decide)

theorem resourceRetire : Statement .resourceRetire := fun h => absurd h (by decide)

theorem debugFreezeRequest : Statement .debugFreezeRequest := fun h => absurd h (by decide)

theorem freezeBegin : Statement .freezeBegin := fun h => absurd h (by decide)

theorem debugResumeRequest : Statement .debugResumeRequest := fun h => absurd h (by decide)

theorem freezeResume : Statement .freezeResume := fun h => absurd h (by decide)

theorem flitReceive : Statement .flitReceive := fun h => absurd h (by decide)

theorem linkFail : Statement .linkFail := fun h => absurd h (by decide)

theorem linkFailover : Statement .linkFailover := fun h => absurd h (by decide)

theorem alignComplete : Statement .alignComplete := fun h => absurd h (by decide)

theorem vfRegisterWrite : Statement .vfRegisterWrite := fun h => absurd h (by decide)

theorem sqDoorbell : Statement .sqDoorbell := fun h => absurd h (by decide)

theorem hostLoad : Statement .hostLoad := fun h => absurd h (by decide)

theorem hostLaunch : Statement .hostLaunch := fun h => absurd h (by decide)

theorem hostRelease : Statement .hostRelease := fun h => absurd h (by decide)

theorem hostUnload : Statement .hostUnload := fun h => absurd h (by decide)

theorem hostQuote : Statement .hostQuote := fun h => absurd h (by decide)

theorem functionLevelReset : Statement .functionLevelReset := fun h => absurd h (by decide)

theorem antiRollbackRaise : Statement .antiRollbackRaise := fun h => absurd h (by decide)

theorem lifeCycleChange : Statement .lifeCycleChange := fun h => absurd h (by decide)

theorem powerOnReset : Statement .powerOnReset := fun h => absurd h (by decide)

theorem thermalShutdown : Statement .thermalShutdown := fun h => absurd h (by decide)

theorem fatalFrameFree : Statement .fatalFrameFree := fun h => absurd h (by decide)

theorem exportTableWrite : Statement .exportTableWrite := fun h => absurd h (by decide)

theorem managementTaskStart : Statement .managementTaskStart := fun h => absurd h (by decide)

theorem ownerKeyEnrol : Statement .ownerKeyEnrol := fun h => absurd h (by decide)

theorem ownerKeyRevoke : Statement .ownerKeyRevoke := fun h => absurd h (by decide)

theorem sramScrub : Statement .sramScrub := fun h => absurd h (by decide)

end Sys2Proof.Laws.Encoding
end

