-- ==== Sys2Proof/Safety.lean ====
section
/-! DEFINITION. What counts as a safe run: the machine answers a next state, and the memories keep their canonical form. -/

namespace Sys2Proof.Safety

open Sys2Proof.Machine

/-- The memories of the module are in canonical form: equal memories are equal data. -/
def Canonical (s : State) : Prop := Memory.wf s.mem = true ∧ Memory.wf s.spad = true ∧ Memory.wf s.hostMem = true

/-- A step is safe when it goes on. -/
def Goes (s : State) : Prop := ∃ t, step s = .next t

end Sys2Proof.Safety
end

