-- ==== Sys2Proof/Certificates/Slice0/Obligations.lean ====
section
/-! DEFINITION. The statements for the provers. The words in which they are said stand in the namespace Claims; a statement of
several parts is their conjunction, at the end of the file. -/

namespace Sys2Proof.Claims

open Sys2Proof Sys2Proof.Machine

/-! ## Words in which the statements are said -/

/-- The column of the present word can issue: no earlier word occupies its datapath, and no SFENCE holds it (R112, R196). -/
abbrev Free (s : State) : Prop :=
  (Fm.get {} (Fm.get {} s.seqs s.cur.sid).cols s.cur.col).free ≤ s.now ∧
    ((Fm.get {} s.seqs s.cur.sid).sfence = true → s.cur.col ≠ 3 ∧ s.cur.col ≠ 6)

/-- The present word belongs to a user sequencer: H has no VEC, MAT or QUE column (R37). -/
abbrev User (s : State) : Prop := s.cur.sid % 16 ≠ 8

/-- The sequencer of the present word. -/
def mine (s : State) : Seq := Fm.get {} s.seqs s.cur.sid

/-- The state with sequencer `sid` replaced and nothing else changed. -/
def withSeq (s : State) (sid : Nat) (q : Seq) : State := { s with seqs := Fm.set s.seqs sid q }

/-- An event on the agenda: its cycle, its place in the order of the cycle, the event and its subject. -/
def event (cyc cls key : Nat) (i : Instr) (a : Arg) : Ev := { cyc := cyc, cls := cls, key := key, ins := i, arg := a }

/-- The state with the sequencer of the present word replaced and nothing else changed. -/
def withMine (s : State) (q : Seq) : State := { s with seqs := Fm.set s.seqs s.cur.sid q }

/-- A sequencer with column `c` occupied until cycle `f` and nothing else changed. -/
def colUntil (q : Seq) (c f : Nat) : Seq := { q with cols := Fm.set q.cols c { Fm.get {} q.cols c with free := f } }

/-- The state in which the word's column is occupied for `occ` cycles from now, and nothing else is changed (R112). -/
def occupied (s : State) (occ : Nat) : State := withMine s (colUntil (mine s) s.cur.col (s.now + occ))

/-- The event that writes results `l` of the present word `lat` cycles from now (R113). -/
def result (s : State) (lat : Nat) (l : List Land) : Ev :=
  { cyc := s.now + lat, cls := 1, key := landKey s.now s.cur.sid s.cur.col, ins := .resultLanding, arg := .land s.cur.sid l }

/-- The whole effect of a word that only computes: its column is occupied for `occ` cycles and its results `l` are written
`lat` cycles from now. -/
def issued (s : State) (occ lat : Nat) (l : List Land) : State :=
  { occupied s occ with agenda := s.agenda ++ [result s lat l] }

/-- g register `n` of the present word's sequencer. -/
def greg (s : State) (n : BitVec 6) : W64 := Fm.get 0 (mine s).g n.toNat

/-- Predicate selected by bits [3:0], inverted when bit [4] is 1 (R117). -/
def selected (s : State) (x : BitVec 5) : Bool := ((mine s).p.getLsbD (x.toNat % 16)).xor (x.getLsbD 4)

/-- Leading zeros of a g register: how many n from 0 to 63 leave every bit from 63 − n up at 0. -/
def zerosAbove (x : W64) : Nat := (List.range 64).countP (fun n => x.toNat < 2 ^ (63 - n))

/-- Destination, occupancy, latency and value of the words of the SCA column with an integer result, as R112, R136 to R138,
R140, R141, R142 and R146 give them. -/
def integerResult (s : State) : Instr → Option (BitVec 6 × Nat × Nat × W64)
  | .add a b c => some (a, 1, 2, greg s b + greg s c)
  | .sub a b c => some (a, 1, 2, greg s b - greg s c)
  | .addi a b i => some (a, 1, 2, greg s b + i.signExtend 64)
  | .mul a b c => some (a, 1, 4, greg s b * greg s c)
  | .mulhs a b c => some (a, 1, 4, (((greg s b).signExtend 128 * (greg s c).signExtend 128) >>> 64).setWidth 64)
  | .mulhz a b c => some (a, 1, 4, (((greg s b).setWidth 128 * (greg s c).setWidth 128) >>> 64).setWidth 64)
  | .divs a b c => some (a, 20, 20, if greg s c = 0 then BitVec.allOnes 64 else (greg s b).sdiv (greg s c))
  | .divz a b c => some (a, 20, 20, if greg s c = 0 then BitVec.allOnes 64 else greg s b / greg s c)
  | .rems a b c => some (a, 20, 20, if greg s c = 0 then greg s b else (greg s b).srem (greg s c))
  | .remz a b c => some (a, 20, 20, if greg s c = 0 then greg s b else greg s b % greg s c)
  | .and a b c => some (a, 1, 2, greg s b &&& greg s c)
  | .or a b c => some (a, 1, 2, greg s b ||| greg s c)
  | .xor a b c => some (a, 1, 2, greg s b ^^^ greg s c)
  | .andn a b c => some (a, 1, 2, greg s b &&& ~~~(greg s c))
  | .shl a b c => some (a, 1, 2, greg s b <<< ((greg s c).setWidth 6).toNat)
  | .shr a b c => some (a, 1, 2, greg s b >>> ((greg s c).setWidth 6).toNat)
  | .sar a b c => some (a, 1, 2, (greg s b).sshiftRight ((greg s c).setWidth 6).toNat)
  | .ror a b c => some (a, 1, 2, (greg s b).rotateRight ((greg s c).setWidth 6).toNat)
  | .shli a b i => some (a, 1, 2, greg s b <<< i.toNat)
  | .shri a b i => some (a, 1, 2, greg s b >>> i.toNat)
  | .sari a b i => some (a, 1, 2, (greg s b).sshiftRight i.toNat)
  | .mins a b c => some (a, 1, 2, if (greg s b).sle (greg s c) then greg s b else greg s c)
  | .maxs a b c => some (a, 1, 2, if (greg s b).sle (greg s c) then greg s c else greg s b)
  | .minz a b c => some (a, 1, 2, if (greg s b).ule (greg s c) then greg s b else greg s c)
  | .maxz a b c => some (a, 1, 2, if (greg s b).ule (greg s c) then greg s c else greg s b)
  | .clz a b => some (a, 1, 2, BitVec.ofNat 64 (zerosAbove (greg s b)))
  | .popc a b => some (a, 1, 2, BitVec.ofNat 64 ((List.range 64).countP (greg s b).getLsbD))
  | .movi a i => some (a, 1, 2, i.signExtend 64)
  | .movx a hi lo => some (a, 1, 2, (hi ++ lo).signExtend 64)
  | .movhx a hi lo => some (a, 1, 2, (hi ++ lo) ++ (greg s a).extractLsb' 0 32)
  | .sel a b c p => some (a, 1, 2, if (mine s).p.getLsbD p.toNat then greg s b else greg s c)
  | .idx a l =>
    if l.toNat < 6 then
      some (a, 1, 2, match (mine s).lstk[l.toNat]? with
        | some x => BitVec.ofNat 64 x.index
        | none => 0)
    else none
  | .sext a b w => some (a, 1, 2, ((greg s b).setWidth (w.toNat + 1)).signExtend 64)
  | .zext a b w => some (a, 1, 2, ((greg s b).setWidth (w.toNat + 1)).setWidth 64)
  | .beac a => some (a, 1, 2, BitVec.ofNat 64 (s.ptime (mine s).task.part))
  | _ => none

/-- Predicate and value of the integer compares and of predicate logic (R139, R140). -/
def predicateResult (s : State) : Instr → Option (BitVec 4 × Bool)
  | .cmpeq p b c => some (p, decide (greg s b = greg s c))
  | .cmpne p b c => some (p, decide (greg s b ≠ greg s c))
  | .cmplts p b c => some (p, (greg s b).slt (greg s c))
  | .cmples p b c => some (p, (greg s b).sle (greg s c))
  | .cmpltz p b c => some (p, (greg s b).ult (greg s c))
  | .cmplez p b c => some (p, (greg s b).ule (greg s c))
  | .cmpeqi p b i => some (p, decide (greg s b = i.signExtend 64))
  | .cmpltsi p b i => some (p, (greg s b).slt (i.signExtend 64))
  | .pand p b c => some (p, selected s b && selected s c)
  | .por p b c => some (p, selected s b || selected s c)
  | .pxor p b c => some (p, (selected s b).xor (selected s c))
  | .pnot p b => some (p, !selected s b)
  | _ => none

/-- The precision that M[0] selects: element type 1 is f32, 0 is f64 (R52, R143). -/
def prec (p : BitVec 1) : Nat := if p = 1 then 0 else 1

/-- The value of a g register as a scalar (R16). -/
def scalar (s : State) (p : BitVec 1) (n : BitVec 6) : Val := decodeVal (prec p) (greg s n).toNat

/-- An exact real rounded once to the precision, with the flags of the operation and of the rounding (R54). -/
def rounded (p : BitVec 1) (mode : Nat) (v : Val × Nat) : W64 × Nat :=
  (BitVec.ofNat 64 (toBinary (prec p) mode false v.1).1, v.2 ||| (toBinary (prec p) mode false v.1).2)

/-- Destination, occupancy, latency, and value with flags, of the floating-point words of the SCA column that write a g
register (R143, R145): the exact result is rounded once, to nearest even or by the literal's mode. -/
def floatResult (s : State) : Instr → Option (BitVec 6 × Nat × Nat × W64 × Nat)
  | .fadd a b c p => some (a, 1, 4, rounded p 0 (addVal 0 (scalar s p b) (scalar s p c)))
  | .faddLiteral a b c p rm => some (a, 1, 4, rounded p rm.toNat (addVal rm.toNat (scalar s p b) (scalar s p c)))
  | .fsub a b c p => some (a, 1, 4, rounded p 0 (addVal 0 (scalar s p b) (scalar s p c).neg))
  | .fsubLiteral a b c p rm => some (a, 1, 4, rounded p rm.toNat (addVal rm.toNat (scalar s p b) (scalar s p c).neg))
  | .fmul a b c p => some (a, 1, 4, rounded p 0 (mulVal (scalar s p b) (scalar s p c)))
  | .fmulLiteral a b c p rm => some (a, 1, 4, rounded p rm.toNat (mulVal (scalar s p b) (scalar s p c)))
  | .ffma a b c p => some (a, 1, 5, rounded p 0 (fmaVal 0 (scalar s p b) (scalar s p c) (scalar s p a)))
  | .ffmaLiteral a b c p rm =>
    some (a, 1, 5, rounded p rm.toNat (fmaVal rm.toNat (scalar s p b) (scalar s p c) (scalar s p a)))
  | .fdiv a b c p => some (a, 16, 16, rounded p 0 (divVal (scalar s p b) (scalar s p c)))
  | .fdivLiteral a b c p rm => some (a, 16, 16, rounded p rm.toNat (divVal (scalar s p b) (scalar s p c)))
  | .fsqrt a b p => some (a, 18, 18, rounded p 0 (sqrtVal (scalar s p b)))
  | .fsqrtLiteral a b p rm => some (a, 18, 18, rounded p rm.toNat (sqrtVal (scalar s p b)))
  | .fcvt a b dst src rm => some (a, 1, 4, scalarConvert dst.toNat src.toNat rm.toNat (mine s).fctl (greg s b))
  | .fmin a b c p => some (a, 1, 2, rounded p 0 (minVal (scalar s p b) (scalar s p c)))
  | .fmax a b c p => some (a, 1, 2, rounded p 0 (maxVal (scalar s p b) (scalar s p c)))
  | _ => none

/-- Predicate, value and flags of the floating-point compares (R144): a NaN compares false; FCMPLT raises NV for any NaN,
FCMPEQ for a signalling one. -/
def floatCompare (s : State) : Instr → Option (BitVec 4 × Bool × Nat)
  | .fcmplt a b c p => some (a, ltVal (scalar s p b) (scalar s p c),
      if (scalar s p b).isNan || (scalar s p c).isNan then 1 else 0)
  | .fcmpeq a b c p => some (a, eqVal (scalar s p b) (scalar s p c),
      if (scalar s p b).isSnan || (scalar s p c).isSnan then 1 else 0)
  | _ => none

/-- FSTAT bits that land with a result: those of `f` that are set, as one record; none where no flag is raised (R46). -/
def flags (f : Nat) : List Land := if f = 0 then [] else [.fstat (BitVec.ofNat 5 f)]

end Sys2Proof.Claims

open Sys2Proof Sys2Proof.Machine Sys2Proof.Claims

/-! ## The scalar column -/

/-- R112, R136 to R138, R140 to R142, R146: in a free column each of these words occupies the datapath for its time and
writes its result to its destination register at its result cycle, and changes nothing else. -/
def Sys2Proof.Claims.IntegerResults : Prop :=
  ∀ (s : State) (i : Instr) (a : BitVec 6) (occ lat : Nat) (x : W64), Free s → integerResult s i = some (a, occ, lat, x) →
    exec i s = .next (issued s occ lat [.g a.toNat x])

/-- R139, R140, R112: the compares and predicate logic write one predicate at +2 and change nothing else. -/
def Sys2Proof.Claims.PredicateResults : Prop :=
  ∀ (s : State) (i : Instr) (p : BitVec 4) (b : Bool), Free s → predicateResult s i = some (p, b) →
    exec i s = .next (issued s 1 2 [.p p.toNat b])

/-- R143, R145, R46: a floating-point word writes the rounded result, and raises its flags, at its result cycle. -/
def Sys2Proof.Claims.FloatResults : Prop :=
  ∀ (s : State) (i : Instr) (a : BitVec 6) (occ lat : Nat) (x : W64) (f : Nat), Free s →
    floatResult s i = some (a, occ, lat, x, f) →
    exec i s = .next (issued s occ lat (.g a.toNat x :: flagLands f))

/-- R144: the floating-point compares. -/
def Sys2Proof.Claims.FloatCompares : Prop :=
  ∀ (s : State) (i : Instr) (p : BitVec 4) (b : Bool) (f : Nat), Free s → floatCompare s i = some (p, b, f) →
    exec i s = .next (issued s 1 2 (.p p.toNat b :: flags f))

namespace Sys2Proof.Claims

/-! ## Control -/

/-- The present word belongs to a management sequencer of the hub (R37, R438). -/
abbrev OnHub (s : State) : Prop := s.cur.sid % 16 = 8

/-- The state after a fatal fault of the present word (R95, R324, R328): its sequencer issues nothing more and keeps the
word's index and column; a full-frame save with the fault's code begins, but on a management sequencer, which only stops.
Nothing else changes. -/
def faulted (s : State) (code : Nat) : State :=
  let q := mine s
  let u : State :=
    if s.cur.sid % 16 = 8 then
      withMine s { q with run := .idle, fq := [], bq := [], joins := [], pc := s.cur.pc % 2 ^ 16, ecol := s.cur.col, endedAt := s.ptime 63 }
    else
      { withMine s { q with run := .ending code, fq := [], bq := [], joins := [], pc := s.cur.pc % 2 ^ 16, ecol := s.cur.col, seam := false,
                            waitb := none, endedAt := s.ptime q.task.part,
                            nest := { q.nest with stop := if q.nest.live then 2 else q.nest.stop } } with
        agenda := s.agenda ++ [event s.now 8 s.cur.sid .fullFrameSave (.half s.cur.sid code)] }
  { u with cur := { s.cur with fault := true } }

/-- The two sequencers differ at most in what the fetch unit and the splitter hold: words fetched, joins ahead, and the
fetch unit's own position and loop stack. -/
def Fetching (q r : Seq) : Prop :=
  r = { q with fpc := r.fpc, fbase := r.fbase, fpos := r.fpos, ffo := r.ffo, fgrp := r.fgrp, fflo := r.fflo, fstk := r.fstk,
               frun := r.frun, fhold := r.fhold, fstop := r.fstop, fq := r.fq, bq := r.bq, joins := r.joins }

/-- `t` is `s` after a taken transfer of the present word to index `n` (R116, R314): the words behind it in fetch order are
gone and those before it stand, fetch restarts at `n`, whose words issue no earlier than b + 4; nothing else changes. -/
def Transferred (s t : State) (n : Nat) : Prop :=
  ∃ r : Seq, t = withMine s r ∧ Fetching (mine s) r ∧ r.fpc = n ∧ r.frun = n ∧ r.fbase = s.now + 2 ∧ r.fpos = 0 ∧
    r.fflo = s.now - (mine s).slip + 4 ∧ r.ffo = s.cur.fo + 1 ∧ r.fhold = false ∧ r.fstop = false ∧ r.bq = [] ∧
    r.fq = (mine s).fq.filter (fun e => e.fo ≤ s.cur.fo) ∧ r.joins = (mine s).joins.filter (fun j => j.after ≤ s.cur.fo)

/-- `n` is the word index `x`, or lies outside every instruction store where `x` does (R12). -/
def Index (x : Int) (n : Nat) : Prop := (0 ≤ x ∧ x < 65536 → (n : Int) = x) ∧ (x < 0 ∨ 65536 ≤ x → 65536 ≤ n)

/-- The branches that write no register: whether taken, and the target (R91, R117). -/
def branch (s : State) : Instr → Option (Bool × Int)
  | .br i => some (true, (s.cur.pc : Int) + i.toInt)
  | .brp sel i => some (selected s sel, (s.cur.pc : Int) + i.toInt)
  | .ret g => some (true, ((greg s g).toNat : Int))
  | _ => none

/-- A loop body that may be entered: it is not empty and ends inside the innermost level (R118). -/
abbrev BodyFits (q : Seq) (start len : Nat) : Prop :=
  len ≠ 0 ∧ ∀ l, q.lstk.getLast? = some l → start + len ≤ l.start + l.len

/-- Delivery of the pending event `e` to sequencer `sid`, with resume word `resume` (R130): TPOS, TCAUSE, TTIME, PL, TACT,
UT and DESYNC are written, SCR0 for a TRAP (R129), fetch goes to TVEC.ENTRY, the other events stay pending, and nothing else
changes. -/
def Delivered (s t : State) (sid : Nat) (e : Pending) (resume : Nat) : Prop :=
  let q := Fm.get {} s.seqs sid
  ∃ r : Seq, t = withSeq s sid r ∧
    Fetching { q with tpos := BitVec.ofNat 19 (resume % 2 ^ 16 + 2 ^ 16 * q.lstk.length), tcause := BitVec.ofNat 12 (e.code + 2 ^ 9 * e.col),
                      ttime := BitVec.ofNat 64 (s.ptime q.task.part), pl := 1, tact := true, ut := true, desync := true,
                      pend := q.pend.filter (fun x => x.code != e.code),
                      scr := if e.code = 0x15 then Fm.set q.scr 0 (BitVec.ofNat 64 q.targ) else q.scr,
                      grp := r.grp, floor := r.floor } r ∧
    r.fq = [] ∧ r.bq = [] ∧ r.joins = [] ∧ r.fpc = q.tvec.toNat

/-- `e` is the pending event with the lowest code, the first of them. -/
abbrev Lowest (q : Seq) (e : Pending) : Prop := e ∈ q.pend ∧ (∀ x ∈ q.pend, e.code ≤ x.code) ∧ ∀ x ∈ q.pend, x.code = e.code → x = e

/-- A delivery point that delivers: a TVEC entry, no handler running, `e` the event to deliver (R130, R325, R326). -/
abbrev Delivers (q : Seq) (e : Pending) : Prop := q.tact = false ∧ q.tvec ≠ 0 ∧ Lowest q e

/-- Nothing of the sequencer is in flight that YIELD and END wait for (R123, R128): no non-detached copy, no nest. -/
abbrev Quiet (q : Seq) : Prop :=
  (∀ c ∈ q.cmds, c.launch = q.task.launch → c.det = true ∨ c.fence ≠ none) ∧ q.nest.live = false

/-- No sequencer but the present word's differs, and of the rest of the state only the agenda, the record of pages being
revoked, and the present word. -/
def Around (s t : State) : Prop :=
  (∀ i, i ≠ s.cur.sid → Fm.get {} t.seqs i = Fm.get {} s.seqs i) ∧
    t = { s with seqs := t.seqs, agenda := t.agenda, revokes := t.revokes, cur := t.cur }

/-- The deadline in cycles that a YIELD arms: 64 imm14, or YBOUND.CYC for 0 and above it (R100, R122). -/
def deadline (q : Seq) (i : BitVec 14) : Nat := if i = 0 ∨ q.ybound < 64 * i.toNat then q.ybound else 64 * i.toNat

end Sys2Proof.Claims

/-! ## The control column -/

/-- R115: NOP has no effect, and WAIT only adds imm14 cycles to its column's chain; neither occupies a datapath. R94: in a
column that a management sequencer does not have, either is an illegal instruction. -/
def Sys2Proof.Claims.NopsAndWaits : Prop :=
  (∀ (s : State) (e : BitVec 3) (i : BitVec 14), (OnHub s → e ≠ 2 ∧ e ≠ 4 ∧ e ≠ 5) →
    exec (.nop e) s = .next s ∧ exec (.wait e i) s = .next { s with cur := { s.cur with extra := i.toNat } }) ∧
  ∀ (s : State) (e : BitVec 3) (i : BitVec 14), OnHub s → e = 2 ∨ e = 4 ∨ e = 5 →
    exec (.nop e) s = .next (faulted s 1) ∧ exec (.wait e i) s = .next (faulted s 1)

/-- R94, R95: a word whose opcode its engine does not assign raises the illegal-instruction fault, and does nothing else. -/
def Sys2Proof.Claims.UnassignedOpcodeFaults : Prop :=
  ∀ (s : State) (w : BitVec 32), exec (.unassignedOpcode w) s = .next (faulted s 1)

/-- R116, R117: BR, BRP and RET transfer to their target where taken, and a BRP that is not taken only issues. -/
def Sys2Proof.Claims.BranchesTransfer : Prop :=
  ∀ (s : State) (i : Instr) (b : Bool) (x : Int), Free s → branch s i = some (b, x) →
    (b = true → ∃ t n, exec i s = .next t ∧ Index x n ∧ Transferred (occupied s 1) t n) ∧
    (b = false → exec i s = .next (occupied s 1))

/-- R117: CALL writes its index + 1 to g63 at +2 and transfers. -/
def Sys2Proof.Claims.CallSavesReturnIndex : Prop :=
  ∀ (s : State) (i : BitVec 20), Free s →
    ∃ t n, exec (.call i) s = .next t ∧ Index ((s.cur.pc : Int) + i.toInt) n ∧
      Transferred (issued s 1 2 [.g 63 (BitVec.ofNat 64 (s.cur.pc + 1))]) t n

/-- R118, R437: LOOP and LOOPI push a level with index 0 for a count of 1 or more; a count of 0 pushes nothing, and for LOOP
it is a taken transfer to the word after the body, where the words join against the loop word. An empty body, a body that
ends outside the innermost level, and a seventh level are illegal. -/
def Sys2Proof.Claims.LoopsPushLevels : Prop :=
  ∀ (s : State) (g : BitVec 6) (cnt : BitVec 20) (len : BitVec 16), Free s →
    let u := occupied s 1
    let start := s.cur.pc + 2
    let c := (greg s g).toNat % 2 ^ 32
    (¬ BodyFits (mine s) start len.toNat →
      exec (.loop g len) s = .next (faulted u 1) ∧ exec (.loopi cnt len) s = .next (faulted u 1)) ∧
    (BodyFits (mine s) start len.toNat →
      (cnt = 0 → exec (.loopi cnt len) s = .next u) ∧
      (c = 0 → ∃ t v j, exec (.loop g len) s = .next t ∧ Transferred u v (start + len.toNat) ∧
        t = withMine v { mine v with fgrp := (mine v).fgrp + 1, joins := (mine v).joins ++ [j] } ∧ j.after = s.cur.fo + 1 ∧ j.op = .first) ∧
      (6 ≤ (mine s).lstk.length → (cnt ≠ 0 → exec (.loopi cnt len) s = .next (faulted u 1)) ∧
        (c ≠ 0 → exec (.loop g len) s = .next (faulted u 1))) ∧
      ((mine s).lstk.length < 6 →
        (cnt ≠ 0 → exec (.loopi cnt len) s = .next (withMine u { mine u with
          lstk := (mine u).lstk ++ [{ count := cnt.toNat, index := 0, start := start, len := len.toNat }] })) ∧
        (c ≠ 0 → ∃ r, exec (.loop g len) s = .next (withMine u r) ∧ Fetching { mine u with
          lstk := (mine u).lstk ++ [{ count := c, index := 0, start := start, len := len.toNat }] } r)))

/-- R121: LBRK pops the innermost level and transfers where its condition holds, does nothing where it does not, and is
illegal with no level active. -/
def Sys2Proof.Claims.LbrkPopsInnermost : Prop :=
  ∀ (s : State) (sel : BitVec 6) (i : BitVec 14), Free s →
    let u := occupied s 1
    ((mine s).lstk = [] → exec (.lbrk sel i) s = .next (faulted u 1)) ∧
    ((mine s).lstk ≠ [] → sel.getLsbD 5 = false ∧ selected s (sel.setWidth 5) = false → exec (.lbrk sel i) s = .next u) ∧
    ((mine s).lstk ≠ [] → sel.getLsbD 5 = true ∨ selected s (sel.setWidth 5) = true →
      ∃ t n, exec (.lbrk sel i) s = .next t ∧ Index ((s.cur.pc : Int) + i.toInt) n ∧
        Transferred (withMine u { mine u with lstk := (mine u).lstk.dropLast }) t n)

/-- R122, R123: a YIELD on a user sequencer with nothing in flight, no stop, no give-away and no event to deliver clears V of
each handle with RP = 1, arms the deadline in partition time, notes FALLBACK for a deadline above YBOUND, and changes nothing
else; outside a handler the warnings noted so far take their place in WRN, unless the word faulted. -/
def Sys2Proof.Claims.YieldArmsDeadline : Prop :=
  ∀ (s : State) (i : BitVec 14) (live : BitVec 29), Free s → ¬ OnHub s → Quiet (mine s) → (mine s).stopp = false →
    (mine s).slend = false → (mine s).tact = true ∨ (mine s).pend = [] ∨ (mine s).lstk ≠ [] →
    let d := deadline (mine s) i
    let at_ := s.ptime (mine s).task.part + d
    ∃ t, exec (.yield i live) s = .next t ∧ Around s t ∧
      mine t = { mine (occupied s 1) with h := (mine t).h, dline := some at_, wrn := (mine t).wrn } ∧
      (mine t).wrn = (if (mine s).tact ∨ s.cur.fault then (mine s).wrn
        else (mine s).wrn ||| (if s.cur.rsvd then 1 else 0) ||| (if s.cur.fb ∨ (mine s).ybound < 64 * i.toNat then 2 else 0)) ∧
      (∀ n, Fm.get {} (mine t).h n =
        if (Fm.get {} (mine s).h n).rp then { Fm.get {} (mine s).h n with v := false } else Fm.get {} (mine s).h n) ∧
      t.agenda = s.agenda ++ [event (s.now + d) 9 s.cur.sid .deadlineFault (.seqN s.cur.sid at_)] ∧
      t.cur = { s.cur with fb := s.cur.fb || decide ((mine s).ybound < 64 * i.toNat) }

/-- R124, R130: SEAM sets UT; with no loop level active it delivers the pending event with the lowest code, whose resume word
is the one after the SEAM. -/
def Sys2Proof.Claims.SeamEntersUntimed : Prop :=
  ∀ (s : State), Free s →
    let u := withMine (occupied s 1) { mine (occupied s 1) with ut := true }
    ((mine s).lstk ≠ [] ∨ (mine s).pend = [] → exec .seam s = .next u) ∧
    ∀ e, (mine s).lstk = [] → Delivers (mine s) e → ∃ t, exec .seam s = .next t ∧ Delivered u t s.cur.sid e (s.cur.pc + 1)

/-- R128, R130, R432: END with nothing in flight and no event to deliver ends issue of its task and of its deadline, and asks for
the release of the half, or of the management sequencer, which is idle only when what it issued has completed; with an event to deliver it delivers it first, and END itself is the resume word. -/
def Sys2Proof.Claims.EndReleasesHalf : Prop :=
  ∀ (s : State), Free s → Quiet (mine s) →
    ((mine s).lstk ≠ [] ∨ (mine s).pend = [] → ∃ t, exec .endTask s = .next t ∧ Around s t ∧
      mine t = { mine (occupied s 1) with run := .finishing, fq := [], bq := [], joins := [], fstop := true, dline := none } ∧
      t.cur = s.cur ∧
      t.agenda = s.agenda ++ [event s.now 8 4 .schedulerPlacement (.seq s.cur.sid)]) ∧
    ∀ e, (mine s).lstk = [] → Delivers (mine s) e →
      ∃ t, exec .endTask s = .next t ∧ Delivered (occupied s 1) t s.cur.sid e s.cur.pc

/-- R125: WAITB at a partition time not past holds its sequencer until that time; a time past makes a schedule fault pending
and holds nothing; in a handler it is illegal. -/
def Sys2Proof.Claims.WaitbHolds : Prop :=
  ∀ (s : State) (g : BitVec 6), Free s →
    let u := occupied s 1
    let p := (mine s).task.part
    let t := (greg s g).toNat
    ((mine s).tact = true → exec (.waitb g) s = .next (faulted u 1)) ∧
    ((mine s).tact = false → s.ptime p ≤ t →
      exec (.waitb g) s = .next { withMine u { mine u with waitb := some t } with
        agenda := s.agenda ++ [event (s.now + (t - s.ptime p)) 1 (landKey s.now s.cur.sid 0) .waitbComplete (.seqN s.cur.sid t)] }) ∧
    ((mine s).tact = false → t < s.ptime p → (mine s).fatal = false → (∀ x ∈ (mine s).pend, x.code ≠ 0x11) →
      exec (.waitb g) s = .next { withMine u { mine u with pend := (mine u).pend ++ [{ code := 0x11, col := 0 }] } with
        cur := { s.cur with fault := true } })

/-- R125: at partition time G the sequencer is timed and in step, and its later words issue from G + 1 on. -/
def Sys2Proof.Claims.WaitbCompletes : Prop :=
  ∀ (s : State) (sid t : Nat), s.arg = .seqN sid t →
    let q := Fm.get {} s.seqs sid
    q.waitb = some t → t ≤ s.ptime q.task.part → q.run ≠ .halted →
      exec .waitbComplete s = .next (withSeq s sid
        { q with waitb := none, ut := false, desync := false, floor := max q.floor (s.now - q.slip + 1) })

/-- R127: LAUNCH with a free pool entry reserves it, writes its predicate at +48 and sends the descriptor's address on its
way; with no free entry it writes 0; an invalid handle or one without read permission, and an offset that is not a
multiple of 64 or lies outside the page, fault. -/
def Sys2Proof.Claims.LaunchReservesEntry : Prop :=
  ∀ (s : State) (p h : BitVec 4) (g : BitVec 6), Free s →
    let u := occupied s 1
    let x := Fm.get {} (mine s).h h.toNat
    let off := (greg s g).toNat
    let part := (mine s).task.part
    let full := 256 ≤ s.pool.countP (fun l => l.part == part)
    (u.handleOk x permRead = false → exec (.launch p h g) s = .next (faulted u 2)) ∧
    (u.handleOk x permRead = true → boundsOk x off 64 64 = false → exec (.launch p h g) s = .next (faulted u 3)) ∧
    (u.handleOk x permRead = true → boundsOk x off 64 64 = true → full → exec (.launch p h g) s = .next (issued s 1 48 [.p p.toNat false])) ∧
    (u.handleOk x permRead = true → boundsOk x off 64 64 = true → ¬ full → part ≠ 63 →
      ∃ l t, exec (.launch p h g) s = .next t ∧ l.id = s.launchNext ∧ l.part = part ∧ l.sidFrom = s.cur.sid ∧ l.descVa = x.vbase + off ∧
        t = { issued s 1 48 [.p p.toNat true] with pool := s.pool ++ [l], launchNext := s.launchNext + 1, agenda := t.agenda } ∧
        ∃ e : Ev, t.agenda = s.agenda ++ [result s 48 [.p p.toNat true], e] ∧ e.ins = .launchReceive ∧ e.arg = .launch l x off)

/-- R129: TRAP makes event 0x15 pending, with imm14 kept for SCR0, and nothing else. -/
def Sys2Proof.Claims.TrapPostsEvent : Prop :=
  ∀ (s : State) (i : BitVec 14), Free s → (mine s).fatal = false → (∀ x ∈ (mine s).pend, x.code ≠ 0x15) →
    exec (.trap i) s = .next (withMine (occupied s 1) { mine (occupied s 1) with
      targ := i.toNat, pend := (mine s).pend ++ [{ code := 0x15, col := 0 }] })

/-- R131: ERET is illegal on a management sequencer, at U, with TACT = 0, and where LDEPTH differs from TPOS.LD; else it
transfers to TPOS.PC at PL U with TACT 0, and leaves UT and DESYNC. It is OP 0x10 of the CTL engine, and its 20 operand bits are
reserved. -/
def Obligations.EretReturns : Prop :=
  (∀ n, n < 2 ^ 20 → (decodeWord (0x10 * 2 ^ 20 + n) none).toOption = some { ins := .eret, eng := 0, dly := 0, rsvd := decide (n ≠ 0) }) ∧
  ∀ (s : State), Free s →
    let u := occupied s 1
    let q := mine s
    (OnHub s ∨ q.pl ≠ 1 ∨ q.tact = false ∨ q.lstk.length ≠ q.tpos.toNat / 65536 → exec .eret s = .next (faulted u 1)) ∧
    (¬ OnHub s → q.pl = 1 → q.tact = true → q.lstk.length = q.tpos.toNat / 65536 →
      ∃ t, exec .eret s = .next t ∧ Transferred (withMine u { mine u with pl := 0, tact := false }) t (q.tpos.toNat % 65536))

/-- R132: BKPT is a NOP but for its issue where debug is not enabled; where it is, its sequencer issues nothing more and the
partition's freeze is requested 64 cycles later. -/
def Sys2Proof.Claims.BkptFreezesPartition : Prop :=
  ∀ (s : State) (i : BitVec 14), Free s →
    let p := (mine s).task.part
    let u := occupied s 1
    (p = 63 ∨ ((s.part p).get 3 1) % 2 = 0 → exec (.bkpt i) s = .next u) ∧
    (p ≠ 63 → ((s.part p).get 3 1) % 2 = 1 → ∃ t, exec (.bkpt i) s = .next t ∧
      mine t = { mine u with run := .halted, pc := s.cur.pc, fq := (mine t).fq } ∧
      (t.part p).bkpt = (s.part p).bkpt ++ [s.cur.sid] ∧ (t.part p).img = (s.part p).img ∧
      t.agenda = s.agenda ++ [event (s.now + 64) 0 0 .freezeBegin (.freeze p (s.beaconOf 8 + 64))] ∧
      t = { u with seqs := t.seqs, parts := t.parts, agenda := t.agenda })

namespace Sys2Proof.Claims

/-! ## System registers -/

/-- The level of the present word: H on a management sequencer, else TSTAT.PL (R36, R37). -/
def level (s : State) : Nat := if s.cur.sid % 16 = 8 then 2 else (mine s).pl

/-- The least level that reads a register of the sequencer (R41); none for a number below 0x100 that names none. -/
def readFrom : Nat → Option Nat
  | 0 | 1 | 2 | 3 | 4 | 5 | 0xC | 0xD | 0xE | 0xF | 0x10 => some 0
  | 8 | 9 | 0xA | 0xB | 0x11 | 0x12 | 0x13 | 0x14 => some 1
  | _ => none

/-- The least level that writes it, and the bits of its fields (R41, R43 to R51). -/
def writeFrom : Nat → Option (Nat × W64)
  | 1 => some (0, 0xFF)
  | 2 => some (0, 0x1F)
  | 3 => some (0, 1)
  | 5 => some (0, 0xFFFFFFF3F)
  | 4 => some (1, 0xFFFFFFFF00000001)
  | 8 => some (1, 0xFFFF)
  | 0xA => some (1, 0x7FFFF)
  | 0xC => some (1, 0xFFFFFFFFFF0000)
  | 0xF => some (1, 0xFFFFFFFF)
  | 0x11 | 0x12 | 0x13 | 0x14 => some (1, 0xFFFFFFFFFFFFFFFF)
  | _ => none

/-- A flag at a bit of a register. -/
def at_ (b : Bool) (i : Nat) : Nat := if b then 2 ^ i else 0

/-- What a register of the sequencer reads as (R41, R43 to R51). -/
def registerValue (s : State) (n : Nat) : Nat :=
  let q := mine s
  match n with
  | 0 => at_ q.ut 0 + level s * 2 + at_ q.tact 3 + at_ q.desync 4 + at_ (s.split s.cur.sid) 5 + sqOf s.cur.sid * 64 +
      q.lstk.length % 8 * 128 + at_ q.slend 10 + at_ q.stopp 11
  | 1 => q.wrn.toNat
  | 2 => q.fstat.toNat
  | 3 => at_ q.fctl 0
  | 4 => at_ q.trapMode 0 + q.hcyc * 2 ^ 32
  | 5 => q.errs.toNat
  | 8 => q.tvec.toNat
  | 9 => q.tcause.toNat
  | 0xA => q.tpos.toNat
  | 0xB => q.ttime.toNat
  | 0xC => q.frame.toNat
  | 0xD => q.ybound
  | 0xE => match q.dline with
    | some t => t - s.ptime q.task.part
    | none => q.ybound
  | 0xF => (s.part q.task.part).clamp.toNat
  | 0x10 => s.cur.sid % 8192 + q.task.part % 64 * 2 ^ 13 + s.gen q.task.part % 256 * 2 ^ 19
  | 0x11 => (Fm.get 0 q.scr 0).toNat
  | 0x12 => (Fm.get 0 q.scr 1).toNat
  | 0x13 => (Fm.get 0 q.scr 2).toNat
  | 0x14 => (Fm.get 0 q.scr 3).toNat
  | _ => 0

/-- A sequencer after a write of `v` to register `n` under the access codes of its fields (R8, R43 to R51): W1C in WRN, FSTAT
and ERRS, where a cleared FIRST clears what is recorded with it; RO fields as they were. -/
def written (q : Seq) (n : Nat) (v : W64) : Seq :=
  match n with
  | 1 => { q with wrn := q.wrn &&& ~~~(v.truncate 8) }
  | 2 => { q with fstat := q.fstat &&& ~~~(v.truncate 5) }
  | 3 => { q with fctl := v.getLsbD 0 }
  | 4 => { q with trapMode := v.getLsbD 0 }
  | 5 => { q with errs := if q.errs.getLsbD 0 && !v.getLsbD 0 then q.errs &&& ~~~(v &&& 2) else q.errs &&& ~~~(v &&& 2) &&& 2 }
  | 8 => { q with tvec := v.truncate 16 }
  | 0xA => { q with tpos := (q.tpos &&& 0x70000) ||| (v.truncate 16).zeroExtend 19 }
  | 0xC => { q with frame := v &&& 0xFFFFFFFFFF0000 }
  | 0x11 => { q with scr := Fm.set q.scr 0 v }
  | 0x12 => { q with scr := Fm.set q.scr 1 v }
  | 0x13 => { q with scr := Fm.set q.scr 2 v }
  | 0x14 => { q with scr := Fm.set q.scr 3 v }
  | _ => q

/-- The state with an event more on the agenda. -/
def scheduled (s : State) (e : Ev) : State := { s with agenda := s.agenda ++ [e] }

/-- The state with RSVD recorded for the present word where `b` (R94). -/
def markRsvd (s : State) (b : Bool) : State := { s with cur := { s.cur with rsvd := s.cur.rsvd || b } }

/-- The state with FALLBACK recorded for the present word where `b` (R100). -/
def markFallback (s : State) (b : Bool) : State := { s with cur := { s.cur with fb := s.cur.fb || b } }

/-- A tile of the module: v0 to v15 of sequencer `sid`, or of its partner as v16 to v31 (R15). -/
def tileOf (s : State) (sid n : Nat) : TileBits :=
  if n < 16 then Fm.get 0 (Fm.get {} s.seqs sid).v n
  else Fm.get 0 (Fm.get {} s.seqs (if sid < 4096 then sid + 4096 else sid - 4096)).v (n - 16)

/-- One landing changes its register of sequencer `sid` as R113 and the register's own rule say, and no other sequencer. Storage
that is written anew holds no double-bit error any more (R334); a handle of a page that is being revoked gets RP (R293). -/
def landed (s : State) (sid : Nat) (l : Land) : Option Seq :=
  let q := Fm.get {} s.seqs sid
  match l with
  | .g n v => some { q with g := Fm.set q.g n v, upset := q.upset.filter (fun x => !(x == Spot.g n)) }
  | .h n x => some { q with h := Fm.set q.h n (if x.v then { x with rp := x.rp || s.revoking q.task.part x.vbase } else x) }
  | .k n x => some { q with k := Fm.set q.k n x }
  | .shape x => some { q with shape := x }
  | .fstat f => some { q with fstat := q.fstat ||| f }
  | .wrn b => some { q with wrn := q.wrn ||| b }
  | .smode b => some { q with trapMode := b }
  | .sysreg n v => if (writeFrom n).isSome ∧ n ≠ 0xF then some (written q n v) else none
  | .mask n d m => some { q with
      m := if n = 0 then q.m else Fm.set q.m n ((Fm.get 0 q.m n &&& ~~~m) ||| (d &&& m)), upset := q.upset.filter (fun x => !Spot.ofMask n m.toNat x) }
  | .ring n x =>
    let r := Fm.get {} q.rings n
    some { q with
      rings := Fm.set q.rings n { ent := Fm.set r.ent r.nxt x, nxt := (r.nxt + 1) % 16, cnt := min (r.cnt + 1) 16 },
      upset := q.upset.filter (fun x => !(x == Spot.amax n r.nxt)) }
  | _ => none

end Sys2Proof.Claims

/-! ## System registers and landings -/

/-- R133: SMODE, at every level, only sets SMODE.TRAP of its own sequencer, from the next cycle on, to imm14[0]. It is OP 0x12 of the CTL
engine; A and imm14[13:1] are reserved. -/
def Obligations.SmodeSetsTrapMode : Prop :=
  (∀ n, n < 2 ^ 20 → (decodeWord (0x12 * 2 ^ 20 + n) none).toOption =
    some { ins := .smode (BitVec.ofNat 1 n), eng := 0, dly := 0, rsvd := decide (2 ≤ n) }) ∧
  (∀ (s : State) (t : BitVec 1), Free s → exec (.smode t) s = .next (issued s 1 1 [.smode (t.getLsbD 0)])) ∧
  ∀ (s : State) (sid : Nat) (b : Bool), s.arg = .land sid [.smode b] →
    exec .resultLanding s = .next (withSeq s sid { Fm.get {} s.seqs sid with trapMode := b })

/-- R134, R41 to R51: RDSR of a register of the sequencer writes its value in the issue cycle to its g register at +2; a
number that is unassigned, or not readable at the level, is an illegal instruction. -/
def Sys2Proof.Claims.RdsrReadsOwnRegisters : Prop :=
  ∀ (s : State) (g : BitVec 6) (r : BitVec 14), Free s → r.toNat < 0x100 →
    ((∃ l, readFrom r.toNat = some l ∧ l ≤ level s) →
      exec (.rdsr g r) s = .next (issued s 1 2 [.g g.toNat (BitVec.ofNat 64 (registerValue s r.toNat))])) ∧
    ((∀ l, readFrom r.toNat = some l → level s < l) → exec (.rdsr g r) s = .next (faulted (occupied s 1) 1))

/-- R134, R272, R339: at H on a management sequencer, RDSR of a hub register writes its value at +2, and of a register of
the die that DSEL names samples it at +20; on a user sequencer such a number is illegal. -/
def Sys2Proof.Claims.RdsrReadsConfiguration : Prop :=
  ∀ (s : State) (g : BitVec 6) (r : BitVec 14), Free s → 0x100 ≤ r.toNat →
    (¬ OnHub s → exec (.rdsr g r) s = .next (faulted (occupied s 1) 1)) ∧
    (OnHub s → isHubReg r.toNat = true → isDieReg r.toNat = false →
      exec (.rdsr g r) s = .next (issued s 1 2 [.g g.toNat (BitVec.ofNat 64 (s.hubReg s.cur.sid r.toNat))])) ∧
    (OnHub s → isDieReg r.toNat = true → Fm.get 8 s.dsel s.cur.sid < 8 →
      exec (.rdsr g r) s = .next (issued s 1 20 [.sample r.toNat (Fm.get 8 s.dsel s.cur.sid) g.toNat s.now])) ∧
    (OnHub s → isDieReg r.toNat = true → 8 ≤ Fm.get 8 s.dsel s.cur.sid →
      exec (.rdsr g r) s = .next (issued s 1 2 [.g g.toNat 0])) ∧
    (isHubReg r.toNat = false → isDieReg r.toNat = false → exec (.rdsr g r) s = .next (faulted (occupied s 1) 1))

/-- R134, R94: WRSR of a register of the sequencer other than CLAMPCNT puts its write in place at +2, ahead of all else in
that cycle, and sets RSVD for a bit outside the register's fields; a number not writable at the level is illegal. -/
def Sys2Proof.Claims.WrsrWritesOwnRegisters : Prop :=
  ∀ (s : State) (g : BitVec 6) (r : BitVec 14), Free s → r.toNat < 0x100 →
    (∀ l f, writeFrom r.toNat = some (l, f) → l ≤ level s → r.toNat ≠ 0xF →
      exec (.wrsr g r) s = .next (scheduled (markRsvd (occupied s 1) (decide (greg s g &&& ~~~f ≠ 0)))
        (event (s.now + 2) 0 (landKey s.now s.cur.sid 0) .resultLanding (.land s.cur.sid [.sysreg r.toNat (greg s g)])))) ∧
    ((∀ l f, writeFrom r.toNat = some (l, f) → level s < l) → exec (.wrsr g r) s = .next (faulted (occupied s 1) 1))

/-- R51, R134: WRSR of CLAMPCNT sends 0 at S and the value at H, and the write replaces the counter of the partition. -/
def Sys2Proof.Claims.ClampcntWrites : Prop :=
  (∀ (s : State) (g : BitVec 6) (r : BitVec 14), Free s → r.toNat = 0xF → 1 ≤ level s →
    exec (.wrsr g r) s = .next (scheduled (markRsvd (occupied s 1) (decide (greg s g &&& ~~~0xFFFFFFFF ≠ 0)))
      (event (s.now + 2) 0 (landKey s.now s.cur.sid 0) .clampcntWrite
        (.partN (mine s).task.part (if level s = 2 then (greg s g).toNat % 2 ^ 32 else 0))))) ∧
  ∀ (s : State) (p v : Nat), s.arg = .partN p v →
    exec .clampcntWrite s = .next { s with parts := Fm.set s.parts p { Fm.get {} s.parts p with clamp := BitVec.ofNat 32 v } }

/-- R113, R21, R46, R43 to R51: a landing writes its register, and nothing else: FSTAT and WRN bits are ORed, a ring takes an
entry more, m0 ignores a write, a system register takes the value its access codes give. -/
def Sys2Proof.Claims.LandingsWriteRegisters : Prop :=
  ∀ (s : State) (sid : Nat) (x : Land) (r : Seq), s.arg = .land sid [x] → landed s sid x = some r →
    exec .resultLanding s = .next (withSeq s sid r)

/-- R15, R18, R113, R150: a tile landing replaces the bits it covers of the tile it names, of the partner's for v16 to v31, keeps
that tile's other bits, and every other tile of the module. -/
def Sys2Proof.Claims.TileLandingsMerge : Prop :=
  ∀ (s : State) (sid n : Nat) (d m : TileBits), s.arg = .land sid [.tile n d m] → sid < 8192 → n < 32 →
    ∃ t, exec .resultLanding s = .next t ∧ tileOf t sid n = (tileOf s sid n &&& ~~~m) ||| (d &&& m) ∧
      (∀ i k, i < 8192 → k < 16 → (i ≠ (if n < 16 then sid else if sid < 4096 then sid + 4096 else sid - 4096) ∨ k ≠ n % 16) →
        tileOf t i k = tileOf s i k) ∧
      t = { s with seqs := t.seqs } ∧
      (∀ i, Fm.get {} t.seqs i = { Fm.get {} s.seqs i with v := (Fm.get {} t.seqs i).v, upset := (Fm.get {} t.seqs i).upset }) ∧
      ∀ i, (Fm.get {} t.seqs i).upset = (Fm.get {} s.seqs i).upset.filter (fun x =>
        !(i == (if n < 16 then sid else if sid < 4096 then sid + 4096 else sid - 4096) && Spot.ofTile (n % 16) m.toNat x))

namespace Sys2Proof.Claims

/-! ## Tiles -/

/-- Element type, columns, rows and elements of the present SHAPE (R19, R148). -/
def typ (s : State) : Nat := (mine s).shape.toNat / 16384
def columns (s : State) : Nat := (mine s).shape.toNat / 64 % 256 + 1
def rowCount (s : State) : Nat := (mine s).shape.toNat % 64 + 1
def count (s : State) : Nat := rowCount s * columns s
/-- Width of an element in bits. -/
def width (s : State) : Nat := typeBits (typ s)
/-- b(x) of R155 for `n` elements of type `t`: a cycle for each 512 bytes, at least one. -/
def cyclesFor (t n : Nat) : Nat := max 1 (((n * typeBits t + 7) / 8 + 511) / 512)
/-- Occupancy of an ordinary VEC word: b(B) (R155). -/
def occB (s : State) : Nat := cyclesFor (typ s) (count s)

/-- Element `i` of a tile in the present SHAPE (R18, R148). -/
def elem (s : State) (n : Nat) (i : Nat) : Nat := (tileOf s s.cur.sid n).toNat / 2 ^ (width s * i) % 2 ^ width s
/-- Mask tile `k`; m0 is all ones (R15). -/
def maskOf (s : State) (k : Nat) : MaskBits := if k = 0 then BitVec.allOnes 16384 else Fm.get 0 (mine s).m k
/-- Act of element `i` under mask `k` (R148). -/
def active (s : State) (k : BitVec 3) (i : Nat) : Bool := (maskOf s k.toNat).getLsbD (i / columns s * 256 + i % columns s)

/-- A VEC word that writes one tile: the tiles it names, its occupancy and latency, the destination and its element type, whether
a fallback applies (R100), and each element of the result with the flags it raises. -/
structure TileWord where
  names : List Nat
  occ : Nat
  lat : Nat
  dst : Nat
  ty : Nat
  fb : Bool
  res : Nat → Nat × Nat

/-- Element `i` of an ordinary VEC word with a mask: the result where it is active, else the pass-through source's, which raises
nothing (R150). -/
def masked (s : State) (k : BitVec 3) (pass : BitVec 5) (f : Nat → Nat × Nat) (i : Nat) : Nat × Nat :=
  if active s k i then f i else (elem s pass.toNat i, 0)

/-- M is reserved for what the type rounds; elsewhere it takes the fallback (R100). -/
def mFb (s : State) (m : BitVec 2) (rounds : Bool) : Bool := m != 0 && !(rounds && !isInt (typ s))

/-- An ordinary word: b(B) cycles, result at b(B) + 3, elements of the present type (R155). -/
def ordinary (s : State) (names : List (BitVec 5)) (v : BitVec 5) (fb : Bool) (f : Nat → Nat × Nat) : Option TileWord :=
  some ⟨names.map BitVec.toNat, occB s, occB s + 3, v.toNat, typ s, fb, f⟩

/-- An element of an operation on numbers (R152, R156): integers wrap; other types compute on the decoded values and round once. -/
def arith (s : State) (m : BitVec 2) (fi : Int → Int → Int → Int) (ff : Nat → Val → Val → Val → Val × Nat) (a b d : Nat) : Nat × Nat :=
  elemOp fi ff (typ s) (if isInt (typ s) then 0 else m.toNat) (mine s).fctl a b d

/-- The element-wise words (R156). -/
def elementWord (s : State) : Instr → Option TileWord
  | .vadd v a b k m => ordinary s [v, a, b] v (mFb s m true) (masked s k a fun i =>
      arith s m (fun x y _ => x + y) (fun r x y _ => addVal r x y) (elem s a.toNat i) (elem s b.toNat i) 0)
  | .vsub v a b k m => ordinary s [v, a, b] v (mFb s m true) (masked s k a fun i =>
      arith s m (fun x y _ => x - y) (fun r x y _ => addVal r x y.neg) (elem s a.toNat i) (elem s b.toNat i) 0)
  | .vmul v a b k m => ordinary s [v, a, b] v (mFb s m true) (masked s k a fun i =>
      arith s m (fun x y _ => x * y) (fun _ x y _ => mulVal x y) (elem s a.toNat i) (elem s b.toNat i) 0)
  | .vfma v a b k m => ordinary s [v, a, b] v (mFb s m true) (masked s k v fun i =>
      arith s m (fun x y d => x * y + d) (fun r x y d => fmaVal r x y d) (elem s a.toNat i) (elem s b.toNat i) (elem s v.toNat i))
  | .vfms v a b k m => ordinary s [v, a, b] v (mFb s m true) (masked s k v fun i =>
      arith s m (fun x y d => d - x * y) (fun r x y d => fmaVal r x.neg y d) (elem s a.toNat i) (elem s b.toNat i) (elem s v.toNat i))
  | .vmin v a b k m => ordinary s [v, a, b] v (mFb s m false) (masked s k a fun i =>
      arith s m (fun x y _ => if x ≤ y then x else y) (fun _ x y _ => minVal x y) (elem s a.toNat i) (elem s b.toNat i) 0)
  | .vmax v a b k m => ordinary s [v, a, b] v (mFb s m false) (masked s k a fun i =>
      arith s m (fun x y _ => if x ≤ y then y else x) (fun _ x y _ => maxVal x y) (elem s a.toNat i) (elem s b.toNat i) 0)
  | .vabs v a k m => ordinary s [v, a] v (mFb s m false) (masked s k a fun i =>
      arith s m (fun x _ _ => if x < 0 then -x else x) (fun _ x _ _ => (x.abs, nanFlags [x])) (elem s a.toNat i) 0 0)
  | .vneg v a k m => ordinary s [v, a] v (mFb s m false) (masked s k a fun i =>
      arith s m (fun x _ _ => -x) (fun _ x _ _ => (x.neg, nanFlags [x])) (elem s a.toNat i) 0 0)
  | .vclamp v a b k m => ordinary s [v, a, b] v (mFb s m false) (masked s k v fun i =>
      arith s m (fun x y d => min (max d x) y)
        (fun _ x y d => ((minVal (maxVal d x).1 y).1, (maxVal d x).2 ||| (minVal (maxVal d x).1 y).2))
        (elem s a.toNat i) (elem s b.toNat i) (elem s v.toNat i))
  | _ => none

/-- The words that place bits without arithmetic: logic and shifts (R157), VSEL (R159), moves and fills (R161), VPERM (R167), VROT
(R168), VTRN (R165). -/
def bitsWord (s : State) : Instr → Option TileWord
  | .vand v a b k m => ordinary s [v, a, b] v (mFb s m false) (masked s k a fun i => (elem s a.toNat i &&& elem s b.toNat i, 0))
  | .vor v a b k m => ordinary s [v, a, b] v (mFb s m false) (masked s k a fun i => (elem s a.toNat i ||| elem s b.toNat i, 0))
  | .vxor v a b k m => ordinary s [v, a, b] v (mFb s m false) (masked s k a fun i => (elem s a.toNat i ^^^ elem s b.toNat i, 0))
  | .vnot v a k m => ordinary s [v, a] v (mFb s m false) (masked s k a fun i => (2 ^ width s - 1 - elem s a.toNat i, 0))
  | .vshl v a b k m => ordinary s [v, a, b] v (mFb s m false) (masked s k a fun i =>
      (elem s a.toNat i * 2 ^ (elem s b.toNat i % width s) % 2 ^ width s, 0))
  | .vshr v a b k m => ordinary s [v, a, b] v (mFb s m false) (masked s k a fun i =>
      (elem s a.toNat i / 2 ^ (elem s b.toNat i % width s), 0))
  | .vsar v a b k m => ordinary s [v, a, b] v (mFb s m false) (masked s k a fun i =>
      (ofInt (sgn (elem s a.toNat i) (width s) / 2 ^ (elem s b.toNat i % width s)) (width s), 0))
  | .vsel v a b k m => ordinary s [v, a, b] v (mFb s m false) (fun i =>
      (if active s k i then elem s a.toNat i else elem s b.toNat i, 0))
  | .vmov v a k m => ordinary s [v, a] v (mFb s m false || k != 0) (fun i => (elem s a.toNat i, 0))
  | .vfill v g k m => ordinary s [v] v (mFb s m false || k != 0) (fun _ => ((greg s (g.setWidth 6)).toNat % 2 ^ width s, 0))
  | .vbrow v a g k m => ordinary s [v, a] v (mFb s m false) (masked s k a fun i =>
      (elem s a.toNat ((greg s (g.setWidth 6)).toNat % rowCount s * columns s + i % columns s), 0))
  | .vbcol v a g k m => ordinary s [v, a] v (mFb s m false) (masked s k a fun i =>
      (elem s a.toNat (i / columns s * columns s + (greg s (g.setWidth 6)).toNat % columns s), 0))
  | .vperm v a b k m => ordinary s [v, a, b] v (mFb s m false || k != 0) (fun i =>
      (elem s a.toNat (i / columns s * columns s + (tileOf s s.cur.sid b.toNat).toNat / 2 ^ (8 * (i % 4096)) % 256 % columns s), 0))
  | .vrot v a g k m => ordinary s [v, a] v (mFb s m false || k != 0) (fun i =>
      (elem s a.toNat (i / columns s * columns s +
        ((((i % columns s : Nat) : Int) - (greg s (g.setWidth 6)).toInt) % (columns s : Int)).toNat), 0))
  | .vtrn v a k m =>
    if columns s ≤ 64 then
      ordinary s [v, a] v (mFb s m false || k != 0) (fun i => (elem s a.toNat (i % rowCount s * columns s + i / rowCount s), 0))
    else none
  | .vpte v a b k m => some ⟨[v.toNat], 1, 4, v.toNat, typ s, mFb s m false || k != 0, fun i =>
      (if i = (greg s (b.setWidth 6)).toNat % count s then (greg s (a.setWidth 6)).toNat % 2 ^ width s else elem s v.toNat i, 0)⟩
  | _ => none

/-- One sum of R77 over element numbers `l` of a list of values, and one maximum of R78. -/
def sumOver (s : State) (m : BitVec 2) (l : List Nat) : Nat × Nat :=
  tree (sumStep (typ s) (if isInt (typ s) then 0 else m.toNat) (mine s).fctl) 0 l
def maxOver (s : State) (l : List Nat) : Nat × Nat := tree (maxStep (typ s)) (maxPad (typ s)) (maxPad (typ s) :: l)

/-- Flags of decoding elements: WRN.UNKFMT for a D8 class G code (R58). -/
def decodeAll (s : State) (l : List Nat) : Nat := l.foldl (fun f x => f ||| decodeFlags (typ s) x) 0

/-- A sum over active elements, the inactive ones entering as 0, and a maximum over the active elements (R77, R78, R163). -/
def rowSum (s : State) (a : BitVec 5) (k : BitVec 3) (m : BitVec 2) (l : List Nat) : Nat × Nat :=
  let r := sumOver s m (l.map fun i => if active s k i then elem s a.toNat i else 0)
  (r.1, r.2 ||| decodeAll s ((l.filter (active s k)).map (elem s a.toNat)))
def rowMax (s : State) (a : BitVec 5) (k : BitVec 3) (l : List Nat) : Nat × Nat :=
  let x := (l.filter (active s k)).map (elem s a.toNat)
  ((maxOver s x).1, (maxOver s x).2 ||| decodeAll s x)

/-- Element numbers of a row and of a column. -/
def rowOf (s : State) (i : Nat) : List Nat := (List.range (columns s)).map (i / columns s * columns s + ·)
def columnOf (s : State) (i : Nat) : List Nat := (List.range (rowCount s)).map (· * columns s + i % columns s)

/-- The reductions (R163, R164): the first element of each row, or of each column, takes the result; the others pass through. -/
def reductionWord (s : State) : Instr → Option TileWord
  | .vrsum v a k m => ordinary s [v, a] v (mFb s m true) (fun i =>
      if i % columns s = 0 then rowSum s a k m (rowOf s i) else (elem s a.toNat i, 0))
  | .vrmax v a k m => ordinary s [v, a] v (mFb s m false) (fun i =>
      if i % columns s = 0 then rowMax s a k (rowOf s i) else (elem s a.toNat i, 0))
  | .vcsum v a k m => ordinary s [v, a] v (mFb s m true) (fun i =>
      if i < columns s then rowSum s a k m (columnOf s i) else (elem s a.toNat i, 0))
  | .vcmax v a k m => ordinary s [v, a] v (mFb s m false) (fun i =>
      if i < columns s then rowMax s a k (columnOf s i) else (elem s a.toNat i, 0))
  | .vrdot v a b k m => ordinary s [v, a, b] v (mFb s m true) (fun i =>
      if i % columns s = 0 then
        let p := (rowOf s i).map fun j =>
          if active s k j then arith s m (fun x y _ => x * y) (fun _ x y _ => mulVal x y) (elem s a.toNat j) (elem s b.toNat j) 0
          else (0, 0)
        let r := sumOver s m (p.map (·.1))
        (r.1, r.2 ||| orFlags p)
      else (elem s a.toNat i, 0))
  | _ => none

/-- The words that convert (R161, R169, R171) and the special functions (R172). -/
def convertWord (s : State) : Instr → Option TileWord
  | .viota v g n k m => ordinary s [v] v (mFb s m true || k != 0) (fun i =>
      fromInteger (typ s) (if isInt (typ s) then 0 else m.toNat) (mine s).fctl ((greg s (g.setWidth 6)).toInt +
        ((if n = 0 then i else if n = 1 then i % columns s else if n = 2 then i / columns s
          else i % columns s * rowCount s + i / columns s : Nat) : Int)))
  | .vcvt v a t k m =>
    let occ := max (occB s) (cyclesFor t.toNat (count s))
    if bytesFor t.toNat (count s) ≤ 4096 then
      some ⟨[v.toNat, a.toNat], occ, occ + 3, v.toNat, t.toNat, k != 0, fun i => convert (typ s) t.toNat m.toNat (mine s).fctl (elem s a.toNat i)⟩
    else none
  | .vqnt v a n f =>
    let t := quantType f.toNat
    let occ := max (occB s) (cyclesFor t (count s))
    if f.toNat < 5 ∧ bytesFor t (count s) ≤ 4096 then
      some ⟨[v.toNat, a.toNat], occ, occ + 3, v.toNat, t, false, fun i =>
        let r := quantise f.toNat (selectScale (Fm.get {} (mine s).rings n.toNat).counted f.toNat) (decodeVal (typ s) (elem s a.toNat i))
        (r.1, r.2 ||| decodeFlags (typ s) (elem s a.toNat i))⟩
    else none
  | .vrcpa v a k => some ⟨[v.toNat, a.toNat], 2 * occB s, 2 * occB s + 9, v.toNat, typ s, false, masked s k a fun i => special 0 (typ s) (elem s a.toNat i) (mine s).fctl⟩
  | .vrsqa v a k => some ⟨[v.toNat, a.toNat], 2 * occB s, 2 * occB s + 9, v.toNat, typ s, false, masked s k a fun i => special 1 (typ s) (elem s a.toNat i) (mine s).fctl⟩
  | .vexp2 v a k => some ⟨[v.toNat, a.toNat], 2 * occB s, 2 * occB s + 9, v.toNat, typ s, false, masked s k a fun i => special 2 (typ s) (elem s a.toNat i) (mine s).fctl⟩
  | .vlog2 v a k => some ⟨[v.toNat, a.toNat], 2 * occB s, 2 * occB s + 9, v.toNat, typ s, false, masked s k a fun i => special 3 (typ s) (elem s a.toNat i) (mine s).fctl⟩
  | .vtanh v a k => some ⟨[v.toNat, a.toNat], 2 * occB s, 2 * occB s + 9, v.toNat, typ s, false, masked s k a fun i => special 4 (typ s) (elem s a.toNat i) (mine s).fctl⟩
  | _ => none

/-- Tiles that the core mode lets a word name: none from v16 on in SPLIT mode (R29, R154). -/
abbrev Nameable (s : State) (l : List Nat) : Prop := s.split s.cur.sid = true → ∀ n ∈ l, n < 16

/-- The state after a VEC word that writes one tile (R149, R150, R152). -/
def tileDone (s : State) (w : TileWord) : State :=
  let l := (List.range (count s)).map w.res
  markFallback (issued s w.occ w.lat (tileLand w.dst w.ty (l.map (·.1)) :: flagLands (orFlags l))) w.fb

/-- Any of the words that write one tile. -/
def tileWord (s : State) (i : Instr) : Option TileWord :=
  (elementWord s i).or ((bitsWord s i).or ((reductionWord s i).or (convertWord s i)))

/-- The comparison of R158: 0 =, 1 <, 2 ≤, with its flags. -/
def compared (s : State) (o : Nat) (a b : BitVec 5) (i : Nat) : Bool × Nat :=
  let x := decodeVal (typ s) (elem s a.toNat i)
  let y := decodeVal (typ s) (elem s b.toNat i)
  let f := decodeFlags (typ s) (elem s a.toNat i) ||| decodeFlags (typ s) (elem s b.toNat i)
  if x.isNan || y.isNan then (false, (if o = 0 then (if x.isSnan || y.isSnan then 1 else 0) else 1) ||| f)
  else (if o = 0 then eqVal x y else if o = 1 then ltVal x y else !ltVal y x, f)

/-- The compares, with the code of their operation (R158). -/
def compareWord : Instr → Option (Nat × BitVec 3 × BitVec 5 × BitVec 5 × BitVec 3 × BitVec 2)
  | .vcmpeq v a b k m => some (0, v, a, b, k, m)
  | .vcmplt v a b k m => some (1, v, a, b, k, m)
  | .vcmple v a b k m => some (2, v, a, b, k, m)
  | _ => none

/-- The words that interleave k tiles, with k, and the element of the k sources, one after the other, that result element `i` of
the concatenation of the k destinations takes (R166). -/
def zipWord (s : State) : Instr → Option (Nat × BitVec 5 × BitVec 5 × BitVec 3 × BitVec 2 × (Nat → Nat))
  | .vzip2 v a k m => some (2, v, a, k, m, fun i => i % 2 * count s + i / 2)
  | .vzip3 v a k m => some (3, v, a, k, m, fun i => i % 3 * count s + i / 3)
  | .vzip4 v a k m => some (4, v, a, k, m, fun i => i % 4 * count s + i / 4)
  | .vunz2 v a k m => some (2, v, a, k, m, fun i => i % count s * 2 + i / count s)
  | .vunz3 v a k m => some (3, v, a, k, m, fun i => i % count s * 3 + i / count s)
  | .vunz4 v a k m => some (4, v, a, k, m, fun i => i % count s * 4 + i / count s)
  | _ => none

end Sys2Proof.Claims

/-! ## The vector column -/

/-- R147: SHAPE sets its register in the issue cycle, occupying nothing, for a shape of at most 4,096 bytes, and is illegal, the
register kept, for a larger one. -/
def Sys2Proof.Claims.ShapeSetsGeometry : Prop :=
  ∀ (s : State) (x : BitVec 18), ¬ OnHub s →
    let b := ((x.toNat % 64 + 1) * (x.toNat / 64 % 256 + 1) * typeBits (x.toNat / 16384) + 7) / 8
    (b ≤ 4096 → exec (.shape x) s = .next (withMine s { mine s with shape := x })) ∧
    (4096 < b → exec (.shape x) s = .next (faulted s 1))

/-- R156, R148 to R150, R152, R155: an element-wise word writes each active element's result, rounded once or wrapped, and the
pass-through source's element elsewhere, with the flags of the active elements, at b(B) + 3, and changes nothing else. -/
def Sys2Proof.Claims.ElementwiseWords : Prop :=
  ∀ (s : State) (i : Instr) (w : TileWord), Free s → ¬ OnHub s → elementWord s i = some w → Nameable s w.names →
    exec i s = .next (tileDone s w)

/-- R157, R159, R161, R162, R165, R167, R168: the words that place bits without arithmetic. -/
def Sys2Proof.Claims.BitPlacingWords : Prop :=
  ∀ (s : State) (i : Instr) (w : TileWord), Free s → ¬ OnHub s → bitsWord s i = some w → Nameable s w.names →
    exec i s = .next (tileDone s w)

/-- R77, R78, R163, R164: the reductions and VRDOT. -/
def Sys2Proof.Claims.Reductions : Prop :=
  ∀ (s : State) (i : Instr) (w : TileWord), Free s → ¬ OnHub s → reductionWord s i = some w → Nameable s w.names →
    exec i s = .next (tileDone s w)

/-- R161, R169, R171, R172: VIOTA, VCVT, VQNT and the special functions. -/
def Sys2Proof.Claims.ConvertingWords : Prop :=
  ∀ (s : State) (i : Instr) (w : TileWord), Free s → ¬ OnHub s → convertWord s i = some w → Nameable s w.names →
    exec i s = .next (tileDone s w)

/-- R158, R151: the compares write every bit of their mask inside the shape, 0 where inactive, and the flags of the active
positions. -/
def Sys2Proof.Claims.VectorCompares : Prop :=
  ∀ (s : State) (i : Instr) (o : Nat) (v : BitVec 3) (a b : BitVec 5) (k : BitVec 3) (m : BitVec 2), Free s → ¬ OnHub s →
    compareWord i = some (o, v, a, b, k, m) → Nameable s [a.toNat, b.toNat] →
    let l := (List.range (count s)).map fun i => if active s k i then compared s o a b i else (false, 0)
    exec i s = .next (markFallback (issued s (occB s) (occB s + 3)
      (maskLand v.toNat (rowCount s) (columns s) (l.map (·.1)) :: flagLands (l.foldl (fun f e => f ||| e.2) 0))) (m != 0))

/-- R160, R162, R170: VMSKOP, VGTE and VAMX. -/
def Sys2Proof.Claims.MaskElementAndRingWords : Prop :=
  ∀ (s : State), Free s → ¬ OnHub s →
    (∀ (o : BitVec 2) (v a b k : BitVec 3) (m : BitVec 2),
      let x := maskOf s a.toNat
      let y := maskOf s b.toNat
      exec (.vmskop o v a b k m) s = .next (markFallback (issued s 1 4 [.mask v.toNat
        (if o = 0 then x &&& y else if o = 1 then x ||| y else if o = 2 then x ^^^ y else x &&& ~~~y)
        (BitVec.ofNat 16384 (shapeMask (rowCount s) (columns s)))]) (m != 0 || k != 0))) ∧
    (∀ (g a b : BitVec 5) (k : BitVec 3) (m : BitVec 2), Nameable s [a.toNat] →
      let x := elem s a.toNat ((greg s (b.setWidth 6)).toNat % count s)
      exec (.vgte g a b k m) s = .next (markFallback (issued s 1 4 [.g g.toNat
        (if isSigned (typ s) then (BitVec.ofNat (width s) x).signExtend 64 else BitVec.ofNat 64 x)]) (m != 0 || k != 0))) ∧
    ∀ (n : BitVec 4) (a : BitVec 5) (k : BitVec 3), Nameable s [a.toNat] →
      let l := ((List.range (count s)).filter (active s k)).map (elem s a.toNat)
      exec (.vamx n a k) s = .next (issued s (occB s) (occB s + 3) (.ring n.toNat (absMax (typ s) l).1 ::
        flagLands (l.foldl (fun f x => f ||| decodeFlags (typ s) x) (absMax (typ s) l).2)))

/-- R166: VZIPk and VUNZk read k tiles and write k tiles, each element from the place that the rule gives it. -/
def Sys2Proof.Claims.ZipsAndUnzips : Prop :=
  ∀ (s : State) (i : Instr) (n : Nat) (v a : BitVec 5) (k : BitVec 3) (m : BitVec 2) (f : Nat → Nat), Free s → ¬ OnHub s →
    zipWord s i = some (n, v, a, k, m, f) → v.toNat + n ≤ 32 → a.toNat + n ≤ 32 →
    Nameable s [v.toNat + n - 1, a.toNat + n - 1] →
      exec i s = .next (markFallback (issued s (n * occB s) (n * occB s + 3) ((List.range n).map fun j =>
        tileLand (v.toNat + j) (typ s) ((List.range (count s)).map fun e =>
          let x := f (j * count s + e)
          elem s (a.toNat + x / count s) (x % count s)))) (m != 0 || k != 0))

/-- R29, R37, R90, R154: a VEC word that writes a tile is illegal on a management sequencer, and in SPLIT mode where it names a
tile from v16 on. -/
def Sys2Proof.Claims.VectorWordsFault : Prop :=
  ∀ (s : State) (i : Instr) (w : TileWord), Free s → tileWord s i = some w → OnHub s ∨ ¬ Nameable s w.names →
    exec i s = .next (faulted (occupied s w.occ) 1)

/-- R18, R150: after a tile landing each element of the new tile reads as the value written, and every bit beyond them as before. -/
def Obligations.TileElementsReadBack : Prop :=
  ∀ (s : State) (sid n t : Nat) (l : List Nat), s.arg = .land sid [tileLand n t l] → typeBits t * l.length ≤ 32768 → n < 32 →
    ∃ u, exec .resultLanding s = .next u ∧
      (∀ i (h : i < l.length), (tileOf u sid n).toNat / 2 ^ (typeBits t * i) % 2 ^ typeBits t = l[i] % 2 ^ typeBits t) ∧
      ∀ j, typeBits t * l.length ≤ j → (tileOf u sid n).getLsbD j = (tileOf s sid n).getLsbD j

namespace Sys2Proof.Claims

/-! ## Memory words -/

/-- Handle `n` of the present word's sequencer. -/
def handle (s : State) (n : BitVec 4) : Handle := Fm.get {} (mine s).h n.toNat

/-- A valid handle: V = 1 and its GEN is the partition's (R23). -/
def current (s : State) (h : Handle) : Bool := h.v && h.gen == s.gen (mine s).task.part % 256

/-- What checks 3 and 4 of R175 find for an access of `n` bytes, aligned to `al`, at offset `off` of a handle: 2 the handle
fault, for a handle that is not valid (R23) or lacks the permission; 3 the bounds fault. -/
def checked (s : State) (h : Handle) (perm off n al : Nat) : Option Nat :=
  if !(current s h && (h.perm &&& perm) == perm) then some 2
  else if off % al ≠ 0 ∨ pageSize h.sz < off + n then some 3
  else none

/-- What the check of a scratchpad form finds (R174, R175, R269): the bounds fault where the half has no scratchpad, and for a
range that is not aligned or leaves the 4 MiB. -/
def spadChecked (s : State) (addr n al : Nat) : Option Nat :=
  if s.cur.sid % 16 = 8 ∨ bit ((s.part (mine s).task.part).get (0xF0 + 8 * dieOf s.cur.sid) 8) (cluOf s.cur.sid) = false ∨
      addr % al ≠ 0 ∨ 4194304 < addr + n then some 3
  else none

/-- Bytes of a tile in the present SHAPE, B (R148), and Bmax of a tagged load (R185). -/
def tileBytes (s : State) : Nat := (count s * width s + 7) / 8
def taggedBytes (s : State) : Nat := 64 * cdiv (count s) (if width s = 64 then 8 else 16)

/-- Cycles that a column is held for `n` bytes (R176). -/
def chunks (n : Nat) : Nat := cdiv n 2048

/-- L of a class in M, and its home cycle, L − 10 after issue (R176, R244); class 3 promises none. -/
def latency (m : BitVec 2) : Nat := if m = 0 then 40 else if m = 1 then 150 else if m = 2 then 190 else 0
def homeAfter (m : BitVec 2) : Option Nat := if m = 3 then none else some (latency m - 10)

/-- A word that loads or stores: the tile it names, if any; its occupancy; the fault its checks find; the cycles to its home and,
for a load, to its promised result; the fallback (R100); and the access, but for what every access of the word carries. -/
structure MemWord where
  tile : Option Nat
  occ : Nat
  err : Option Nat
  home : Option Nat
  lat : Nat
  fb : Bool
  acc : Access

/-- A global load of `n` bytes, aligned to `al`, through handle `h` at the offset in g register `c`: class `k` with latency `lat`. -/
def globalRead (s : State) (tile : Option Nat) (occ : Nat) (h : BitVec 4) (c : BitVec 6) (n al k lat : Nat) (home : Option Nat)
    (r : BitVec 1) (ac : Alloc) (d : Dest) : Option MemWord :=
  let x := handle s h
  let off := (greg s c).toNat
  some ⟨tile, occ, checked s x 1 off n al, home, lat, r == 1 && k != 2,
    { op := .read, addr := x.base + off, len := n, dest := d, alloc := ac, key := x.key, hnd := h.toNat, off := off, cls := k,
      rdc := r == 1 && k == 2, tier := x.tier }⟩

/-- A scratchpad load of `n` bytes from the address in two g registers. -/
def spadReadWord (s : State) (tile : Option Nat) (b c : BitVec 6) (n al : Nat) (d : Dest) : Option MemWord :=
  let a := ((greg s b).toNat + (greg s c).toNat) % 2 ^ 64
  some ⟨tile, chunks n, spadChecked s a n al, some (2 + chunks n), 12 + chunks n, false,
    { op := .read, space := .spad (spadOf s.cur.sid), addr := a, off := a, len := n, dest := d }⟩

/-- The loads (R176, R183 to R185), and KLD (R201). -/
def loadWord (s : State) : Instr → Option MemWord
  | .lds v b c => spadReadWord s (some v.toNat) b c (tileBytes s) 64 (.tile v.toNat)
  | .ldsg g b c => spadReadWord s none b c 8 8 (.g g.toNat)
  | .ldg r v h c m => globalRead s (some v.toNat) (chunks (tileBytes s)) h c (tileBytes s) 64 m.toNat (latency m) (homeAfter m) r .normal (.tile v.toNat)
  | .ldge r v h c m => globalRead s (some v.toNat) (chunks (tileBytes s)) h c (tileBytes s) 64 m.toNat (latency m) (homeAfter m) r .evictFirst (.tile v.toNat)
  | .ldgUnt r v h c l => globalRead s (some v.toNat) (chunks (tileBytes s)) h c (tileBytes s) 64 3 l.toNat none r .normal (.tile v.toNat)
  | .ldgeUnt r v h c l => globalRead s (some v.toNat) (chunks (tileBytes s)) h c (tileBytes s) 64 3 l.toNat none r .evictFirst (.tile v.toNat)
  | .ldt r v h c m => globalRead s (some v.toNat) (chunks (taggedBytes s)) h c (taggedBytes s) 64 m.toNat (latency m) (homeAfter m) r .normal (.tagged v.toNat (mine s).shape.toNat (mine s).fctl)
  | .ldte r v h c m => globalRead s (some v.toNat) (chunks (taggedBytes s)) h c (taggedBytes s) 64 m.toNat (latency m) (homeAfter m) r .evictFirst (.tagged v.toNat (mine s).shape.toNat (mine s).fctl)
  | .ldtUnt r v h c l => globalRead s (some v.toNat) (chunks (taggedBytes s)) h c (taggedBytes s) 64 3 l.toNat none r .normal (.tagged v.toNat (mine s).shape.toNat (mine s).fctl)
  | .ldteUnt r v h c l => globalRead s (some v.toNat) (chunks (taggedBytes s)) h c (taggedBytes s) 64 3 l.toNat none r .evictFirst (.tagged v.toNat (mine s).shape.toNat (mine s).fctl)
  | .ldgs r g h c m => globalRead s none 1 h c 8 8 m.toNat (latency m) (homeAfter m) r .normal (.g g.toNat)
  | .ldgsUnt r g h c l => globalRead s none 1 h c 8 8 3 l.toNat none r .normal (.g g.toNat)
  | .kld a h c m => if m = 3 then none else globalRead s none 1 h c 16 16 m.toNat (latency m) (homeAfter m) 0 .normal (.cap a.toNat)
  | _ => none

/-- What STQ stores of a tile (R186): bytes and tags, and the flags it raises, for the ring and format in the offset register. -/
def quantised (s : State) (v : BitVec 5) (x : Nat) : Nat × Nat × Nat :=
  let f := bits x 52 3
  let sc := selectScale (Fm.get {} (mine s).rings (bits x 48 4)).counted f
  let l := (List.range (count s)).map fun i =>
    let q := quantise f sc (decodeVal (typ s) (elem s v.toNat i))
    (q.1, q.2 ||| decodeFlags (typ s) (elem s v.toNat i))
  (pack (typeBits (quantType f)) (l.map (·.1)), sc * 256 + quantCode f, orFlags l)

/-- Blocks that STQ writes in format `f`. -/
def quantBlocks (s : State) (f : Nat) : Nat := cdiv (bytesFor (quantType f) (count s)) 64

/-- A global store of the `n` bytes `data`. -/
def globalWrite (s : State) (tile : Option Nat) (occ : Nat) (h : BitVec 4) (off n al data : Nat) (tags : Option (List Nat)) (k : Nat)
    (home : Option Nat) (r : BitVec 1) (ac : Alloc) : Option MemWord :=
  let x := handle s h
  some ⟨tile, occ, checked s x 2 off n al, home, 0, r == 1,
    { op := .write, addr := x.base + off, len := n, data := data % 2 ^ (8 * n), tags := tags, alloc := ac, key := x.key, hnd := h.toNat,
      off := off, cls := k, tier := x.tier, page := x.base, pageSize := pageSize x.sz }⟩

/-- A scratchpad store of `n` bytes. -/
def spadWriteWord (s : State) (tile : Option Nat) (b c : BitVec 6) (n al data : Nat) : Option MemWord :=
  let a := ((greg s b).toNat + (greg s c).toNat) % 2 ^ 64
  some ⟨tile, chunks n, spadChecked s a n al, some (2 + chunks n), 0, false,
    { op := .write, space := .spad (spadOf s.cur.sid), addr := a, len := n, data := data }⟩

/-- STQ with the checks of its format code (R186): codes 5 to 7 are illegal. -/
def quantWord (s : State) (r : BitVec 1) (v : BitVec 5) (h : BitVec 4) (c : BitVec 6) (k : Nat) (home : Option Nat) : Option MemWord :=
  let x := (greg s c).toNat
  let n := 64 * quantBlocks s (bits x 52 3)
  let q := quantised s v x
  (globalWrite s (some v.toNat) (chunks n) h (bits x 0 48) n 64 q.1 (some (List.replicate (n / 64) q.2.1)) k home r .normal).map
    fun w => if 5 ≤ bits x 52 3 then { w with err := some 1 } else w

/-- The stores (R176, R183, R184, R186), but for STNT; KST stores the tag of its granule (R201). -/
def storeWord (s : State) : Instr → Option MemWord
  | .sts v b c => spadWriteWord s (some v.toNat) b c (tileBytes s) 64 (tileOf s s.cur.sid v.toNat).toNat
  | .stsg g b c => spadWriteWord s none b c 8 8 (greg s g).toNat
  | .stg r v h c m => globalWrite s (some v.toNat) (chunks (tileBytes s)) h (greg s c).toNat (tileBytes s) 64 (tileOf s s.cur.sid v.toNat).toNat none m.toNat (homeAfter m) r .normal
  | .stgUnt r v h c _ => globalWrite s (some v.toNat) (chunks (tileBytes s)) h (greg s c).toNat (tileBytes s) 64 (tileOf s s.cur.sid v.toNat).toNat none 3 none r .normal
  | .stgs r g h c m => globalWrite s none 1 h (greg s c).toNat 8 8 (greg s (g.setWidth 6)).toNat none m.toNat (homeAfter m) r .normal
  | .stgsUnt r g h c _ => globalWrite s none 1 h (greg s c).toNat 8 8 (greg s (g.setWidth 6)).toNat none 3 none r .normal
  | .kst a h c m =>
    let k := Fm.get {} (mine s).k a.toNat
    if m = 3 then none
    else (globalWrite s none 1 h (greg s c).toNat 16 16 k.bits.toNat none m.toNat (homeAfter m) 0 .normal).map
      fun w => { w with acc := { w.acc with ctags := if k.tag then 1 else 0 } }
  | .stq r v h c m => quantWord s r v h c m.toNat (homeAfter m)
  | .stqUnt r v h c _ => quantWord s r v h c 3 none
  | _ => none

/-- Flags that a store raises: STQ's at its result cycle (R186). -/
def storeFlags (s : State) : Instr → List Land
  | .stq _ v _ c _ => flagLands (quantised s v (greg s c).toNat).2.2
  | .stqUnt _ v _ c _ => flagLands (quantised s v (greg s c).toNat).2.2
  | _ => []

/-- Whether the word is an STQ, whose flags land in an event of their own, if only an empty one. -/
def raisesFlags : Instr → Bool
  | .stq .. => true
  | .stqUnt .. => true
  | _ => false

/-- STNT: the same store, streaming, whose home cycle nothing promises (R187), and its class. -/
def stntWord (s : State) : Instr → Option (MemWord × Option Nat)
  | .stnt r v h c m =>
    (globalWrite s (some v.toNat) (chunks (tileBytes s)) h (greg s c).toNat (tileBytes s) 64 (tileOf s s.cur.sid v.toNat).toNat none m.toNat
      none r .stream).map fun w => (w, if m = 3 then none else some (s.now + latency m - 10 + 64))
  | .stntUnt r v h c _ =>
    (globalWrite s (some v.toNat) (chunks (tileBytes s)) h (greg s c).toNat (tileBytes s) 64 (tileOf s s.cur.sid v.toNat).toNat none 3
      none r .stream).map fun w => (w, none)
  | _ => none

/-- The tile of a word may be named: never on a management sequencer, v16 to v31 only where the mode allows (R29, R174). -/
abbrev TileFits (s : State) (w : MemWord) : Prop := ∀ n, w.tile = some n → ¬ OnHub s ∧ Nameable s [n]

/-- The access as it leaves the sequencer: its identity, issuer, partition and generation, issue cycle, column and place. -/
def sent (s : State) (a : Access) : Access :=
  { a with id := s.nextId, sid := s.cur.sid, issue := s.now, part := (mine s).task.part, gen := s.gen (mine s).task.part, col := s.cur.col,
           pc := s.cur.pc, leave := s.now }

/-- `t` is `s` with an access of the present word on its way and nothing else changed but free values drawn, the sequencer's
record `o` of outstanding accesses, the RDC copies that a store of a remote line drops (R286), and FALLBACK. -/
def UnderWay (s t : State) (occ : Nat) (fb : Bool) (evs : List Ev) : Prop :=
  t.agenda = s.agenda ++ evs ∧
    t = { markFallback (occupied s occ) fb with
      seqs := t.seqs, agenda := t.agenda, nextId := s.nextId + 1, rdc := t.rdc, choices := t.choices, drawn := t.drawn } ∧
    (∀ i, i ≠ s.cur.sid → Fm.get {} t.seqs i = Fm.get {} s.seqs i) ∧
    mine t = { mine (occupied s occ) with outst := (mine t).outst } ∧ ∃ o ∈ (mine t).outst, o.id = s.nextId ∧ o.issue = s.now

/-- A sequencer that STALL mode holds for the present cycle: HCYC counts it, WRN.STALLED is set, and its later words issue a cycle
later (R318). -/
def heldOnce (s : State) (q : Seq) : Seq :=
  { q with heldAt := some s.now, slip := q.slip + 1, hcyc := min (q.hcyc + 1) (2 ^ 32 - 1), wrn := q.wrn ||| 0x80 }

/-- A home cycle `c` for the home time of a word: the promised one, or a later one that is free (R244). Where nothing is promised
each 64-byte block of the access has a home cycle of its own, the first of them in cycle `c` (R246), bounded while a debug freeze
settles (R265). -/
def HomeAt (s : State) (home : Option Nat) (a : Access) (c : Nat) : Prop :=
  s.now ≤ c ∧ ((mine s).task.part = 63 ∨ (s.part (mine s).task.part).stood = none → s.now < c) ∧ (∀ h, home = some h → c = s.now + h ∧ a.todo = none) ∧
    (home = none → ∃ l, a.todo = some l ∧ l.map (fun x => x.2) = List.range (max 1 (blockNum a.addr a.len)) ∧ ∀ x ∈ l, c ≤ x.1)

/-- The event by which an access of tier 1 or 2 counts as unanswered (R301). -/
def unanswered (s : State) (a : Access) : List Ev :=
  if a.space = .phys ∧ (a.tier = 1 ∨ a.tier = 2) then [event (s.now + Config.timeout) 1 s.cur.sid .requestTimeout (.access a)] else []

/-- The state in which a request waits, behind all that came before it, in the replay buffer of block `d.2` of die `d.1` (R276, R431):
in its replay cycle it is the event `i`. -/
def replayed (s : State) (d : Nat × Nat) (addr cls : Nat) (i : Instr) (a : Arg) : State :=
  { s with replays := s.replays ++ [{ die := d.1, blk := d.2, addr := addr, cls := cls, ins := i, arg := a, at_ := s.now }] }

/-- What came before a reset of its partition is discarded; what did not is of the present generation (R342). -/
abbrev Present (s : State) (part gen : Nat) : Prop := part = 63 ∨ gen = s.gen part

/-- An access to one 64-byte block of HBM4E that takes its place in this cycle: neither cut off by a fence (R398), nor held by its
routers (R381) or by a domain out of service (R276), and accepted by its slice (R279). -/
structure AtItsBlock (s : State) (a : Access) : Prop where
  arg : s.arg = .access a
  phys : a.space = .phys
  now : Present s a.part a.gen
  sid : a.sid < 8192
  todo : a.todo = none
  got : a.got = []
  chunk : a.chunk = none
  rdc : a.rdc = false
  hbm : ∃ die, regionOf a.addr = .hbm die
  some : 0 < a.len
  one : a.addr % 64 + a.len ≤ 64
  whole : s.cutOff a = false
  way : s.crosses a = true
  served : s.heldAt a.addr = none
  room : s.acceptLine (a.addr / 64 * 64) ≠ none
  key : s.keyNum a.key ≠ 0
  plain : ∀ e ∈ s.syncs, e.1 / 4 ≠ a.addr / 64

/-- Byte `i` of a block after a store, where `old` is the block before it. -/
def storedByte (a : Access) (old : BlockBits) (i : Nat) : Nat :=
  if a.addr % 64 ≤ i ∧ i < a.addr % 64 + a.len then a.data / 2 ^ (8 * (i - a.addr % 64)) % 256 else old.toNat / 2 ^ (8 * i) % 256

/-- The tag that a store gives its first block (R67). -/
def firstTag (a : Access) : Nat := match a.tags with
  | some l => l.getD 0 0x7F00
  | none => 0x7F00

/-- The place of the present word's accesses in the order of their home cycle (R178, R245): by sequencer, then by issue cycle. -/
def myOrder (s : State) : Nat := homeKey s.cur.sid s.now s.cur.col

end Sys2Proof.Claims

/-! ## The memory column -/

/-- R174 to R177, R183 to R185, R244: a load whose checks pass sends its access to its home and holds the promised cycle in which
its data must be there; a failed check raises its fault and nothing else. -/
def Sys2Proof.Claims.LoadsGoToTheirHome : Prop :=
  ∀ (s : State) (i : Instr) (w : MemWord), Free s → loadWord s i = some w → TileFits s w →
    (∀ c, w.err = some c → exec i s = .next (faulted (occupied s w.occ) c)) ∧
    (w.err = none → ∃ t c a, exec i s = .next t ∧ HomeAt s w.home a c ∧
      a = { sent s w.acc with promise := some (s.now + w.lat), todo := a.todo } ∧
      UnderWay s t w.occ w.fb (event c 4 (myOrder s) .accessHomeCycle (.access a) :: unanswered s a ++
        [event (s.now + w.lat) 2 s.cur.sid .arrivalViolation (.access a)]) ∧
      t.rdc = s.rdc)

/-- R174 to R176, R183, R184, R186, R244: a store whose checks pass sends its bytes to their home, in the promised cycle where its
class promises one; STQ raises its flags when its blocks are written. A failed check raises its fault and nothing else. -/
def Sys2Proof.Claims.StoresGoToTheirHome : Prop :=
  ∀ (s : State) (i : Instr) (w : MemWord), Free s → s.cur.fault = false → storeWord s i = some w → TileFits s w →
    (∀ c, w.err = some c → exec i s = .next (faulted (occupied s w.occ) c)) ∧
    (w.err = none → ∃ t c a, exec i s = .next t ∧ HomeAt s w.home a c ∧ a = { sent s w.acc with todo := a.todo } ∧
      UnderWay s t w.occ w.fb (event c 4 (myOrder s) .accessHomeCycle (.access a) :: unanswered s a ++
        if raisesFlags i then [result s w.occ (storeFlags s i)] else []))

/-- R184, R187, R257: STNT is a store whose home cycle nothing promises, kept for a later DRAIN with the bound of its class. -/
def Sys2Proof.Claims.StreamingStores : Prop :=
  ∀ (s : State) (i : Instr) (w : MemWord) (b : Option Nat), Free s → s.cur.fault = false → stntWord s i = some (w, b) → TileFits s w →
    (∀ c, w.err = some c → exec i s = .next (faulted (occupied s w.occ) c)) ∧
    (w.err = none → ∃ t c a, exec i s = .next t ∧ HomeAt s none a c ∧ a = { sent s w.acc with todo := a.todo } ∧
      t.agenda = s.agenda ++ event c 4 (myOrder s) .accessHomeCycle (.access a) :: unanswered s a ∧
      (mine t).stnt = (mine s).stnt ++ [{ id := s.nextId, bound := b }] ∧
      (mine t).g = (mine s).g ∧ (mine t).p = (mine s).p ∧ (mine t).v = (mine s).v ∧ (mine t).h = (mine s).h ∧
      t.mem = s.mem ∧ t.spad = s.spad ∧ t.l2 = s.l2 ∧ t.cores = s.cores ∧
      ∀ j, j ≠ s.cur.sid → Fm.get {} t.seqs j = Fm.get {} s.seqs j)

/-- R181, R182, R297: HREL clears a handle; HCHK tests it; HINFO reads it, and selector 3 is illegal; XLT without a walk answers
from the last-level TLB, all zeros on a miss. -/
def Sys2Proof.Claims.HandleWords : Prop :=
  ∀ (s : State), Free s →
    (∀ h, exec (.hrel h) s = .next (issued s 1 2 [.h h.toNat {}])) ∧
    (∀ p h, exec (.hchk p h) s = .next (issued s 1 2 [.p p.toNat (current s (handle s h) && !(handle s h).rp)])) ∧
    (∀ g h,
      let x := handle s h
      exec (.hinfo g h 0) s = .next (issued s 1 2 [.g g.toNat (BitVec.ofNat 64 (at_ (current s x) 0 + (at_ x.rp 1 + x.sz * 4 + x.perm * 16 +
        x.home * 128 + x.tier * 2048 + x.key * 8192 + x.gen * 2 ^ 24 + x.vbase * 2 ^ 32)) &&& 0xFFFFFFFF)]) ∧
      exec (.hinfo g h 1) s = .next (issued s 1 2 [.g g.toNat (BitVec.ofNat 64 x.vbase)]) ∧
      exec (.hinfo g h 2) s = .next (issued s 1 2 [.g g.toNat (BitVec.ofNat 64 (pageSize x.sz))]) ∧
      exec (.hinfo g h 3) s = .next (faulted (occupied s 1) 1)) ∧
    (∀ h g, (2 ^ 56 ≤ (greg s g).toNat ∨ s.tlbHit (dieOf s.cur.sid) (mine s).task.part (greg s g).toNat = none) →
      exec (.xltNw h g) s = .next (issued s 1 24 [.h h.toNat {}])) ∧
    ∀ h g e, (greg s g).toNat < 2 ^ 56 → s.tlbHit (dieOf s.cur.sid) (mine s).task.part (greg s g).toNat = some e →
      ∃ t, exec (.xltNw h g) s = .next t ∧ t = { issued s 1 24 [.h h.toNat { e.h with
        rp := s.revoking (mine s).task.part (greg s g).toNat, gen := s.gen (mine s).task.part, v := true }] with tlb := t.tlb, stamp := t.stamp }

/-- R181, R33: a walking XLT in untimed mode holds its sequencer until its walk completes, in a later cycle; in timed mode it is a
mode fault. -/
def Sys2Proof.Claims.WalkingTranslation : Prop :=
  ∀ (s : State) (h : BitVec 4) (g : BitVec 6), Free s →
    ((mine s).ut = false → exec (.xlt h g) s = .next (faulted (occupied s 1) 4)) ∧
    ((mine s).ut = true → ∃ t c a, exec (.xlt h g) s = .next t ∧ (mine t).seam = true ∧ s.now < c ∧
      t.agenda = s.agenda ++ [event c 1 (landKey s.now s.cur.sid 3) .xltWalkComplete (.access a)] ∧
      a.sid = s.cur.sid ∧ a.addr = (greg s g).toNat ∧ a.hnd = h.toNat ∧ a.part = (mine s).task.part ∧ a.gen = s.gen a.part ∧
      a.pc = s.cur.pc ∧ mine t = { mine (occupied s 1) with seam := true, outst := (mine t).outst } ∧
      ∀ j, j ≠ s.cur.sid → Fm.get {} t.seqs j = Fm.get {} s.seqs j)

/-- R181, R295, R297, R293: a walk that completes writes the handle of the leaf it finds, all zeros where nothing is mapped, and its
sequencer goes on from the next cycle; a handle of a page that is revoke-pending enters no TLB, any other does. A leaf that is not
resident ends the task with a page fault (R324). A walk that needs an entry in a domain out of service waits for it (R276). -/
def Sys2Proof.Claims.WalkCompletes : Prop :=
  ∀ (s : State) (a : Access), s.arg = .access a → Present s a.part a.gen →
    (∀ d k x, s.walkHeld a.part a.addr = some (d, k, x) → exec .xltWalkComplete s = .next (replayed s (d, k) x 1 .xltWalkComplete s.arg)) ∧
    (s.walkHeld a.part a.addr = none →
    (s.walk a.part a.addr = none → ∃ t, exec .xltWalkComplete s = .next t ∧ Fm.get {} (Fm.get {} t.seqs a.sid).h a.hnd = {} ∧
      (Fm.get {} t.seqs a.sid).seam = false ∧ t = { s with seqs := t.seqs, doms := t.doms }) ∧
    (∀ e sz l, s.walk a.part a.addr = some (e, sz, l) → bit e 2 = true → ∃ t, exec .xltWalkComplete s = .next t ∧
      (let x := s.handleOf a.part a.addr e sz
       Fm.get {} (Fm.get {} t.seqs a.sid).h a.hnd = { x with rp := x.rp || s.revoking (Fm.get {} s.seqs a.sid).task.part x.vbase } ∧
       (x.rp = true → t.tlb = s.tlb) ∧ (x.rp = false → t.tlb = (s.tlbFill (dieOf a.sid) a.part x).tlb)) ∧
      (Fm.get {} t.seqs a.sid).seam = false ∧
      (Fm.get {} t.seqs a.sid).g = (Fm.get {} s.seqs a.sid).g ∧ t = { s with seqs := t.seqs, tlb := t.tlb, stamp := t.stamp, doms := t.doms }) ∧
    ∀ e sz l, s.walk a.part a.addr = some (e, sz, l) → bit e 2 = false → (Fm.get {} s.seqs a.sid).run = .run → a.sid % 16 ≠ 8 →
      ∃ t, exec .xltWalkComplete s = .next t ∧ (Fm.get {} t.seqs a.sid).run = .ending 8 ∧ (Fm.get {} t.seqs a.sid).faultVa = a.addr ∧
        event s.now 8 a.sid .fullFrameSave (.half a.sid 8) ∈ t.agenda)

/-- R187: DRAIN completes at the latest bound of the STNT stores before it, when they are visible, and those stores are drained by it. -/
def Sys2Proof.Claims.DrainCollects : Prop :=
  (∀ (s : State), Free s → (∀ r ∈ (mine s).stnt, r.bound ≠ none) →
    ∃ t c a, exec .drain s = .next t ∧ (mine t).stnt = [] ∧ s.now < c ∧ (∀ r ∈ (mine s).stnt, ∀ b, r.bound = some b → b ≤ c) ∧
      (c = s.now + 1 ∨ ∃ r ∈ (mine s).stnt, r.bound = some c) ∧
      event c 4 (engineKey s.cur.sid 0) .drainComplete (.access a) ∈ t.agenda ∧ a.sid = s.cur.sid ∧ a.id = s.nextId ∧
      a.tags = some ((mine s).stnt.map (·.id)) ∧ (∃ o ∈ (mine t).outst, o.id = s.nextId ∧ o.kind = 6 ∧ o.at_ = none) ∧ (mine t).g = (mine s).g ∧ t.mem = s.mem ∧ t.spad = s.spad) ∧
  ∀ (s : State) (a : Access), s.arg = .access a → a.sid < 8192 →
    let there (o : Outstanding) : Prop := ∃ c, o.at_ = some c ∧ c ≤ s.now
    ((∀ o ∈ (Fm.get {} s.seqs a.sid).outst, (a.tags.getD []).contains o.id = true → there o) →
      ∃ t, exec .drainComplete s = .next t ∧ (∀ o ∈ (Fm.get {} t.seqs a.sid).outst, o.id = a.id → o.at_ = some s.now) ∧
        t = { s with seqs := t.seqs }) ∧
    ((∃ o ∈ (Fm.get {} s.seqs a.sid).outst, (a.tags.getD []).contains o.id = true ∧ ¬ there o) →
      exec .drainComplete s = .next (scheduled s (event (s.now + 1) 4 (engineKey a.sid 0) .drainComplete (.access a))))

/-- R188: PFL asks for the lines of its range within the page, in a later cycle; it does nothing for an empty range, or an invalid
handle. CWBR and CINVR complete at +40 + 2d + ⌈len ÷ 1024⌉, after their checks. -/
def Sys2Proof.Claims.CacheRangeWords : Prop :=
  ∀ (s : State) (h : BitVec 4) (b c : BitVec 6), Free s →
    let x := handle s h
    let off := (greg s b).toNat
    let n := (greg s c).toNat
    (current s x = false ∨ min n (pageSize x.sz - off) = 0 → exec (.pfl h b c) s = .next (occupied s 1)) ∧
    (current s x = true → 0 < min n (pageSize x.sz - off) → ∃ t cy a, exec (.pfl h b c) s = .next t ∧ s.now < cy ∧
      t.agenda = s.agenda ++ [event cy 4 (myOrder s) .accessHomeCycle (.access a)] ∧ a.op = .prefetch ∧
      a.addr = (x.base + off) / 64 * 64 ∧ x.base + off + min n (pageSize x.sz - off) ≤ a.addr + a.len ∧ a.key = x.key ∧
      t = { occupied s 1 with agenda := t.agenda, nextId := s.nextId + 1, choices := t.choices, drawn := t.drawn }) ∧
    (∀ i drop, (i = .cwbr h b c ∧ drop = false) ∨ (i = .cinvr h b c ∧ drop = true) →
      let ok := current s x && (if drop then (x.perm &&& 2) == 2 else x.perm != 0)
      (ok = false → exec i s = .next (faulted (occupied s 1) 2)) ∧
      (ok = true → pageSize x.sz < off + n → exec i s = .next (faulted (occupied s 1) 3)) ∧
      (ok = true → off + n ≤ pageSize x.sz → ∃ (t : State) (r : Access),
        exec i s = .next t ∧ r.addr = (x.base + off) / 64 * 64 ∧ (0 < n → x.base + off + n ≤ r.addr + r.len) ∧
        r.sid = s.cur.sid ∧ r.id = s.nextId ∧ r.key = x.key ∧ r.part = (mine s).task.part ∧ r.gen = s.gen (mine s).task.part ∧
        UnderWay s t 1 false [event (s.now + (40 + 2 * dieLatency (dieOf s.cur.sid) x.home + cdiv n 1024)) 4 (myOrder s)
          .cacheRangeComplete (.ranges r drop x.home)] ∧ t.rdc = s.rdc))

/-- R188: a cache range that completes leaves no dirty line of its range in an L2 set of its die, and after CINVR no line at all;
lines outside the range stay. Where the range's domain is out of service, it waits in the domain's replay buffer (R276). A range of
an older generation is discarded (R342). -/
def Sys2Proof.Claims.CacheRangesComplete : Prop :=
  ∀ (s : State) (a : Access) (drop : Bool) (die : Nat), s.arg = .ranges a drop die →
    (¬ Present s a.part a.gen → exec .cacheRangeComplete s = .next s) ∧
    (Present s a.part a.gen → 0 < a.len →
    (∀ d, s.heldAt a.addr = some d → ∃ t, exec .cacheRangeComplete s = .next t ∧
      t = { replayed s d a.addr 4 .cacheRangeComplete s.arg with seqs := t.seqs }) ∧
    (s.heldAt a.addr = none → ∃ t, exec .cacheRangeComplete s = .next t ∧
      (∀ k l, (k, l) ∈ t.l2 → k / 8192 / 32 = die → ∀ x ∈ l, a.addr ≤ x.pa * 64 → x.pa * 64 < a.addr + a.len → drop = false ∧ x.dirty = false) ∧
      (∀ k l, (k, l) ∈ s.l2 → ∃ m, (k, m) ∈ t.l2 ∧ ∀ x ∈ l, ¬ (a.addr ≤ x.pa * 64 ∧ x.pa * 64 < a.addr + a.len) → x ∈ m) ∧ t.spad = s.spad ∧
      ∀ i, Fm.get {} t.seqs i = { Fm.get {} s.seqs i with outst := (Fm.get {} t.seqs i).outst }))

/-- R189, R175: RPIN and RUNPIN of a register that is granted to the partition come into force at +48 + 2d, as one event that carries
the new value. In the order of R175, a handle that is not valid is the handle fault; a register that is not granted the illegal
instruction; a missing permission, for RPIN, or a page that is not of tier 0 the handle fault; a range that leaves the page, a mask of
no way or of more than 12, and a union of more than 12 ways with the other registers the bounds fault. -/
def Sys2Proof.Claims.RetentionWords : Prop :=
  ∀ (s : State) (n : BitVec 3) (h : BitVec 4) (g : BitVec 6) (k : Nat), Free s →
    let x := handle s h
    let r := Fm.get {} (s.dom x.home k).rtn n.toNat
    s.coveringBlock x.home x.base = some k →
    let d := dieLatency (dieOf s.cur.sid) x.home
    let v := (greg s g).toNat
    let part := (mine s).task.part
    let first := bits v 0 22
    let cnt := if bits v 22 22 = 0 then 2 ^ 22 else bits v 22 22
    let new : Rtn := { r with base := x.base + 64 * first, last := x.base + 64 * (first + cnt - 1), ways := bits v 44 16, v := true }
    let granted := r.gv = true ∧ r.grant = part
    let fits := 64 * (first + cnt) ≤ pageSize x.sz ∧ 0 < popcount (bits v 44 16) 16 ∧ popcount (bits v 44 16) 16 ≤ 12 ∧
      popcount ((s.dom x.home k).unionWith n.toNat new) 16 ≤ 12
    (current s x = false → exec (.rpin n h g) s = .next (faulted (occupied s 1) 2) ∧ exec (.runpin n h) s = .next (faulted (occupied s 1) 2)) ∧
    (current s x = true → ¬ granted →
      exec (.rpin n h g) s = .next (faulted (occupied s 1) 1) ∧ exec (.runpin n h) s = .next (faulted (occupied s 1) 1)) ∧
    (current s x = true → granted → x.tier ≠ 0 →
      exec (.rpin n h g) s = .next (faulted (occupied s 1) 2) ∧ exec (.runpin n h) s = .next (faulted (occupied s 1) 2)) ∧
    (current s x = true → granted → x.tier = 0 →
      exec (.runpin n h) s = .next (scheduled (occupied s 1)
        (event (s.now + (48 + 2 * d)) 4 (myOrder s) .retentionInForce (.rtn x.home k n.toNat none part (s.gen part)))) ∧
      ((x.perm &&& 1) ≠ 1 → exec (.rpin n h g) s = .next (faulted (occupied s 1) 2)) ∧
      ((x.perm &&& 1) = 1 → fits → exec (.rpin n h g) s = .next (scheduled (occupied s 1)
        (event (s.now + (48 + 2 * d)) 4 (myOrder s) .retentionInForce (.rtn x.home k n.toNat (some new) part (s.gen part))))) ∧
      ((x.perm &&& 1) = 1 → ¬ fits → exec (.rpin n h g) s = .next (faulted (occupied s 1) 3)))

/-- R189: a retention register takes its new value where its ways and the other registers' number at most 12; else it keeps its
value and DCFG.ERR is set; an RUNPIN only ends it. A request of an older generation is discarded (R342). -/
def Sys2Proof.Claims.RetentionComesIntoForce : Prop :=
  ∀ (s : State) (die k n part gen : Nat), die < 8 → k < 16 →
    (∀ r : Option Rtn, s.arg = .rtn die k n r part gen → ¬ Present s part gen → exec .retentionInForce s = .next s) ∧
    (∀ r : Rtn, s.arg = .rtn die k n (some r) part gen → Present s part gen →
      let old := Fm.get {} (s.dom die k).rtn n
      (12 < popcount ((s.dom die k).unionWith n r) 16 → ∃ t, exec .retentionInForce s = .next t ∧
        t.dom die k = { s.dom die k with err := true } ∧ t = { s with doms := t.doms }) ∧
      (popcount ((s.dom die k).unionWith n r) 16 ≤ 12 → ∃ t, exec .retentionInForce s = .next t ∧
        Fm.get {} (t.dom die k).rtn n = { r with grant := old.grant, gv := old.gv } ∧
        (∀ m, m ≠ n → Fm.get {} (t.dom die k).rtn m = Fm.get {} (s.dom die k).rtn m) ∧ t = { s with doms := t.doms, l2 := t.l2 })) ∧
    (s.arg = .rtn die k n none part gen → Present s part gen → ∃ t, exec .retentionInForce s = .next t ∧
      Fm.get {} (t.dom die k).rtn n = { Fm.get {} (s.dom die k).rtn n with v := false } ∧
      (∀ m, m ≠ n → Fm.get {} (t.dom die k).rtn m = Fm.get {} (s.dom die k).rtn m) ∧ t = { s with doms := t.doms, l2 := t.l2 })

/-- R67, R184, R244, R245, R268: a scratchpad store at its home replaces exactly its bytes: every other byte of every scratchpad,
and all of the other memories, read as before. -/
def Sys2Proof.Claims.ScratchpadStoreAtHome : Prop :=
  ∀ (s : State) (a : Access) (c : Nat), s.arg = .access a → a.op = .write → a.space = .spad c → a.part = 63 ∨ a.gen = s.gen a.part →
    a.addr + a.len ≤ 4194304 → a.sid < 8192 → a.dest = .none → a.todo = none → a.chunk = none →
    ∃ t, exec .accessHomeCycle s = .next t ∧
      (∀ i, i < a.len → (Memory.byte t.spad (c * 4194304 + a.addr + i)).toNat = a.data / 2 ^ (8 * i) % 256) ∧
      (∀ b, (b < c * 4194304 + a.addr ∨ c * 4194304 + a.addr + a.len ≤ b) → Memory.byte t.spad b = Memory.byte s.spad b) ∧
      t = { s with spad := t.spad, stag := t.stag, sbad := t.sbad, seqs := t.seqs } ∧
      ∀ i, Fm.get {} t.seqs i = { Fm.get {} s.seqs i with outst := (Fm.get {} t.seqs i).outst }

/-- R177, R183, R244, R268: a scratchpad load at its home takes the bytes that are there and delivers them in its promised cycle,
where the home cycle is not later; it changes nothing else. -/
def Sys2Proof.Claims.ScratchpadLoadAtHome : Prop :=
  ∀ (s : State) (a : Access) (c p : Nat), s.arg = .access a → a.op = .read → a.space = .spad c → a.part = 63 ∨ a.gen = s.gen a.part →
    a.sid < 8192 → a.promise = some p → s.now ≤ p → a.addr + a.len ≤ 4194304 → s.spadBad c a.addr a.len = [] →
    (∀ n, a.dest = .tile n ∨ a.dest = .g n → a.todo = none → a.got = [] → a.chunk = none →
      ∃ t b tags, exec .accessHomeCycle s = .next t ∧ b = { a with todo := b.todo, got := b.got, leave := s.now } ∧
        t = { s with agenda := s.agenda ++ [event p 1 (landKey a.issue a.sid a.col) .loadDataDelivery
          (.deliver b (Memory.read s.spad (c * 4194304 + a.addr) a.len) tags false false)] })

/-- R67, R178, R244, R245, R278, R279: a store to one block of HBM4E at its home. Where the block is in its L2 set, its line takes the
bytes and the block's tag, is dirty, and every other line stays; where it is not, the bytes and the tag enter the slice's write
buffer. The store counts in CNTHIT or CNTMISS (R277), and nothing else changes but the record of the store's visibility. -/
def Sys2Proof.Claims.GlobalStoreAtHome : Prop :=
  ∀ (s : State) (a : Access), AtItsBlock s a → a.op = .write → a.dest = .none →
    let p := s.place (a.addr / 64 * 64)
    p.cached = true →
    (∀ l, s.lineOf p a.addr = some l → ∃ t m, exec .accessHomeCycle s = .next t ∧ t.lineOf p a.addr = some m ∧
      m.tag = firstTag a ∧ m.dirty = true ∧ m.key = a.key ∧ m.way = l.way ∧
      (∀ i, i < 64 → m.data.toNat / 2 ^ (8 * i) % 256 = storedByte a l.data i) ∧
      (∀ x ∈ s.lines p, x.pa ≠ a.addr / 64 → x ∈ t.lines p) ∧ (∀ k, k ≠ setKey p → Fm.get [] t.l2 k = Fm.get [] s.l2 k) ∧
      t = { s with l2 := t.l2, doms := t.doms, accepted := t.accepted, stamp := t.stamp, seqs := t.seqs, choices := t.choices, drawn := t.drawn } ∧
      ∀ i, Fm.get {} t.seqs i = { Fm.get {} s.seqs i with outst := (Fm.get {} t.seqs i).outst }) ∧
    (s.lineOf p a.addr = none → (Fm.get [] s.wbuf (sliceKey p)).length < 32 → ∃ t e, exec .accessHomeCycle s = .next t ∧
      Fm.get [] t.wbuf (sliceKey p) = Fm.get [] s.wbuf (sliceKey p) ++ [e] ∧ e.loc = p.loc ∧ e.pa = a.addr / 64 * 64 ∧ e.tag = firstTag a ∧
      e.key = a.key ∧ (∀ i, i < 64 → (e.mask.getLsbD i = true ↔ a.addr % 64 ≤ i ∧ i < a.addr % 64 + a.len)) ∧
      (∀ i, e.mask.getLsbD i = true → e.data.toNat / 2 ^ (8 * i) % 256 = storedByte a 0 i) ∧
      (∀ k, k ≠ sliceKey p → Fm.get [] t.wbuf k = Fm.get [] s.wbuf k) ∧
      t = { s with wbuf := t.wbuf, doms := t.doms, accepted := t.accepted, seqs := t.seqs, choices := t.choices, drawn := t.drawn } ∧
      ∀ i, Fm.get {} t.seqs i = { Fm.get {} s.seqs i with outst := (Fm.get {} t.seqs i).outst })

/-- R177, R183, R244, R245, R278, R323: a load from one block of HBM4E at its home takes the bytes and the tag that are there and
brings them, no earlier than the promised cycle; in the promised cycle, or 10 cycles after the home cycle where that is later, where
the block is in its L2 set and the class reaches the home. No register changes yet. -/
def Sys2Proof.Claims.GlobalLoadAtHome : Prop :=
  ∀ (s : State) (a : Access) (p : Nat), AtItsBlock s a → a.op = .read → a.tier = 0 → a.promise = some p →
    (∀ n, a.dest = .g n ∨ a.dest = .tile n →
      let b := s.peekBlock (a.addr / 64 * 64) a.key
      b.bad = false →
      ∃ t c x data ct, exec .accessHomeCycle s = .next t ∧ x = { a with todo := x.todo, got := x.got, leave := s.now } ∧ p ≤ c ∧
        t.agenda = s.agenda ++ [event c 1 (landKey a.issue a.sid a.col) .loadDataDelivery (.deliver x data [b.tag] ct false)] ∧
        (∀ i, i < a.len → data / 2 ^ (8 * i) % 256 = b.data.toNat / 2 ^ (8 * (a.addr % 64 + i)) % 256) ∧
        ((s.lineOf (s.place (a.addr / 64 * 64)) a.addr).isSome = true → 2 ≤ a.cls ∨ homeDie a.addr = dieOf a.sid → c = max p (s.now + 10)) ∧
        t.seqs = s.seqs ∧ t.spad = s.spad ∧ t.cores = s.cores ∧ t.syncs = s.syncs ∧ t.rdc = s.rdc)

/-- R177, R183: load data that is delivered is written to its g register or tile, a tile's bytes beyond it, every other tile and
every other sequencer unchanged, and the access is outstanding no longer. Data that had no slot of its way back is held by its
router for a cycle (R381). -/
def Sys2Proof.Claims.LoadDataIsDelivered : Prop :=
  ∀ (s : State) (a : Access) (data : Nat) (tags : List Nat) (ct bad : Bool), s.arg = .deliver a data tags ct bad →
    (s.comesBack a = false → exec .loadDataDelivery s = .next (scheduled s (event (s.now + 1) 1 (landKey a.issue a.sid a.col) .loadDataDelivery
      (.deliver { a with leave := a.leave + 1 } data tags ct bad)))) ∧
    (s.comesBack a = true → bad = false → Present s a.part a.gen → a.seam = false →
    (∀ n, a.dest = .g n → exec .loadDataDelivery s = .next (withSeq s a.sid { Fm.get {} s.seqs a.sid with
        g := Fm.set (Fm.get {} s.seqs a.sid).g n (BitVec.ofNat 64 data),
        upset := (Fm.get {} s.seqs a.sid).upset.filter (fun x => !(x == Spot.g n)),
        outst := (Fm.get {} s.seqs a.sid).outst.filter (fun o => o.id != a.id) })) ∧
    (∀ n, a.dest = .tile n → n < 32 → a.len ≤ 4096 → a.sid < 8192 →
      let owner := if n < 16 then a.sid else if a.sid < 4096 then a.sid + 4096 else a.sid - 4096
      ∃ t, exec .loadDataDelivery s = .next t ∧
      (∀ b, b < 8 * a.len → (tileOf t a.sid n).getLsbD b = data.testBit b) ∧
      (∀ b, 8 * a.len ≤ b → (tileOf t a.sid n).getLsbD b = (tileOf s a.sid n).getLsbD b) ∧
      (∀ i k, i < 8192 → k < 16 → (i ≠ owner ∨ k ≠ n % 16) → tileOf t i k = tileOf s i k) ∧
      (Fm.get {} t.seqs a.sid).outst = (Fm.get {} s.seqs a.sid).outst.filter (fun o => o.id != a.id) ∧ t = { s with seqs := t.seqs } ∧
      ∀ i, Fm.get {} t.seqs i = { Fm.get {} s.seqs i with
        v := (Fm.get {} t.seqs i).v, upset := (Fm.get {} t.seqs i).upset, outst := (Fm.get {} t.seqs i).outst } ∧
        (i ≠ a.sid → (Fm.get {} t.seqs i).outst = (Fm.get {} s.seqs i).outst) ∧
        (i ≠ owner → (Fm.get {} t.seqs i).v = (Fm.get {} s.seqs i).v ∧ (Fm.get {} t.seqs i).upset = (Fm.get {} s.seqs i).upset)))

/-- R177, R317, R318: a load whose data is not there in its promised cycle raises the timing fault in TRAP mode, and in STALL mode
holds every word of its sequencer for the cycle and is looked at again in the next; where the data is there, nothing happens. -/
def Sys2Proof.Claims.ArrivalViolations : Prop :=
  ∀ (s : State) (a : Access), s.arg = .access a →
    let q := Fm.get {} s.seqs a.sid
    ((∀ o ∈ q.outst, o.id = a.id → ∃ c, o.at_ = some c ∧ c ≤ s.now) → exec .arrivalViolation s = .next s) ∧
    ((∃ o ∈ q.outst, o.id = a.id ∧ o.at_ = none) → q.run = .run → q.ut = false →
      (q.trapMode = true → (∀ e ∈ q.pend, e.code ≠ 0x12) →
        exec .arrivalViolation s = .next (withSeq s a.sid { q with pend := q.pend ++ [{ code := 0x12, col := a.col }] })) ∧
      (q.trapMode = false → q.heldAt ≠ some s.now →
        exec .arrivalViolation s = .next (scheduled (withSeq s a.sid (heldOnce s q)) (event (s.now + 1) 2 a.sid .arrivalViolation (.access a)))))

/-- R245, R278, R279: a store of a whole block is what the next read of the block returns, whether the block is cached, buffered or
uncached, as long as its key id holds a key and it holds no bound sync object. -/
def Obligations.StoredBlockReadsBack : Prop :=
  ∀ (s : State) (pa key data tag : Nat) (ct : BitVec 4), regionOf pa ≠ .nothing → s.keyNum key ≠ 0 → data < 2 ^ 512 →
    (∀ e ∈ s.syncs, e.1 / 4 ≠ pa / 64) →
    ((s.writeBlock pa key data (2 ^ 64 - 1) tag ct .normal).peekBlock pa key).data = BitVec.ofNat 512 data

/-- R266, R401, R417: a host access comes to its home in its cycle after every other access of the cycle, as an untimed-class access
of the partition to which its function is bound; one of a function that is not bound, or of the physical function before boot step 7,
is dropped, and a read of it gives all ones. -/
def Sys2Proof.Claims.HostAccessesArrive : Prop :=
  ∀ (s : State) (w : Bool) (f : Option Nat) (a : Access), s.arg = .hostAccess w f a →
    let b : Access := { a with op := if w then .write else .read, dest := .none, alloc := .hostPort, cls := 3, sid := 0xFFFF, promise := none,
                               issue := s.now, leave := s.now }
    let dropped : State := if w then s
      else { s with outbox := s.outbox ++ [{ op := 6, sid := 0xFFFF, part := a.part, len := a.len, data := 2 ^ (8 * a.len) - 1, id := a.id }] }
    (∀ n p, f = some n → s.vfPart n = some p →
      exec .hostAccessArrival s = .next (scheduled s (event s.now 4 (2 ^ 90) .accessHomeCycle (.access { b with part := p, gen := s.gen p })))) ∧
    (∀ n, f = some n → s.vfPart n = none → exec .hostAccessArrival s = .next dropped) ∧
    (f = none → 7 ≤ s.bootStep → exec .hostAccessArrival s = .next (scheduled s (event s.now 4 (2 ^ 90) .accessHomeCycle (.access b)))) ∧
    (f = none → s.bootStep < 7 → exec .hostAccessArrival s = .next dropped)

namespace Sys2Proof.Claims

/-! ## Queues -/

/-- The core of the present word, and whether it is in SPLIT mode. -/
def myCore (s : State) : Core := Fm.get {} s.cores (s.cur.sid % 4096)
/-- The physical queue or out-port that a number names: of the second sequencer of a SPLIT core the upper eight (R25). -/
def physical (s : State) (n : Nat) : Nat := if s.split s.cur.sid && sqOf s.cur.sid == 1 then n + 8 else n
/-- Out-port `n` of the present word's core: kind 0 operand, 1 link. -/
def outPort (s : State) (kind n : Nat) : Port := Fm.get {} (if kind = 0 then (myCore s).oport else (myCore s).lport) (physical s n)
/-- Receiving queue `n` of the present word's core. -/
def inQueue (s : State) (kind n : Nat) : List QItem := Fm.get [] (if kind = 0 then (myCore s).oq else (myCore s).lq) (physical s n)
/-- The word may run here: a user sequencer, and a queue number that the core mode can name (R25, R37). -/
abbrev QueueFits (s : State) (n : Nat) : Prop := ¬ OnHub s ∧ (s.split s.cur.sid = true → n < 8)
/-- What a push takes: a credit, or for a loopback a reservation (R226, R228). -/
def tokens (p : Port) : Nat := if p.loopback then p.resv else p.credits
/-- Whether a push needs no wait: it finds its token, and no entry waits before it; a reservation that waits for credits does not hold
it up (R226, R228). -/
abbrev hasRoom (p : Port) : Prop := 0 < tokens p ∧ ∀ w ∈ p.pend, ∃ n i c, w = .rsv n i c ∧ p.credits < n
/-- Whether a push must wait: there is no token, or an entry waits before it (R226). -/
abbrev isShort (p : Port) : Prop := tokens p = 0 ∨ ∃ e i c j, .push e i c j ∈ p.pend
/-- The port after one entry was pushed: a credit or reservation less, one entry more under way. -/
def pushedOnce (p : Port) : Port :=
  { p with held := p.held + 1, resv := if p.loopback then p.resv - 1 else p.resv, credits := if p.loopback then p.credits else p.credits - 1 }
/-- Entry `j` of a tile (R225). -/
def entryAt (x : TileBits) (j : Nat) : EntryBits := BitVec.ofNat 8192 (x.toNat / 2 ^ (8192 * j))

/-- A link port binds the link and lane of an entry (R227, R229). -/
abbrev Binds (k : Packet) (p : Port) : Prop := p.bound = true ∧ p.link = k.link ∧ p.lane = k.lane
/-- Core `core`, and no other, has ports that bind the link and lane of an entry. -/
def OnlyBinder (s : State) (k : Packet) (core : Nat) : Prop :=
  (core, Fm.get {} s.cores core) ∈ s.cores ∧ (∃ x ∈ (Fm.get {} s.cores core : Core).lport, Binds k x.2) ∧
    ∀ e ∈ s.cores, (∃ x ∈ e.2.lport, Binds k x.2) → e = (core, Fm.get {} s.cores core)

/-- The pushes and pops with their kind, and their port or queue, tile and count less one. -/
def pushOf : Instr → Option (Nat × BitVec 4 × BitVec 5 × BitVec 2)
  | .qpush p v n => some (0, p, v, n)
  | .lksend p v n => some (1, p, v, n)
  | _ => none
def popOf : Instr → Option (Nat × BitVec 4 × BitVec 5 × BitVec 2)
  | .qpop v q n => some (0, q, v, n)
  | .lkrecv v q n => some (1, q, v, n)
  | _ => none

/-- `t` differs from `s` at most in its cores, its agenda, and its outgoing packets with what its links keep of them. -/
def CoresAndAgenda (s t : State) : Prop :=
  t = { s with cores := t.cores, agenda := t.agenda, outbox := t.outbox, links := t.links }

/-- Entries, credits and reservation that a read of this cycle sees: those before its first push or pop (R31). -/
def depths (s : State) (k q : Nat) : Nat × Nat × Nat :=
  match (myCore s).depths.find? (fun d => d.cyc == s.now && d.kind == k && d.q == physical s q) with
  | some d => (d.held, d.credits, d.resv)
  | none => ((inQueue s k q).length, (outPort s k q).credits, (outPort s k q).resv)

/-- What QDEPTH reads (R231). -/
def depthWord (s : State) (k q : Nat) : Nat :=
  let p := outPort s k q
  let d := depths s k q
  d.1 % 128 + d.2.1 % 128 * 2 ^ 7 + d.2.2 % 32 * 2 ^ 14 + p.rank % 8 * 2 ^ 19 + at_ p.bound 22 + at_ p.loopback 23

/-! ## The matrix column -/

/-- A record `new` is `old` with fields replaced: each (low bit, width, value) reads as its value, and no other bit differs. -/
def FieldsSet (old new : Nat) (l : List (Nat × Nat × Nat)) : Prop :=
  (∀ f ∈ l, new / 2 ^ f.1 % 2 ^ f.2.1 = f.2.2 % 2 ^ f.2.1) ∧
    ∀ i, (∀ f ∈ l, i < f.1 ∨ f.1 + f.2.1 ≤ i) → new.testBit i = old.testBit i

/-- A level record of a loop-nest table, and its global record, as numbers (R207, R208). -/
def levelRec (t : NestTable) (l : Nat) : Nat := (Fm.get 0 t.lvl l).toNat
def globalRec (t : NestTable) : Nat := t.glob.toNat

/-- The words that write a level of the shadow table (R209, R210): the level, and the fields with their values. -/
def levelWord (s : State) : Instr → Option (Nat × List (Nat × Nat × Nat))
  | .mcfg l g f =>
    if 6 ≤ l.toNat ∨ 5 ≤ f.toNat then none
    else some (l.toNat, [(if f = 0 then 0 else if f = 1 then 16 else if f = 2 then 36 else if f = 3 then 56 else 76,
                          if f = 0 then 16 else if f = 4 then 4 else 20, (greg s g).toNat)])
  | .mcfgi l grp v =>
    if 6 ≤ l.toNat then none
    else if grp = 0 then some (l.toNat, [(0, 16, v.toNat), (76, 4, v.toNat / 2 ^ 16)])
    else some (l.toNat, [(if grp = 1 then 16 else if grp = 2 then 36 else 56, 20, v.toNat)])
  | _ => none

/-- The words that write the global record (R211 to R213), and whether a reserved field is found set (R94). -/
def globalWord (s : State) : Instr → Option (List (Nat × Nat × Nat) × Bool)
  | .msrc k r u i =>
    let unit := if k = 1 then u.toNat % 32 else if k = 2 ∨ k = 3 then u.toNat % 16 else 0
    let base := if k = 0 then (greg s u).toNat else 0
    let rsv := (k == 1 && decide (32 ≤ u.toNat)) || ((k == 2 || k == 3) && decide (16 ≤ u.toNat)) || (4 ≤ k.toNat && u != 0) || (r != 2 && i != 0)
    if r = 0 then some ([(0, 3, k.toNat), (3, 5, unit), (8, 22, base)], rsv)
    else if r = 1 then some ([(30, 3, k.toNat), (33, 4, unit), (37, 22, base)], rsv)
    else if r = 2 then some ([(59, 3, k.toNat), (62, 5, unit), (67, 22, base), (89, 8, i.toNat)], rsv)
    else none
  | .mfmt a b f q => some ([(97, 4, a.toNat), (101, 4, b.toNat), (109, 4, q.toNat), (105, 4, f.toNat)], false)
  | .mfuse q f => some ([(114, 4, q.toNat), (113, 1, f.toNat)], false)
  | _ => none

/-- Accumulator rows that the sequencer names, and the physical row (R26). -/
def rowLimit (s : State) : Nat := if s.split s.cur.sid then 128 else 256
def physicalRow (s : State) (r : Nat) : Nat := if s.split s.cur.sid && sqOf s.cur.sid == 1 then r + 128 else r
/-- Row `r` of the accumulators as the present word's sequencer names it. -/
def accumulator (s : State) (r : Nat) : RowBits := Fm.get 0 (myCore s).acc (physicalRow s r)
/-- No nest of the core is in flight (R32, R221). -/
abbrev NoNest (s : State) : Prop :=
  (mine s).nest.live = false ∧ (Fm.get {} s.seqs (if s.cur.sid < 4096 then s.cur.sid + 4096 else s.cur.sid - 4096)).nest.live = false

end Sys2Proof.Claims

/-! ## The queue column -/

/-- R225, R226, R228, R387: a push that finds a credit takes it, sends its first entry on its way (an operand entry to its target
queue after H cycles, a link entry to its port's departures) and each further entry one cycle later than the one before. -/
def Sys2Proof.Claims.PushesSendEntries : Prop :=
  ∀ (s : State) (i : Instr) (kind : Nat) (p : BitVec 4) (v : BitVec 5) (n : BitVec 2), Free s → pushOf i = some (kind, p, v, n) →
    QueueFits s p.toNat → Nameable s [v.toNat] → (outPort s kind p.toNat).bound = true → hasRoom (outPort s kind p.toNat) →
    let u := occupied s (n.toNat + 1)
    let pt := outPort s kind p.toNat
    let x := tileOf s s.cur.sid v.toNat
    ∃ t, exec i s = .next t ∧ CoresAndAgenda u t ∧ t.outbox = s.outbox ∧ t.links = s.links ∧
      (∀ j, j < n.toNat → event (s.now + j + 1) 1 (landKey s.now s.cur.sid 5) .resultLanding
        (.land s.cur.sid [.push kind (physical s p.toNat) (entryAt x (j + 1)) (j + 1) s.now]) ∈ t.agenda) ∧
      (kind = 0 → outPort t 0 p.toNat = pushedOnce pt ∧
        event (s.now + hopLatency (s.cur.sid % 4096) pt.core) 1 0 .queueEntryArrival (.entry pt.core 0 pt.queue
          { data := entryAt x 0, core := s.cur.sid % 4096, port := physical s p.toNat } (mine s).task.part (s.gen (mine s).task.part)) ∈ t.agenda) ∧
      (kind = 1 → outPort t 1 p.toNat = { pushedOnce pt with wait := pt.wait ++ [LinkWait.mk (entryAt x 0) s.now pt.link pt.lane
        pt.queue (mine s).task.part (s.gen (mine s).task.part) none] })

/-- R225, R226, R386: a pop that finds an entry takes the first of its queue; its bytes land in the tile at n + 3, its credit goes back
(to the out-port that pushed it after H cycles, under that port's present binding; or over the link, with the next path sequence
number, and is kept until the peer acknowledges it), and each further entry is taken one cycle later than the one before. -/
def Sys2Proof.Claims.PopsTakeEntries : Prop :=
  ∀ (s : State) (i : Instr) (kind : Nat) (q : BitVec 4) (v : BitVec 5) (n : BitVec 2) (it : QItem) (rest : List QItem), Free s →
    popOf i = some (kind, q, v, n) → QueueFits s q.toNat → Nameable s [v.toNat] → inQueue s kind q.toNat = it :: rest →
    (∀ w ∈ (myCore s).pops, w.kind ≠ kind ∨ w.q ≠ physical s q.toNat) →
    ∃ t, exec i s = .next t ∧ CoresAndAgenda (occupied s (n.toNat + 1)) t ∧ inQueue t kind q.toNat = rest ∧
      event (s.now + (n.toNat + 1) + 3) 1 (landKey s.now s.cur.sid 5) .resultLanding (.land s.cur.sid [.tile v.toNat
        (BitVec.ofNat 32768 it.data.toNat) (BitVec.ofNat 32768 (2 ^ 8192 - 1))]) ∈ t.agenda ∧
      (kind = 0 → t.outbox = s.outbox ∧ t.links = s.links ∧
        let p : Port := Fm.get {} (Fm.get {} s.cores it.core).oport it.port
        event (s.now + hopLatency (s.cur.sid % 4096) it.core) 1 0 .queueCreditArrival (.credit it.core 0 it.port p.binds
          (if p.core = s.cur.sid % 4096 ∧ p.queue = physical s q.toNat then 0 else 1) (s.cur.sid % 4096) (mine s).task.part) ∈ t.agenda) ∧
      (kind = 1 →
        let l := s.link it.core
        let k : Packet := { op := 10, src := s.hub.modn, dst := l.peer, part := (mine s).task.part, gen := s.gen (mine s).task.part,
                            pseq := l.seq + 1, link := s.wayOf it.core, lane := it.port, dep := some s.now }
        t.outbox = s.outbox ++ [k] ∧ t.links = Fm.set s.links it.core { l with seq := l.seq + 1, owed := l.owed ++ [k] }) ∧
      ∀ j, j < n.toNat → ∃ w : PopWait, event (s.now + j + 1) 1 (landKey s.now s.cur.sid 5) .resultLanding (.land s.cur.sid [.pop w]) ∈ t.agenda ∧
        w.kind = kind ∧ w.q = physical s q.toNat ∧ w.sid = s.cur.sid ∧ w.tile = v.toNat ∧ w.j = j + 1 ∧ w.n = n.toNat + 1 ∧ w.issue = s.now

/-- R226, R317: where a push finds no credit or a pop no entry, or an earlier one still waits, the word does not issue in STALL mode: it holds its sequencer for
the cycle; in TRAP mode it posts the timing fault and issues. -/
def Sys2Proof.Claims.QueueViolations : Prop :=
  ∀ (s : State) (i : Instr) (kind : Nat) (q : BitVec 4) (v : BitVec 5) (n : BitVec 2), Free s → QueueFits s q.toNat → Nameable s [v.toNat] →
    ((pushOf i = some (kind, q, v, n) ∧ (outPort s kind q.toNat).bound = true ∧ isShort (outPort s kind q.toNat)) ∨
      (popOf i = some (kind, q, v, n) ∧
        (inQueue s kind q.toNat = [] ∨ ∃ w ∈ (myCore s).pops, w.kind = kind ∧ w.q = physical s q.toNat))) →
    (mine s).ut = false →
    ((mine s).trapMode = false → (mine s).heldAt ≠ some s.now →
      exec i s = .next { withMine s (heldOnce s (mine s)) with cur := { s.cur with held := true } }) ∧
    ((mine s).trapMode = true → s.cur.posted = false → (mine s).fatal = false → (∀ e ∈ (mine s).pend, e.code ≠ 0x12) →
      ∃ t, exec i s = .next t ∧ t.cur = s.cur ∧
        mine t = { mine (occupied s (n.toNat + 1)) with pend := (mine s).pend ++ [{ code := 0x12, col := s.cur.col }] })

/-- R228, R231: QRSV with enough credits lands its reservation at +1, which moves the credits, and n = 0 gives all reserved ones
back; QDEPTH writes depth, credits, reservation, rank and binding at +2. -/
def Sys2Proof.Claims.ReservationsAndDepth : Prop :=
  (∀ (s : State) (p : BitVec 4) (n : BitVec 8), Free s → QueueFits s p.toNat → (outPort s 0 p.toNat).bound = true →
    (outPort s 0 p.toNat).loopback = true → n.toNat ≤ 16 → n.toNat ≤ (outPort s 0 p.toNat).credits →
    exec (.qrsv p n) s = .next (issued s 1 1 [.qrsv (physical s p.toNat) n.toNat])) ∧
  (∀ (s : State) (sid q n : Nat), s.arg = .land sid [.qrsv q n] →
    let p : Port := Fm.get {} (Fm.get {} s.cores (sid % 4096)).oport q
    p.pend = [] → n ≤ p.credits → ∃ t, exec .resultLanding s = .next t ∧ t = { s with cores := t.cores } ∧
      Fm.get {} (Fm.get {} t.cores (sid % 4096)).oport q =
        { p with credits := if n = 0 then p.credits + p.resv else p.credits - n, resv := if n = 0 then 0 else p.resv + n }) ∧
  ∀ (s : State) (g : BitVec 6) (k : BitVec 1) (q : BitVec 4), Free s → QueueFits s q.toNat →
    exec (.qdepth g k q) s = .next (issued s 1 2 [.g g.toNat (BitVec.ofNat 64 (depthWord s k.toNat q.toNat))])

/-- R229: QBIND and LKBIND are legal at S and H; an idle port that passes the checks of its rule takes its new binding at +48, and
an unbinding has nothing more to check. -/
def Sys2Proof.Claims.BindingWords : Prop :=
  ∀ (s : State) (p : BitVec 4) (g : BitVec 6), Free s → QueueFits s p.toNat →
    let desc := (greg s g).toNat
    ((mine s).pl = 0 → exec (.qbind p g) s = .next (faulted (occupied s 1) 1) ∧ exec (.lkbind p g) s = .next (faulted (occupied s 1) 1)) ∧
    ((mine s).pl ≠ 0 → (outPort s 0 p.toNat).held = 0 →
      (desc.testBit 19 = false ∨ (bits desc 0 6 ≤ 35 ∧
          s.targetGranted (mine s).task.part (bindCore (dieOf s.cur.sid) desc) (bits desc 8 4) = true ∧
          s.targetTaken (s.cur.sid % 4096) (physical s p.toNat) (bindCore (dieOf s.cur.sid) desc) (bits desc 8 4) = false) →
        exec (.qbind p g) s = .next (issued s 1 48 [.bind 0 (physical s p.toNat) desc])) ∧
      (desc.testBit 19 = true → 35 < bits desc 0 6 → exec (.qbind p g) s = .next (faulted (occupied s 1) 3))) ∧
    ((mine s).pl ≠ 0 → (outPort s 1 p.toNat).held = 0 →
      (desc.testBit 19 = false ∨ (s.holdsLane (mine s).task.part (bits desc 0 4) (bits desc 8 4) = true ∧
          s.laneTaken (s.cur.sid % 4096) (physical s p.toNat) (bits desc 0 4) (bits desc 8 4) (bits desc 12 4) = false) →
        exec (.lkbind p g) s = .next (issued s 1 48 [.bind 1 (physical s p.toNat) desc])) ∧
      (desc.testBit 19 = true → s.holdsLane (mine s).task.part (bits desc 0 4) (bits desc 8 4) = false →
        exec (.lkbind p g) s = .next (faulted (occupied s 1) 3)))

/-- R226, R342, R381: an operand entry of the present generation joins the end of its queue where no pop waits; one of an older
generation is discarded, and one whose slots have not come is held on its way a cycle more. A credit that comes back under the present
binding, of an entry of the present target, is the port's again where nothing waits there; another one counts nowhere. -/
def Sys2Proof.Claims.EntriesAndCreditsArrive : Prop :=
  (∀ (s : State) (core q part gen : Nat) (it : QItem), s.arg = .entry core 0 q it part gen →
    (part ≠ 63 → gen ≠ s.gen part → exec .queueEntryArrival s = .next s) ∧
    (Present s part gen → s.entryCrosses part it.core core = false → exec .queueEntryArrival s =
      .next (scheduled s (event (s.now + 1) 1 0 .queueEntryArrival s.arg))) ∧
    (Present s part gen → s.entryCrosses part it.core core = true → (∀ w ∈ (Fm.get {} s.cores core).pops, w.kind ≠ 0 ∨ w.q ≠ q) →
      exec .queueEntryArrival s = .next { s with cores := Fm.set s.cores core { Fm.get {} s.cores core with
        oq := Fm.set (Fm.get {} s.cores core).oq q (Fm.get [] (Fm.get {} s.cores core).oq q ++ [it]) } })) ∧
  ∀ (s : State) (core port b e src part : Nat), s.arg = .credit core 0 port b e src part →
    let p : Port := Fm.get {} (Fm.get {} s.cores core).oport port
    (s.entryCrosses part src core = false → exec .queueCreditArrival s =
      .next (scheduled s (event (s.now + 1) 1 0 .queueCreditArrival s.arg))) ∧
    (s.entryCrosses part src core = true → p.pend = [] →
      exec .queueCreditArrival s = .next { s with cores := Fm.set s.cores core { Fm.get {} s.cores core with
        oport := Fm.set (Fm.get {} s.cores core).oport port
          (if p.binds = b ∧ e = 0 then { p with credits := p.credits + 1 } else p) } })

/-- R227, R386, R387, R393: in a slot of its partition the first entry of a port departs as a packet on its link while the link serves
its peer, with the next path sequence number (or, sent again, with its own), and is kept until the peer acknowledges it; while the link
does not serve it is discarded and counted in DROP; outside a slot it waits. -/
def Sys2Proof.Claims.LinkEntriesDepart : Prop :=
  ∀ (s : State) (core q : Nat) (w : LinkWait) (r : List LinkWait), s.arg = .lane core q →
    let p : Port := Fm.get {} (Fm.get {} s.cores core).lport q
    let l := s.link w.link
    p.wait = w :: r →
    (s.slotHeld w.part w.link w.lane = false → ∃ t, exec .linkEntryDepart s = .next t ∧ t = { s with agenda := t.agenda } ∧
      ∃ c, s.now < c ∧ t.agenda = s.agenda ++ [event c 4 (2 ^ 89 + core * 16 + q) .linkEntryDepart (.lane core q)]) ∧
    ((Fm.get {} s.cores core).firstOnLane q = true → s.slotHeld w.part w.link w.lane = true → p.slotAfter ≤ s.now →
      ∃ t, exec .linkEntryDepart s = .next t ∧ (Fm.get {} (Fm.get {} t.cores core).lport q).wait = r ∧
        (∀ k, Fm.get [] (Fm.get {} t.cores core).lq k = Fm.get [] (Fm.get {} s.cores core).lq k) ∧
        (l.linked = true →
          let n := match w.num with
            | some n => n
            | none => l.seq + 1
          t.outbox = s.outbox ++ [{ op := 9, src := s.hub.modn, dst := l.peer, part := w.part, gen := w.gen, pseq := n,
                                    link := s.wayOf w.link, lane := w.lane, queue := w.queue, data := w.data.toNat, dep := some s.now }] ∧
          (t.link w.link).seq = max l.seq n ∧ (core, q, { w with num := some n }) ∈ (t.link w.link).sent) ∧
        (l.linked = false → t.outbox = s.outbox ∧ t.links = Fm.set s.links w.link { l with drop := l.drop + 1 } ∧
          (Fm.get {} (Fm.get {} t.cores core).lport q).held = p.held - 1))

/-- R134, R227, R387: a link entry that no port of the module binds, whose queue's port does not bind its link and lane, that is of the
generation before the kept one, or that finds 64 entries in its queue, is discarded; it is counted in DROP in the same cycle, after the
words, which changes nothing else. -/
def Sys2Proof.Claims.LinkEntriesDropped : Prop :=
  (∀ (s : State) (k : Packet), s.arg = .packet k →
    ((∀ e ∈ s.cores, ∀ p ∈ e.2.lport, ¬ Binds k p.2) ∨
      ∃ core, OnlyBinder s k core ∧ (let c : Core := Fm.get {} s.cores core
        let p : Port := Fm.get {} c.lport k.queue
        ¬ Binds k p ∨ (∃ g, p.kgen = some g ∧ k.gen = (g + 255) % 256) ∨ 64 ≤ (Fm.get [] c.lq k.queue).length)) →
    exec .linkEntryArrival s = .next (scheduled s (event s.now 4 (2 ^ 90 + k.link) .linkEntryArrival (.link k.link)))) ∧
  ∀ (s : State) (n : Nat), s.arg = .link n →
    exec .linkEntryArrival s = .next { s with links := Fm.set s.links n { s.link n with drop := (s.link n).drop + 1 } }

/-- R227: a link entry of no older generation joins the link queue that it names, in the core that binds its link and lane through
that queue's port, where the queue has room and no pop waits; its generation is kept by every port of the core that binds the two. -/
def Sys2Proof.Claims.LinkEntriesArrive : Prop :=
  ∀ (s : State) (k : Packet) (core : Nat), s.arg = .packet k → OnlyBinder s k core →
    let c : Core := Fm.get {} s.cores core
    let p : Port := Fm.get {} c.lport k.queue
    Binds k p → (∀ g, p.kgen = some g → k.gen ≠ (g + 255) % 256) →
    (Fm.get [] c.lq k.queue).length < 64 → (∀ w ∈ c.pops, w.kind ≠ 1 ∨ w.q ≠ k.queue) →
    ∃ t, exec .linkEntryArrival s = .next t ∧ t = { s with cores := t.cores } ∧
      Fm.get [] (Fm.get {} t.cores core).lq k.queue = Fm.get [] c.lq k.queue ++ [{ data := BitVec.ofNat 8192 k.data, core := k.link, port := k.lane }] ∧
      (∀ q, q ≠ k.queue → Fm.get [] (Fm.get {} t.cores core).lq q = Fm.get [] c.lq q) ∧
      (∀ q, Binds k (Fm.get {} c.lport q) → Fm.get {} (Fm.get {} t.cores core).lport q = { (Fm.get {} c.lport q : Port) with kgen := some (k.gen % 256) }) ∧
      ∀ d, d ≠ core → Fm.get {} t.cores d = Fm.get {} s.cores d

/-! ## The matrix column -/

/-- R207, R209, R210: MCFG and MCFGI write the named fields of one level of the shadow table, and nothing else; levels 6 and 7, and
fields 5 to 7, are illegal. -/
def Sys2Proof.Claims.LevelsAreConfigured : Prop :=
  (∀ (s : State) (i : Instr) (l : Nat) (f : List (Nat × Nat × Nat)), ¬ OnHub s → levelWord s i = some (l, f) →
    ∃ x : NestTable, exec i s = .next (withMine s { mine s with shadow := x }) ∧ x.glob = (mine s).shadow.glob ∧
      FieldsSet (levelRec (mine s).shadow l) (levelRec x l) f ∧ ∀ k, k ≠ l → levelRec x k = levelRec (mine s).shadow k) ∧
  ∀ (s : State) (l : BitVec 3) (g : BitVec 6) (f : BitVec 3) (grp : BitVec 2) (v : BitVec 20),
    (6 ≤ l.toNat ∨ 5 ≤ f.toNat → exec (.mcfg l g f) s = .next (faulted s 1)) ∧
    (6 ≤ l.toNat → exec (.mcfgi l grp v) s = .next (faulted s 1))

/-- R208, R211 to R213: MSRC, MFMT and MFUSE write their fields of the shadow table's global record, and nothing else but RSVD for
a reserved field that is set; role code 3 of MSRC is illegal. -/
def Sys2Proof.Claims.SourcesAreConfigured : Prop :=
  (∀ (s : State) (i : Instr) (f : List (Nat × Nat × Nat)) (b : Bool), ¬ OnHub s → globalWord s i = some (f, b) →
    ∃ x : NestTable, exec i s = .next (markRsvd (withMine s { mine s with shadow := x }) b) ∧ x.lvl = (mine s).shadow.lvl ∧
      FieldsSet (globalRec (mine s).shadow) (globalRec x) f) ∧
  ∀ (s : State) (k : BitVec 3) (u : BitVec 6) (i : BitVec 8), exec (.msrc k 3 u i) s = .next (faulted s 1)

/-- R219: MDUR writes the duration of the shadow table's nest at +4, all ones for a table that MGO would refuse. -/
def Sys2Proof.Claims.DurationIsReported : Prop :=
  ∀ (s : State) (g : BitVec 6), Free s → ¬ OnHub s →
    let t := (mine s).shadow
    exec (.mdur g) s = .next (issued s 1 4 [.g g.toNat
      (if s.nestIllegal s.cur.sid t || s.nestBounds s.cur.sid t then 0xFFFFFFFFFFFFFFFF else BitVec.ofNat 64 t.duration)])

/-- R215, R216, R32: MGO with a legal table, no nest of the core in flight, copies the shadow table and starts its nest, whose first
row comes six cycles later; an illegal table or one out of bounds faults. -/
def Obligations.NestsStart : Prop :=
  ∀ (s : State), Free s → ¬ OnHub s →
    let t := (mine s).shadow
    (s.nestIllegal s.cur.sid t = true → exec .mgo s = .next (faulted s 1)) ∧
    (s.nestIllegal s.cur.sid t = false → s.nestBounds s.cur.sid t = true → exec .mgo s = .next (faulted s 3)) ∧
    (s.nestIllegal s.cur.sid t = false → s.nestBounds s.cur.sid t = false → NoNest s → ∃ u n, exec .mgo s = .next u ∧
      mine u = { mine (occupied s 1) with active := t, nest := n } ∧ n.live = true ∧ n.claim = bits t.glob.toNat 109 4 ∧
      n.ix = [0, 0, 0, 0, 0, 0] ∧ n.parked = false ∧ (∀ a ∈ n.todo, a.1 = s.now + 6) ∧ (∃ a ∈ n.todo, a.2 = .row) ∧
      (∃ e, u.agenda = s.agenda ++ [e] ∧ e.ins = .nestStep ∧ e.cyc = s.now + 6) ∧
      u = { occupied s 1 with seqs := u.seqs, agenda := u.agenda } ∧ ∀ j, j ≠ s.cur.sid → Fm.get {} u.seqs j = Fm.get {} s.seqs j)

/-- R214: MLDB with a usable mask, a format that MGO takes and no nest of the core in flight holds its column for the block's time.
From the scratchpad, with a B block inside it, it begins to read its block in the same cycle; from an operand queue it takes its
first entry in its issue cycle. -/
def Sys2Proof.Claims.WeightLoadsStart : Prop :=
  ∀ (s : State) (g : BitVec 6) (q : BitVec 4), Free s → ¬ OnHub s → NoNest s →
    let t := (mine s).shadow
    let bf := bits t.glob.toNat 101 4
    let addr := (greg s g).toNat % 2 ^ 22
    s.maskOk s.cur.sid q.toNat = true → fmtGroup bf ≠ 0 →
    (bits t.glob.toNat 30 3 = 0 → spadChecked s addr (bBytes bf q.toNat) 64 = none →
      let n := bBytes bf q.toNat / 2048
      let b : BLoad := { sid := s.cur.sid, part := (mine s).task.part, gen := s.gen (mine s).task.part, src := 1, addr := addr, mask := q.toNat, fmt := bf, n := n, j := 0, issue := s.now }
      exec (.mldb g q) s = .next (scheduled (occupied s n) (event s.now (if n = 0 then 2 else 4) (homeKey s.cur.sid s.now 4) .mldbComplete (.bload b)))) ∧
    (bits t.glob.toNat 30 3 = 2 → QueueFits s (bits t.glob.toNat 33 4) →
      let u := bits t.glob.toNat 33 4
      ∀ it rest, inQueue s 0 u = it :: rest → (∀ w ∈ (myCore s).pops, w.kind ≠ 0 ∨ w.q ≠ physical s u) →
        ∃ v, exec (.mldb g q) s = .next v ∧ CoresAndAgenda (occupied s (bBytes bf q.toNat / 1024)) v ∧ inQueue v 0 u = rest ∧
          v.outbox = s.outbox ∧ v.links = s.links)

/-- R206, R214, R302: when the last part of a load of weights is there, the masked quadrants have its format and its source, and hold
no poison; the other quadrants are as they were. -/
def Sys2Proof.Claims.WeightLoadsComplete : Prop :=
  ∀ (s : State) (b : BLoad), s.arg = .bload b → b.part = 63 ∨ b.gen = s.gen b.part → b.n ≤ b.j →
    ∃ t, exec .mldbComplete s = .next t ∧ t = { s with cores := t.cores } ∧
      ∀ i, i < 4 → Fm.get {} (Fm.get {} t.cores (b.sid % 4096)).quads i =
        (let q : Quad := Fm.get {} (Fm.get {} s.cores (b.sid % 4096)).quads i
         if b.mask.testBit i then { q with fmt := b.fmt, src := b.src, addr := if b.src = 1 then b.addr else 0, poison := false,
                                               mask := b.mask, by_ := some b.sid } else q)

/-- R26, R222, R223: MCLR, MRD and MWR on rows that the sequencer names and no nest holds: zeros at ⌈n ÷ 4⌉ + 1; FP32 values of a window
converted to the tile's type, and the tile's elements converted to FP32 into a window, at b(B) + 3. -/
def Sys2Proof.Claims.AccumulatorWords : Prop :=
  ∀ (s : State), Free s → ¬ OnHub s → NoNest s →
    (∀ (a b : BitVec 6),
      let r := (greg s a).toNat
      let n := (greg s b).toNat
      (r + n ≤ rowLimit s → exec (.mclr a b) s = .next (issued s (cdiv n 4) (cdiv n 4 + 1)
        ((List.range n).map fun i => .acc (physicalRow s (r + i)) 0 (BitVec.allOnes 16384)))) ∧
      (rowLimit s < r + n → exec (.mclr a b) s = .next (faulted s 3))) ∧
    (∀ (v : BitVec 5) (r c : BitVec 6) (m : BitVec 2), Nameable s [v.toNat] →
      let r0 := (greg s r).toNat
      let c0 := (greg s c).toNat
      r0 + rowCount s ≤ rowLimit s → c0 + columns s ≤ 512 →
      ((∀ x ∈ (myCore s).badRows, ∀ i, i < rowCount s → x.1 ≠ physicalRow s (r0 + i)) →
        let l := (List.range (count s)).map (fun i =>
          convert 1 (typ s) m.toNat (mine s).fctl ((accumulator s (r0 + i / columns s)).toNat / 2 ^ (32 * (c0 + i % columns s)) % 2 ^ 32));
        exec (.mrd v r c m) s = .next (issued s (occB s) (occB s + 3) (tileLand v.toNat (typ s) (l.map (·.1)) :: flagLands (orFlags l)))) ∧
      (let l := (List.range (count s)).map (fun i => convert (typ s) 1 m.toNat (mine s).fctl (elem s v.toNat i));
        exec (.mwr v r c m) s = .next (issued s (occB s) (occB s + 3) (((List.range (rowCount s)).map fun i =>
          .acc (physicalRow s (r0 + i))
            (BitVec.ofNat 16384 (pack 32 (((l.drop (columns s * i)).take (columns s)).map (·.1)) * 2 ^ (32 * c0)))
            (BitVec.ofNat 16384 ((2 ^ (32 * columns s) - 1) * 2 ^ (32 * c0)))) ++ flagLands (orFlags l)))))

/-- R113, R26: a landing in the accumulators replaces the columns it covers of its row, and no other row of any core, nor anything else of
its core but the record of double-bit errors in rows (R334). -/
def Sys2Proof.Claims.AccumulatorLandings : Prop :=
  ∀ (s : State) (sid r : Nat) (d m : RowBits), s.arg = .land sid [.acc r d m] →
    ∃ t, exec .resultLanding s = .next t ∧ t = { s with cores := t.cores } ∧
      Fm.get 0 (Fm.get {} t.cores (sid % 4096)).acc r = (Fm.get 0 (Fm.get {} s.cores (sid % 4096)).acc r &&& ~~~m) ||| (d &&& m) ∧
      (∀ k, k ≠ r → Fm.get 0 (Fm.get {} t.cores (sid % 4096)).acc k = Fm.get 0 (Fm.get {} s.cores (sid % 4096)).acc k) ∧
      Fm.get {} t.cores (sid % 4096) = { Fm.get {} s.cores (sid % 4096) with
        acc := (Fm.get {} t.cores (sid % 4096)).acc, badRows := (Fm.get {} t.cores (sid % 4096)).badRows } ∧
      ∀ c, c ≠ sid % 4096 → Fm.get {} t.cores c = Fm.get {} s.cores c

/-- R218, R220, R333: at the end of a nest its quadrants are released, unless a freeze stops it there; at a safe boundary a nest that
is asked to stop keeps its progress, its held drains first, and issues no further step, and one that is not asked goes on. -/
def Obligations.NestsStopAndEnd : Prop :=
  (∀ (s : State) (sid d : Nat) (r : List (Nat × NestAct)), s.arg = .seq sid →
    let n := (Fm.get {} s.seqs sid).nest
    n.live = true → n.parked = false → d + n.slip ≤ s.now →
    (n.todo = (d, .finish) :: r →
      (n.stop ≠ 1 ∨ s.frozen sid = false → exec .nestEnd s = .next (withSeq s sid { Fm.get {} s.seqs sid with nest := {} })) ∧
      (n.stop = 1 → s.frozen sid = true → exec .nestEnd s = .next (withSeq s sid { Fm.get {} s.seqs sid with
        nest := { n with parked := true, todo := n.held ++ n.todo, held := [] } }))) ∧
    (n.todo = (d, .bound) :: r →
      (n.stop = 1 → exec .nestSafeStop s = .next (withSeq s sid { Fm.get {} s.seqs sid with nest := { n with parked := true, todo := n.held ++ r, held := [] } })) ∧
      (n.stop = 2 → exec .nestSafeStop s = .next (withSeq s sid { Fm.get {} s.seqs sid with nest := { n with parked := true, live := false, todo := n.held ++ r, held := [] } })) ∧
      (n.stop = 3 → exec .nestSafeStop s = .next (withSeq s sid { Fm.get {} s.seqs sid with nest := {}, active := {} })) ∧
      (n.stop = 0 → ∃ t, exec .nestSafeStop s = .next t ∧ (Fm.get {} t.seqs sid).nest = { n with todo := r, posted := false } ∧
        t = { s with seqs := t.seqs, agenda := t.agenda })))

/-- R302, R334: a parity error poisons its quadrant and no other, and is recorded for its half with HND 0 and OFF 0xFFFFFF0 + q. -/
def Sys2Proof.Claims.ParityErrorsPoison : Prop :=
  ∀ (s : State) (core q : Nat), s.arg = .half core q → ∃ t, exec .cimParityError s = .next t ∧
    (Fm.get {} (Fm.get {} t.cores core).quads q).poison = true ∧
    (∀ k, k ≠ q → Fm.get {} (Fm.get {} t.cores core).quads k = Fm.get {} (Fm.get {} s.cores core).quads k) ∧
    let sid := if (Fm.get {} s.cores core : Core).split = true ∧ 2 ≤ q then core + 4096 else core
    t = { s with cores := t.cores, agenda := s.agenda ++ [event (s.now + 1) 1 (landKey s.now sid 4) .resultLanding
      (.land sid [.bad 4 0 (0xFFFFFF0 + q)])] }

/-- R31, R75, R204, R216, R217: a step of a nest whose A rows come from the scratchpad or from a tile, that forwards no row and ends no
level with an event, for every quadrant mask: of each N half that the mask has, in ascending order e, the accumulator row that the
strides name, plus 64e, takes in each of the half's columns the groups of the A row over the quadrants of its K halves; what it held is
what the partner's nest found in this cycle, if that wrote it too. The other columns and rows, the memories and the other sequencers are as
they were. The next row comes one row time later, with the indices one step on, after a safe boundary where level 3 or above ends;
after the last step the nest ends 12 cycles after the row time. -/
def Sys2Proof.Claims.NestStepsAccumulate : Prop :=
  ∀ (s : State) (sid d : Nat) (r : List (Nat × NestAct)), s.arg = .seq sid →
    let n := (Fm.get {} s.seqs sid).nest
    let t := (Fm.get {} s.seqs sid).active
    let m := t.fld 109 4
    let bf := t.fld 101 4
    let c : Core := Fm.get {} s.cores (sid % 4096)
    let quads (j : Nat) : List Quad := (kHalves m).map fun k => Fm.get {} c.quads (2 * k + j)
    n.live = true → n.parked = false → d + n.slip ≤ s.now → n.todo = (d, .row) :: r → t.fld 0 3 ≤ 1 → t.fld 113 1 = 0 →
    (∀ e l, t.event e l = false) → (∀ j ∈ nHalves m, ∀ q ∈ quads j, q.foreign bf = false) → isMgmt sid = false →
    let row (e : Nat) := t.addrAt (t.fld 89 8) 2 n.ix + 64 * e
    let a := t.addrAt (t.fld 8 22) 0 n.ix
    let data := if t.fld 0 3 = 0 then ofBytes (s.spadRow (spadOf sid) a t.rowBytes)
      else (tileOf s sid (t.fld 3 5)).toNat / 2 ^ (8 * a) % 2 ^ (8 * t.rowBytes)
    let scales := if t.fld 0 3 = 0 then (List.range (t.rowBytes / 64)).map (fun i => s.spadTag (spadOf sid) (a + 64 * i) / 256 % 256) else []
    let last := t.ends n.ix = 6
    let next := d + planes (t.fld 97 4)
    ∃ u, exec .nestStep s = .next u ∧
      (∀ e j k, (nHalves m)[e]? = some j → k < 512 →
        bits (Fm.get 0 (Fm.get {} u.cores (sid % 4096)).acc (s.physRow sid (row e))).toNat (32 * k) 32 =
          (let old := bits (s.rowBefore sid (row e)).toNat (32 * k) 32
           if k < nWidth bf then accumulate (t.fld 97 4) bf (rowElems (t.fld 97 4) (kSpan m) data scales) (quads j) k old % 2 ^ 32 else old)) ∧
      (∀ x, (∀ e, e < (nHalves m).length → x ≠ s.physRow sid (row e)) →
        Fm.get 0 (Fm.get {} u.cores (sid % 4096)).acc x = Fm.get 0 c.acc x) ∧
      u.spad = s.spad ∧ u.mem = s.mem ∧ (∀ j, j ≠ sid → Fm.get {} u.seqs j = Fm.get {} s.seqs j) ∧
      ∃ w, (Fm.get {} u.seqs sid).nest = { n with got := [], posted := false, touched := w,
                                                  ix := if last then n.ix else t.nextIx n.ix,
                                                  todo := r ++ (if last then [(next + 12, .finish)]
                                                    else (if 4 ≤ t.ends n.ix then [(next, .bound)] else []) ++ [(next, .row)]) }

/-- R73, R213, R217, R218, R226, R333: the other acts of a nest. An entry that waits in its queue is taken; an empty queue, or an
out-port that is short, makes the nest wait one cycle more; an entry is pushed where the out-port has room; drained bytes reach the
scratchpad two cycles after they are placed, or their tile at once, unless a freeze holds them; a reload from the scratchpad gives the
masked quadrants their format, source and address. -/
def Sys2Proof.Claims.NestActsProceed : Prop :=
  ∀ (s : State) (sid d : Nat) (a : NestAct) (r : List (Nat × NestAct)), s.arg = .seq sid →
    let n := (Fm.get {} s.seqs sid).nest
    let t := (Fm.get {} s.seqs sid).active
    let c : Core := Fm.get {} s.cores (sid % 4096)
    let taken : Nest := { n with todo := r, posted := false }
    let waits := ∃ u, exec .nestStep s = .next u ∧ (Fm.get {} u.seqs sid).nest = { n with slip := n.slip + 1, posted := true } ∧ u.cores = s.cores
    n.live = true → n.parked = false → d + n.slip ≤ s.now → n.todo = (d, a) :: r →
    (∀ (k : Nat) (it : QItem) (rest : List QItem), a = .pop 0 k → Fm.get [] c.oq k = it :: rest → (∀ w ∈ c.pops, w.kind ≠ 0 ∨ w.q ≠ k) →
      ∃ u, exec .nestStep s = .next u ∧ (Fm.get {} u.seqs sid).nest = { taken with got := n.got ++ [it.data] } ∧
        Fm.get [] (Fm.get {} u.cores (sid % 4096)).oq k = rest) ∧
    (∀ k, a = .pop 0 k → Fm.get [] c.oq k = [] ∨ (∃ w ∈ c.pops, w.kind = 0 ∧ w.q = k) → waits) ∧
    (∀ k, a = .need k →
      (hasRoom (Fm.get {} c.oport k) → ∃ u, exec .nestStep s = .next u ∧ (Fm.get {} u.seqs sid).nest = taken ∧ u.cores = s.cores) ∧
      (isShort (Fm.get {} c.oport k) → waits)) ∧
    (∀ drain k e, a = .push drain 0 k e → (drain = true → s.frozen sid = false) →
      (hasRoom (Fm.get {} c.oport k) → ∃ u, exec .nestStep s = .next u ∧ (Fm.get {} u.seqs sid).nest = taken ∧
        Fm.get {} (Fm.get {} u.cores (sid % 4096)).oport k = pushedOnce (Fm.get {} c.oport k)) ∧
      (isShort (Fm.get {} c.oport k) → waits)) ∧
    (∀ addr len data, a = .place false addr len data → s.frozen sid = false →
      ∃ u, exec .nestStep s = .next u ∧ (Fm.get {} u.seqs sid).nest = taken ∧
        event (s.now + 2) 4 (homeKey sid n.issue 4) .accessHomeCycle (.access
          { sid := sid, op := .write, space := .spad (spadOf sid), addr := t.fld 67 22 + addr, len := len, data := data
            part := (Fm.get {} s.seqs sid).task.part, gen := s.gen (Fm.get {} s.seqs sid).task.part, issue := n.issue, col := 4 }) ∈ u.agenda) ∧
    (∀ addr len data, a = .place true addr len data → s.frozen sid = false → t.fld 62 5 < 32 → addr + len ≤ 4096 →
      ∃ u, exec .nestStep s = .next u ∧ (Fm.get {} u.seqs sid).nest = taken ∧ ∀ i, i < 4096 →
        bits (tileOf u sid (t.fld 62 5)).toNat (8 * i) 8 =
          if addr ≤ i ∧ i < addr + len then bits data (8 * (i - addr)) 8 else bits (tileOf s sid (t.fld 62 5)).toNat (8 * i) 8) ∧
    (a.drains = true → s.frozen sid = true → ∃ u, exec .nestStep s = .next u ∧
      (Fm.get {} u.seqs sid).nest = { taken with held := n.held ++ [(d, a)] } ∧ u = { s with seqs := u.seqs, agenda := u.agenda }) ∧
    ∀ j addr, a = .reload j addr → ∃ u, exec .nestStep s = .next u ∧ (Fm.get {} u.seqs sid).nest = taken ∧
      ∀ i, i < 4 →
        let x : Quad := Fm.get {} (Fm.get {} u.cores (sid % 4096)).quads i
        if (t.fld 109 4).testBit i = true then
          x.fmt = t.fld 101 4 ∧ x.src = 1 ∧ x.addr = addr ∧ x.mask = t.fld 109 4 ∧ x.by_ = some sid else x = Fm.get {} c.quads i

namespace Sys2Proof.Claims

/-! ## Synchronisation -/

/-- What checks 3 and 4 of R175 find for an access of `n` bytes to a sync engine: PERM atomic and TIER 0, aligned to `n`. -/
def engineChecked (s : State) (h : Handle) (off n : Nat) : Option Nat :=
  if !(current s h && (h.perm &&& 4) == 4) || h.tier != 0 then some 2
  else if off % n ≠ 0 ∨ pageSize h.sz < off + n then some 3
  else none

/-- d of R176 from the present word's die to a home. -/
def distance (s : State) (home : Nat) : Nat := dieLatency (dieOf s.cur.sid) home

/-- The scalar atomics (R190): result and operand register, handle, offset register, width, code and comparand. -/
def atomicWord (s : State) : Instr → Option (BitVec 6 × BitVec 4 × BitVec 6 × BitVec 1 × Nat × Nat)
  | .aadd g h c w => some (g, h, c, w, 0, 0)
  | .aand g h c w => some (g, h, c, w, 1, 0)
  | .aor g h c w => some (g, h, c, w, 2, 0)
  | .axor g h c w => some (g, h, c, w, 3, 0)
  | .amin g h c sn w => some (g, h, c, w, if sn = 1 then 8 else 4, 0)
  | .amax g h c sn w => some (g, h, c, w, if sn = 1 then 9 else 5, 0)
  | .aswp g h c w => some (g, h, c, w, 6, 0)
  | .acas g h c w => if g = 63 then none else some (g, h, c, w, 7, (Fm.get 0 (mine s).g (g.toNat + 1)).toNat)
  | _ => none

/-- The two events of an access to a sync engine: its home at +24 + d, its answer promised by +48 + 2d (R176, R244). -/
def engineEvents (s : State) (a : Access) (d : Nat) : List Ev :=
  let b : Access := { sent s a with promise := some (s.now + 48 + 2 * d) }
  [event (s.now + 24 + d) 4 (myOrder s) .accessHomeCycle (.access b), event (s.now + 48 + 2 * d) 2 s.cur.sid .arrivalViolation (.access b)]

/-- A clamp that is recorded (R255): WRN.CLAMP and CLAMPCNT. -/
def clampEvent (s : State) : Ev := event s.now 4 s.cur.sid .resultLanding (.land s.cur.sid [.wrn 0x20, .clamp (mine s).task.part])

/-- The index word of element `k` of a VATOM (R191): handle and offset. -/
def vatomIndex (s : State) (i : BitVec 5) (k : Nat) : Nat := (tileOf s s.cur.sid i.toNat).toNat / 2 ^ (32 * k) % 2 ^ 32
def vatomHandle (s : State) (i : BitVec 5) (k : Nat) : Handle := Fm.get {} (mine s).h (vatomIndex s i k / 2 ^ 28 % 16)

/-- A gate request of the present word (R197, R354): partition, generation, gate number, register. -/
def gateRequest (s : State) (g : BitVec 6) (dst gv id : Nat) : GateReq :=
  { sid := s.cur.sid, part := (mine s).task.part, gen := s.gen (mine s).task.part, gate := (greg s g).toNat, dst := dst, gv := gv,
    id := id, issue := s.now }

/-! ## Other modules -/

/-- A word that sends a packet to another module (R199, R200, R202): the tile it names, occupancy, whether it is a seam instruction
and a store, whether its egress check passes, the access that waits, and the packet. -/
structure RemoteWord where
  tile : Option Nat
  occ : Nat
  seam : Bool
  ok : Bool
  acc : Access
  pkt : Packet

/-- The packet of a capability. -/
def capPacket (s : State) (k : BitVec 4) (c : BitVec 6) (op len : Nat) (ops : List Nat) (data : Nat) : Packet :=
  let x := Fm.get {} (mine s).k k.toNat
  let base := bits x.bits.toNat 24 40
  { op := op, dst := bits x.bits.toNat 0 4, expid := bits x.bits.toNat 12 12, base := base, off := base + (greg s c).toNat, len := len, ops := ops, data := data }

/-- The egress check of R199 for `n` bytes aligned to `al`. -/
def egress (s : State) (k : BitVec 4) (c : BitVec 6) (perm n al : Nat) : Bool :=
  let x := Fm.get {} (mine s).k k.toNat
  x.tag && x.bits.getLsbD (4 + perm) && (greg s c).toNat % al == 0 && decide ((greg s c).toNat + n ≤ bits x.bits.toNat 64 40) &&
    bits x.bits.toNat 0 4 != s.hub.modn && s.linked (bits x.bits.toNat 0 4)

/-- `n` consecutive g registers from `g`, as numbers. -/
def gregs (s : State) (g : BitVec 6) (n : Nat) : List Nat := (List.range n).map fun i => (Fm.get 0 (mine s).g (g.toNat + i)).toNat

/-- The packet of a window (R202, R397). -/
def throughWindow (e op off data : Nat) : Packet :=
  { op := op, dst := bits e 0 4, expid := bits e 6 12, base := bits e 18 40, off := bits e 18 40 + off, len := 8, data := data, window := some (bits e 98 30) }

/-- The remote words; RCAS2 past g63 and RCHASE with A = 63 are not here: they are illegal. -/
def remoteWord (s : State) : Instr → Option RemoteWord
  | .cld g k c => some ⟨none, 1, true, egress s k c 0 8 8, { dest := .g g.toNat, len := 8 }, capPacket s k c 0 8 [] 0⟩
  | .cst g k c r => some ⟨none, 1, false, egress s k c 1 8 8, { op := .write }, capPacket s k c (if r = 1 then 5 else 1) 8 [] (greg s g).toNat⟩
  | .cldv v k c => some ⟨some v.toNat, 1, true, egress s k c 0 (tileBytes s) 64, { dest := .tile v.toNat, len := tileBytes s }, capPacket s k c 0 (tileBytes s) [] 0⟩
  | .cstv v k c => some ⟨some v.toNat, chunks (tileBytes s), false, egress s k c 1 (tileBytes s) 64, { op := .write },
      capPacket s k c 1 (tileBytes s) [] ((tileOf s s.cur.sid v.toNat).toNat % 2 ^ (8 * tileBytes s))⟩
  | .rcas2 g k c n =>
    if 63 < g.toNat + 2 * (n.toNat + 1) then none
    else some ⟨none, 1, true, egress s k c 2 (8 * (n.toNat + 1)) 8, { dest := .g g.toNat, len := n.toNat + 1 }, capPacket s k c 2 (n.toNat + 1) (gregs s g (2 * (n.toNat + 1))) 0⟩
  | .renq g k c => some ⟨none, 1, true, egress s k c 2 16 8, { dest := .g g.toNat, len := 1 }, capPacket s k c 3 16 [(greg s g).toNat] 0⟩
  | .rchase g k c =>
    if g = 63 then none
    else some ⟨none, 1, true, egress s k c 0 32 8, { dest := .g g.toNat, len := 2 }, capPacket s k c 4 32 [(greg s g).toNat] 0⟩
  | .wld g w c =>
    let e := s.windowOf (greg s w).toNat (greg s c).toNat false
    some ⟨none, 1, true, e.isSome, { dest := .g g.toNat, len := 8 }, throughWindow (e.getD 0) 0 (greg s c).toNat 0⟩
  | .wst g w c =>
    let e := s.windowOf (greg s w).toNat (greg s c).toNat true
    some ⟨none, 1, false, e.isSome, { op := .write }, throughWindow (e.getD 0) 1 (greg s c).toNat (greg s g).toNat⟩
  | _ => none

/-- The packet as it leaves: a store or a release flag with the next sequence number of its path, another operation with the
present one (the model's reading, log entry 97); a release flag counts the stores since the last one (R262). -/
def numbered (s : State) (w : RemoteWord) : Packet :=
  let k := w.pkt
  let p : Path := Fm.get {} (mine s).paths k.dst
  { k with src := s.hub.modn, sid := s.cur.sid, part := (mine s).task.part, gen := s.gen (mine s).task.part,
           pseq := if w.seam then p.seq else p.seq + 1, count := if k.op = 5 then p.since else k.count, id := s.nextId }

/-- The path after a packet. -/
def pathAfter (s : State) (w : RemoteWord) : Path :=
  let p : Path := Fm.get {} (mine s).paths w.pkt.dst
  { seq := if w.seam then p.seq else p.seq + 1, since := if w.pkt.op = 5 then 0 else if w.seam then p.since else p.since + 1 }

/-- The cycle in which an untimed packet leaves for a module: at once or in the next lane slot that no grant holds (R388). -/
def leaves (s : State) (m : Nat) : Option Nat := match s.linkTo m with
  | some n => s.departure (s.wayOf n)
  | none => none

end Sys2Proof.Claims

/-! ## The synchronisation column -/

/-- R176, R190, R244: an atomic whose checks pass goes to its sync engine at +24 + d and is answered at +48 + 2d; ACAS with A = 63 is
illegal. -/
def Sys2Proof.Claims.AtomicsGoToTheirEngine : Prop :=
  (∀ (s : State) (i : Instr) (g c : BitVec 6) (h : BitVec 4) (w : BitVec 1) (code b : Nat), Free s → atomicWord s i = some (g, h, c, w, code, b) →
    let x := handle s h
    let off := (greg s c).toNat
    let n := if w = 1 then 4 else 8
    (∀ e, engineChecked s x off n = some e → exec i s = .next (faulted (occupied s 1) e)) ∧
    (engineChecked s x off n = none → ∃ t, exec i s = .next t ∧
      (homeDie (x.base + off) = dieOf s.cur.sid → t.rdc = s.rdc) ∧ UnderWay s t 1 false (engineEvents s
      { op := .atomic code n ((greg s g).toNat % 2 ^ (8 * n)) (b % 2 ^ (8 * n)), addr := x.base + off, len := n, dest := .g g.toNat, key := x.key,
        hnd := h.toNat, off := off, tier := 0, page := x.base, pageSize := pageSize x.sz } (distance s x.home)))) ∧
  ∀ (s : State) (h : BitVec 4) (c : BitVec 6) (w : BitVec 1), Free s → exec (.acas 63 h c w) s = .next (faulted (occupied s 1) 1)

/-- R191: VATOM on an allowed type, with every element past its checks, sends one update for each element to its home, none later
than +o + 48 + 2d for the farthest home; an element that fails a check, and a type or op that is not allowed, fault. -/
def Sys2Proof.Claims.VectorAtomics : Prop :=
  ∀ (s : State) (v i : BitVec 5) (o : BitVec 3),
    let occ := cdiv (count s) 16
    let size := width s / 8
    let bad (k : Nat) : Option Nat := engineChecked s (vatomHandle s i k) (vatomIndex s i k % 2 ^ 28) size
    let far := (List.range (count s)).foldl (fun m k => max m (distance s (vatomHandle s i k).home)) 0
    let allowed := o.toNat ≠ 7 ∧ ((11 ≤ typ s ∧ typ s ≤ 14) ∨ (typ s = 1 ∧ o = 0)) ∧ count s ≤ 1024
    Free s → ¬ OnHub s → Nameable s [v.toNat, i.toNat] →
    (¬ allowed → exec (.vatom v i o) s = .next (faulted (occupied s occ) 1)) ∧
    (∀ k e, allowed → k < count s → bad k = some e → (∀ j, j < k → bad j = none) →
      exec (.vatom v i o) s = .next (faulted (occupied s occ) e)) ∧
    (allowed → (∀ k, k < count s → bad k = none) → ∃ t evs, exec (.vatom v i o) s = .next t ∧ t.agenda = s.agenda ++ evs ∧
      evs.length = count s ∧ t.mem = s.mem ∧ (mine t).g = (mine s).g ∧
      ∀ k, k < count s → ∃ c a, evs[k]? = some (event c 4 (homeKey s.cur.sid s.now 6) .accessHomeCycle (.access a)) ∧ s.now < c ∧
        c ≤ s.now + occ + 48 + 2 * far ∧ a.addr = (vatomHandle s i k).base + vatomIndex s i k % 2 ^ 28 ∧ a.len = size ∧
        a.op = (if typ s = 1 then .fadd (elem s v.toNat k)
          else .atomic (if isSigned (typ s) ∧ o.toNat = 4 then 8 else if isSigned (typ s) ∧ o.toNat = 5 then 9 else o.toNat) size (elem s v.toNat k) 0))

/-- R175, R194: ACQ and its try form on a valid object whose scope admits the issuer; without try it is a seam instruction whose
request reaches the object in a later cycle. A failed check, and an object whose scope shuts the issuer out, fault. -/
def Sys2Proof.Claims.AcquireRequests : Prop :=
  ∀ (s : State) (g c : BitVec 6) (h : BitVec 4) (sh : BitVec 1), Free s →
    let x := handle s h
    let off := (greg s c).toNat
    let shut := s.outOfScope (s.syncAt (x.base + off) x.key)
    let acc (b : Bool) : Access := { op := .acq (sh == 1) b, addr := x.base + off, len := 16, dest := .g g.toNat, key := x.key, hnd := h.toNat, off := off }
    ((mine s).ut = false → exec (.acq g h c sh) s = .next (faulted (occupied s 1) 4)) ∧
    (∀ e, engineChecked s x off 16 = some e → exec (.acqTry g h c sh) s = .next (faulted (occupied s 1) e) ∧
      ((mine s).ut = true → exec (.acq g h c sh) s = .next (faulted (occupied s 1) e))) ∧
    (engineChecked s x off 16 = none → shut = true → exec (.acqTry g h c sh) s = .next (faulted (occupied s 1) 2) ∧
      ((mine s).ut = true → exec (.acq g h c sh) s = .next (faulted (occupied s 1) 2))) ∧
    (engineChecked s x off 16 = none → shut = false →
      (∃ t, exec (.acqTry g h c sh) s = .next t ∧ t.rdc = s.rdc ∧ UnderWay s t 1 false (engineEvents s (acc true) (distance s x.home))) ∧
      ((mine s).ut = true → ∃ t cy, exec (.acq g h c sh) s = .next t ∧ s.now < cy ∧
        t.agenda = s.agenda ++ [event cy 4 (homeKey s.cur.sid s.now 6) .accessHomeCycle (.access { sent s (acc false) with seam := true, col := 6 })] ∧
        mine t = { mine (occupied s 1) with seam := true, outst := (mine t).outst } ∧ t.mem = s.mem ∧ t.syncs = s.syncs))

/-- R192, R193, R255: BIND and UNBIND go to the object's engine with the region's page; a BIND whose scope is clamped records it; a
region handle that is not valid, a failed check of the object, and a ninth page fault. -/
def Sys2Proof.Claims.BindingsOfRegions : Prop :=
  ∀ (s : State) (r h : BitVec 4) (g : BitVec 6), Free s →
    let reg := handle s r
    let x := handle s h
    let off := bits (greg s g).toNat 0 28
    let scope := bits (greg s g).toNat 28 3
    let o := s.syncAt (x.base + off) x.key
    let full := !o.pages.contains (reg.base, pageSize reg.sz) && decide (8 ≤ o.pages.length)
    let cl := s.clamped (mine s).task.part (if o.pages.isEmpty then s.cur.sid else o.anchor) scope
    let acc (p : Op) : Access := { op := p, addr := x.base + off, len := 16, key := x.key, hnd := h.toNat, off := off }
    (current s reg = false → exec (.bind r h g) s = .next (faulted (occupied s 1) 2) ∧ exec (.unbind r h g) s = .next (faulted (occupied s 1) 2)) ∧
    (∀ e, current s reg = true → engineChecked s x off 16 = some e →
      exec (.bind r h g) s = .next (faulted (occupied s 1) e) ∧ exec (.unbind r h g) s = .next (faulted (occupied s 1) e)) ∧
    (current s reg = true → engineChecked s x off 16 = none →
      (full = true → exec (.bind r h g) s = .next (faulted (occupied s 1) 3)) ∧
      (full = false → ∃ t, exec (.bind r h g) s = .next t ∧ t.rdc = s.rdc ∧ UnderWay s t 1 false
        ((if cl then [clampEvent s] else []) ++ engineEvents s (acc (.bind reg.base (pageSize reg.sz) scope)) (distance s x.home))) ∧
      ∃ t, exec (.unbind r h g) s = .next t ∧ t.rdc = s.rdc ∧ UnderWay s t 1 false
        (engineEvents s (acc (.unbind reg.base (pageSize reg.sz))) (distance s x.home)))

/-- R195: REL sends its release to the object, due at +48 + 2d at the earliest; an empty queue mask takes the fallback. -/
def Sys2Proof.Claims.ReleasesAreSent : Prop :=
  ∀ (s : State) (h : BitVec 4) (c : BitVec 6) (m : BitVec 16), Free s →
    let x := handle s h
    let off := (greg s c).toNat
    let sentWith (n : Nat) : State := { occupied s 1 with nextId := s.nextId + 1, agenda := s.agenda ++ [event (s.now + 48 + 2 * distance s x.home) 5 s.cur.sid .relEffect
      (.access { id := s.nextId, sid := s.cur.sid, addr := x.base + off, len := n, key := x.key, part := (mine s).task.part, gen := s.gen (mine s).task.part, issue := s.now })] }
    (∀ e, engineChecked s x off 16 = some e → exec (.rel h c) s = .next (faulted (occupied s 1) e)) ∧
    (engineChecked s x off 16 = none → exec (.rel h c) s = .next (sentWith 0) ∧
      exec (.relQueues h c m) s = .next (markFallback (sentWith m.toNat) (m == 0)))

/-- R195, R253: a release takes effect once what it waits for is there: SEQ advances, a holder releases its hold, and the grants of
the cycle follow; until then it is tried again in the next cycle; where the object's domain is out of service it waits in that domain's
replay buffer (R276, R431). Said of an object that its engine holds, one with bound pages. -/
def Sys2Proof.Claims.ReleaseTakesEffect : Prop :=
  ∀ (s : State) (a : Access) (o : SyncObj), s.arg = .access a → Present s a.part a.gen → s.syncAt a.addr a.key = o → o.pages ≠ [] →
    let ready := (Fm.get {} s.seqs a.sid).releasable s.now a.id a.len o.pages
    let next : SyncObj := { o with
      seq := (o.seq + 1) % 2 ^ 32,
      hold := if o.holders.contains a.sid = false then o.hold else if o.hold = 0xFFFF then 0 else o.hold - 1,
      holders := if o.holders.contains a.sid = false then o.holders else if o.hold = 0xFFFF then [] else o.holders.erase a.sid }
    (∀ d, s.heldAt a.addr = some d → exec .relEffect s = .next (replayed s d a.addr 5 .relEffect (.access a))) ∧
    (s.heldAt a.addr = none → ready = false → exec .relEffect s = .next (scheduled s (event (s.now + 1) 5 a.sid .relEffect (.access a)))) ∧
    (s.heldAt a.addr = none → ready = true → ∃ t, exec .relEffect s = .next t ∧ t = { s with syncs := Fm.set s.syncs (a.addr / 16) next, agenda := t.agenda } ∧
      event s.now 6 (a.addr / 16) .acqGrant (.access { addr := a.addr, key := a.key }) ∈ t.agenda)

/-- R194, R252: the request that has waited longest at an object is granted where its hold allows, with SEQ as its result; a try that
is not granted gets all ones; and one that only waits goes on waiting. Where the object's domain is out of service the
request waits in that domain's replay buffer (R276, R431). -/
def Sys2Proof.Claims.GrantsAreAnswered : Prop :=
  ∀ (s : State) (b a : Access) (o : SyncObj) (r : List Access) (sh try_ : Bool) (n : Nat), s.arg = .access b → s.syncAt b.addr b.key = o →
    o.waiters = a :: r → a.op = .acq sh try_ → a.dest = .g n →
    let free := if sh then decide (o.hold < 0xFFFE) else o.hold == 0
    (∀ k, s.heldAt b.addr = some k → exec .acqGrant s = .next (replayed s k b.addr 6 .acqGrant (.access b))) ∧
    (s.heldAt b.addr = none →
    (free = true → ∃ t c l, exec .acqGrant s = .next t ∧ s.now < c ∧
      event c 1 (landKey a.issue a.sid a.col) .resultLanding (.land a.sid (.g n (BitVec.ofNat 64 o.seq) :: .retire a.id :: l)) ∈ t.agenda ∧
      (∀ p, a.promise = some p → c = max p (s.now + 1) ∧ l = []) ∧ (a.promise = none → l = [.seamEnd])) ∧
    (free = false → try_ = true → ∀ p, a.promise = some p → ∃ t, exec .acqGrant s = .next t ∧
      event (max p (s.now + 1)) 1 (landKey a.issue a.sid a.col) .resultLanding (.land a.sid [.g n (BitVec.allOnes 64), .retire a.id]) ∈ t.agenda) ∧
    (free = false → try_ = false → r = [] → exec .acqGrant s = .next s))

/-- R196, R255: SFENCE holds the MEM and SYN columns, records a clamped scope, and looks from the next cycle on whether what it fences
has completed; it then releases the columns. -/
def Sys2Proof.Claims.FenceHoldsColumns : Prop :=
  (∀ (s : State) (q : BitVec 1) (sc : BitVec 3), Free s →
    let nothing := sc == 0 && q == 1
    let cl := s.clamped (mine s).task.part s.cur.sid sc.toNat
    ∃ t, exec (.sfence q sc) s = .next t ∧
      t = { markFallback (withMine (occupied s 1) { mine (occupied s 1) with sfence := true }) nothing with nextId := s.nextId + 1, agenda := t.agenda } ∧
      t.agenda = s.agenda ++ (if cl then [clampEvent s] else []) ++ [event (s.now + 1) 8 s.cur.sid .sfenceComplete (.access
        { id := s.nextId, sid := s.cur.sid, cls := sc.toNat, rdc := q == 1 && !nothing, part := (mine s).task.part, gen := s.gen (mine s).task.part })]) ∧
  ∀ (s : State) (a : Access), s.arg = .access a → Present s a.part a.gen →
    let q := Fm.get {} s.seqs a.sid
    q.sfence = true →
    (q.fenced s.now a.id a.cls a.rdc = true → exec .sfenceComplete s = .next (withSeq s a.sid { q with sfence := false })) ∧
    (q.fenced s.now a.id a.cls a.rdc = false → exec .sfenceComplete s = .next (scheduled s (event (s.now + 1) 8 a.sid .sfenceComplete (.access a))))

/-- R201, R394: KMOV copies a capability with its tag; KNARROW moves BASE and sets LEN, and keeps the tag only inside the old range; KPERM
only removes permissions; the other fields stay. KNARROW with C = 63, and class 3 of KLD and KST, are illegal. -/
def Sys2Proof.Claims.CapabilityRegisters : Prop :=
  ∀ (s : State) (a b : BitVec 4) (g : BitVec 6) (i : BitVec 8), Free s →
    let k := Fm.get {} (mine s).k b.toNat
    let base := bits k.bits.toNat 24 40
    let len := bits k.bits.toNat 64 40
    let off := (greg s g).toNat
    let n := (Fm.get 0 (mine s).g (g.toNat + 1)).toNat
    exec (.kmov a b) s = .next (issued s 1 2 [.k a.toNat k]) ∧
    (g = 63 → exec (.knarrow a b g) s = .next (faulted (occupied s 1) 1)) ∧
    (g ≠ 63 → ∃ x : Cap, exec (.knarrow a b g) s = .next (issued s 1 2 [.k a.toNat x]) ∧ x.tag = (k.tag && decide (off + n ≤ len)) ∧
      FieldsSet k.bits.toNat x.bits.toNat [(24, 40, base + off), (64, 40, n)]) ∧
    (∃ x : Cap, exec (.kperm a b i) s = .next (issued s 1 2 [.k a.toNat x]) ∧ x.tag = k.tag ∧
      FieldsSet k.bits.toNat x.bits.toNat [(4, 8, bits k.bits.toNat 4 8 &&& i.toNat)]) ∧
    exec (.kld a b g 3) s = .next (faulted (occupied s 1) 1) ∧ exec (.kst a b g 3) s = .next (faulted (occupied s 1) 1)

/-- R197, R198: GPASS and GSTAT reach the gate table at +24 + d; GTAKE in untimed mode holds its sequencer, and its request reaches the
table in a later cycle; in timed mode it is a mode fault. -/
def Sys2Proof.Claims.GateWords : Prop :=
  ∀ (s : State) (p : BitVec 4) (v g : BitVec 6), Free s →
    let d := distance s 8
    let k := (mine s).task.part * 8192 + s.cur.sid
    exec (.gpass p g) s = .next { occupied s 1 with nextId := s.nextId + 1, agenda := s.agenda ++ [event (s.now + (24 + d)) 7 (3 * 2 ^ 80 + k) .gatePassAdmit
      (.greq (gateRequest s g p.toNat 0 s.nextId))] } ∧
    exec (.gstat v g) s = .next (scheduled (occupied s 1) (event (s.now + (24 + d)) 7 (5 * 2 ^ 80 + k) .gateStatusSample
      (.greq (gateRequest s g v.toNat 0 0)))) ∧
    ((mine s).ut = false → exec (.gtake v g) s = .next (faulted (occupied s 1) 4)) ∧
    ((mine s).ut = true → ∃ t c, exec (.gtake v g) s = .next t ∧ s.now < c ∧ t.agenda = s.agenda ++ [event c 7 (5 * 2 ^ 80 + k) .gateTakeArrival
      (.greq (gateRequest s g v.toNat (greg s v).toNat s.nextId))] ∧
      mine t = { mine (occupied s 1) with seam := true, pc := s.cur.pc, outst := (mine t).outst } ∧ t.gates = s.gates ∧ t.mem = s.mem)

/-- R199, R200, R202, R262, R301, R388: a remote word whose egress check passes sends its packet in the first lane slot that no grant
holds, a store or a flag with the next sequence number
of its path (R262), and waits for the answer, a seam instruction with its sequencer held; a failed check is a capability fault, and a seam instruction
in timed mode a mode fault. RCAS2 past g63 and RCHASE with A = 63 are illegal. -/
def Sys2Proof.Claims.RemoteWordsSendPackets : Prop :=
  (∀ (s : State) (i : Instr) (w : RemoteWord), Free s → remoteWord s i = some w → (∀ n, w.tile = some n → ¬ OnHub s ∧ Nameable s [n]) →
    (w.seam = true → (mine s).ut = false → exec i s = .next (faulted (occupied s w.occ) 4)) ∧
    ((w.seam = true → (mine s).ut = true) → w.ok = false → exec i s = .next (faulted (occupied s w.occ) 6)) ∧
    ((w.seam = true → (mine s).ut = true) → w.ok = true →
      let k := numbered s w
      let a : Access := { sent s w.acc with off := w.pkt.off, hnd := 0, seam := w.seam, col := 6
                                            task := ((mine s).task.launch, (mine s).task.index) }
      ∃ t, exec i s = .next t ∧ t.outbox = s.outbox ++ [{ k with dep := leaves s k.dst }] ∧ t.awaiting = s.awaiting ++ [{ pkt := k, acc := a }] ∧
        t.agenda = s.agenda ++ [event (s.now + Config.timeout) 1 s.cur.sid .requestTimeout (.access a)] ∧
        mine t = { mine (occupied s w.occ) with
          paths := Fm.set (mine s).paths w.pkt.dst (pathAfter s w), seam := (mine s).seam || w.seam, outst := (mine t).outst } ∧
        t = { occupied s w.occ with seqs := t.seqs, outbox := t.outbox, awaiting := t.awaiting, agenda := t.agenda, nextId := s.nextId + 1 })) ∧
  ∀ (s : State) (g c : BitVec 6) (k : BitVec 4) (n : BitVec 2), Free s →
    (63 < g.toNat + 2 * (n.toNat + 1) → exec (.rcas2 g k c n) s = .next (faulted (occupied s 1) 1)) ∧
    exec (.rchase 63 k c) s = .next (faulted (occupied s 1) 1)

namespace Sys2Proof.Claims

/-! ## Engine commands -/

/-- A word that puts an entry into a command queue (R232): the queue, the operands read at issue, whether it is detached, the tile
that goes with it, and the fault its checks find. -/
structure AsyWord where
  q : Nat
  gs : List Nat
  hs : List Handle
  det : Bool
  tile : TileBits
  err : Option Nat

/-- What the checks of one side of a copy find (R175, R233, R234): 2 its handle, 3 its extent. -/
def sideHandle (s : State) (spad : Bool) (h : Handle) (perm : Nat) (here : Bool) : Bool :=
  spad || (current s h && (h.perm &&& perm) == perm && (!here || h.tier == 0))
def sideExtent (s : State) (spad : Bool) (h : Handle) (off len : Nat) : Bool :=
  if spad then (spadChecked s off len 64).isNone else off % 64 == 0 && decide (off + len ≤ pageSize h.sz)

/-- The checks of a copy; `here` keeps it within the module's HBM4E. -/
def copyErr (s : State) (m : BitVec 2) (gs : List Nat) (hsrc hdst : Handle) (here : Bool) : Option Nat :=
  if !sideHandle s (m.getLsbD 0) hsrc 1 here || !sideHandle s (m.getLsbD 1) hdst 2 here then some 2
  else if gs.getD 2 0 % 64 ≠ 0 ∨ sideExtent s (m.getLsbD 0) hsrc (gs.getD 1 0) (gs.getD 2 0) = false ∨
      sideExtent s (m.getLsbD 1) hdst (gs.getD 0 0) (gs.getD 2 0) = false then some 3
  else none

/-- Handle numbered by a g register of a group. -/
def named (s : State) (x : Nat) : Handle := Fm.get {} (mine s).h (x % 16)

/-- The operand checks of MERGE (R238): stride a multiple of 64, every record block and the output inside the scratchpad, and no
record block over the output. -/
def mergeErr (s : State) (gs : List Nat) : Option Nat :=
  let n := bits (gs.getD 3 0) 0 2 + 1
  let ext := (bits (gs.getD 3 0) 2 6 + 1) * (64 * cdiv (4 * (8 * (bits (gs.getD 3 0) 8 5 + 1)) + 16) 64)
  let at_ (i : Nat) : Nat := gs.getD 0 0 + i * gs.getD 1 0
  let out := gs.getD 2 0
  if gs.getD 1 0 % 64 == 0 && (spadChecked s out ext 64).isNone &&
      (List.range n).all (fun i => (spadChecked s (at_ i) ext 64).isNone && (decide (at_ i + ext ≤ out) || decide (out + ext ≤ at_ i)))
  then none else some 3

/-- The words of the ASY column but for QFENCE (R234 to R241); a group of g registers past g63 is illegal (R90). -/
def asyWord (s : State) : Instr → Option AsyWord
  | .cpy q h g m =>
    let gs := gregs s g 4
    some ⟨q.toNat, gs, [named s (gs.getD 3 0), handle s h], false, 0,
      if 64 < g.toNat + 4 then some 1 else copyErr s m gs (named s (gs.getD 3 0)) (handle s h) true⟩
  | .cpyd q h g m =>
    let gs := gregs s g 6
    let ho := named s (gs.getD 4 0)
    let e := copyErr s m gs (named s (gs.getD 3 0)) (handle s h) false
    some ⟨q.toNat, gs, [named s (gs.getD 3 0), handle s h, ho], true, 0,
      if 64 < g.toNat + 6 then some 1 else if e = some 2 ∨ engineChecked s ho (gs.getD 5 0) 16 = some 2 then some 2
      else if e ≠ none ∨ engineChecked s ho (gs.getD 5 0) 16 ≠ none then some 3 else none⟩
  | .ratt q g _ => some ⟨q.toNat, [(greg s g).toNat], [], false, 0, spadChecked s (greg s g).toNat 64 64⟩
  | .kapp q g => some ⟨q.toNat, [(greg s g).toNat], [], false, 0, spadChecked s (greg s g).toNat 64 64⟩
  | .krel q g => some ⟨q.toNat, [(greg s g).toNat], [], false, 0, spadChecked s (greg s g).toNat 64 64⟩
  | .merge q g => some ⟨q.toNat, gregs s g 4, [], false, 0, if 64 < g.toNat + 4 then some 1 else mergeErr s (gregs s g 4)⟩
  | .coll q v g =>
    let gs := gregs s g 2
    let tileBad := !(decide (v.toNat < 16) || !s.split s.cur.sid)
    some ⟨q.toNat, gs, [], false, tileOf s s.cur.sid v.toNat,
      if s.cur.sid % 16 = 8 ∨ 64 < g.toNat + 2 ∨ tileBad ∨ bits (gs.getD 0 0) 12 2 = 3 then some 1 else spadChecked s (gs.getD 1 0) 64 64⟩
  | .tier q h g => some ⟨q.toNat, gregs s g 2, [handle s h], true, 0,
      if 64 < g.toNat + 2 then some 1 else if current s (handle s h) && ((handle s h).perm &&& 2) == 2 then none else some 2⟩
  | .pfs q h g =>
    let gs := gregs s g 4
    let x := handle s h
    some ⟨q.toNat, gs, [x], true, 0,
      if 64 < g.toNat + 4 then some 1 else if current s x = false then some 2 else if pageSize x.sz < gs.getD 0 0 + gs.getD 1 0 then some 3 else none⟩
  | _ => none

/-- `t` is `s` after the present word put entries into its command queues: of its sequencer nothing but the entries and their count
changes, and of the rest of the state only the agenda. -/
def Queued (s t : State) : Prop :=
  t = { occupied s 1 with seqs := t.seqs, agenda := t.agenda, nextId := s.nextId + 1 } ∧
    mine t = { mine (occupied s 1) with cmds := (mine t).cmds, cmdOrd := (mine s).cmdOrd + 1 } ∧
    ∀ j, j ≠ s.cur.sid → Fm.get {} t.seqs j = Fm.get {} s.seqs j

/-- The events by which an entry is done: it leaves its queue. -/
def doneRow : Instr → Bool
  | .cpydDone | .qfenceDone | .mergeDone | .rattRecordWrite | .attentionAccept | .collResultWrite => true
  | _ => false

/-- Entry `id` of sequencer `sid`. -/
def entryNo (s : State) (sid id : Nat) : Option Cmd := (Fm.get {} s.seqs sid).cmds.find? (fun c => c.id == id)

/-- An entry may start now: it is due in this cycle, of its partition's generation, and neither its task nor its partition holds it. -/
abbrev Starts (s : State) (c : Cmd) : Prop :=
  entryNo s c.sid c.id = some c ∧ c.start = some s.now ∧ s.stale c = false ∧ s.entryHeld c = false

/-- Bytes of a copy, and of its chunk `n`; where the chunk begins at its source and at its destination. -/
def copyBytes (c : Cmd) : Nat := c.gs.getD 2 0
def chunkBytes (c : Cmd) (n : Nat) : Nat := min 65536 (copyBytes c - 65536 * n)
def fromOff (c : Cmd) (n : Nat) : Nat := c.gs.getD 1 0 + 65536 * n
def toOff (c : Cmd) (n : Nat) : Nat := c.gs.getD 0 0 + 65536 * n
/-- A page of HBM4E that an engine reaches for a lane copy: not cut off by a fence (R398), in service (R276), with a key, no sync object
bound in the block, and not host memory. -/
abbrev Reachable (s : State) (c : Cmd) (h : Handle) (off : Nat) : Prop :=
  (h.base + off) % 64 = 0 ∧ regionOf (h.base + off) ≠ .nothing ∧ hostPage h = false ∧ s.heldAt (h.base + off) = none ∧
    s.cutOff { c.access h off 64 0 with issue := s.now } = false ∧ s.keyNum h.key ≠ 0 ∧ ∀ e ∈ s.syncs, e.1 / 4 ≠ (h.base + off) / 64

/-- Cycles of R234 for a copy of a lane: until its first bytes come, and until its last are written. -/
def firstBytes (c : Cmd) : Nat := if c.copyM % 2 = 1 then 12 else if (c.hs.getD 0 {}).home = dieOf c.sid then 150 else 190
def lastBytes (c : Cmd) : Nat := if c.copyM / 2 % 2 = 1 then 2 else if (c.hs.getD 1 {}).home = dieOf c.sid then 140 else 180

end Sys2Proof.Claims

/-! ## The asynchronous column -/

/-- R232 to R241: a word whose checks pass puts its entry, with the operands read at issue, into its command queue; first in its queue,
with nothing that holds it, the entry starts in the next cycle. A failed check faults; in STALL mode a full queue holds the word. -/
def Sys2Proof.Claims.EntriesAreQueued : Prop :=
  ∀ (s : State) (i : Instr) (w : AsyWord), Free s → asyWord s i = some w →
    ((mine s).queueShut w.q = true → (mine s).ut = false → (mine s).trapMode = false → (mine s).heldAt ≠ some s.now →
      exec i s = .next { withMine s (heldOnce s (mine s)) with cur := { s.cur with held := true } }) ∧
    ((mine s).queueShut w.q = false →
      (∀ e, w.err = some e → exec i s = .next (faulted (occupied s 1) e)) ∧
      (w.err = none → ∃ t c, exec i s = .next t ∧ Queued s t ∧ c ∈ (mine t).cmds ∧
        c = { c with w := s.cur.w, ins := i, gs := w.gs, hs := w.hs, tile := w.tile, shape := (mine s).shape.toNat, id := s.nextId, sid := s.cur.sid,
                     q := w.q, issue := s.now, ord := (mine s).cmdOrd, launch := (mine s).task.launch, part := (mine s).task.part,
                     gen := s.gen (mine s).task.part, room := true, det := w.det, fence := none } ∧
        ((∀ x ∈ (mine s).cmds, x.q ≠ w.q) → s.entryHeld c = false → c.start = some (s.now + 1) ∧
          ∃ e ∈ t.agenda, e.cyc = s.now + 1 ∧ e.arg = .cmd s.cur.sid s.nextId ∧ (e.ins = .asyEntryStart ∨ e.ins = .cpyDone))))

/-- R242: QFENCE puts a fence entry into every queue of its mask, done at once where those queues are empty; an empty mask does
nothing. -/
def Sys2Proof.Claims.FencesOfQueues : Prop :=
  ∀ (s : State) (m : BitVec 16), Free s → (∀ n, n < 16 → m.getLsbD n = true → (mine s).queueShut n = false) →
    (m = 0 → exec (.qfence m) s = .next (occupied s 1)) ∧
    (m ≠ 0 → ∃ t, exec (.qfence m) s = .next t ∧ Queued s t ∧
      (∀ n, n < 16 → m.getLsbD n = true → ∃ c ∈ (mine t).cmds, c.id = s.nextId ∧ c.q = n ∧ c.fence = some m.toNat ∧ c.room = true) ∧
      ((∀ x ∈ (mine s).cmds, m.getLsbD x.q = false) → ∃ e ∈ t.agenda, e.cyc = s.now ∧ e.ins = .qfenceDone ∧ e.arg = .cmd s.cur.sid s.nextId))

/-- R232, R238, R239, R242: an entry that is done leaves its queue; nothing changes but the entries and what they set going. -/
def Sys2Proof.Claims.EntriesLeaveTheirQueues : Prop :=
  ∀ (s : State) (i : Instr) (sid id : Nat), doneRow i = true → s.arg = .cmd sid id →
    ∃ t, exec i s = .next t ∧ (∀ c ∈ (Fm.get {} t.seqs sid).cmds, c.id ≠ id) ∧
      t = { s with seqs := t.seqs, saved := t.saved, agenda := t.agenda } ∧
      Fm.get {} t.seqs sid = { Fm.get {} s.seqs sid with cmds := (Fm.get {} t.seqs sid).cmds } ∧
      ∀ j, j ≠ sid → Fm.get {} t.seqs j = Fm.get {} s.seqs j

/-- R234, R238, R239, R369, R371: entries start. A copy and a merge take their lane, where it is free, for the time that R234 and R238
give; a COLL sends its contribution; a PFS goes to its tier sequencer. -/
def Sys2Proof.Claims.EntriesStart : Prop :=
  ∀ (s : State) (c : Cmd), s.arg = .cmd c.sid c.id → Starts s c →
    (∀ q h g m, c.ins = .cpy q h g m → c.det = false → (Fm.get {} s.seqs c.sid).laneFree < s.now → s.chunkWaits (fun x => x.sid == c.sid && !x.det) = false →
      let done := s.now + firstBytes c + cdiv (c.gs.getD 2 0) 256 + lastBytes c
      ∃ t, exec .asyEntryStart s = .next t ∧ (Fm.get {} t.seqs c.sid).laneFree = done ∧
        event (s.now + (firstBytes c - 10)) 4 (engineKey c.sid c.issue) .cpyDone (.chunk { c with paused := false } 0) ∈ t.agenda ∧
        event done 1 c.sid .cpyDone (.cmd c.sid c.id) ∈ t.agenda ∧ t = { s with seqs := t.seqs, agenda := t.agenda }) ∧
    (∀ q g, c.ins = .merge q g → (Fm.get {} s.seqs c.sid).mergeFree < s.now →
      let x := c.gs.getD 3 0
      let done := s.now + 14 + (bits x 2 6 + 1) * (2 * (bits x 0 2 + 1) + cdiv (8 * (bits x 8 5 + 1)) 8)
      ∃ t, exec .asyEntryStart s = .next t ∧ (Fm.get {} t.seqs c.sid).mergeFree = done ∧
        event (s.now + 2) 4 (engineKey c.sid c.issue) .mergeDone (.merge c.sid c.id done) ∈ t.agenda ∧ t = { s with seqs := t.seqs, agenda := t.agenda }) ∧
    (∀ q v g, c.ins = .coll q v g → ∃ t, exec .asyEntryStart s = .next t ∧
      event (s.now + cdiv c.bytes 2048 + 20) 4 (engineKey c.sid c.issue) .collArrival (.coll (bits (c.gs.getD 0 0) 0 12) c) ∈ t.agenda ∧
      t = { s with seqs := t.seqs, agenda := t.agenda }) ∧
    (∀ q h g, c.ins = .pfs q h g → ∃ t, exec .asyEntryStart s = .next t ∧ event s.now 8 c.sid .pfsAccept (.cmd c.sid c.id) ∈ t.agenda ∧
      t = { s with seqs := t.seqs, agenda := t.agenda })

/-- R178, R234, R244, R371: the steps of a copy of a lane, whose chunks are read whole and written whole (log entry 84). A chunk read in
its cycle from the scratchpad gives the bytes and tags that lie there; it is in the buffer when its last bytes have come, and the next
chunk is read 256 cycles later. A chunk that leaves the buffer is written Lw later: in the scratchpad its bytes and tags replace those of
its place and no others; in HBM4E its blocks read as its bytes. The copy leaves its queue in its done cycle, or later where a chunk of it
is held (R260, R276). -/
def Sys2Proof.Claims.CopiesProceed : Prop :=
  (∀ (s : State) (c x : Cmd) (n st : Nat), s.arg = .chunk c n → c.det = false → entryNo s c.sid c.id = some x → x.start = some st →
    s.entryHeld c = false → s.pageHeld c = false → s.now = st + (firstBytes c - 10) + 256 * n →
    let full := max (s.now + 1) (st + firstBytes c + cdiv (min (copyBytes c) (65536 * (n + 1))) 256)
    (c.copyM % 2 = 1 → s.spadBad (spadOf c.sid) (fromOff c n) (chunkBytes c n) = [] →
      ∃ t, exec .cpyDone s = .next t ∧ t = { s with seqs := t.seqs, agenda := t.agenda } ∧ (∀ j, Fm.get {} t.seqs j = Fm.get {} s.seqs j) ∧
        t.agenda = s.agenda ++ (if 65536 * (n + 1) < copyBytes c then [event (s.now + 256) 4 (engineKey c.sid c.issue) .cpyDone (.chunk c (n + 1))] else []) ++
          [event full 4 (engineKey c.sid c.issue) .cpyDone (.chunkData c n
            (Memory.read s.spad (spadOf c.sid * 4194304 + fromOff c n % 4194304) (chunkBytes c n))
            ((List.range (chunkBytes c n / 64)).map fun i => s.spadTag (spadOf c.sid) (fromOff c n + 64 * i)) none false)]) ∧
    (let h := s.nowAt c.part (c.hs.getD 0 {})
     let b := s.peekBlock (h.base + fromOff c 0) h.key
     c.copyM % 2 = 0 → n = 0 → copyBytes c = 64 → Reachable s c h (fromOff c 0) → b.bad = false →
      ∃ t, exec .cpyDone s = .next t ∧ t.spad = s.spad ∧ (∀ j, Fm.get {} t.seqs j = Fm.get {} s.seqs j) ∧
        event full 4 (engineKey c.sid c.issue) .cpyDone (.chunkData c 0 b.data.toNat [b.tag] none false) ∈ t.agenda)) ∧
  (∀ (s : State) (c : Cmd) (n data : Nat) (tags : List Nat) (bad : Option Nat), s.arg = .chunkData c n data tags bad false → c.det = false →
    s.stale c = false → (entryNo s c.sid c.id).isSome = true → s.entryHeld c = false →
    exec .cpyDone s = .next (scheduled s (event (s.now + lastBytes c) 4 (engineKey c.sid c.issue) .cpyDone (.chunkData c n data tags bad true)))) ∧
  (∀ (s : State) (c : Cmd) (n data : Nat) (tags : List Nat), s.arg = .chunkData c n data tags none true → c.det = false → s.stale c = false →
    (c.copyM / 2 % 2 = 1 → toOff c n % 64 = 0 → copyBytes c % 64 = 0 → toOff c n + chunkBytes c n ≤ 4194304 →
      let a := spadOf c.sid * 4194304 + toOff c n
      ∃ t, exec .cpyDone s = .next t ∧ t = { s with spad := t.spad, stag := t.stag, sbad := t.sbad, seqs := t.seqs } ∧
        (∀ i, i < chunkBytes c n → (Memory.byte t.spad (a + i)).toNat = data / 2 ^ (8 * i) % 256) ∧
        (∀ b, b < a ∨ a + chunkBytes c n ≤ b → Memory.byte t.spad b = Memory.byte s.spad b) ∧
        (∀ k, 64 * k < chunkBytes c n → t.spadTag (spadOf c.sid) (toOff c n + 64 * k) = tags.getD k 0x7F00) ∧
        (∀ y ∈ (Fm.get {} t.seqs c.sid).cmds, y.id = c.id → n < y.chunk) ∧ ∀ j, j ≠ c.sid → Fm.get {} t.seqs j = Fm.get {} s.seqs j) ∧
    (let h := s.nowAt c.part (c.hs.getD 1 {})
     c.copyM / 2 % 2 = 0 → n = 0 → copyBytes c = 64 → data < 2 ^ 512 → Reachable s c h (toOff c 0) →
      ∃ t, exec .cpyDone s = .next t ∧ (t.peekBlock (h.base + toOff c 0) h.key).data = BitVec.ofNat 512 data ∧ t.spad = s.spad ∧
        (∀ y ∈ (Fm.get {} t.seqs c.sid).cmds, y.id = c.id → 0 < y.chunk) ∧ ∀ j, j ≠ c.sid → Fm.get {} t.seqs j = Fm.get {} s.seqs j)) ∧
  ∀ (s : State) (c : Cmd), s.arg = .cmd c.sid c.id → entryNo s c.sid c.id = some c → c.paused = false →
    let done := c.start.getD 0 + firstBytes c + cdiv (copyBytes c) 256 + lastBytes c
    (copyBytes c ≠ 0 → s.now < done → exec .cpyDone s = .next (scheduled s (event done 1 c.sid .cpyDone (.cmd c.sid c.id)))) ∧
    (copyBytes c = 0 ∨ done ≤ s.now → cdiv (copyBytes c) 65536 ≤ c.chunk ∨ (s.chunkWaits (fun x => x.id == c.id) = false ∧
        s.chunkHeld (c.copyM / 2 % 2 == 1) (s.nowAt c.part (c.hs.getD 1 {})) (toOff c (cdiv (copyBytes c) 65536 - 1)) = none) →
      ∃ t, exec .cpyDone s = .next t ∧ (∀ x ∈ (Fm.get {} t.seqs c.sid).cmds, x.id ≠ c.id) ∧
        t = { s with seqs := t.seqs, saved := t.saved, agenda := t.agenda })

/-- R239, R375, R376: the result and status block of a COLL replace their bytes of the scratchpad, and nothing else; the flags of
the final rounding (R86) are recorded for the contributor while its task is there (the model's choice, log entry 93). -/
def Sys2Proof.Claims.ResultsAreWritten : Prop :=
  ∀ (s : State) (c : Cmd) (l : List Nat) (round status flags : Nat), s.arg = .collResult c l round status flags → s.stale c = false →
    let a := spadOf c.sid * 4194304 + c.gs.getD 1 0
    let block := l ++ toBytes round 8 ++ [status] ++ List.replicate 55 0
    c.gs.getD 1 0 + block.length ≤ 4194304 →
    ∃ t, exec .collResultWrite s = .next t ∧ t = { s with spad := t.spad, stag := t.stag, sbad := t.sbad, agenda := t.agenda } ∧
      t.agenda = s.agenda ++ (if flags ≠ 0 ∧ (Fm.get {} s.seqs c.sid).task.launch = c.launch then
        [event s.now 4 c.sid .resultLanding (.land c.sid [.fstat (BitVec.ofNat 5 flags)])] else []) ∧
      (∀ i, i < block.length → (Memory.byte t.spad (a + i)).toNat = block.getD i 0 % 256) ∧
      ∀ b, b < a ∨ a + block.length ≤ b → Memory.byte t.spad b = Memory.byte s.spad b

namespace Sys2Proof.Claims

/-- Number of an attention context among all (R361). -/
def context (s : State) (die n : Nat) : Ctx := Fm.get {} s.ctxs (4096 * die + n)
/-- δ of R362: how far a SEQ lies ahead of NEXT. -/
def ahead (c : Ctx) (n : Nat) : Nat := (n + 2 ^ 32 - c.next % 2 ^ 32) % 2 ^ 32
/-- A reduction group (R374). -/
def group (s : State) (n : Nat) : Coll := Fm.get {} s.colls n
/-- The tier sequencer of a die (R377). -/
def tierOf (s : State) (die : Nat) : TierSeq := Fm.get {} s.tiers die

/-- A page list of an attention die (R363). -/
def pageList (s : State) (die n : Nat) : PList := Fm.get {} s.plists (65536 * die + n)
/-- FP32 value of 32 bits. -/
def f32 (x : Nat) : Val := decodeVal 1 x
/-- s of R366 for key `j` and query row `r`: the sum of the products, each rounded, by the tree of R77, times SCALE. -/
def score (a : AttCmd) (l : PList) (r j : Nat) : Nat :=
  let q := (List.range a.hw).map fun d => decodeVal 2 (rowElem (a.q.drop (2 * a.hw * r)) 2 d)
  let x := (q.zip (l.keyVec j)).map fun e => bits32 (mulVal e.1 e.2).1
  bits32 (mul32 (f32 (tree (sumStep 1 0 false) 0 x).1) (f32 (descFld a.desc 16 4)))
/-- The record of query row `r` (R237, R366): o, m, l, STAT and 0. Over the valid keys in ascending order, m is the maximum of the
scores, p = 2^(s − m), l the sum of p, and o the sum of p times the value rows; without a valid key it is empty. -/
def attention (a : AttCmd) (l : PList) (r : Nat) : List Nat :=
  let js := (List.range a.keys).filter (a.validKey r)
  let m := max32 (js.map (score a l r))
  let p (j : Nat) : Val := (exp2A (sub32 (f32 (score a l r j)) (f32 m))).1
  if js = [] then List.replicate a.hw 0 ++ [0xFF800000, 0, 1, 0]
  else (List.range a.hw).map (fun d => bits32 (js.foldl (fun z j => fma32 (p j) (decodeVal 2 (rowElem (Fm.get [] l.vrow j) 2 d)) z) (f32 0))) ++
    [m, bits32 (js.foldl (fun z j => add32 z (p j)) (f32 0)), 0, 0]
/-- The bytes of 32-bit words. -/
def le32 (l : List Nat) : List Nat := l.flatMap fun x => toBytes x 4
/-- The records of a RATT that ends with a status: 2 refused, 3 failed (R237). -/
def noRecords (a : AttCmd) (stat : Nat) : List Nat :=
  (List.range a.rows).flatMap fun _ => le32 (List.replicate a.hw 0 ++ [0xFF800000, 0, stat, 0])

/-- One output row of MERGE (R238): over the records with l not zero and STAT 0 or 1, weighted by 2^(mᵢ − m), the sum of o divided by that of
l, and STAT: 1 where there is none, plus 4 where a record has STAT 2 or more. -/
def merged (hw : Nat) (rs : List Partial) : List Nat :=
  let v := rs.filter fun x => x.l % 2 ^ 31 != 0 && decide (x.stat ≤ 1)
  let m := max32 (v.map (·.m))
  let w (x : Partial) : Val := (exp2A (sub32 (f32 x.m) (f32 m))).1
  let l := v.foldl (fun z x => fma32 (w x) (f32 x.l) z) (f32 0)
  (if v = [] then List.replicate hw 0
    else (List.range hw).map fun d => bits32 (divVal (v.foldl (fun z x => fma32 (w x) (f32 (x.o.getD d 0)) z) (f32 0)) l).1) ++
  [(if v = [] then 1 else 0) + if ∃ x ∈ rs, 2 ≤ x.stat then 4 else 0]

/-- Rows of `len` bytes of `l` were written to a scratchpad at a stride, modulo 4 MiB, and every other byte of it is as before. -/
def RowsWritten (s t : State) (cl addr rs len : Nat) (l : List Nat) : Prop :=
  let at_ (r i : Nat) : Nat := cl * 4194304 + (addr + r * rs + i) % 4194304
  (∀ r i, r < l.length / len → i < len → (Memory.byte t.spad (at_ r i)).toNat = l.getD (len * r + i) 0 % 256) ∧
    ∀ b, (∀ r i, r < l.length / len → i < len → b ≠ at_ r i) → Memory.byte t.spad b = Memory.byte s.spad b

/-- A RATT's records are on their way: they are written in cycle `c` with the warnings `w`, and its entry is done then. -/
def RecordsDue (t : State) (a : AttCmd) (c w : Nat) (l : List Nat) : Prop :=
  event c 4 (engineKey a.cmd.sid a.cmd.issue) .rattRecordWrite (.records a w l) ∈ t.agenda ∧
    event c 1 a.cmd.sid .rattRecordWrite (.cmd a.cmd.sid a.cmd.id) ∈ t.agenda

/-- The rows in which a command executes in its turn. -/
def turnRow (a : AttCmd) : Instr → Prop
  | .rattAdmission => a.untimed = false
  | .kappExecute => True
  | .krelExecute => True
  | _ => False

end Sys2Proof.Claims

/-! ## Attention, reductions and page moves -/

/-- R238: MERGE reads its records two cycles after its start, combines them row by row, writes its rows at their stride, and is done, in
its done cycle. An uncorrectable block among its records is recorded (R334); where the scratchpads hold none, nothing else happens. -/
def Sys2Proof.Claims.MergesReadAndWrite : Prop :=
  (∀ (s : State) (sid id done : Nat) (c : Cmd), s.arg = .merge sid id done → entryNo s sid id = some c →
    let x := c.gs.getD 3 0
    let n := bits x 0 2 + 1
    let rows := bits x 2 6 + 1
    let hw := 8 * (bits x 8 5 + 1)
    let rs := 64 * cdiv (4 * hw + 16) 64
    let rec_ (r i : Nat) : Partial := partialOf hw (s.spadRow (spadOf c.sid) (c.gs.getD 0 0 + i * c.gs.getD 1 0 + r * rs) (4 * hw + 16))
    let out := (List.range rows).flatMap fun r => le32 (merged hw ((List.range n).map (rec_ r)) ++ [0, 0, 0])
    let evs := [event done 4 (engineKey sid c.issue) .mergeDone (.mergeRows c out), event done 1 sid .mergeDone (.cmd sid id)]
    ∃ t, exec .mergeDone s = .next t ∧ (s.sbad = [] → t = { s with agenda := s.agenda ++ evs }) ∧
      t = { s with agenda := t.agenda, seqs := t.seqs } ∧ ∀ e ∈ evs, e ∈ t.agenda) ∧
  ∀ (s : State) (c : Cmd) (l : List Nat), s.arg = .mergeRows c l → s.stale c = false →
    let hw := 8 * (bits (c.gs.getD 3 0) 8 5 + 1)
    l.length / (4 * hw + 16) ≤ 64 →
    ∃ t, exec .mergeDone s = .next t ∧ t = { s with spad := t.spad, stag := t.stag, sbad := t.sbad } ∧
      RowsWritten s t (spadOf c.sid) (c.gs.getD 2 0) (64 * cdiv (4 * hw + 16) 64) (4 * hw + 16) l

/-- R362: a command that comes to its die joins the window of its context where its SEQ is ahead of NEXT by less than 32 and is not there
already; where it is the next one, its turn comes in this cycle. One of an older generation is discarded. -/
def Sys2Proof.Claims.CommandsJoinTheirWindow : Prop :=
  ∀ (s : State) (a : AttCmd), s.arg = .att a →
    let c := context s a.die a.ctx
    (s.stale a.cmd = true → exec .attentionCommandArrival s = .next s) ∧
    (s.stale a.cmd = false → (∀ q g, a.cmd.ins = .krel q g → a.plist ≠ 0xFFFF) → ahead c a.seq < 32 →
      (∀ x ∈ c.window, ahead c x.seq < 32 ∧ x.seq ≠ a.seq ∧ x.seq ≠ c.next % 2 ^ 32) →
      ∃ t, exec .attentionCommandArrival s = .next t ∧ context t a.die a.ctx = { c with window := c.window ++ [a] } ∧
        t = { s with ctxs := t.ctxs, agenda := t.agenda } ∧ (a.seq ≠ c.next % 2 ^ 32 → t.agenda = s.agenda) ∧
        (a.seq = c.next % 2 ^ 32 → ∃ e, t.agenda = s.agenda ++ [e] ∧ e.cyc = s.now ∧ e.ins = a.row ∧ e.arg = .att a))

/-- R362: a timed RATT, a KAPP and a KREL that execute in their turn advance NEXT of their context by one; a KREL waits for the RATTs
that still read; a command whose turn it is not does nothing. -/
def Sys2Proof.Claims.CommandsTakeTheirTurn : Prop :=
  ∀ (s : State) (i : Instr) (a : AttCmd), s.arg = .att a → turnRow a i →
    (s.onTurn a = false → exec i s = .next s) ∧
    (s.onTurn a = true → (i = .krelExecute → ∀ r ∈ (context s a.die a.ctx).reading, r.2 ≤ s.now) →
      ∃ t, exec i s = .next t ∧ (context t a.die a.ctx).next = ((context s a.die a.ctx).next + 1) % 2 ^ 32 ∧
        t.seqs = s.seqs ∧ t.mem = s.mem ∧ t.spad = s.spad)

/-- R363, R364: a KAPP in its turn, whose list is free or its context's in the same format and width, with room for its keys and with
free HBM4E pages in the partition's pool, appends its rows; a list of another context, format or width, or one that would grow past
65,536 keys, is left as it is and the context is broken. -/
def Sys2Proof.Claims.KeysAreAppended : Prop :=
  ∀ (s : State) (a : AttCmd), s.arg = .att a → s.onTurn a = true →
    let l := pageList s a.die a.plist
    let pool := 64 * a.die + (context s a.die a.ctx).owner
    let need := cdiv (l.len + a.keys) 64 - cdiv l.len 64
    let other := l.fixed = true ∧ (l.owner ≠ a.ctx ∨ l.kfmt ≠ a.kfmt ∨ l.hw ≠ a.hw)
    (¬ other → l.len + a.keys ≤ 65536 → (∃ e ∈ s.kvPool, e.1 = pool) → need ≤ Fm.get 0 s.kvPool pool →
      ∃ t, exec .kappExecute s = .next t ∧
        let x := pageList t a.die a.plist
        x.fixed = true ∧ x.owner = a.ctx ∧ x.kfmt = a.kfmt ∧ x.hw = a.hw ∧ x.len = l.len + a.keys ∧ x.cold = l.cold ∧
        Fm.get 0 t.kvPool pool = Fm.get 0 s.kvPool pool - need ∧
        (∀ j, j < a.keys →
          Fm.get [] x.krow (l.len + j) = (a.k.drop (j * keyStride a.kfmt a.hw)).take (keyStride a.kfmt a.hw) ∧
          Fm.get [] x.ktag (l.len + j) = (a.ktags.drop (j * (keyStride a.kfmt a.hw / 64))).take (keyStride a.kfmt a.hw / 64) ∧
          Fm.get [] x.vrow (l.len + j) = (a.q.drop (j * valStride a.hw)).take (valStride a.hw) ∧
          Fm.get [] x.vtag (l.len + j) = (a.vtags.drop (j * (valStride a.hw / 64))).take (valStride a.hw / 64)) ∧
        ∀ j, j < l.len → Fm.get [] x.krow j = Fm.get [] l.krow j ∧ Fm.get [] x.vrow j = Fm.get [] l.vrow j ∧
          Fm.get [] x.ktag j = Fm.get [] l.ktag j ∧ Fm.get [] x.vtag j = Fm.get [] l.vtag j) ∧
    (other ∨ 65536 < l.len + a.keys → ∃ t, exec .kappExecute s = .next t ∧ (context t a.die a.ctx).broken = true ∧ t.plists = s.plists)

/-- R365: a KREL in its turn, once the RATTs that still read have read, frees its context's list; a list of another context stays and the
context is broken; a list that is free stays so. -/
def Sys2Proof.Claims.ListsAreReleased : Prop :=
  ∀ (s : State) (a : AttCmd), s.arg = .att a → s.onTurn a = true →
    let l := pageList s a.die a.plist
    (∀ x ∈ (context s a.die a.ctx).reading, x.2 ≤ s.now) →
    (l.fixed = true → l.owner = a.ctx → ∃ t, exec .krelExecute s = .next t ∧ pageList t a.die a.plist = {}) ∧
    (l.fixed = true → l.owner ≠ a.ctx → ∃ t, exec .krelExecute s = .next t ∧ (context t a.die a.ctx).broken = true ∧ t.plists = s.plists) ∧
    (l.fixed = false → ∃ t, exec .krelExecute s = .next t ∧ t.plists = s.plists)

/-- R361, R364, R366, R367: a timed RATT in its turn on its context's list, with a free engine, credit for its work, and no cold page
among those it reads, takes an engine for its work, spends the credit, and its records hold the attention of each of its query rows;
without the credit, with a cold page, or where every engine runs a timed RATT, it is refused; on another context's list, or in a broken context, it fails. -/
def Sys2Proof.Claims.AttentionIsComputed : Prop :=
  ∀ (s : State) (a : AttCmd), s.arg = .att a → s.onTurn a = true → a.untimed = false →
    let c := context s a.die a.ctx
    let l := pageList s a.die a.plist
    let engine (s : State) (e : Nat) : AttEngine := Fm.get {} s.engines (16 * a.die + e)
    let work := 64 + 3 * cdiv (a.rows * a.keys) 16
    let last := cdiv (a.rows * recordStride a.hw) 2048
    let failed := (l.fixed = true ∧ (l.owner ≠ a.ctx ∨ l.hw ≠ a.hw)) ∨ c.broken = true
    let free := ∃ e, e < 16 ∧ (engine s e).free ≤ s.now
    let refused := c.credit < work ∨ c.exp = true ∨ ∃ x ∈ l.cold, a.readsPage l x = true
    (failed → ∃ t, exec .rattAdmission s = .next t ∧ RecordsDue t a (max a.promise s.now) 0 (noRecords a 3)) ∧
    (¬ failed → free → refused → ∃ t, exec .rattAdmission s = .next t ∧ RecordsDue t a (max a.promise s.now) 0 (noRecords a 2)) ∧
    (¬ failed → (∀ e, e < 16 → s.now < (engine s e).free ∧ s.now < (engine s e).hold) →
      ∃ t, exec .rattAdmission s = .next t ∧ RecordsDue t a (max a.promise s.now) 0 (noRecords a 2)) ∧
    (¬ failed → free → ¬ refused → ∃ t e, exec .rattAdmission s = .next t ∧ e < 16 ∧ (engine s e).free ≤ s.now ∧
      engine t e = { free := s.now + work, hold := s.now + work } ∧ (context t a.die a.ctx).credit = c.credit - work ∧
      RecordsDue t a (s.now + work + 24 + last) (a.warns l)
        (if l.len < a.keys then noRecords a 3 else (List.range a.rows).flatMap fun r => le32 (attention a l r)))

/-- R236, R237: the state of a command that is not accepted is written to its descriptor and nothing else happens; one of an older
generation is discarded. The records of a RATT are written to the scratchpad, row by row at the stride of R237, and the warnings of its
keys go to the issuing task (the model's choice, log entry 100). -/
def Sys2Proof.Claims.CommandsAreAnswered : Prop :=
  ∀ (s : State) (a : AttCmd) (stat : Nat) (l : List Nat), s.arg = .records a stat l →
    (s.stale a.cmd = true → exec .attentionAccept s = .next s ∧ exec .rattRecordWrite s = .next s) ∧
    (s.stale a.cmd = false → stat ≠ 0 →
      let at_ := spadOf a.cmd.sid * 4194304 + (a.cmd.gs.getD 0 0 + 48) % 4194304
      ∃ t, exec .attentionAccept s = .next t ∧ t = { s with spad := t.spad, stag := t.stag, sbad := t.sbad } ∧
        (∀ i, i < 8 → (Memory.byte t.spad (at_ + i)).toNat = stat / 2 ^ (8 * i) % 256) ∧
        ∀ b, b < at_ ∨ at_ + 8 ≤ b → Memory.byte t.spad b = Memory.byte s.spad b) ∧
    (s.stale a.cmd = false → l.length / (4 * a.hw + 16) ≤ 256 → ∃ t, exec .rattRecordWrite s = .next t ∧
      RowsWritten s t (spadOf a.cmd.sid) (descFld a.desc 32 8) (64 * cdiv (4 * a.hw + 16) 64) (4 * a.hw + 16) l ∧
      t = { s with spad := t.spad, stag := t.stag, sbad := t.sbad, agenda := t.agenda } ∧
      t.agenda = s.agenda ++ if stat ≠ 0 ∧ (Fm.get {} s.seqs a.cmd.sid).task.launch = a.cmd.launch then
        [event s.now 4 a.cmd.sid .resultLanding (.land a.cmd.sid [.wrn (BitVec.ofNat 8 stat)])] else [])

/-- R365, R367: the control form of KREL clears BROKEN, sets NEXT to SEQ + 1, frees the context's lists, and sets RESV to its KEYS, as far as
the partition's share of the die's engine cycles leaves it; the credit is refilled from the next Beacon multiple of 1,024 on. -/
def Sys2Proof.Claims.ContextsAreControlled : Prop :=
  ∀ (s : State) (a : AttCmd), s.arg = .att a → s.stale a.cmd = false →
    let c := context s a.die a.ctx
    let used := ((s.ctxs.filter fun e => e.1 / 4096 == a.die && e.1 % 4096 != a.ctx && e.2.v && e.2.owner == c.owner).map (·.2.resv)).sum
    let k := 4096 * a.die + a.ctx
    ∃ t, exec .contextControl s = .next t ∧ (context t a.die a.ctx).resv = min (a.keys % 65536) (s.attShare c.owner a.die - used) ∧
      event (s.nextMultiple (s.now + 1) 1024) 0 k .attentionCreditRefill (.id k) ∈ t.agenda ∧ (context t a.die a.ctx).broken = false ∧ (context t a.die a.ctx).next = (a.seq + 1) % 2 ^ 32 ∧
      (∀ e ∈ t.plists, ¬ (e.1 / 65536 = a.die ∧ e.2.fixed = true ∧ e.2.owner = a.ctx)) ∧ t.seqs = s.seqs ∧ t.mem = s.mem

/-- R367: at a refill, a context's credit grows by its reservation, up to it; with a reservation the next refill comes at the next Beacon
multiple of 1,024. -/
def Sys2Proof.Claims.CreditsRefill : Prop :=
  ∀ (s : State) (k : Nat), s.arg = .id k → ∃ t, exec .attentionCreditRefill s = .next t ∧
    Fm.get {} t.ctxs k = { (Fm.get {} s.ctxs k : Ctx) with credit := min (Fm.get {} s.ctxs k : Ctx).resv ((Fm.get {} s.ctxs k : Ctx).credit + (Fm.get {} s.ctxs k : Ctx).resv) } ∧
    t.agenda = s.agenda ++ (if (Fm.get {} s.ctxs k : Ctx).resv = 0 then []
      else [event (s.nextMultiple (s.now + 1) 1024) 0 k .attentionCreditRefill (.id k)]) ∧
    t = { s with ctxs := t.ctxs, agenda := t.agenda }

/-- R375, R376: a contribution that its group admits joins the open round, or the next one where the open round is full; one that it does
not admit is answered alone, with status 2 (the model's reading, log entry 40). -/
def Sys2Proof.Claims.ContributionsArrive : Prop :=
  ∀ (s : State) (n : Nat) (c : Cmd), s.arg = .coll n c → s.stale c = false →
    let g := group s n
    (g.v = false ∨ g.owner ≠ c.part → exec .collArrival s = .next (scheduled s (event (s.now + 8 + cdiv c.bytes 256) 4 n .collRoundComplete (.coll n c)))) ∧
    (g.v = true → g.owner = c.part → ∃ t, exec .collArrival s = .next t ∧ t = { s with colls := t.colls, agenda := t.agenda } ∧
      group t n = (if g.open_.length < g.ncont then { g with open_ := g.open_ ++ [(c, s.now)] }
        else if g.next.length < g.ncont then { g with next := g.next ++ [(c, s.now)] } else { g with held := g.held ++ [(c, s.now)] }) ∧
      ∀ m, m ≠ n → group t m = group s m)

/-- R375, R376: a full round of a group of this module completes: every contributor is sent the result, or zeros where shapes or ops
differ, with the round's new number, and is done when it is written; the next round opens, with the contributions that wait for it in
their order, and with those held at the ingress, which enter in this cycle; where they fill it, it completes in its turn. A contribution
that was not admitted completes alone, with status 2 and zeros (the model's reading, log entry 40). -/
def Sys2Proof.Claims.RoundsComplete : Prop :=
  (∀ (s : State) (n : Nat) (c : Cmd), s.arg = .coll n c → s.stale c = false →
    let b := (group s n).rbytes
    let k := s.now + 22 + cdiv b 2048
    exec .collRoundComplete s = .next { s with agenda := s.agenda ++
      [event k 4 (engineKey c.sid c.issue) .collResultWrite (.collResult c (List.replicate b 0) 0 2 0), event k 1 c.sid .collResultWrite (.cmd c.sid c.id)] }) ∧
  ∀ (s : State) (n : Nat), s.arg = .id n →
    let g := group s n
    let l := g.open_.map (·.1)
    g.sys = false → 0 < g.ncont → g.ncont ≤ l.length →
    let st := collStatus g l
    let op := (l.map Cmd.collOp).headD 0
    let out := if st = 0 then collResult g op (collPartial g op (l.map Cmd.elems)) else (List.replicate g.rbytes 0, 0)
    ∃ t, exec .collRoundComplete s = .next t ∧ t = { s with colls := t.colls, agenda := t.agenda } ∧
      (let all := g.next ++ g.held.map (fun e => (e.1, s.now))
       group t n = { g with round := (g.round + 1) % 2 ^ 32, open_ := all.take g.ncont, next := (all.drop g.ncont).take g.ncont
                            held := (all.drop g.ncont).drop g.ncont } ∧
       (g.ncont ≤ all.length → ∃ c, s.now ≤ c ∧ event c 4 n .collRoundComplete (.id n) ∈ t.agenda)) ∧
      (∀ m, m ≠ n → group t m = group s m) ∧
      ∀ c ∈ l, event (s.now + 22 + cdiv out.1.length 2048) 1 c.sid .collResultWrite (.cmd c.sid c.id) ∈ t.agenda ∧
        event (s.now + 22 + cdiv out.1.length 2048) 4 (engineKey c.sid c.issue) .collResultWrite (.collResult c out.1 ((g.round + 1) % 2 ^ 32) st out.2) ∈ t.agenda

/-- R241, R292: a PFS whose deadline lies before its issue plus the yield bound of its task is dropped and counted; any other makes
one move for each page that its range touches. Its entry is done either way. -/
def Sys2Proof.Claims.PrefetchesAreTaken : Prop :=
  ∀ (s : State) (sid id : Nat) (c : Cmd), s.arg = .cmd sid id → entryNo s sid id = some c →
    let die := serveDie (s.nowAt c.part (c.hs.getD 0 {})) sid
    ∃ t, exec .pfsAccept s = .next t ∧ (∀ x ∈ (Fm.get {} t.seqs sid).cmds, x.id ≠ id) ∧ t.mem = s.mem ∧
      (c.gs.getD 3 0 < c.pt + c.yb → tierOf t die = { tierOf s die with drop := (tierOf s die).drop + 1 }) ∧
      (c.pt + c.yb ≤ c.gs.getD 3 0 → ∃ l, tierOf t die = { tierOf s die with pend := (tierOf s die).pend ++ l } ∧
        l.map (fun m => (m.va, m.size)) = s.pagesIn c.part ((c.hs.getD 0 {}).vbase + c.gs.getD 0 0) (c.gs.getD 1 0) 8192 ∧
        ∀ m ∈ l, m.pfs = true ∧ m.part = c.part ∧ m.gen = c.gen ∧ m.tier = bits (c.gs.getD 2 0) 16 2)

/-- R291, R293, R377: the move that a tier sequencer starts, of a page that is mapped and may move, with room at its target, begins the
revocation of its page. Whether there is room is a free value (log entry 42). -/
def Sys2Proof.Claims.MovesBeginWithRevocation : Prop :=
  ∀ (s : State) (die : Nat) (m : Move) (e sz leaf : Nat), s.arg = .die die → (tierOf s die).pick = some m → Present s m.part m.gen →
    s.walk m.part m.va = some (e, sz, leaf) →
    let h := s.handleOf m.part m.va e sz
    serveDie h m.cmd.sid = die → (m.pfs = true → h.tier ≠ m.tier) → s.targetOk m.tier m.home = true → s.drawVal % 2 = 1 →
    s.freePlace m.part m.tier m.home (targetBase m.tier m.home + s.drawVal / 2 * pageSize sz) (pageSize sz) = true → s.pageBound h.base (pageSize sz) = false →
    ∃ t r, exec .tierMoveStart s = .next t ∧ r ∈ t.revokes ∧ r.part = m.part ∧ r.vbase = h.vbase ∧ r.size = pageSize sz ∧ r.at_ = s.now ∧
      r.move = some m.ord ∧ t.mem = s.mem ∧ t.seqs = s.seqs ∧ ∃ x ∈ (tierOf t die).act, x.ord = m.ord ∧ x.src = leaf

/-- R293: a page's revocation sets RP in every valid handle of the partition that names a page in it, drops it from every TLB, and
changes no memory. -/
def Sys2Proof.Claims.RevocationMarksHandles : Prop :=
  ∀ (s : State) (part va size : Nat), s.arg = .page part va size → ∃ t, exec .pageRevoke s = .next t ∧ t.mem = s.mem ∧
    (∀ e ∈ t.seqs, e.2.task.part = part → ∀ x ∈ e.2.h, x.2.v = true → va ≤ x.2.vbase → x.2.vbase < va + size → x.2.rp = true) ∧
    (∀ e ∈ t.tlb, ∀ x ∈ e.2, x.part = part → va + size ≤ x.h.vbase ∨ x.h.vbase + pageSize x.h.sz ≤ va)

/-- R293: a revocation waits for every task that ran when it began; one of the hypervisor's ends when the page's entry has changed; the
page then stands in no TLB, and the handles to it in saved frames come back without V (R298). -/
def Sys2Proof.Claims.RevocationsComplete : Prop :=
  ∀ (s : State) (r : Revoke) (l : List Revoke), s.arg = .page r.part r.vbase r.size → s.revokes = r :: l →
    (r.waiting ≠ [] → exec .revocationComplete s = .next (scheduled s (event (s.now + 1) 8 r.die .revocationComplete (.page r.part r.vbase r.size)))) ∧
    (r.waiting = [] → r.move = none → (s.walk r.part r.vbase).map (·.1) ≠ some r.leaf →
      exec .revocationComplete s = .next { (s.dropTlb r.part r.vbase r.size) with
        revokes := l
        saved := s.saved.map fun x => if x.task.part = r.part then { x with gone := x.gone ++ [(r.vbase, r.size)] } else x })

/-- R290, R291: a move within the module whose page is read and written ends: it is active no more, nor is its revocation. -/
def Sys2Proof.Claims.MovesComplete : Prop :=
  ∀ (s : State) (die ord : Nat) (m : Move) (e sz leaf : Nat) (x : PageData), s.arg = .move die ord →
    (tierOf s die).act.find? (fun m => m.ord == ord) = some m → m.part = 63 ∨ m.gen = s.gen m.part → s.walk m.part m.va = some (e, sz, leaf) →
    let h := s.handleOf m.part m.va e sz
    s.heldAt h.base = none → s.heldAt m.dst = none → (∀ k, regionOf h.base ≠ .peer k) → (∀ k, regionOf m.dst ≠ .peer k) → s.readPage h.base m.size h.key = some x →
    ∃ t, exec .tierMoveDone s = .next t ∧ (∀ y ∈ (tierOf t die).act, y.ord ≠ ord) ∧ ∀ r ∈ t.revokes, ¬ (r.die = die ∧ r.move = some ord)

namespace Sys2Proof.Claims

/-- Gate record `n` (R351). -/
def gateNo (s : State) (n : Nat) : Gate := Fm.get {} s.gates n
/-- The state with gate record `n` replaced and nothing else changed. -/
def withGate (s : State) (n : Nat) (g : Gate) : State := { s with gates := Fm.set s.gates n g }
/-- The state with the outcome of a gate operation: 0 done, 1 BUSY, 2 invalid (R352). -/
def gateOutcome (s : State) (x : Nat) : State := { s with hub := { s.hub with gst := x } }
/-- A request of a generation that still lives (R342). -/
abbrev Lives (s : State) (r : GateReq) : Prop := r.part = 63 ∨ r.gen = s.gen r.part

/-- The checks of R354 in their order, for the right in bit `right` of an ACL entry (6 PASS, 7 TAKE, 8 QUERY): the reason of
the first that fails, 0 where none does. -/
def gateFails (s : State) (r : GateReq) (right : Nat) : Nat :=
  let g := gateNo s r.gate
  let own := r.part == g.owner
  let mineAcl := g.acl.find? (fun e => bit e 9 && bits e 0 6 == r.part)
  if 4096 ≤ r.gate ∨ g.st = 0 ∨ r.part = 63 ∨ (own = false ∧ mineAcl = none) then 1
  else if own = false ∧ mineAcl.any (fun e => bit e right) = false then 2
  else if g.st = 3 ∧ right ≠ 8 then 3 else 0

/-- The results of a gate word of request `r` written at its result cycle, +48 + 2d (R197). -/
def gateResult (r : GateReq) (l : List Land) : Ev :=
  event (r.issue + 48 + 2 * dieLatency (r.sid % 16) 8) 1 (landKey r.issue r.sid 6) .resultLanding (.land r.sid l)

/-- A request that fails: GFLT of its partition says why, and gate fault 0x13 is among the results (R198, R354). -/
def GateFault (s t : State) (r : GateReq) (reason : Nat) (l : List Land) : Prop :=
  t.agenda = s.agenda ++ [gateResult r (l ++ [.event 0x13 6])] ∧ t.gates = s.gates ∧ t.mem = s.mem ∧ t.seqs = s.seqs ∧
    (r.part = 63 → t.parts = s.parts) ∧
    (r.part ≠ 63 → t.parts = Fm.set s.parts r.part ((Fm.get {} s.parts r.part : Part).put 0x260 8
      (r.gate % 4096 + reason * 4096 + s.ptime r.part % 2 ^ 48 * 65536)))

/-- A taker is answered with `l` and its sequencer goes on, in a cycle that is not promised (R357, R429). -/
def TakerEnds (s t : State) (r : GateReq) (l : List Land) : Prop :=
  ∃ c, s.now ≤ c ∧ event c 1 (landKey r.issue r.sid 6) .resultLanding (.land r.sid (l ++ [.retire r.id, .seamEnd])) ∈ t.agenda

/-- The gate with the fields of staged words over its own (R352): words GW0, GW3 to GW6. -/
def staged (s : State) (i : Nat) : Nat := (Fm.get 0 s.hub.stage i).toNat
def loaded (g : Gate) (w : Nat → Nat) : Gate :=
  { g with
    owner := bits (w 0) 0 6, unl := bit (w 0) 8, n := bits (w 0) 9 5, rate := bits (w 0) 16 16, burst := bits (w 0) 32 16
    base := bits (w 3) 16 36 * 65536, size := bits (w 4) 0 13, key := bits (w 4) 13 11
    acl := (List.range 8).map (fun e => bits (w (5 + e / 4)) (16 * (e % 4)) 10) }

/-- A gate operation that is done on record `n`, which becomes `g`; takers of `l` end with a gate fault. -/
def GateDone (s t : State) (n : Nat) (g : Gate) (l : List GateReq := []) : Prop :=
  gateNo t n = g ∧ t.hub = { s.hub with gst := 0 } ∧ t.seqs = s.seqs ∧ (∀ m, m ≠ n → gateNo t m = gateNo s m) ∧
    ∀ r ∈ l, TakerEnds s t r [.event 0x13 6]

end Sys2Proof.Claims

/-! ## Gates -/

/-- R197, R354, R355, R356: a GPASS that fails is a gate fault with p 0; with no token it is throttled, with p 0; else it takes a token,
gets version ADM + 1 and p 1, and its version is due to take effect at its result cycle. A request of a dead generation is discarded. -/
def Sys2Proof.Claims.PassesAreAdmitted : Prop :=
  ∀ (s : State) (r : GateReq), s.arg = .greq r →
    let g := gateNo s r.gate
    let v := (g.adm + 1) % 2 ^ 64
    let cr := r.issue + 48 + 2 * dieLatency (r.sid % 16) 8
    (¬ Lives s r → exec .gatePassAdmit s = .next s) ∧
    (Lives s r → ∀ n, n ≠ 0 → gateFails s r 6 = n → ∃ t, exec .gatePassAdmit s = .next t ∧ GateFault s t r n [.p r.dst false]) ∧
    (Lives s r → gateFails s r 6 = 0 → g.unl = false → g.level = 0 →
      exec .gatePassAdmit s = .next (scheduled s (gateResult r [.p r.dst false]))) ∧
    (Lives s r → gateFails s r 6 = 0 → g.unl = true ∨ g.level ≠ 0 → exec .gatePassAdmit s = .next
      { withGate s r.gate { g with level := if g.unl then g.level else g.level - 1, adm := v, passes := g.passes ++ [{ ver := v, req := r }] } with
        agenda := s.agenda ++ [gateResult r [.p r.dst true], event cr 7 (4 * 2 ^ 80 + v) .gateVersionEffect (.gver r.gate v)] })

/-- R356, R355: the earliest admitted version takes effect once the sender's earlier stores to the gate's region are visible and its
earlier DRAINs complete, and takers are looked at; a later one waits a cycle, and one that was discarded is nothing. -/
def Sys2Proof.Claims.VersionsTakeEffect : Prop :=
  ∀ (s : State) (n v : Nat) (x : Pass) (rest : List Pass), s.arg = .gver n v →
    let g := gateNo s n
    g.passes = x :: rest →
    let wait := scheduled s (event (s.now + 1) 7 (4 * 2 ^ 80 + v) .gateVersionEffect (.gver n v))
    let early (o : Outstanding) : Bool := decide (o.id < x.req.id) && !o.done s.now && (o.kind == 6 ||
      ((o.kind == 0 || o.kind == 2) && o.page.isSome && decide (o.addr < g.base + 65536 * g.size) && decide (g.base < o.addr + o.len)))
    let pending := (Fm.get {} s.seqs x.req.sid).outst.any early
    ((∀ y ∈ g.passes, y.ver ≠ v) → exec .gateVersionEffect s = .next s) ∧
    (x.ver ≠ v → (∃ y ∈ rest, y.ver = v) → exec .gateVersionEffect s = .next wait) ∧
    (x.ver = v → pending = true → exec .gateVersionEffect s = .next wait) ∧
    (x.ver = v → pending = false → exec .gateVersionEffect s = .next { withGate s n { g with ver := v, passes := rest } with
      agenda := s.agenda ++ if g.waiters.isEmpty then [] else [event s.now 7 (5 * 2 ^ 80) .gateTakeComplete (.gate n)] })

/-- R355: at a partition time of its owner that is a multiple of 2^N an active gate's LEVEL grows by RATE, up to BURST. -/
def Sys2Proof.Claims.BucketsRefill : Prop :=
  ∀ (s : State) (n : Nat), s.arg = .gate n → (gateNo s n).st = 1 → (Fm.get {} s.parts (gateNo s n).owner : Part).stood = none →
    let g := gateNo s n
    ∃ t, exec .gateRefill s = .next t ∧ t = { s with gates := t.gates, agenda := t.agenda } ∧ (∀ m, m ≠ n → gateNo t m = gateNo s m) ∧
      (s.ptime g.owner % 2 ^ g.n = 0 → gateNo t n = { g with level := min g.burst (g.level + g.rate) }) ∧
      (s.ptime g.owner % 2 ^ g.n ≠ 0 → t.gates = s.gates) ∧
      ∃ e, e.ins = .gateRefill ∧ e.arg = .gate n ∧ s.now < e.cyc ∧ e ∈ t.agenda

/-- R197, R357: a taker with gv below VER is answered with VER; one that is not waits; waiters that VER has passed are answered; a failed
check ends it with a gate fault. GSTAT reports VER, LEVEL and the two state flags, also of a revoked gate. -/
def Sys2Proof.Claims.TakersAndStatus : Prop :=
  (∀ (s : State) (r : GateReq), s.arg = .greq r → Lives s r →
    let g := gateNo s r.gate
    (∀ n, n ≠ 0 → gateFails s r 7 = n → ∃ t, exec .gateTakeArrival s = .next t ∧ t.gates = s.gates ∧ TakerEnds s t r [.event 0x13 6]) ∧
    (gateFails s r 7 = 0 → r.gv < g.ver → ∃ t, exec .gateTakeArrival s = .next t ∧ t.gates = s.gates ∧ t.mem = s.mem ∧
      TakerEnds s t r [.g r.dst (BitVec.ofNat 64 g.ver)]) ∧
    (gateFails s r 7 = 0 → g.ver ≤ r.gv → exec .gateTakeArrival s = .next (withGate s r.gate { g with waiters := g.waiters ++ [r] })) ∧
    (∀ n, n ≠ 0 → gateFails s r 8 = n → ∃ t, exec .gateStatusSample s = .next t ∧ GateFault s t r n [.g r.dst 0]) ∧
    (gateFails s r 8 = 0 → exec .gateStatusSample s = .next (scheduled s (gateResult r [.g r.dst (BitVec.ofNat 64
      (g.ver % 2 ^ 32 + g.level % 65536 * 2 ^ 32 + (if g.st = 2 then 2 ^ 48 else 0) + (if g.st = 3 then 2 ^ 49 else 0)))])))) ∧
  ∀ (s : State) (n : Nat), s.arg = .gate n →
    let g := gateNo s n
    ∃ t, exec .gateTakeComplete s = .next t ∧ gateNo t n = { g with waiters := g.waiters.filter (fun r => decide (g.ver ≤ r.gv)) } ∧
      t.mem = s.mem ∧ ∀ r ∈ g.waiters, r.gv < g.ver → TakerEnds s t r [.g r.dst (BitVec.ofNat 64 g.ver)]

/-- R353, R359, R360: the operations of the hypervisor on gate records. Each is done, or invalid in a state of the gate that does not
admit it. A create needs a free record, tokens, a key id that no partition holds and a region of its own; export is BUSY
while a partition of the ACL has a task placed or ready (R353) or is not frozen (R360). -/
def Obligations.GateOperations : Prop :=
  ∀ (s : State) (n : Nat), s.arg = .gate n →
    let g := gateNo s n
    let w := loaded g (staged s)
    let c := loaded ({} : Gate) (staged s)
    let bad := gateOutcome s 2
    let keeps (r : GateReq) : Bool := r.part == g.owner || (w.acl.find? (fun e => bit e 9 && bits e 0 6 == r.part)).any (fun e => bit e 7)
    let taken := s.gates.any (fun e => e.1 != n && e.2.st != 0 && decide (c.base < e.2.base + 65536 * e.2.size) &&
      decide (e.2.base < c.base + 65536 * c.size))
    let held := s.parts.any (fun e => e.2.get 2 1 != 0 && (List.range 32).any (fun i => e.2.get (0x190 + 2 * i) 2 / 32768 % 2 == 1 &&
      e.2.get (0x190 + 2 * i) 2 % 2048 == c.key))
    let busy (e : Nat) : Bool := bit e 9 && (s.hasTasks (bits e 0 6) ||
      ((Fm.get {} s.parts (bits e 0 6) : Part).stood.isNone && (Fm.get {} s.parts (bits e 0 6) : Part).get 2 1 != 0))
    (g.st ≠ 0 ∨ (c.burst = 0 ∧ c.unl = false) ∨ held = true ∨ taken = true → exec .gateCreate s = .next bad) ∧
    (g.st = 0 → c.burst ≠ 0 ∨ c.unl = true → held = false → taken = false →
      ∃ t, exec .gateCreate s = .next t ∧ GateDone s t n { c with st := 1, level := c.burst }) ∧
    (g.st ≠ 1 → g.st ≠ 2 → exec .gateUpdate s = .next bad ∧ exec .gateRevoke s = .next bad) ∧
    (g.st = 1 ∨ g.st = 2 →
      (∃ t, exec .gateUpdate s = .next t ∧ GateDone s t n
        { g with
          acl := w.acl, unl := w.unl, n := w.n, rate := w.rate, burst := w.burst, level := min g.level w.burst, waiters := g.waiters.filter keeps }
        (g.waiters.filter (fun r => !keeps r))) ∧
      ∃ t, exec .gateRevoke s = .next t ∧ GateDone s t n { g with st := 3, waiters := [] } g.waiters) ∧
    (g.st ≠ 3 → exec .gateFree s = .next bad) ∧
    (g.st = 3 → ∃ t, exec .gateFree s = .next t ∧ GateDone s t n {}) ∧
    (exec .gateFreeze s = .next (if g.st = 1 then gateOutcome (withGate s n { g with st := 2 }) 0 else bad)) ∧
    (g.st ≠ 2 → exec .gateExport s = .next bad) ∧
    (g.st = 2 → g.acl.any busy = true → exec .gateExport s = .next (gateOutcome s 1)) ∧
    (g.st = 2 → g.acl.any busy = false → ∃ t, exec .gateExport s = .next t ∧ GateDone s t n {}) ∧
    (g.st ≠ 2 → g.st ≠ 0 → exec .gateImport s = .next bad) ∧
    (g.st = 2 → ∃ t, exec .gateImport s = .next t ∧
      GateDone s t n { g with owner := w.owner, base := w.base, size := w.size, key := w.key, st := 1 }) ∧
    (g.st = 0 → ∃ t x, exec .gateImport s = .next t ∧ (s.peek s.hub.gaddr 64 0).1 = x ∧
      let word (i : Nat) : Nat := bits x (64 * i) 64
      GateDone s t n { loaded ({} : Gate) word with level := bits (word 0) 48 16, ver := word 1, adm := word 2, st := 1 })

namespace Sys2Proof.Claims

/-- The packet that goes back to the module a packet came from: reply 6, acknowledgement 7, error completion 8 (R396, R202). -/
def back (s : State) (p : Packet) (op count : Nat) (ops : List Nat) (data : Nat) : Packet :=
  { op := op, src := s.hub.modn, dst := p.src, sid := p.sid, part := p.part, gen := p.gen, pseq := p.pseq, count := count, len := p.len,
    ops := ops, data := data, id := p.id }

/-- The state in which that packet goes out, in the first cycle in which a lane has a slot for it (R388), and nothing else changed. -/
def answeredBy (s : State) (k : Packet) : State := { s with outbox := s.outbox ++ [{ k with dep := leaves s k.dst }] }

/-- What the export of a packet says of it: 0 admitted (R395), 1 discarded (R395), 2 refused by the window key (R202). -/
def exportSays (s : State) (p : Packet) (perm : Nat) : Nat :=
  let e : Export := Fm.get {} s.exports p.expid
  if p.window.any (fun k => e.wkey == 0 || k != e.wkey) then 2
  else if e.v = false ∨ bit e.perm perm = false ∨ e.part ≠ p.part then 1 else 0

/-- An operation of a peer goes beyond the limit of its export (R395), by the bytes that it asks for. -/
abbrev Beyond (s : State) (p : Packet) : Prop :=
  let e : Export := Fm.get {} s.exports p.expid
  e.limit < e.base + p.off + (if p.op = 2 then 8 * p.len else if p.op = 3 then 16 else if p.op = 4 then 32 else p.len)

/-- Where a packet's memory begins, and the key id of its page. -/
def target (s : State) (p : Packet) : Nat := (Fm.get {} s.exports p.expid : Export).base + p.off
def targetKey (s : State) (p : Packet) : Nat := s.pageKey (Fm.get {} s.exports p.expid : Export).part (target s p)

/-- Byte `a` of memory as it reads under a key id. -/
def byteAt (s : State) (key a : Nat) : Nat := (s.peekBlock (a / 64 * 64) key).data.toNat / 2 ^ (8 * (a % 64)) % 256

/-- A block takes the bytes of a store: its key id holds a key (R299), its data is good (R301), no sync object is bound in it (R192),
and its slice's write buffer has room (R279). -/
abbrev Storable (s : State) (a key : Nat) : Prop :=
  regionOf (a / 64 * 64) ≠ .nothing ∧ s.keyNum key ≠ 0 ∧ (∀ e ∈ s.syncs, e.1 / 4 ≠ a / 64) ∧
    (s.peekBlock (a / 64 * 64) key).bad = false ∧ (Fm.get [] s.wbuf (sliceKey (s.place a))).length ≤ 28

/-- In the block of `a`, the bytes from `a` on, `n` of them, are those of `f`, and every other byte is as before. Blocks elsewhere read as
before. -/
def BytesStored (s t : State) (key a n : Nat) (f : Nat → Nat) : Prop :=
  (∀ b, b / 64 = a / 64 → byteAt t key b = if a ≤ b ∧ b < a + n then f (b - a) else byteAt s key b) ∧
    ∀ b k, (s.place b).loc / 64 ≠ (s.place a).loc / 64 → b / 64 ≠ a / 64 → t.peekBlock (b / 64 * 64) k = s.peekBlock (b / 64 * 64) k

/-- `t` is `s` but for the memory of the module and what its home agent keeps. -/
abbrev OnlyMemory (s t : State) : Prop :=
  t = { s with mem := t.mem, mtag := t.mtag, ctag := t.ctag, bkey := t.bkey, bad := t.bad, l2 := t.l2, wbuf := t.wbuf, stamp := t.stamp,
               doms := t.doms, accepted := t.accepted, rpaths := t.rpaths, outbox := t.outbox, agenda := t.agenda }

/-- What a path keeps at its home agent (R262, R263). -/
def pathOf (s : State) (p : Packet) : RPath := Fm.get {} s.rpaths (p.src * 8192 + p.sid)

/-- The home agent looks at the flags of the packet's path again. -/
def flagsAgain (t : State) (p : Packet) (now : Nat) : List Ev :=
  (pathOf t p).flags.map fun f => event now 4 (agentKey f.src f.pseq) .releaseFlagCommit (.packet f)

/-- The task that issued an access is on its half still, and no event has ended it yet (R328). -/
abbrev StillThere (s : State) (a : Access) : Prop :=
  let q := Fm.get {} s.seqs a.sid
  (q.run = .run ∨ q.run = .halted ∨ q.run = .finishing) ∧ (a.sid % 16 = 8 ∨ a.task = (q.task.launch, q.task.index))

end Sys2Proof.Claims

/-! ## Remote accesses at their home, and their answers -/

/-- R395, R396, R200, R202, R398: what the home agent answers to a load, RCAS2, RENQ or RCHASE of a peer. One refused by the window key gets
an error completion, one that its export does not admit or that a fence cuts off the mark of a discarded access. A load gets its bytes,
each of its blocks in a cycle of its own; RCAS2 the old values and whether it wrote; RENQ the old tail; RCHASE the value and the offset of
the node, each node being a load of its own. Outside the region the values are those of R200. -/
def Sys2Proof.Claims.PeersAreAnswered : Prop :=
  ∀ (s : State) (p : Packet), s.arg = .packet p → p.op = 0 ∨ p.op = 2 ∨ p.op = 3 ∨ p.op = 4 →
    let e : Export := Fm.get {} s.exports p.expid
    let verdict := exportSays s p (if p.op = 2 ∨ p.op = 3 then 2 else 0)
    let a := target s p
    let twice := (p.op = 2 ∨ p.op = 3) ∧ s.repeated p = true
    (∀ d k x, s.packetHeld p = some (d, k, x) → exec .remoteOpExecute s = .next (replayed s (d, k) x 4 .remoteOpExecute (.packet p))) ∧
    (s.packetHeld p = none → s.packetFenced p = true → exec .remoteOpExecute s = .next (answeredBy s (back s p 6 1 [] 0))) ∧
    (s.packetHeld p = none → s.packetFenced p = false → p.begun = false →
      (twice → exec .remoteOpExecute s = .next s) ∧
      (¬ twice → p.op = 2 ∨ p.op = 3 → s.acceptLine a = none →
        exec .remoteOpExecute s = .next (scheduled s (event (s.now + 1) 4 (agentKey p.src p.pseq) .remoteOpExecute (.packet p)))) ∧
      (¬ twice → p.op = 0 ∨ p.op = 4 ∨ s.acceptLine a ≠ none →
        (verdict = 2 → ∃ t, exec .remoteOpExecute s = .next t ∧ t = { answeredBy s (back s p 8 0 [] 0) with accepted := t.accepted }) ∧
        (verdict = 1 ∨ (verdict = 0 ∧ Beyond s p) → ∃ t, exec .remoteOpExecute s = .next t ∧
          t = { answeredBy s (back s p 6 1 [] 0) with accepted := t.accepted }) ∧
        (verdict = 0 → ¬ Beyond s p →
          (p.op = 0 → p.got = [] → 0 < p.len →
            (a % 64 + p.len ≤ 64 → s.acceptLine a ≠ none → ∃ t x, exec .remoteOpExecute s = .next t ∧
              t = { answeredBy s (back s p 6 (if (s.peekBlock (a / 64 * 64) (targetKey s p)).bad then 1 else 0) [] x) with
                doms := t.doms, accepted := t.accepted } ∧
              ((s.peekBlock (a / 64 * 64) (targetKey s p)).bad = false → x < 2 ^ (8 * p.len) ∧
                ∀ i, i < p.len → x / 2 ^ (8 * i) % 256 = byteAt s (targetKey s p) (a + i))) ∧
            (64 < a % 64 + p.len → ∃ t, exec .remoteOpExecute s = .next t ∧
              t = { s with doms := t.doms, accepted := t.accepted, choices := t.choices, drawn := t.drawn, agenda := t.agenda, outbox := t.outbox } ∧
              ((∃ c q, s.now < c ∧ q = { p with begun := true, todo := q.todo, got := q.got } ∧
                  t = { s with doms := t.doms, accepted := t.accepted, choices := t.choices, drawn := t.drawn,
                               agenda := s.agenda ++ [event c 4 (agentKey p.src p.pseq) .remoteOpExecute (.packet q)] }) ∨
                ∃ n x, t.outbox = (answeredBy s (back s p 6 n [] x)).outbox))) ∧
          (p.op = 2 → a % 64 + 8 * p.len ≤ 64 → ∃ t, exec .remoteOpExecute s = .next t ∧ OnlyMemory s t ∧
            let old := (List.range p.len).map fun i => s.word64 e (p.off + 8 * i)
            let equal := ∀ i, i < p.len → old.getD i 0 = p.ops.getD i 0
            (¬ equal → t.outbox = (answeredBy s (back s p 6 0 (old ++ [0]) 0)).outbox ∧ t.mem = s.mem ∧ t.l2 = s.l2 ∧ t.wbuf = s.wbuf) ∧
            (equal → t.outbox = (answeredBy s (back s p 6 0 (old ++ [1]) 0)).outbox ∧
              (0 < p.len → p.len ≤ 4 → Storable s a (targetKey s p) → BytesStored s t (targetKey s p) a (8 * p.len)
                fun i => p.ops.getD (p.len + i / 8) 0 / 2 ^ (8 * (i % 8)) % 256))) ∧
          (p.op = 3 →
            let node := p.ops.getD 0 0
            let tail := s.word64 e (p.off + 8)
            let inside (x : Nat) : Prop := e.base + p.base + x + 8 ≤ e.limit
            (¬ inside node ∨ homeDie a ≠ homeDie (e.base + p.base + node) → ∃ t, exec .remoteOpExecute s = .next t ∧
              t = { answeredBy s (back s p 6 0 [2 ^ 64 - 2] 0) with rpaths := t.rpaths, doms := t.doms, accepted := t.accepted }) ∧
            (inside node → homeDie a = homeDie (e.base + p.base + node) → tail = 0 ∨ inside tail →
              let l := [a, e.base + p.base + node] ++ if tail = 0 then [] else [e.base + p.base + tail]
              (l.map fun x => (s.place x).loc / 64).Nodup → (l.map fun x => x / 64).Nodup → a % 8 = 0 → a % 64 ≤ 48 →
              (∀ x ∈ l, x % 8 = 0 ∧ Storable s x (s.pageKey e.part x)) →
              ∃ t, exec .remoteOpExecute s = .next t ∧ OnlyMemory s t ∧ t.outbox = (answeredBy s (back s p 6 0 [tail] 0)).outbox ∧
                t.word64 e (p.base + node) = 0 ∧ t.word64 e (p.off + 8) = node % 2 ^ 64 ∧
                (tail = 0 → t.word64 e p.off = node % 2 ^ 64) ∧
                (tail ≠ 0 → t.word64 e (p.base + tail) = node % 2 ^ 64 ∧ t.word64 e p.off = s.word64 e p.off))) ∧
          (p.op = 4 → p.left ≠ 0 →
            let word (i : Nat) : Nat := s.word64 e (p.off + 8 * i)
            (word 1 = p.ops.getD 0 0 → ∃ t, exec .remoteOpExecute s = .next t ∧
              t = { answeredBy s (back s p 6 0 [word 2, p.off - p.base] 0) with doms := t.doms }) ∧
            (word 1 ≠ p.ops.getD 0 0 → word 0 = 0 → ∃ t, exec .remoteOpExecute s = .next t ∧
              t = { answeredBy s (back s p 6 0 [0, 0] 0) with doms := t.doms }) ∧
            (word 1 ≠ p.ops.getD 0 0 → word 0 ≠ 0 → ∃ t c, exec .remoteOpExecute s = .next t ∧ s.now < c ∧
              t = { s with doms := t.doms, choices := t.choices, drawn := t.drawn, agenda := s.agenda ++ [event c 4 (agentKey p.src p.pseq)
                .remoteOpExecute (.packet { p with off := p.base + word 0, left := p.left - 1, begun := true })] }))))) ∧
    (s.packetHeld p = none → s.packetFenced p = false → p.begun = true → p.op = 4 →
      (p.left = 0 → exec .remoteOpExecute s = .next (answeredBy s (back s p 6 0 [0, 2 ^ 64 - 1] 0))) ∧
      (p.left ≠ 0 → Beyond s p → exec .remoteOpExecute s = .next (answeredBy s (back s p 6 0 [0, 2 ^ 64 - 2] 0))))

/-- R262, R263, R276, R395, R398: a store of a peer takes effect once. A duplicate is discarded, and one whose domain is out of service waits
there. One that its export admits is written; one that it does not, or that a fence cuts off, is dropped. Either is answered, and its
number is then among the visible ones of its path. A release flag waits until the stores before it, after the last flag, are visible. -/
def Sys2Proof.Claims.PeersStoreOnce : Prop :=
  (∀ (s : State) (p : Packet), s.arg = .packet p → p.op = 1 ∨ p.op = 5 → p.begun = false →
    let r := pathOf s p
    let a := target s p
    let verdict := exportSays s p 1
    let taken : State := { s with rpaths := Fm.set s.rpaths (p.src * 8192 + p.sid) { r with seen := r.seen ++ [p.pseq] } }
    (p.pseq ∈ r.seen → exec .remoteStoreArrival s = .next s) ∧
    (p.pseq ∉ r.seen → p.op = 1 →
      (∀ d k x, s.packetHeld p = some (d, k, x) → exec .remoteStoreArrival s = .next
        (replayed taken (d, k) x 4 .remoteStoreArrival (.packet { p with begun := true }))) ∧
      (s.packetHeld p = none → p.todo = [] →
        let done (t : State) : Prop := pathOf t p = { r with seen := r.seen ++ [p.pseq], vis := r.vis ++ [p.pseq] } ∧
          t.outbox = (answeredBy s (back s p (if verdict = 2 then 8 else 7) 0 [] 0)).outbox ∧ t.agenda = s.agenda ++ flagsAgain s p s.now
        (s.packetFenced p = true ∨ verdict ≠ 0 ∨ Beyond s p → ∃ t, exec .remoteStoreArrival s = .next t ∧ done t ∧
          t = { s with rpaths := t.rpaths, outbox := t.outbox, agenda := t.agenda }) ∧
        (s.packetFenced p = false → verdict = 0 → ¬ Beyond s p → 0 < p.len → a % 64 + p.len ≤ 64 → s.acceptLine a ≠ none →
          ∃ t, exec .remoteStoreArrival s = .next t ∧ done t ∧ OnlyMemory s t ∧ (Storable s a (targetKey s p) →
            BytesStored s t (targetKey s p) a p.len fun i => p.data / 2 ^ (8 * i) % 256)))) ∧
    (p.pseq ∉ r.seen → p.op = 5 → ∃ t, exec .remoteStoreArrival s = .next t ∧
      pathOf t p = { r with seen := r.seen ++ [p.pseq], flags := r.flags ++ [p] } ∧
      t = { s with rpaths := t.rpaths, agenda := s.agenda ++ flagsAgain t p s.now })) ∧
  ∀ (s : State) (p : Packet), s.arg = .packet p → p.op = 5 →
    let r := pathOf s p
    let a := target s p
    let verdict := exportSays s p 1
    let n := r.vis.countP p.counts
    (p ∉ r.flags ∨ n < p.count → exec .releaseFlagCommit s = .next s) ∧
    (p ∈ r.flags → p.count ≤ n →
      let done (t : State) : Prop := pathOf t p = { r with flags := r.flags.filter (· != p), vis := r.vis.filter (fun x => !p.counts x) } ∧
        t.outbox = (answeredBy s (back s p (if verdict = 2 then 8 else 7) 0 [] 0)).outbox ∧ t.agenda = s.agenda ++ flagsAgain t p s.now
      (∀ d k x, s.packetHeld p = some (d, k, x) → exec .releaseFlagCommit s = .next
        (replayed s (d, k) x 4 .releaseFlagCommit (.packet p))) ∧
      (s.packetHeld p = none → s.packetFenced p = true ∨ verdict ≠ 0 ∨ Beyond s p → ∃ t, exec .releaseFlagCommit s = .next t ∧ done t ∧
        t = { s with rpaths := t.rpaths, outbox := t.outbox, agenda := t.agenda }) ∧
      (s.packetHeld p = none → s.packetFenced p = false → verdict = 0 → ¬ Beyond s p → 0 < p.len → a % 64 + p.len ≤ 64 → s.acceptLine a ≠ none →
        ∃ t, exec .releaseFlagCommit s = .next t ∧ done t ∧ OnlyMemory s t ∧ (Storable s a (targetKey s p) →
          BytesStored s t (targetKey s p) a p.len fun i => p.data / 2 ^ (8 * i) % 256)))

/-- R396, R388, R301, R202: an answer completes the request that it answers: a load's data is delivered, a store is visible, results land
and the seam ends. A request unanswered for too long completes as uncorrectable, a read with zeros. An error completion ends the task with
a capability fault where the task is there still; an answer that nobody awaits is discarded. A store of tier 1 or 2 that has not had its
home cycle by then is discarded, and its blocks are poisoned. -/
def Sys2Proof.Claims.RequestsComplete : Prop :=
  (∀ (s : State) (p : Packet), s.arg = .packet p → (∀ w ∈ s.awaiting, w.pkt.id ≠ p.id) →
    exec .remoteReplyArrival s = .next s ∧ exec .wstErrorCompletion s = .next s) ∧
  (∀ (s : State) (p : Packet) (w : Awaited), s.arg = .packet p → s.awaiting.find? (fun w => w.pkt.id == p.id) = some w →
    let a := w.acc
    let mgmt := a.sid % 16 = 8
    let finished (t : State) : Prop := t.awaiting = s.awaiting.filter (fun w => w.pkt.id != p.id) ∧ t.mem = s.mem ∧
      (StillThere s a → (Fm.get {} t.seqs a.sid).run = (if mgmt then .idle else .ending 6) ∧ (Fm.get {} t.seqs a.sid).pc = a.pc % 2 ^ 16 ∧
        (Fm.get {} t.seqs a.sid).ecol = 6) ∧
      (¬ StillThere s a → (Fm.get {} t.seqs a.sid).run = (Fm.get {} s.seqs a.sid).run ∧ t.agenda = s.agenda)
    (p.op = 8 → ∃ t, exec .remoteReplyArrival s = .next t ∧ finished t ∧ (Fm.get {} t.seqs a.sid).seam = false) ∧
    ∃ t, exec .wstErrorCompletion s = .next t ∧ finished t) ∧
  (∀ (s : State) (p : Packet) (w : Awaited), s.arg = .packet p → s.awaiting.find? (fun w => w.pkt.id == p.id) = some w →
    Present s w.acc.part w.acc.gen → p.op ≠ 8 → w.acc.chunk = none → (∀ d o, w.acc.dest ≠ .move d o) →
    let a := w.acc
    let rest := s.awaiting.filter (fun x => x.pkt.id != w.pkt.id)
    (w.pkt.op = 1 ∨ w.pkt.op = 5 → a.sid < 8192 →
      let q := Fm.get {} s.seqs a.sid
      let seen (o : Outstanding) : Outstanding := if o.id = a.id then { o with at_ := some s.now } else o
      exec .remoteReplyArrival s = .next { withSeq s a.sid { q with outst := q.outst.map seen } with awaiting := rest }) ∧
    (w.pkt.op = 0 → p.count ≠ 1 → a.promise = none → exec .remoteReplyArrival s = .next { s with
      awaiting := rest
      agenda := s.agenda ++ [event s.now 1 (landKey a.issue a.sid a.col) .loadDataDelivery (.deliver a p.data p.ops (bit p.ctags 0) false)] }) ∧
    (p.count ≠ 1 → ∀ n, a.dest = .g n →
      let g (m : Nat) : W64 := Fm.get 0 (Fm.get {} s.seqs a.sid).g m
      let x (i : Nat) : W64 := BitVec.ofNat 64 (p.ops.getD i 0)
      let lands (m : Nat) : W64 :=
        if w.pkt.op = 3 then (if m = n then x 0 else g m)
        else if w.pkt.op = 4 then (if m = n then x 0 else if m = n + 1 then x 1 else g m)
        else if m = n + 2 * w.pkt.len then x w.pkt.len else if n ≤ m ∧ m < n + w.pkt.len then x (m - n) else g m
      w.pkt.op = 2 ∨ w.pkt.op = 3 ∨ w.pkt.op = 4 → ∃ t, exec .remoteReplyArrival s = .next t ∧ t.awaiting = rest ∧
        (Fm.get {} t.seqs a.sid).seam = false ∧ (∀ m, Fm.get 0 (Fm.get {} t.seqs a.sid).g m = lands m) ∧
        t = { s with awaiting := t.awaiting, seqs := t.seqs } ∧ ∀ i, i ≠ a.sid → Fm.get {} t.seqs i = Fm.get {} s.seqs i)) ∧
  ∀ (s : State) (a : Access) (w : Awaited), s.arg = .access a →
    ((∀ w ∈ s.awaiting, w.pkt.id ≠ a.id) →
      ((∀ e ∈ s.agenda, e.late a = false) → exec .requestTimeout s = .next s) ∧
      ∀ e r b, s.agenda = e :: r → b.isSame a = true →
        (e.ins = .accessHomeCycle → e.arg = .access b → b.op = .write → ∃ t, exec .requestTimeout s = .next t ∧
          (∀ x ∈ blocksOf b.addr b.len, (s.place x.1).loc / 64 ∈ t.bad) ∧ t.mem = s.mem ∧ ∀ e ∈ t.agenda, e.late a = false) ∧
        (∀ x tags ct bad n, e.arg = .deliver b x tags ct bad → a.dest = .g n → ∃ t, exec .requestTimeout s = .next t ∧ t.mem = s.mem ∧
          Fm.get 0 (Fm.get {} t.seqs a.sid).g n = 0 ∧ (∀ o ∈ (Fm.get {} t.seqs a.sid).outst, o.id ≠ a.id) ∧ ∀ e ∈ t.agenda, e.late a = false)) ∧
    (s.awaiting.find? (fun w => w.pkt.id == a.id) = some w →
      (w.acc.chunk ≠ a.chunk ∨ w.acc.issue ≠ a.issue → exec .requestTimeout s = .next s) ∧
      (w.acc.chunk = a.chunk → w.acc.issue = a.issue → Present s w.acc.part w.acc.gen → w.acc.chunk = none →
        (∀ d o, w.acc.dest ≠ .move d o) → w.pkt.op = 0 → w.acc.promise = none → exec .requestTimeout s = .next { s with
          awaiting := s.awaiting.filter (fun x => x.pkt.id != w.pkt.id)
          agenda := s.agenda ++ [event s.now 1 (landKey w.acc.issue w.acc.sid w.acc.col) .loadDataDelivery
            (.deliver w.acc 0 (List.replicate (cdiv w.acc.len 64) 0x7F00) false true)] }))

/-- R126, R390, R393, R395: an export-table entry is written, and the root capability with its tag; ALIGN holds the sequencer of H that
issues it, timed, for at most 2^20 cycles, and is illegal elsewhere; its last step sets DONE and gives UT back. A failed link with an
alternate path goes over to it, and what its peer has not acknowledged or answered goes out again. -/
def Sys2Proof.Claims.LinksAreAligned : Prop :=
  (∀ (s : State) (n : Nat) (e : Export), (s.arg = .exportEntry n e Option.none →
      exec .exportTableWrite s = .next { s with exports := Fm.set s.exports n e }) ∧
    ∀ pa key cap, s.arg = .exportEntry n e (some (pa, key, cap)) →
      let a := pa / 16 * 16
      (s.heldAt a = none → ∃ t, exec .exportTableWrite s = .next t ∧ t.exports = Fm.set s.exports n e ∧
        OnlyMemory { s with exports := t.exports } t ∧ (Storable s a key → BytesStored s t key a 16 (fun i => cap / 2 ^ (8 * i) % 256) ∧
          (t.peekBlock (a / 64 * 64) key).ctag.getLsbD (a / 16 % 4) = true)) ∧
      (∀ d, s.heldAt a = some d → ∃ t x, exec .exportTableWrite s = .next t ∧ t.exports = Fm.set s.exports n e ∧ t.mem = s.mem ∧
        t.replays = s.replays ++ [x] ∧ (x.die, x.blk) = d ∧ x.addr = a ∧ x.ins = .accessHomeCycle)) ∧
  (∀ s : State, Free s → (User s → exec .align s = .next (faulted (occupied s 1) 1)) ∧
    (OnHub s → ∃ t c, exec .align s = .next t ∧ s.now < c ∧ c ≤ s.now + 2 ^ 20 ∧
      t.agenda = s.agenda ++ [event c 4 s.cur.sid .alignComplete (.seq s.cur.sid)] ∧ mine t = { mine (occupied s 1) with seam := true, ut := false, alignUt := some (mine s).ut } ∧
      t.mem = s.mem ∧ t.beacon = s.beacon ∧ t.links = s.links)) ∧
  (∀ (s : State) (sid : Nat), s.arg = .seq sid →
    ∃ t, exec .alignComplete s = .next t ∧ t.hub.alDone = true ∧ (Fm.get {} t.seqs sid).seam = false ∧ t.mem = s.mem ∧
      (∀ b, (Fm.get {} s.seqs sid).alignUt = some b → (Fm.get {} t.seqs sid).ut = b)) ∧
  ∀ (s : State) (n : Nat), s.arg = .link n →
    let l : Link := Fm.get { peer := n } s.links n
    (l.alten = false ∨ l.up = true → exec .linkFailover s = .next s) ∧
    (l.alten = true → l.up = false → ∃ t, exec .linkFailover s = .next t ∧ t.links = Fm.set s.links n { l with alt := true, sent := [] } ∧
      (let again := (s.awaiting.filter fun w => w.pkt.dst == l.peer && [1, 5, 12, 13].contains w.pkt.op).map fun w => { w.pkt with dep := leaves t w.pkt.dst }
       t.outbox = s.outbox ++ l.owed.map (fun p => { p with link := t.wayOf n, dep := some s.now }) ++ again) ∧
      t = { s with links := t.links, cores := t.cores, agenda := t.agenda, outbox := t.outbox } ∧
      ∀ x ∈ l.sent, x.2.2 ∈ (Fm.get {} (Fm.get {} t.cores x.1).lport x.2.1 : Port).wait)

namespace Sys2Proof.Claims

/-- The record of a partition with what the hub keeps beside it (R337). -/
def partOf (s : State) (p : Nat) : Part := Fm.get {} s.parts p
/-- A half by its SEQID. -/
def half (s : State) (sid : Nat) : Seq := Fm.get {} s.seqs sid
/-- The first multiple of 1,024 at or after a partition time (R310). -/
def aligned (t : Nat) : Nat := (t + 1023) / 1024 * 1024
/-- Q of R308: the cycles that loading `w` words takes. -/
def loading (w : Nat) : Nat := 40 + (4 * w + 2047) / 2048
/-- The state with the outcome of a partition command: 0 done, 1 BUSY, 2 invalid, and a reason (R339). -/
def commandOutcome (s : State) (res reason : Nat) : State := { s with hub := { s.hub with psRes := res, psReason := reason } }
/-- A multi-byte field of a frame as it reads: `n` bytes at an offset of the frame at a virtual address. -/
def framed (s : State) (x : Saved) (off n : Nat) : Nat := (s.vpeek x.task.part (x.frameVa + off) n).1
/-- The same of a yield frame, which lies at 0xB_0000 of its slot (R329). -/
def yieldFramed (s : State) (x : Saved) (off n : Nat) : Nat := (s.vpeek x.task.part (s.slotVa x.task.part x.task.slot + 0xB0000 + off) n).1
/-- The accumulator rows of a sequencer's core that a double-bit error has struck (R334). -/
def myBadRows (s : State) (sid : Nat) : List (Nat × Nat) := (Fm.get {} s.cores (sid % 4096) : Core).badRows
/-- The bytes of two fields of a frame are apart. -/
abbrev FieldsApart (a b : Nat × Nat × Nat) : Prop := a.1 + a.2.1 ≤ b.1 ∨ b.1 + b.2.1 ≤ a.1
/-- Two states hold the same in DRAM: bytes, tags, keys, poison. -/
abbrev SameMemory (s t : State) : Prop :=
  t.mem = s.mem ∧ t.mtag = s.mtag ∧ t.ctag = s.ctag ∧ t.bkey = s.bkey ∧ t.bad = s.bad ∧ t.l2 = s.l2 ∧ t.wbuf = s.wbuf ∧ t.replays = s.replays
/-- `c` is the first cycle from now on in which the Beacon stands at a multiple of 1,024 from the value at which the partition's freeze
began: its time then, and its freeze offset (R304). -/
def ResumesAt (s : State) (p c : Nat) : Prop :=
  s.now ≤ c ∧ c < s.now + 1024 ∧ ∀ v, (partOf s p).stood = some v → (s.beaconOf 8 + (c - s.now)) % 1024 = (v + (partOf s p).get 0x268 8) % 1024
/-- The schedulers look at their pools in this cycle (R308). -/
def Look (s t : State) : Prop := event s.now 8 2 .schedulerPlacement Arg.none ∈ t.agenda

end Sys2Proof.Claims

/-! ## Launches, placement, slices and frames -/

/-- R127, R306, R311, R343, R276: a launch whose descriptor has come is validated: one that fails a check leaves the pool, one that passes is
valid with the words of its timetable. One submitted before a reset completes fails with reason 3. A descriptor is read at its home, after
what waits there for a domain out of service. -/
def Sys2Proof.Claims.LaunchesAreValidated : Prop :=
  (∀ (s : State) (n : Nat) (l : Launch), s.arg = .id n → s.pool.find? (fun l => l.id == n) = some l →
    let k := l.parse l.desc.toNat
    (k.early = true ∨ s.pstate k.part = 3 → s.launchReason k = 3) ∧
    (s.launchReason k ≠ 0 → ∃ t, exec .launchReceive s = .next t ∧ t.pool = s.pool.filter (fun x => x.id != n) ∧ t.seqs = s.seqs) ∧
    (s.launchReason k = 0 → ∃ t x, exec .launchReceive s = .next t ∧ t.pool = s.pool.map (fun y => if y.id = n then x else y) ∧
      x = { k with valid := true, words := x.words, first := x.first, handler := x.handler, code := x.code, depReady := s.depSeen k } ∧
      t = { s with pool := t.pool, agenda := t.agenda })) ∧
  ∀ (s : State) (l : Launch) (h : Handle) (off : Nat), s.arg = .launch l h off →
    let a : Access := { sid := l.sidFrom, addr := h.base + off, len := 64, key := h.key, cls := 1, part := l.part }
    ((∀ x ∈ s.pool, x.id ≠ l.id) → exec .launchReceive s = .next s) ∧
    ((∃ x ∈ s.pool, x.id = l.id) → s.heldBy a = Option.none → ∃ t c, exec .launchReceive s = .next t ∧ s.now < c ∧
      event c 8 1 .launchReceive (.id l.id) ∈ t.agenda ∧ t.pool.map (·.id) = s.pool.map (·.id)) ∧
    ((∃ x ∈ s.pool, x.id = l.id) → ∀ d, s.heldBy a = some d → exec .launchReceive s = .next
      (replayed s d (h.base + off) 4 .launchReceive (.launch l h off)))

/-- R309, R310, R128: a ready launch that no other work stands against is placed on its idle halves and takes frame slots; it begins at its
START, or at the next multiple of 1,024. A half whose task has issued END is free once the task's words have completed. -/
def Sys2Proof.Claims.WorkIsPlaced : Prop :=
  (∀ (s : State) (d : Nat) (l : Launch), s.arg = .die d → s.saved = [] → s.pool = [l] → l.die = d → s.launchReady l = true →
    l.halves ≠ [] → (∀ h ∈ l.halves, (half s h).run = .idle ∧ s.halfShut h = false) →
    let c := s.ptime l.part
    let q := loading l.words
    let at_ := if l.exact then l.start else aligned (max (c + q) l.start)
    l.exact = false ∨ c + q ≤ l.start →
    ∃ t, exec .schedulerPlacement s = .next t ∧ (∀ h ∈ l.halves, (half t h).run = .placed) ∧ t.mem = s.mem ∧
      t.pool = [{ l with placed := some at_, slots := (s.freeSlots l.part).take l.halves.length }] ∧
      event (s.now + (at_ - c)) 0 0 .launchBegin (.id l.id) ∈ t.agenda) ∧
  ∀ (s : State) (sid : Nat), s.arg = .seq sid →
    ((half s sid).run ≠ .finishing → exec .schedulerPlacement s = .next s) ∧
    ((half s sid).run = .finishing → s.allDone sid = false →
      exec .schedulerPlacement s = .next (scheduled s (event (s.now + 1) 8 4 .schedulerPlacement (.seq sid)))) ∧
    ((half s sid).run = .finishing → s.allDone sid = true → ∃ t, exec .schedulerPlacement s = .next t ∧ (half t sid).run = .idle ∧
      (partOf t (half s sid).task.part).slots = (partOf s (half s sid).task.part).slots.erase (half s sid).task.slot)

/-- R38, R310: all tasks of a launch begin in one cycle at word 0, with its arguments, their index and the number of tasks in g0 to g2; if
the partition's time has not come, the launch waits; where the partition does not hold its halves any more (R336), it goes back to the
pool. -/
def Sys2Proof.Claims.LaunchesBegin : Prop :=
  ∀ (s : State) (n : Nat) (l : Launch) (at_ : Nat), s.arg = .id n → s.pool.find? (fun l => l.id == n) = some l → l.placed = some at_ →
    (s.launchStands l = false → ∃ t, exec .launchBegin s = .next t ∧ (∀ h ∈ l.halves, (half s h).run = .placed → (half t h).run = .idle) ∧
      t.pool = s.pool.map fun y => if y.id = n then { y with placed := Option.none, slots := [] } else y) ∧
    (s.launchStands l = true → s.ptime l.part < at_ → exec .launchBegin s = .next
      (scheduled s (event (max (s.now + 1) (s.now + (at_ - s.ptime l.part))) 0 0 .launchBegin (.id n)))) ∧
    (s.launchStands l = true → at_ ≤ s.ptime l.part → ∃ t, exec .launchBegin s = .next t ∧ t.pool = s.pool.filter (fun x => x.id != n) ∧
      ∀ e ∈ l.halves.zipIdx, let q := half t e.1
        q.run = .run ∧ q.fpc = 0 ∧ q.pl = 0 ∧ q.ut = false ∧ q.ybound = l.ybound ∧ q.task.part = l.part ∧ q.lstk = [] ∧ q.fq = [] ∧
        Fm.get 0 q.g 0 = BitVec.ofNat 64 l.args ∧ Fm.get 0 q.g 1 = BitVec.ofNat 64 e.2 ∧ Fm.get 0 q.g 2 = BitVec.ofNat 64 l.halves.length)

/-- R312, R329: a task over its quantum that stands in the way is asked for its slot; a task that gave its slot away is ready when its
half is free, which waits for its nest. -/
def Sys2Proof.Claims.SlotsAreGivenAway : Prop :=
  (∀ (s : State) (sid : Nat), s.arg = .seq sid →
    let q := half s sid
    let due := q.task.since + (partOf s q.task.part).get 4 4
    (s.wanted sid = false → exec .timeSliceEnd s = .next s) ∧
    (s.wanted sid = true → s.ptime q.task.part < due → ∃ t, exec .timeSliceEnd s = .next t ∧ t.seqs = s.seqs ∧ t.mem = s.mem ∧
      ∃ e ∈ t.agenda, e.ins = .timeSliceEnd ∧ e.arg = .seq sid) ∧
    (s.wanted sid = true → due ≤ s.ptime q.task.part → exec .timeSliceEnd s = .next (withSeq s sid { q with slend := true }))) ∧
  ∀ (s : State) (x : Saved), s.arg = .saved x →
    ((half s x.sid).run ≠ .leaving → exec .yieldHandover s = .next s) ∧
    ((half s x.sid).run = .leaving → (half s x.sid).nest.live = true →
      exec .yieldHandover s = .next (scheduled s (event (s.now + 1) 8 x.sid .yieldHandover (.saved x)))) ∧
    ((half s x.sid).run = .leaving → (half s x.sid).nest.live = false → ∃ t, exec .yieldHandover s = .next t ∧ t.saved = s.saved ++ [x] ∧
      (half t x.sid).run = .idle ∧ t.mem = s.mem)

/-- R328 to R331, R335: a task that ended or stopped is saved once what it issued has completed, within 420 cycles, and its half is free. The
frame is written with its fields at the offsets of R330 and 0 elsewhere; of a fatal code a KIND 3 notice is given, the frame keeps its slot
until the supervisor frees it; any other keeps the task to be restored. -/
def Sys2Proof.Claims.FramesAreSaved : Prop :=
  (∀ (s : State) (sid code : Nat), s.arg = .half sid code →
    ((half s sid).run ≠ .ending code → exec .fullFrameSave s = .next s) ∧
    ((half s sid).run = .ending code → (s.dropWaits sid).settled sid = false → ∃ t, exec .fullFrameSave s = .next t ∧
      (half t sid).run = .ending code ∧ event (s.now + 1) 8 sid .fullFrameSave (.half sid code) ∈ t.agenda) ∧
    ((half s sid).run = .ending code → (s.dropWaits sid).settled sid = true → ∃ t c, exec .fullFrameSave s = .next t ∧
      (half t sid).run = .saving code ∧ s.now ≤ c ∧ c ≤ s.now + 420 ∧ t.mem = s.mem ∧
      event c 8 sid .fullFrameSaveEnd (.seqN sid (s.ptime (half s sid).task.part)) ∈ t.agenda)) ∧
  (∀ (s : State) (sid at_ code : Nat), s.arg = .seqN sid at_ → (half s sid).run = .saving code →
    let q := half s sid
    let task := q.task
    let va := if q.frame = 0 then (s.part task.part).get 0x240 8 + 786432 * task.slot else q.frame.toNat
    let field (l : List (Nat × Nat × Nat)) : Prop := l.Pairwise FieldsApart ∧ (∀ x ∈ l, x.1 + x.2.1 ≤ 720896) ∧
      (0, 1, code) ∈ l ∧ (1, 1, if code < 8 then 1 else 0) ∈ l ∧ (2, 1, q.ecol) ∈ l ∧ (4, 2, q.pc) ∈ l ∧ (6, 1, q.lstk.length) ∈ l ∧
      (8, 8, at_) ∈ l ∧ (0x18, 2, q.p.toNat) ∈ l ∧ (0x20, 4, q.shape.toNat) ∈ l ∧ (0x30, 8, q.fstat.toNat) ∈ l ∧
      (∀ n, n < 64 → (0x400 + 8 * n, 8, (Fm.get 0 q.g n).toNat) ∈ l) ∧ (∀ n, n < 16 → (0x600 + 16 * n, 16, (Fm.get {} q.h n : Handle).bits) ∈ l) ∧
      (∀ n, n < 16 → (0x700 + 16 * n, 16, (Fm.get {} q.k n : Cap).bits.toNat) ∈ l) ∧ (∀ n, n < 16 → (0x4000 + 4096 * n, 4096, (tileOf s sid n).toNat) ∈ l) ∧
      (∀ n, n < 8 → (0x14000 + 2048 * n, 2048, (Fm.get 0 q.m n).toNat) ∈ l)
    ∃ t l, exec .fullFrameSaveEnd s = .next t ∧ (half t sid).run = .idle ∧ event s.now 8 2 .schedulerPlacement (.die (dieOf sid)) ∈ t.agenda ∧
      (q.upset = [] → (myBadRows s sid) = [] → field l ∧
        SameMemory (if code < 8 then (s.writeFrame task.part va 720896 l).noticeOf task.part 3 code sid va q.endedAt
          else if code = 9 then (s.writeFrame task.part va 720896 l).noticeOf task.part 4 9 sid va q.endedAt
          else s.writeFrame task.part va 720896 l) t) ∧
      (code < 8 → t.fatalSlots = s.fatalSlots ++ [{ part := task.part, slot := task.slot }] ∧ t.saved = s.saved) ∧
      (8 ≤ code → t.fatalSlots = s.fatalSlots ∧ ∃ x, t.saved = s.saved ++ [x] ∧ x.task = task ∧ x.full = true ∧ x.ready = false ∧ x.code = code ∧
        x.frameVa = va)) ∧
  ∀ (s : State) (part slot : Nat), s.arg = .frame part slot →
    let f : FatalSlot := { part := part, slot := slot }
    let p := partOf s part
    (f ∉ s.fatalSlots → exec .fatalFrameFree s = .next s) ∧
    (f ∈ s.fatalSlots → exec .fatalFrameFree s = .next { s with
      fatalSlots := s.fatalSlots.erase f
      parts := Fm.set s.parts part { p with slots := p.slots.erase slot }
      agenda := s.agenda ++ [event s.now 8 2 .schedulerPlacement Arg.none] })

/-- R312, R329, R330, R332, R348: a task that was saved goes on when its partition's time has come. From a full frame its registers come back
with the values of the frame, and it resumes in the same cycle at its word, timed, or untimed after a page fault, with its deadline counted
anew; from a yield frame it begins with what that holds and the start values elsewhere (log entry 90). It is saved no more. One whose half has
left its partition (R336) waits for another. -/
def Sys2Proof.Claims.SavedTasksResume : Prop :=
  ∀ (s : State) (sid : Nat), s.arg = .seq sid →
    let placed := s.saved.find? (fun x => x.home == sid && x.placed.isSome)
    (placed = Option.none → exec .fullFrameRestore s = .next s ∧ exec .taskResume s = .next s) ∧
    ∀ (x : Saved) (at_ : Nat), placed = some x → x.placed = some at_ →
      let later (i : Instr) : Ev := event (max (s.now + 1) (s.now + (at_ - s.ptime x.task.part))) 0 0 i (.seq sid)
      (s.ownsHalf x.task.part sid = false → ∀ i, i = .fullFrameRestore ∨ i = .taskResume → ∃ t, exec i s = .next t ∧ (half t sid).run = .idle ∧
        t.saved = s.saved.map fun y => if y = x then { y with placed := Option.none, anyHalf := true } else y) ∧
      (s.ownsHalf x.task.part sid = true →
      (s.ptime x.task.part < at_ → exec .fullFrameRestore s = .next (scheduled s (later .fullFrameRestore)) ∧
        exec .taskResume s = .next (scheduled s (later .taskResume))) ∧
      (at_ ≤ s.ptime x.task.part →
        (∃ t, exec .fullFrameRestore s = .next t ∧ (half t sid).run = .placed ∧ t.saved = s.saved ∧ t.mem = s.mem ∧
          (half t sid).task = { x.task with since := s.ptime x.task.part } ∧ event s.now 0 1 .taskResume (.seq sid) ∈ t.agenda ∧
          (half t sid).pc = framed s x 4 2 ∧ (half t sid).ut = bit (framed s x 7 1) 0 ∧ (half t sid).tact = bit (framed s x 7 1) 1 ∧
          (half t sid).p = BitVec.ofNat 16 (framed s x 0x18 2) ∧ (half t sid).shape = BitVec.ofNat 18 (framed s x 0x20 4) ∧
          (half t sid).fstat = BitVec.ofNat 5 (framed s x 0x30 8) ∧ (half t sid).lstk.length = min 6 (framed s x 6 1) ∧
          (∀ n, n < 64 → Fm.get 0 (half t sid).g n = BitVec.ofNat 64 (framed s x (0x400 + 8 * n) 8)) ∧
          (∀ n, n < 16 → tileOf t sid n = BitVec.ofNat 32768 (framed s x (0x4000 + 4096 * n) 4096)) ∧
          (∀ n, n < 8 → Fm.get 0 (half t sid).m n = BitVec.ofNat 16384 (framed s x (0x14000 + 2048 * n) 2048))) ∧
        (x.full = true → ∃ t, exec .taskResume s = .next t ∧ t.saved = s.saved.erase x ∧
          (x.code ≠ 9 → (half t sid).run = .run ∧ (half t sid).fpc = (half s sid).pc ∧ (half t sid).g = (half s sid).g ∧
            (half t sid).ut = (half s sid).ut ∧ (half t sid).dline = some (s.ptime (half s sid).task.part + (half s sid).ybound))) ∧
        (x.full = false → ∃ t, exec .taskResume s = .next t ∧ (half t sid).task = { x.task with since := s.ptime x.task.part } ∧
          t.saved = s.saved.erase x ∧ (∀ n, n < 29 → Fm.get 0 (half t sid).g n =
            if bit (yieldFramed s x 4 4) n then BitVec.ofNat 64 (yieldFramed s x (0xA0 + 8 * n) 8) else 0) ∧
          (yieldFramed s x 0xA 2 = 0 → x.notice = false → (half t sid).run = .run ∧ (half t sid).fpc = yieldFramed s x 0 2 ∧
            (half t sid).p = BitVec.ofNat 16 (yieldFramed s x 8 2) ∧ (half t sid).lstk.length = min 6 (yieldFramed s x 2 1) ∧
            (half t sid).ut = false ∧ (half t sid).dline = some (s.ptime x.task.part + x.ybound)))))

/-! ## Partitions -/

/-- R340, R338: CREATE and MODIFY of a record that passes the checks: a created partition is in STATE 1 with GEN 0; a change takes force at
once where it touches no busy half, is BUSY without FORCE, and with FORCE waits until those halves are free. -/
def Obligations.PartitionsAreCreated : Prop :=
  (∀ (s : State) (p force : Nat), s.arg = .partN p force →
    let st := (partOf s p).get 2 1
    let img := s.imageAtPaddr
    let r := s.recReason p img
    let free := (s.affected p img).all (fun h => (half s h).run == .idle)
    (st ≠ 0 → exec .partitionCreate s = .next (commandOutcome s 2 0)) ∧
    (st = 0 → r ≠ 0 → exec .partitionCreate s = .next (commandOutcome s 2 r)) ∧
    (st = 0 → r = 0 → ∃ t, exec .partitionCreate s = .next t ∧ t.hub = { s.hub with psRes := 0, psReason := 0 } ∧ Look s t ∧
      (partOf t p).get 2 1 = 1 ∧ (partOf t p).get 1 1 = 0 ∧ ∀ m, m ≠ p → partOf t m = partOf s m) ∧
    (st ≠ 1 → st ≠ 4 → exec .partitionModify s = .next (commandOutcome s 2 0)) ∧
    (st = 1 ∨ st = 4 → r ≠ 0 → exec .partitionModify s = .next (commandOutcome s 2 r)) ∧
    (st = 1 ∨ st = 4 → r = 0 → free = true → ∃ t, exec .partitionModify s = .next t ∧ t.hub = { s.hub with psRes := 0, psReason := 0 } ∧
      (partOf t p).modify = Option.none ∧ (partOf t p).get 1 1 = (partOf s p).get 1 1 ∧ Look s t ∧ ∀ m, m ≠ p → partOf t m = partOf s m) ∧
    (st = 1 ∨ st = 4 → r = 0 → free = false → force = 0 → exec .partitionModify s = .next (commandOutcome s 1 0)) ∧
    (st = 1 ∨ st = 4 → r = 0 → free = false → force ≠ 0 → ∃ t, exec .partitionModify s = .next t ∧ t.hub = s.hub ∧
      partOf t p = { partOf s p with modify := some img } ∧ event (s.now + 1) 8 5 .modifyApply (.part p) ∈ t.agenda ∧
      ∀ h ∈ s.affected p img, (half s h).run = .run → (half t h).slend = true)) ∧
  ∀ (s : State) (p : Nat), s.arg = .part p →
    ((partOf s p).modify = Option.none → exec .modifyApply s = .next s) ∧
    ∀ img, (partOf s p).modify = some img →
      let free := (s.affected p img).all (fun h => (half s h).run == .idle)
      (free = true → ∃ t, exec .modifyApply s = .next t ∧ t.hub = { s.hub with psRes := 0, psReason := 0 } ∧
        (partOf t p).modify = Option.none ∧ Look s t) ∧
      (free = false → ∃ t, exec .modifyApply s = .next t ∧ t.parts = s.parts ∧ event (s.now + 1) 8 5 .modifyApply (.part p) ∈ t.agenda)

/-- R340, R347, R359: STOP and MFREEZE hold placement and stop the tasks; when all have stopped the partition is in STATE 2, or its time
and its gates stand, before the gates refill (R358), in STATE 5. RELEASE and MTHAW run it again; each is invalid in another state. -/
def Sys2Proof.Claims.PartitionsStopAndAreReleased : Prop :=
  (∀ (s : State) (p k : Nat), s.arg = .partN p k →
    let st := (partOf s p).get 2 1
    let begun (i : Instr) (n : Nat) : Prop := ∃ t, exec i s = .next t ∧ t.hub = s.hub ∧ partOf t p = { partOf s p with hold := true } ∧
      event (s.now + 1) 8 5 .partitionStopComplete (.partN p n) ∈ t.agenda ∧
      ∀ h ∈ s.halvesBusy p, (half s h).run = .run → s.taking h = false → (half t h).stopp = true ∧ (half t h).run = .run
    (st = 1 ∨ st = 4 → begun .partitionStop 0 ∧ begun .mfreeze 1) ∧
    (st ≠ 1 → st ≠ 4 → exec .partitionStop s = .next (commandOutcome s 2 0) ∧ exec .mfreeze s = .next (commandOutcome s 2 0)) ∧
    (st ≠ 2 → exec .partitionRelease s = .next (commandOutcome s 2 0)) ∧
    (st = 2 → ∃ t, exec .partitionRelease s = .next t ∧ t.hub = { s.hub with psRes := 0, psReason := 0 } ∧ (partOf t p).get 2 1 = 1 ∧
      (partOf t p).hold = false ∧ Look s t ∧ ∀ x ∈ t.saved, x.task.part = p → x.code = 9 → x.ready = true) ∧
    (st ≠ 5 → exec .mthaw s = .next (commandOutcome s 2 0)) ∧
    (st = 5 → s.recReason p s.imageAtPaddr ≠ 0 → exec .mthaw s = .next (commandOutcome s 2 (s.recReason p s.imageAtPaddr))) ∧
    (st = 5 → s.recReason p s.imageAtPaddr = 0 → ∃ t c, exec .mthaw s = .next t ∧ (partOf t p).get 2 1 = 5 ∧
      event c 0 0 .freezeResume (.partN p 1) ∈ t.agenda ∧ ResumesAt t p c)) ∧
  (∀ (s : State) (p k : Nat), s.arg = .partN p k → k ≤ 1 →
    let busy := s.halvesBusy p ≠ [] ∨ (s.detachedPart p).any (·.engaged) = true
    (busy → ∃ t, exec .partitionStopComplete s = .next t ∧ t.parts = s.parts ∧
      event (s.now + 1) 8 5 .partitionStopComplete (.partN p k) ∈ t.agenda) ∧
    (¬ busy → ∃ t, exec .partitionStopComplete s = .next t ∧ t.gates = s.gates ∧
      (partOf t p).get 0x258 4 = (partOf s p).clamp.toNat ∧
      (k = 0 → (partOf t p).get 2 1 = 2 ∧ t.hub = { s.hub with psRes := 0, psReason := 0 }) ∧
      (k = 1 → (partOf t p).get 2 1 = (partOf s p).get 2 1 ∧ event (s.now + 1) 7 (2 ^ 80) .partitionStopComplete (.partN p 3) ∈ t.agenda))) ∧
  ∀ (s : State) (p : Nat), s.arg = .partN p 3 → ∃ t, exec .partitionStopComplete s = .next t ∧ t.hub = { s.hub with psRes := 0, psReason := 0 } ∧
    (partOf t p).get 2 1 = 5 ∧ (partOf t p).stood = some (s.ptime p) ∧ ∀ n, (gateNo s n).owner = p → (gateNo s n).st = 1 → (gateNo t n).st = 2

/-- R342, R343, R345, R346: RESET and DESTROY advance GEN and set STATE 3; 20 cycles later the partition's work is discarded, its halves are
idle and its keys are new; the SRAM wipe, which leaves its halves' registers 0, ends within 65,536 cycles, and no later than it the whole
wipe, which leaves it in STATE 2, in STATE 4 where a loss meanwhile left it below a minimum (R350), or free after a DESTROY. -/
def Obligations.PartitionsAreReset : Prop :=
  (∀ (s : State) (p k : Nat), s.arg = .partN p k →
    let st := (partOf s p).get 2 1
    let begun (i : Instr) (d : Bool) : Prop := ∃ t, exec i s = .next t ∧ (partOf t p).get 2 1 = 3 ∧
      (partOf t p).get 1 1 = ((partOf s p).get 1 1 + 1) % 256 ∧ (partOf t p).destroying = d ∧ t.hub = s.hub ∧
      t.agenda = s.agenda ++ [event (s.now + 20) 0 0 .resetQuiesce (.part p)]
    (st ≠ 1 → st ≠ 2 → st ≠ 4 → exec .partitionReset s = .next (commandOutcome s 2 0)) ∧
    (st = 1 ∨ st = 2 ∨ st = 4 → s.oldWork p = true → exec .partitionReset s = .next (commandOutcome s 1 0)) ∧
    (st = 1 ∨ st = 2 ∨ st = 4 → s.oldWork p = false → begun .partitionReset false) ∧
    (st = 0 → exec .partitionDestroy s = .next (commandOutcome s 2 0)) ∧
    (st = 3 → ∃ t, exec .partitionDestroy s = .next t ∧ (partOf t p).destroying = true ∧ t = { s with parts := t.parts }) ∧
    (st ≠ 0 → st ≠ 3 → s.oldWork p = true → ∃ t, exec .partitionDestroy s = .next t ∧ t.hub = { s.hub with psRes := 1, psReason := 0 } ∧
      (partOf t p).get 2 1 = st ∧ t.agenda = s.agenda) ∧
    (st ≠ 0 → st ≠ 3 → s.oldWork p = false → begun .partitionDestroy true)) ∧
  (∀ (s : State) (p : Nat), s.arg = .part p →
    (∃ t c d, exec .resetQuiesce s = .next t ∧ s.now < c ∧ c ≤ s.now + 65536 ∧ c ≤ d ∧ event c 8 0 .resetWipeComplete (.partN p 1) ∈ t.agenda ∧
      event d 8 1 .resetWipeComplete (.part p) ∈ t.agenda ∧
      (∀ l ∈ t.pool, l.part ≠ p) ∧ (∀ x ∈ t.saved, x.task.part ≠ p) ∧ (∀ h ∈ s.halvesOf p, (half t h).run = .idle) ∧
      (∀ k ∈ recKeys (partOf s p).img, s.keyNext < Fm.get 0 t.keys k) ∧ t.mem = s.mem) ∧
    ∃ t, exec .resetWipeComplete s = .next t ∧ Look s t ∧
      ((partOf s p).destroying = false → (partOf s p).loss = Option.none ∨ recBreach (partOf s p).img = 0 → (partOf t p).get 2 1 = 2) ∧
      ((partOf s p).destroying = false → (partOf s p).loss ≠ Option.none → recBreach (partOf s p).img ≠ 0 → (partOf t p).get 2 1 = 4) ∧ ((partOf s p).destroying = true → (partOf t p).get 2 1 = 0)) ∧
  ∀ (s : State) (p k : Nat), s.arg = .partN p k → ∃ t, exec .resetWipeComplete s = .next t ∧ (∀ e ∈ t.syncs, e.2.part ≠ p) ∧
    (∀ h ∈ s.halvesOf p, (half t h).g = [] ∧ (half t h).v = [] ∧ (half t h).p = 0 ∧ (half t h).h = []) ∧ t.parts = s.parts

/-- R304, R333: a debug freeze begins at the Beacon value that it names, at once where that is past (log entry 69); partition time then
stands, no sequencer of the partition runs, and its accesses under way complete within 420 cycles (R265, log entry 107). It ends at the first
Beacon value that lies a multiple of 1,024 from that of the freeze, and partition time goes on from where it stood. In STATE 0 or 3 a
freeze is ignored, and a resume of what is not frozen (the model's choice, log entry 69). -/
def Sys2Proof.Claims.PartitionTimeStands : Prop :=
  (∀ (s : State) (p f : Nat), s.arg = .freeze p f →
    let st := (partOf s p).get 2 1
    exec .debugFreezeRequest s = .next (scheduled s (event (s.now + (f - s.beaconOf 8)) 0 0 .freezeBegin (.freeze p f))) ∧
    ((partOf s p).stood ≠ Option.none ∨ st = 0 ∨ st = 3 → exec .freezeBegin s = .next s) ∧
    ((partOf s p).stood = Option.none → st ≠ 0 → st ≠ 3 → ∃ t, exec .freezeBegin s = .next t ∧
      t = { s with
        seqs := t.seqs, agenda := t.agenda, parts := Fm.set s.parts p { partOf s p with stood := some (s.ptime p), settle := s.now + 420 } } ∧
      (∀ e ∈ t.agenda, ∀ a, e.arg = .access a → a.part = p → e.ins = .accessHomeCycle → e.cyc ≤ s.now + 420) ∧
      (∀ e ∈ t.agenda, ∀ a x l b d, e.arg = .deliver a x l b d → a.part = p → e.cyc ≤ s.now + 420) ∧
      ∀ sid, (half s sid).task.part = p → sid % 16 ≠ 8 → (half t sid).run ≠ .run)) ∧
  (∀ (s : State) (p : Nat), s.arg = .part p →
    ((partOf s p).stood = Option.none ∨ (partOf s p).get 2 1 = 5 → exec .debugResumeRequest s = .next s) ∧
    ((partOf s p).stood ≠ Option.none → (partOf s p).get 2 1 ≠ 5 → ∃ c, ResumesAt s p c ∧
      exec .debugResumeRequest s = .next (scheduled s (event c 0 0 .freezeResume (.partN p 0))))) ∧
  ∀ (s : State) (p k : Nat), s.arg = .partN p k →
    ((partOf s p).stood = Option.none → exec .freezeResume s = .next s) ∧
    ∀ v, (partOf s p).stood = some v → ∃ t, exec .freezeResume s = .next t ∧ (partOf t p).stood = Option.none ∧ Look s t ∧
      (k = 0 → v < 2 ^ 64 → (partOf t p).get 0x268 8 = (s.beaconOf 8 + 2 ^ 64 - v) % 2 ^ 64) ∧
      (∀ sid, (half s sid).task.part = p → sid % 16 ≠ 8 → (half s sid).run = .halted → (half t sid).run = .run) ∧
      (k = 0 → p ≠ 63 → v < 2 ^ 64 → t.ptime p = v) ∧ (k ≠ 0 → (partOf t p).get 2 1 = 1)

/-- R336, R349, R350: a cluster or a slice pair that is retired is replaced by its die's spare. Where that is used, its owners lose it: a
domain with a slice of the pair goes out of service (log entry 74). -/
def Sys2Proof.Claims.ResourcesRetire : Prop :=
  ∀ (s : State) (die n : Nat),
    (s.arg = .retire die false n → 32 * die + n ∉ s.lostSlices →
      (die ∉ s.sparePair → ∃ t, exec .resourceRetire s = .next t ∧ t.sparePair = s.sparePair ++ [die] ∧ t.lostSlices = s.lostSlices) ∧
      (die ∈ s.sparePair → ∃ t, exec .resourceRetire s = .next t ∧ t.sparePair = s.sparePair ∧
        t.lostSlices = s.lostSlices ++ [32 * die + n / 2 * 2, 32 * die + n / 2 * 2 + 1] ∧
        (∀ k, k < 16 → (s.dom die k).first ≤ n → n < (s.dom die k).first + 2 ^ (s.dom die k).l2c → (t.dom die k).v = false) ∧
        ∀ p, s.sliceOwner die n = some p → die < 8 → n < 32 → bit ((partOf t p).get (0x110 + 4 * die) 4) n = false)) ∧
    (s.arg = .retire die true n → 36 * die + n ∉ s.retiring → 36 * die + n ∉ s.lostClusters → (∀ c, c < 36 → s.clusterTenants die c ≤ 1) →
      (die ∉ s.spareCluster → ∃ t, exec .resourceRetire s = .next t ∧ t.spareCluster = s.spareCluster ++ [die] ∧
        t.lostClusters = s.lostClusters) ∧
      (die ∈ s.spareCluster → ∃ t, exec .resourceRetire s = .next t ∧ t.spareCluster = s.spareCluster ∧
        t.lostClusters = s.lostClusters ++ [36 * die + n]))

namespace Sys2Proof.Claims

/-- Domain block `k` of a die (R273). -/
def domain (s : State) (die k : Nat) : Dom := Fm.get (Dom.reset die k) s.doms (16 * die + k)
/-- The state with a domain block replaced and nothing else changed. -/
def withDomain (s : State) (die k : Nat) (d : Dom) : State := { s with doms := Fm.set s.doms (16 * die + k) d }
/-- A link (R389), whose reset PEER is its number. -/
def linkNo (s : State) (n : Nat) : Link := Fm.get { peer := n } s.links n
/-- The state with a link replaced and nothing else changed. -/
def withLink (s : State) (n : Nat) (l : Link) : State := { s with links := Fm.set s.links n l }
/-- The state with the registers of the hub replaced and nothing else changed. -/
def withHub (s : State) (h : Hub) : State := { s with hub := h }

/-- The held requests of a die whose addresses a block in service and not busy now covers (R276, R431). -/
def servedAgain (s : State) (die : Nat) : List Held := s.replays.filter fun h => h.die == die && (s.heldAt h.addr).isNone
/-- The state in which those have their replay cycle now, in arrival order and ahead of new requests. -/
def afterReplay (s : State) (die : Nat) : State :=
  { s with replays := s.replays.filter (fun h => !(servedAgain s die).contains h)
           agenda := s.agenda ++ (servedAgain s die).map fun h => event s.now (max 4 h.cls) 0 h.ins h.arg }

/-- The next join is due (R120): every word before it has issued, and nothing holds the sequencer. -/
abbrev JoinDue (s : State) (q : Seq) (j : Join) : Prop :=
  q.run = .run ∧ q.seam = false ∧ q.waitb = none ∧ q.heldAt ≠ some s.now ∧ (∀ e ∈ q.ahead, j.after ≤ e.fo) ∧
    (j.op = .plain ∨ q.lastIssue + 1 ≤ s.now - q.slip)

end Sys2Proof.Claims

/-! ## L2 domains, reduction groups, links, dies -/

/-- R276: a write of DCFG sets ERR for a LOG2CNT above 4 and for fields that differ while V = 1; while V = 0 it loads the fields. V := 0 takes
the domain out of service. V := 1 is refused with ERR, or brings it into service, its lines dropped and its retention ended, after 6,144
cycles of BSY where it changed; where nothing changed, BSY stays as it is and what was held is served. -/
def Sys2Proof.Claims.DomainsAreConfigured : Prop :=
  ∀ (s : State) (die k r : Nat) (x : W64), s.arg = .dcfg die k r x →
    let v := x.toNat
    let d := domain s die k
    let l2c := if 4 < bits v 5 3 then d.l2c else bits v 5 3
    let differs := bits v 0 5 ≠ d.first ∨ l2c ≠ d.l2c ∨ bits v 9 6 ≠ d.part
    let err : Bool := (d.err && !bit v 17) || decide (4 < bits v 5 3) || (decide differs && d.v)
    let loaded : Dom := { d with first := bits v 0 5, l2c := l2c, part := bits v 9 6, err := err }
    let u := withDomain s die k loaded
    (d.v = true → bit v 8 = true → exec .dcfgWrite s = .next (withDomain s die k { d with err := err })) ∧
    (d.v = true → bit v 8 = false → exec .dcfgWrite s = .next (withDomain s die k { d with err := err, v := false })) ∧
    (d.v = false → bit v 8 = false → exec .dcfgWrite s = .next u) ∧
    (d.v = false → bit v 8 = true → u.enableRefused die k = true → exec .dcfgWrite s = .next (withDomain s die k { loaded with err := true })) ∧
    (d.v = false → bit v 8 = true → u.enableRefused die k = false → d.force ≠ some (bits v 0 5, l2c, d.hm) →
      ∃ t, exec .dcfgWrite s = .next t ∧ (domain t die k).v = true ∧ (domain t die k).bsy = true ∧ t.mem = s.mem ∧ t.seqs = s.seqs ∧
        (∀ n, (Fm.get {} (domain t die k).rtn n : Rtn).v = false) ∧ t.replays = s.replays ∧
        (∀ e ∈ t.l2, e.1 / 8192 / 32 = die → e.1 / 8192 % 32 < bits v 0 5 ∨ bits v 0 5 + 2 ^ l2c ≤ e.1 / 8192 % 32) ∧
        event (s.now + 6144) 4 0 .domainBsyEnd (.dcfg die k 4 0) ∈ t.agenda) ∧
    let back : Dom := { loaded with v := true }
    (d.v = false → bit v 8 = true → u.enableRefused die k = false → d.force = some (bits v 0 5, l2c, d.hm) →
      exec .dcfgWrite s = .next (afterReplay (withDomain s die k back) die))

/-- R276, R282, R374: the masks of a domain and the shape of a reduction group are written only while it is out of service; a retention
register is refused with ERR where more than 12 ways would be reserved. When BSY ends the domain serves again, what was held first. -/
def Sys2Proof.Claims.ConfigurationIsGuarded : Prop :=
  ∀ (s : State) (die k r : Nat) (x : W64), s.arg = .dcfg die k r x →
    let v := x.toNat
    let d := domain s die k
    let n := (r - 8) / 3
    let old : Rtn := Fm.get {} d.rtn n
    let new : Rtn :=
      if (r - 8) % 3 = 0 then { old with base := bits v 6 46 * 64 }
      else if (r - 8) % 3 = 1 then { old with last := bits v 6 46 * 64 }
      else { old with ways := bits v 0 16, v := bit v 16, grant := bits v 17 6, gv := bit v 23 }
    let g := group s k
    let shape : Coll := { g with
      owner := bits v 0 6, sys := bit v 7, ncont := bits v 8 16, shape := bits v 24 18, t := bits v 42 8, rfmt := bits v 50 4, root := bits v 54 4 }
    let named : Coll := if g.v then g else shape
    exec .hmaskWrite s = .next (withDomain s die k (if d.v then { d with err := true } else { d with hm := d.hm.set r (v % 2 ^ 30) })) ∧
    (12 < popcount (d.unionWith n new) 16 → exec .rtnWrite s = .next (withDomain s die k { d with err := true })) ∧
    (popcount (d.unionWith n new) 16 ≤ 12 → ∃ t, exec .rtnWrite s = .next t ∧ t = { s with doms := t.doms, l2 := t.l2 } ∧
      domain t die k = { d with rtn := Fm.set d.rtn n new }) ∧
    exec .domainBsyEnd s = .next (afterReplay (withDomain s die k { d with bsy := false }) die) ∧
    exec .collGroupWrite s = .next { s with colls := Fm.set s.colls k (
      if r = 1 then (if g.v then g else { g with mods := bits v 0 16 })
      else if bit v 6 then { named with v := true, round := 0, open_ := [], next := [], held := [] } else { named with v := false }) }

/-- R263, R386 to R388, R392, R393: an accepted packet goes to its unit. An entry or a credit is acknowledged; one with a number that came
before is discarded, any other follows after the equalising delay LAT − MEAS, over the alternate path after a delay that is not known here.
An acknowledgement ends what waited for it. A flit that fails its check is counted and replayed, and the eighth within 1,024 cycles fails the
link; so does a receiver that has seen nothing valid for 64 cycles. A failed link is down, and where it has an alternate path the failover
follows within 2,048 cycles. -/
def Sys2Proof.Claims.FlitsAreReceived : Prop :=
  (∀ (s : State) (n : Nat) (ok : Bool) (p : Packet), s.arg = .flit n ok p →
    let l := linkNo s n
    let usable := l.en = true ∧ l.xp = false ∧ (l.up = true ∨ l.alt = true)
    let u := withLink s n { l with heard := s.now }
    let now (cls key : Nat) (i : Instr) : State := scheduled u (event s.now cls key i (.packet p))
    let recent := s.now :: l.replays.filter (fun c => decide (s.now < c + 1024))
    let r : RPath := Fm.get {} s.rpaths (2 ^ 41 + p.src)
    let ack : Packet := { op := 15, src := s.hub.modn, dst := p.src, pseq := p.pseq, link := n }
    let acked : State := { u with outbox := s.outbox ++ [{ ack with dep := leaves u p.src }] }
    let first : State := { acked with rpaths := Fm.set s.rpaths (2 ^ 41 + p.src) { r with seen := r.seen ++ [p.pseq] } }
    let arrival (c : Nat) : Ev := if p.op = 9 then event c 1 0 .linkEntryArrival (.packet { p with link := n })
      else event c 1 0 .queueCreditArrival (.credit 0 1 0 n p.lane 0 p.part)
    (¬ usable → exec .flitReceive s = .next s) ∧
    (usable → ok = true →
      (p.op = 0 ∨ p.op = 2 ∨ p.op = 3 ∨ p.op = 4 ∨ p.op = 12 → exec .flitReceive s = .next (now 4 (agentKey p.src p.pseq) .remoteOpExecute)) ∧
      (p.op = 1 ∨ p.op = 5 ∨ p.op = 13 ∨ p.op = 14 → exec .flitReceive s = .next (now 4 (agentKey p.src p.pseq) .remoteStoreArrival)) ∧
      (p.op = 6 ∨ p.op = 7 → exec .flitReceive s = .next (now 1 0 .remoteReplyArrival)) ∧
      (p.op = 8 → exec .flitReceive s = .next (now 1 0
        (if (s.awaiting.find? (fun w => w.pkt.id == p.id)).any (fun w => w.pkt.op == 1) then .wstErrorCompletion else .remoteReplyArrival))) ∧
      (p.op = 9 ∨ p.op = 10 → (p.pseq ∈ r.seen → exec .flitReceive s = .next acked) ∧
        (p.pseq ∉ r.seen → l.alt = false → exec .flitReceive s = .next (scheduled first (arrival (s.now + (l.lat - l.meas))))) ∧
        (p.pseq ∉ r.seen → l.alt = true → ∃ t c, exec .flitReceive s = .next t ∧ s.now ≤ c ∧
          t = { scheduled first (arrival c) with choices := t.choices, drawn := t.drawn })) ∧
      (p.op = 11 → exec .flitReceive s = .next (now 4 (p.id % 4096) .collRoundComplete)) ∧
      (p.op = 15 → exec .flitReceive s = .next (withLink s n { l with
        heard := s.now, sent := l.sent.filter (fun x => x.2.2.num != some p.pseq), owed := l.owed.filter (fun x => x.pseq != p.pseq) })) ∧
      (p.op = 16 → exec .flitReceive s = .next u)) ∧
    (usable → ok = false → exec .flitReceive s = .next { withLink s n { l with replay := l.replay + 1, replays := recent } with
      agenda := s.agenda ++ if 8 ≤ recent.length then [event s.now 7 n .linkFail (.link n)] else [] })) ∧
  ∀ (s : State) (n : Nat), s.arg = .link n ∨ s.arg = .silence n →
    let l := linkNo s n
    let down := { l with up := false, fail := true, replays := [] }
    let fails := s.arg = .link n ∨ l.heard + 64 ≤ s.now
    (l.up = false → exec .linkFail s = .next s) ∧
    (l.up = true → ¬ fails → exec .linkFail s = .next (scheduled s (event (l.heard + 64) 7 n .linkFail (.silence n)))) ∧
    (l.up = true → fails → l.alten = false → exec .linkFail s = .next (withLink s n down)) ∧
    (l.up = true → fails → l.alten = true → ∃ t c, exec .linkFail s = .next t ∧ s.now ≤ c ∧ c ≤ s.now + 2048 ∧
      t = { scheduled (withLink s n down) (event c 7 n .linkFailover (.link n)) with choices := t.choices, drawn := t.drawn })

/-- R398: a die reset is refused for H and for a die with tasks; for a DIE that names no die and while another reset runs it is refused
too, which is the model's choice (log entry 89); else the die is fenced 20 cycles later and resets 64
cycles after that; its sequencers then hold nothing, its scratchpads are 0, nothing waits on it, and at the end it is fenced no more and takes the hub's Beacon. -/
def Obligations.DiesAreReset : Prop :=
  ∀ (s : State) (n : Nat), s.arg = .die n →
    let busy := s.seqs.any (fun e => e.1 % 16 == n && !(e.1 % 16 == 8) && e.2.run != .idle)
    (8 ≤ n ∨ busy = true ∨ s.hub.drstBusy = true → exec .dieReset s = .next (withHub s { s.hub with drstRef := true })) ∧
    (n < 8 → busy = false → s.hub.drstBusy = false → exec .dieReset s = .next
      (scheduled (withHub s { s.hub with drstBusy := true }) (event (s.now + 20) 0 0 .dieResetFence (.die n)))) ∧
    exec .dieResetFence s = .next { s with fenced := Fm.set s.fenced n s.now, agenda := s.agenda ++ [event (s.now + 64) 0 0 .dieResetExecute (.die n)] } ∧
    (∃ t c, exec .dieResetExecute s = .next t ∧ s.now < c ∧ event c 0 0 .dieResetComplete (.die n) ∈ t.agenda ∧
      (∀ sid, sid % 16 = n → (half t sid).g = [] ∧ (half t sid).run = .idle ∧ (half t sid).v = []) ∧
      (∀ sid, sid % 16 ≠ n → half t sid = { half s sid with outst := (half t sid).outst }) ∧ (∀ d ∈ t.doms, d.1 / 16 ≠ n) ∧
      (∀ e ∈ t.l2, e.1 / 8192 / 32 ≠ n) ∧ (∀ h ∈ t.replays, h.die ≠ n) ∧ (∀ e ∈ t.syncs, homeDie (16 * e.1) ≠ n) ∧
      ∀ x a, n < 4 → x < 36 → a < 4194304 → Memory.byte t.spad ((36 * n + x) * 4194304 + a) = 0) ∧
    ∃ t, exec .dieResetComplete s = .next t ∧ t.hub = { s.hub with drstBusy := false } ∧ Fm.get 0 t.fenced n = 0 ∧ Look s t ∧ t.mem = s.mem ∧
      ((s.beacon.find? (fun e => e.1 == 8)).isSome = true → t.beaconOf n = s.beaconOf 8)

/-! ## Fetch and the passage of a sequencer -/

/-- R12, R92, R93, R314: the fetch unit of a running sequencer reads on: words of its instruction store join its column queues, eight to a
cycle, or wait behind a full one, and nothing else of the state changes; it reads at least the word at its index, where nothing holds it. An
index out of range ends what it reads. A sequencer that does not run fetches nothing. -/
def Sys2Proof.Claims.FetchReadsAhead : Prop :=
  ∀ (s : State) (sid : Nat), s.arg = .seq sid →
    let q := half s sid
    (q.run ≠ .run → exec .fetchWords s = .next s) ∧
    (q.run = .run → ∃ t, exec .fetchWords s = .next t ∧ (t = s ∨ ∃ r l, t = withSeq s sid r ∧ Fetching q r ∧ r.ahead = q.ahead ++ l ∧
      ∀ e ∈ l, e.oor = false → s.fetchAt sid e.pc = some e.w ∧ e.col = engOf e.w ∧ e.dly = dlyOf e.w)) ∧
    (q.run = .run → q.fhold = false → q.fstop = false → q.bq = [] → ∃ t r e l, exec .fetchWords s = .next t ∧ t = withSeq s sid r ∧
      r.ahead = q.ahead ++ e :: l ∧ e.pc % 65536 = q.fpc % 65536 ∧ e.fo = q.ffo ∧
      (∀ w, s.fetchAt sid q.fpc = some w → e.oor = false ∧ e.w = w ∧ e.col = engOf w ∧ e.dly = dlyOf w ∧
        (takesLiteral w = true → e.lit = s.fetchAt sid (q.fpc + 1)) ∧ (q.fq.countP (fun x => x.col == engOf w) < 32 → e ∈ r.fq ∧ e.arr = q.fbase + q.fpos / 8)) ∧
      (s.fetchAt sid q.fpc = none → e.oor = true ∧ l = []))

/-- R316, R317: a word that is due before it has come to its queue is a violation of a sequencer in timed mode: the event 0x12 in TRAP mode,
once; a held cycle in STALL mode; nothing in untimed mode. -/
def Sys2Proof.Claims.StarvationIsAViolation : Prop :=
  ∀ (s : State) (sid fo : Nat), s.arg = .seqN sid fo →
    let q := half s sid
    ((∀ e ∈ q.ahead, e.fo ≠ fo) → exec .fetchStarvation s = .next s) ∧
    ∀ e, q.ahead.find? (fun e => e.fo == fo) = some e →
      let mark (x : QWord) : QWord := if x.fo = fo then { x with posted := x.posted || q.trapMode, tried := some s.now } else x
      let posted := q.post 0x12 e.col
      (q.ut = true ∨ (q.trapMode = true ∧ e.posted = true) ∨ (q.trapMode = false ∧ q.heldAt = some s.now) → exec .fetchStarvation s = .next (withSeq s sid { q with fq := q.fq.map mark, bq := q.bq.map mark })) ∧
      (q.ut = false → q.trapMode = true → e.posted = false → exec .fetchStarvation s = .next (withSeq s sid { posted with fq := q.fq.map mark, bq := q.bq.map mark })) ∧
      (q.ut = false → q.trapMode = false → q.heldAt ≠ some s.now → exec .fetchStarvation s = .next (withSeq s sid { heldOnce s q with fq := q.fq.map mark, bq := q.bq.map mark }))

/-- R115, R119, R120, R130, R315, R326: at a join that is due, the words behind it may issue from the next cycle, or later where the chain of
their column says so, and the loop stack takes its new value;
at a join of a loop the lowest pending event is delivered, or ends the task where no handler is named. A loop level with a double-bit
error that the join reads is recorded (R334). -/
def Sys2Proof.Claims.IterationsPass : Prop :=
  ∀ (s : State) (sid : Nat), s.arg = .seq sid →
    let q := half s sid
    (q.joins = [] → exec .iterationBoundary s = .next s) ∧
    ∀ (j : Join) (r : List Join), q.joins = j :: r →
      let q' : Seq := { q with
        joins := r, grp := j.grp, floor := max q.floor (q.lastIssue + 1), lstk := applyJoin j.op q.lstk }
      let reads : Prop := j.op ≠ .plain ∧ j.op ≠ .first ∧ ∃ n, Spot.level n ∈ q.upset
      (¬ JoinDue s q j → exec .iterationBoundary s = .next s) ∧
      (JoinDue s q j → reads → ∃ t, exec .iterationBoundary s = .next t ∧
        event s.now 4 sid .resultLanding (.land sid [.errs 0 0xFFFFFFF]) ∈ t.agenda) ∧
      (JoinDue s q j → ¬ reads → j.op = .plain ∨ q.tact = true ∨ q.pend = [] → exec .iterationBoundary s = .next (withSeq s sid q')) ∧
      (JoinDue s q j → ¬ reads → j.op ≠ .plain → ∀ e, Delivers q e → ∃ t, exec .iterationBoundary s = .next t ∧ Delivered (withSeq s sid q') t sid e j.pc) ∧
      (JoinDue s q j → j.op ≠ .plain → q.tact = false → q.pend ≠ [] → q.tvec = 0 → sid % 16 ≠ 8 → ∃ t, exec .iterationBoundary s = .next t ∧
        (half t sid).run = .ending 7 ∧ (half t sid).pc = j.pc % 2 ^ 16 ∧ event s.now 8 sid .fullFrameSave (.half sid 7) ∈ t.agenda)

/-- R119: what a join does to LSTK: an iteration advances the innermost level's INDEX, an end of levels pops them, and the next outer level
goes on with its next iteration where its body ends there too. -/
def Sys2Proof.Claims.JoinsKeepTheLoopStack : Prop :=
  ∀ (l m : List LoopLevel) (x : LoopLevel),
    applyJoin .plain l = l ∧ applyJoin .first l = l ∧ applyJoin .advance (l ++ [x]) = l ++ [{ x with index := x.index + 1 }] ∧
    applyJoin (.pop m.length false) (l ++ m) = l ∧
    applyJoin (.pop m.length true) (l ++ [x] ++ m) = l ++ [{ x with index := x.index + 1 }]

/-- R123, R320: a task that has issued no YIELD by its deadline ends with the deadline fault, code 5; one whose deadline was armed anew, or
whose partition's time has not come, goes on. -/
def Sys2Proof.Claims.DeadlinesExpire : Prop :=
  ∀ (s : State) (sid at_ : Nat), s.arg = .seqN sid at_ →
    let q := half s sid
    let runs := q.run = .run ∨ q.run = .halted
    (q.dline ≠ some at_ ∨ ¬ runs → exec .deadlineFault s = .next s) ∧
    (q.dline = some at_ → runs → s.ptime q.task.part < at_ → exec .deadlineFault s = .next
      (scheduled s (event (max (s.now + 1) (s.now + (at_ - s.ptime q.task.part))) 9 sid .deadlineFault (.seqN sid at_)))) ∧
    (q.dline = some at_ → runs → at_ ≤ s.ptime q.task.part → sid % 16 ≠ 8 → ∃ t, exec .deadlineFault s = .next t ∧
      (half t sid).run = .ending 5 ∧ (half t sid).ecol = 0 ∧ (half t sid).fq = [] ∧ event s.now 8 sid .fullFrameSave (.half sid 5) ∈ t.agenda ∧
      (half t sid).pc = (match q.fq with
        | e :: _ => e.pc
        | [] => q.fpc) % 2 ^ 16)

namespace Sys2Proof.Claims

/-- A virtual function's registers (R402). -/
def function (s : State) (f : Nat) : Vf := Fm.get {} s.vfs f
/-- The state with a function's registers replaced and nothing else changed. -/
def withFunction (s : State) (f : Nat) (v : Vf) : State := { s with vfs := Fm.set s.vfs f v }
/-- The partition to which a function is bound (R341), once the host is let in (R417: not before boot step 7). -/
def boundTo (s : State) (f : Nat) : Option Nat :=
  if s.bootStep < 7 then none else (s.parts.find? (fun e => e.2.get 2 1 != 0 && bit (e.2.get 0x200 16) f)).map (·.1)
/-- The index after `n` in a ring of SIZE + 1 entries (R402). -/
def nextIn (v : Vf) (n : Nat) : Nat := if v.sqn ≤ n then 0 else n + 1

/-- A doorbell write names no entry that is left to read: its function's ring is not in service, or has been read up to that TAIL, or the
TAIL lies beyond SIZE (log entry 47). -/
def leftNothing (s : State) (b : Nat × Nat × Nat) : Bool :=
  let v := function s b.1
  !v.en || (boundTo s b.1).isNone || v.sqh == b.2.1 || decide (v.sqn < b.2.1)
/-- The hub goes on to the oldest doorbell write that has an entry left, 16 cycles after the last entry of its function (R403, R404). -/
def onward (s : State) : State :=
  let l := s.bells.dropWhile (leftNothing s)
  let u : State := { s with bells := l }
  match l with
  | [] => u
  | b :: _ => if s.agenda.any (fun e => decide (e.ins = .sqDoorbell) && decide (e.arg = .id b.1)) then u
    else scheduled u (event (max s.now (function s b.1).next) 4 hostKey .sqDoorbell (.id b.1))
/-- A doorbell write takes its place behind those that came before it. -/
def rung (s : State) (f : Nat) : State := onward { s with bells := s.bells ++ [(f, (function s f).sqt, s.now)] }

/-- A completion of a submission is in the function's ring, or dropped with OVF where the ring is full (R402, R403). -/
def Completed (s t : State) (f : Nat) (e : BlockBits) (status reason value : Nat) : Prop :=
  let v := function s f
  let at_ := v.cqb + 16 * v.cqt
  (nextIn v v.cqt = v.cqh → function t f = { v with ovf := true } ∧ t.hostMem = s.hostMem) ∧
  (nextIn v v.cqt ≠ v.cqh → function t f = { v with cqt := nextIn v v.cqt } ∧ Memory.read t.hostMem at_ 2 = bits e.toNat 16 16 ∧
    Memory.read t.hostMem (at_ + 2) 1 = status ∧ Memory.read t.hostMem (at_ + 3) 1 = reason ∧
    Memory.read t.hostMem (at_ + 8) 8 = value % 2 ^ 64)

/-- The module stops at once: nothing is ahead of it and no sequencer runs; BOOTST says why (R417, R418). -/
def stoppedBy (s : State) (why : Nat) : State :=
  { s with stopped := true, agenda := [], bootst := BitVec.ofNat 16 why,
           seqs := s.seqs.map (fun e => (e.1, { e.2 with run := .idle, fq := [], joins := [] })) }

/-- A boot step ends within its bound, where it has one (R417). -/
def StepEnds (s t : State) (n : Nat) : Prop :=
  ∃ c, s.now < c ∧ event c 0 0 .powerOnReset (.id n) ∈ t.agenda ∧
    ∀ b, [2 ^ 20, 2 ^ 24, 2 ^ 28, 2 ^ 24, 2 ^ 20, 2 ^ 30][n - 1]? = some b → c ≤ s.now + b

end Sys2Proof.Claims

/-! ## The host, the fuses, the boot -/

/-- R401, R402: a host's write of a register of an unbound function is dropped; SQB, SQN and CQB are written while the rings are out of
service; STAT takes EN and clears OVF; a doorbell sets SQT, and in either case the hub begins to read where there are entries. -/
def Sys2Proof.Claims.FunctionsAreWritten : Prop :=
  ∀ (s : State) (f reg : Nat) (x : W64), s.arg = .vf f reg x →
    let v := function s f
    let w := x.toNat
    let bound := boundTo s f ≠ Option.none
    let set (u : Vf) : State := withFunction s f u
    let stat : Vf := { v with en := bit w 0, ovf := v.ovf && !bit w 1 }
    (¬ bound → exec .vfRegisterWrite s = .next s ∧ exec .sqDoorbell s = .next s) ∧
    (bound → reg = 0x000 → exec .vfRegisterWrite s = .next (if v.en then s else set { v with sqb := w / 64 * 64 })) ∧
    (bound → reg = 0x008 → exec .vfRegisterWrite s = .next (if v.en then s else set { v with sqn := w % 4096 })) ∧
    (bound → reg = 0x020 → exec .vfRegisterWrite s = .next (if v.en then s else set { v with cqb := w / 16 * 16 })) ∧
    (bound → reg = 0x028 → v.en = false ∨ w % 4096 ≤ v.sqn → exec .vfRegisterWrite s = .next (set { v with cqh := w % 4096 })) ∧
    (bound → reg = 0x038 → exec .vfRegisterWrite s = .next (if bit w 0 && !v.en then rung (set stat) f else set stat)) ∧
    (bound → reg ∉ [0x000, 0x008, 0x020, 0x028, 0x038] → exec .vfRegisterWrite s = .next s) ∧
    (bound → exec .sqDoorbell s = .next (rung (set { v with sqt := w % 4096 }) f))

/-- R402, R403, R404: the hub reads the next entry of the oldest doorbell write, at the earliest 16 cycles after the last one of its
function, when the host writes that came before that doorbell are at their homes and no earlier entry is under way. The entry goes to the unit
of its opcode, or is completed as unknown with status 3, and the hub goes on. -/
def Sys2Proof.Claims.SubmissionsAreRead : Prop :=
  ∀ (s : State) (f : Nat), s.arg = .id f →
    let v := function s f
    let e := BitVec.ofNat 512 (Memory.read s.hostMem (v.sqb + 64 * v.sqh) 64)
    let row : Option Instr := [Option.none, some .hostLoad, some .hostLaunch, some .hostRelease, some .hostUnload, some .hostQuote][e.toNat % 256]?.join
    let u := withFunction s f { v with sqh := nextIn v v.sqh, next := s.now + 16 }
    (s.bells = [] → exec .sqDoorbell s = .next s) ∧
    ∀ b r, s.bells = b :: r →
      let waits := s.now < v.next ∨ s.hostWriting b.2.2 = true ∨ s.entryWaits = true
      (b.1 ≠ f ∨ leftNothing s b = true → exec .sqDoorbell s = .next (onward s)) ∧
      (b.1 = f → leftNothing s b = false → waits → exec .sqDoorbell s = .next
        (scheduled s (event (max (s.now + 1) v.next) 4 hostKey .sqDoorbell (.id f)))) ∧
      (b.1 = f → leftNothing s b = false → ¬ waits →
        (∀ i, row = some i → exec .sqDoorbell s = .next (onward (scheduled u (event s.now 4 (hostKey + 1) i (.sub f e))))) ∧
        (row = Option.none → ∃ t w, exec .sqDoorbell s = .next t ∧ Completed u w f e 3 0 0 ∧ w.bells = s.bells ∧ w.agenda = s.agenda ∧ t = onward w))

/-- R276, R403, R404, R407, R408, R411: the submissions of the host and their completions: LOAD, refused for an image that is there, for its
place, by the first check of R407 that fails and where no area is left that nothing may write, else done; LAUNCH, refused where the pool is full; RELEASE of an object; UNLOAD, busy while the image
is in use; QUOTE. A function that is not bound has none. -/
def Obligations.SubmissionsComplete : Prop :=
  ∀ (s : State) (f : Nat) (e : BlockBits), s.arg = .sub f e →
    let img := bits e.toNat 32 16
    let base := bits e.toNat 192 64
    let x : Bruex := { b := Memory.read s.hostMem (bits e.toNat 64 64) (bits e.toNat 128 64), n := bits e.toNat 128 64 }
    let ends (i : Instr) (status reason value : Nat) : Prop := ∃ t, exec i s = .next t ∧ Completed s t f e status reason value ∧ t.seqs = s.seqs
    (boundTo s f = Option.none → ∀ i ∈ [Instr.hostLoad, .hostLaunch, .hostRelease, .hostUnload, .hostQuote], exec i s = .next s) ∧
    ∀ p, boundTo s f = some p →
      (4096 ≤ img ∨ (s.image p img).st = 2 → ends .hostLoad 1 1 0) ∧
      (img < 4096 → (s.image p img).st ≠ 2 → base % 65536 ≠ 0 → ends .hostLoad 1 1 0) ∧
      (img < 4096 → (s.image p img).st ≠ 2 → base % 65536 = 0 → ∀ r, r < 8 → s.verify x = .error r → ends .hostLoad 1 r 0) ∧
      (img < 4096 → (s.image p img).st ≠ 2 → base % 65536 = 0 → ∀ c, s.verify x = .ok c →
        x.sects.all (fun t => (t.type != 2 && t.type != 5) || s.writable p (base + t.voff) t.size) = false → ends .hostLoad 1 1 0) ∧
      (img < 4096 → (s.image p img).st ≠ 2 → base % 65536 = 0 → ∀ c, s.verify x = .ok c →
        x.sects.all (fun t => (t.type != 2 && t.type != 5) || s.writable p (base + t.voff) t.size) = true →
        (freeArea s.taken (4 * c.1.length + 15 + 16 * c.2.length) 3906248 s.drawVal = Option.none → ends .hostLoad 1 1 0) ∧
        (freeArea s.taken (4 * c.1.length + 15 + 16 * c.2.length) 3906248 s.drawVal ≠ Option.none → ∃ t, exec .hostLoad s = .next t ∧
          Completed s t f e 0 0 0 ∧ t.seqs = s.seqs ∧ Fm.get 0 t.imageSrc (4096 * p + img) = x.source ∧
          Fm.get 0 t.fuses.seenSvn x.cls = max (Fm.get 0 s.fuses.seenSvn x.cls) x.svn)) ∧
      (256 ≤ s.pool.countP (fun l => l.part == p) → ends .hostLaunch 1 0 0) ∧
      (s.pool.countP (fun l => l.part == p) < 256 → ∃ t l, exec .hostLaunch s = .next t ∧ Completed s t f e 0 0 0 ∧ t.launchNext = s.launchNext + 1 ∧
        l ∈ t.pool ∧ l.id = s.launchNext ∧ l.part = p ∧ l.sidFrom = 0xFFFF ∧ l.descVa = bits e.toNat 64 64 ∧ l.age = s.now ∧
        ∃ a ∈ t.agenda, a.cyc = s.now + 1 ∧ a.ins = .launchReceive) ∧
      (s.objectAt p (bits e.toNat 64 64) = Option.none → ends .hostRelease 1 0 0) ∧
      (∀ pa k, s.objectAt p (bits e.toNat 64 64) = some (pa, k) →
        (∀ d, s.heldAt pa = some d → exec .hostRelease s = .next (replayed s d pa 4 .hostRelease (.sub f e))) ∧
        (s.heldAt pa = Option.none → ∃ t, exec .hostRelease s = .next t ∧ Completed s t f e 0 0 0 ∧ t.seqs = s.seqs ∧
          t.syncs = (s.releaseAt pa k 0xFFFF).syncs ∧ t.agenda = (s.releaseAt pa k 0xFFFF).agenda)) ∧
      (s.imageBusy p (img % 4096) = true → ends .hostUnload 2 0 0) ∧
      (s.imageBusy p (img % 4096) = false → ends .hostUnload 0 0 0 ∧
        ∃ t, exec .hostUnload s = .next t ∧ Fm.get 0 t.imageSrc (4096 * p + img % 4096) = 0) ∧
      ends .hostQuote 0 0 ((s.quoteBody p (bits e.toNat 192 256)).length + 384)

/-- R341, R401, R402: a function-level reset empties the function's rings; that of a partition's control function resets the partition, as soon
as the hub can take the command. A function that is not bound is left. -/
def Sys2Proof.Claims.FunctionsAreReset : Prop :=
  ∀ (s : State) (f again : Nat) (x : W64), s.arg = .vf f again x →
    let v := function s f
    let u := if again = 0 then onward { withFunction s f { v with sqh := v.sqt, cqt := v.cqh } with bells := s.bells.filter (fun b => b.1 != f) }
      else s
    (boundTo s f = Option.none → exec .functionLevelReset s = .next s) ∧
    ∀ p, boundTo s f = some p →
      ((partOf s p).get 0x210 1 ≠ f → exec .functionLevelReset s = .next u) ∧
      ((partOf s p).get 0x210 1 = f → s.hub.psRes = 3 → exec .functionLevelReset s = .next
        (scheduled u (event (s.now + 1) 7 0 .functionLevelReset (.vf f 1 0)))) ∧
      ((partOf s p).get 0x210 1 = f → s.hub.psRes ≠ 3 → exec .functionLevelReset s = .next
        (scheduled (withHub u { s.hub with psRes := 3, psPart := p, psReason := 0 }) (event s.now 7 0 .partitionReset (.partN p 0))))

/-- R409, R410, R416: the fuses only go one way: a counter rises where an image of at least that number was verified, the first eight by
Alzin's firmware only, an owner key is enrolled once, a revoked key stays so, and the life cycle takes its next state only before ALIGN, with
the wipe of the module. -/
def Sys2Proof.Claims.FusesGoOneWay : Prop :=
  (∀ (s : State) (fw : Bool) (c v : Nat), s.arg = .raise fw c v →
    let x := s.fuses
    let raises := c < 32 ∧ (fw = true ∨ 8 ≤ c) ∧ v ≤ 64 ∧ v ≤ Fm.get 0 x.seenSvn c ∧ Fm.get 0 x.arc c < v
    (raises → exec .antiRollbackRaise s = .next { s with fuses := { x with arc := Fm.set x.arc c v } }) ∧
    (¬ raises → exec .antiRollbackRaise s = .next s)) ∧
  ∀ (s : State) (n v : Nat), s.arg = .fuse n v →
    let x := s.fuses
    let fused (y : Fuses) : State := { s with fuses := y }
    let changes := n = x.life + 1 ∧ n ≤ 4 ∧ s.bootStep < 5 ∧ (n = 2 → ∃ i, 1 ≤ i ∧ i ≤ 4 ∧ x.enrolled.getLsbD i = true)
    (1 ≤ n → n ≤ 4 → x.enrolled.getLsbD n = false → exec .ownerKeyEnrol s = .next
      (fused { x with enrolled := x.enrolled ||| BitVec.ofNat 5 (2 ^ n), khash := Fm.set x.khash n (BitVec.ofNat 256 v) })) ∧
    (n = 0 ∨ 4 < n ∨ x.enrolled.getLsbD n = true → exec .ownerKeyEnrol s = .next s) ∧
    (1 ≤ n → n ≤ 4 → exec .ownerKeyRevoke s = .next (fused { x with revoked := x.revoked ||| BitVec.ofNat 5 (2 ^ n) })) ∧
    (n = 0 ∨ 4 < n → exec .ownerKeyRevoke s = .next s) ∧
    (¬ changes → exec .lifeCycleChange s = .next s) ∧
    (changes → ∃ t, exec .lifeCycleChange s = .next t ∧ t.mem = [] ∧ t.spad = [] ∧ t.l2 = [] ∧ t.keys = [] ∧ t.imageSrc = [] ∧
      t.seqs = [] ∧ t.cores = [] ∧ t.gates = [] ∧ t.exports = [] ∧ t.parts = [] ∧ t.hostMem = s.hostMem ∧
      t.fuses = { x with life := n, revoked := if n = 3 then x.revoked ||| 0x1E else x.revoked, identity := x.identity && n != 4 })

/-- R417, R418, R302, R37, R407, R411: the boot begins its steps in order, each within its bound; one that fails stops the module with BOOTST;
step 2 verifies the firmware, step 4 the hypervisor, whose images come from outside (log entry 48), and starts it on the management sequencers; a thermal
shutdown stops it with 0xFE; a scrub changes nothing, but where it meets a double-bit error, which loses the 64 bits; a management task starts untimed at word 0 of an idle sequencer of H. -/
def Sys2Proof.Claims.BootAndStop : Prop :=
  (∀ s : State, s.arg = Arg.none → ∃ t, exec .powerOnReset s = .next t ∧ StepEnds s t 1) ∧
  (∀ (s : State) (n : Nat), s.arg = .id n →
    (s.drawVal % 2 = 1 → ∃ t, exec .powerOnReset s = .next t ∧ t.stopped = true ∧ t.agenda = [] ∧ t.bootst.toNat % 256 = n % 256 ∧
      ∀ e ∈ t.seqs, e.2.run = .idle) ∧
    let done (t : State) : Prop := t.bootStep = n ∧ t.stopped = s.stopped ∧ (n < 7 → StepEnds s t (n + 1))
    (s.drawVal % 2 = 0 → n ≠ 2 → n ≠ 4 → ∃ t, exec .powerOnReset s = .next t ∧ done t ∧
      (n = 6 → t.mem = [] ∧ Fm.get 0 t.keys 0 ≠ 0) ∧ (n = 5 → t.hub.alDone = true)) ∧
    (s.drawVal % 2 = 0 → n = 2 ∨ n = 4 →
      let images := (s.drew.drawImages (if n = 2 then 4 else 1)).1
      let reason := s.bootReason (if n = 2 then 2 else 3)
      (∀ x, images.find? (fun x => reason x != 0) = some x → ∃ t, exec .powerOnReset s = .next t ∧ t.stopped = true ∧ t.agenda = [] ∧
        t.bootst = BitVec.ofNat 16 (n + reason x % 256 * 256)) ∧
      ((∀ x ∈ images, reason x = 0) → ∃ t, exec .powerOnReset s = .next t ∧ done t ∧
        (n = 2 → ∀ i x, i < 2 → images[i]? = some x → Fm.get 0 t.fuses.digests (i + 1) = x.source) ∧
        (n = 4 → (∀ x ∈ images, Fm.get 0 t.fuses.digests 3 = x.source) ∧ ∀ k, k < 8 → let q := half t (8 + 1024 * (k / 2) + 4096 * (k % 2))
          q.run = .run ∧ q.fpc = 0 ∧ q.ut = true)))) ∧
  (∀ s : State, exec .thermalShutdown s = .next (stoppedBy s 0xFE) ∧ ((∀ u, s.arg ≠ .upset u) → exec .sramScrub s = .next s) ∧
    ∀ sid n, s.arg = .upset (.spot sid (.g n)) → ∃ t, exec .sramScrub s = .next t ∧ Fm.get 0 (half t sid).g n = 0 ∧
      Spot.g n ∈ (half t sid).upset ∧ t.mem = s.mem ∧ ∀ i, i ≠ sid → half t i = half s i) ∧
  ∀ (s : State) (n words handler code : Nat), s.arg = .mgmt n words handler code →
    let sid := 8 + 1024 * (n / 2) + 4096 * (n % 2)
    (8 ≤ n ∨ (half s sid).run ≠ .idle → exec .managementTaskStart s = .next s) ∧
    (n < 8 → (half s sid).run = .idle → ∃ t, exec .managementTaskStart s = .next t ∧ (half t sid).run = .run ∧ (half t sid).fpc = 0 ∧
      (half t sid).ut = true ∧ (half t sid).dline = Option.none ∧ (half t sid).tvec = BitVec.ofNat 16 handler ∧ (half t sid).g = [] ∧
      t.mem = s.mem ∧ ∀ i, i ≠ sid → half t i = half s i)

namespace Sys2Proof.Claims

/-- What happens first in a step: every running sequencer's fetch unit has read on (R314). -/
def ready (s : State) : State := s.fetchAll

/-- The state in which a word taken from the queue of `sid` executes, decoded as `d`. -/
def beginning (s : State) (sid : Nat) (e : QWord) (d : Decoded) : State :=
  { s with cur := { sid := sid, col := e.col, pc := e.pc, w := e.w, len := d.len, fo := e.fo, rsvd := d.rsvd, fb := d.fb, posted := e.posted, stk := e.stk } }

/-- The outcome of a meaning, followed by what a step does to the word's queue and column. -/
def finishing (e : QWord) : Host.Outcome State Fault Refusal → Host.Outcome State Fault Refusal
  | .next t => .next (t.finishWord e)
  | .fault f => .fault f
  | .refused r => .refused r

/-- The word that the step takes, with its sequencer: nothing lands or joins before it, and it has come to its queue. -/
abbrev Takes (s : State) (sid : Nat) (e : QWord) : Prop :=
  (ready s).popEvent 0 2 = none ∧ (ready s).nextJoin = none ∧ (ready s).nextWordOf exec (ready s).seqs = some (sid, e, false)

/-- The state in which the present word could not issue: nothing in untimed mode, the event 0x12 once in TRAP mode, a held cycle in
STALL mode (R317, R318). -/
def waiting (s : State) : State :=
  let q := mine s
  let u : State :=
    if q.ut then s
    else if q.trapMode then (if s.cur.posted then s else withMine s (q.post 0x12 s.cur.col))
    else withMine s (if q.heldAt = some s.now then q else heldOnce s q)
  { u with cur := { s.cur with held := true } }

/-- Bytes of a word and the literal after it, each word with its lowest byte first (R7, R93). -/
def wordBytes (l : List Nat) : List Byte := l.flatMap bytesOfWord

end Sys2Proof.Claims

/-! ## The whole machine -/

/-- A step takes the next word of a queue: a word that decodes executes as its instruction; an index out of range, an uncorrectable word and
a word the decoder rejects are the illegal-instruction fault (R12, R93, R95, R324). -/
def Sys2Proof.Claims.StepRunsWord : Prop :=
  ∀ (s : State) (sid : Nat) (e : QWord), Takes s sid e →
    let u := ready s
    let bad := e.oor = true ∨ u.wordBad sid e = true
    (∀ d, ¬ bad → decodeWord e.w e.lit = .ok d → step s = finishing e (exec d.ins (beginning u sid e d))) ∧
    (¬ bad → decodeWord e.w e.lit = .error .unassigned →
      step s = finishing e (exec (.unassignedOpcode (BitVec.ofNat 32 e.w)) (u.beginWord sid e))) ∧
    (bad ∨ (∃ x, x ≠ .unassigned ∧ decodeWord e.w e.lit = .error x) → step s = finishing e (.next (faulted (u.beginWord sid e) 1)))

/-- R115, R315, R94, R100: a word that has issued leaves its queue, and its column's next word is due no earlier than the cycle after it and
the cycles that a WAIT adds; RSVD and FALLBACK are recorded. One that was held stays and is looked at again in a later cycle. Where the
sequencer's storage holds no double-bit error, nothing goes on the agenda. -/
def Sys2Proof.Claims.WordsLeaveTheirQueue : Prop :=
  ∀ (t : State) (e : QWord), let q := mine t
    let r := half (t.finishWord e) t.cur.sid
    (∀ i, i ≠ t.cur.sid → half (t.finishWord e) i = half t i) ∧ (q.upset = [] → (half t (partner t.cur.sid)).upset = [] → (t.finishWord e).agenda = t.agenda) ∧ (t.finishWord e).mem = t.mem ∧ r.g = q.g ∧
    (t.cur.held = true → r.fq.map (·.fo) = q.fq.map (·.fo) ∧ r.cols = q.cols ∧ ∀ x ∈ r.fq, x.fo = e.fo → x.tried = some t.now) ∧
    (t.cur.held = false → r.ahead.map (·.fo) = (q.fq.filter (fun x => x.fo != e.fo) ++ q.bq).map (·.fo) ∧
      (Fm.get {} r.cols e.col : Column).next = some (t.now - q.slip + 1 + t.cur.extra) ∧
      (t.cur.fault = false → t.cur.rsvd = true → r.wrn.getLsbD 0 = true) ∧ (t.cur.fault = false → t.cur.fb = true → r.wrn.getLsbD 1 = true))

/-- R178, R245: in a cycle, what lands comes first, then joins, then words, then accesses at their homes and the hardware's own events; each
is the next in its order, and executes as its row. When nothing is left the next cycle begins, and no event is passed over; only a module
that has stopped goes no further. -/
def Obligations.StepRunsDueEvents : Prop :=
  ∀ s : State, let u := ready s
    (∀ e t, u.popEvent 0 2 = some (e, t) → step s = exec e.ins t ∧ t = { u with agenda := t.agenda, arg := e.arg } ∧ e ∈ u.agenda ∧
      e.cyc ≤ u.now ∧ e.cls ≤ 2 ∧ (∀ x ∈ u.agenda, x.cls ≤ 2 → e.cyc < x.cyc ∨ (e.cyc = x.cyc ∧ e.cls ≤ x.cls)) ∧ t.agenda.length + 1 = u.agenda.length) ∧
    (∀ sid, u.popEvent 0 2 = none → u.nextJoin = some sid → step s = exec .iterationBoundary { u with arg := .seq sid }) ∧
    (∀ sid e, u.popEvent 0 2 = none → u.nextJoin = none → u.nextWordOf exec u.seqs = some (sid, e, true) →
      step s = exec .fetchStarvation { u with arg := .seqN sid e.fo }) ∧
    (u.popEvent 0 2 = none → u.nextJoin = none → u.nextWordOf exec u.seqs = none →
      (∀ e t, u.popEvent 3 9 = some (e, t) → step s = exec e.ins t ∧ t = { u with agenda := t.agenda, arg := e.arg } ∧ e ∈ u.agenda ∧ e.cyc ≤ u.now) ∧
      (u.popEvent 3 9 = none → (u.stopped = true ∧ u.agenda = [] ∧ step s = .fault .moduleStopped) ∨
        ∃ c, step s = .next { u with now := c } ∧ u.now < c ∧ ∀ e ∈ u.agenda, u.now < e.cyc → c ≤ e.cyc))

/-- R112, R317, R318: a word whose column is occupied does not issue: it waits in untimed mode, is an event in TRAP mode and a held cycle in
STALL mode. Said of the words of the SCA and VEC columns and of the branches. -/
def Obligations.OccupiedColumnsHold : Prop :=
  ∀ (s : State) (i : Instr), ¬ Free s →
    integerResult s i ≠ none ∨ predicateResult s i ≠ none ∨ floatResult s i ≠ none ∨ floatCompare s i ≠ none ∨ branch s i ≠ none ∨
      tileWord s i ≠ none → exec i s = .next (waiting s)

/-- Every row of the opcode table goes on in every state, and a step stops only where the module has stopped with nothing ahead of it. -/
def Obligations.EverythingGoesOn : Prop :=
  (∀ (i : Instr) (s : State), ∃ t, exec i s = .next t) ∧
  ∀ s : State, (∃ t, step s = .next t) ∨ (step s = .fault .moduleStopped ∧ s.stopped = true ∧ s.agenda = [])

/-- A step keeps the canonical form of the memories. -/
def Obligations.StepKeepsCanonical : Prop :=
  ∀ s t : State, Safety.Canonical s → step s = .next t → Safety.Canonical t

/-- Canonical at reset, where nothing is listed. -/
def Sys2Proof.Claims.ResetIsCanonical : Prop := Safety.Canonical State.reset ∧ State.reset.mem = [] ∧ State.reset.hostMem = []

/-- R274, R275, R42, R389, R417: what reset leaves: SHAPE of every sequencer, DCFG and HMASK of every die's domain blocks, PEER of the links, and
the boot about to begin with its first step; every other register at 0 (log entry 1). -/
def Sys2Proof.Claims.ResetValues : Prop :=
  let s := State.reset
  (∀ sid, half s sid = {} ∧ (half s sid).shape = 0x4000 ∧ (half s sid).run = .idle) ∧
  (∀ die, (domain s die 0).v = true ∧ (domain s die 0).first = 0 ∧ (domain s die 0).l2c = 4 ∧ (domain s die 0).hm = [1, 2, 4, 8]) ∧
  (∀ die, 4 ≤ die → (domain s die 1).v = true ∧ (domain s die 1).first = 16 ∧ (domain s die 1).l2c = 4) ∧
  (∀ die k, 2 ≤ k ∨ (k = 1 ∧ die < 4) → (domain s die k).v = false ∧ (domain s die k).l2c = 4) ∧
  (∀ n, linkNo s n = { peer := n }) ∧ (∀ p, (partOf s p).img = 0) ∧ (∀ n, gateNo s n = {}) ∧ s.bootst = 0 ∧ s.stopped = false ∧
  (∀ d, s.beaconOf d = 0) ∧ ∃ t k, step s = .next t ∧ t.agenda = [event k 0 0 .powerOnReset (.id 1)] ∧ 0 < k ∧ k ≤ 2 ^ 20 ∧ t.mem = []

/-- Decoding and encoding agree for every instruction with a word: every operand at every value that the encoding admits, at every delay. -/
def Obligations.DecodeEncodeAgree : Prop := ∀ i : Instr, Laws.Encoding.Statement i

/-- A few words written out from the encodings of R88 to R97: END; WAIT of the SCA column, 18; MOVI g1, 7; ADD g3, g1, g2; DIVS g5, g4, g1 with
delay 1; SHAPE 16, 64 with its literal; VMUL v2, v0, v1. -/
def Obligations.DecodeReadsSpecWords : Prop :=
  let reads (w : List Nat) (i : Instr) (eng dly : Nat) : Prop :=
    (decodeBytes (wordBytes w)).toOption = some ({ ins := i, eng := eng, dly := dly, len := w.length }, [])
  reads [0x00E00000] .endTask 0 0 ∧ reads [0x20100012] (.wait 1 18) 1 0 ∧ reads [0x21D04007] (.movi 1 7) 1 0 ∧
    reads [0x2020C108] (.add 3 1 2) 1 0 ∧ reads [0x24814404] (.divs 5 4 1) 1 1 ∧
    reads [0x40200000, 0x40004FCF] (.shape 0x4FCF) 2 0 ∧ reads [0x40510020] (.vmul 2 0 1 0 0) 2 0

/-! ## Statements of several parts -/

/-- Integer, predicate and floating-point words of the SCA column write their exact results. -/
def Obligations.ScalarWords : Prop :=
  Claims.IntegerResults ∧
  Claims.PredicateResults ∧
  Claims.FloatResults ∧
  Claims.FloatCompares

/-- NOP, WAIT, unassigned words, branches, CALL, the loop words and TRAP. -/
def Obligations.ControlWords : Prop :=
  Claims.NopsAndWaits ∧
  Claims.UnassignedOpcodeFaults ∧
  Claims.BranchesTransfer ∧
  Claims.CallSavesReturnIndex ∧
  Claims.LoopsPushLevels ∧
  Claims.LbrkPopsInnermost ∧
  Claims.TrapPostsEvent

/-- YIELD, SEAM, END and WAITB. -/
def Obligations.TaskWords : Prop :=
  Claims.YieldArmsDeadline ∧
  Claims.SeamEntersUntimed ∧
  Claims.EndReleasesHalf ∧
  Claims.WaitbHolds ∧
  Claims.WaitbCompletes

/-- LAUNCH reserves a pool entry and its descriptor is validated. -/
def Obligations.LaunchesAreTaken : Prop :=
  Claims.LaunchReservesEntry ∧
  Claims.LaunchesAreValidated

/-- BKPT, the debug freeze and its resume; partition time stands meanwhile. -/
def Obligations.DebugFreezes : Prop :=
  Claims.BkptFreezesPartition ∧
  Claims.PartitionTimeStands

/-- RDSR and WRSR of every kind of register. -/
def Obligations.SystemRegisterWords : Prop :=
  Claims.RdsrReadsOwnRegisters ∧
  Claims.RdsrReadsConfiguration ∧
  Claims.WrsrWritesOwnRegisters ∧
  Claims.ClampcntWrites

/-- A landing writes its register, tile or accumulator row and nothing else. -/
def Obligations.LandingsTakePlace : Prop :=
  Claims.LandingsWriteRegisters ∧
  Claims.TileLandingsMerge ∧
  Claims.AccumulatorLandings

/-- SHAPE, the faults of vector words, element-wise and bit-placing tile words. -/
def Obligations.ElementwiseTileWords : Prop :=
  Claims.ShapeSetsGeometry ∧
  Claims.VectorWordsFault ∧
  Claims.ElementwiseWords ∧
  Claims.BitPlacingWords

/-- Reductions and conversions of tiles. -/
def Obligations.ReducingTileWords : Prop :=
  Claims.Reductions ∧
  Claims.ConvertingWords

/-- Tile comparisons, mask, element and ring words, zips. -/
def Obligations.MaskAndRingTileWords : Prop :=
  Claims.VectorCompares ∧
  Claims.MaskElementAndRingWords ∧
  Claims.ZipsAndUnzips

/-- Loads, stores and streaming stores go to their home. -/
def Obligations.LoadsAndStores : Prop :=
  Claims.LoadsGoToTheirHome ∧
  Claims.StoresGoToTheirHome ∧
  Claims.StreamingStores

/-- Scratchpad accesses at their home, and the delivery of load data. -/
def Obligations.AccessesAtTheirHome : Prop :=
  Claims.ScratchpadStoreAtHome ∧
  Claims.ScratchpadLoadAtHome ∧
  Claims.GlobalStoreAtHome ∧
  Claims.GlobalLoadAtHome ∧
  Claims.LoadDataIsDelivered

/-- Handle words, and XLT with its walk. -/
def Obligations.HandlesAndTranslation : Prop :=
  Claims.HandleWords ∧
  Claims.WalkingTranslation ∧
  Claims.WalkCompletes

/-- DRAIN, cache ranges and retention. -/
def Obligations.CacheControlWords : Prop :=
  Claims.DrainCollects ∧
  Claims.CacheRangeWords ∧
  Claims.CacheRangesComplete ∧
  Claims.RetentionWords ∧
  Claims.RetentionComesIntoForce

/-- Late arrivals, starved words and queue violations in each mode. -/
def Obligations.ViolationsAreRecorded : Prop :=
  Claims.ArrivalViolations ∧
  Claims.StarvationIsAViolation ∧
  Claims.QueueViolations

/-- Pushes, pops, reservations, depths and bindings. -/
def Obligations.QueueWords : Prop :=
  Claims.PushesSendEntries ∧
  Claims.PopsTakeEntries ∧
  Claims.ReservationsAndDepth ∧
  Claims.BindingWords

/-- Entries and credits between cores and modules. -/
def Obligations.EntriesTravel : Prop :=
  Claims.EntriesAndCreditsArrive ∧
  Claims.LinkEntriesDepart ∧
  Claims.LinkEntriesDropped ∧
  Claims.LinkEntriesArrive

/-- The words that fill the shadow nest table. -/
def Obligations.NestConfiguration : Prop :=
  Claims.LevelsAreConfigured ∧
  Claims.SourcesAreConfigured ∧
  Claims.DurationIsReported

/-- The steps of a nest: its rows and its other acts. -/
def Obligations.NestStepsRun : Prop :=
  Claims.NestStepsAccumulate ∧
  Claims.NestActsProceed

/-- Weight loads, accumulator words and CIM parity errors. -/
def Obligations.WeightsAndAccumulators : Prop :=
  Claims.WeightLoadsStart ∧
  Claims.WeightLoadsComplete ∧
  Claims.AccumulatorWords ∧
  Claims.ParityErrorsPoison

/-- Scalar and vector atomics. -/
def Obligations.AtomicWords : Prop :=
  Claims.AtomicsGoToTheirEngine ∧
  Claims.VectorAtomics

/-- ACQ, its grants, BIND and UNBIND. -/
def Obligations.AcquiresAndBindings : Prop :=
  Claims.AcquireRequests ∧
  Claims.GrantsAreAnswered ∧
  Claims.BindingsOfRegions

/-- REL, its effect, and SFENCE. -/
def Obligations.ReleasesAndFences : Prop :=
  Claims.ReleasesAreSent ∧
  Claims.ReleaseTakesEffect ∧
  Claims.FenceHoldsColumns

/-- Capability registers and words toward other modules. -/
def Obligations.CapabilitiesAndRemoteWords : Prop :=
  Claims.CapabilityRegisters ∧
  Claims.RemoteWordsSendPackets

/-- Gate words, admissions and versions. -/
def Obligations.GatesPass : Prop :=
  Claims.GateWords ∧
  Claims.PassesAreAdmitted ∧
  Claims.VersionsTakeEffect

/-- Token refills, takers and status. -/
def Obligations.GatesServe : Prop :=
  Claims.BucketsRefill ∧
  Claims.TakersAndStatus

/-- Words of the ASY column and QFENCE; entries start, and leave their queue when done. -/
def Obligations.EngineEntriesRun : Prop :=
  Claims.EntriesAreQueued ∧
  Claims.FencesOfQueues ∧
  Claims.EntriesStart ∧
  Claims.EntriesLeaveTheirQueues

/-- Copies proceed by chunks; reduction results are written. -/
def Obligations.CopiesAndResults : Prop :=
  Claims.CopiesProceed ∧
  Claims.ResultsAreWritten

/-- Commands at an attention die, and MERGE. -/
def Obligations.AttentionCommands : Prop :=
  Claims.CommandsJoinTheirWindow ∧
  Claims.CommandsTakeTheirTurn ∧
  Claims.KeysAreAppended ∧
  Claims.ListsAreReleased ∧
  Claims.AttentionIsComputed ∧
  Claims.CommandsAreAnswered ∧
  Claims.MergesReadAndWrite

/-- Context control, credit refills and reduction rounds. -/
def Obligations.ContextsAndGroups : Prop :=
  Claims.ContextsAreControlled ∧
  Claims.CreditsRefill ∧
  Claims.ContributionsArrive ∧
  Claims.RoundsComplete

/-- Prefetches, and moves that begin with a revocation. -/
def Obligations.PageMovesStart : Prop :=
  Claims.PrefetchesAreTaken ∧
  Claims.MovesBeginWithRevocation

/-- Revocations mark handles and complete; moves end. -/
def Obligations.PageMovesEnd : Prop :=
  Claims.RevocationMarksHandles ∧
  Claims.RevocationsComplete ∧
  Claims.MovesComplete

/-- Remote operations and stores at their home, and their answers. -/
def Obligations.PeersAreServed : Prop :=
  Claims.PeersAreAnswered ∧
  Claims.PeersStoreOnce ∧
  Claims.RequestsComplete

/-- Export entries, ALIGN, flits, link failure and failover. -/
def Obligations.LinksCarryPackets : Prop :=
  Claims.LinksAreAligned ∧
  Claims.FlitsAreReceived

/-- Placement, begin of launches, time slices and hand-over. -/
def Obligations.WorkIsScheduled : Prop :=
  Claims.WorkIsPlaced ∧
  Claims.LaunchesBegin ∧
  Claims.SlotsAreGivenAway

/-- Full frames, fatal slots, restore and resume. -/
def Obligations.FramesAreSavedAndRestored : Prop :=
  Claims.FramesAreSaved ∧
  Claims.SavedTasksResume

/-- STOP, RELEASE, MFREEZE and MTHAW; retirement. -/
def Obligations.PartitionsStopAndGoOn : Prop :=
  Claims.PartitionsStopAndAreReleased ∧
  Claims.ResourcesRetire

/-- L2 domains, retention registers and reduction groups. -/
def Obligations.ConfigurationTakesForce : Prop :=
  Claims.DomainsAreConfigured ∧
  Claims.ConfigurationIsGuarded

/-- Fetch, joins with their deliveries, and deadlines. -/
def Obligations.SequencersGoOn : Prop :=
  Claims.FetchReadsAhead ∧
  Claims.IterationsPass ∧
  Claims.JoinsKeepTheLoopStack ∧
  Claims.DeadlinesExpire

/-- Host accesses, function registers, rings and function-level reset. -/
def Obligations.TheHostReachesIn : Prop :=
  Claims.HostAccessesArrive ∧
  Claims.FunctionsAreWritten ∧
  Claims.SubmissionsAreRead ∧
  Claims.FunctionsAreReset

/-- Fuses, life cycle, boot, stop, scrub and management tasks. -/
def Obligations.FusesAndBoot : Prop :=
  Claims.FusesGoOneWay ∧
  Claims.BootAndStop

/-- A step runs the decoded word, and what becomes of the word. -/
def Obligations.StepRunsDecodedWord : Prop :=
  Claims.StepRunsWord ∧
  Claims.WordsLeaveTheirQueue

/-- What reset leaves. -/
def Obligations.ResetState : Prop :=
  Claims.ResetIsCanonical ∧
  Claims.ResetValues
end

