-- ==== Sys2Proof/Laws/Frames.lean ====
section
/-! SUPPORT. The fields of a full frame (R330) lie in ascending order, apart from each other, within its 704 KiB. -/

namespace Sys2Proof.Laws

open Sys2Proof Sys2Proof.Machine

/-- The fields of a list ascend without overlapping, from `a` on and below `b`. -/
def Placed (a b : Nat) (l : List Field) : Prop :=
  l.Pairwise (fun x y => x.1 + x.2.1 ≤ y.1) ∧ ∀ x ∈ l, a ≤ x.1 ∧ x.1 + x.2.1 ≤ b

theorem placed_nil (a b : Nat) : Placed a b [] := ⟨List.Pairwise.nil, by simp⟩

theorem placed_one {a b : Nat} (x : Field) (h : a ≤ x.1) (k : x.1 + x.2.1 ≤ b) : Placed a b [x] :=
  ⟨List.pairwise_singleton _ _, by simpa using ⟨h, k⟩⟩

theorem Placed.mono {a b c d : Nat} {l : List Field} (h : Placed a b l) (u : c ≤ a) (v : b ≤ d) : Placed c d l :=
  ⟨h.1, fun x m => ⟨u.trans (h.2 x m).1, (h.2 x m).2.trans v⟩⟩

theorem Placed.append {a b c : Nat} {l m : List Field} (h : Placed a b l) (k : Placed b c m) (u : a ≤ b) (v : b ≤ c) :
    Placed a c (l ++ m) := by
  refine ⟨List.pairwise_append.mpr ⟨h.1, k.1, fun x hx y hy => (h.2 x hx).2.trans (k.2 y hy).1⟩, fun x hx => ?_⟩
  rcases List.mem_append.mp hx with hx | hx
  · exact ⟨(h.2 x hx).1, (h.2 x hx).2.trans v⟩
  · exact ⟨u.trans (k.2 x hx).1, (k.2 x hx).2⟩

theorem Placed.cons {a b c : Nat} {x : Field} {l : List Field} (k : Placed b c l) (h : a ≤ x.1) (e : x.1 + x.2.1 ≤ b) (v : b ≤ c) :
    Placed a c (x :: l) :=
  Placed.append (placed_one x h e) k (h.trans ((Nat.le_add_right _ _).trans e)) v

theorem Placed.sublist {a b : Nat} {l m : List Field} (h : Placed a b m) (s : l.Sublist m) : Placed a b l :=
  ⟨h.1.sublist s, fun x hx => h.2 x (s.subset hx)⟩

/-- Groups of fields, each in its own stretch of `k` bytes. -/
theorem placed_groups (a k : Nat) (f : Nat → List Field) :
    ∀ n, (∀ i, i < n → Placed (a + k * i) (a + k * (i + 1)) (f i)) → Placed a (a + k * n) ((List.range n).flatMap f)
  | 0, _ => placed_nil _ _
  | n + 1, h => by
    rw [List.range_succ, List.flatMap_append, List.flatMap_singleton]
    exact Placed.append (placed_groups a k f n fun i hi => h i (Nat.lt_succ_of_lt hi)) (h n (Nat.lt_succ_self n))
      (Nat.le_add_right _ _) (Nat.add_le_add_left (Nat.mul_le_mul_left _ (Nat.le_succ n)) _)

/-- Fields of `k` bytes one after the other. -/
theorem placed_array (a k : Nat) (f : Nat → Nat) (n : Nat) :
    Placed a (a + k * n) ((List.range n).map fun i => (a + k * i, k, f i)) := by
  have h := placed_groups a k (fun i => [(a + k * i, k, f i)]) n fun i _ =>
    placed_one _ (Nat.le_refl _) (Nat.le_of_eq (by simp only [Nat.mul_succ, Nat.add_assoc]))
  rwa [← List.map_eq_flatMap] at h

theorem placed_sticky (q : Seq) (a w : Nat) : Placed a (a + 40) (q.stickyFields a w) := by
  refine ⟨?_, ?_⟩ <;> simp [Seq.stickyFields] <;> omega

theorem placed_table (a : Nat) (t : NestTable) : Placed a (a + 0x70) (tableFields a t) := by
  refine Placed.append (b := a + 0x60) ?_ (placed_one _ (Nat.le_refl _) (Nat.le_refl _)) (Nat.le_add_right _ _) (by omega)
  rw [List.map_eq_flatMap]
  exact placed_groups a 16 _ 6 fun i _ => placed_one _ (Nat.le_refl _) (by simp only; omega)

theorem placed_progress (t : NestTable) (n : Nest) : Placed 0x1980 (0x1980 + 32 * 6) (progressFields t n) := by
  refine placed_groups 0x1980 32 _ 6 fun i _ => ⟨?_, ?_⟩ <;> simp only [List.pairwise_cons, List.mem_cons, List.not_mem_nil, or_false, forall_eq_or_imp, forall_eq, List.Pairwise.nil, and_true, false_implies, implies_true] <;> omega

/-- Indexed fields of `k` bytes' stretch. -/
theorem placed_zip {α : Type} (a k : Nat) (f : α × Nat → Field) (h : ∀ e, a + k * e.2 ≤ (f e).1 ∧ (f e).1 + (f e).2.1 ≤ a + k * (e.2 + 1)) :
    ∀ (l : List α) (n : Nat), Placed (a + k * n) (a + k * (n + l.length)) ((l.zipIdx n).map f)
  | [], n => placed_nil _ _
  | x :: l, n => by
    rw [List.zipIdx_cons, List.map_cons]
    refine Placed.cons ((placed_zip a k f h l (n + 1)).mono (Nat.le_refl _) (Nat.le_of_eq ?_)) (h (x, n)).1 (h (x, n)).2 ?_
    · rw [List.length_cons]; ring_nf
    · exact Nat.add_le_add_left (Nat.mul_le_mul_left _ (by rw [List.length_cons]; omega)) _

theorem placed_loops (a : Nat) (l : List LoopLevel) : Placed a (a + 0x60) (loopFields a l) := by
  refine (placed_zip a 16 _ (fun e => ⟨Nat.le_refl _, by simp only; omega⟩) (l.take 6) 0).mono (Nat.le_refl _) ?_
  have : (l.take 6).length ≤ 6 := List.length_take_le _ _
  omega

theorem placed_cmds (l : List Cmd) : Placed 0xA0000 (0xA0000 + 2048 * 16) (cmdFields l) := by
  refine placed_groups 0xA0000 2048 _ 16 fun n _ => ?_
  refine (placed_zip (0xA0000 + 2048 * n) 64 _ (fun e => ⟨Nat.le_refl _, by simp only; omega⟩) (inOrder l n).1 0).mono (Nat.le_refl _) ?_
  have : (inOrder l n).1.length ≤ 32 := List.length_take_le _ _
  omega

/-- R330: the fields of a full frame. -/
theorem placed_full (s : State) (sid code t wrn : Nat) : Placed 0 720896 (s.fullFields sid code t wrn) := by
  unfold State.fullFields
  refine Placed.mono (a := 0) (b := 0xA0000 + 2048 * 16) ?_ (Nat.le_refl _) (by decide)
  refine Placed.append ?_ (placed_cmds _) (by decide) (by decide)
  refine Placed.append (b := 0x20000) ?_ ?_ (by decide) (by decide)
  · refine Placed.append (b := 0x14000) ?_ ((placed_array 0x14000 2048 _ 8).mono (Nat.le_refl _) (by decide)) (by decide) (by decide)
    refine Placed.append (b := 0x4000) ?_ ((placed_array 0x4000 4096 _ 16).mono (Nat.le_refl _) (by decide)) (by decide) (by decide)
    refine Placed.append (b := 0x1C00) ?_ ?_ (by decide) (by decide)
    · refine Placed.append (b := 0x1980) ?_ ((placed_progress _ _).mono (Nat.le_refl _) (by decide)) (by decide) (by decide)
      refine Placed.append (b := 0x1900) ?_ ((placed_table 0x1900 _).mono (Nat.le_refl _) (by decide)) (by decide) (by decide)
      refine Placed.append (b := 0x1800) ?_ ((placed_table 0x1800 _).mono (Nat.le_refl _) (by decide)) (by decide) (by decide)
      refine Placed.append (b := 0x1000) ?_ ?_ (by decide) (by decide)
      · refine Placed.append (b := 0x800) ?_ (placed_one _ (Nat.le_refl _) (by simp)) (by decide) (by decide)
        refine Placed.append (b := 0x700) ?_ ((placed_array 0x700 16 _ 16).mono (Nat.le_refl _) (by decide)) (by decide) (by decide)
        refine Placed.append (b := 0x600) ?_ ((placed_array 0x600 16 _ 16).mono (Nat.le_refl _) (by decide)) (by decide) (by decide)
        refine Placed.append (b := 0x400) ?_ ((placed_array 0x400 8 _ 64).mono (Nat.le_refl _) (by decide)) (by decide) (by decide)
        refine Placed.append (b := 0x80) ?_ ((placed_loops 0x80 _).mono (Nat.le_refl _) (by decide)) (by decide) (by decide)
        refine Placed.append (b := 0x50) ?_ ⟨by simp, by simp⟩ (by decide) (by decide)
        refine Placed.append (b := 0x28) ⟨by simp, by simp⟩ ((placed_sticky _ 0x28 _).mono (Nat.le_refl _) (by decide)) (by decide) (by decide)
      · refine (placed_groups 0x1000 128 _ 16 fun j _ => ?_).mono (Nat.le_refl _) (by decide)
        refine Placed.append (b := 0x1000 + 128 * j + 4 * 16) (placed_array _ 4 _ 16) ⟨?_, ?_⟩ (by omega) (by omega)
        · simp
        · simp; omega
    · refine Placed.sublist (m := (List.range 4).flatMap _) ?_ (List.Sublist.flatMap List.filter_sublist _)
      refine (placed_groups 0x1C00 16 _ 4 fun i _ => ⟨?_, ?_⟩).mono (Nat.le_refl _) (by decide)
      · simp; omega
      · simp; omega
  · refine (placed_array 0x20000 2048 _ _).mono (Nat.le_refl _) ?_
    have : s.accRows sid ≤ 256 := by unfold State.accRows; split <;> decide
    omega

end Sys2Proof.Laws
end

