-- ==== Sys2Proof/Laws/Memory.lean ====
section
/-! SUPPORT. The laws of memory: the canonical form that every write keeps, reading what was written, and what a write of a
block or of a scratchpad leaves (R243, R245, R268). -/

namespace Sys2Proof.Laws

open Sys2Proof Sys2Proof.Machine

/-! ## The canonical form -/

/-- Every entry lies at or above `a` (and below `b`). -/
def Above (a : Nat) (m : List Host.Cell) : Prop := ∀ c ∈ m, a ≤ c.1

theorem wf_cons (c : Host.Cell) (m : List Host.Cell) :
    Memory.wf (c :: m) = true ↔ c.2 ≠ 0 ∧ Above (c.1 + 1) m ∧ Memory.wf m = true := by
  induction m generalizing c with
  | nil => simp [Memory.wf, Above]
  | cons d r ih =>
    have hd := ih d
    simp only [Memory.wf, Bool.and_eq_true, bne_iff_ne, ne_eq, decide_eq_true_eq] at hd ⊢
    constructor
    · rintro ⟨⟨h1, h2⟩, h3⟩
      refine ⟨h1, ?_, h3⟩
      intro x hx
      rcases List.mem_cons.1 hx with rfl | hx
      · exact h2
      · have := (hd.1 h3).2.1 x hx
        omega
    · rintro ⟨h1, h2, h3⟩
      exact ⟨⟨h1, h2 d (List.mem_cons_self ..)⟩, h3⟩

theorem wf_filter (p : Host.Cell → Bool) (m : List Host.Cell) (h : Memory.wf m = true) : Memory.wf (m.filter p) = true := by
  induction m with
  | nil => rfl
  | cons c r ih =>
    obtain ⟨h1, h2, h3⟩ := (wf_cons c r).1 h
    rw [List.filter_cons]
    split
    · exact (wf_cons _ _).2 ⟨h1, fun x hx => h2 x (List.mem_filter.1 hx).1, ih h3⟩
    · exact ih h3

theorem wf_append (m r : List Host.Cell) (a : Nat) (hm : Memory.wf m = true) (hr : Memory.wf r = true)
    (h1 : ∀ c ∈ m, c.1 < a) (h2 : Above a r) : Memory.wf (m ++ r) = true := by
  induction m with
  | nil => exact hr
  | cons c m ih =>
    obtain ⟨g1, g2, g3⟩ := (wf_cons c m).1 hm
    refine (wf_cons c (m ++ r)).2 ⟨g1, ?_, ih g3 (fun x hx => h1 x (List.mem_cons_of_mem _ hx))⟩
    intro x hx
    rcases List.mem_append.1 hx with hx | hx
    · exact g2 x hx
    · have := h1 c (List.mem_cons_self ..)
      have := h2 x hx
      omega

theorem cells_range (a n x : Nat) : ∀ c ∈ Memory.cells a n x, a ≤ c.1 ∧ c.1 < a + n := by
  induction n generalizing a x with
  | zero => intro c hc; simp [Memory.cells] at hc
  | succ n ih =>
    intro c hc
    simp only [Memory.cells] at hc
    split at hc
    · have := ih (a + 1) (x / 256) c hc
      omega
    · rcases List.mem_cons.1 hc with rfl | hc
      · simp
      · have := ih (a + 1) (x / 256) c hc
        omega

theorem wf_cells (a n x : Nat) : Memory.wf (Memory.cells a n x) = true := by
  induction n generalizing a x with
  | zero => rfl
  | succ n ih =>
    simp only [Memory.cells]
    split
    · exact ih _ _
    · rename_i h
      refine (wf_cons _ _).2 ⟨?_, fun c hc => (cells_range _ _ _ c hc).1, ih _ _⟩
      intro e
      have e : BitVec.ofNat 8 x = 0 := e
      have := congrArg BitVec.toNat e
      simp at this
      omega

/-- A write keeps the canonical form. -/
theorem wf_write (m : List Host.Cell) (a n x : Nat) (h : Memory.wf m = true) : Memory.wf (Memory.write m a n x) = true := by
  unfold Memory.write
  refine wf_append _ _ a (wf_filter _ _ h) ?_ ?_ ?_
  · refine wf_append _ _ (a + n) (wf_cells _ _ _) (wf_filter _ _ h) (fun c hc => (cells_range _ _ _ c hc).2) ?_
    intro c hc
    exact of_decide_eq_true (List.mem_filter.1 hc).2
  · intro c hc
    exact of_decide_eq_true (List.mem_filter.1 hc).2
  · intro c hc
    rcases List.mem_append.1 hc with hc | hc
    · exact (cells_range _ _ _ c hc).1
    · have : a + n ≤ c.1 := of_decide_eq_true (List.mem_filter.1 hc).2
      omega

/-! ## Reading one byte -/

theorem byte_append (m r : List Host.Cell) (a : Nat) (h : ∀ c ∈ m, c.1 ≠ a) : Memory.byte (m ++ r) a = Memory.byte r a := by
  induction m with
  | nil => rfl
  | cons c m ih =>
    simp only [List.cons_append, Memory.byte]
    rw [if_neg (h c (List.mem_cons_self ..))]
    exact ih (fun x hx => h x (List.mem_cons_of_mem _ hx))

theorem byte_none (m : List Host.Cell) (a : Nat) (h : ∀ c ∈ m, c.1 ≠ a) : Memory.byte m a = 0 := by
  have := byte_append m [] a h
  simpa [Memory.byte] using this

theorem byte_left (m r : List Host.Cell) (a : Nat) (h : ∀ c ∈ r, c.1 ≠ a) : Memory.byte (m ++ r) a = Memory.byte m a := by
  induction m with
  | nil => exact byte_none r a h
  | cons c m ih =>
    simp only [List.cons_append, Memory.byte]
    split
    · rfl
    · exact ih

theorem byte_filter (p : Host.Cell → Bool) (m : List Host.Cell) (a : Nat) (h : ∀ c : Host.Cell, c.1 = a → p c = true) :
    Memory.byte (m.filter p) a = Memory.byte m a := by
  induction m with
  | nil => rfl
  | cons c m ih =>
    rw [List.filter_cons]
    by_cases hc : c.1 = a
    · rw [if_pos (h c hc)]
      simp [Memory.byte, hc]
    · split
      · simp only [Memory.byte, if_neg hc]; exact ih
      · simp only [Memory.byte, if_neg hc]; exact ih

theorem byte_cells (a n x i : Nat) (hi : i < n) : Memory.byte (Memory.cells a n x) (a + i) = BitVec.ofNat 8 (x / 256 ^ i) := by
  induction n generalizing a x i with
  | zero => omega
  | succ n ih =>
    simp only [Memory.cells]
    cases i with
    | zero =>
      split
      · rename_i h
        rw [byte_none]
        · apply BitVec.eq_of_toNat_eq
          simp [h]
        · intro c hc
          have := cells_range _ _ _ c hc
          omega
      · simp [Memory.byte]
    | succ i =>
      have e : x / 256 ^ (i + 1) = x / 256 / 256 ^ i := by
        rw [Nat.pow_succ, Nat.mul_comm, Nat.div_div_eq_div_mul]
      rw [e, show a + (i + 1) = a + 1 + i by omega]
      split
      · exact ih _ _ _ (by omega)
      · simp only [Memory.byte]
        rw [if_neg (by omega)]
        exact ih _ _ _ (by omega)

/-- A byte inside a write reads back as written (R245). -/
theorem byte_write_in (m : List Host.Cell) (a n x i : Nat) (hi : i < n) :
    Memory.byte (Memory.write m a n x) (a + i) = BitVec.ofNat 8 (x / 256 ^ i) := by
  unfold Memory.write
  rw [byte_append, byte_left, byte_cells _ _ _ _ hi]
  · intro c hc
    have : a + n ≤ c.1 := of_decide_eq_true (List.mem_filter.1 hc).2
    omega
  · intro c hc
    have : c.1 < a := of_decide_eq_true (List.mem_filter.1 hc).2
    omega

/-- A byte outside a write is unchanged. -/
theorem byte_write_out (m : List Host.Cell) (a n x b : Nat) (h : b < a ∨ a + n ≤ b) :
    Memory.byte (Memory.write m a n x) b = Memory.byte m b := by
  unfold Memory.write
  have hmid : ∀ c ∈ Memory.cells a n x, c.1 ≠ b := fun c hc => by
    have := cells_range _ _ _ c hc
    omega
  rcases h with h | h
  · rw [byte_left]
    · exact byte_filter _ _ _ (fun c hc => by simp; omega)
    · intro c hc
      rcases List.mem_append.1 hc with hc | hc
      · exact hmid c hc
      · have : a + n ≤ c.1 := of_decide_eq_true (List.mem_filter.1 hc).2
        omega
  · rw [byte_append, byte_append _ _ _ hmid]
    · exact byte_filter _ _ _ (fun c hc => by simp; omega)
    · intro c hc
      have : c.1 < a := of_decide_eq_true (List.mem_filter.1 hc).2
      omega

/-! ## The named writes keep the canonical form -/

theorem dramWrite_canonical (s : State) (loc pa key data mask tag : Nat) (ctag : BitVec 4) (bad : Bool)
    (h : Safety.Canonical s) : Safety.Canonical (s.dramWrite loc pa key data mask tag ctag bad) := by
  unfold State.dramWrite
  dsimp only
  split
  · exact h
  · exact ⟨wf_write _ _ _ _ h.1, h.2.1, h.2.2⟩

theorem spadWrite_canonical (s : State) (c a n x tag : Nat) (h : Safety.Canonical s) :
    Safety.Canonical (s.spadWrite c a n x tag) :=
  ⟨h.1, wf_write _ _ _ _ h.2.1, h.2.2⟩

/-- A scratchpad write within the scratchpad changes the bytes of its range and no other byte of any scratchpad (R244,
R268). -/
theorem spadWrite_byte (s : State) (c a n x tag b : Nat) :
    Memory.byte (s.spadWrite c a n x tag).spad b =
      if spadAddr c a ≤ b ∧ b < spadAddr c a + n then BitVec.ofNat 8 (x / 256 ^ (b - spadAddr c a))
      else Memory.byte s.spad b := by
  show Memory.byte (Memory.write s.spad (spadAddr c a) n x) b = _
  split
  · rename_i h
    have := byte_write_in s.spad (spadAddr c a) n x (b - spadAddr c a) (by omega)
    rwa [show spadAddr c a + (b - spadAddr c a) = b by omega] at this
  · exact byte_write_out _ _ _ _ _ (by omega)

end Sys2Proof.Laws
end

