-- ==== Sys2Proof/Laws/State.lean ====
section
/-! SUPPORT. What the named updates of the state leave and what they change: one lemma for each field of State and each
update, so that no proof unfolds a record update; and reading what was written, for finite maps, sequencers and cores. -/

namespace Sys2Proof.Laws

open Sys2Proof Sys2Proof.Machine

/-! ## Finite maps -/

@[simp] theorem get_set_same {α : Type} (d x : α) (m : Fm α) (i : Nat) : Fm.get d (Fm.set m i x) i = x := by
  induction m with
  | nil => simp [Fm.set, Fm.get]
  | cons e r ih =>
    obtain ⟨k, v⟩ := e
    simp only [Fm.set]
    split
    · simp [Fm.get]
    · split
      · simp [Fm.get]
      · rename_i h1 h2
        simp only [Fm.get]
        rw [if_neg (fun h => h2 h.symm)]
        exact ih

theorem get_set_other {α : Type} (d x : α) (m : Fm α) (i j : Nat) (h : i ≠ j) :
    Fm.get d (Fm.set m i x) j = Fm.get d m j := by
  induction m with
  | nil => simp [Fm.set, Fm.get, h]
  | cons e r ih =>
    obtain ⟨k, v⟩ := e
    simp only [Fm.set]
    split
    · simp [Fm.get, h]
    · split
      · rename_i h1 h2
        subst h2
        simp [Fm.get, h]
      · simp only [Fm.get]
        split
        · rfl
        · exact ih

/-! ## Sequencers and cores -/

@[simp] theorem seq_setSeq_same (s : State) (i : Nat) (q : Seq) : (s.setSeq i q).seq i = q := get_set_same _ _ _ _
theorem seq_setSeq_other (s : State) (i j : Nat) (q : Seq) (h : i ≠ j) : (s.setSeq i q).seq j = s.seq j :=
  get_set_other _ _ _ _ _ h
@[simp] theorem seq_updSeq_same (s : State) (i : Nat) (f : Seq → Seq) : (s.updSeq i f).seq i = f (s.seq i) :=
  get_set_same _ _ _ _
theorem seq_updSeq_other (s : State) (i j : Nat) (f : Seq → Seq) (h : i ≠ j) : (s.updSeq i f).seq j = s.seq j :=
  get_set_other _ _ _ _ _ h
@[simp] theorem core_updCore_same (s : State) (c : Nat) (f : Core → Core) : (s.updCore c f).core c = f (s.core c) :=
  get_set_same _ _ _ _
theorem core_updCore_other (s : State) (c d : Nat) (f : Core → Core) (h : c ≠ d) : (s.updCore c f).core d = s.core d :=
  get_set_other _ _ _ _ _ h
@[simp] theorem part_updPart_same (s : State) (p : Nat) (f : Part → Part) : (s.updPart p f).part p = f (s.part p) :=
  get_set_same _ _ _ _
@[simp] theorem dom_updDom_same (s : State) (d k : Nat) (f : Dom → Dom) : (s.updDom d k f).dom d k = f (s.dom d k) :=
  get_set_same _ _ _ _
@[simp] theorem seq_push (s : State) (e : Ev) (i : Nat) : (s.push e).seq i = s.seq i := rfl
@[simp] theorem seq_land (s : State) (k : Nat) (l : List Land) (i : Nat) : (s.land k l).seq i = s.seq i := rfl
@[simp] theorem seq_updCore (s : State) (c : Nat) (f : Core → Core) (i : Nat) : (s.updCore c f).seq i = s.seq i := rfl
@[simp] theorem core_updSeq (s : State) (i : Nat) (f : Seq → Seq) (c : Nat) : (s.updSeq i f).core c = s.core c := rfl
@[simp] theorem me_updMe (s : State) (f : Seq → Seq) : (s.updMe f).me = f s.me := get_set_same _ _ _ _
@[simp] theorem me_setMe (s : State) (q : Seq) : (s.setMe q).me = q := get_set_same _ _ _ _
@[simp] theorem me_occupy (s : State) (n : Nat) :
    (s.occupy n).me = s.me.setColumn s.cur.col { s.me.column s.cur.col with free := s.now + n } := get_set_same _ _ _ _

/-! ## Registers of a sequencer -/

@[simp] theorem gr_setG_same (q : Seq) (n : Nat) (x : W64) : (q.setG n x).gr n = x := get_set_same _ _ _ _
theorem gr_setG_other (q : Seq) (n k : Nat) (x : W64) (h : n ≠ k) : (q.setG n x).gr k = q.gr k := get_set_other _ _ _ _ _ h
@[simp] theorem mr_zero (q : Seq) : q.mr 0 = BitVec.allOnes 16384 := rfl
@[simp] theorem setM_zero (q : Seq) (x : MaskBits) : q.setM 0 x = q := rfl
@[simp] theorem mr_setM_same (q : Seq) (n : Nat) (x : MaskBits) (h : n ≠ 0) : (q.setM n x).mr n = x := by
  unfold Seq.setM Seq.mr; rw [if_neg h, if_neg h]; exact get_set_same _ _ _ _
@[simp] theorem hr_setH_same (q : Seq) (n : Nat) (x : Handle) : (q.setH n x).hr n = x := get_set_same _ _ _ _
@[simp] theorem kr_setK_same (q : Seq) (n : Nat) (x : Cap) : (q.setK n x).kr n = x := get_set_same _ _ _ _
@[simp] theorem column_setColumn_same (q : Seq) (c : Nat) (x : Column) : (q.setColumn c x).column c = x :=
  get_set_same _ _ _ _
theorem column_setColumn_other (q : Seq) (c d : Nat) (x : Column) (h : c ≠ d) : (q.setColumn c x).column d = q.column d :=
  get_set_other _ _ _ _ _ h
/-- Occupying a column's datapath leaves every register that a word can read. -/
@[simp] theorem gr_setColumn (q : Seq) (c n : Nat) (x : Column) : (q.setColumn c x).gr n = q.gr n := rfl
@[simp] theorem gn_setColumn (q : Seq) (c n : Nat) (x : Column) : (q.setColumn c x).gn n = q.gn n := rfl
@[simp] theorem pr_setColumn (q : Seq) (c n : Nat) (x : Column) : (q.setColumn c x).pr n = q.pr n := rfl
@[simp] theorem pred_setColumn (q : Seq) (c n : Nat) (x : Column) : (q.setColumn c x).pred n = q.pred n := rfl
@[simp] theorem mr_setColumn (q : Seq) (c n : Nat) (x : Column) : (q.setColumn c x).mr n = q.mr n := rfl
@[simp] theorem hr_setColumn (q : Seq) (c n : Nat) (x : Column) : (q.setColumn c x).hr n = q.hr n := rfl
@[simp] theorem kr_setColumn (q : Seq) (c n : Nat) (x : Column) : (q.setColumn c x).kr n = q.kr n := rfl

/-! ## Fields of the state under each update -/

@[simp] theorem now_setSeq (s : State) (i : Nat) (q : Seq) : (s.setSeq i q).now = s.now := rfl
@[simp] theorem beacon_setSeq (s : State) (i : Nat) (q : Seq) : (s.setSeq i q).beacon = s.beacon := rfl
@[simp] theorem cores_setSeq (s : State) (i : Nat) (q : Seq) : (s.setSeq i q).cores = s.cores := rfl
@[simp] theorem mem_setSeq (s : State) (i : Nat) (q : Seq) : (s.setSeq i q).mem = s.mem := rfl
@[simp] theorem mtag_setSeq (s : State) (i : Nat) (q : Seq) : (s.setSeq i q).mtag = s.mtag := rfl
@[simp] theorem ctag_setSeq (s : State) (i : Nat) (q : Seq) : (s.setSeq i q).ctag = s.ctag := rfl
@[simp] theorem bkey_setSeq (s : State) (i : Nat) (q : Seq) : (s.setSeq i q).bkey = s.bkey := rfl
@[simp] theorem bad_setSeq (s : State) (i : Nat) (q : Seq) : (s.setSeq i q).bad = s.bad := rfl
@[simp] theorem spad_setSeq (s : State) (i : Nat) (q : Seq) : (s.setSeq i q).spad = s.spad := rfl
@[simp] theorem stag_setSeq (s : State) (i : Nat) (q : Seq) : (s.setSeq i q).stag = s.stag := rfl
@[simp] theorem sbad_setSeq (s : State) (i : Nat) (q : Seq) : (s.setSeq i q).sbad = s.sbad := rfl
@[simp] theorem l2_setSeq (s : State) (i : Nat) (q : Seq) : (s.setSeq i q).l2 = s.l2 := rfl
@[simp] theorem wbuf_setSeq (s : State) (i : Nat) (q : Seq) : (s.setSeq i q).wbuf = s.wbuf := rfl
@[simp] theorem miss_setSeq (s : State) (i : Nat) (q : Seq) : (s.setSeq i q).miss = s.miss := rfl
@[simp] theorem accepted_setSeq (s : State) (i : Nat) (q : Seq) : (s.setSeq i q).accepted = s.accepted := rfl
@[simp] theorem rdc_setSeq (s : State) (i : Nat) (q : Seq) : (s.setSeq i q).rdc = s.rdc := rfl
@[simp] theorem tlb_setSeq (s : State) (i : Nat) (q : Seq) : (s.setSeq i q).tlb = s.tlb := rfl
@[simp] theorem stamp_setSeq (s : State) (i : Nat) (q : Seq) : (s.setSeq i q).stamp = s.stamp := rfl
@[simp] theorem doms_setSeq (s : State) (i : Nat) (q : Seq) : (s.setSeq i q).doms = s.doms := rfl
@[simp] theorem keys_setSeq (s : State) (i : Nat) (q : Seq) : (s.setSeq i q).keys = s.keys := rfl
@[simp] theorem keyNext_setSeq (s : State) (i : Nat) (q : Seq) : (s.setSeq i q).keyNext = s.keyNext := rfl
@[simp] theorem revokes_setSeq (s : State) (i : Nat) (q : Seq) : (s.setSeq i q).revokes = s.revokes := rfl
@[simp] theorem syncs_setSeq (s : State) (i : Nat) (q : Seq) : (s.setSeq i q).syncs = s.syncs := rfl
@[simp] theorem parts_setSeq (s : State) (i : Nat) (q : Seq) : (s.setSeq i q).parts = s.parts := rfl
@[simp] theorem pool_setSeq (s : State) (i : Nat) (q : Seq) : (s.setSeq i q).pool = s.pool := rfl
@[simp] theorem saved_setSeq (s : State) (i : Nat) (q : Seq) : (s.setSeq i q).saved = s.saved := rfl
@[simp] theorem fatalSlots_setSeq (s : State) (i : Nat) (q : Seq) : (s.setSeq i q).fatalSlots = s.fatalSlots := rfl
@[simp] theorem launchNext_setSeq (s : State) (i : Nat) (q : Seq) : (s.setSeq i q).launchNext = s.launchNext := rfl
@[simp] theorem hub_setSeq (s : State) (i : Nat) (q : Seq) : (s.setSeq i q).hub = s.hub := rfl
@[simp] theorem dsel_setSeq (s : State) (i : Nat) (q : Seq) : (s.setSeq i q).dsel = s.dsel := rfl
@[simp] theorem gates_setSeq (s : State) (i : Nat) (q : Seq) : (s.setSeq i q).gates = s.gates := rfl
@[simp] theorem colls_setSeq (s : State) (i : Nat) (q : Seq) : (s.setSeq i q).colls = s.colls := rfl
@[simp] theorem links_setSeq (s : State) (i : Nat) (q : Seq) : (s.setSeq i q).links = s.links := rfl
@[simp] theorem exports_setSeq (s : State) (i : Nat) (q : Seq) : (s.setSeq i q).exports = s.exports := rfl
@[simp] theorem rpaths_setSeq (s : State) (i : Nat) (q : Seq) : (s.setSeq i q).rpaths = s.rpaths := rfl
@[simp] theorem outbox_setSeq (s : State) (i : Nat) (q : Seq) : (s.setSeq i q).outbox = s.outbox := rfl
@[simp] theorem replays_setSeq (s : State) (i : Nat) (q : Seq) : (s.setSeq i q).replays = s.replays := rfl
@[simp] theorem awaiting_setSeq (s : State) (i : Nat) (q : Seq) : (s.setSeq i q).awaiting = s.awaiting := rfl
@[simp] theorem ctxs_setSeq (s : State) (i : Nat) (q : Seq) : (s.setSeq i q).ctxs = s.ctxs := rfl
@[simp] theorem plists_setSeq (s : State) (i : Nat) (q : Seq) : (s.setSeq i q).plists = s.plists := rfl
@[simp] theorem engines_setSeq (s : State) (i : Nat) (q : Seq) : (s.setSeq i q).engines = s.engines := rfl
@[simp] theorem kvPool_setSeq (s : State) (i : Nat) (q : Seq) : (s.setSeq i q).kvPool = s.kvPool := rfl
@[simp] theorem detached_setSeq (s : State) (i : Nat) (q : Seq) : (s.setSeq i q).detached = s.detached := rfl
@[simp] theorem tiers_setSeq (s : State) (i : Nat) (q : Seq) : (s.setSeq i q).tiers = s.tiers := rfl
@[simp] theorem fenced_setSeq (s : State) (i : Nat) (q : Seq) : (s.setSeq i q).fenced = s.fenced := rfl
@[simp] theorem spareCluster_setSeq (s : State) (i : Nat) (q : Seq) : (s.setSeq i q).spareCluster = s.spareCluster := rfl
@[simp] theorem sparePair_setSeq (s : State) (i : Nat) (q : Seq) : (s.setSeq i q).sparePair = s.sparePair := rfl
@[simp] theorem retiring_setSeq (s : State) (i : Nat) (q : Seq) : (s.setSeq i q).retiring = s.retiring := rfl
@[simp] theorem lostClusters_setSeq (s : State) (i : Nat) (q : Seq) : (s.setSeq i q).lostClusters = s.lostClusters := rfl
@[simp] theorem lostSlices_setSeq (s : State) (i : Nat) (q : Seq) : (s.setSeq i q).lostSlices = s.lostSlices := rfl
@[simp] theorem vfs_setSeq (s : State) (i : Nat) (q : Seq) : (s.setSeq i q).vfs = s.vfs := rfl
@[simp] theorem bells_setSeq (s : State) (i : Nat) (q : Seq) : (s.setSeq i q).bells = s.bells := rfl
@[simp] theorem hostMem_setSeq (s : State) (i : Nat) (q : Seq) : (s.setSeq i q).hostMem = s.hostMem := rfl
@[simp] theorem bootst_setSeq (s : State) (i : Nat) (q : Seq) : (s.setSeq i q).bootst = s.bootst := rfl
@[simp] theorem bootStep_setSeq (s : State) (i : Nat) (q : Seq) : (s.setSeq i q).bootStep = s.bootStep := rfl
@[simp] theorem fuses_setSeq (s : State) (i : Nat) (q : Seq) : (s.setSeq i q).fuses = s.fuses := rfl
@[simp] theorem imageSrc_setSeq (s : State) (i : Nat) (q : Seq) : (s.setSeq i q).imageSrc = s.imageSrc := rfl
@[simp] theorem stopped_setSeq (s : State) (i : Nat) (q : Seq) : (s.setSeq i q).stopped = s.stopped := rfl
@[simp] theorem agenda_setSeq (s : State) (i : Nat) (q : Seq) : (s.setSeq i q).agenda = s.agenda := rfl
@[simp] theorem nextId_setSeq (s : State) (i : Nat) (q : Seq) : (s.setSeq i q).nextId = s.nextId := rfl
@[simp] theorem arg_setSeq (s : State) (i : Nat) (q : Seq) : (s.setSeq i q).arg = s.arg := rfl
@[simp] theorem cur_setSeq (s : State) (i : Nat) (q : Seq) : (s.setSeq i q).cur = s.cur := rfl
@[simp] theorem choices_setSeq (s : State) (i : Nat) (q : Seq) : (s.setSeq i q).choices = s.choices := rfl
@[simp] theorem drawn_setSeq (s : State) (i : Nat) (q : Seq) : (s.setSeq i q).drawn = s.drawn := rfl

@[simp] theorem now_updSeq (s : State) (i : Nat) (f : Seq → Seq) : (s.updSeq i f).now = s.now := rfl
@[simp] theorem beacon_updSeq (s : State) (i : Nat) (f : Seq → Seq) : (s.updSeq i f).beacon = s.beacon := rfl
@[simp] theorem cores_updSeq (s : State) (i : Nat) (f : Seq → Seq) : (s.updSeq i f).cores = s.cores := rfl
@[simp] theorem mem_updSeq (s : State) (i : Nat) (f : Seq → Seq) : (s.updSeq i f).mem = s.mem := rfl
@[simp] theorem mtag_updSeq (s : State) (i : Nat) (f : Seq → Seq) : (s.updSeq i f).mtag = s.mtag := rfl
@[simp] theorem ctag_updSeq (s : State) (i : Nat) (f : Seq → Seq) : (s.updSeq i f).ctag = s.ctag := rfl
@[simp] theorem bkey_updSeq (s : State) (i : Nat) (f : Seq → Seq) : (s.updSeq i f).bkey = s.bkey := rfl
@[simp] theorem bad_updSeq (s : State) (i : Nat) (f : Seq → Seq) : (s.updSeq i f).bad = s.bad := rfl
@[simp] theorem spad_updSeq (s : State) (i : Nat) (f : Seq → Seq) : (s.updSeq i f).spad = s.spad := rfl
@[simp] theorem stag_updSeq (s : State) (i : Nat) (f : Seq → Seq) : (s.updSeq i f).stag = s.stag := rfl
@[simp] theorem sbad_updSeq (s : State) (i : Nat) (f : Seq → Seq) : (s.updSeq i f).sbad = s.sbad := rfl
@[simp] theorem l2_updSeq (s : State) (i : Nat) (f : Seq → Seq) : (s.updSeq i f).l2 = s.l2 := rfl
@[simp] theorem wbuf_updSeq (s : State) (i : Nat) (f : Seq → Seq) : (s.updSeq i f).wbuf = s.wbuf := rfl
@[simp] theorem miss_updSeq (s : State) (i : Nat) (f : Seq → Seq) : (s.updSeq i f).miss = s.miss := rfl
@[simp] theorem accepted_updSeq (s : State) (i : Nat) (f : Seq → Seq) : (s.updSeq i f).accepted = s.accepted := rfl
@[simp] theorem rdc_updSeq (s : State) (i : Nat) (f : Seq → Seq) : (s.updSeq i f).rdc = s.rdc := rfl
@[simp] theorem tlb_updSeq (s : State) (i : Nat) (f : Seq → Seq) : (s.updSeq i f).tlb = s.tlb := rfl
@[simp] theorem stamp_updSeq (s : State) (i : Nat) (f : Seq → Seq) : (s.updSeq i f).stamp = s.stamp := rfl
@[simp] theorem doms_updSeq (s : State) (i : Nat) (f : Seq → Seq) : (s.updSeq i f).doms = s.doms := rfl
@[simp] theorem keys_updSeq (s : State) (i : Nat) (f : Seq → Seq) : (s.updSeq i f).keys = s.keys := rfl
@[simp] theorem keyNext_updSeq (s : State) (i : Nat) (f : Seq → Seq) : (s.updSeq i f).keyNext = s.keyNext := rfl
@[simp] theorem revokes_updSeq (s : State) (i : Nat) (f : Seq → Seq) : (s.updSeq i f).revokes = s.revokes := rfl
@[simp] theorem syncs_updSeq (s : State) (i : Nat) (f : Seq → Seq) : (s.updSeq i f).syncs = s.syncs := rfl
@[simp] theorem parts_updSeq (s : State) (i : Nat) (f : Seq → Seq) : (s.updSeq i f).parts = s.parts := rfl
@[simp] theorem pool_updSeq (s : State) (i : Nat) (f : Seq → Seq) : (s.updSeq i f).pool = s.pool := rfl
@[simp] theorem saved_updSeq (s : State) (i : Nat) (f : Seq → Seq) : (s.updSeq i f).saved = s.saved := rfl
@[simp] theorem fatalSlots_updSeq (s : State) (i : Nat) (f : Seq → Seq) : (s.updSeq i f).fatalSlots = s.fatalSlots := rfl
@[simp] theorem launchNext_updSeq (s : State) (i : Nat) (f : Seq → Seq) : (s.updSeq i f).launchNext = s.launchNext := rfl
@[simp] theorem hub_updSeq (s : State) (i : Nat) (f : Seq → Seq) : (s.updSeq i f).hub = s.hub := rfl
@[simp] theorem dsel_updSeq (s : State) (i : Nat) (f : Seq → Seq) : (s.updSeq i f).dsel = s.dsel := rfl
@[simp] theorem gates_updSeq (s : State) (i : Nat) (f : Seq → Seq) : (s.updSeq i f).gates = s.gates := rfl
@[simp] theorem colls_updSeq (s : State) (i : Nat) (f : Seq → Seq) : (s.updSeq i f).colls = s.colls := rfl
@[simp] theorem links_updSeq (s : State) (i : Nat) (f : Seq → Seq) : (s.updSeq i f).links = s.links := rfl
@[simp] theorem exports_updSeq (s : State) (i : Nat) (f : Seq → Seq) : (s.updSeq i f).exports = s.exports := rfl
@[simp] theorem rpaths_updSeq (s : State) (i : Nat) (f : Seq → Seq) : (s.updSeq i f).rpaths = s.rpaths := rfl
@[simp] theorem outbox_updSeq (s : State) (i : Nat) (f : Seq → Seq) : (s.updSeq i f).outbox = s.outbox := rfl
@[simp] theorem replays_updSeq (s : State) (i : Nat) (f : Seq → Seq) : (s.updSeq i f).replays = s.replays := rfl
@[simp] theorem awaiting_updSeq (s : State) (i : Nat) (f : Seq → Seq) : (s.updSeq i f).awaiting = s.awaiting := rfl
@[simp] theorem ctxs_updSeq (s : State) (i : Nat) (f : Seq → Seq) : (s.updSeq i f).ctxs = s.ctxs := rfl
@[simp] theorem plists_updSeq (s : State) (i : Nat) (f : Seq → Seq) : (s.updSeq i f).plists = s.plists := rfl
@[simp] theorem engines_updSeq (s : State) (i : Nat) (f : Seq → Seq) : (s.updSeq i f).engines = s.engines := rfl
@[simp] theorem kvPool_updSeq (s : State) (i : Nat) (f : Seq → Seq) : (s.updSeq i f).kvPool = s.kvPool := rfl
@[simp] theorem detached_updSeq (s : State) (i : Nat) (f : Seq → Seq) : (s.updSeq i f).detached = s.detached := rfl
@[simp] theorem tiers_updSeq (s : State) (i : Nat) (f : Seq → Seq) : (s.updSeq i f).tiers = s.tiers := rfl
@[simp] theorem fenced_updSeq (s : State) (i : Nat) (f : Seq → Seq) : (s.updSeq i f).fenced = s.fenced := rfl
@[simp] theorem spareCluster_updSeq (s : State) (i : Nat) (f : Seq → Seq) : (s.updSeq i f).spareCluster = s.spareCluster := rfl
@[simp] theorem sparePair_updSeq (s : State) (i : Nat) (f : Seq → Seq) : (s.updSeq i f).sparePair = s.sparePair := rfl
@[simp] theorem retiring_updSeq (s : State) (i : Nat) (f : Seq → Seq) : (s.updSeq i f).retiring = s.retiring := rfl
@[simp] theorem lostClusters_updSeq (s : State) (i : Nat) (f : Seq → Seq) : (s.updSeq i f).lostClusters = s.lostClusters := rfl
@[simp] theorem lostSlices_updSeq (s : State) (i : Nat) (f : Seq → Seq) : (s.updSeq i f).lostSlices = s.lostSlices := rfl
@[simp] theorem vfs_updSeq (s : State) (i : Nat) (f : Seq → Seq) : (s.updSeq i f).vfs = s.vfs := rfl
@[simp] theorem bells_updSeq (s : State) (i : Nat) (f : Seq → Seq) : (s.updSeq i f).bells = s.bells := rfl
@[simp] theorem hostMem_updSeq (s : State) (i : Nat) (f : Seq → Seq) : (s.updSeq i f).hostMem = s.hostMem := rfl
@[simp] theorem bootst_updSeq (s : State) (i : Nat) (f : Seq → Seq) : (s.updSeq i f).bootst = s.bootst := rfl
@[simp] theorem bootStep_updSeq (s : State) (i : Nat) (f : Seq → Seq) : (s.updSeq i f).bootStep = s.bootStep := rfl
@[simp] theorem fuses_updSeq (s : State) (i : Nat) (f : Seq → Seq) : (s.updSeq i f).fuses = s.fuses := rfl
@[simp] theorem imageSrc_updSeq (s : State) (i : Nat) (f : Seq → Seq) : (s.updSeq i f).imageSrc = s.imageSrc := rfl
@[simp] theorem stopped_updSeq (s : State) (i : Nat) (f : Seq → Seq) : (s.updSeq i f).stopped = s.stopped := rfl
@[simp] theorem agenda_updSeq (s : State) (i : Nat) (f : Seq → Seq) : (s.updSeq i f).agenda = s.agenda := rfl
@[simp] theorem nextId_updSeq (s : State) (i : Nat) (f : Seq → Seq) : (s.updSeq i f).nextId = s.nextId := rfl
@[simp] theorem arg_updSeq (s : State) (i : Nat) (f : Seq → Seq) : (s.updSeq i f).arg = s.arg := rfl
@[simp] theorem cur_updSeq (s : State) (i : Nat) (f : Seq → Seq) : (s.updSeq i f).cur = s.cur := rfl
@[simp] theorem choices_updSeq (s : State) (i : Nat) (f : Seq → Seq) : (s.updSeq i f).choices = s.choices := rfl
@[simp] theorem drawn_updSeq (s : State) (i : Nat) (f : Seq → Seq) : (s.updSeq i f).drawn = s.drawn := rfl

@[simp] theorem now_setMe (s : State) (q : Seq) : (s.setMe q).now = s.now := rfl
@[simp] theorem beacon_setMe (s : State) (q : Seq) : (s.setMe q).beacon = s.beacon := rfl
@[simp] theorem cores_setMe (s : State) (q : Seq) : (s.setMe q).cores = s.cores := rfl
@[simp] theorem mem_setMe (s : State) (q : Seq) : (s.setMe q).mem = s.mem := rfl
@[simp] theorem mtag_setMe (s : State) (q : Seq) : (s.setMe q).mtag = s.mtag := rfl
@[simp] theorem ctag_setMe (s : State) (q : Seq) : (s.setMe q).ctag = s.ctag := rfl
@[simp] theorem bkey_setMe (s : State) (q : Seq) : (s.setMe q).bkey = s.bkey := rfl
@[simp] theorem bad_setMe (s : State) (q : Seq) : (s.setMe q).bad = s.bad := rfl
@[simp] theorem spad_setMe (s : State) (q : Seq) : (s.setMe q).spad = s.spad := rfl
@[simp] theorem stag_setMe (s : State) (q : Seq) : (s.setMe q).stag = s.stag := rfl
@[simp] theorem sbad_setMe (s : State) (q : Seq) : (s.setMe q).sbad = s.sbad := rfl
@[simp] theorem l2_setMe (s : State) (q : Seq) : (s.setMe q).l2 = s.l2 := rfl
@[simp] theorem wbuf_setMe (s : State) (q : Seq) : (s.setMe q).wbuf = s.wbuf := rfl
@[simp] theorem miss_setMe (s : State) (q : Seq) : (s.setMe q).miss = s.miss := rfl
@[simp] theorem accepted_setMe (s : State) (q : Seq) : (s.setMe q).accepted = s.accepted := rfl
@[simp] theorem rdc_setMe (s : State) (q : Seq) : (s.setMe q).rdc = s.rdc := rfl
@[simp] theorem tlb_setMe (s : State) (q : Seq) : (s.setMe q).tlb = s.tlb := rfl
@[simp] theorem stamp_setMe (s : State) (q : Seq) : (s.setMe q).stamp = s.stamp := rfl
@[simp] theorem doms_setMe (s : State) (q : Seq) : (s.setMe q).doms = s.doms := rfl
@[simp] theorem keys_setMe (s : State) (q : Seq) : (s.setMe q).keys = s.keys := rfl
@[simp] theorem keyNext_setMe (s : State) (q : Seq) : (s.setMe q).keyNext = s.keyNext := rfl
@[simp] theorem revokes_setMe (s : State) (q : Seq) : (s.setMe q).revokes = s.revokes := rfl
@[simp] theorem syncs_setMe (s : State) (q : Seq) : (s.setMe q).syncs = s.syncs := rfl
@[simp] theorem parts_setMe (s : State) (q : Seq) : (s.setMe q).parts = s.parts := rfl
@[simp] theorem pool_setMe (s : State) (q : Seq) : (s.setMe q).pool = s.pool := rfl
@[simp] theorem saved_setMe (s : State) (q : Seq) : (s.setMe q).saved = s.saved := rfl
@[simp] theorem fatalSlots_setMe (s : State) (q : Seq) : (s.setMe q).fatalSlots = s.fatalSlots := rfl
@[simp] theorem launchNext_setMe (s : State) (q : Seq) : (s.setMe q).launchNext = s.launchNext := rfl
@[simp] theorem hub_setMe (s : State) (q : Seq) : (s.setMe q).hub = s.hub := rfl
@[simp] theorem dsel_setMe (s : State) (q : Seq) : (s.setMe q).dsel = s.dsel := rfl
@[simp] theorem gates_setMe (s : State) (q : Seq) : (s.setMe q).gates = s.gates := rfl
@[simp] theorem colls_setMe (s : State) (q : Seq) : (s.setMe q).colls = s.colls := rfl
@[simp] theorem links_setMe (s : State) (q : Seq) : (s.setMe q).links = s.links := rfl
@[simp] theorem exports_setMe (s : State) (q : Seq) : (s.setMe q).exports = s.exports := rfl
@[simp] theorem rpaths_setMe (s : State) (q : Seq) : (s.setMe q).rpaths = s.rpaths := rfl
@[simp] theorem outbox_setMe (s : State) (q : Seq) : (s.setMe q).outbox = s.outbox := rfl
@[simp] theorem replays_setMe (s : State) (q : Seq) : (s.setMe q).replays = s.replays := rfl
@[simp] theorem awaiting_setMe (s : State) (q : Seq) : (s.setMe q).awaiting = s.awaiting := rfl
@[simp] theorem ctxs_setMe (s : State) (q : Seq) : (s.setMe q).ctxs = s.ctxs := rfl
@[simp] theorem plists_setMe (s : State) (q : Seq) : (s.setMe q).plists = s.plists := rfl
@[simp] theorem engines_setMe (s : State) (q : Seq) : (s.setMe q).engines = s.engines := rfl
@[simp] theorem kvPool_setMe (s : State) (q : Seq) : (s.setMe q).kvPool = s.kvPool := rfl
@[simp] theorem detached_setMe (s : State) (q : Seq) : (s.setMe q).detached = s.detached := rfl
@[simp] theorem tiers_setMe (s : State) (q : Seq) : (s.setMe q).tiers = s.tiers := rfl
@[simp] theorem fenced_setMe (s : State) (q : Seq) : (s.setMe q).fenced = s.fenced := rfl
@[simp] theorem spareCluster_setMe (s : State) (q : Seq) : (s.setMe q).spareCluster = s.spareCluster := rfl
@[simp] theorem sparePair_setMe (s : State) (q : Seq) : (s.setMe q).sparePair = s.sparePair := rfl
@[simp] theorem retiring_setMe (s : State) (q : Seq) : (s.setMe q).retiring = s.retiring := rfl
@[simp] theorem lostClusters_setMe (s : State) (q : Seq) : (s.setMe q).lostClusters = s.lostClusters := rfl
@[simp] theorem lostSlices_setMe (s : State) (q : Seq) : (s.setMe q).lostSlices = s.lostSlices := rfl
@[simp] theorem vfs_setMe (s : State) (q : Seq) : (s.setMe q).vfs = s.vfs := rfl
@[simp] theorem bells_setMe (s : State) (q : Seq) : (s.setMe q).bells = s.bells := rfl
@[simp] theorem hostMem_setMe (s : State) (q : Seq) : (s.setMe q).hostMem = s.hostMem := rfl
@[simp] theorem bootst_setMe (s : State) (q : Seq) : (s.setMe q).bootst = s.bootst := rfl
@[simp] theorem bootStep_setMe (s : State) (q : Seq) : (s.setMe q).bootStep = s.bootStep := rfl
@[simp] theorem fuses_setMe (s : State) (q : Seq) : (s.setMe q).fuses = s.fuses := rfl
@[simp] theorem imageSrc_setMe (s : State) (q : Seq) : (s.setMe q).imageSrc = s.imageSrc := rfl
@[simp] theorem stopped_setMe (s : State) (q : Seq) : (s.setMe q).stopped = s.stopped := rfl
@[simp] theorem agenda_setMe (s : State) (q : Seq) : (s.setMe q).agenda = s.agenda := rfl
@[simp] theorem nextId_setMe (s : State) (q : Seq) : (s.setMe q).nextId = s.nextId := rfl
@[simp] theorem arg_setMe (s : State) (q : Seq) : (s.setMe q).arg = s.arg := rfl
@[simp] theorem cur_setMe (s : State) (q : Seq) : (s.setMe q).cur = s.cur := rfl
@[simp] theorem choices_setMe (s : State) (q : Seq) : (s.setMe q).choices = s.choices := rfl
@[simp] theorem drawn_setMe (s : State) (q : Seq) : (s.setMe q).drawn = s.drawn := rfl

@[simp] theorem now_updMe (s : State) (f : Seq → Seq) : (s.updMe f).now = s.now := rfl
@[simp] theorem beacon_updMe (s : State) (f : Seq → Seq) : (s.updMe f).beacon = s.beacon := rfl
@[simp] theorem cores_updMe (s : State) (f : Seq → Seq) : (s.updMe f).cores = s.cores := rfl
@[simp] theorem mem_updMe (s : State) (f : Seq → Seq) : (s.updMe f).mem = s.mem := rfl
@[simp] theorem mtag_updMe (s : State) (f : Seq → Seq) : (s.updMe f).mtag = s.mtag := rfl
@[simp] theorem ctag_updMe (s : State) (f : Seq → Seq) : (s.updMe f).ctag = s.ctag := rfl
@[simp] theorem bkey_updMe (s : State) (f : Seq → Seq) : (s.updMe f).bkey = s.bkey := rfl
@[simp] theorem bad_updMe (s : State) (f : Seq → Seq) : (s.updMe f).bad = s.bad := rfl
@[simp] theorem spad_updMe (s : State) (f : Seq → Seq) : (s.updMe f).spad = s.spad := rfl
@[simp] theorem stag_updMe (s : State) (f : Seq → Seq) : (s.updMe f).stag = s.stag := rfl
@[simp] theorem sbad_updMe (s : State) (f : Seq → Seq) : (s.updMe f).sbad = s.sbad := rfl
@[simp] theorem l2_updMe (s : State) (f : Seq → Seq) : (s.updMe f).l2 = s.l2 := rfl
@[simp] theorem wbuf_updMe (s : State) (f : Seq → Seq) : (s.updMe f).wbuf = s.wbuf := rfl
@[simp] theorem miss_updMe (s : State) (f : Seq → Seq) : (s.updMe f).miss = s.miss := rfl
@[simp] theorem accepted_updMe (s : State) (f : Seq → Seq) : (s.updMe f).accepted = s.accepted := rfl
@[simp] theorem rdc_updMe (s : State) (f : Seq → Seq) : (s.updMe f).rdc = s.rdc := rfl
@[simp] theorem tlb_updMe (s : State) (f : Seq → Seq) : (s.updMe f).tlb = s.tlb := rfl
@[simp] theorem stamp_updMe (s : State) (f : Seq → Seq) : (s.updMe f).stamp = s.stamp := rfl
@[simp] theorem doms_updMe (s : State) (f : Seq → Seq) : (s.updMe f).doms = s.doms := rfl
@[simp] theorem keys_updMe (s : State) (f : Seq → Seq) : (s.updMe f).keys = s.keys := rfl
@[simp] theorem keyNext_updMe (s : State) (f : Seq → Seq) : (s.updMe f).keyNext = s.keyNext := rfl
@[simp] theorem revokes_updMe (s : State) (f : Seq → Seq) : (s.updMe f).revokes = s.revokes := rfl
@[simp] theorem syncs_updMe (s : State) (f : Seq → Seq) : (s.updMe f).syncs = s.syncs := rfl
@[simp] theorem parts_updMe (s : State) (f : Seq → Seq) : (s.updMe f).parts = s.parts := rfl
@[simp] theorem pool_updMe (s : State) (f : Seq → Seq) : (s.updMe f).pool = s.pool := rfl
@[simp] theorem saved_updMe (s : State) (f : Seq → Seq) : (s.updMe f).saved = s.saved := rfl
@[simp] theorem fatalSlots_updMe (s : State) (f : Seq → Seq) : (s.updMe f).fatalSlots = s.fatalSlots := rfl
@[simp] theorem launchNext_updMe (s : State) (f : Seq → Seq) : (s.updMe f).launchNext = s.launchNext := rfl
@[simp] theorem hub_updMe (s : State) (f : Seq → Seq) : (s.updMe f).hub = s.hub := rfl
@[simp] theorem dsel_updMe (s : State) (f : Seq → Seq) : (s.updMe f).dsel = s.dsel := rfl
@[simp] theorem gates_updMe (s : State) (f : Seq → Seq) : (s.updMe f).gates = s.gates := rfl
@[simp] theorem colls_updMe (s : State) (f : Seq → Seq) : (s.updMe f).colls = s.colls := rfl
@[simp] theorem links_updMe (s : State) (f : Seq → Seq) : (s.updMe f).links = s.links := rfl
@[simp] theorem exports_updMe (s : State) (f : Seq → Seq) : (s.updMe f).exports = s.exports := rfl
@[simp] theorem rpaths_updMe (s : State) (f : Seq → Seq) : (s.updMe f).rpaths = s.rpaths := rfl
@[simp] theorem outbox_updMe (s : State) (f : Seq → Seq) : (s.updMe f).outbox = s.outbox := rfl
@[simp] theorem replays_updMe (s : State) (f : Seq → Seq) : (s.updMe f).replays = s.replays := rfl
@[simp] theorem awaiting_updMe (s : State) (f : Seq → Seq) : (s.updMe f).awaiting = s.awaiting := rfl
@[simp] theorem ctxs_updMe (s : State) (f : Seq → Seq) : (s.updMe f).ctxs = s.ctxs := rfl
@[simp] theorem plists_updMe (s : State) (f : Seq → Seq) : (s.updMe f).plists = s.plists := rfl
@[simp] theorem engines_updMe (s : State) (f : Seq → Seq) : (s.updMe f).engines = s.engines := rfl
@[simp] theorem kvPool_updMe (s : State) (f : Seq → Seq) : (s.updMe f).kvPool = s.kvPool := rfl
@[simp] theorem detached_updMe (s : State) (f : Seq → Seq) : (s.updMe f).detached = s.detached := rfl
@[simp] theorem tiers_updMe (s : State) (f : Seq → Seq) : (s.updMe f).tiers = s.tiers := rfl
@[simp] theorem fenced_updMe (s : State) (f : Seq → Seq) : (s.updMe f).fenced = s.fenced := rfl
@[simp] theorem spareCluster_updMe (s : State) (f : Seq → Seq) : (s.updMe f).spareCluster = s.spareCluster := rfl
@[simp] theorem sparePair_updMe (s : State) (f : Seq → Seq) : (s.updMe f).sparePair = s.sparePair := rfl
@[simp] theorem retiring_updMe (s : State) (f : Seq → Seq) : (s.updMe f).retiring = s.retiring := rfl
@[simp] theorem lostClusters_updMe (s : State) (f : Seq → Seq) : (s.updMe f).lostClusters = s.lostClusters := rfl
@[simp] theorem lostSlices_updMe (s : State) (f : Seq → Seq) : (s.updMe f).lostSlices = s.lostSlices := rfl
@[simp] theorem vfs_updMe (s : State) (f : Seq → Seq) : (s.updMe f).vfs = s.vfs := rfl
@[simp] theorem bells_updMe (s : State) (f : Seq → Seq) : (s.updMe f).bells = s.bells := rfl
@[simp] theorem hostMem_updMe (s : State) (f : Seq → Seq) : (s.updMe f).hostMem = s.hostMem := rfl
@[simp] theorem bootst_updMe (s : State) (f : Seq → Seq) : (s.updMe f).bootst = s.bootst := rfl
@[simp] theorem bootStep_updMe (s : State) (f : Seq → Seq) : (s.updMe f).bootStep = s.bootStep := rfl
@[simp] theorem fuses_updMe (s : State) (f : Seq → Seq) : (s.updMe f).fuses = s.fuses := rfl
@[simp] theorem imageSrc_updMe (s : State) (f : Seq → Seq) : (s.updMe f).imageSrc = s.imageSrc := rfl
@[simp] theorem stopped_updMe (s : State) (f : Seq → Seq) : (s.updMe f).stopped = s.stopped := rfl
@[simp] theorem agenda_updMe (s : State) (f : Seq → Seq) : (s.updMe f).agenda = s.agenda := rfl
@[simp] theorem nextId_updMe (s : State) (f : Seq → Seq) : (s.updMe f).nextId = s.nextId := rfl
@[simp] theorem arg_updMe (s : State) (f : Seq → Seq) : (s.updMe f).arg = s.arg := rfl
@[simp] theorem cur_updMe (s : State) (f : Seq → Seq) : (s.updMe f).cur = s.cur := rfl
@[simp] theorem choices_updMe (s : State) (f : Seq → Seq) : (s.updMe f).choices = s.choices := rfl
@[simp] theorem drawn_updMe (s : State) (f : Seq → Seq) : (s.updMe f).drawn = s.drawn := rfl

@[simp] theorem now_updCore (s : State) (c : Nat) (f : Core → Core) : (s.updCore c f).now = s.now := rfl
@[simp] theorem beacon_updCore (s : State) (c : Nat) (f : Core → Core) : (s.updCore c f).beacon = s.beacon := rfl
@[simp] theorem seqs_updCore (s : State) (c : Nat) (f : Core → Core) : (s.updCore c f).seqs = s.seqs := rfl
@[simp] theorem mem_updCore (s : State) (c : Nat) (f : Core → Core) : (s.updCore c f).mem = s.mem := rfl
@[simp] theorem mtag_updCore (s : State) (c : Nat) (f : Core → Core) : (s.updCore c f).mtag = s.mtag := rfl
@[simp] theorem ctag_updCore (s : State) (c : Nat) (f : Core → Core) : (s.updCore c f).ctag = s.ctag := rfl
@[simp] theorem bkey_updCore (s : State) (c : Nat) (f : Core → Core) : (s.updCore c f).bkey = s.bkey := rfl
@[simp] theorem bad_updCore (s : State) (c : Nat) (f : Core → Core) : (s.updCore c f).bad = s.bad := rfl
@[simp] theorem spad_updCore (s : State) (c : Nat) (f : Core → Core) : (s.updCore c f).spad = s.spad := rfl
@[simp] theorem stag_updCore (s : State) (c : Nat) (f : Core → Core) : (s.updCore c f).stag = s.stag := rfl
@[simp] theorem sbad_updCore (s : State) (c : Nat) (f : Core → Core) : (s.updCore c f).sbad = s.sbad := rfl
@[simp] theorem l2_updCore (s : State) (c : Nat) (f : Core → Core) : (s.updCore c f).l2 = s.l2 := rfl
@[simp] theorem wbuf_updCore (s : State) (c : Nat) (f : Core → Core) : (s.updCore c f).wbuf = s.wbuf := rfl
@[simp] theorem miss_updCore (s : State) (c : Nat) (f : Core → Core) : (s.updCore c f).miss = s.miss := rfl
@[simp] theorem accepted_updCore (s : State) (c : Nat) (f : Core → Core) : (s.updCore c f).accepted = s.accepted := rfl
@[simp] theorem rdc_updCore (s : State) (c : Nat) (f : Core → Core) : (s.updCore c f).rdc = s.rdc := rfl
@[simp] theorem tlb_updCore (s : State) (c : Nat) (f : Core → Core) : (s.updCore c f).tlb = s.tlb := rfl
@[simp] theorem stamp_updCore (s : State) (c : Nat) (f : Core → Core) : (s.updCore c f).stamp = s.stamp := rfl
@[simp] theorem doms_updCore (s : State) (c : Nat) (f : Core → Core) : (s.updCore c f).doms = s.doms := rfl
@[simp] theorem keys_updCore (s : State) (c : Nat) (f : Core → Core) : (s.updCore c f).keys = s.keys := rfl
@[simp] theorem keyNext_updCore (s : State) (c : Nat) (f : Core → Core) : (s.updCore c f).keyNext = s.keyNext := rfl
@[simp] theorem revokes_updCore (s : State) (c : Nat) (f : Core → Core) : (s.updCore c f).revokes = s.revokes := rfl
@[simp] theorem syncs_updCore (s : State) (c : Nat) (f : Core → Core) : (s.updCore c f).syncs = s.syncs := rfl
@[simp] theorem parts_updCore (s : State) (c : Nat) (f : Core → Core) : (s.updCore c f).parts = s.parts := rfl
@[simp] theorem pool_updCore (s : State) (c : Nat) (f : Core → Core) : (s.updCore c f).pool = s.pool := rfl
@[simp] theorem saved_updCore (s : State) (c : Nat) (f : Core → Core) : (s.updCore c f).saved = s.saved := rfl
@[simp] theorem fatalSlots_updCore (s : State) (c : Nat) (f : Core → Core) : (s.updCore c f).fatalSlots = s.fatalSlots := rfl
@[simp] theorem launchNext_updCore (s : State) (c : Nat) (f : Core → Core) : (s.updCore c f).launchNext = s.launchNext := rfl
@[simp] theorem hub_updCore (s : State) (c : Nat) (f : Core → Core) : (s.updCore c f).hub = s.hub := rfl
@[simp] theorem dsel_updCore (s : State) (c : Nat) (f : Core → Core) : (s.updCore c f).dsel = s.dsel := rfl
@[simp] theorem gates_updCore (s : State) (c : Nat) (f : Core → Core) : (s.updCore c f).gates = s.gates := rfl
@[simp] theorem colls_updCore (s : State) (c : Nat) (f : Core → Core) : (s.updCore c f).colls = s.colls := rfl
@[simp] theorem links_updCore (s : State) (c : Nat) (f : Core → Core) : (s.updCore c f).links = s.links := rfl
@[simp] theorem exports_updCore (s : State) (c : Nat) (f : Core → Core) : (s.updCore c f).exports = s.exports := rfl
@[simp] theorem rpaths_updCore (s : State) (c : Nat) (f : Core → Core) : (s.updCore c f).rpaths = s.rpaths := rfl
@[simp] theorem outbox_updCore (s : State) (c : Nat) (f : Core → Core) : (s.updCore c f).outbox = s.outbox := rfl
@[simp] theorem replays_updCore (s : State) (c : Nat) (f : Core → Core) : (s.updCore c f).replays = s.replays := rfl
@[simp] theorem awaiting_updCore (s : State) (c : Nat) (f : Core → Core) : (s.updCore c f).awaiting = s.awaiting := rfl
@[simp] theorem ctxs_updCore (s : State) (c : Nat) (f : Core → Core) : (s.updCore c f).ctxs = s.ctxs := rfl
@[simp] theorem plists_updCore (s : State) (c : Nat) (f : Core → Core) : (s.updCore c f).plists = s.plists := rfl
@[simp] theorem engines_updCore (s : State) (c : Nat) (f : Core → Core) : (s.updCore c f).engines = s.engines := rfl
@[simp] theorem kvPool_updCore (s : State) (c : Nat) (f : Core → Core) : (s.updCore c f).kvPool = s.kvPool := rfl
@[simp] theorem detached_updCore (s : State) (c : Nat) (f : Core → Core) : (s.updCore c f).detached = s.detached := rfl
@[simp] theorem tiers_updCore (s : State) (c : Nat) (f : Core → Core) : (s.updCore c f).tiers = s.tiers := rfl
@[simp] theorem fenced_updCore (s : State) (c : Nat) (f : Core → Core) : (s.updCore c f).fenced = s.fenced := rfl
@[simp] theorem spareCluster_updCore (s : State) (c : Nat) (f : Core → Core) : (s.updCore c f).spareCluster = s.spareCluster := rfl
@[simp] theorem sparePair_updCore (s : State) (c : Nat) (f : Core → Core) : (s.updCore c f).sparePair = s.sparePair := rfl
@[simp] theorem retiring_updCore (s : State) (c : Nat) (f : Core → Core) : (s.updCore c f).retiring = s.retiring := rfl
@[simp] theorem lostClusters_updCore (s : State) (c : Nat) (f : Core → Core) : (s.updCore c f).lostClusters = s.lostClusters := rfl
@[simp] theorem lostSlices_updCore (s : State) (c : Nat) (f : Core → Core) : (s.updCore c f).lostSlices = s.lostSlices := rfl
@[simp] theorem vfs_updCore (s : State) (c : Nat) (f : Core → Core) : (s.updCore c f).vfs = s.vfs := rfl
@[simp] theorem bells_updCore (s : State) (c : Nat) (f : Core → Core) : (s.updCore c f).bells = s.bells := rfl
@[simp] theorem hostMem_updCore (s : State) (c : Nat) (f : Core → Core) : (s.updCore c f).hostMem = s.hostMem := rfl
@[simp] theorem bootst_updCore (s : State) (c : Nat) (f : Core → Core) : (s.updCore c f).bootst = s.bootst := rfl
@[simp] theorem bootStep_updCore (s : State) (c : Nat) (f : Core → Core) : (s.updCore c f).bootStep = s.bootStep := rfl
@[simp] theorem fuses_updCore (s : State) (c : Nat) (f : Core → Core) : (s.updCore c f).fuses = s.fuses := rfl
@[simp] theorem imageSrc_updCore (s : State) (c : Nat) (f : Core → Core) : (s.updCore c f).imageSrc = s.imageSrc := rfl
@[simp] theorem stopped_updCore (s : State) (c : Nat) (f : Core → Core) : (s.updCore c f).stopped = s.stopped := rfl
@[simp] theorem agenda_updCore (s : State) (c : Nat) (f : Core → Core) : (s.updCore c f).agenda = s.agenda := rfl
@[simp] theorem nextId_updCore (s : State) (c : Nat) (f : Core → Core) : (s.updCore c f).nextId = s.nextId := rfl
@[simp] theorem arg_updCore (s : State) (c : Nat) (f : Core → Core) : (s.updCore c f).arg = s.arg := rfl
@[simp] theorem cur_updCore (s : State) (c : Nat) (f : Core → Core) : (s.updCore c f).cur = s.cur := rfl
@[simp] theorem choices_updCore (s : State) (c : Nat) (f : Core → Core) : (s.updCore c f).choices = s.choices := rfl
@[simp] theorem drawn_updCore (s : State) (c : Nat) (f : Core → Core) : (s.updCore c f).drawn = s.drawn := rfl

@[simp] theorem now_updPart (s : State) (p : Nat) (f : Part → Part) : (s.updPart p f).now = s.now := rfl
@[simp] theorem beacon_updPart (s : State) (p : Nat) (f : Part → Part) : (s.updPart p f).beacon = s.beacon := rfl
@[simp] theorem seqs_updPart (s : State) (p : Nat) (f : Part → Part) : (s.updPart p f).seqs = s.seqs := rfl
@[simp] theorem cores_updPart (s : State) (p : Nat) (f : Part → Part) : (s.updPart p f).cores = s.cores := rfl
@[simp] theorem mem_updPart (s : State) (p : Nat) (f : Part → Part) : (s.updPart p f).mem = s.mem := rfl
@[simp] theorem mtag_updPart (s : State) (p : Nat) (f : Part → Part) : (s.updPart p f).mtag = s.mtag := rfl
@[simp] theorem ctag_updPart (s : State) (p : Nat) (f : Part → Part) : (s.updPart p f).ctag = s.ctag := rfl
@[simp] theorem bkey_updPart (s : State) (p : Nat) (f : Part → Part) : (s.updPart p f).bkey = s.bkey := rfl
@[simp] theorem bad_updPart (s : State) (p : Nat) (f : Part → Part) : (s.updPart p f).bad = s.bad := rfl
@[simp] theorem spad_updPart (s : State) (p : Nat) (f : Part → Part) : (s.updPart p f).spad = s.spad := rfl
@[simp] theorem stag_updPart (s : State) (p : Nat) (f : Part → Part) : (s.updPart p f).stag = s.stag := rfl
@[simp] theorem sbad_updPart (s : State) (p : Nat) (f : Part → Part) : (s.updPart p f).sbad = s.sbad := rfl
@[simp] theorem l2_updPart (s : State) (p : Nat) (f : Part → Part) : (s.updPart p f).l2 = s.l2 := rfl
@[simp] theorem wbuf_updPart (s : State) (p : Nat) (f : Part → Part) : (s.updPart p f).wbuf = s.wbuf := rfl
@[simp] theorem miss_updPart (s : State) (p : Nat) (f : Part → Part) : (s.updPart p f).miss = s.miss := rfl
@[simp] theorem accepted_updPart (s : State) (p : Nat) (f : Part → Part) : (s.updPart p f).accepted = s.accepted := rfl
@[simp] theorem rdc_updPart (s : State) (p : Nat) (f : Part → Part) : (s.updPart p f).rdc = s.rdc := rfl
@[simp] theorem tlb_updPart (s : State) (p : Nat) (f : Part → Part) : (s.updPart p f).tlb = s.tlb := rfl
@[simp] theorem stamp_updPart (s : State) (p : Nat) (f : Part → Part) : (s.updPart p f).stamp = s.stamp := rfl
@[simp] theorem doms_updPart (s : State) (p : Nat) (f : Part → Part) : (s.updPart p f).doms = s.doms := rfl
@[simp] theorem keys_updPart (s : State) (p : Nat) (f : Part → Part) : (s.updPart p f).keys = s.keys := rfl
@[simp] theorem keyNext_updPart (s : State) (p : Nat) (f : Part → Part) : (s.updPart p f).keyNext = s.keyNext := rfl
@[simp] theorem revokes_updPart (s : State) (p : Nat) (f : Part → Part) : (s.updPart p f).revokes = s.revokes := rfl
@[simp] theorem syncs_updPart (s : State) (p : Nat) (f : Part → Part) : (s.updPart p f).syncs = s.syncs := rfl
@[simp] theorem pool_updPart (s : State) (p : Nat) (f : Part → Part) : (s.updPart p f).pool = s.pool := rfl
@[simp] theorem saved_updPart (s : State) (p : Nat) (f : Part → Part) : (s.updPart p f).saved = s.saved := rfl
@[simp] theorem fatalSlots_updPart (s : State) (p : Nat) (f : Part → Part) : (s.updPart p f).fatalSlots = s.fatalSlots := rfl
@[simp] theorem launchNext_updPart (s : State) (p : Nat) (f : Part → Part) : (s.updPart p f).launchNext = s.launchNext := rfl
@[simp] theorem hub_updPart (s : State) (p : Nat) (f : Part → Part) : (s.updPart p f).hub = s.hub := rfl
@[simp] theorem dsel_updPart (s : State) (p : Nat) (f : Part → Part) : (s.updPart p f).dsel = s.dsel := rfl
@[simp] theorem gates_updPart (s : State) (p : Nat) (f : Part → Part) : (s.updPart p f).gates = s.gates := rfl
@[simp] theorem colls_updPart (s : State) (p : Nat) (f : Part → Part) : (s.updPart p f).colls = s.colls := rfl
@[simp] theorem links_updPart (s : State) (p : Nat) (f : Part → Part) : (s.updPart p f).links = s.links := rfl
@[simp] theorem exports_updPart (s : State) (p : Nat) (f : Part → Part) : (s.updPart p f).exports = s.exports := rfl
@[simp] theorem rpaths_updPart (s : State) (p : Nat) (f : Part → Part) : (s.updPart p f).rpaths = s.rpaths := rfl
@[simp] theorem outbox_updPart (s : State) (p : Nat) (f : Part → Part) : (s.updPart p f).outbox = s.outbox := rfl
@[simp] theorem replays_updPart (s : State) (p : Nat) (f : Part → Part) : (s.updPart p f).replays = s.replays := rfl
@[simp] theorem awaiting_updPart (s : State) (p : Nat) (f : Part → Part) : (s.updPart p f).awaiting = s.awaiting := rfl
@[simp] theorem ctxs_updPart (s : State) (p : Nat) (f : Part → Part) : (s.updPart p f).ctxs = s.ctxs := rfl
@[simp] theorem plists_updPart (s : State) (p : Nat) (f : Part → Part) : (s.updPart p f).plists = s.plists := rfl
@[simp] theorem engines_updPart (s : State) (p : Nat) (f : Part → Part) : (s.updPart p f).engines = s.engines := rfl
@[simp] theorem kvPool_updPart (s : State) (p : Nat) (f : Part → Part) : (s.updPart p f).kvPool = s.kvPool := rfl
@[simp] theorem detached_updPart (s : State) (p : Nat) (f : Part → Part) : (s.updPart p f).detached = s.detached := rfl
@[simp] theorem tiers_updPart (s : State) (p : Nat) (f : Part → Part) : (s.updPart p f).tiers = s.tiers := rfl
@[simp] theorem fenced_updPart (s : State) (p : Nat) (f : Part → Part) : (s.updPart p f).fenced = s.fenced := rfl
@[simp] theorem spareCluster_updPart (s : State) (p : Nat) (f : Part → Part) : (s.updPart p f).spareCluster = s.spareCluster := rfl
@[simp] theorem sparePair_updPart (s : State) (p : Nat) (f : Part → Part) : (s.updPart p f).sparePair = s.sparePair := rfl
@[simp] theorem retiring_updPart (s : State) (p : Nat) (f : Part → Part) : (s.updPart p f).retiring = s.retiring := rfl
@[simp] theorem lostClusters_updPart (s : State) (p : Nat) (f : Part → Part) : (s.updPart p f).lostClusters = s.lostClusters := rfl
@[simp] theorem lostSlices_updPart (s : State) (p : Nat) (f : Part → Part) : (s.updPart p f).lostSlices = s.lostSlices := rfl
@[simp] theorem vfs_updPart (s : State) (p : Nat) (f : Part → Part) : (s.updPart p f).vfs = s.vfs := rfl
@[simp] theorem bells_updPart (s : State) (p : Nat) (f : Part → Part) : (s.updPart p f).bells = s.bells := rfl
@[simp] theorem hostMem_updPart (s : State) (p : Nat) (f : Part → Part) : (s.updPart p f).hostMem = s.hostMem := rfl
@[simp] theorem bootst_updPart (s : State) (p : Nat) (f : Part → Part) : (s.updPart p f).bootst = s.bootst := rfl
@[simp] theorem bootStep_updPart (s : State) (p : Nat) (f : Part → Part) : (s.updPart p f).bootStep = s.bootStep := rfl
@[simp] theorem fuses_updPart (s : State) (p : Nat) (f : Part → Part) : (s.updPart p f).fuses = s.fuses := rfl
@[simp] theorem imageSrc_updPart (s : State) (p : Nat) (f : Part → Part) : (s.updPart p f).imageSrc = s.imageSrc := rfl
@[simp] theorem stopped_updPart (s : State) (p : Nat) (f : Part → Part) : (s.updPart p f).stopped = s.stopped := rfl
@[simp] theorem agenda_updPart (s : State) (p : Nat) (f : Part → Part) : (s.updPart p f).agenda = s.agenda := rfl
@[simp] theorem nextId_updPart (s : State) (p : Nat) (f : Part → Part) : (s.updPart p f).nextId = s.nextId := rfl
@[simp] theorem arg_updPart (s : State) (p : Nat) (f : Part → Part) : (s.updPart p f).arg = s.arg := rfl
@[simp] theorem cur_updPart (s : State) (p : Nat) (f : Part → Part) : (s.updPart p f).cur = s.cur := rfl
@[simp] theorem choices_updPart (s : State) (p : Nat) (f : Part → Part) : (s.updPart p f).choices = s.choices := rfl
@[simp] theorem drawn_updPart (s : State) (p : Nat) (f : Part → Part) : (s.updPart p f).drawn = s.drawn := rfl

@[simp] theorem now_updDom (s : State) (d k : Nat) (f : Dom → Dom) : (s.updDom d k f).now = s.now := rfl
@[simp] theorem beacon_updDom (s : State) (d k : Nat) (f : Dom → Dom) : (s.updDom d k f).beacon = s.beacon := rfl
@[simp] theorem seqs_updDom (s : State) (d k : Nat) (f : Dom → Dom) : (s.updDom d k f).seqs = s.seqs := rfl
@[simp] theorem cores_updDom (s : State) (d k : Nat) (f : Dom → Dom) : (s.updDom d k f).cores = s.cores := rfl
@[simp] theorem mem_updDom (s : State) (d k : Nat) (f : Dom → Dom) : (s.updDom d k f).mem = s.mem := rfl
@[simp] theorem mtag_updDom (s : State) (d k : Nat) (f : Dom → Dom) : (s.updDom d k f).mtag = s.mtag := rfl
@[simp] theorem ctag_updDom (s : State) (d k : Nat) (f : Dom → Dom) : (s.updDom d k f).ctag = s.ctag := rfl
@[simp] theorem bkey_updDom (s : State) (d k : Nat) (f : Dom → Dom) : (s.updDom d k f).bkey = s.bkey := rfl
@[simp] theorem bad_updDom (s : State) (d k : Nat) (f : Dom → Dom) : (s.updDom d k f).bad = s.bad := rfl
@[simp] theorem spad_updDom (s : State) (d k : Nat) (f : Dom → Dom) : (s.updDom d k f).spad = s.spad := rfl
@[simp] theorem stag_updDom (s : State) (d k : Nat) (f : Dom → Dom) : (s.updDom d k f).stag = s.stag := rfl
@[simp] theorem sbad_updDom (s : State) (d k : Nat) (f : Dom → Dom) : (s.updDom d k f).sbad = s.sbad := rfl
@[simp] theorem l2_updDom (s : State) (d k : Nat) (f : Dom → Dom) : (s.updDom d k f).l2 = s.l2 := rfl
@[simp] theorem wbuf_updDom (s : State) (d k : Nat) (f : Dom → Dom) : (s.updDom d k f).wbuf = s.wbuf := rfl
@[simp] theorem miss_updDom (s : State) (d k : Nat) (f : Dom → Dom) : (s.updDom d k f).miss = s.miss := rfl
@[simp] theorem accepted_updDom (s : State) (d k : Nat) (f : Dom → Dom) : (s.updDom d k f).accepted = s.accepted := rfl
@[simp] theorem rdc_updDom (s : State) (d k : Nat) (f : Dom → Dom) : (s.updDom d k f).rdc = s.rdc := rfl
@[simp] theorem tlb_updDom (s : State) (d k : Nat) (f : Dom → Dom) : (s.updDom d k f).tlb = s.tlb := rfl
@[simp] theorem stamp_updDom (s : State) (d k : Nat) (f : Dom → Dom) : (s.updDom d k f).stamp = s.stamp := rfl
@[simp] theorem keys_updDom (s : State) (d k : Nat) (f : Dom → Dom) : (s.updDom d k f).keys = s.keys := rfl
@[simp] theorem keyNext_updDom (s : State) (d k : Nat) (f : Dom → Dom) : (s.updDom d k f).keyNext = s.keyNext := rfl
@[simp] theorem revokes_updDom (s : State) (d k : Nat) (f : Dom → Dom) : (s.updDom d k f).revokes = s.revokes := rfl
@[simp] theorem syncs_updDom (s : State) (d k : Nat) (f : Dom → Dom) : (s.updDom d k f).syncs = s.syncs := rfl
@[simp] theorem parts_updDom (s : State) (d k : Nat) (f : Dom → Dom) : (s.updDom d k f).parts = s.parts := rfl
@[simp] theorem pool_updDom (s : State) (d k : Nat) (f : Dom → Dom) : (s.updDom d k f).pool = s.pool := rfl
@[simp] theorem saved_updDom (s : State) (d k : Nat) (f : Dom → Dom) : (s.updDom d k f).saved = s.saved := rfl
@[simp] theorem fatalSlots_updDom (s : State) (d k : Nat) (f : Dom → Dom) : (s.updDom d k f).fatalSlots = s.fatalSlots := rfl
@[simp] theorem launchNext_updDom (s : State) (d k : Nat) (f : Dom → Dom) : (s.updDom d k f).launchNext = s.launchNext := rfl
@[simp] theorem hub_updDom (s : State) (d k : Nat) (f : Dom → Dom) : (s.updDom d k f).hub = s.hub := rfl
@[simp] theorem dsel_updDom (s : State) (d k : Nat) (f : Dom → Dom) : (s.updDom d k f).dsel = s.dsel := rfl
@[simp] theorem gates_updDom (s : State) (d k : Nat) (f : Dom → Dom) : (s.updDom d k f).gates = s.gates := rfl
@[simp] theorem colls_updDom (s : State) (d k : Nat) (f : Dom → Dom) : (s.updDom d k f).colls = s.colls := rfl
@[simp] theorem links_updDom (s : State) (d k : Nat) (f : Dom → Dom) : (s.updDom d k f).links = s.links := rfl
@[simp] theorem exports_updDom (s : State) (d k : Nat) (f : Dom → Dom) : (s.updDom d k f).exports = s.exports := rfl
@[simp] theorem rpaths_updDom (s : State) (d k : Nat) (f : Dom → Dom) : (s.updDom d k f).rpaths = s.rpaths := rfl
@[simp] theorem outbox_updDom (s : State) (d k : Nat) (f : Dom → Dom) : (s.updDom d k f).outbox = s.outbox := rfl
@[simp] theorem replays_updDom (s : State) (d k : Nat) (f : Dom → Dom) : (s.updDom d k f).replays = s.replays := rfl
@[simp] theorem awaiting_updDom (s : State) (d k : Nat) (f : Dom → Dom) : (s.updDom d k f).awaiting = s.awaiting := rfl
@[simp] theorem ctxs_updDom (s : State) (d k : Nat) (f : Dom → Dom) : (s.updDom d k f).ctxs = s.ctxs := rfl
@[simp] theorem plists_updDom (s : State) (d k : Nat) (f : Dom → Dom) : (s.updDom d k f).plists = s.plists := rfl
@[simp] theorem engines_updDom (s : State) (d k : Nat) (f : Dom → Dom) : (s.updDom d k f).engines = s.engines := rfl
@[simp] theorem kvPool_updDom (s : State) (d k : Nat) (f : Dom → Dom) : (s.updDom d k f).kvPool = s.kvPool := rfl
@[simp] theorem detached_updDom (s : State) (d k : Nat) (f : Dom → Dom) : (s.updDom d k f).detached = s.detached := rfl
@[simp] theorem tiers_updDom (s : State) (d k : Nat) (f : Dom → Dom) : (s.updDom d k f).tiers = s.tiers := rfl
@[simp] theorem fenced_updDom (s : State) (d k : Nat) (f : Dom → Dom) : (s.updDom d k f).fenced = s.fenced := rfl
@[simp] theorem spareCluster_updDom (s : State) (d k : Nat) (f : Dom → Dom) : (s.updDom d k f).spareCluster = s.spareCluster := rfl
@[simp] theorem sparePair_updDom (s : State) (d k : Nat) (f : Dom → Dom) : (s.updDom d k f).sparePair = s.sparePair := rfl
@[simp] theorem retiring_updDom (s : State) (d k : Nat) (f : Dom → Dom) : (s.updDom d k f).retiring = s.retiring := rfl
@[simp] theorem lostClusters_updDom (s : State) (d k : Nat) (f : Dom → Dom) : (s.updDom d k f).lostClusters = s.lostClusters := rfl
@[simp] theorem lostSlices_updDom (s : State) (d k : Nat) (f : Dom → Dom) : (s.updDom d k f).lostSlices = s.lostSlices := rfl
@[simp] theorem vfs_updDom (s : State) (d k : Nat) (f : Dom → Dom) : (s.updDom d k f).vfs = s.vfs := rfl
@[simp] theorem bells_updDom (s : State) (d k : Nat) (f : Dom → Dom) : (s.updDom d k f).bells = s.bells := rfl
@[simp] theorem hostMem_updDom (s : State) (d k : Nat) (f : Dom → Dom) : (s.updDom d k f).hostMem = s.hostMem := rfl
@[simp] theorem bootst_updDom (s : State) (d k : Nat) (f : Dom → Dom) : (s.updDom d k f).bootst = s.bootst := rfl
@[simp] theorem bootStep_updDom (s : State) (d k : Nat) (f : Dom → Dom) : (s.updDom d k f).bootStep = s.bootStep := rfl
@[simp] theorem fuses_updDom (s : State) (d k : Nat) (f : Dom → Dom) : (s.updDom d k f).fuses = s.fuses := rfl
@[simp] theorem imageSrc_updDom (s : State) (d k : Nat) (f : Dom → Dom) : (s.updDom d k f).imageSrc = s.imageSrc := rfl
@[simp] theorem stopped_updDom (s : State) (d k : Nat) (f : Dom → Dom) : (s.updDom d k f).stopped = s.stopped := rfl
@[simp] theorem agenda_updDom (s : State) (d k : Nat) (f : Dom → Dom) : (s.updDom d k f).agenda = s.agenda := rfl
@[simp] theorem nextId_updDom (s : State) (d k : Nat) (f : Dom → Dom) : (s.updDom d k f).nextId = s.nextId := rfl
@[simp] theorem arg_updDom (s : State) (d k : Nat) (f : Dom → Dom) : (s.updDom d k f).arg = s.arg := rfl
@[simp] theorem cur_updDom (s : State) (d k : Nat) (f : Dom → Dom) : (s.updDom d k f).cur = s.cur := rfl
@[simp] theorem choices_updDom (s : State) (d k : Nat) (f : Dom → Dom) : (s.updDom d k f).choices = s.choices := rfl
@[simp] theorem drawn_updDom (s : State) (d k : Nat) (f : Dom → Dom) : (s.updDom d k f).drawn = s.drawn := rfl

@[simp] theorem now_push (s : State) (e : Ev) : (s.push e).now = s.now := rfl
@[simp] theorem beacon_push (s : State) (e : Ev) : (s.push e).beacon = s.beacon := rfl
@[simp] theorem seqs_push (s : State) (e : Ev) : (s.push e).seqs = s.seqs := rfl
@[simp] theorem cores_push (s : State) (e : Ev) : (s.push e).cores = s.cores := rfl
@[simp] theorem mem_push (s : State) (e : Ev) : (s.push e).mem = s.mem := rfl
@[simp] theorem mtag_push (s : State) (e : Ev) : (s.push e).mtag = s.mtag := rfl
@[simp] theorem ctag_push (s : State) (e : Ev) : (s.push e).ctag = s.ctag := rfl
@[simp] theorem bkey_push (s : State) (e : Ev) : (s.push e).bkey = s.bkey := rfl
@[simp] theorem bad_push (s : State) (e : Ev) : (s.push e).bad = s.bad := rfl
@[simp] theorem spad_push (s : State) (e : Ev) : (s.push e).spad = s.spad := rfl
@[simp] theorem stag_push (s : State) (e : Ev) : (s.push e).stag = s.stag := rfl
@[simp] theorem sbad_push (s : State) (e : Ev) : (s.push e).sbad = s.sbad := rfl
@[simp] theorem l2_push (s : State) (e : Ev) : (s.push e).l2 = s.l2 := rfl
@[simp] theorem wbuf_push (s : State) (e : Ev) : (s.push e).wbuf = s.wbuf := rfl
@[simp] theorem miss_push (s : State) (e : Ev) : (s.push e).miss = s.miss := rfl
@[simp] theorem accepted_push (s : State) (e : Ev) : (s.push e).accepted = s.accepted := rfl
@[simp] theorem rdc_push (s : State) (e : Ev) : (s.push e).rdc = s.rdc := rfl
@[simp] theorem tlb_push (s : State) (e : Ev) : (s.push e).tlb = s.tlb := rfl
@[simp] theorem stamp_push (s : State) (e : Ev) : (s.push e).stamp = s.stamp := rfl
@[simp] theorem doms_push (s : State) (e : Ev) : (s.push e).doms = s.doms := rfl
@[simp] theorem keys_push (s : State) (e : Ev) : (s.push e).keys = s.keys := rfl
@[simp] theorem keyNext_push (s : State) (e : Ev) : (s.push e).keyNext = s.keyNext := rfl
@[simp] theorem revokes_push (s : State) (e : Ev) : (s.push e).revokes = s.revokes := rfl
@[simp] theorem syncs_push (s : State) (e : Ev) : (s.push e).syncs = s.syncs := rfl
@[simp] theorem parts_push (s : State) (e : Ev) : (s.push e).parts = s.parts := rfl
@[simp] theorem pool_push (s : State) (e : Ev) : (s.push e).pool = s.pool := rfl
@[simp] theorem saved_push (s : State) (e : Ev) : (s.push e).saved = s.saved := rfl
@[simp] theorem fatalSlots_push (s : State) (e : Ev) : (s.push e).fatalSlots = s.fatalSlots := rfl
@[simp] theorem launchNext_push (s : State) (e : Ev) : (s.push e).launchNext = s.launchNext := rfl
@[simp] theorem hub_push (s : State) (e : Ev) : (s.push e).hub = s.hub := rfl
@[simp] theorem dsel_push (s : State) (e : Ev) : (s.push e).dsel = s.dsel := rfl
@[simp] theorem gates_push (s : State) (e : Ev) : (s.push e).gates = s.gates := rfl
@[simp] theorem colls_push (s : State) (e : Ev) : (s.push e).colls = s.colls := rfl
@[simp] theorem links_push (s : State) (e : Ev) : (s.push e).links = s.links := rfl
@[simp] theorem exports_push (s : State) (e : Ev) : (s.push e).exports = s.exports := rfl
@[simp] theorem rpaths_push (s : State) (e : Ev) : (s.push e).rpaths = s.rpaths := rfl
@[simp] theorem outbox_push (s : State) (e : Ev) : (s.push e).outbox = s.outbox := rfl
@[simp] theorem replays_push (s : State) (e : Ev) : (s.push e).replays = s.replays := rfl
@[simp] theorem awaiting_push (s : State) (e : Ev) : (s.push e).awaiting = s.awaiting := rfl
@[simp] theorem ctxs_push (s : State) (e : Ev) : (s.push e).ctxs = s.ctxs := rfl
@[simp] theorem plists_push (s : State) (e : Ev) : (s.push e).plists = s.plists := rfl
@[simp] theorem engines_push (s : State) (e : Ev) : (s.push e).engines = s.engines := rfl
@[simp] theorem kvPool_push (s : State) (e : Ev) : (s.push e).kvPool = s.kvPool := rfl
@[simp] theorem detached_push (s : State) (e : Ev) : (s.push e).detached = s.detached := rfl
@[simp] theorem tiers_push (s : State) (e : Ev) : (s.push e).tiers = s.tiers := rfl
@[simp] theorem fenced_push (s : State) (e : Ev) : (s.push e).fenced = s.fenced := rfl
@[simp] theorem spareCluster_push (s : State) (e : Ev) : (s.push e).spareCluster = s.spareCluster := rfl
@[simp] theorem sparePair_push (s : State) (e : Ev) : (s.push e).sparePair = s.sparePair := rfl
@[simp] theorem retiring_push (s : State) (e : Ev) : (s.push e).retiring = s.retiring := rfl
@[simp] theorem lostClusters_push (s : State) (e : Ev) : (s.push e).lostClusters = s.lostClusters := rfl
@[simp] theorem lostSlices_push (s : State) (e : Ev) : (s.push e).lostSlices = s.lostSlices := rfl
@[simp] theorem vfs_push (s : State) (e : Ev) : (s.push e).vfs = s.vfs := rfl
@[simp] theorem bells_push (s : State) (e : Ev) : (s.push e).bells = s.bells := rfl
@[simp] theorem hostMem_push (s : State) (e : Ev) : (s.push e).hostMem = s.hostMem := rfl
@[simp] theorem bootst_push (s : State) (e : Ev) : (s.push e).bootst = s.bootst := rfl
@[simp] theorem bootStep_push (s : State) (e : Ev) : (s.push e).bootStep = s.bootStep := rfl
@[simp] theorem fuses_push (s : State) (e : Ev) : (s.push e).fuses = s.fuses := rfl
@[simp] theorem imageSrc_push (s : State) (e : Ev) : (s.push e).imageSrc = s.imageSrc := rfl
@[simp] theorem stopped_push (s : State) (e : Ev) : (s.push e).stopped = s.stopped := rfl
@[simp] theorem nextId_push (s : State) (e : Ev) : (s.push e).nextId = s.nextId := rfl
@[simp] theorem arg_push (s : State) (e : Ev) : (s.push e).arg = s.arg := rfl
@[simp] theorem cur_push (s : State) (e : Ev) : (s.push e).cur = s.cur := rfl
@[simp] theorem choices_push (s : State) (e : Ev) : (s.push e).choices = s.choices := rfl
@[simp] theorem drawn_push (s : State) (e : Ev) : (s.push e).drawn = s.drawn := rfl
@[simp] theorem agenda_push (s : State) (e : Ev) : (s.push e).agenda =
    s.agenda ++ [e] := rfl

@[simp] theorem now_after (s : State) (k c y : Nat) (i : Instr) (a : Arg) : (s.after k c y i a).now = s.now := rfl
@[simp] theorem beacon_after (s : State) (k c y : Nat) (i : Instr) (a : Arg) : (s.after k c y i a).beacon = s.beacon := rfl
@[simp] theorem seqs_after (s : State) (k c y : Nat) (i : Instr) (a : Arg) : (s.after k c y i a).seqs = s.seqs := rfl
@[simp] theorem cores_after (s : State) (k c y : Nat) (i : Instr) (a : Arg) : (s.after k c y i a).cores = s.cores := rfl
@[simp] theorem mem_after (s : State) (k c y : Nat) (i : Instr) (a : Arg) : (s.after k c y i a).mem = s.mem := rfl
@[simp] theorem mtag_after (s : State) (k c y : Nat) (i : Instr) (a : Arg) : (s.after k c y i a).mtag = s.mtag := rfl
@[simp] theorem ctag_after (s : State) (k c y : Nat) (i : Instr) (a : Arg) : (s.after k c y i a).ctag = s.ctag := rfl
@[simp] theorem bkey_after (s : State) (k c y : Nat) (i : Instr) (a : Arg) : (s.after k c y i a).bkey = s.bkey := rfl
@[simp] theorem bad_after (s : State) (k c y : Nat) (i : Instr) (a : Arg) : (s.after k c y i a).bad = s.bad := rfl
@[simp] theorem spad_after (s : State) (k c y : Nat) (i : Instr) (a : Arg) : (s.after k c y i a).spad = s.spad := rfl
@[simp] theorem stag_after (s : State) (k c y : Nat) (i : Instr) (a : Arg) : (s.after k c y i a).stag = s.stag := rfl
@[simp] theorem sbad_after (s : State) (k c y : Nat) (i : Instr) (a : Arg) : (s.after k c y i a).sbad = s.sbad := rfl
@[simp] theorem l2_after (s : State) (k c y : Nat) (i : Instr) (a : Arg) : (s.after k c y i a).l2 = s.l2 := rfl
@[simp] theorem wbuf_after (s : State) (k c y : Nat) (i : Instr) (a : Arg) : (s.after k c y i a).wbuf = s.wbuf := rfl
@[simp] theorem miss_after (s : State) (k c y : Nat) (i : Instr) (a : Arg) : (s.after k c y i a).miss = s.miss := rfl
@[simp] theorem accepted_after (s : State) (k c y : Nat) (i : Instr) (a : Arg) : (s.after k c y i a).accepted = s.accepted := rfl
@[simp] theorem rdc_after (s : State) (k c y : Nat) (i : Instr) (a : Arg) : (s.after k c y i a).rdc = s.rdc := rfl
@[simp] theorem tlb_after (s : State) (k c y : Nat) (i : Instr) (a : Arg) : (s.after k c y i a).tlb = s.tlb := rfl
@[simp] theorem stamp_after (s : State) (k c y : Nat) (i : Instr) (a : Arg) : (s.after k c y i a).stamp = s.stamp := rfl
@[simp] theorem doms_after (s : State) (k c y : Nat) (i : Instr) (a : Arg) : (s.after k c y i a).doms = s.doms := rfl
@[simp] theorem keys_after (s : State) (k c y : Nat) (i : Instr) (a : Arg) : (s.after k c y i a).keys = s.keys := rfl
@[simp] theorem keyNext_after (s : State) (k c y : Nat) (i : Instr) (a : Arg) : (s.after k c y i a).keyNext = s.keyNext := rfl
@[simp] theorem revokes_after (s : State) (k c y : Nat) (i : Instr) (a : Arg) : (s.after k c y i a).revokes = s.revokes := rfl
@[simp] theorem syncs_after (s : State) (k c y : Nat) (i : Instr) (a : Arg) : (s.after k c y i a).syncs = s.syncs := rfl
@[simp] theorem parts_after (s : State) (k c y : Nat) (i : Instr) (a : Arg) : (s.after k c y i a).parts = s.parts := rfl
@[simp] theorem pool_after (s : State) (k c y : Nat) (i : Instr) (a : Arg) : (s.after k c y i a).pool = s.pool := rfl
@[simp] theorem saved_after (s : State) (k c y : Nat) (i : Instr) (a : Arg) : (s.after k c y i a).saved = s.saved := rfl
@[simp] theorem fatalSlots_after (s : State) (k c y : Nat) (i : Instr) (a : Arg) : (s.after k c y i a).fatalSlots = s.fatalSlots := rfl
@[simp] theorem launchNext_after (s : State) (k c y : Nat) (i : Instr) (a : Arg) : (s.after k c y i a).launchNext = s.launchNext := rfl
@[simp] theorem hub_after (s : State) (k c y : Nat) (i : Instr) (a : Arg) : (s.after k c y i a).hub = s.hub := rfl
@[simp] theorem dsel_after (s : State) (k c y : Nat) (i : Instr) (a : Arg) : (s.after k c y i a).dsel = s.dsel := rfl
@[simp] theorem gates_after (s : State) (k c y : Nat) (i : Instr) (a : Arg) : (s.after k c y i a).gates = s.gates := rfl
@[simp] theorem colls_after (s : State) (k c y : Nat) (i : Instr) (a : Arg) : (s.after k c y i a).colls = s.colls := rfl
@[simp] theorem links_after (s : State) (k c y : Nat) (i : Instr) (a : Arg) : (s.after k c y i a).links = s.links := rfl
@[simp] theorem exports_after (s : State) (k c y : Nat) (i : Instr) (a : Arg) : (s.after k c y i a).exports = s.exports := rfl
@[simp] theorem rpaths_after (s : State) (k c y : Nat) (i : Instr) (a : Arg) : (s.after k c y i a).rpaths = s.rpaths := rfl
@[simp] theorem outbox_after (s : State) (k c y : Nat) (i : Instr) (a : Arg) : (s.after k c y i a).outbox = s.outbox := rfl
@[simp] theorem replays_after (s : State) (k c y : Nat) (i : Instr) (a : Arg) : (s.after k c y i a).replays = s.replays := rfl
@[simp] theorem awaiting_after (s : State) (k c y : Nat) (i : Instr) (a : Arg) : (s.after k c y i a).awaiting = s.awaiting := rfl
@[simp] theorem ctxs_after (s : State) (k c y : Nat) (i : Instr) (a : Arg) : (s.after k c y i a).ctxs = s.ctxs := rfl
@[simp] theorem plists_after (s : State) (k c y : Nat) (i : Instr) (a : Arg) : (s.after k c y i a).plists = s.plists := rfl
@[simp] theorem engines_after (s : State) (k c y : Nat) (i : Instr) (a : Arg) : (s.after k c y i a).engines = s.engines := rfl
@[simp] theorem kvPool_after (s : State) (k c y : Nat) (i : Instr) (a : Arg) : (s.after k c y i a).kvPool = s.kvPool := rfl
@[simp] theorem detached_after (s : State) (k c y : Nat) (i : Instr) (a : Arg) : (s.after k c y i a).detached = s.detached := rfl
@[simp] theorem tiers_after (s : State) (k c y : Nat) (i : Instr) (a : Arg) : (s.after k c y i a).tiers = s.tiers := rfl
@[simp] theorem fenced_after (s : State) (k c y : Nat) (i : Instr) (a : Arg) : (s.after k c y i a).fenced = s.fenced := rfl
@[simp] theorem spareCluster_after (s : State) (k c y : Nat) (i : Instr) (a : Arg) : (s.after k c y i a).spareCluster = s.spareCluster := rfl
@[simp] theorem sparePair_after (s : State) (k c y : Nat) (i : Instr) (a : Arg) : (s.after k c y i a).sparePair = s.sparePair := rfl
@[simp] theorem retiring_after (s : State) (k c y : Nat) (i : Instr) (a : Arg) : (s.after k c y i a).retiring = s.retiring := rfl
@[simp] theorem lostClusters_after (s : State) (k c y : Nat) (i : Instr) (a : Arg) : (s.after k c y i a).lostClusters = s.lostClusters := rfl
@[simp] theorem lostSlices_after (s : State) (k c y : Nat) (i : Instr) (a : Arg) : (s.after k c y i a).lostSlices = s.lostSlices := rfl
@[simp] theorem vfs_after (s : State) (k c y : Nat) (i : Instr) (a : Arg) : (s.after k c y i a).vfs = s.vfs := rfl
@[simp] theorem bells_after (s : State) (k c y : Nat) (i : Instr) (a : Arg) : (s.after k c y i a).bells = s.bells := rfl
@[simp] theorem hostMem_after (s : State) (k c y : Nat) (i : Instr) (a : Arg) : (s.after k c y i a).hostMem = s.hostMem := rfl
@[simp] theorem bootst_after (s : State) (k c y : Nat) (i : Instr) (a : Arg) : (s.after k c y i a).bootst = s.bootst := rfl
@[simp] theorem bootStep_after (s : State) (k c y : Nat) (i : Instr) (a : Arg) : (s.after k c y i a).bootStep = s.bootStep := rfl
@[simp] theorem fuses_after (s : State) (k c y : Nat) (i : Instr) (a : Arg) : (s.after k c y i a).fuses = s.fuses := rfl
@[simp] theorem imageSrc_after (s : State) (k c y : Nat) (i : Instr) (a : Arg) : (s.after k c y i a).imageSrc = s.imageSrc := rfl
@[simp] theorem stopped_after (s : State) (k c y : Nat) (i : Instr) (a : Arg) : (s.after k c y i a).stopped = s.stopped := rfl
@[simp] theorem nextId_after (s : State) (k c y : Nat) (i : Instr) (a : Arg) : (s.after k c y i a).nextId = s.nextId := rfl
@[simp] theorem arg_after (s : State) (k c y : Nat) (i : Instr) (a : Arg) : (s.after k c y i a).arg = s.arg := rfl
@[simp] theorem cur_after (s : State) (k c y : Nat) (i : Instr) (a : Arg) : (s.after k c y i a).cur = s.cur := rfl
@[simp] theorem choices_after (s : State) (k c y : Nat) (i : Instr) (a : Arg) : (s.after k c y i a).choices = s.choices := rfl
@[simp] theorem drawn_after (s : State) (k c y : Nat) (i : Instr) (a : Arg) : (s.after k c y i a).drawn = s.drawn := rfl
@[simp] theorem agenda_after (s : State) (k c y : Nat) (i : Instr) (a : Arg) : (s.after k c y i a).agenda =
    s.agenda ++ [{ cyc := s.now + k, cls := c, key := y, ins := i, arg := a }] := rfl

@[simp] theorem now_landFor (s : State) (i c k : Nat) (l : List Land) : (s.landFor i c k l).now = s.now := rfl
@[simp] theorem beacon_landFor (s : State) (i c k : Nat) (l : List Land) : (s.landFor i c k l).beacon = s.beacon := rfl
@[simp] theorem seqs_landFor (s : State) (i c k : Nat) (l : List Land) : (s.landFor i c k l).seqs = s.seqs := rfl
@[simp] theorem cores_landFor (s : State) (i c k : Nat) (l : List Land) : (s.landFor i c k l).cores = s.cores := rfl
@[simp] theorem mem_landFor (s : State) (i c k : Nat) (l : List Land) : (s.landFor i c k l).mem = s.mem := rfl
@[simp] theorem mtag_landFor (s : State) (i c k : Nat) (l : List Land) : (s.landFor i c k l).mtag = s.mtag := rfl
@[simp] theorem ctag_landFor (s : State) (i c k : Nat) (l : List Land) : (s.landFor i c k l).ctag = s.ctag := rfl
@[simp] theorem bkey_landFor (s : State) (i c k : Nat) (l : List Land) : (s.landFor i c k l).bkey = s.bkey := rfl
@[simp] theorem bad_landFor (s : State) (i c k : Nat) (l : List Land) : (s.landFor i c k l).bad = s.bad := rfl
@[simp] theorem spad_landFor (s : State) (i c k : Nat) (l : List Land) : (s.landFor i c k l).spad = s.spad := rfl
@[simp] theorem stag_landFor (s : State) (i c k : Nat) (l : List Land) : (s.landFor i c k l).stag = s.stag := rfl
@[simp] theorem sbad_landFor (s : State) (i c k : Nat) (l : List Land) : (s.landFor i c k l).sbad = s.sbad := rfl
@[simp] theorem l2_landFor (s : State) (i c k : Nat) (l : List Land) : (s.landFor i c k l).l2 = s.l2 := rfl
@[simp] theorem wbuf_landFor (s : State) (i c k : Nat) (l : List Land) : (s.landFor i c k l).wbuf = s.wbuf := rfl
@[simp] theorem miss_landFor (s : State) (i c k : Nat) (l : List Land) : (s.landFor i c k l).miss = s.miss := rfl
@[simp] theorem accepted_landFor (s : State) (i c k : Nat) (l : List Land) : (s.landFor i c k l).accepted = s.accepted := rfl
@[simp] theorem rdc_landFor (s : State) (i c k : Nat) (l : List Land) : (s.landFor i c k l).rdc = s.rdc := rfl
@[simp] theorem tlb_landFor (s : State) (i c k : Nat) (l : List Land) : (s.landFor i c k l).tlb = s.tlb := rfl
@[simp] theorem stamp_landFor (s : State) (i c k : Nat) (l : List Land) : (s.landFor i c k l).stamp = s.stamp := rfl
@[simp] theorem doms_landFor (s : State) (i c k : Nat) (l : List Land) : (s.landFor i c k l).doms = s.doms := rfl
@[simp] theorem keys_landFor (s : State) (i c k : Nat) (l : List Land) : (s.landFor i c k l).keys = s.keys := rfl
@[simp] theorem keyNext_landFor (s : State) (i c k : Nat) (l : List Land) : (s.landFor i c k l).keyNext = s.keyNext := rfl
@[simp] theorem revokes_landFor (s : State) (i c k : Nat) (l : List Land) : (s.landFor i c k l).revokes = s.revokes := rfl
@[simp] theorem syncs_landFor (s : State) (i c k : Nat) (l : List Land) : (s.landFor i c k l).syncs = s.syncs := rfl
@[simp] theorem parts_landFor (s : State) (i c k : Nat) (l : List Land) : (s.landFor i c k l).parts = s.parts := rfl
@[simp] theorem pool_landFor (s : State) (i c k : Nat) (l : List Land) : (s.landFor i c k l).pool = s.pool := rfl
@[simp] theorem saved_landFor (s : State) (i c k : Nat) (l : List Land) : (s.landFor i c k l).saved = s.saved := rfl
@[simp] theorem fatalSlots_landFor (s : State) (i c k : Nat) (l : List Land) : (s.landFor i c k l).fatalSlots = s.fatalSlots := rfl
@[simp] theorem launchNext_landFor (s : State) (i c k : Nat) (l : List Land) : (s.landFor i c k l).launchNext = s.launchNext := rfl
@[simp] theorem hub_landFor (s : State) (i c k : Nat) (l : List Land) : (s.landFor i c k l).hub = s.hub := rfl
@[simp] theorem dsel_landFor (s : State) (i c k : Nat) (l : List Land) : (s.landFor i c k l).dsel = s.dsel := rfl
@[simp] theorem gates_landFor (s : State) (i c k : Nat) (l : List Land) : (s.landFor i c k l).gates = s.gates := rfl
@[simp] theorem colls_landFor (s : State) (i c k : Nat) (l : List Land) : (s.landFor i c k l).colls = s.colls := rfl
@[simp] theorem links_landFor (s : State) (i c k : Nat) (l : List Land) : (s.landFor i c k l).links = s.links := rfl
@[simp] theorem exports_landFor (s : State) (i c k : Nat) (l : List Land) : (s.landFor i c k l).exports = s.exports := rfl
@[simp] theorem rpaths_landFor (s : State) (i c k : Nat) (l : List Land) : (s.landFor i c k l).rpaths = s.rpaths := rfl
@[simp] theorem outbox_landFor (s : State) (i c k : Nat) (l : List Land) : (s.landFor i c k l).outbox = s.outbox := rfl
@[simp] theorem replays_landFor (s : State) (i c k : Nat) (l : List Land) : (s.landFor i c k l).replays = s.replays := rfl
@[simp] theorem awaiting_landFor (s : State) (i c k : Nat) (l : List Land) : (s.landFor i c k l).awaiting = s.awaiting := rfl
@[simp] theorem ctxs_landFor (s : State) (i c k : Nat) (l : List Land) : (s.landFor i c k l).ctxs = s.ctxs := rfl
@[simp] theorem plists_landFor (s : State) (i c k : Nat) (l : List Land) : (s.landFor i c k l).plists = s.plists := rfl
@[simp] theorem engines_landFor (s : State) (i c k : Nat) (l : List Land) : (s.landFor i c k l).engines = s.engines := rfl
@[simp] theorem kvPool_landFor (s : State) (i c k : Nat) (l : List Land) : (s.landFor i c k l).kvPool = s.kvPool := rfl
@[simp] theorem detached_landFor (s : State) (i c k : Nat) (l : List Land) : (s.landFor i c k l).detached = s.detached := rfl
@[simp] theorem tiers_landFor (s : State) (i c k : Nat) (l : List Land) : (s.landFor i c k l).tiers = s.tiers := rfl
@[simp] theorem fenced_landFor (s : State) (i c k : Nat) (l : List Land) : (s.landFor i c k l).fenced = s.fenced := rfl
@[simp] theorem spareCluster_landFor (s : State) (i c k : Nat) (l : List Land) : (s.landFor i c k l).spareCluster = s.spareCluster := rfl
@[simp] theorem sparePair_landFor (s : State) (i c k : Nat) (l : List Land) : (s.landFor i c k l).sparePair = s.sparePair := rfl
@[simp] theorem retiring_landFor (s : State) (i c k : Nat) (l : List Land) : (s.landFor i c k l).retiring = s.retiring := rfl
@[simp] theorem lostClusters_landFor (s : State) (i c k : Nat) (l : List Land) : (s.landFor i c k l).lostClusters = s.lostClusters := rfl
@[simp] theorem lostSlices_landFor (s : State) (i c k : Nat) (l : List Land) : (s.landFor i c k l).lostSlices = s.lostSlices := rfl
@[simp] theorem vfs_landFor (s : State) (i c k : Nat) (l : List Land) : (s.landFor i c k l).vfs = s.vfs := rfl
@[simp] theorem bells_landFor (s : State) (i c k : Nat) (l : List Land) : (s.landFor i c k l).bells = s.bells := rfl
@[simp] theorem hostMem_landFor (s : State) (i c k : Nat) (l : List Land) : (s.landFor i c k l).hostMem = s.hostMem := rfl
@[simp] theorem bootst_landFor (s : State) (i c k : Nat) (l : List Land) : (s.landFor i c k l).bootst = s.bootst := rfl
@[simp] theorem bootStep_landFor (s : State) (i c k : Nat) (l : List Land) : (s.landFor i c k l).bootStep = s.bootStep := rfl
@[simp] theorem fuses_landFor (s : State) (i c k : Nat) (l : List Land) : (s.landFor i c k l).fuses = s.fuses := rfl
@[simp] theorem imageSrc_landFor (s : State) (i c k : Nat) (l : List Land) : (s.landFor i c k l).imageSrc = s.imageSrc := rfl
@[simp] theorem stopped_landFor (s : State) (i c k : Nat) (l : List Land) : (s.landFor i c k l).stopped = s.stopped := rfl
@[simp] theorem nextId_landFor (s : State) (i c k : Nat) (l : List Land) : (s.landFor i c k l).nextId = s.nextId := rfl
@[simp] theorem arg_landFor (s : State) (i c k : Nat) (l : List Land) : (s.landFor i c k l).arg = s.arg := rfl
@[simp] theorem cur_landFor (s : State) (i c k : Nat) (l : List Land) : (s.landFor i c k l).cur = s.cur := rfl
@[simp] theorem choices_landFor (s : State) (i c k : Nat) (l : List Land) : (s.landFor i c k l).choices = s.choices := rfl
@[simp] theorem drawn_landFor (s : State) (i c k : Nat) (l : List Land) : (s.landFor i c k l).drawn = s.drawn := rfl
@[simp] theorem agenda_landFor (s : State) (i c k : Nat) (l : List Land) : (s.landFor i c k l).agenda =
    s.agenda ++ [{ cyc := s.now + k, cls := 1, key := landKey s.now i c, ins := .resultLanding, arg := .land i l }] := rfl

@[simp] theorem now_land (s : State) (k : Nat) (l : List Land) : (s.land k l).now = s.now := rfl
@[simp] theorem beacon_land (s : State) (k : Nat) (l : List Land) : (s.land k l).beacon = s.beacon := rfl
@[simp] theorem seqs_land (s : State) (k : Nat) (l : List Land) : (s.land k l).seqs = s.seqs := rfl
@[simp] theorem cores_land (s : State) (k : Nat) (l : List Land) : (s.land k l).cores = s.cores := rfl
@[simp] theorem mem_land (s : State) (k : Nat) (l : List Land) : (s.land k l).mem = s.mem := rfl
@[simp] theorem mtag_land (s : State) (k : Nat) (l : List Land) : (s.land k l).mtag = s.mtag := rfl
@[simp] theorem ctag_land (s : State) (k : Nat) (l : List Land) : (s.land k l).ctag = s.ctag := rfl
@[simp] theorem bkey_land (s : State) (k : Nat) (l : List Land) : (s.land k l).bkey = s.bkey := rfl
@[simp] theorem bad_land (s : State) (k : Nat) (l : List Land) : (s.land k l).bad = s.bad := rfl
@[simp] theorem spad_land (s : State) (k : Nat) (l : List Land) : (s.land k l).spad = s.spad := rfl
@[simp] theorem stag_land (s : State) (k : Nat) (l : List Land) : (s.land k l).stag = s.stag := rfl
@[simp] theorem sbad_land (s : State) (k : Nat) (l : List Land) : (s.land k l).sbad = s.sbad := rfl
@[simp] theorem l2_land (s : State) (k : Nat) (l : List Land) : (s.land k l).l2 = s.l2 := rfl
@[simp] theorem wbuf_land (s : State) (k : Nat) (l : List Land) : (s.land k l).wbuf = s.wbuf := rfl
@[simp] theorem miss_land (s : State) (k : Nat) (l : List Land) : (s.land k l).miss = s.miss := rfl
@[simp] theorem accepted_land (s : State) (k : Nat) (l : List Land) : (s.land k l).accepted = s.accepted := rfl
@[simp] theorem rdc_land (s : State) (k : Nat) (l : List Land) : (s.land k l).rdc = s.rdc := rfl
@[simp] theorem tlb_land (s : State) (k : Nat) (l : List Land) : (s.land k l).tlb = s.tlb := rfl
@[simp] theorem stamp_land (s : State) (k : Nat) (l : List Land) : (s.land k l).stamp = s.stamp := rfl
@[simp] theorem doms_land (s : State) (k : Nat) (l : List Land) : (s.land k l).doms = s.doms := rfl
@[simp] theorem keys_land (s : State) (k : Nat) (l : List Land) : (s.land k l).keys = s.keys := rfl
@[simp] theorem keyNext_land (s : State) (k : Nat) (l : List Land) : (s.land k l).keyNext = s.keyNext := rfl
@[simp] theorem revokes_land (s : State) (k : Nat) (l : List Land) : (s.land k l).revokes = s.revokes := rfl
@[simp] theorem syncs_land (s : State) (k : Nat) (l : List Land) : (s.land k l).syncs = s.syncs := rfl
@[simp] theorem parts_land (s : State) (k : Nat) (l : List Land) : (s.land k l).parts = s.parts := rfl
@[simp] theorem pool_land (s : State) (k : Nat) (l : List Land) : (s.land k l).pool = s.pool := rfl
@[simp] theorem saved_land (s : State) (k : Nat) (l : List Land) : (s.land k l).saved = s.saved := rfl
@[simp] theorem fatalSlots_land (s : State) (k : Nat) (l : List Land) : (s.land k l).fatalSlots = s.fatalSlots := rfl
@[simp] theorem launchNext_land (s : State) (k : Nat) (l : List Land) : (s.land k l).launchNext = s.launchNext := rfl
@[simp] theorem hub_land (s : State) (k : Nat) (l : List Land) : (s.land k l).hub = s.hub := rfl
@[simp] theorem dsel_land (s : State) (k : Nat) (l : List Land) : (s.land k l).dsel = s.dsel := rfl
@[simp] theorem gates_land (s : State) (k : Nat) (l : List Land) : (s.land k l).gates = s.gates := rfl
@[simp] theorem colls_land (s : State) (k : Nat) (l : List Land) : (s.land k l).colls = s.colls := rfl
@[simp] theorem links_land (s : State) (k : Nat) (l : List Land) : (s.land k l).links = s.links := rfl
@[simp] theorem exports_land (s : State) (k : Nat) (l : List Land) : (s.land k l).exports = s.exports := rfl
@[simp] theorem rpaths_land (s : State) (k : Nat) (l : List Land) : (s.land k l).rpaths = s.rpaths := rfl
@[simp] theorem outbox_land (s : State) (k : Nat) (l : List Land) : (s.land k l).outbox = s.outbox := rfl
@[simp] theorem replays_land (s : State) (k : Nat) (l : List Land) : (s.land k l).replays = s.replays := rfl
@[simp] theorem awaiting_land (s : State) (k : Nat) (l : List Land) : (s.land k l).awaiting = s.awaiting := rfl
@[simp] theorem ctxs_land (s : State) (k : Nat) (l : List Land) : (s.land k l).ctxs = s.ctxs := rfl
@[simp] theorem plists_land (s : State) (k : Nat) (l : List Land) : (s.land k l).plists = s.plists := rfl
@[simp] theorem engines_land (s : State) (k : Nat) (l : List Land) : (s.land k l).engines = s.engines := rfl
@[simp] theorem kvPool_land (s : State) (k : Nat) (l : List Land) : (s.land k l).kvPool = s.kvPool := rfl
@[simp] theorem detached_land (s : State) (k : Nat) (l : List Land) : (s.land k l).detached = s.detached := rfl
@[simp] theorem tiers_land (s : State) (k : Nat) (l : List Land) : (s.land k l).tiers = s.tiers := rfl
@[simp] theorem fenced_land (s : State) (k : Nat) (l : List Land) : (s.land k l).fenced = s.fenced := rfl
@[simp] theorem spareCluster_land (s : State) (k : Nat) (l : List Land) : (s.land k l).spareCluster = s.spareCluster := rfl
@[simp] theorem sparePair_land (s : State) (k : Nat) (l : List Land) : (s.land k l).sparePair = s.sparePair := rfl
@[simp] theorem retiring_land (s : State) (k : Nat) (l : List Land) : (s.land k l).retiring = s.retiring := rfl
@[simp] theorem lostClusters_land (s : State) (k : Nat) (l : List Land) : (s.land k l).lostClusters = s.lostClusters := rfl
@[simp] theorem lostSlices_land (s : State) (k : Nat) (l : List Land) : (s.land k l).lostSlices = s.lostSlices := rfl
@[simp] theorem vfs_land (s : State) (k : Nat) (l : List Land) : (s.land k l).vfs = s.vfs := rfl
@[simp] theorem bells_land (s : State) (k : Nat) (l : List Land) : (s.land k l).bells = s.bells := rfl
@[simp] theorem hostMem_land (s : State) (k : Nat) (l : List Land) : (s.land k l).hostMem = s.hostMem := rfl
@[simp] theorem bootst_land (s : State) (k : Nat) (l : List Land) : (s.land k l).bootst = s.bootst := rfl
@[simp] theorem bootStep_land (s : State) (k : Nat) (l : List Land) : (s.land k l).bootStep = s.bootStep := rfl
@[simp] theorem fuses_land (s : State) (k : Nat) (l : List Land) : (s.land k l).fuses = s.fuses := rfl
@[simp] theorem imageSrc_land (s : State) (k : Nat) (l : List Land) : (s.land k l).imageSrc = s.imageSrc := rfl
@[simp] theorem stopped_land (s : State) (k : Nat) (l : List Land) : (s.land k l).stopped = s.stopped := rfl
@[simp] theorem nextId_land (s : State) (k : Nat) (l : List Land) : (s.land k l).nextId = s.nextId := rfl
@[simp] theorem arg_land (s : State) (k : Nat) (l : List Land) : (s.land k l).arg = s.arg := rfl
@[simp] theorem cur_land (s : State) (k : Nat) (l : List Land) : (s.land k l).cur = s.cur := rfl
@[simp] theorem choices_land (s : State) (k : Nat) (l : List Land) : (s.land k l).choices = s.choices := rfl
@[simp] theorem drawn_land (s : State) (k : Nat) (l : List Land) : (s.land k l).drawn = s.drawn := rfl
@[simp] theorem agenda_land (s : State) (k : Nat) (l : List Land) : (s.land k l).agenda =
    s.agenda ++
      [{ cyc := s.now + k, cls := 1, key := landKey s.now s.cur.sid s.cur.col, ins := .resultLanding, arg := .land s.cur.sid l }] := rfl

@[simp] theorem now_occupy (s : State) (n : Nat) : (s.occupy n).now = s.now := rfl
@[simp] theorem beacon_occupy (s : State) (n : Nat) : (s.occupy n).beacon = s.beacon := rfl
@[simp] theorem cores_occupy (s : State) (n : Nat) : (s.occupy n).cores = s.cores := rfl
@[simp] theorem mem_occupy (s : State) (n : Nat) : (s.occupy n).mem = s.mem := rfl
@[simp] theorem mtag_occupy (s : State) (n : Nat) : (s.occupy n).mtag = s.mtag := rfl
@[simp] theorem ctag_occupy (s : State) (n : Nat) : (s.occupy n).ctag = s.ctag := rfl
@[simp] theorem bkey_occupy (s : State) (n : Nat) : (s.occupy n).bkey = s.bkey := rfl
@[simp] theorem bad_occupy (s : State) (n : Nat) : (s.occupy n).bad = s.bad := rfl
@[simp] theorem spad_occupy (s : State) (n : Nat) : (s.occupy n).spad = s.spad := rfl
@[simp] theorem stag_occupy (s : State) (n : Nat) : (s.occupy n).stag = s.stag := rfl
@[simp] theorem sbad_occupy (s : State) (n : Nat) : (s.occupy n).sbad = s.sbad := rfl
@[simp] theorem l2_occupy (s : State) (n : Nat) : (s.occupy n).l2 = s.l2 := rfl
@[simp] theorem wbuf_occupy (s : State) (n : Nat) : (s.occupy n).wbuf = s.wbuf := rfl
@[simp] theorem miss_occupy (s : State) (n : Nat) : (s.occupy n).miss = s.miss := rfl
@[simp] theorem accepted_occupy (s : State) (n : Nat) : (s.occupy n).accepted = s.accepted := rfl
@[simp] theorem rdc_occupy (s : State) (n : Nat) : (s.occupy n).rdc = s.rdc := rfl
@[simp] theorem tlb_occupy (s : State) (n : Nat) : (s.occupy n).tlb = s.tlb := rfl
@[simp] theorem stamp_occupy (s : State) (n : Nat) : (s.occupy n).stamp = s.stamp := rfl
@[simp] theorem doms_occupy (s : State) (n : Nat) : (s.occupy n).doms = s.doms := rfl
@[simp] theorem keys_occupy (s : State) (n : Nat) : (s.occupy n).keys = s.keys := rfl
@[simp] theorem keyNext_occupy (s : State) (n : Nat) : (s.occupy n).keyNext = s.keyNext := rfl
@[simp] theorem revokes_occupy (s : State) (n : Nat) : (s.occupy n).revokes = s.revokes := rfl
@[simp] theorem syncs_occupy (s : State) (n : Nat) : (s.occupy n).syncs = s.syncs := rfl
@[simp] theorem parts_occupy (s : State) (n : Nat) : (s.occupy n).parts = s.parts := rfl
@[simp] theorem pool_occupy (s : State) (n : Nat) : (s.occupy n).pool = s.pool := rfl
@[simp] theorem saved_occupy (s : State) (n : Nat) : (s.occupy n).saved = s.saved := rfl
@[simp] theorem fatalSlots_occupy (s : State) (n : Nat) : (s.occupy n).fatalSlots = s.fatalSlots := rfl
@[simp] theorem launchNext_occupy (s : State) (n : Nat) : (s.occupy n).launchNext = s.launchNext := rfl
@[simp] theorem hub_occupy (s : State) (n : Nat) : (s.occupy n).hub = s.hub := rfl
@[simp] theorem dsel_occupy (s : State) (n : Nat) : (s.occupy n).dsel = s.dsel := rfl
@[simp] theorem gates_occupy (s : State) (n : Nat) : (s.occupy n).gates = s.gates := rfl
@[simp] theorem colls_occupy (s : State) (n : Nat) : (s.occupy n).colls = s.colls := rfl
@[simp] theorem links_occupy (s : State) (n : Nat) : (s.occupy n).links = s.links := rfl
@[simp] theorem exports_occupy (s : State) (n : Nat) : (s.occupy n).exports = s.exports := rfl
@[simp] theorem rpaths_occupy (s : State) (n : Nat) : (s.occupy n).rpaths = s.rpaths := rfl
@[simp] theorem outbox_occupy (s : State) (n : Nat) : (s.occupy n).outbox = s.outbox := rfl
@[simp] theorem replays_occupy (s : State) (n : Nat) : (s.occupy n).replays = s.replays := rfl
@[simp] theorem awaiting_occupy (s : State) (n : Nat) : (s.occupy n).awaiting = s.awaiting := rfl
@[simp] theorem ctxs_occupy (s : State) (n : Nat) : (s.occupy n).ctxs = s.ctxs := rfl
@[simp] theorem plists_occupy (s : State) (n : Nat) : (s.occupy n).plists = s.plists := rfl
@[simp] theorem engines_occupy (s : State) (n : Nat) : (s.occupy n).engines = s.engines := rfl
@[simp] theorem kvPool_occupy (s : State) (n : Nat) : (s.occupy n).kvPool = s.kvPool := rfl
@[simp] theorem detached_occupy (s : State) (n : Nat) : (s.occupy n).detached = s.detached := rfl
@[simp] theorem tiers_occupy (s : State) (n : Nat) : (s.occupy n).tiers = s.tiers := rfl
@[simp] theorem fenced_occupy (s : State) (n : Nat) : (s.occupy n).fenced = s.fenced := rfl
@[simp] theorem spareCluster_occupy (s : State) (n : Nat) : (s.occupy n).spareCluster = s.spareCluster := rfl
@[simp] theorem sparePair_occupy (s : State) (n : Nat) : (s.occupy n).sparePair = s.sparePair := rfl
@[simp] theorem retiring_occupy (s : State) (n : Nat) : (s.occupy n).retiring = s.retiring := rfl
@[simp] theorem lostClusters_occupy (s : State) (n : Nat) : (s.occupy n).lostClusters = s.lostClusters := rfl
@[simp] theorem lostSlices_occupy (s : State) (n : Nat) : (s.occupy n).lostSlices = s.lostSlices := rfl
@[simp] theorem vfs_occupy (s : State) (n : Nat) : (s.occupy n).vfs = s.vfs := rfl
@[simp] theorem bells_occupy (s : State) (n : Nat) : (s.occupy n).bells = s.bells := rfl
@[simp] theorem hostMem_occupy (s : State) (n : Nat) : (s.occupy n).hostMem = s.hostMem := rfl
@[simp] theorem bootst_occupy (s : State) (n : Nat) : (s.occupy n).bootst = s.bootst := rfl
@[simp] theorem bootStep_occupy (s : State) (n : Nat) : (s.occupy n).bootStep = s.bootStep := rfl
@[simp] theorem fuses_occupy (s : State) (n : Nat) : (s.occupy n).fuses = s.fuses := rfl
@[simp] theorem imageSrc_occupy (s : State) (n : Nat) : (s.occupy n).imageSrc = s.imageSrc := rfl
@[simp] theorem stopped_occupy (s : State) (n : Nat) : (s.occupy n).stopped = s.stopped := rfl
@[simp] theorem agenda_occupy (s : State) (n : Nat) : (s.occupy n).agenda = s.agenda := rfl
@[simp] theorem nextId_occupy (s : State) (n : Nat) : (s.occupy n).nextId = s.nextId := rfl
@[simp] theorem arg_occupy (s : State) (n : Nat) : (s.occupy n).arg = s.arg := rfl
@[simp] theorem cur_occupy (s : State) (n : Nat) : (s.occupy n).cur = s.cur := rfl
@[simp] theorem choices_occupy (s : State) (n : Nat) : (s.occupy n).choices = s.choices := rfl
@[simp] theorem drawn_occupy (s : State) (n : Nat) : (s.occupy n).drawn = s.drawn := rfl

end Sys2Proof.Laws
end

