-- ==== Sys2Proof/Tests/Slice0.lean ====
section
/-! SUPPORT. The model's own tests: ill-formed terms that the well-formedness check refuses, words written out from the
encodings of the spec, states that meet the hypotheses of each statement, and examples of single steps. -/

namespace Sys2Proof.Tests

open Sys2Proof Sys2Proof.Machine Sys2Proof.Claims

set_option Elab.async false

/-- The machine at reset, with a sequencer in the place of that of core 0. -/
def on (q : Seq) : State := { seqs := [(0, q)] }

/-- The machine at reset, about to run a word of the hub's management sequencer. -/
def onHub : State := { cur := { sid := 8 } }

/-- A loop of one pass over the words 0 to 7. -/
def lvl : LoopLevel := { count := 1, index := 0, start := 0, len := 8 }

/-- A sequencer whose g1 holds `n`. -/
def g1 (n : Nat) : Seq := { g := [(1, BitVec.ofNat 64 n)] }

/-- Each word of a list (its bits, its value) decodes to its instruction. -/
def reads (l : List (Nat × Nat × Instr)) : Bool := l.all (fun (n, w, i) => decodeTableWord n w == some i)

theorem test_decode_ctl_1 : reads [
  (32, 0xB0000000, .nop 0x5),
  (32, 0x4C100BE9, .wait 0x2 0xBE9),
  (32, 0x1C2AD388, .br 0xAD388),
  (32, 0x0435602D, .brp 0x15 0x202D),
  (32, 0x104E5F6D, .call 0xE5F6D),
  (32, 0x14514000, .ret 0x5),
  (64, 0x0000EFB60C68C000, .loop 0x23 0xEFB6),
  (64, 0x00000A78147B339A, .loopi 0xB339A 0xA78),
  (32, 0x188D8AD7, .lbrk 0x36 0xAD7),
  (64, 0x0E76F49218903C8E, .yield 0x3C8E 0xE76F492),
  (32, 0x18A00000, .seam),
  (32, 0x10B28000, .waitb 0xA),
  (32, 0x08C00000, .align),
  (32, 0x08D04280, .launch 0x1 0x2 0x20),
  (32, 0x1CE00000, .endTask),
  (32, 0x14F0040D, .trap 0x40D)] = true := by decide

theorem test_decode_ctl_2 : reads [
  (32, 0x1D000000, .eret),
  (32, 0x1910188D, .bkpt 0x188D),
  (32, 0x1D200001, .smode 0x1),
  (32, 0x193E0681, .rdsr 0x38 0x681),
  (32, 0x0D436B26, .wrsr 0xD 0x2B26)] = true := by decide

theorem test_decode_sca_1 : reads [
  (32, 0x282BB268, .add 0x2E 0x32 0x1A),
  (32, 0x243C51E8, .sub 0x31 0x11 0x3A),
  (32, 0x28465157, .addi 0x19 0x11 0x57),
  (32, 0x3C508CB4, .mul 0x2 0xC 0x2D),
  (32, 0x246E1A0C, .mulhs 0x38 0x1A 0x3),
  (32, 0x307D9F20, .mulhz 0x36 0x1F 0x8),
  (32, 0x2483DBBC, .divs 0xF 0x1B 0x2F),
  (32, 0x3C91FD98, .divz 0x7 0x3D 0x26),
  (32, 0x24A1F094, .rems 0x7 0x30 0x25),
  (32, 0x28BE7630, .remz 0x39 0x36 0xC),
  (32, 0x2CCE4520, .and 0x39 0x5 0x8),
  (32, 0x34DE8180, .or 0x3A 0x1 0x20),
  (32, 0x24E91F88, .xor 0x24 0x1F 0x22),
  (32, 0x28F68464, .andn 0x1A 0x4 0x19),
  (32, 0x290A3014, .shl 0x28 0x30 0x5),
  (32, 0x3919492C, .shr 0x25 0x9 0xB)] = true := by decide

theorem test_decode_sca_2 : reads [
  (32, 0x352BBD08, .sar 0x2E 0x3D 0x2),
  (32, 0x253463AC, .ror 0x11 0x23 0x2B),
  (32, 0x354D892F, .shli 0x36 0x9 0x2F),
  (32, 0x2D5BE402, .shri 0x2F 0x24 0x2),
  (32, 0x256DED19, .sari 0x37 0x2D 0x19),
  (32, 0x2972A780, .mins 0xA 0x27 0x20),
  (32, 0x258BD7D8, .maxs 0x2F 0x17 0x36),
  (32, 0x39986590, .minz 0x21 0x25 0x24),
  (32, 0x3DAB05DC, .maxz 0x2C 0x5 0x37),
  (32, 0x2DB1F700, .clz 0x7 0x37),
  (32, 0x35C5DC00, .popc 0x17 0x1C),
  (32, 0x29D64CB8, .movi 0x19 0xCB8),
  (64, 0x2C204FA935EBC12C, .movx 0x2F 0x12C 0xC204FA9),
  (64, 0x2005099F3DF98002, .movhx 0x26 0x2 0x5099F),
  (32, 0x32004D38, .cmpeq 0x1 0xD 0xE),
  (32, 0x321114D0, .cmpne 0x4 0x14 0x34)] = true := by decide

theorem test_decode_sca_3 : reads [
  (32, 0x26212848, .cmplts 0x4 0x28 0x12),
  (32, 0x2632320C, .cmples 0x8 0x32 0x3),
  (32, 0x2641B18C, .cmpltz 0x6 0x31 0x23),
  (32, 0x3E519F58, .cmplez 0x6 0x1F 0x16),
  (32, 0x3A630F90, .cmpeqi 0xC 0xF 0x90),
  (32, 0x3A705BA5, .cmpltsi 0x1 0x1B 0xA5),
  (32, 0x2A81BDC1, .sel 0x6 0x3D 0x30 0x1),
  (32, 0x36915E6C, .pand 0x5 0x1E 0x1B),
  (32, 0x36A14454, .por 0x5 0x4 0x15),
  (32, 0x2EB09668, .pxor 0x2 0x16 0x1A),
  (32, 0x2EC30500, .pnot 0xC 0x5),
  (32, 0x2EDF0100, .idx 0x3C 0x1),
  (32, 0x26E98903, .sext 0x26 0x9 0x3),
  (32, 0x26F70D32, .zext 0x1C 0xD 0x32),
  (32, 0x3304A7F5, .fadd 0x12 0x27 0x3D 0x1),
  (64, 0x200000013F059227, .faddLiteral 0x16 0x12 0x9 0x1 0x1)] = true := by decide

theorem test_decode_sca_4 : reads [
  (32, 0x371448F5, .fsub 0x11 0x8 0x3D 0x1),
  (64, 0x20000002271BE34B, .fsubLiteral 0x2F 0x23 0x12 0x1 0x2),
  (32, 0x27211A71, .fmul 0x4 0x1A 0x1C 0x1),
  (64, 0x200000012B2B63C3, .fmulLiteral 0x2D 0x23 0x30 0x1 0x1),
  (32, 0x373E3329, .ffma 0x38 0x33 0xA 0x1),
  (64, 0x200000023B3B51C7, .ffmaLiteral 0x2D 0x11 0x31 0x1 0x2),
  (32, 0x3747D619, .fdiv 0x1F 0x16 0x6 0x1),
  (64, 0x2000000227446123, .fdivLiteral 0x11 0x21 0x8 0x1 0x2),
  (32, 0x3F514A01, .fsqrt 0x5 0xA 0x1),
  (64, 0x200000013F5C8E03, .fsqrtLiteral 0x32 0xE 0x1 0x1),
  (64, 0x2000026833696300, .fcvt 0x25 0x23 0x8 0x6 0x2),
  (32, 0x33727C41, .fcmplt 0x9 0x3C 0x10 0x1),
  (32, 0x37807CA5, .fcmpeq 0x1 0x3C 0x29 0x1),
  (32, 0x279965E1, .fmin 0x25 0x25 0x38 0x1),
  (32, 0x33A89385, .fmax 0x22 0x13 0x21 0x1),
  (32, 0x37B88000, .beac 0x22)] = true := by decide

theorem test_decode_vec_1 : reads [
  (64, 0x4003A35C58200000, .shape 0x3A35C),
  (32, 0x5C317292, .vadd 0x2 0x1C 0x14 0x4 0x2),
  (32, 0x4C415CF6, .vsub 0x2 0x17 0x7 0x5 0x2),
  (32, 0x505705F6, .vmul 0xE 0x1 0xF 0x5 0x2),
  (32, 0x446ACD65, .vfma 0x15 0x13 0xB 0x1 0x1),
  (32, 0x4875EBD6, .vfms 0xB 0x1A 0x1E 0x5 0x2),
  (32, 0x5487F0F2, .vmin 0xF 0x1C 0x7 0x4 0x2),
  (32, 0x449986AD, .vmax 0x13 0x1 0x15 0x3 0x1),
  (32, 0x54A10806, .vabs 0x2 0x2 0x1 0x2),
  (32, 0x5CB2880A, .vneg 0x5 0x2 0x2 0x2),
  (32, 0x50C8C5F5, .vand 0x11 0x11 0xF 0x5 0x1),
  (32, 0x44DCA9CE, .vor 0x19 0xA 0xE 0x3 0x2),
  (32, 0x48E63F45, .vxor 0xC 0xF 0x1A 0x1 0x1),
  (32, 0x58F3B81A, .vnot 0x7 0xE 0x6 0x2),
  (32, 0x45058EEE, .vshl 0xB 0x3 0x17 0x3 0x2),
  (32, 0x55132F75, .vshr 0x6 0xB 0x1B 0x5 0x1)] = true := by decide

theorem test_decode_vec_2 : reads [
  (32, 0x5D2854CD, .vsar 0x10 0x15 0x6 0x3 0x1),
  (32, 0x553265A9, .vcmpeq 0x4 0x19 0xD 0x2 0x1),
  (32, 0x5D414F66, .vcmplt 0x2 0x13 0x1B 0x1 0x2),
  (32, 0x4552A089, .vcmple 0x5 0x8 0x4 0x2 0x1),
  (32, 0x5D6E33A9, .vsel 0x1C 0xC 0x1D 0x2 0x1),
  (32, 0x5173B411, .vmov 0x7 0xD 0x4 0x1),
  (32, 0x51892C19, .vfill 0x12 0xB 0x6 0x1),
  (32, 0x51930909, .vbrow 0x6 0x2 0x8 0x2 0x1),
  (32, 0x51A9F64D, .vbcol 0x13 0x1D 0x12 0x3 0x1),
  (32, 0x51B2A80D, .vrsum 0x5 0xA 0x3 0x1),
  (32, 0x45C2A812, .vrmax 0x5 0xA 0x4 0x2),
  (32, 0x4DDAF006, .vcsum 0x15 0x1C 0x1 0x2),
  (32, 0x45E53812, .vcmax 0xA 0xE 0x4 0x2),
  (32, 0x5DFF7016, .vtrn 0x1E 0x1C 0x5 0x2),
  (32, 0x52035811, .vzip2 0x6 0x16 0x4 0x1),
  (32, 0x461AC40D, .vzip3 0x15 0x11 0x3 0x1)] = true := by decide

theorem test_decode_vec_3 : reads [
  (32, 0x4A2DDC0A, .vzip4 0x1B 0x17 0x2 0x2),
  (32, 0x5631B815, .vunz2 0x3 0xE 0x5 0x1),
  (32, 0x56430805, .vunz3 0x6 0x2 0x1 0x1),
  (32, 0x4651100A, .vunz4 0x2 0x4 0x2 0x2),
  (32, 0x46686B2E, .vperm 0x10 0x1A 0x19 0x3 0x2),
  (32, 0x5E763392, .vrot 0xC 0xC 0x1C 0x4 0x2),
  (32, 0x5E824169, .vcvt 0x4 0x10 0xB 0x2 0x1),
  (32, 0x4E9329CC, .vqnt 0x6 0xA 0xE 0x3),
  (32, 0x56A16410, .vamx 0x2 0x19 0x4),
  (32, 0x5EBD9410, .vrcpa 0x1B 0x5 0x4),
  (32, 0x4AC4D408, .vrsqa 0x9 0x15 0x2),
  (32, 0x52D86C18, .vexp2 0x10 0x1B 0x6),
  (32, 0x5AE6F418, .vlog2 0xD 0x1D 0x6),
  (32, 0x46F42404, .vtanh 0x8 0x9 0x1),
  (32, 0x57073EA5, .vgte 0xE 0xF 0x15 0x1 0x1),
  (32, 0x4B1BD576, .vpte 0x17 0x15 0xB 0x5 0x2)] = true := by decide

theorem test_decode_vec_4 : reads [
  (32, 0x47290886, .vmskop 0x2 0x2 0x2 0x4 0x1 0x2),
  (32, 0x5F3F5425, .viota 0x1E 0x15 0x1 0x1 0x1),
  (32, 0x4B4BC48E, .vrdot 0x17 0x11 0x4 0x3 0x2),
  (32, 0x4B5D564E, .vclamp 0x1A 0x15 0x12 0x3 0x2)] = true := by decide

theorem test_decode_mem_1 : reads [
  (32, 0x6423B100, .xlt 0xE 0x31),
  (32, 0x78215F01, .xltNw 0x5 0x1F),
  (32, 0x6C314000, .hrel 0x5),
  (32, 0x7C430600, .hchk 0xC 0x6),
  (32, 0x7056CA08, .hinfo 0x1B 0xA 0x2),
  (32, 0x686446E8, .lds 0x11 0x6 0x3A),
  (32, 0x6877A514, .sts 0x1E 0x25 0x5),
  (32, 0x6C84383C, .ldsg 0x10 0x38 0xF),
  (32, 0x7C97BE84, .stsg 0x1E 0x3E 0x21),
  (32, 0x68AE08EE, .ldg 0x1 0x18 0x8 0x3B 0x2),
  (64, 0x7F32852174AA8A3B, .ldgUnt 0x1 0xA 0xA 0xE 0x1F328521),
  (32, 0x68B84BDA, .stg 0x1 0x1 0xB 0x36 0x2),
  (64, 0x6AD7769674B98AD7, .stgUnt 0x1 0x6 0xA 0x35 0xAD77696),
  (32, 0x6CCD8255, .ldgs 0x1 0x16 0x2 0x15 0x1),
  (64, 0x7A4D398970C84167, .ldgsUnt 0x1 0x1 0x1 0x19 0x1A4D3989),
  (32, 0x7CD9C776, .stgs 0x1 0x7 0x7 0x1D 0x2)] = true := by decide

theorem test_decode_mem_2 : reads [
  (64, 0x649A359964DA82D7, .stgsUnt 0x1 0xA 0x2 0x35 0x49A3599),
  (32, 0x74ED83A2, .ldt 0x1 0x16 0x3 0x28 0x2),
  (64, 0x6C34AE117CEC0E97, .ldtUnt 0x1 0x10 0xE 0x25 0xC34AE11),
  (32, 0x7CFE0CE2, .stq 0x1 0x18 0xC 0x38 0x2),
  (64, 0x7EBB99D968FE860B, .stqUnt 0x1 0x1A 0x6 0x2 0x1EBB99D9),
  (32, 0x71090469, .stnt 0x1 0x4 0x4 0x1A 0x1),
  (64, 0x754CE91C79094DDB, .stntUnt 0x1 0x5 0xD 0x36 0x154CE91C),
  (32, 0x79100000, .drain),
  (32, 0x752060F4, .pfl 0x1 0x20 0x3D),
  (32, 0x71321040, .cwbr 0x8 0x10 0x10),
  (32, 0x6D4271F0, .cinvr 0x9 0x31 0x3C),
  (32, 0x7D508830, .rpin 0x2 0x8 0xC),
  (32, 0x79614800, .runpin 0x5 0x8),
  (32, 0x717A4ED9, .ldge 0x1 0x9 0xE 0x36 0x1),
  (64, 0x6973A0997978C44F, .ldgeUnt 0x1 0x3 0x4 0x13 0x973A099),
  (32, 0x69894AA1, .ldte 0x1 0x5 0xA 0x28 0x1)] = true := by decide

theorem test_decode_mem_3 : reads [
  (64, 0x6A570D5D6D8ACA5B, .ldteUnt 0x1 0xB 0xA 0x16 0xA570D5D)] = true := by decide

theorem test_decode_mat_1 : reads [
  (32, 0x94206314, .mcfg 0x1 0x23 0x5),
  (64, 0x800F8F3184304002, .mcfgi 0x1 0x2 0xF8F31),
  (32, 0x884175E2, .msrc 0x1 0x1 0x35 0xE2),
  (32, 0x9851C558, .mfmt 0x7 0x5 0x5 0x8),
  (32, 0x9C6B4E00, .mldb 0x2D 0xE),
  (32, 0x84700000, .mgo),
  (32, 0x848B5A00, .mclr 0x2D 0x1A),
  (32, 0x98937C2E, .mrd 0xD 0x3C 0xB 0x2),
  (32, 0x88A424D9, .mwr 0x10 0x24 0x36 0x1),
  (32, 0x8CB2C001, .mfuse 0xB 0x1),
  (32, 0x98C30000, .mdur 0xC)] = true := by decide

theorem test_decode_que_1 : reads [
  (32, 0xB8215708, .qpush 0x5 0x17 0x2),
  (32, 0xB4370608, .qpop 0x1C 0x6 0x2),
  (32, 0xAC410075, .qrsv 0x4 0x75),
  (32, 0xAC511B00, .qbind 0x4 0x1B),
  (32, 0xBC620D08, .lksend 0x8 0xD 0x2),
  (32, 0xBC70CE04, .lkrecv 0x3 0xE 0x1),
  (32, 0xBC82EB00, .lkbind 0xB 0x2B),
  (32, 0xB8939600, .qdepth 0xE 0x1 0x6)] = true := by decide

theorem test_decode_syn_1 : reads [
  (32, 0xCC25C75D, .aadd 0x17 0x7 0x17 0x1),
  (32, 0xC43F4C69, .aand 0x3D 0xC 0x1A 0x1),
  (32, 0xD44F4B2D, .aor 0x3D 0xB 0xB 0x1),
  (32, 0xC45A41CD, .axor 0x29 0x1 0x33 0x1),
  (32, 0xD86A456F, .amin 0x29 0x5 0x1B 0x1 0x1),
  (32, 0xD070446F, .amax 0x1 0x4 0x1B 0x1 0x1),
  (32, 0xC48604F1, .aswp 0x18 0x4 0x3C 0x1),
  (32, 0xC89F89F5, .acas 0x3E 0x9 0x3D 0x1),
  (32, 0xD0A15304, .vatom 0x5 0x13 0x1),
  (32, 0xCCBB481D, .acq 0x2D 0x8 0x7 0x1),
  (32, 0xD4B90373, .acqTry 0x24 0x3 0x1C 0x1),
  (32, 0xD4C00160, .rel 0x1 0x18),
  (64, 0xC000F824D4C004B2, .relQueues 0x4 0x2C 0xF824),
  (32, 0xC8D38184, .bind 0xE 0x1 0x21),
  (32, 0xD4E28424, .unbind 0xA 0x4 0x9),
  (32, 0xDCF2DA00, .gpass 0xB 0x1A)] = true := by decide

theorem test_decode_syn_2 : reads [
  (32, 0xC9031300, .gtake 0xC 0x13),
  (32, 0xD114A900, .gstat 0x12 0x29),
  (32, 0xD9278CC0, .cld 0x1E 0xC 0x30),
  (32, 0xD53A45FA, .cst 0x29 0x5 0x3E 0x1),
  (32, 0xD9440CDC, .cldv 0x10 0xC 0x37),
  (32, 0xD1504988, .cstv 0x1 0x9 0x22),
  (32, 0xD96B47D1, .rcas2 0x2D 0x7 0x34 0x1),
  (32, 0xDD7C4DB8, .renq 0x31 0xD 0x2E),
  (32, 0xCD810C78, .rchase 0x4 0xC 0x1E),
  (32, 0xC9924800, .kmov 0x9 0x8),
  (32, 0xD5A08A7C, .knarrow 0x2 0xA 0x1F),
  (32, 0xD9B1887F, .kperm 0x6 0x8 0x7F),
  (32, 0xC5C248B5, .kld 0x9 0x8 0x2D 0x1),
  (32, 0xD1D2C916, .kst 0xB 0x9 0x5 0x2),
  (32, 0xD9E4308C, .wld 0x10 0x30 0x23),
  (32, 0xC9F476DC, .wst 0x11 0x36 0x37)] = true := by decide

theorem test_decode_syn_3 : reads [
  (32, 0xCE00000C, .sfence 0x1 0x4)] = true := by decide

theorem test_decode_asy_1 : reads [
  (32, 0xF821CE85, .cpy 0x7 0xE 0x21 0x1),
  (32, 0xEC33022A, .cpyd 0xC 0x2 0xA 0x2),
  (32, 0xEC42ED01, .ratt 0xB 0x2D 0x1),
  (32, 0xEC515E00, .kapp 0x5 0x1E),
  (32, 0xE463B200, .krel 0xE 0x32),
  (32, 0xEC7380B0, .merge 0xE 0x2C),
  (32, 0xEC8383F4, .coll 0xE 0x3 0x3D),
  (32, 0xF49104C8, .tier 0x4 0x4 0x32),
  (32, 0xE4A246CC, .pfs 0x9 0x6 0x33),
  (32, 0xF0B011CB, .qfence 0x11CB)] = true := by decide

/-! ## Well-formedness (R90, R94 to R97): an ill-formed term for each check -/

theorem test_wellformed_terms : ([.add 1 2 3, .idx 1 5, .mcfg 5 0 4, .mcfgi 5 3 0, .msrc 0 2 0 0, .ldg 0 3 1 4 2, .ldgUnt 0 3 1 4 300,
    .hinfo 1 2 2, .vatom 1 2 6, .qrsv 0 16, .vqnt 1 2 3 4, .acas 62 1 2 1, .rcas2 61 1 2 0, .rchase 62 1 2, .cpy 1 2 60 0,
    .cpyd 1 2 58 0, .merge 1 60, .coll 1 2 62, .tier 1 2 62, .pfs 1 2 60, .loop 1 1, .loopi 1 65535,
    .unassignedOpcode 0x1F000000] : List Instr).all Instr.wellFormed = true := by decide
theorem test_illformed_not_a_word : ([.thermalShutdown, .resultLanding, .nestStep, .sqDoorbell, .gateFreeze] : List Instr).any
    Instr.wellFormed = false := by decide
theorem test_illformed_loop_level : Instr.wellFormed (.idx 1 6) = false := by decide
theorem test_illformed_nest_level : Instr.wellFormed (.mcfg 6 0 0) = false ∧ Instr.wellFormed (.mcfgi 7 0 0) = false := by decide
theorem test_illformed_nest_field : Instr.wellFormed (.mcfg 0 0 5) = false := by decide
theorem test_illformed_nest_role : Instr.wellFormed (.msrc 0 3 0 0) = false := by decide
theorem test_illformed_class_without_literal : ([.ldg 0 1 2 3 3, .stg 0 1 2 3 3, .ldgs 0 1 2 3 3, .stgs 0 1 2 3 3, .ldt 0 1 2 3 3,
    .stq 0 1 2 3 3, .stnt 0 1 2 3 3, .ldge 0 1 2 3 3, .ldte 0 1 2 3 3, .kld 1 2 3 3, .kst 1 2 3 3] : List Instr).any
    Instr.wellFormed = false := by decide
theorem test_illformed_selectors : ([.hinfo 1 2 3, .vatom 1 2 7, .qrsv 0 17, .vqnt 1 2 3 5] : List Instr).any
    Instr.wellFormed = false := by decide
theorem test_illformed_register_groups : ([.acas 63 1 2 0, .rcas2 62 1 2 0, .rcas2 61 1 2 1, .rchase 63 1 2, .knarrow 1 2 63,
    .cpy 1 2 61 0, .cpyd 1 2 59 0, .merge 1 61, .coll 1 2 63, .tier 1 2 63, .pfs 1 2 61] : List Instr).any
    Instr.wellFormed = false := by decide
theorem test_illformed_empty_loop : Instr.wellFormed (.loop 1 0) = false ∧ Instr.wellFormed (.loopi 1 0) = false := by decide
theorem test_illformed_assigned_opcode : Instr.wellFormed (.unassignedOpcode 0x20200000) = false := by decide

/-! ## The decoding examples of the spec (the examples 'decoding words' and 'assembling a short timetable') -/

theorem test_decode_examples : reads [(64, 0x6000012C64A0C113, .ldgUnt 0 3 1 4 300), (32, 0x4EC00000, .vrsqa 0 0 0),
    (32, 0x1F000000, .unassignedOpcode 0x1F000000), (64, 0x40F00908400, .yield 1024 0x40F),
    (32, 0x21D04007, .movi 1 7), (32, 0x2420C108, .add 3 1 2), (32, 0x2451030C, .mul 4 3 3), (32, 0x24814404, .divs 5 4 1),
    (32, 0x20A18404, .rems 6 4 1), (32, 0x00E00000, .endTask)] = true := by decide

/-! ## Worked examples of the spec -/

/-- Conversions to D8 (the example after R61): 97.1875, 3, −0.02 as FP32, 5 × 10^−18 and 2 × 10^20. -/
theorem test_d8_conversions : toD8 false (.fin false 971875 10000) = (0x30, flagNX) ∧ toD8 false (.fin false 3 1) = (0x64, flagNX) ∧
    (convert 1 6 0 false 0xBCA3D70A) = (0xC2, flagNX) ∧ toD8 false (.fin false 5 (10 ^ 18)) = (0, flagNX + flagUF) ∧
    toD8 false (.fin false (2 * 10 ^ 20) 1) = (0x07, flagOF + flagNX) := by decide +kernel
/-- 0x20 is exactly 0.001 (R58). -/
theorem test_d8_value : (match decodeD8 0x20 with | .fin s n d => !s && n * 1000 == d | _ => false) = true := by decide

/-- The quantising example after R72: the scale, and the bytes of 700, 1,900 and 0.01 with their flags. -/
theorem test_quantise : selectScale [0x43960000, 0x447A0000, 0x42480000] 0 = 129 ∧ quantise 0 129 (.fin false 700 1) = (0x73, flagNX) ∧
    quantise 0 129 (.fin false 1900 1) = (0x7E, flagOF + flagNX) ∧ quantise 0 129 (.fin false 1 100) = (0x01, flagUF + flagNX) := by
  decide +kernel

/-- The group of E4M3 products after R76: 6.0, 0.3125, 7 × 2^−9 negated and 2^−9 against 1.0, into 0x40C98000. -/
theorem test_matrix_group : (align 4 [(0x4C, 127), (0x2A, 127), (0x87, 127), (0x01, 127)]) = ([384, 20, -1, 0], -6) ∧
    (align 4 [(0x38, 127), (0x38, 127), (0x38, 127), (0x38, 127)]) = ([256, 256, 256, 256], -8) ∧
    groupStep 0 false false (align 4 [(0x4C, 127), (0x2A, 127), (0x87, 127), (0x01, 127)])
      (align 4 [(0x38, 127), (0x38, 127), (0x38, 127), (0x38, 127)]) = 0x40C98000 := by decide +kernel

/-- The five-element FP32 row sum after R78: 1, 2^24, 1, −2^24, 1 sum to 2 and raise NX. -/
theorem test_row_sum : tree (sumStep 1 0 false) 0 [0x3F800000, 0x4B800000, 0x3F800000, 0xCB800000, 0x3F800000] =
    (0x40000000, flagNX) := by decide +kernel

/-- The line example under a custom mask after R276. -/
theorem test_slice_example :
    (let p := placeOf 0 ({ hm := [0x20001, 2, 4, 8] } : Dom).map 0x800140
     (p.slice, p.channel, p.set)) = (4, 8, 2048) ∧
    (let p := placeOf 0 ({ hm := [0x20001, 2, 4, 8] } : Dom).map 0x140
     (p.slice, p.channel, p.set)) = (5, 10, 0) := by decide +kernel

/-- The region of the Driyth example after R415. -/
theorem test_driyth_region :
    translateTimetable [0x21D04007, 0x21D08064, 0x2020C108, 0x2051030C, 0x20414401, 0x00E00000] 0 [] =
      some ([0x21D04007, 0x21D08064, 0x2420C108, 0x2451030C, 0x2C414401, 0x00E00000], 0) := by decide +kernel

/-- The digest of the three bytes of abc (FIPS 180-4). -/
theorem test_sha256 : bigEndian (shaBytes [0x61, 0x62, 0x63]) = 0xBA7816BF8F01CFEA414140DE5DAE2223B00361A396177A9CB410FF61F20015AD := by
  decide +kernel

/-- The hop counts of the example after R383: cluster 0 to 5, and 7 to 35. -/
theorem test_hop_latency : hopLatency 0 (5 * 16) = 10 ∧ hopLatency (7 * 16) (35 * 16) = 20 := by decide

/-! ## Single words -/

/-- The state in which every result of a word that the agenda holds has been written. -/
def afterLanding : Host.Outcome State Machine.Fault Machine.Refusal → State
  | .next t => t.agenda.foldl (fun s e => match e.arg with | .land sid l => l.foldl (fun s x => s.landOne sid x) s | _ => s) t
  | _ => {}

theorem test_add_wraps : (afterLanding (exec (.add 3 1 2) (on { g := [(1, -1), (2, 2)] }))).g 3 = 1 := by decide
theorem test_divs_by_zero : (afterLanding (exec (.divs 3 1 2) (on { g := [(1, 100)] }))).g 3 = BitVec.allOnes 64 := by decide
/-- The exposed-results example after R147: DIVS of 7 by 7, and REMS of 7 by 7. -/
theorem test_divs_example : (afterLanding (exec (.divs 5 4 1) (on { g := [(4, 107), (1, 7)] }))).g 5 = 15 ∧
    (afterLanding (exec (.rems 6 4 1) (on { g := [(4, 107), (1, 7)] }))).g 6 = 2 := by decide
theorem test_shape_literal : ((afterLanding (exec (.shape 0x4FCF) {})).elemsOf 0).length = 1024 := by decide +kernel

/-- The predication example after R157: v2 and the tree of VRSUM under m1. -/
def predicated : Seq := {
  shape := 1 + 3 * 64 + 16384
  m := [(1, BitVec.ofNat 16384 (5 + 10 * 2 ^ 256))]
  v := [(0, BitVec.ofNat 32768 (pack 32 [0x3F800000, 0x40000000, 0x40400000, 0x40800000, 0x40A00000, 0x40C00000, 0x40E00000,
      0x41000000])), (1, BitVec.ofNat 32768 (pack 32 [0x41200000, 0x41200000, 0x41200000, 0x41200000, 0x41200000, 0x41200000,
      0x41200000, 0x41200000]))] }
theorem test_vadd_predicated : (afterLanding (exec (.vadd 2 0 1 1 0) (on predicated))).elemsOf 2 =
    [0x41300000, 0x40000000, 0x41500000, 0x40800000, 0x40A00000, 0x41800000, 0x40E00000, 0x41900000] := by decide +kernel
theorem test_vrsum_predicated :
    (afterLanding (exec (.vrsum 3 2 1 0) { afterLanding (exec (.vadd 2 0 1 1 0) (on predicated)) with now := 8 })).elemsOf 3 =
      [0x41C00000, 0x40000000, 0x41500000, 0x40800000, 0x42080000, 0x41800000, 0x40E00000, 0x41900000] := by decide +kernel

/-- A sequencer with the two events of the example before word 40. -/
def twoEvents : Seq := { pend := [{ code := 0x13, col := 6 }, { code := 0x15, col := 0 }], tvec := 200, lstk := [lvl] }

/-- The example of two events at one boundary: the gate fault of column 6 is delivered first, at word 40. -/
theorem test_two_events :
    (let q := ((on twoEvents).takeEvent 0 40).seq 0
     (q.tcause, q.tpos, q.pend.map (·.code), q.pl, q.tact)) = (0xC13, 0x10028, [0x15], 1, true) := by decide +kernel

/-- The first step after reset fetches and runs the word placed there: MOVI g1, 7. -/
theorem test_step_runs_placed_word : (afterLanding (step (State.reset.withFetchWord 32 0x21D04007))).g 1 = 7 := by decide +kernel

/-! ## Statements on the scalar column -/

/-- O1: the machine as it stands at reset has a free scalar column, and each word of the list has a result there. -/
theorem witness_IntegerResults : Free {} ∧ ([.add 3 1 2, .sub 3 1 2, .addi 3 1 200, .mul 3 1 2, .mulhs 3 1 2, .mulhz 3 1 2,
    .divs 3 1 2, .divz 3 1 2, .rems 3 1 2, .remz 3 1 2, .and 3 1 2, .or 3 1 2, .xor 3 1 2, .andn 3 1 2, .shl 3 1 2, .shr 3 1 2,
    .sar 3 1 2, .ror 3 1 2, .shli 3 1 63, .shri 3 1 0, .sari 3 1 63, .mins 3 1 2, .maxs 3 1 2, .minz 3 1 2, .maxz 3 1 2,
    .clz 3 1, .popc 3 1, .movi 63 0x3FFF, .movx 0 1 2, .movhx 0 1 2, .sel 3 1 2 15, .idx 3 5, .sext 3 1 63, .zext 3 1 0,
    .beac 3] : List Instr).all (fun i => (integerResult {} i).isSome) = true := by decide

theorem witness_PredicateResults : Free {} ∧ ([.cmpeq 0 1 2, .cmpne 0 1 2, .cmplts 0 1 2, .cmples 0 1 2, .cmpltz 0 1 2,
    .cmplez 0 1 2, .cmpeqi 15 1 255, .cmpltsi 15 1 128, .pand 1 31 0, .por 1 16 15, .pxor 1 2 3, .pnot 1 16] :
    List Instr).all (fun i => (predicateResult {} i).isSome) = true := by decide

theorem witness_FloatResults : Free {} ∧ ([.fadd 3 1 2 0, .faddLiteral 3 1 2 1 3, .fsub 3 1 2 1, .fsubLiteral 3 1 2 0 2,
    .fmul 3 1 2 0, .fmulLiteral 3 1 2 1 1, .ffma 3 1 2 1, .ffmaLiteral 3 1 2 0 1, .fdiv 3 1 2 0, .fdivLiteral 3 1 2 1 2,
    .fsqrt 3 1 0, .fsqrtLiteral 3 1 1 3, .fcvt 3 1 0 1 0, .fmin 3 1 2 0, .fmax 3 1 2 1] : List Instr).all
    (fun i => (floatResult {} i).isSome) = true := by decide

theorem witness_FloatCompares : Free {} ∧ ([.fcmplt 0 1 2 0, .fcmpeq 15 1 2 1] : List Instr).all
    (fun i => (floatCompare {} i).isSome) = true := by decide


/-! ## Statements on the control column -/

/-- O2: a management sequencer's SCA column, a user sequencer's ASY column; and each column that the hub does not have. -/
theorem witness_NopsAndWaits : OnHub onHub ∧ ¬ OnHub {} ∧ ((1 : BitVec 3) ≠ 2 ∧ (1 : BitVec 3) ≠ 4 ∧ (1 : BitVec 3) ≠ 5) := by
  decide

/-- O2: taken and untaken branches, to the ends of the store. -/
theorem witness_BranchesTransfer : Free {} ∧ branch {} (.br 0xFFFFF) = some (true, -1) ∧ branch {} (.brp 0 1) = some (false, 1) ∧
    branch {} (.brp 16 1) = some (true, 1) ∧ branch (on (g1 65536)) (.ret 1) = some (true, 65536) := by decide

theorem witness_CallSavesReturnIndex : Free {} := by decide

/-- O2: an empty body, a body that ends where its outer level ends, one that ends a word later, no pass, six levels and
five. -/
theorem witness_LoopsPushLevels : Free {} ∧ ¬ BodyFits (mine {}) 2 0 ∧ BodyFits (mine (on { lstk := [lvl] })) 2 6 ∧
    ¬ BodyFits (mine (on { lstk := [lvl] })) 2 7 ∧ (greg {} 1).toNat % 2 ^ 32 = 0 ∧ (greg (on (g1 1)) 1).toNat % 2 ^ 32 ≠ 0 ∧
    6 ≤ (mine (on { lstk := List.replicate 6 lvl })).lstk.length ∧ (mine (on { lstk := List.replicate 5 lvl })).lstk.length < 6 ∧
    BodyFits (mine (on { lstk := List.replicate 6 lvl })) 2 6 := by
  simp [BodyFits, mine, on, lvl, Fm.get, Free, greg, g1, List.replicate]

theorem witness_LbrkPopsInnermost : Free {} ∧ (mine {}).lstk = [] ∧ (mine (on { lstk := [lvl] })).lstk ≠ [] ∧
    selected (on { lstk := [lvl] }) 0 = false ∧ selected (on { lstk := [lvl] }) 16 = true ∧
    (32 : BitVec 6).getLsbD 5 = true ∧ Free (on { lstk := [lvl] }) := by decide

/-- O3: nothing pending, an event kept back by a handler, and one kept back by a loop level. -/
theorem witness_YieldArmsDeadline : ([{}, on { pend := [{ code := 0x15, col := 0 }], tact := true },
    on { pend := [{ code := 0x15, col := 0 }], lstk := [lvl] }] : List State).all (fun s => decide (Free s ∧ ¬ OnHub s ∧
    Quiet (mine s) ∧ (mine s).stopp = false ∧ (mine s).slend = false ∧
    ((mine s).tact = true ∨ (mine s).pend = [] ∨ (mine s).lstk ≠ []))) = true := by decide

/-- O3: two events of which the lower is delivered. -/
theorem witness_SeamEntersUntimed : (mine {}).pend = [] ∧
    (let s := on { pend := [{ code := 0x15, col := 0 }, { code := 0x11, col := 0 }], tvec := 9 }
     Free s ∧ (mine s).lstk = [] ∧ Delivers (mine s) { code := 0x11, col := 0 }) := by decide

theorem witness_EndReleasesHalf : Free {} ∧ ¬ OnHub {} ∧ Quiet (mine {}) ∧ (mine {}).pend = [] ∧
    (let s := on { pend := [{ code := 0x15, col := 0 }], tvec := 9 }
     Free s ∧ ¬ OnHub s ∧ Quiet (mine s) ∧ (mine s).lstk = [] ∧ Delivers (mine s) { code := 0x15, col := 0 }) := by decide

/-- O3: in a handler; at the present partition time, 5; one cycle past it. -/
theorem witness_WaitbHolds : Free (on { tact := true }) ∧ (mine (on { tact := true })).tact = true ∧
    (let s : State := { on (g1 5) with beacon := [(8, 0)], now := 5 }
     Free s ∧ (mine s).tact = false ∧ s.ptime (mine s).task.part ≤ (greg s 1).toNat) ∧
    (let s : State := { on (g1 4) with beacon := [(8, 0)], now := 5 }
     Free s ∧ (mine s).tact = false ∧ (greg s 1).toNat < s.ptime (mine s).task.part ∧ (mine s).fatal = false ∧
     ∀ x ∈ (mine s).pend, x.code ≠ 0x11) := by decide

theorem witness_WaitbCompletes :
    (let s : State := { on { waitb := some 0 } with arg := .seqN 0 0 }
     s.arg = .seqN 0 0 ∧ (Fm.get {} s.seqs 0).waitb = some 0 ∧ 0 ≤ s.ptime (Fm.get {} s.seqs 0).task.part ∧
     (Fm.get {} s.seqs 0).run ≠ .halted) := by decide

/-- A sequencer whose handle 0 names a page of 64 KiB at address 0 with the permissions, and whose g1 holds `n`. -/
def paged (perm n : Nat) : Seq := { g1 n with h := [(0, { v := true, perm := perm })] }

/-- O4: no handle; the last 64 bytes of the page and the first beyond it; a pool of 256 entries and one of 255. -/
theorem witness_LaunchReservesEntry : Free (on {}) ∧ State.handleOk (on {}) (Fm.get {} (mine (on {})).h 0) permRead = false ∧
    State.handleOk (on (paged 2 0)) (Fm.get {} (mine (on (paged 2 0))).h 0) permRead = false ∧
    State.handleOk (on (paged 1 0)) (Fm.get {} (mine (on (paged 1 0))).h 0) permRead = true ∧
    boundsOk (Fm.get {} (mine (on (paged 1 0))).h 0) 65472 64 64 = true ∧
    boundsOk (Fm.get {} (mine (on (paged 1 0))).h 0) 65536 64 64 = false ∧
    boundsOk (Fm.get {} (mine (on (paged 1 0))).h 0) 1 64 64 = false ∧
    256 ≤ (List.replicate 256 ({ part := 3 } : Launch)).countP (fun l => l.part == 3) ∧
    ¬ 256 ≤ (List.replicate 255 ({ part := 3 } : Launch)).countP (fun l => l.part == 3) := by decide +kernel

theorem witness_TrapPostsEvent : Free {} ∧ (mine {}).fatal = false ∧ ∀ x ∈ (mine {}).pend, x.code ≠ 0x15 := by decide

/-- O6: at U, out of a handler, with another loop depth than TPOS.LD, on the hub; and a handler's return. -/
theorem witness_EretReturns : Free {} ∧ (mine {}).pl ≠ 1 ∧ (mine (on { pl := 1 })).tact = false ∧ OnHub onHub ∧
    (let q := mine (on { pl := 1, tact := true, lstk := [lvl] }); q.lstk.length ≠ q.tpos.toNat / 65536) ∧
    (let s := on { pl := 1, tact := true, lstk := [lvl], tpos := 0x1FFFF }
     Free s ∧ ¬ OnHub s ∧ (mine s).pl = 1 ∧ (mine s).tact = true ∧ (mine s).lstk.length = (mine s).tpos.toNat / 65536) := by
  decide

/-- O7: a partition with debug disabled, and one with it enabled. -/
theorem witness_BkptFreezesPartition : Free {} ∧ (mine {}).task.part = 63 ∧
    (let s := on { task := { part := 3 } }
     Free s ∧ (mine s).task.part ≠ 63 ∧ ((s.part 3).get 3 1) % 2 = 0) ∧
    (let s : State := { on { task := { part := 3 } } with parts := [(3, { img := 0x1000000 })] }
     Free s ∧ (mine s).task.part ≠ 63 ∧ ((s.part 3).get 3 1) % 2 = 1) := by decide +kernel


/-! ## Statements on system registers and landings -/

theorem witness_SmodeSetsTrapMode : Free {} ∧ ({ arg := .land 0 [.smode true] } : State).arg = .land 0 [.smode true] := by decide

/-- O9: TSTAT at U; TVEC at S and, one level too low, at U; a number that is no register, the last below 0x100. -/
theorem witness_RdsrReadsOwnRegisters : Free {} ∧ (readFrom 0 = some 0 ∧ 0 ≤ level {}) ∧
    (readFrom 8 = some 1 ∧ 1 ≤ level (on { pl := 1 })) ∧ Free (on { pl := 1 }) ∧ (readFrom 8 = some 1 ∧ level {} < 1) ∧
    readFrom 0xFF = none := by decide

/-- O9: a hub register on a user sequencer and on the hub; a register of die 7, of no die; a number that is no register. -/
theorem witness_RdsrReadsConfiguration : Free {} ∧ ¬ OnHub {} ∧ Free onHub ∧ OnHub onHub ∧
    0x100 ≤ (0x100 : BitVec 14).toNat ∧ isHubReg 0x100 = true ∧ isDieReg 0x100 = false ∧ isDieReg 0x200 = true ∧
    8 ≤ Fm.get 8 onHub.dsel 8 ∧ Fm.get 8 ({ onHub with dsel := [(8, 7)] } : State).dsel 8 < 8 ∧
    isHubReg 0x3FFF = false ∧ isDieReg 0x3FFF = false := by decide

/-- O9: SCR0 at S; SCR0 at U; ERRS at U with a reserved bit and without. -/
theorem witness_WrsrWritesOwnRegisters : Free {} ∧ (writeFrom 0x11 = some (1, 0xFFFFFFFFFFFFFFFF) ∧ 1 ≤ level (on { pl := 1 })) ∧
    level {} < 1 ∧ (writeFrom 5 = some (0, 0xFFFFFFF3F) ∧ 0 ≤ level {}) ∧ (64 : W64) &&& ~~~0xFFFFFFF3F ≠ 0 ∧
    (32 : W64) &&& ~~~0xFFFFFFF3F = 0 ∧ writeFrom 0 = none := by decide

theorem witness_ClampcntWrites : Free (on { pl := 1 }) ∧ 1 ≤ level (on { pl := 1 }) ∧ level onHub = 2 ∧ Free onHub ∧
    ({ arg := .partN 3 0xFFFFFFFF } : State).arg = .partN 3 0xFFFFFFFF := by decide

/-- O10: a landing of each kind, m0 and SCR0 among them. -/
theorem witness_LandingsWriteRegisters : ([.g 63 5, .h 15 {}, .k 0 {}, .shape 0x4FCF, .fstat 31, .wrn 1, .smode true,
    .sysreg 0x11 7, .mask 0 1 1, .mask 7 1 1, .ring 3 1] : List Land).all (fun x => (landed {} 0 x).isSome) = true := by
  decide +kernel

/-- O10: v15 is the sequencer's own tile, v16 its partner's. -/
theorem witness_TileLandingsMerge : ({ arg := .land 0 [.tile 15 1 1] } : State).arg = .land 0 [.tile 15 1 1] ∧ 15 < 16 ∧
    ({ arg := .land 8191 [.tile 16 1 1] } : State).arg = .land 8191 [.tile 16 1 1] ∧ ¬ 16 < 16 ∧ 8191 < 8192 ∧ 31 < 32 := by
  simp


/-! ## Statements on tiles -/

/-- Whether a word of the list has a result in the machine at reset, and names tiles that a user sequencer can name there. -/
def tiled (f : State → Instr → Option TileWord) (l : List Instr) : Bool :=
  l.all (fun i => match f {} i with
    | some w => decide (Nameable {} w.names)
    | none => false)

/-- A machine whose core 0 is in SPLIT mode. -/
def split : State := { cores := [(0, { split := true })] }

/-- O11: the greatest shape, 64 rows of 64 bytes, and one of a column more. -/
theorem witness_ShapeSetsGeometry : ¬ OnHub {} ∧
    (let x : BitVec 18 := 0x10FFF
     ((x.toNat % 64 + 1) * (x.toNat / 64 % 256 + 1) * typeBits (x.toNat / 16384) + 7) / 8 = 4096) ∧
    (let x : BitVec 18 := 0x1103F
     ((x.toNat % 64 + 1) * (x.toNat / 64 % 256 + 1) * typeBits (x.toNat / 16384) + 7) / 8 = 4160) := by decide

theorem witness_ElementwiseWords : Free {} ∧ ¬ OnHub {} ∧ tiled elementWord [.vadd 0 1 31 0 3, .vsub 0 1 2 7 0, .vmul 2 0 1 0 0,
    .vfma 2 0 1 0 1, .vfms 2 0 1 0 2, .vmin 0 1 2 0 1, .vmax 0 1 2 0 0, .vabs 0 1 0 0, .vneg 31 0 0 0, .vclamp 0 1 2 0 0] = true := by
  decide +kernel

theorem witness_BitPlacingWords : Free {} ∧ ¬ OnHub {} ∧ tiled bitsWord [.vand 0 1 2 0 0, .vor 0 1 2 0 0, .vxor 0 1 2 0 1,
    .vnot 0 1 0 0, .vshl 0 1 2 0 0, .vshr 0 1 2 0 0, .vsar 0 1 2 0 0, .vsel 0 1 2 7 0, .vmov 0 1 0 0, .vfill 0 31 0 0,
    .vbrow 0 1 2 0 0, .vbcol 0 1 2 0 0, .vperm 0 1 2 1 0, .vrot 0 1 2 0 0, .vtrn 0 1 0 0, .vpte 0 1 2 0 0] = true := by
  decide +kernel

theorem witness_Reductions : Free {} ∧ ¬ OnHub {} ∧ tiled reductionWord [.vrsum 0 1 0 0, .vrmax 0 1 0 0, .vcsum 0 1 7 0,
    .vcmax 0 1 0 1, .vrdot 0 1 2 0 0] = true := by decide +kernel

theorem witness_ConvertingWords : Free {} ∧ ¬ OnHub {} ∧ tiled convertWord [.viota 0 12 3 0 0, .vcvt 0 1 12 0 0, .vqnt 0 1 0 4,
    .vrcpa 0 1 0, .vrsqa 0 1 0, .vexp2 0 1 0, .vlog2 0 1 0, .vtanh 0 1 0] = true := by decide +kernel

theorem witness_VectorCompares : Free {} ∧ ¬ OnHub {} ∧ ([.vcmpeq 0 1 2 0 0, .vcmplt 7 31 2 0 0, .vcmple 0 1 2 0 1] :
    List Instr).all (fun i => match compareWord i with
      | some (_, _, a, b, _, _) => decide (Nameable {} [a.toNat, b.toNat])
      | none => false) = true := by decide

theorem witness_MaskElementAndRingWords : Free {} ∧ ¬ OnHub {} ∧ Nameable {} [31] ∧ Free split ∧ ¬ OnHub split ∧
    Nameable split [15] ∧ ¬ Nameable split [16] := by decide

/-- O14: groups that end at tile 31. -/
theorem witness_ZipsAndUnzips : Free {} ∧ ¬ OnHub {} ∧ ([.vzip2 30 0 0 0, .vzip3 0 29 0 0, .vzip4 28 0 0 0, .vunz2 0 30 0 0,
    .vunz3 29 0 0 0, .vunz4 0 28 0 1] : List Instr).all (fun i => match zipWord {} i with
      | some (n, v, a, _, _, _) => decide (v.toNat + n ≤ 32 ∧ a.toNat + n ≤ 32 ∧ Nameable {} [v.toNat + n - 1, a.toNat + n - 1])
      | none => false) = true := by decide

/-- O11: a word of the hub, and a word of a SPLIT core that names v16. -/
theorem witness_VectorWordsFault : Free onHub ∧ OnHub onHub ∧ (tileWord onHub (.vmov 0 1 0 0)).isSome = true ∧ Free split ∧
    (match tileWord split (.vmov 0 16 0 0) with
      | some w => decide (¬ Nameable split w.names)
      | none => false) = true := by decide +kernel

/-- O15: a tile full of bytes, and one element of 64 bits. -/
theorem witness_TileElementsReadBack :
    ({ arg := .land 0 [tileLand 31 1 [5]] } : State).arg = .land 0 [tileLand 31 1 [5]] ∧ typeBits 1 * [5].length ≤ 32768 ∧ 31 < 32 ∧
    (∃ t, typeBits t * (List.replicate 4096 7).length = 32768) := by
  exact ⟨rfl, by decide, by decide, 6, by rw [List.length_replicate]; decide⟩


/-! ## Statements on memory -/

/-- The tile of a word fits. -/
def fits (s : State) (w : MemWord) : Bool := w.tile.all (fun n => decide (¬ OnHub s ∧ Nameable s [n]))
theorem fits_tileFits {s : State} {w : MemWord} (h : fits s w = true) : TileFits s w := by
  intro n hn
  rw [fits, hn] at h
  exact of_decide_eq_true h

/-- Each word of the list fits, with the fault `e` found by its checks. -/
def checkedAs (s : State) (f : State → Instr → Option MemWord) (e : Option Nat) (l : List Instr) : Bool :=
  l.all (fun i => match f s i with
    | some w => fits s w && w.err == e
    | none => false)

/-- A sequencer of partition 3 with a scratchpad and a page of 64 KiB with the permissions, whose g1 holds `n`. -/
def memory (perm n : Nat) : State :=
  { on { paged perm n with task := { part := 3 } } with
    parts := [(3, { img := BitVec.ofNat 8192 (2 ^ (8 * 0xF0)) })] }

theorem memory_free (perm n : Nat) : Free (memory perm n) ∧ ¬ OnHub (memory perm n) := by
  simp [memory, on, paged, g1, Free, OnHub, Fm.get]

/-- O16: within the page and the scratchpad, up to the last g register of the page; no permission; a byte too far. -/
theorem witness_LoadsGoToTheirHome :
    checkedAs (memory 1 0) loadWord none [.lds 0 1 2, .ldsg 63 1 2, .ldg 0 31 0 1 0, .ldg 1 0 0 1 2, .ldge 0 0 0 1 1,
      .ldgUnt 0 0 0 1 9, .ldgeUnt 0 0 0 1 0, .ldt 0 0 0 1 0, .ldte 0 0 0 1 0, .ldtUnt 0 0 0 1 1, .ldteUnt 0 0 0 1 1, .ldgs 0 31 0 1 0,
      .ldgsUnt 0 0 0 1 1, .kld 15 0 1 2] = true ∧
    checkedAs (memory 1 65528) loadWord none [.ldgs 0 0 0 1 0] = true ∧
    checkedAs (memory 1 65536) loadWord (some 3) [.ldgs 0 0 0 1 0, .ldg 0 0 0 1 0] = true ∧
    checkedAs (memory 2 0) loadWord (some 2) [.ldgs 0 0 0 1 0, .ldt 0 0 0 1 0, .kld 0 0 1 0] = true ∧
    checkedAs (memory 1 4194304) loadWord (some 3) [.lds 0 1 2, .ldsg 0 1 2] = true := by decide +kernel

/-- O16: the same for stores, and an STQ of a format code that is not assigned. -/
theorem witness_StoresGoToTheirHome : (memory 2 0).cur.fault = false ∧
    checkedAs (memory 2 0) storeWord none [.sts 0 1 2, .stsg 63 1 2, .stg 0 31 0 1 0, .stgUnt 0 0 0 1 9, .stgs 0 31 0 1 1, .stgsUnt 0 0 0 1 1,
      .kst 15 0 1 0, .stq 0 0 0 1 0, .stqUnt 0 0 0 1 1] = true ∧
    checkedAs (memory 2 65528) storeWord none [.stgs 0 0 0 1 0] = true ∧
    checkedAs (memory 2 65536) storeWord (some 3) [.stgs 0 0 0 1 0, .stq 0 0 0 1 0] = true ∧
    checkedAs (memory 1 0) storeWord (some 2) [.stgs 0 0 0 1 0, .kst 0 0 1 0] = true ∧
    checkedAs (memory 2 (5 * 2 ^ 52)) storeWord (some 1) [.stq 0 0 0 1 0] = true := by decide +kernel

theorem witness_StreamingStores : (memory 2 0).cur.fault = false ∧
    checkedAs (memory 2 0) (fun s i => (stntWord s i).map (·.1)) none [.stnt 0 0 0 1 2, .stntUnt 0 0 0 1 3] = true ∧
    checkedAs (memory 1 0) (fun s i => (stntWord s i).map (·.1)) (some 2) [.stnt 0 0 0 1 2, .stntUnt 0 0 0 1 3] = true := by decide +kernel

/-- O18: an address of the last byte below 2^56 on a full TLB entry, and the first beyond it. -/
theorem witness_HandleWords : Free {} ∧ 2 ^ 56 ≤ (greg (on (g1 (2 ^ 56))) 1).toNat ∧
    State.tlbHit {} 0 63 5 = none ∧
    (let s : State := { on (g1 (2 ^ 16 - 1)) with tlb := [(0, [{ part := 63, gen := 0, h := { v := true }, stamp := 1 }])] }
     Free s ∧ (greg s 1).toNat < 2 ^ 56 ∧ (s.tlbHit (dieOf s.cur.sid) (mine s).task.part (greg s 1).toNat).isSome = true) := by
  decide +kernel

theorem witness_WalkingTranslation : Free {} ∧ (mine {}).ut = false ∧ Free (on { ut := true }) ∧ (mine (on { ut := true })).ut = true := by
  decide

/-- A machine in which L2 block 0 of die 0, which maps address 0, is busy. -/
def outOfService : State := { doms := [(0, { v := true, l2c := 5, bsy := true })] }

/-- O18: nothing is mapped at reset; a page of 256 MiB whose entry is the second of the table at address 0, which is the root table too; and
a table in a domain out of service. -/
theorem witness_WalkCompletes : State.walk {} 63 0 = none ∧ State.walkHeld {} 63 0 = none ∧ State.walkHeld outOfService 63 0 = some (0, 0, 0) ∧
    (let s : State := { mem := Memory.write [] 0 16 0x3F0000000000000001 }
     s.walkHeld 63 (2 ^ 28) = none ∧ ((s.walk 63 (2 ^ 28)).map (fun w => bit w.1 2)) = some true) := by decide +kernel

theorem witness_DrainCollects : (Free {} ∧ ∀ r ∈ (mine {}).stnt, r.bound ≠ none) ∧
    (let s := on { stnt := [{ id := 1, bound := some 9 }] }
     Free s ∧ ∀ r ∈ (mine s).stnt, r.bound ≠ none) ∧
    (∀ o ∈ (Fm.get {} ({ arg := .access { sid := 3 } } : State).seqs 3).outst, o.id ≠ 0) ∧
    (let s : State := { on { outst := [{ id := 1 }] } with arg := .access { tags := some [1] } }
     ∃ o ∈ (Fm.get {} s.seqs 0).outst, ([1] : List Nat).contains o.id = true ∧ o.at_ = none) := by decide

/-- O19: no handle; an empty range; one that ends with the page and one a byte longer. -/
theorem witness_CacheRangeWords : current {} (handle {} 0) = false ∧
    (let s := memory 3 65536
     current s (handle s 0) = true ∧ min (greg s 2).toNat (pageSize (handle s 0).sz - (greg s 1).toNat) = 0 ∧
     0 < min (greg s 1).toNat (pageSize (handle s 0).sz - (greg s 2).toNat) ∧
     ((handle s 0).perm &&& 2) = 2 ∧ (greg s 2).toNat + (greg s 1).toNat ≤ pageSize (handle s 0).sz) ∧
    (let s := memory 3 65537
     current s (handle s 0) = true ∧ pageSize (handle s 0).sz < (greg s 2).toNat + (greg s 1).toNat) := by decide +kernel

theorem witness_CacheRangesComplete :
    (let a : Access := { len := 64 }
     ({ arg := .ranges a true 0 } : State).arg = .ranges a true 0 ∧ Present {} a.part a.gen ∧ 0 < a.len ∧ State.heldAt {} a.addr = none ∧
     State.heldAt outOfService a.addr = some (0, 0)) ∧ ¬ Present {} 3 1 := by decide +kernel

/-- A machine whose L2 block 0 has a retention register 0 granted to partition 3, and a word with a handle into it. -/
def retained (n : Nat) (ways : Nat) : State :=
  { memory 1 n with doms := [(0, { v := true, l2c := 4, part := 3, rtn := [(0, { gv := true, grant := 3 }), (1, { v := true, ways := ways })] })] }

/-- O19: one line of the page in one way; lines beyond the page; no way; 12 and 13 ways together with another register's. -/
theorem witness_RetentionWords :
    (let s := retained (2 ^ 22 + 2 ^ 44) 0xFFF
     let x := handle s 0
     let r := Fm.get {} (s.dom x.home 0).rtn 0
     Free s ∧ s.coveringBlock x.home x.base = some 0 ∧ current s x = true ∧ r.gv = true ∧ r.grant = (mine s).task.part ∧ x.tier = 0 ∧
     (x.perm &&& 1) = 1 ∧ 64 * (0 + 1) ≤ pageSize x.sz ∧ popcount (bits (greg s 1).toNat 44 16) 16 = 1 ∧
     popcount ((s.dom x.home 0).unionWith 0 { r with ways := 1, v := true }) 16 = 12) ∧
    (let s := retained (1025 * 2 ^ 22) 0
     pageSize (handle s 0).sz < 64 * (0 + bits (greg s 1).toNat 22 22) ∧ popcount (bits (greg s 1).toNat 44 16) 16 = 0) ∧
    (let s : State := { retained (2 ^ 22 + 2 ^ 44) 0x1FFE with seqs := (memory 2 (2 ^ 22 + 2 ^ 44)).seqs }
     let x := handle s 0
     current s x = true ∧ x.tier = 0 ∧ (x.perm &&& 1) ≠ 1 ∧ ((Fm.get {} (s.dom x.home 0).rtn 0) : Rtn).gv = true ∧
     popcount ((s.dom x.home 0).unionWith 0 { ways := 1, v := true }) 16 = 13) ∧
    (let s := memory 1 (2 ^ 22 + 2 ^ 44)
     let x := handle s 0
     current s x = true ∧ ((Fm.get {} (s.dom x.home 0).rtn 0) : Rtn).gv = false) ∧
    (let s : State := { retained 0 0 with seqs := [(0, { paged 1 0 with task := { part := 3 }, h := [(0, { v := true, perm := 1, tier := 1 })] })] }
     current s (handle s 0) = true ∧ (handle s 0).tier ≠ 0 ∧ s.coveringBlock (handle s 0).home (handle s 0).base = some 0) ∧
    current (memory 1 0) (handle (memory 1 0) 1) = false := by decide +kernel

theorem witness_RetentionComesIntoForce :
    popcount (((retained 0 0xFFF).dom 0 0).unionWith 0 { ways := 1, v := true }) 16 = 12 ∧
    popcount (((retained 0 0xFFF).dom 0 0).unionWith 0 { ways := 0x1000, v := true }) 16 = 13 ∧ 0 < 8 ∧ 15 < 16 ∧
    Present (retained 0 0xFFF) 3 0 ∧ ¬ Present (retained 0 0xFFF) 3 1 := by decide +kernel

/-- O17: an access that ends with its scratchpad. -/
theorem witness_ScratchpadStoreAtHome :
    (let a : Access := { op := .write, space := .spad 255, part := 63, addr := 4194296, len := 8, sid := 8191 }
     ({ arg := .access a } : State).arg = .access a ∧ a.op = .write ∧ a.space = .spad 255 ∧ (a.part = 63 ∨ a.gen = State.gen {} a.part) ∧
     a.addr + a.len ≤ 4194304 ∧ a.sid < 8192 ∧ a.dest = .none ∧ a.todo = none ∧ a.chunk = none) := by decide

theorem witness_ScratchpadLoadAtHome :
    (let a : Access := { op := .read, space := .spad 0, part := 63, len := 8, sid := 8191, promise := some 0, dest := .tile 3 }
     a.dest = .tile 3 ∧ a.todo = none ∧ a.got = [] ∧ a.chunk = none ∧ a.addr + a.len ≤ 4194304 ∧ a.op = .read ∧ a.space = .spad 0 ∧ a.part = 63 ∧ a.sid < 8192 ∧ a.promise = some 0 ∧ ({} : State).now ≤ 0 ∧
     State.spadBad { arg := .access a } 0 a.addr a.len = []) := by decide +kernel

/-- A line of the block at address 0. -/
def line0 : Line := { way := 0, pa := 0, data := 0, tag := 0x7F00, ctag := 0, dirty := false, bad := false, stamp := 0, key := 0 }
/-- A machine with an access of 8 bytes at address 0 at its home, whose L2 set holds the lines `l`. -/
def atHome (op : Op) (l : List Line) : State :=
  { l2 := [(0, l)], arg := .access { op := op, part := 63, len := 8, promise := some 30, dest := if op = .read then .g 63 else .none } }
/-- The access. -/
def homeAccess (s : State) : Access := match s.arg with
  | .access a => a
  | _ => {}

theorem atHome_block (op : Op) (l : List Line) (h : op = .read ∨ op = .write) (k : l = [] ∨ l = [line0]) :
    AtItsBlock (atHome op l) (homeAccess (atHome op l)) := by
  rcases h with rfl | rfl <;> rcases k with rfl | rfl
  all_goals exact {
    arg := rfl, phys := rfl, now := Or.inl rfl, sid := by decide +kernel, todo := rfl, got := rfl, chunk := rfl, rdc := rfl
    hbm := ⟨0, by decide +kernel⟩, some := by decide +kernel, one := by decide +kernel, whole := by decide +kernel, way := by decide +kernel
    served := by decide +kernel, room := by decide +kernel, key := by decide +kernel, plain := fun e he => by cases he }

/-- O15: a store and a load of the block at address 0, in its L2 set and not. -/
theorem witness_GlobalAccessAtHome :
    (homeAccess (atHome .write [])).op = .write ∧ (homeAccess (atHome .write [])).dest = .none ∧ (State.place (atHome .write []) 0).cached = true ∧
    (atHome .write []).lineOf (State.place (atHome .write []) 0) 0 = none ∧
    ((atHome .write [line0]).lineOf (State.place (atHome .write []) 0) 0).isSome = true ∧
    (Fm.get [] (atHome .write []).wbuf (sliceKey (State.place (atHome .write []) 0))).length < 32 ∧
    (homeAccess (atHome .read [])).op = .read ∧ (homeAccess (atHome .read [])).tier = 0 ∧ (homeAccess (atHome .read [])).dest = .g 63 ∧
    ((atHome .read []).peekBlock 0 0).bad = false ∧ ((atHome .read [line0]).peekBlock 0 0).bad = false ∧
    homeDie 0 = dieOf 0 := by decide +kernel

theorem witness_LoadDataIsDelivered : ({ part := 63, dest := .g 63 } : Access).seam = false ∧
    ({ part := 63, dest := .tile 31, len := 4096 } : Access).dest = .tile 31 ∧ 31 < 32 ∧ 4096 ≤ 4096 ∧
    State.comesBack {} { part := 63, dest := .g 63 } = true ∧ State.comesBack { parts := [(3, {})] } { part := 3, promise := some 9, len := 8 } = false := by
  decide +kernel

/-- O20: no entry of the access; an entry without data in either mode. -/
theorem witness_ArrivalViolations : (∀ o ∈ (Fm.get {} ({} : State).seqs 0).outst, o.id ≠ 7) ∧
    (∀ o ∈ ([{ id := 7, at_ := some 0 }] : List Outstanding), o.id = 7 → o.at_ = some 0) ∧ 0 ≤ ({} : State).now ∧
    (let q : Seq := { run := .run, outst := [{ id := 7 }] }
     (∃ o ∈ q.outst, o.id = 7 ∧ o.at_ = none) ∧ q.run = .run ∧ q.ut = false ∧ q.trapMode = false ∧ q.heldAt ≠ some 0) ∧
    (let q : Seq := { run := .run, outst := [{ id := 7 }], trapMode := true }
     (∃ o ∈ q.outst, o.id = 7 ∧ o.at_ = none) ∧ q.run = .run ∧ q.ut = false ∧ q.trapMode = true ∧ ∀ e ∈ q.pend, e.code ≠ 0x12) := by
  decide

theorem witness_StoredBlockReadsBack : regionOf 0 ≠ .nothing ∧ State.keyNum {} 0 ≠ 0 ∧ 2 ^ 512 - 1 < 2 ^ 512 ∧
    ∀ e ∈ ({} : State).syncs, e.1 / 4 ≠ 0 := by decide +kernel

/-- A function bound to partition 3, one that is not bound; the physical function before step 7 and after it. -/
theorem witness_HostAccessesArrive :
    ({ arg := .hostAccess true (some 5) {} } : State).arg = .hostAccess true (some 5) {} ∧ State.vfPart {} 5 = none ∧
    State.vfPart { parts := [(3, (({} : Part).put 2 1 1).put 0x200 16 (2 ^ 5))], bootStep := 7 } 5 = some 3 ∧ ({} : State).bootStep < 7 ∧
    7 ≤ ({ bootStep := 7 } : State).bootStep := by decide +kernel


/-! ## Statements on queues and nests -/

/-- A machine with core 0 as given, and its sequencer. -/
def core (q : Seq) (c : Core) : State := { on q with cores := [(0, c)] }

/-- Ports 15 of core 0, bound, with one credit. -/
def ports : Core := { oport := [(15, { bound := true, credits := 1 })], lport := [(15, { bound := true, credits := 1 })] }

/-- A port where nothing waits has room where it has a token, and is short where it has none. -/
theorem room_of {p : Port} (h : 0 < tokens p) (e : p.pend = []) : hasRoom p := ⟨h, fun w hw => by rw [e] at hw; cases hw⟩
theorem short_of {p : Port} (h : tokens p = 0) : isShort p := Or.inl h

/-- O22: the last credit of an operand and of a link port, through port 15 and from v31; a reservation that waits does not hold it up. -/
theorem witness_PushesSendEntries : (let s := core {} ports
    (Free s ∧ pushOf (.qpush 15 31 3) = some (0, 15, 31, 3) ∧ pushOf (.lksend 15 31 0) = some (1, 15, 31, 0) ∧ QueueFits s 15 ∧
    Nameable s [31] ∧ (outPort s 0 15).bound = true ∧ (outPort s 1 15).bound = true) ∧ hasRoom (outPort s 0 15) ∧ hasRoom (outPort s 1 15)) ∧
    hasRoom { credits := 1, pend := [.rsv 2 0 0] } :=
  ⟨⟨by decide, room_of (by decide) rfl, room_of (by decide) rfl⟩, by decide, fun w hw => ⟨2, 0, 0, List.mem_singleton.mp hw, by decide⟩⟩

theorem witness_PopsTakeEntries : (let s := core {} { oq := [(0, [⟨5, 0, 0⟩])], lq := [(15, [⟨5, 0, 0⟩])] }
    Free s ∧ popOf (.qpop 31 0 3) = some (0, 0, 31, 3) ∧ popOf (.lkrecv 31 15 0) = some (1, 15, 31, 0) ∧ QueueFits s 15 ∧
    Nameable s [31] ∧ inQueue s 0 0 = ⟨5, 0, 0⟩ :: [] ∧ inQueue s 1 15 = ⟨5, 0, 0⟩ :: [] ∧ (myCore s).pops = []) := by decide +kernel

/-- O20: no credit and no entry, in either mode; an entry that waits before. -/
theorem witness_QueueViolations : ([false, true] : List Bool).all (fun m =>
    let s := core { trapMode := m } { oport := [(0, { bound := true })], lport := [(0, { bound := true })] }
    decide (Free s ∧ QueueFits s 0 ∧ Nameable s [0] ∧ (outPort s 0 0).bound = true ∧ tokens (outPort s 0 0) = 0 ∧ (outPort s 1 0).bound = true ∧
      tokens (outPort s 1 0) = 0 ∧ inQueue s 0 0 = [] ∧ inQueue s 1 0 = [] ∧ (mine s).ut = false ∧ (mine s).trapMode = m ∧
      (mine s).heldAt ≠ some s.now ∧ s.cur.posted = false ∧ (mine s).fatal = false ∧ ∀ e ∈ (mine s).pend, e.code ≠ 0x12)) = true ∧
    isShort { credits := 1, pend := [.push 0 0 0 0] } :=
  ⟨by decide +kernel, Or.inr ⟨0, 0, 0, 0, List.mem_singleton.mpr rfl⟩⟩

/-- O22: a reservation of all 16 credits; its landing; a queue word of a SPLIT core's queue 7. -/
theorem witness_ReservationsAndDepth :
    (let s := core {} { oport := [(0, { bound := true, loopback := true, credits := 16 })] }
     Free s ∧ QueueFits s 0 ∧ (outPort s 0 0).bound = true ∧ (outPort s 0 0).loopback = true ∧ 16 ≤ (outPort s 0 0).credits ∧
     (Fm.get {} (Fm.get {} s.cores 0).oport 0 : Port).pend = []) ∧
    ({ arg := .land 0 [.qrsv 0 16] } : State).arg = .land 0 [.qrsv 0 16] ∧ QueueFits split 7 ∧ Free split := by decide

/-- O22: at U; at S an unbinding; a binding of a port of cluster 35 and of a link lane that the partition holds; cluster 36; a lane that it
does not hold. -/
theorem witness_BindingWords : Free {} ∧ QueueFits {} 15 ∧ (mine {}).pl = 0 ∧
    (let s : State := { core { g1 (2 ^ 19 + 35) with pl := 1, task := { part := 3 } } {} with
                        parts := [(3, { img := BitVec.ofNat 8192 (255 * 2 ^ (8 * (0x10 + 35))), cal := [{ kind := 3, die := 8, unit := 49, first := 0, cnt := 0, sb := false }] })] }
     let d := (greg s 1).toNat
     Free s ∧ (mine s).pl ≠ 0 ∧ (outPort s 0 15).held = 0 ∧ (greg s 0).toNat.testBit 19 = false ∧ d.testBit 19 = true ∧ bits d 0 6 ≤ 35 ∧
     s.targetGranted (mine s).task.part (bindCore (dieOf s.cur.sid) d) (bits d 8 4) = true ∧
     s.targetTaken (s.cur.sid % 4096) (physical s 15) (bindCore (dieOf s.cur.sid) d) (bits d 8 4) = false ∧ (outPort s 1 15).held = 0 ∧
     s.holdsLane (mine s).task.part 3 1 = true ∧ s.laneTaken (s.cur.sid % 4096) (physical s 15) 3 1 (bits d 12 4) = false ∧
     s.holdsLane (mine s).task.part 3 0 = false) ∧
    (2 ^ 19 + 36).testBit 19 = true ∧ 35 < bits (2 ^ 19 + 36) 0 6 := by decide +kernel

/-- O23: an entry of an older generation; an empty core; a way of a partition that holds no slot of it. -/
theorem witness_EntriesAndCreditsArrive : (3 ≠ 63 ∧ 1 ≠ State.gen {} 3) ∧ Present {} 3 0 ∧ State.entryCrosses {} 63 0 0 = true ∧
    State.entryCrosses { parts := [(3, {})] } 3 16 0 = false ∧ (∀ w ∈ (Fm.get {} ({} : State).cores 0 : Core).pops, w.kind ≠ 0 ∨ w.q ≠ 15) ∧
    (Fm.get {} (Fm.get {} ({} : State).cores 0 : Core).oport 15 : Port).pend = [] := by decide +kernel

/-- A machine whose link port 0 of core 0 has an entry that waits, in a partition that holds all slots of lane 1 of link 3. -/
def departing (up : Bool) : State :=
  { core { task := { part := 3 } } { lport := [(0, { bound := true, link := 3, lane := 1, wait := [LinkWait.mk 5 0 3 1 0 3 0 none] })] } with
    links := [(3, { en := true, up := up })], arg := .lane 0 0
    parts := [(3, { cal := [{ kind := 3, die := 8, unit := 49, first := 0, cnt := 31, sb := false }] })] }

/-- O23: without a grant; with it, over a link that serves its peer, and one that does not. -/
theorem witness_LinkEntriesDepart : State.slotHeld {} 63 0 0 = false ∧ ([false, true] : List Bool).all (fun b =>
    let s := departing b
    let p : Port := Fm.get {} (Fm.get {} s.cores 0 : Core).lport 0
    decide (p.wait = LinkWait.mk 5 0 3 1 0 3 0 none :: [] ∧ (Fm.get {} s.cores 0).firstOnLane 0 = true ∧ p.slotAfter ≤ s.now ∧
      s.slotHeld 3 3 1 = true ∧ (s.link 3).linked = b)) = true := by decide +kernel

/-- A core whose port 15 binds lane 1 of link 3, with `n` entries in its queue, and an entry of generation `g` for it. -/
def binding (n : Nat) : Core :=
  { lport := [(15, { bound := true, link := 3, lane := 1, kgen := some 1 })], lq := [(15, List.replicate n ⟨5, 0, 0⟩)] }
def linkEntry (g : Nat) : Packet := { op := 9, link := 3, lane := 1, queue := 15, gen := g }

theorem binding_only (n g : Nat) : OnlyBinder (core {} (binding n)) (linkEntry g) 0 := by
  refine ⟨List.mem_singleton.mpr rfl, ⟨_, List.mem_singleton.mpr rfl, rfl, rfl, rfl⟩, ?_⟩
  intro e he _
  exact List.mem_singleton.mp he

/-- O21, O23: no port that binds; a queue with 64 entries, and the generation before the one that is kept. -/
theorem witness_LinkEntriesDropped : (∀ e ∈ ({ arg := .packet {} } : State).cores, ∀ p ∈ e.2.lport, ¬ Binds {} p.2) ∧
    64 ≤ (Fm.get [] (binding 64).lq (linkEntry 2).queue).length ∧ (linkEntry 0).gen = (1 + 255) % 256 := by decide +kernel

/-- O23: a queue of 63 entries, whose port binds the link and lane. -/
theorem witness_LinkEntriesArrive : OnlyBinder (core {} (binding 63)) (linkEntry 2) 0 ∧
    (let c := binding 63
     let p : Port := Fm.get {} c.lport 15
     Fm.get {} (core {} c).cores 0 = c ∧ (p.bound = true ∧ p.link = 3 ∧ p.lane = 1) ∧ p.kgen = some 1 ∧ (linkEntry 2).gen ≠ (1 + 255) % 256 ∧
     (Fm.get [] c.lq 15).length < 64 ∧ c.pops = []) := ⟨binding_only 63 2, by decide +kernel⟩

/-- O24: each level field; the immediates; level 6 and field 5. -/
theorem witness_LevelsAreConfigured : ¬ OnHub {} ∧ ([.mcfg 5 1 0, .mcfg 0 1 1, .mcfg 0 1 2, .mcfg 0 1 3, .mcfg 0 1 4, .mcfgi 5 0 0xFFFFF,
    .mcfgi 0 1 1, .mcfgi 0 2 1, .mcfgi 0 3 1] : List Instr).all (fun i => (levelWord {} i).isSome) = true ∧
    6 ≤ (6 : BitVec 3).toNat ∧ 5 ≤ (5 : BitVec 3).toNat := by decide

theorem witness_SourcesAreConfigured : ¬ OnHub {} ∧ ([.msrc 0 0 1 0, .msrc 2 1 15 0, .msrc 4 2 0 255, .mfmt 7 15 1 15, .mfuse 15 1] :
    List Instr).all (fun i => (globalWord {} i).isSome) = true := by decide

theorem witness_DurationIsReported : Free {} ∧ ¬ OnHub {} := by decide

/-- A nest of one step over INT8 in quadrant 0, its A row and its destination tiles, B from queue 0, its results in the accumulators. -/
def nestTable : NestTable := { glob := 1 + 2 * 2 ^ 30 + 2 ^ 59 + 7 * 2 ^ 97 + 7 * 2 ^ 101 + 2 ^ 105 + 2 ^ 109 }

/-- O25: a table that is legal; the one of reset, which is not; one whose row lies beyond the last. -/
theorem witness_NestsStart :
    (let s := on { shadow := nestTable }
     Free s ∧ ¬ OnHub s ∧ s.nestIllegal 0 nestTable = false ∧ s.nestBounds 0 nestTable = false ∧ NoNest s) ∧
    State.nestIllegal {} 0 {} = true ∧
    (let t : NestTable := { nestTable with lvl := [(0, 2 + 256 * 2 ^ 56)] }
     State.nestIllegal {} 0 t = false ∧ State.nestBounds {} 0 t = true) := by decide +kernel

/-- O26: a block of one quadrant that ends with the scratchpad; one from queue 15. -/
theorem witness_WeightLoadsStart :
    (let s := memory 0 3932160
     Free s ∧ ¬ OnHub s ∧ NoNest s ∧ s.maskOk 0 1 = true ∧ fmtGroup 7 ≠ 0 ∧ spadChecked s ((greg s 1).toNat % 2 ^ 22) (bBytes 7 1) 64 = none) ∧
    (let s := core { shadow := { glob := 2 * 2 ^ 30 + 15 * 2 ^ 33 + 7 * 2 ^ 101 } } { oq := [(15, [⟨5, 0, 0⟩])] }
     let t := (mine s).shadow
     Free s ∧ ¬ OnHub s ∧ NoNest s ∧ bits t.glob.toNat 30 3 = 2 ∧ bits t.glob.toNat 101 4 = 7 ∧ QueueFits s (bits t.glob.toNat 33 4) ∧
     inQueue s 0 (bits t.glob.toNat 33 4) = ⟨5, 0, 0⟩ :: [] ∧ (myCore s).pops = []) := by decide +kernel

theorem witness_WeightLoadsComplete :
    (let b : BLoad := { sid := 0, part := 63, gen := 0, src := 1, addr := 0, mask := 15, fmt := 7, n := 2, j := 2, issue := 0 }
     ({ arg := .bload b } : State).arg = .bload b ∧ b.part = 63 ∧ b.n ≤ b.j) := by decide

/-- O26: the rows and columns to the last one, and a row more. -/
theorem witness_AccumulatorWords : (let s := on (g1 256)
    Free s ∧ ¬ OnHub s ∧ NoNest s ∧ Nameable s [31] ∧ (myCore s).badRows = [] ∧ (greg s 0).toNat + (greg s 1).toNat ≤ rowLimit s ∧
    rowLimit s < (greg s 1).toNat + (greg s 1).toNat) ∧
    (let s := on { g := [(1, 255), (2, 511)] }
     (greg s 1).toNat + rowCount s ≤ rowLimit s ∧ (greg s 2).toNat + columns s ≤ 512) := by decide +kernel

theorem witness_AccumulatorLandings : ({ arg := .land 4096 [.acc 255 1 1] } : State).arg = .land 4096 [.acc 255 1 1] := rfl

/-- A sequencer of partition 3, whose nest is to do an act in a freeze or not. -/
def nesting (a : NestAct) (stop : Nat) (freeze : Bool) : State :=
  { on { active := nestTable, task := { part := 3 }, nest := { live := true, stop := stop, todo := [(0, a)] } } with
    arg := .seq 0, parts := if freeze then [(3, { stood := some 0 })] else [] }

/-- Each act of a nest is due, in a freeze and out of one; a queue with an entry and one without; ports with room and without. -/
theorem witness_NestActsProceed : ([.pop 0 3, .need 15, .push true 0 15 0, .place false 0 64 1, .place true 4095 1 1, .reload 0 64] :
      List NestAct).all (fun a => [false, true].all (fun b =>
    let s := nesting a 0 b
    let n := (Fm.get {} s.seqs 0).nest
    decide (s.arg = .seq 0 ∧ n.live = true ∧ n.parked = false ∧ 0 + n.slip ≤ s.now ∧ n.todo = (0, a) :: [] ∧ s.frozen 0 = b))) = true ∧
    (Fm.get [] (Fm.get {} (core {} { oq := [(3, [⟨5, 0, 0⟩])] }).cores 0 : Core).oq 3) = ⟨5, 0, 0⟩ :: [] ∧
    (Fm.get {} (core {} {}).cores 0 : Core).pops = [] ∧ nestTable.fld 62 5 < 32 ∧ (NestAct.place true 4095 1 1).drains = true ∧
    hasRoom (Fm.get {} ports.oport 15) ∧ isShort (Fm.get {} (core {} {}).cores 0 |>.oport |> (Fm.get {} · 15)) ∧
    (Fm.get {} (core {} {}).cores 0 : Core).oq = [] ∧ (nestTable.fld 109 4).testBit 0 = true :=
  ⟨by decide +kernel, rfl, rfl, by decide, rfl, room_of (by decide) rfl, short_of rfl, rfl, by decide +kernel⟩

/-- A parity error in quadrant 3 of core 0. -/
theorem witness_ParityErrorsPoison : ({ arg := .half 0 3 } : State).arg = .half 0 3 := rfl

/-- O25: a nest that ends, in a freeze that stops it and otherwise; one that stops in each way. -/
theorem witness_NestsStopAndEnd : (nesting .finish 1 true).frozen 0 = true ∧ (nesting .finish 1 false).frozen 0 = false ∧
    (Fm.get {} (nesting .finish 1 true).seqs 0).nest.stop = 1 ∧ (Fm.get {} (nesting .finish 1 true).seqs 0).nest.todo = (0, .finish) :: [] ∧
    ([0, 1, 2, 3] : List Nat).all (fun k =>
    let n : Nest := { live := true, stop := k, todo := [(0, .bound)] }
    decide (n.live = true ∧ n.parked = false ∧ 0 + n.slip ≤ ({} : State).now ∧ n.todo = (0, .bound) :: [] ∧ n.stop = k)) = true ∧
    ({ live := true, todo := [(0, .finish)] } : Nest).todo = (0, .finish) :: [] := by decide +kernel

/-- O24: a step of quadrant 0 alone and of all four, from the scratchpad. -/
theorem witness_NestStepsAccumulate (m : Nat) (h : m = 1 ∨ m = 15) :
    let t : NestTable := { glob := BitVec.ofNat 128 (7 * 2 ^ 97 + 7 * 2 ^ 101 + 2 ^ 105 + m * 2 ^ 109) }
    let s : State := { on { active := t, nest := { live := true, todo := [(0, .row)] } } with arg := .seq 0 }
    let n := (Fm.get {} s.seqs 0).nest
    (s.arg = .seq 0 ∧ n.live = true ∧ n.parked = false ∧ 0 + n.slip ≤ s.now ∧ n.todo = (0, .row) :: [] ∧ t.fld 0 3 ≤ 1 ∧ t.fld 113 1 = 0 ∧
     t.fld 109 4 = m ∧ isMgmt 0 = false ∧ ∀ j ∈ nHalves m, ∀ k ∈ kHalves m, (Fm.get {} (Fm.get {} s.cores 0 : Core).quads (2 * k + j) : Quad).foreign (t.fld 101 4) = false) ∧
    ∀ e l, t.event e l = false := by
  rcases h with rfl | rfl
  all_goals
    refine ⟨by decide +kernel, ?_⟩
    intro e l
    simp [NestTable.event, NestTable.level, Fm.get, bits]

/-! ## Statements on synchronisation and other modules -/

/-- O27: each atomic; the last aligned offset of the page for both widths, an offset that is not aligned, one past the end, and no
permission. -/
theorem witness_AtomicsGoToTheirEngine : Free {} ∧ ([.aadd 1 0 2 0, .aand 1 0 2 1, .aor 1 0 2 0, .axor 1 0 2 0, .amin 1 0 2 0 0,
    .amin 1 0 2 1 1, .amax 1 0 2 1 0, .aswp 63 0 2 0, .acas 62 0 2 0] : List Instr).all (fun i => (atomicWord {} i).isSome) = true ∧
    (let s := memory 4 65528
     engineChecked s (handle s 0) (greg s 1).toNat 8 = none ∧ engineChecked s (handle s 0) 65532 4 = none ∧
     engineChecked s (handle s 0) 65532 8 = some 3 ∧ engineChecked s (handle s 0) 65536 4 = some 3) ∧
    (let s := memory 3 0
     engineChecked s (handle s 0) 0 8 = some 2) := by decide +kernel

/-- A word over one element of type `t` with the index tile all zeros, so that it names offset 0 of handle 0. -/
def indexed (perm t : Nat) : State := { memory perm 0 with seqs := [(0, { paged perm 0 with task := { part := 3 }, shape := BitVec.ofNat 18 (t * 16384) })] }

/-- O27: u32 with op 6 and f32 with op 0, where every element passes; no permission; f32 with op 1 and an op that is not assigned. -/
theorem witness_VectorAtomics : ([11, 14] : List Nat).all (fun t =>
    let s := indexed 4 t
    decide (Free s ∧ ¬ OnHub s ∧ Nameable s [0, 31] ∧ count s = 1 ∧ typ s = t ∧
      engineChecked s (vatomHandle s 31 0) (vatomIndex s 31 0 % 2 ^ 28) (width s / 8) = none)) = true ∧
    (let s := indexed 4 1
     typ s = 1 ∧ engineChecked s (vatomHandle s 31 0) (vatomIndex s 31 0 % 2 ^ 28) (width s / 8) = none) ∧
    (let s := indexed 1 11
     engineChecked s (vatomHandle s 31 0) (vatomIndex s 31 0 % 2 ^ 28) (width s / 8) = some 2) := by decide +kernel

/-- A word in untimed mode with a page for atomics, and an object that no region binds. -/
def acquiring (ut : Bool) : State := { memory 4 0 with seqs := [(0, { paged 4 0 with task := { part := 3 }, ut := ut })] }

/-- O28: the object at offset 0 in both modes; no permission; an object bound to a scope that shuts the issuer out. -/
theorem witness_AcquireRequests : ([false, true] : List Bool).all (fun b =>
    let s := acquiring b
    decide (Free s ∧ (mine s).ut = b ∧ engineChecked s (handle s 0) 0 16 = none ∧ s.outOfScope (s.syncAt 0 0) = false)) = true ∧
    (let s := memory 1 0
     engineChecked s (handle s 0) 0 16 = some 2) ∧
    (let s : State := { acquiring true with syncs := [(0, { scope := 0, anchor := 1, pages := [(0, 65536)] })] }
     Free s ∧ engineChecked s (handle s 0) 0 16 = none ∧ s.outOfScope (s.syncAt 0 0) = true) := by decide +kernel

/-- O28: no region; no permission at the object; a first page; a ninth. -/
theorem witness_BindingsOfRegions : current {} (handle {} 0) = false ∧
    (let s := memory 1 0
     current s (handle s 0) = true ∧ engineChecked s (handle s 0) 0 16 = some 2) ∧
    (let s := memory 4 0
     Free s ∧ current s (handle s 0) = true ∧ engineChecked s (handle s 0) 0 16 = none ∧
     (!(s.syncAt 0 0).pages.contains (0, 65536) && decide (8 ≤ (s.syncAt 0 0).pages.length)) = false) ∧
    (let s : State := { memory 4 0 with syncs := [(0, { scope := 4, pages := (List.range 8).map (fun i => (65536 * (i + 1), 65536)) })] }
     current s (handle s 0) = true ∧ engineChecked s (handle s 0) 0 16 = none ∧
     (!(s.syncAt 0 0).pages.contains (0, 65536) && decide (8 ≤ (s.syncAt 0 0).pages.length)) = true) := by decide +kernel

theorem witness_ReleasesAreSent : (let s := memory 4 0
    Free s ∧ engineChecked s (handle s 0) 0 16 = none) ∧
    (let s := memory 4 8
     engineChecked s (handle s 0) (greg s 1).toNat 16 = some 3) := by decide +kernel

/-- O29: an object with a bound page that a sequencer with nothing outstanding releases, one with an older store outstanding, and one in a
domain out of service. -/
theorem witness_ReleaseTakesEffect : outOfService.heldAt 0 = some (0, 0) ∧ Present outOfService 63 0 ∧ ([[], [{ id := 1, page := some (0, 65536), len := 64 }]] : List (List Outstanding)).all (fun l =>
    let o : SyncObj := { scope := 4, pages := [(0, 65536)], holders := [0], hold := 0xFFFF }
    let s : State := { on { outst := l } with syncs := [(0, o)], arg := .access { id := 2, part := 63 } }
    decide (s.syncAt 0 0 = o ∧ o.pages ≠ [] ∧ s.heldAt 0 = none ∧ (Fm.get {} s.seqs 0).releasable s.now 2 0 o.pages = l.isEmpty)) = true := by decide +kernel

/-- O28: a free object, one held exclusively, and one at the greatest shared hold. -/
theorem witness_GrantsAreAnswered : outOfService.heldAt 0 = some (0, 0) ∧ ([(0, false, true), (0xFFFF, false, false), (0xFFFD, true, true), (0xFFFE, true, false)] :
    List (Nat × Bool × Bool)).all (fun t =>
    let o : SyncObj := { scope := 4, pages := [(0, 65536)], hold := t.1, waiters := [{ op := .acq t.2.1 true, dest := .g 1, promise := some 9 }] }
    let s : State := { syncs := [(0, o)], arg := .access {} }
    decide (s.syncAt 0 0 = o ∧ s.heldAt 0 = none ∧ (if t.2.1 then decide (o.hold < 0xFFFE) else o.hold == 0) = t.2.2)) = true := by decide +kernel

/-- O29: a fence at once and one with an older store outstanding. -/
theorem witness_FenceHoldsColumns : Free {} ∧ ([[], [{ id := 1, page := some (0, 65536), len := 64 }]] : List (List Outstanding)).all (fun l =>
    let s : State := { on { outst := l, sfence := true } with arg := .access { id := 2, part := 63, cls := 4 } }
    decide (Present s 63 0 ∧ (Fm.get {} s.seqs 0).sfence = true ∧ (Fm.get {} s.seqs 0).fenced s.now 2 4 false = l.isEmpty)) = true := by decide +kernel

theorem witness_CapabilityRegisters : Free {} ∧ (63 : BitVec 6) = 63 ∧ (62 : BitVec 6) ≠ 63 := by decide

theorem witness_GateWords : Free {} ∧ (mine {}).ut = false ∧ (mine (on { ut := true })).ut = true := by decide

/-- A machine that is linked to module 1, and whose sequencer has a capability to 64 bytes there. -/
def remote (ut : Bool) : State :=
  { on { ut := ut, k := [(0, { tag := true, bits := BitVec.ofNat 128 (1 + 0xFF0 + 64 * 2 ^ 64) })] } with links := [(1, { peer := 1, en := true, up := true })] }

/-- The same of partition 3, whose window 0 leads to 64 bytes of module 1. -/
def windowed (ut : Bool) : State :=
  { remote ut with seqs := [(0, { ut := ut, task := { part := 3 } })], mem := Memory.write [] 0 16 (1 + 0x30 + 64 * 2 ^ 58) }

/-- O30: each remote word in both modes, with the capability and without it. -/
theorem witness_RemoteWordsSendPackets : ([false, true] : List Bool).all (fun b => decide (Free (remote b) ∧ (mine (remote b)).ut = b) &&
    ([.cld 1 0 2, .cst 1 0 2 0, .cst 1 0 2 1, .cldv 31 0 2, .cstv 0 0 2, .rcas2 57 0 2 2, .renq 63 0 2, .rchase 62 0 2] : List Instr).all (fun i =>
      (match remoteWord (remote b) i with
        | some w => w.ok && w.tile.all (fun n => decide (¬ OnHub (remote b) ∧ Nameable (remote b) [n]))
        | none => false) &&
      (match remoteWord {} i with
        | some w => !w.ok
        | none => false))) = true ∧
    ([.wld 1 0 2, .wst 1 0 2] : List Instr).all (fun i =>
      (match remoteWord (windowed true) i with
        | some w => w.ok && decide ((mine (windowed true)).ut = true ∧ Free (windowed true))
        | none => false) &&
      (match remoteWord {} i with
        | some w => !w.ok
        | none => false)) = true ∧
    63 < (58 : BitVec 6).toNat + 2 * ((2 : BitVec 2).toNat + 1) := by decide +kernel


/-! ## Statements on engine commands -/

/-- A sequencer of partition 3 with scratchpad and page, and 64 in g3. -/
def asyncs (q : Seq) : State :=
  { memory 7 0 with seqs := [(0, { q with task := { part := 3 }, g := [(1, 0), (3, 64)], h := [(0, { v := true, perm := 7 })] })] }

/-- O34: each word with checks that pass, into an empty queue; a group past g63; no handle; a full queue in STALL mode. -/
theorem witness_EntriesAreQueued : Free (asyncs {}) ∧ ([.cpy 15 0 60 0, .cpy 0 0 1 3, .cpyd 0 0 4 0, .ratt 0 1 1, .kapp 0 1, .krel 0 3, .merge 0 1,
    .coll 0 31 1, .tier 0 0 1, .pfs 0 0 1] : List Instr).all (fun i => match asyWord (asyncs {}) i with
      | some w => w.err == none && !(mine (asyncs {})).queueShut w.q && (mine (asyncs {})).cmds.isEmpty
      | none => false) = true ∧
    ([.cpy 0 0 61 0, .cpyd 0 0 59 0, .merge 0 61, .coll 0 0 63, .tier 0 0 63, .pfs 0 0 61] : List Instr).all (fun i =>
      match asyWord (asyncs {}) i with
      | some w => w.err == some 1
      | none => false) = true ∧
    ([.cpy 0 1 1 0, .cpyd 0 1 1 0, .tier 0 1 1, .pfs 0 1 1] : List Instr).all (fun i => match asyWord (asyncs {}) i with
      | some w => w.err == some 2
      | none => false) = true ∧
    State.entryHeld (asyncs {}) { sid := 0, part := 3 } = false ∧
    (let s := asyncs { cmds := List.replicate 32 { q := 15 } }
     Free s ∧ (mine s).queueShut 15 = true ∧ (mine s).ut = false ∧ (mine s).trapMode = false ∧ (mine s).heldAt ≠ some s.now) := by
  decide +kernel

theorem witness_FencesOfQueues : Free {} ∧ (∀ n, n < 16 → (mine {}).queueShut n = false) ∧ (1 : BitVec 16) ≠ 0 ∧ (mine {}).cmds = [] := by
  decide

theorem witness_EntriesLeaveTheirQueues : ([.cpydDone, .qfenceDone, .mergeDone, .rattRecordWrite, .attentionAccept, .collResultWrite] :
    List Instr).all doneRow = true ∧ ({ arg := .cmd 0 1 } : State).arg = .cmd 0 1 := by decide

/-- A machine in which the entry starts in the present cycle. -/
def starting (c : Cmd) : State := { on { cmds := [c] } with now := 1, arg := .cmd c.sid c.id }

/-- O35: a copy, a merge, a contribution and a prefetch. -/
theorem witness_EntriesStart : ([.cpy 0 0 1 0, .merge 0 1, .coll 0 0 1, .pfs 0 0 1] : List Instr).all (fun i =>
    let c : Cmd := { ins := i, id := 7, start := some 1 }
    let s := starting c
    decide (s.arg = .cmd c.sid c.id ∧ Starts s c ∧ c.det = false ∧ (Fm.get {} s.seqs c.sid).laneFree < s.now ∧
      (Fm.get {} s.seqs c.sid).mergeFree < s.now ∧ s.chunkWaits (fun x => x.sid == c.sid && !x.det) = false)) = true := by decide +kernel

/-- A copy of 64 bytes, its sides in the scratchpad as `m` says, and a machine in cycle `n` that has a step of it to do. -/
def copying (m : BitVec 2) : Cmd := { ins := .cpy 0 0 1 m, id := 7, start := some 1, gs := [64, 0, 64, 0], hs := [{ v := true, perm := 7 }, { v := true, perm := 7 }] }
def stepping (m : BitVec 2) (n : Nat) (a : Arg) : State := { on { cmds := [copying m] } with now := n, arg := a }

theorem reachable :
    (let c := copying 2
     let s := stepping 2 141 (.chunk c 0)
     Reachable s c (s.nowAt c.part (c.hs.getD 0 {})) (fromOff c 0)) ∧
    (let c := copying 1
     let s := stepping 1 20 (.chunkData c 0 5 [0x7F00] none true)
     Reachable s c (s.nowAt c.part (c.hs.getD 1 {})) (toOff c 0)) := by
  unfold Reachable
  decide +kernel

/-- O35: a chunk read from either side, one in the buffer, one written at either side; a copy of nothing, and one that ends now, and one that
has not. -/
theorem witness_CopiesProceed :
    (let c := copying 1
     let s := stepping 1 3 (.chunk c 0)
     c.det = false ∧ entryNo s c.sid c.id = some c ∧ c.start = some 1 ∧ s.entryHeld c = false ∧ s.pageHeld c = false ∧
     s.now = 1 + (firstBytes c - 10) + 256 * 0 ∧ c.copyM % 2 = 1 ∧ s.spadBad (spadOf c.sid) (fromOff c 0) (chunkBytes c 0) = []) ∧
    (let c := copying 2
     let s := stepping 2 141 (.chunk c 0)
     entryNo s c.sid c.id = some c ∧ s.entryHeld c = false ∧ s.pageHeld c = false ∧ s.now = 1 + (firstBytes c - 10) + 256 * 0 ∧
     c.copyM % 2 = 0 ∧ copyBytes c = 64 ∧ (s.peekBlock 0 0).bad = false) ∧
    (let c := copying 1
     let s := stepping 1 20 (.chunkData c 0 5 [0x7F00] none false)
     s.stale c = false ∧ (entryNo s c.sid c.id).isSome = true ∧ s.entryHeld c = false) ∧
    (let c := copying 2
     State.stale (stepping 2 20 (.chunkData c 0 5 [0x7F00] none true)) c = false ∧ c.copyM / 2 % 2 = 1 ∧ toOff c 0 % 64 = 0 ∧ copyBytes c % 64 = 0 ∧
     toOff c 0 + chunkBytes c 0 ≤ 4194304) ∧
    (copying 1).copyM / 2 % 2 = 0 ∧ (5 : Nat) < 2 ^ 512 ∧
    (let c := copying 3
     let d := c.start.getD 0 + firstBytes c + cdiv (copyBytes c) 256 + lastBytes c
     let s := stepping 3 d (.cmd 0 7)
     entryNo s c.sid c.id = some c ∧ c.paused = false ∧ copyBytes c ≠ 0 ∧ (stepping 3 2 (.cmd 0 7)).now < d ∧ d ≤ s.now ∧
     s.chunkWaits (fun x => x.id == c.id) = false ∧
     s.chunkHeld (c.copyM / 2 % 2 == 1) (s.nowAt c.part (c.hs.getD 1 {})) (toOff c (cdiv (copyBytes c) 65536 - 1)) = none) ∧
    copyBytes { copying 3 with gs := [0, 0, 0, 0] } = 0 := by
  decide +kernel

theorem witness_ResultsAreWritten : (let c : Cmd := { gs := [0, 4194240] }
    State.stale {} c = false ∧ c.gs.getD 1 0 + ([] ++ toBytes 5 8 ++ [0] ++ List.replicate 55 0).length ≤ 4194304) := by decide +kernel


/-! ## Statements on attention, reductions and page moves -/

theorem witness_MergesReadAndWrite : (let s : State := { on { cmds := [{ id := 7 }] } with arg := .merge 0 7 9 }
    s.arg = .merge 0 7 9 ∧ s.sbad = [] ∧ entryNo s 0 7 = some { id := 7 }) ∧
    (State.stale {} {} = false ∧ (List.replicate 48 1).length / (4 * (8 * (bits ((({} : Cmd).gs.getD 3 0)) 8 5 + 1)) + 16) ≤ 64) := by decide +kernel

/-- O37: an older generation; the next command, and the last of the window. -/
theorem witness_CommandsJoinTheirWindow : State.stale {} { part := 3, gen := 1 } = true ∧ State.stale {} { part := 3 } = false ∧
    ahead (context {} 0 0) 0 = 0 ∧ ahead (context {} 0 0) 31 < 32 ∧ ¬ ahead (context {} 0 0) 32 < 32 ∧ (context {} 0 0).window = [] := by
  decide +kernel

/-- O37: a turn and none, for each of the three rows. -/
theorem witness_CommandsTakeTheirTurn : turnRow { untimed := false } .rattAdmission ∧ turnRow {} .kappExecute ∧ turnRow {} .krelExecute ∧
    State.onTurn {} {} = false ∧
    (let s : State := { ctxs := [(0, { window := [{}] })], arg := .att {} }
     s.onTurn {} = true ∧ ∀ r ∈ (context s 0 0).reading, r.2 ≤ s.now) :=
  ⟨rfl, trivial, trivial, by decide +kernel⟩

/-- A command whose turn it is, at a machine that holds the list `l` and the pool and the credit given. -/
def inTurn (l : PList) (pages credit : Nat) : State :=
  { ctxs := [(0, { window := [{}], credit := credit })], plists := [(0, l)], kvPool := [(0, pages)], arg := .att {} }

/-- O36: a list that is free, with a page for its keys; one of another context; one that would grow too long. -/
theorem witness_KeysAreAppended : State.onTurn (inTurn {} 1 0) {} = true ∧ ({} : PList).fixed = false ∧
    (pageList (inTurn {} 1 0) 0 0).len + ({} : AttCmd).keys ≤ 65536 ∧ (0, 1) ∈ (inTurn {} 1 0).kvPool ∧
    cdiv (({} : PList).len + ({} : AttCmd).keys) 64 - cdiv ({} : PList).len 64 ≤ 1 ∧
    (pageList (inTurn { fixed := true, owner := 1 } 1 0) 0 0).owner ≠ ({} : AttCmd).ctx ∧
    65536 < (pageList (inTurn { len := 65537 } 1 0) 0 0).len + ({} : AttCmd).keys := by decide +kernel

/-- O36: a list of the context, one of another and one that is free, with nothing that reads. -/
theorem witness_ListsAreReleased : (context (inTurn {} 0 0) 0 0).reading = [] ∧ ([{ fixed := true }, { fixed := true, owner := 1 }, {}] : List PList).all (fun l =>
    (inTurn l 0 0).onTurn {} && pageList (inTurn l 0 0) 0 0 == l) = true := by decide +kernel

/-- O36: with the credit of the work, and without; a broken context; engines that are all taken. -/
theorem witness_AttentionIsComputed : State.onTurn (inTurn {} 0 64) {} = true ∧ ({} : AttCmd).untimed = false ∧
    64 + 3 * cdiv (({} : AttCmd).rows * ({} : AttCmd).keys) 16 ≤ 67 ∧ (context (inTurn {} 0 67) 0 0).credit = 67 ∧
    (context (inTurn {} 0 67) 0 0).broken = false ∧ (context (inTurn {} 0 67) 0 0).exp = false ∧ (pageList (inTurn {} 0 67) 0 0).cold = [] ∧
    (Fm.get {} (inTurn {} 0 67).engines 0 : AttEngine).free ≤ (inTurn {} 0 67).now ∧ (context (inTurn {} 0 0) 0 0).credit < 64 ∧
    (pageList (inTurn { fixed := true, owner := 1 } 0 64) 0 0).owner ≠ ({} : AttCmd).ctx ∧
    (let s : State := { inTurn {} 0 64 with engines := (List.range 16).map (fun e => (e, { free := 9, hold := 9 })) }
     ∀ e, e < 16 → s.now < (Fm.get {} s.engines (16 * 0 + e) : AttEngine).free ∧ s.now < (Fm.get {} s.engines (16 * 0 + e) : AttEngine).hold) := by
  decide +kernel

theorem witness_CommandsAreAnswered : State.stale {} { part := 3, gen := 1 } = true ∧ State.stale {} {} = false ∧
    ({ arg := .records {} 3 [] } : State).arg = .records {} 3 [] ∧ 3 ≠ 0 ∧
    ([] : List Nat).length / (4 * ({} : AttCmd).hw + 16) ≤ 256 := by decide +kernel

theorem witness_ContextsAreControlled : ({ arg := .att {} } : State).arg = .att {} ∧ State.stale {} ({} : AttCmd).cmd = false := by decide +kernel

theorem witness_CreditsRefill : ({ arg := .id 9 } : State).arg = .id 9 := by decide

/-- O38: a group that does not exist, and one that admits the contribution. -/
theorem witness_ContributionsArrive : State.stale {} {} = false ∧ (group {} 0).v = false ∧
    (let s : State := { colls := [(0, { v := true, owner := 63, ncont := 1 })], arg := .coll 0 {} }
     (group s 0).v = true ∧ (group s 0).owner = ({} : Cmd).part ∧ (group s 0).open_.length < (group s 0).ncont) ∧
    (let s : State := { colls := [(0, { v := true, owner := 63, ncont := 1, open_ := [({}, 0)] })], arg := .coll 0 {} }
     (group s 0).v = true ∧ (group s 0).owner = ({} : Cmd).part ∧ ¬ (group s 0).open_.length < (group s 0).ncont) := by decide +kernel

theorem witness_RoundsComplete : (let s : State := { colls := [(0, { v := true, ncont := 1, open_ := [({}, 0)] })], arg := .id 0 }
    (group s 0).sys = false ∧ 0 < (group s 0).ncont ∧ (group s 0).ncont ≤ ((group s 0).open_.map (·.1)).length) := by decide

/-- O39: a deadline at the yield bound and one before it. -/
theorem witness_PrefetchesAreTaken : ([0, 1] : List Nat).all (fun y =>
    let c : Cmd := { id := 7, gs := [0, 64, 0, 0], yb := y }
    let s : State := { on { cmds := [c] } with arg := .cmd 0 7 }
    decide (entryNo s 0 7 = some c ∧ (c.gs.getD 3 0 < c.pt + c.yb ↔ y = 1) ∧ (c.pt + c.yb ≤ c.gs.getD 3 0 ↔ y = 0))) = true := by
  decide +kernel

/-- A table at address 0 that is its own root: the page of 256 MiB at 2^28 lies at address 0. -/
def mapped : State := { mem := Memory.write [] 0 16 0x3F0000000000000001 }

/-- O39: a move of that page to tier 0 of die 1, with a free value that says there is room. -/
theorem witness_MovesBeginWithRevocation :
    (let m : Move := { va := 2 ^ 28, tier := 0, home := 1, ord := 5 }
     let s : State := { mapped with arg := .die 0, choices := [1], tiers := [(0, { pend := [m] })] }
     (tierOf s 0).pick = some m ∧ m.part = 63 ∧ (s.walk m.part m.va).isSome = true ∧ serveDie (s.handleOf m.part m.va 0x3F 2) m.cmd.sid = 0 ∧ m.pfs = false ∧ s.targetOk m.tier m.home = true ∧
     s.drawVal % 2 = 1 ∧ s.freePlace m.part m.tier m.home (targetBase m.tier m.home + s.drawVal / 2 * pageSize 2) (pageSize 2) = true ∧
     s.pageBound (s.handleOf m.part m.va 0x3F 2).base (pageSize 2) = false) := by decide +kernel

theorem witness_RevocationMarksHandles : ({ arg := .page 3 0 65536 } : State).arg = .page 3 0 65536 := by decide

theorem witness_RevocationsComplete :
    (let r : Revoke := { part := 63, vbase := 0, size := 65536, at_ := 0, waiting := [], pending := true, move := none, die := 0, leaf := 3 }
     let s : State := { revokes := [r], arg := .page 63 0 65536 }
     s.revokes = r :: [] ∧ r.waiting = [] ∧ r.move = none ∧ (s.walk r.part r.vbase).map (·.1) ≠ some r.leaf) ∧
    ({ part := 63, vbase := 0, size := 65536, at_ := 0, waiting := [3], pending := true, move := none, die := 0 } : Revoke).waiting ≠ [] := by
  decide +kernel

theorem witness_MovesComplete :
    (let m : Move := { va := 2 ^ 28, ord := 5, size := 64, dst := 2 ^ 39 }
     let s : State := { mapped with arg := .move 0 5, tiers := [(0, { act := [m] })] }
     (tierOf s 0).act.find? (fun m => m.ord == 5) = some m ∧ m.part = 63 ∧ s.walk m.part m.va = some (0x3F, 2, 8) ∧
     s.heldAt (s.handleOf m.part m.va 0x3F 2).base = none ∧ s.heldAt m.dst = none ∧ regionOf (s.handleOf m.part m.va 0x3F 2).base = .hbm 0 ∧ regionOf m.dst = .hbm 1 ∧
     (s.readPage (s.handleOf m.part m.va 0x3F 2).base m.size (s.handleOf m.part m.va 0x3F 2).key).isSome = true) := by decide +kernel


/-! ## Statements on gates -/

/-- A machine whose gate 0 belongs to partition 3 and lets partition 4 pass only. -/
def gated (g : Gate) : State := { gates := [(0, { g with owner := 3, acl := [4 + 64 + 512] })] }

/-- O31, O32: a request of a dead generation; no gate; no right; a revoked gate; the owner's and the holder's requests. -/
theorem witness_PassesAreAdmitted : ¬ Lives {} { sid := 0, part := 3, gen := 1, gate := 0 } ∧
    (let r : GateReq := { sid := 0, part := 3, gen := 0, gate := 0 }
     Lives {} r ∧ gateFails {} r 6 = 1 ∧ gateFails (gated { st := 1 }) { r with gate := 4096 } 6 = 1 ∧
     gateFails (gated { st := 1 }) { r with part := 4 } 7 = 2 ∧ gateFails (gated { st := 3 }) r 6 = 3 ∧ gateFails (gated { st := 3 }) r 8 = 0 ∧
     gateFails (gated { st := 1 }) r 6 = 0 ∧ gateFails (gated { st := 1 }) { r with part := 4 } 6 = 0 ∧ (gateNo (gated { st := 1 }) 0).unl = false ∧
     (gateNo (gated { st := 1 }) 0).level = 0 ∧ (gateNo (gated { st := 1, level := 1 }) 0).level ≠ 0) := by decide +kernel

/-- O31: a version that was discarded; the second of two; the first, with an older store to the region outstanding and without. -/
theorem witness_VersionsTakeEffect :
    (let x : Pass := { ver := 1, req := { sid := 0, part := 3, gen := 0, gate := 0, id := 5 } }
     let g := gateNo (gated { passes := [x, { x with ver := 2 }], size := 1 }) 0
     g.passes = x :: [{ x with ver := 2 }] ∧ (∀ y ∈ g.passes, y.ver ≠ 3) ∧ x.ver ≠ 2 ∧ (∃ y ∈ [{ x with ver := 2 }], y.ver = 2) ∧ x.ver = 1 ∧
     ([[], [{ id := 1, page := some (0, 65536), addr := 65472, len := 64 }], [{ id := 1, kind := 6 }]] : List (List Outstanding)).all (fun l =>
       (l.any (fun o => decide (o.id < x.req.id) && !o.done 0 && (o.kind == 6 || ((o.kind == 0 || o.kind == 2) && o.page.isSome &&
         decide (o.addr < g.base + 65536 * g.size) && decide (g.base < o.addr + o.len))))) == !l.isEmpty) = true) := by decide +kernel

/-- O32: partition time 0, and 1 of a period of 2 cycles. -/
theorem witness_BucketsRefill : ([0, 1] : List Nat).all (fun k =>
    let s : State := { gated { st := 1, n := 1 } with beacon := [(8, k)], arg := .gate 0 }
    decide ((gateNo s 0).st = 1 ∧ (Fm.get {} s.parts (gateNo s 0).owner : Part).stood = none ∧ s.ptime (gateNo s 0).owner % 2 ^ (gateNo s 0).n = k)) =
    true := by decide +kernel

theorem witness_TakersAndStatus : (let r : GateReq := { sid := 0, part := 3, gen := 0, gate := 0, gv := 4 }
    Lives {} r ∧ gateFails {} r 7 = 1 ∧ gateFails {} r 8 = 1 ∧ gateFails (gated { st := 1 }) r 7 = 0 ∧ r.gv < (gateNo (gated { ver := 5 }) 0).ver ∧
    (gateNo (gated { ver := 4 }) 0).ver ≤ r.gv ∧ gateFails (gated { st := 2 }) r 8 = 0) := by decide +kernel

/-- O33: no gate; a gate of each state; staged words that a create takes. -/
theorem witness_GateOperations : (gateNo {} 0).st = 0 ∧ ([1, 2, 3] : List Nat).all (fun k => (gateNo (gated { st := k }) 0).st == k) = true ∧
    (loaded {} (staged {})).burst = 0 ∧ (loaded {} (staged {})).unl = false ∧
    (let s : State := { hub := { stage := [(0, BitVec.ofNat 64 (2 ^ 32)), (4, 1)] }, gates := [(1, { st := 1, base := 65536, size := 1 })] }
     (loaded {} (staged s)).burst ≠ 0 ∧ s.parts = [] ∧ s.gates.any (fun e => e.1 != 0 && e.2.st != 0 &&
       decide ((loaded {} (staged s)).base < e.2.base + 65536 * e.2.size) && decide (e.2.base < (loaded {} (staged s)).base + 65536 * (loaded {} (staged s)).size)) =
       false) ∧
    (let busy (s : State) (e : Nat) : Bool := bit e 9 && (s.hasTasks (bits e 0 6) ||
       ((Fm.get {} s.parts (bits e 0 6) : Part).stood.isNone && (Fm.get {} s.parts (bits e 0 6) : Part).get 2 1 != 0))
     (gateNo (gated { st := 2 }) 0).acl.any (busy (gated { st := 2 })) = false ∧
     (let s : State := { gated { st := 2 } with seqs := [(0, { run := .run, task := { part := 4 } })] }
      (gateNo s 0).acl.any (busy s) = true) ∧
     (let s : State := { gated { st := 2 } with parts := [(4, ({} : Part).put 2 1 1)] }
      (gateNo s 0).acl.any (busy s) = true)) := by decide +kernel


/-! ## Statements on the fabric -/

/-- A machine with an export of 256 bytes to partition 3, all operations, and window key 9; key id 0 of the partition is granted, and memory
holds `x` from address 0 on. -/
def exporting (x : Nat) : State :=
  { exports := [(0, { v := true, part := 3, perm := 7, limit := 256, wkey := 9 })], mem := Memory.write [] 0 64 x,
    parts := [(3, ({} : Part).put 0x190 2 0x8000)] }
/-- A packet of partition 3 to that export. -/
def asking (op : Nat) (off len : Nat) (ops : List Nat) : Packet := { op := op, part := 3, off := off, len := len, ops := ops }

/-- What a packet meets that neither waits, nor is cut off, nor was there before. -/
def heard (s : State) (p : Packet) : Bool :=
  decide (s.packetHeld p = none ∧ s.packetFenced p = false ∧ p.begun = false ∧ s.repeated p = false) && s.acceptLine (target s p) != none
/-- O40: a domain out of service; a fenced die; an operation that was there before; a slice that has taken its four; a wrong window key;
another partition; past the limit. -/
theorem witness_PeersAreTurnedAway :
    ({ exporting 0 with doms := outOfService.doms } : State).packetHeld (asking 0 0 8 []) = some (0, 0, 0) ∧
    State.packetFenced { exporting 0 with fenced := [(0, 1)] } (asking 0 0 8 []) = true ∧
    (let s : State := { exporting 0 with fenced := [(0, 1)] }
     s.packetHeld (asking 0 0 8 []) = none) ∧
    State.repeated { rpaths := [(plainKey {}, { seen := [0] })] } (asking 2 0 1 [0, 0]) = true ∧
    (let s : State := { exporting 0 with accepted := [(sliceKey (State.place {} 0), (0, 4))] }
     s.acceptLine (target s (asking 2 0 1 [0, 0])) = none) ∧
    exportSays (exporting 0) { asking 0 0 8 [] with window := some 8 } 0 = 2 ∧ exportSays (exporting 0) { asking 0 0 8 [] with part := 4 } 0 = 1 ∧
    exportSays (exporting 0) { asking 0 0 8 [] with window := some 9 } 0 = 0 ∧ exportSays (exporting 0) (asking 0 249 8 []) 0 = 0 ∧
    Beyond (exporting 0) (asking 0 249 8 []) ∧ Beyond (exporting 0) { asking 4 225 32 [5] with begun := true } := by decide +kernel

/-- O40: a load of one block that ends with the region, and of two; an RCAS2 that writes and one that does not; an RENQ with its node outside,
on another die, with an empty queue and behind a tail; an RCHASE that matches, ends, and goes on, and one after its last node. -/
theorem witness_PeersAreAnswered :
    (let s := exporting 5
     ([(0, 248, 8, []), (0, 32, 64, []), (2, 0, 1, [5, 6]), (2, 0, 1, [4, 6]), (3, 0, 16, [64]), (3, 0, 16, [256]), (4, 0, 32, [0]), (4, 0, 32, [7])] :
       List (Nat × Nat × Nat × List Nat)).all (fun t =>
       let p := asking t.1 t.2.1 t.2.2.1 t.2.2.2
       heard s p && decide (exportSays s p (if p.op = 2 ∨ p.op = 3 then 2 else 0) = 0 ∧ ¬ Beyond s p ∧ (p.op = 2 → target s p % 64 + 8 * p.len ≤ 64))) = true ∧
     (s.peekBlock (248 / 64 * 64) (targetKey s (asking 0 248 8 []))).bad = false ∧ 248 % 64 + 8 ≤ 64 ∧ 64 < 32 % 64 + 64 ∧
     s.word64 (Fm.get {} s.exports 0) 0 = 5 ∧ s.word64 (Fm.get {} s.exports 0) 8 = 0 ∧ Storable s 0 (targetKey s (asking 2 0 1 [5, 6])) ∧
     ¬ 0 + 0 + 256 + 8 ≤ (Fm.get {} s.exports 0 : Export).limit ∧ 0 + 0 + 64 + 8 ≤ (Fm.get {} s.exports 0 : Export).limit ∧ homeDie 0 = homeDie 64 ∧
     homeDie 0 ≠ homeDie (2 ^ 39) ∧ (([0, 64] : List Nat).map fun x => (s.place x).loc / 64).Nodup ∧
     ([0, 64] : List Nat).all (fun x => x % 8 == 0 && decide (Storable s x (s.pageKey 3 x))) = true) ∧
    (let s := exporting (2 ^ 64 * 128)
     let l := [0, 64, 128]
     heard s (asking 3 0 16 [64]) = true ∧ s.word64 (Fm.get {} s.exports 0) 8 = 128 ∧ 0 + 0 + 128 + 8 ≤ (Fm.get {} s.exports 0 : Export).limit ∧
     (l.map fun x => (s.place x).loc / 64).Nodup ∧ (l.map fun x => x / 64).Nodup ∧
     l.all (fun x => x % 8 == 0 && decide (Storable s x (s.pageKey 3 x))) = true) ∧
    (exporting 0).word64 (Fm.get {} (exporting 0).exports 0) 0 = 0 ∧
    State.packetFenced (exporting 0) { asking 4 0 32 [7] with begun := true, left := 0 } = false := by decide +kernel

/-- A packet that stores 8 bytes, and a release flag after one store, at machines whose path is as given. -/
def storing : Packet := { asking 1 0 8 [] with pseq := 4 }
def flag : Packet := { asking 5 0 8 [] with pseq := 5, count := 1 }
def along (r : RPath) : State := { exporting 0 with rpaths := [(0, r)] }

/-- O40: a store that was seen; a new one that is taken, one that is cut off, one out of service; a release flag with too few stores before it,
and with enough, whose domain is in service and not. -/
theorem witness_PeersStoreOnce :
    storing.begun = false ∧ flag.begun = false ∧ storing.todo = [] ∧ 4 ∈ (pathOf (along { seen := [4] }) storing).seen ∧ 4 ∉ (pathOf (along {}) storing).seen ∧
    5 ∉ (pathOf (along {}) flag).seen ∧
    (let s := along {}
     s.packetHeld storing = none ∧ s.packetFenced storing = false ∧ exportSays s storing 1 = 0 ∧ ¬ Beyond s storing ∧ target s storing % 64 + 8 ≤ 64 ∧
     s.acceptLine (target s storing) ≠ none ∧ Storable s 0 (targetKey s storing)) ∧
    State.packetHeld { along {} with doms := outOfService.doms } storing = some (0, 0, 0) ∧
    State.packetFenced { along {} with fenced := [(0, 1)] } storing = true ∧ exportSays (along {}) { storing with part := 4 } 1 = 1 ∧
    flag ∉ (pathOf (along {}) flag).flags ∧
    (let r := pathOf (along { flags := [flag] }) flag
     flag ∈ r.flags ∧ r.vis.countP flag.counts < flag.count) ∧
    (let s := along { flags := [flag], vis := [4] }
     let r := pathOf s flag
     flag ∈ r.flags ∧ flag.count ≤ r.vis.countP flag.counts ∧ s.packetHeld flag = none ∧ s.packetFenced flag = false ∧ exportSays s flag 1 = 0 ∧
     ¬ Beyond s flag ∧ s.acceptLine (target s flag) ≠ none ∧ Storable s 0 (targetKey s flag)) ∧
    State.packetHeld { along { flags := [flag], vis := [4] } with doms := outOfService.doms } flag = some (0, 0, 0) := by decide +kernel

/-- O40: an answer that nobody awaits; an awaited one of a store, a load and each operation; a task that is there and one that is not; requests
that are late: a store before its home cycle, data on its way, and one that another module has. -/
theorem witness_RequestsComplete :
    (let b : Access := { op := .write, id := 7, addr := 64, len := 64 }
     let s : State := { agenda := [event 9 4 0 .accessHomeCycle (.access b)] }
     s.awaiting = [] ∧ s.agenda = event 9 4 0 .accessHomeCycle (.access b) :: [] ∧ b.isSame b = true ∧ b.op = .write) ∧
    (let b : Access := { id := 7, dest := .g 1 }
     let s : State := { agenda := [event 9 1 0 .loadDataDelivery (.deliver b 5 [] false false)] }
     s.awaiting = [] ∧ s.agenda = event 9 1 0 .loadDataDelivery (.deliver b 5 [] false false) :: [] ∧ b.isSame b = true ∧ b.dest = .g 1) ∧
    (∀ w ∈ ({} : State).awaiting, w.pkt.id ≠ 7) ∧ (∀ e ∈ ({} : State).agenda, e.late {} = false) ∧ ([0, 1, 2, 3, 4, 5] : List Nat).all (fun o =>
    let w : Awaited := { pkt := { op := o, id := 7, len := 1 }, acc := { id := 7, dest := .g 1 } }
    let s : State := { awaiting := [w] }
    decide (s.awaiting.find? (fun w => w.pkt.id == 7) = some w ∧ Present s w.acc.part w.acc.gen ∧ w.acc.chunk = none ∧ w.acc.issue = 0 ∧
      w.acc.dest = .g 1 ∧ w.acc.sid < 8192 ∧ w.acc.promise = none)) = true ∧ ({ op := 6 } : Packet).op ≠ 8 ∧ ({ op := 6 } : Packet).count ≠ 1 ∧
    StillThere (on { run := .run }) {} ∧ ¬ StillThere {} {} ∧ StillThere { seqs := [(8, { run := .run })] } { sid := 8 } ∧
    ∀ d o, (Dest.g 1) ≠ .move d o := by
  refine ⟨by decide, by decide, by decide, by decide, by decide +kernel, by decide, by decide, by decide, by decide, by decide, ?_⟩
  intro d o h
  cases h

/-- O42: an entry of the host alone, and with a capability whose domain serves and does not; the hub and a user; a link without an
alternate path, and a failed one with it. -/
theorem witness_LinksAreAligned : ({ arg := .exportEntry 4095 {} none } : State).arg = .exportEntry 4095 {} none ∧ State.heldAt {} 0 = none ∧
    outOfService.heldAt 0 = some (0, 0) ∧ Storable {} 0 0 ∧ Free {} ∧ User {} ∧ Free onHub ∧
    OnHub onHub ∧ (Fm.get { peer := 3 } ({} : State).links 3 : Link).alten = false ∧ ({ alten := true } : Link).up = false := by decide +kernel

/-! ## Statements on launches, frames and partitions -/

/-- A machine of partition 3, which has half 0 and one frame slot and whose image 0 is ready, with a launch on that half. -/
def launching (l : Launch) : State :=
  { mem := Memory.write [] 0 8 (2 + 2 ^ 32), pool := [{ l with id := 7, part := 3, desc := BitVec.ofNat 512 (2 ^ 200 + 2 ^ 224) }]
    hub := { alDone := true }, parts := [(3, ((({} : Part).put 0x10 1 1).put 0x248 2 1).put 2 1 1)] }

/-- O4: a descriptor that passes every check, one of another partition; a launch whose home is not held and one whose is. -/
theorem witness_LaunchesAreValidated :
    (launching {}).pool.any (fun l => l.id == 7 && (launching {}).launchReason (l.parse l.desc.toNat) == 0) = true ∧
    (launching {}).pool.any (fun l => ({ launching {} with parts := [] } : State).launchReason (l.parse l.desc.toNat) == 3) = true ∧
    (launching { early := true }).pool.all (fun l => (l.parse l.desc.toNat).early) = true ∧
    (∀ x ∈ (launching {}).pool, x.id ≠ 8) ∧ (∃ x ∈ (launching {}).pool, x.id = 7) ∧
    State.heldBy (launching {}) { addr := 64, len := 64, cls := 1, part := 3 } = none ∧
    State.heldBy outOfService { addr := 64, len := 64, cls := 1, part := 3 } = some (0, 0) := by decide +kernel

/-- O43: the launch ready on its idle half, at once and at an exact START; a half that runs, one whose task waits, and one that is done. -/
theorem witness_WorkIsPlaced : ([false, true] : List Bool).all (fun e =>
    let s : State := { launching { valid := true, mask := 1, exact := e, start := if e then 40 else 0 } with arg := .die 0 }
    s.pool.all (fun l => decide (l.die = 0 ∧ s.launchReady l = true ∧ l.halves = [0] ∧ (half s 0).run = .idle ∧ s.halfShut 0 = false ∧
      (l.exact = false ∨ s.ptime l.part + loading l.words ≤ l.start))) && s.saved.isEmpty) = true ∧ (half {} 0).run ≠ .finishing ∧
    (half (on { run := .finishing }) 0).run = .finishing ∧ (on { run := .finishing }).allDone 0 = true ∧
    (on { run := .finishing, outst := [{ id := 1 }] }).allDone 0 = false := by decide +kernel

theorem witness_LaunchesBegin : (launching { placed := some 0, mask := 1 }).pool.all (fun l => (launching {}).launchStands l) = true ∧
    (launching { placed := some 0, mask := 2 }).pool.all (fun l => !(launching {}).launchStands l) = true ∧ (launching { placed := some 0 }).pool.any (fun l => l.id == 7 && l.placed == some 0) = true ∧
    State.ptime (launching {}) 3 < 1 ∧ 0 ≤ State.ptime (launching {}) 3 := by decide +kernel

/-- O43: nothing stands in the way; a launch of higher priority does, within the quantum and past it; a half that leaves. -/
theorem witness_SlotsAreGivenAway : State.wanted {} 0 = false ∧ ([0, 9] : List Nat).all (fun k =>
    let s : State := { launching { valid := true, mask := 1, prio := 1 } with now := 5, seqs := [(0, { run := .run, task := { part := 3, since := k } })] }
    decide (s.wanted 0 = true ∧ (s.ptime (half s 0).task.part < (half s 0).task.since + (partOf s 3).get 4 4 ↔ k = 9))) = true ∧
    (half {} 0).run ≠ .leaving ∧ (half (on { run := .leaving }) 0).run = .leaving ∧ (half (on { run := .leaving }) 0).nest.live = false ∧
    (half (on { run := .leaving, nest := { live := true } }) 0).nest.live = true := by decide +kernel

/-- O44: a half that runs; one that ends, with an access outstanding and without; one that saves with a fatal code and with another. -/
theorem witness_FramesAreSaved : (half (on { run := .run }) 0).run ≠ .ending 1 ∧ (half (on { run := .ending 1 }) 0).run = .ending 1 ∧
    ((on { run := .ending 1 }).dropWaits 0).settled 0 = true ∧ ((on { run := .ending 1, outst := [{ id := 1 }] }).dropWaits 0).settled 0 = false ∧
    (half (on { run := .saving 7 }) 0).run = .saving 7 ∧ 7 < 8 ∧ (half (on { run := .saving 8 }) 0).run = .saving 8 ∧ (half (on { run := .saving 9 }) 0).run = .saving 9 ∧
    (half (on { run := .saving 7 }) 0).upset = [] ∧ myBadRows (on { run := .saving 7 }) 0 = [] ∧
    ({ part := 3, slot := 1 } : FatalSlot) ∉ ({} : State).fatalSlots ∧
    ({ part := 3, slot := 1 } : FatalSlot) ∈ ({ fatalSlots := [{ part := 3, slot := 1 }] } : State).fatalSlots := by decide +kernel

/-- O44: nothing saved; a task saved in each kind of frame, placed now and a cycle from now. -/
theorem witness_SavedTasksResume : ({} : State).saved.find? (fun x => x.home == 0 && x.placed.isSome) = none ∧
    ([(false, 0), (true, 0), (true, 1)] : List (Bool × Nat)).all (fun t =>
      let x : Saved := { full := t.1, placed := some t.2, task := { part := 3 } }
      let s : State := { saved := [x], arg := .seq 0, parts := [(3, ({} : Part).put 0x10 1 1)] }
      decide (s.ownsHalf x.task.part 0 = true ∧ State.ownsHalf {} x.task.part 0 = false ∧ x.code ≠ 9 ∧
        s.saved.find? (fun x => x.home == 0 && x.placed.isSome) = some x ∧ x.placed = some t.2 ∧
        (s.ptime x.task.part < t.2 ↔ t.2 = 1) ∧ yieldFramed s x 0xA 2 = 0 ∧ x.notice = false)) = true := by decide +kernel

/-- A machine whose partition 3 is in a STATE, with a record image at PADDR that passes the checks. -/
def parted (st : Nat) : State := { (State.poke {} 0x200 1 1 0) with parts := [(3, ({} : Part).put 2 1 st)] }

/-- O45: a record that passes and one that does not; a modification that touches no half, and one of a busy half, asked for and waiting. -/
theorem witness_PartitionsAreCreated : ([0, 1, 4, 5] : List Nat).all (fun k =>
      decide ((partOf (parted k) 3).get 2 1 = k ∧ (parted k).recReason 3 (parted k).imageAtPaddr = 0 ∧ State.recReason {} 3 (State.imageAtPaddr {}) ≠ 0 ∧
        (((parted k).affected 3 (parted k).imageAtPaddr).all (fun h => (half (parted k) h).run == .idle)) = true)) = true ∧
    (let s : State := { parted 1 with parts := [(3, ((({} : Part).put 2 1 1).put 0x10 1 3))], seqs := [(0, { run := .run, task := { part := 3 } })] }
     (partOf s 3).get 2 1 = 1 ∧ s.recReason 3 s.imageAtPaddr = 0 ∧ (s.affected 3 s.imageAtPaddr).all (fun h => (half s h).run == .idle) = false) ∧
    (partOf {} 3).modify = none ∧ (partOf { parts := [(3, { modify := some 0 })] } 3).modify = some 0 := by decide +kernel

/-- O46: each STATE; no busy half and one. -/
theorem witness_PartitionsStopAndAreReleased : ([0, 1, 2, 3, 4, 5] : List Nat).all (fun k =>
      decide ((partOf (parted k) 3).get 2 1 = k ∧ (parted k).recReason 3 (parted k).imageAtPaddr = 0 ∧ State.recReason {} 3 (State.imageAtPaddr {}) ≠ 0 ∧
        (parted k).halvesBusy 3 = [] ∧ ((parted k).detachedPart 3).any (·.engaged) = false)) = true ∧
    (let s : State := { parts := [(3, ({} : Part).put 0x10 1 3)], seqs := [(0, { run := .run, task := { part := 3 } })] }
     s.halvesBusy 3 = [0] ∧ (half s 0).run = .run ∧ s.taking 0 = false) := by decide +kernel

/-- O47: a partition below a minimum, and none; without and with work of the generation before. -/
theorem witness_PartitionsAreReset : ([0, 1, 2, 3, 4, 5] : List Nat).all (fun k => decide ((partOf (parted k) 3).get 2 1 = k ∧ (parted k).oldWork 3 = false)) = true ∧
    recBreach (({} : Part).put 0x212 2 1).img ≠ 0 ∧ recBreach ({} : Part).img = 0 ∧ ({} : Part).loss = none ∧ ({} : Part).destroying = false ∧
    State.oldWork { agenda := [event 9 4 0 .accessHomeCycle (.access { part := 3, gen := 1 })] } 3 = true := by decide +kernel

theorem witness_PartitionTimeStands : (partOf (parted 1) 3).stood = none ∧ (partOf (parted 1) 3).get 2 1 = 1 ∧
    (partOf { parts := [(3, { stood := some 5 })] } 3).stood ≠ none ∧ (partOf { parts := [(3, { stood := some 5 })] } 3).get 2 1 ≠ 5 ∧
    (partOf {} 3).get 2 1 = 0 ∧ (partOf (parted 5) 3).get 2 1 = 5 ∧ (5 : Nat) < 2 ^ 64 := by
  decide +kernel

theorem witness_ResourcesRetire : 0 ∉ ({} : State).lostSlices ∧ 0 ∉ ({} : State).sparePair ∧ 0 ∈ ({ sparePair := [0] } : State).sparePair ∧
    0 ∉ ({} : State).retiring ∧ 0 ∉ ({} : State).lostClusters ∧ (∀ c, c < 36 → State.clusterTenants {} 0 c ≤ 1) ∧
    0 ∉ ({} : State).spareCluster ∧ 0 ∈ ({ spareCluster := [0] } : State).spareCluster ∧
    (let s : State := { parts := [(3, (({} : Part).put 0x110 4 1).put 2 1 1)], doms := [(0, { v := true, l2c := 4, part := 3 })], sparePair := [0] }
     s.sliceOwner 0 0 = some 3 ∧ (s.dom 0 0).first ≤ 0 ∧ 0 < (s.dom 0 0).first + 2 ^ (s.dom 0 0).l2c) := by decide +kernel


/-! ## Statements on configuration and on fetch -/

/-- O48: a block in service that is asked to leave it or stay; one out of service; one that may serve with new fields, one as it was. -/
theorem witness_DomainsAreConfigured : (Dom.reset 0 0).v = true ∧ (Dom.reset 0 1).v = false ∧ bit 0x100 8 = true ∧ bit 0 8 = false ∧
    (let s : State := { doms := [(0, { v := false, l2c := 4 })] }
     State.enableRefused s 0 0 = false ∧ (domain s 0 0).force ≠ some (0, 4, (domain s 0 0).hm)) ∧
    (let s : State := { doms := [(0, { v := false, l2c := 4, force := some (0, 4, [1, 2, 4, 8]) })] }
     State.enableRefused s 0 0 = false ∧ (domain s 0 0).force = some (0, 4, (domain s 0 0).hm)) ∧
    State.enableRefused { doms := [(1, { first := 1, l2c := 4 })] } 0 1 = true := by decide +kernel

/-- O48: few ways and too many; a request that is held, and that a block in service covers. -/
theorem witness_ConfigurationIsGuarded :
    popcount ((domain {} 0 0).unionWith 0 { ways := 0xFFF, v := true }) 16 ≤ 12 ∧
    12 < popcount ((domain {} 0 0).unionWith 0 { ways := 0x1FFF, v := true }) 16 ∧
    (servedAgain { replays := [{ die := 0, blk := 0, addr := 64, cls := 4, ins := .accessHomeCycle, arg := .access {}, at_ := 0 }] } 0).length = 1 := by
  decide +kernel

/-- O42: a link that is not enabled; one that is, with seven recent replays and with six; an entry that came before and one that did not, over
each path; a silence that is long enough and one that is not; an alternate path and none. -/
theorem witness_FlitsAreReceived : (linkNo {} 3).en = false ∧
    (let l : Link := { en := true, up := true, replays := List.replicate 7 0 }
     l.en = true ∧ l.xp = false ∧ l.up = true ∧ 8 ≤ (0 :: l.replays.filter (fun c => decide (0 < c + 1024))).length ∧ l.alten = false ∧ l.alt = false) ∧
    ¬ 8 ≤ (0 :: (List.replicate 6 0).filter (fun c => decide (0 < c + 1024))).length ∧ ({ up := true, alten := true } : Link).alten = true ∧
    ({ en := true, alt := true } : Link).alt = true ∧ 4 ∈ ({ seen := [4] } : RPath).seen ∧ 4 ∉ ({} : RPath).seen ∧
    ({ arg := .silence 3, now := 64 } : State).arg = .silence 3 ∧ ({ up := true } : Link).heard + 64 ≤ 64 ∧ ¬ ({ up := true } : Link).heard + 64 ≤ 63 ∧
    (linkNo {} 3).up = false := by decide

theorem witness_DiesAreReset : ({} : State).seqs.any (fun e => e.1 % 16 == 7 && !(e.1 % 16 == 8) && e.2.run != .idle) = false ∧
    ({} : State).hub.drstBusy = false ∧ (on { run := .run }).seqs.any (fun e => e.1 % 16 == 0 && !(e.1 % 16 == 8) && e.2.run != .idle) = true := by
  decide

/-- O20: one that does not run; one that does, whose next word is there, and one whose is not. -/
theorem witness_FetchReadsAhead : (half {} 0).run ≠ .run ∧
    (let s : State := { on { run := .run } with cores := [(0, { store := [(0, 0x20000000)] })] }
     let q := half s 0
     q.run = .run ∧ q.fhold = false ∧ q.fstop = false ∧ q.bq = [] ∧ s.fetchAt 0 q.fpc = some 0x20000000 ∧ takesLiteral 0x20000000 = false ∧
     q.fq.countP (fun x => x.col == engOf 0x20000000) < 32) ∧
    (half (on { run := .run, fpc := 65536 }) 0).run = .run ∧ State.fetchAt (on { run := .run, fpc := 65536 }) 0 65536 = none := by decide +kernel

/-- A word at fetch position 4. -/
def queued : QWord := { pc := 0, fo := 4, w := 0x20000000 }

/-- O20: no such word; in untimed mode; in each timed mode, the first time and again. -/
theorem witness_StarvationIsAViolation : (∀ e ∈ (half {} 0).ahead, e.fo ≠ 4) ∧
    (half (on { bq := [queued] }) 0).ahead.find? (fun e => e.fo == 4) = some queued ∧ ([queued] : List QWord).find? (fun e => e.fo == 4) = some queued ∧
    (half (on { ut := true }) 0).ut = true ∧ (half {} 0).ut = false ∧ (half {} 0).trapMode = false ∧ (half {} 0).heldAt ≠ some ({} : State).now ∧
    queued.posted = false ∧ ({ queued with posted := true } : QWord).posted = true ∧ (half (on { trapMode := true }) 0).trapMode = true ∧
    (half (on { heldAt := some 0 }) 0).heldAt = some ({} : State).now := by decide

/-- A join of a loop after fetch position 4. -/
def joined : Join := { after := 4, op := .advance, pc := 0, grp := 1 }

/-- O49: a join that waits for its word; one that is due, a cycle after the last issue; an event that is delivered; no handler. -/
theorem witness_IterationsPass : (half {} 0).joins = [] ∧
    (let s := on { run := .run, fq := [{ queued with fo := 3 }], joins := [joined] }
     ¬ JoinDue s (half s 0) joined) ∧
    (let s : State := { on { run := .run, fq := [{ queued with fo := 5 }], joins := [joined] } with now := 1 }
     JoinDue s (half s 0) joined ∧ (half s 0).pend = []) ∧
    (let s : State := { on { run := .run, joins := [joined], pend := [{ code := 0x15, col := 0 }], tvec := 9 } with now := 1 }
     JoinDue s (half s 0) joined ∧ joined.op ≠ .plain ∧ Delivers (half s 0) { code := 0x15, col := 0 }) ∧
    (let s : State := { on { run := .run, joins := [joined], pend := [{ code := 0x15, col := 0 }] } with now := 1 }
     JoinDue s (half s 0) joined ∧ (half s 0).tact = false ∧ (half s 0).pend ≠ [] ∧ (half s 0).tvec = 0 ∧ 0 % 16 ≠ 8) := by decide

/-- O49: a loop level with a double-bit error. -/
theorem witness_IterationsPass_upset : (half {} 0).upset = [] ∧
    (let s : State := { on { run := .run, upset := [.level 0], joins := [joined] } with now := 1 }
     JoinDue s (half s 0) joined ∧ joined.op ≠ .plain ∧ joined.op ≠ .first ∧ Spot.level 0 ∈ (half s 0).upset) := by decide

/-- O49: no deadline; one that has come, and one a cycle on. -/
theorem witness_DeadlinesExpire : (half {} 0).dline ≠ some 0 ∧ (half (on { run := .run, dline := some 0 }) 0).run = .run ∧
    (half (on { run := .halted, dline := some 0 }) 0).run = .halted ∧ State.ptime {} 63 < 1 ∧ 0 ≤ State.ptime {} 63 := by decide


/-! ## A Bruex image -/

/-- A modulus of 3,072 bits, whose key pair was made for this test. -/
def testKey : Nat :=
  0x9e7eddd961faaf08a9412eb3e018a585c6b92396edaa66bd404d9eef9789f766a50eee02ee37982d2f3376dacc6be2035108f8a630e12db7d6babfb082eb4971208545cbdca157289931c6e1b61acc90255a5adb337b943c435919ef9fdef24502de90366663b5cd83812893e071e288eb3ce94fcf09cb691e3ac644d2a94e8da1877a013ce7d539d5dc9a51664963132943171ac8aa86fa461a4eb1d194d138ac12575e0240e1e6740850d419fd2725f69c2eb8803bdc07cb17314b53ee8ca832d97282fa66d815515bc49a0ea156a884f2712f9752a056d04dc94d4adf5ff97a2fe3869198d74b3649778f552d0d55e5d30fb3be9495a8245387ac96eca2a97eb6c21b0ec7ebaf46de9bac8de64f1085efcb498bd1f193c29e41df9ba86546dcdcdbdbd3101c4d0296475fa6084dbe9f35304d1b0237ec3409ed29b9e7ca3d1c0550e753d115f664679b48aed85e3cc8b150904c6d8d0277aceddd4041eccf6e91a500885e6e7c947b61fc04fdecee35bdbbd19cbb4b6680e55ee4468c7d91

/-- The signature with that key of the header of `testImage`. -/
def testSignature : Nat :=
  0x59bf5b70931a02f5a6f7204dfb24a53acc391f5acbfa9eff7d4f196e36b060fc98e07898ad22391c8ad2bf99e5fd392a0d044d06ee7f1b5c428df164840293ed8d01bfbe5ee2428d2b5ead75e5487a1bc670a3a6c567ad348aabf2d987039e1c7b642cd0200188e6b620cb73607d988b9229a91d7e113e2372f76c6d13762667210e66d75a112748c4bae381411bb9a4cbe6b2a23e4f775227d78c808613524e604916e311f735fc92578297245572c339da4a9b35127df91e80da4c11426ef57504f501c66cbcdc7f96f30c71d939a2564995ed9ebd2885910a6494f08cb00e8f32024e920988033b8478556ec14beaeab7c4c09ed6915c63b84861f503b0105b3deef0d3b944e4eef9fa7d6263bdb851fb726290ad6437ae8178d3089c822d6f4b27e2fccfa31cd170edcf2df86c1ae383e4c558e053c2c2cc7cbea853401b1f280ac97e2016b7ceb79e8323b539df045e343e022dbf2b3ea13f614fe05f1a980ccc593d882d08cd39e24ee47aabe042287bcfec38af0a766edc22254c1e32

/-- A native image for device generation 9 of one code word, END, and one timetable of that word (R405, R406). -/
def testImage : Nat :=
  0xa5000000009000900030200000131585242 +
  0x33cb523a5db4dbcfdbbd29c7e5b24edba60c3fc6c1499a7d3d7f9967d7e6c8fd000000000000000400000a0000000001 * 2 ^ (8 * 0x100) +
  0x223825e2ac6f8d5dd9e562844ad9439a1bc3261f823093ed80616a24bca763c3000000000000001000000a4000000004 * 2 ^ (8 * 0x130) +
  testKey * 2 ^ (8 * 0x700) + testSignature * 2 ^ (8 * 0x880) + 0x00E00000 * 2 ^ (8 * 0xA00) + 0x100000000 * 2 ^ (8 * 0xA40)

/-- A machine whose root key is the test key, with the image in the host's memory and function 0 bound to partition 3. -/
def signed (arc : Nat) : State :=
  { hostMem := Memory.write [] 0 0xA50 testImage, fuses := { khash := [(0, BitVec.ofNat 256 0xbd1e4bf9b91c6d489b7994a61016c58bbd02457465094e76ee7b44fd52e34d37)], arc := [(9, arc)] }, bootStep := 7
    parts := [(3, (({} : Part).put 2 1 1).put 0x200 1 1)] }


/-- The signatures with that key of the headers of `bootImage`. -/
def bootSignature (kind : Nat) : Nat :=
  if kind = 2 then 0x355ba933123d622d74bed8aaa55c8b87d89aeaf96c8ed773eeb7849ee83898280950a94af6fe10a72bb0b142aad17d1343ffaec7c17db9af6c8f1f8993979ff2d8803f251fe0c9f1db4888123792d991ee002bfdc833f9f24e824e93dc878979b13e8e2fbedfd97438faa4daa413226fa3e862856d88a6ff82a1ea03cb07fb1f12a30f2b9d268a0dda77a56e4608ae4fb1b70925cfd3a86b03a3352a7775be20b6594d5291ca43f3354076deb7169ef5bb019af79bedfca47f3adc58ee4c161d056d9df6ca62f6a672ceba99e0a6683952011653a9e9a44d084d8699230c5983e887d3cee6ae1dfaa7cf7f49a7867fbc1c7b56b6ae2c371b585b0047dba09ce12173a9a2e5fd10487d8cea3740837effd81259166851c353db5a9240f55514346a863dfce65e55eaa94fce40aa943b195fcd76a6ce5f49d8a801962c68c5a81dabc1cf0edcfca21610fa7e2709e39226e3c2932bbc63175927a424299d14d64050775278e82ba0d095e629f489cbf29aab62d8444f693f6ba9c0c0a2286c408c
  else 0xb86b8becbe7e1da672d20a70a8fe0e3b420faf4ad0c83022425bb91eabb00e5d59824df4c3d96f58af6b4c3a6247d19f25e8a300bcb3325f0deba0be6af7a6daf3819560acf8d99cf181bc9be8929c1fdca2d4df4e2802e72100a57a1d997c025cc39e3e52f19dc912a3b5da83ebef78cef6f5b6bf408f30f70d9d3dff279eafcf369593f206fa548e808056aaa064d9ac37e942b049c759909b40418b555d6b1a041af779eb0104faf40a088b13e5f62405594e3d31d9a00ee91e365e50c84dfaceae81efc7cae73ff16196cbccc0500ae961b8238e1f9fea8b92cac65798431283f6dc14edf29605929fda5cf23dbe7e5a1b309a3260ee44329fc144b1d835899184a56dd6aa1fa69c98a584bf3c803db2ef4838c3e2c8b3dd73308fa20b3689291103b1f5f730ea5ca47884c73d1f4e1326e7c49676149f7ae1c462a28fe9ec20759d0b2882bace0a8691b0035dcd540a750cd5d47d8b31fa49a8292125ebcca26b5c7646722abd329599c1f876aa49db5c76575e231f8d42e2ffb487432

/-- A boot image of KIND 2 or 3 with a payload of one word, END (R405, R417). -/
def bootImage (kind : Nat) : Nat :=
  (if kind = 2 then 0xa0400000009000900030102000131585242 else 0xa0400000009000900030103000131585242) + 0x33cb523a5db4dbcfdbbd29c7e5b24edba60c3fc6c1499a7d3d7f9967d7e6c8fd000000000000000400000a0000000008 * 2 ^ (8 * 0x100) +
  testKey * 2 ^ (8 * 0x700) + bootSignature kind * 2 ^ (8 * 0x880) + 0x00E00000 * 2 ^ (8 * 0xA00)

/-! ## Statements on the host, the fuses and the boot -/

/-- O50: a function that is not bound, one out of service, and one in service with an entry. -/
theorem witness_FunctionsAreWritten : boundTo {} 0 = none ∧ boundTo (signed 0) 0 ≠ none ∧ (function {} 0).en = false ∧
    ({ en := true } : Vf).en = true ∧ 0x010 ∉ [0x000, 0x008, 0x020, 0x028, 0x038] := by decide +kernel

/-- A machine whose function 0 has an entry to read, after a doorbell write in cycle 0. -/
def rings (next : Nat) : State :=
  { signed 0 with vfs := [(0, { en := true, sqt := 1, sqn := 1, next := next })], arg := .id 0, bells := [(0, 1, 0)] }

/-- O51: no doorbell write; one that names no entry, or one of another function; one that must wait, for its function, for a host write and for
an entry before; one whose entry is read, which is unknown here, and one that is a LOAD. -/
theorem witness_SubmissionsAreRead : ({} : State).bells = [] ∧ leftNothing {} (0, 1, 0) = true ∧ (0, 1, 0).1 ≠ 5 ∧
    (rings 16).bells = (0, 1, 0) :: [] ∧ leftNothing (rings 16) (0, 1, 0) = false ∧ (rings 16).now < (function (rings 16) 0).next ∧
    (let s := rings 0
     leftNothing s (0, 1, 0) = false ∧ ¬ s.now < (function s 0).next ∧ s.hostWriting 0 = false ∧ s.entryWaits = false ∧
     Memory.read s.hostMem ((function s 0).sqb + 64 * (function s 0).sqh) 64 % 256 = 0x42) ∧
    Memory.read (Memory.write [] 0 64 1) 0 64 % 256 = 1 ∧
    State.hostWriting { agenda := [event 9 4 0 .accessHomeCycle (.access { op := .write, alloc := .hostPort })] } 0 = true ∧
    State.entryWaits { agenda := [event 9 4 0 .hostLoad (.sub 0 0)] } = true := by
  decide +kernel

/-- A submission of the image at host address 0 as image `img` at base address `base`. -/
def submission (img base : Nat) : BlockBits := BitVec.ofNat 512 (1 + img * 2 ^ 32 + 0xA50 * 2 ^ 128 + base * 2 ^ 192)

/-- O51: the test image is verified, and refused below its anti-rollback counter; it has no section whose pages must be writable. -/
theorem witness_SubmissionsComplete_load : (let e := submission 4095 0
    let x : Bruex := { b := Memory.read (signed 3).hostMem (bits e.toNat 64 64) (bits e.toNat 128 64), n := bits e.toNat 128 64 }
    bits e.toNat 32 16 < 4096 ∧ ((signed 3).image 3 4095).st ≠ 2 ∧ bits e.toNat 192 64 % 65536 = 0 ∧
    (match (signed 3).verify x with
      | .ok _ => true
      | .error _ => false) = true ∧
    x.sects.all (fun t => (t.type != 2 && t.type != 5) || (signed 3).writable 3 (0 + t.voff) t.size) = true ∧
    (match (signed 4).verify x with
      | .ok _ => false
      | .error r => r == 6) = true) := by decide +kernel

/-- O51: an area for an image where nothing is taken. -/
theorem witness_SubmissionsComplete_area : freeArea [] (4 * 1 + 15 + 16 * 1) 3906248 0 ≠ none := by
  rw [freeArea, if_pos (by decide +kernel)]
  exact Option.some_ne_none _

/-- O51: memory that is all taken has no area for an image. -/
theorem witness_SubmissionsComplete_full : freeArea [(0, 2 ^ 60)] 64 3906248 0 = none := by
  suffices h : ∀ k j, freeArea [(0, 2 ^ 60)] 64 k j = none from h _ _
  intro k
  induction k with
  | zero => exact fun j => rfl
  | succ k ih =>
    intro j
    have a : j / 976562 % 4 < 4 := Nat.mod_lt _ (by decide)
    have b : j % 976562 < 976562 := Nat.mod_lt _ (by decide)
    have o : overlaps (dieBase (j / 976562 % 4) + j % 976562 * 65536) 64 0 (2 ^ 60) = true := by
      have c : dieBase (j / 976562 % 4) ≤ 3 * 2 ^ 39 := Nat.mul_le_mul_right _ (by omega)
      simp only [overlaps, Bool.and_eq_true, decide_eq_true_eq]
      omega
    simp only [freeArea, List.any_cons, o, Bool.true_or, Bool.not_true, Bool.false_eq_true, and_false, if_false, ih]

/-- O51: an image number too high, a base that is not aligned; a data section without a page; a pool with room and a full one; an object and
none; an image in use and none. -/
theorem witness_SubmissionsComplete : boundTo {} 0 = none ∧ boundTo (signed 0) 0 = some 3 ∧ 4096 ≤ bits (submission 4096 0).toNat 32 16 ∧
    bits (submission 0 1).toNat 192 64 % 65536 ≠ 0 ∧ State.writable {} 3 0 64 = false ∧ ({} : State).pool.countP (fun l => l.part == 3) < 256 ∧
    256 ≤ (List.replicate 256 ({ part := 3 } : Launch)).countP (fun l => l.part == 3) ∧ State.objectAt {} 3 0 = none ∧
    (mapped.objectAt 63 (2 ^ 28)).isSome = true ∧ mapped.heldAt 0 = none ∧ outOfService.heldAt 0 = some (0, 0) ∧ State.imageBusy {} 3 0 = false ∧
    State.imageBusy { pool := [{ part := 3, valid := true }] } 3 0 = true := by decide +kernel

/-- O50: no partition; a function that is not the control function, and the control function, with the hub free and busy. -/
theorem witness_FunctionsAreReset : boundTo {} 0 = none ∧ boundTo (signed 0) 0 = some 3 ∧ (partOf (signed 0) 3).get 0x210 1 = 0 ∧
    (signed 0).hub.psRes ≠ 3 ∧ ({ psRes := 3 } : Hub).psRes = 3 ∧
    (let s : State := { parts := [(3, ((({} : Part).put 2 1 1).put 0x200 1 1).put 0x210 1 1)], bootStep := 7 }
     boundTo s 0 = some 3 ∧ (partOf s 3).get 0x210 1 ≠ 0) := by decide +kernel

/-- O52: a counter that may rise by what was verified, and one that may not; a key slot; a life cycle that may change, and one that waits for a key. -/
theorem witness_FusesGoOneWay :
    (let x : Fuses := { seenSvn := [(9, 64)] }
     9 < 32 ∧ 8 ≤ 9 ∧ ¬ (false = true ∨ 8 ≤ 7) ∧ 64 ≤ 64 ∧ 64 ≤ Fm.get 0 x.seenSvn 9 ∧ Fm.get 0 x.arc 9 < 64 ∧ ¬ 65 ≤ 64) ∧ ({} : Fuses).enrolled.getLsbD 4 = false ∧
    ({} : Fuses).enrolled.getLsbD 0 = true ∧ ({ life := 0 } : Fuses).life + 1 = 1 ∧ ({} : State).bootStep < 5 ∧
    ¬ (∃ i, 1 ≤ i ∧ i ≤ 4 ∧ ({} : Fuses).enrolled.getLsbD i = true) ∧ (∃ i, 1 ≤ i ∧ i ≤ 4 ∧ ({ enrolled := 3 } : Fuses).enrolled.getLsbD i = true) := by
  refine ⟨by decide, by decide, by decide, by decide, by decide, ?_, ⟨1, by decide⟩⟩
  rintro ⟨i, h, k, e⟩
  have : i = 1 ∨ i = 2 ∨ i = 3 ∨ i = 4 := by omega
  rcases this with rfl | rfl | rfl | rfl <;> exact absurd e (by decide)

/-- A scrub that meets a double-bit error in g5, and one that meets none. -/
theorem witness_BootAndStop_scrub : ({ arg := .upset (.spot 0 (.g 5)) } : State).arg = .upset (.spot 0 (.g 5)) ∧ ∀ u, ({} : State).arg ≠ .upset u :=
  ⟨rfl, fun _ h => Arg.noConfusion h⟩

/-- A machine whose root key is the test key, and whose next free values are those of a boot step with these images. -/
def booting (kind k : Nat) : State :=
  { signed 0 with fuses := (signed 3).fuses, choices := 0 :: (List.replicate k [bootImage kind, 0xA04]).flatten }

/-- O52: four images of KIND 2 and one of KIND 3 that pass every check; an image that is none. -/
theorem witness_BootAndStop_images : (booting 2 4).drawVal % 2 = 0 ∧ (booting 3 1).drawVal % 2 = 0 ∧
    ((booting 2 4).drew.drawImages 4).1 = List.replicate 4 { b := bootImage 2, n := 0xA04 } ∧
    ((booting 3 1).drew.drawImages 1).1 = [{ b := bootImage 3, n := 0xA04 }] ∧ (booting 2 4).bootReason 2 { b := bootImage 2, n := 0xA04 } = 0 ∧
    (booting 3 1).bootReason 3 { b := bootImage 3, n := 0xA04 } = 0 ∧ State.bootReason {} 2 { b := 0, n := 0 } = 1 := by decide +kernel

/-- O52: the beginning; a step that fails and one that succeeds; a management sequencer that is idle and one that runs. -/
theorem witness_BootAndStop : ({} : State).bootStep < 5 ∧ State.reset.agenda.map (·.arg) = [Arg.none] ∧ State.drawVal { choices := [1] } % 2 = 1 ∧
    State.drawVal { choices := [0] } % 2 = 0 ∧ (half {} (8 + 1024 * 3 + 4096)).run = .idle ∧ 7 < 8 ∧
    (half { seqs := [(8, { run := .run })] } 8).run ≠ .idle := by decide

/-! ## Statements on the whole machine -/

/-- A core that runs, whose next word is ADD g3, g1, g2 and has come to its queue. -/
def taking (w : QWord) : State :=
  { on { run := .run, fstop := true, fq := [w], cols := [] } with now := 9 }

/-- O53: a word that decodes; one with an opcode that is not assigned; a literal that is absent; an index out of range. -/
theorem witness_StepRunsWord : ([0x2020C108, 0x23F00000] : List Nat).all (fun w =>
    let e : QWord := { pc := 0, w := w, col := 1 }
    let s := taking e
    decide (Takes s 0 e) && !(ready s).wordBad 0 e && !e.oor) = true ∧ (decodeWord 0x2020C108 none).toOption.isSome = true ∧
    (match decodeWord 0x23F00000 none with
      | .error x => decide (x = .unassigned)
      | .ok _ => false) = true ∧
    (match decodeWord 0x21E00000 none with
      | .error x => decide (x ≠ .unassigned)
      | .ok _ => false) = true ∧ ({ pc := 0, w := 0, oor := true } : QWord).oor = true := by decide +kernel

theorem witness_WordsLeaveTheirQueue : ({} : Cur).held = false ∧ ({ held := true } : Cur).held = true ∧ ({ rsvd := true } : Cur).fault = false ∧ (half {} 0).upset = [] ∧
    ({ fb := true } : Cur).fb = true := by decide

/-- O54: an event that is due; a join; a word that starves; a home access; nothing to do now, and nothing at all. -/
theorem witness_StepRunsDueEvents : ((ready State.reset).popEvent 0 2).isSome = true ∧
    (let s : State := { on { run := .run, fstop := true, joins := [joined], lastIssue := 0 } with now := 9 }
     (ready s).popEvent 0 2 = none ∧ (ready s).nextJoin = some 0) ∧
    (let s := taking { pc := 0, w := 0x2020C108, col := 1, arr := 20 }
     (ready s).popEvent 0 2 = none ∧ (ready s).nextJoin = none ∧ ((ready s).nextWordOf exec (ready s).seqs).map (fun x => (x.1, x.2.2)) = some (0, true)) ∧
    (let s : State := { agenda := [event 0 4 0 .sramScrub .none] }
     (ready s).popEvent 0 2 = none ∧ (ready s).nextJoin = none ∧ (ready s).nextWordOf exec (ready s).seqs = none ∧ ((ready s).popEvent 3 9).isSome = true) ∧
    (ready {}).popEvent 0 2 = none ∧ (ready {}).nextJoin = none ∧ (ready {}).nextWordOf exec (ready {}).seqs = none ∧ (ready {}).popEvent 3 9 = none := by
  decide +kernel

/-- O55: a column that is occupied for a cycle more. -/
theorem witness_OccupiedColumnsHold : (let s := on { cols := [(0, { free := 1 })] }
    ¬ Free s ∧ integerResult s (.add 3 1 2) ≠ none ∧ predicateResult s (.pnot 0 0) ≠ none ∧ branch s (.br 0) ≠ none) ∧
    ¬ Free { on { sfence := true } with cur := { col := 3 } } := by decide

theorem witness_StepKeepsCanonical : (let s : State := { mem := [(64, 1)], agenda := [event 0 4 0 .sramScrub .none] }
    Safety.Canonical s ∧ (match step s with
      | .next t => t.mem == s.mem
      | _ => false) = true) := ⟨⟨rfl, rfl, rfl⟩, by decide +kernel⟩


end Sys2Proof.Tests
end

/-! # Every step keeps the canonical form of the memories

The byte store of a memory is canonical when its keys ascend and no zero stands in it (`Memory.wf`). Only five
primitives touch a byte store: a write of DRAM, a write of a scratchpad, a write of host memory, the wipe of a
scratchpad and the wipe of the module. The proof has four layers.

1. Frame: an operation of the state without such a primitive in it leaves the three stores as they are (`memories_…`).
2. Writers: an operation with one in it keeps them canonical (`wellFormed_…`).
3. Meanings: the meaning of every instruction and event keeps them canonical (`nextWellFormed_exec…`). Most words run
   a continuation in a shell shared by their family (`State.issue`, `State.vec`, `State.shadowWord`, …), so each shell
   has its own rule.
4. The dispatch and the step put the meanings together. -/

section

namespace Sys2Proof.Laws

open Sys2Proof Sys2Proof.Machine

/-! ## The three stores of a state -/

/-- The byte stores of a state: DRAM, scratchpads and host memory. It is written as a match on the record, so that
`simp` reads it off a record update at once and otherwise leaves the state closed for the frame lemmas. -/
def memories : State → List Host.Cell × List Host.Cell × List Host.Cell
  | { mem, spad, hostMem, .. } => (mem, spad, hostMem)

/-- The defining equation of `memories`, on a state given by all its fields. -/
@[simp] theorem memories_mk : type_of% @memories.eq_1 := by
  intros
  rfl

@[simp] theorem memories_eta (s : State) : (s.mem, s.spad, s.hostMem) = memories s := by rfl

/-- Not for `simp`: a record update over an operation with a large body is rewritten with this lemma, because
`memories_mk` would open that body once for each field. -/
theorem memories_saved (s : State) (l) : memories { s with saved := l } = memories s := by rfl

@[simp] theorem memories_ite (c : Prop) [Decidable c] (s t : State) :
    memories (if c then s else t) = if c then memories s else memories t :=
  apply_ite _ _ _ _

@[simp] theorem memories_ite_snd {β : Type} (c : Prop) [Decidable c] (x y : β × State) :
    memories (if c then x else y).2 = if c then memories x.2 else memories y.2 :=
  apply_ite (fun z : β × State => memories z.2) _ _ _

@[simp] theorem memories_ite_fst {β : Type} (c : Prop) [Decidable c] (x y : State × β) :
    memories (if c then x else y).1 = if c then memories x.1 else memories y.1 :=
  apply_ite (fun z : State × β => memories z.1) _ _ _

theorem memories_foldl_on {α β : Type} (g : β → State) (f : β → α → β) (l : List α) (b : β)
    (h : ∀ b x, memories (g (f b x)) = memories (g b)) : memories (g (l.foldl f b)) = memories (g b) := by
  induction l generalizing b with
  | nil => rfl
  | cons x l ih => rw [List.foldl_cons, ih, h]

@[simp] theorem memories_foldl {α : Type} (f : State → α → State) (l : List α) (s : State)
    (h : ∀ t x, memories (f t x) = memories t) : memories (l.foldl f s) = memories s :=
  memories_foldl_on id f l s h

@[simp] theorem memories_foldl_snd {α β : Type} (f : β × State → α → β × State) (l : List α) (b : β × State)
    (h : ∀ b x, memories (f b x).2 = memories b.2) : memories (l.foldl f b).2 = memories b.2 :=
  memories_foldl_on Prod.snd f l b h

@[simp] theorem memories_foldl_fst {α β : Type} (f : State × β → α → State × β) (l : List α) (b : State × β)
    (h : ∀ b x, memories (f b x).1 = memories b.1) : memories (l.foldl f b).1 = memories b.1 :=
  memories_foldl_on Prod.fst f l b h

@[simp] theorem memories_foldr {α : Type} (f : α → State → State) (l : List α) (s : State)
    (h : ∀ x t, memories (f x t) = memories t) : memories (l.foldr f s) = memories s := by
  induction l with
  | nil => rfl
  | cons x l ih => rw [List.foldr_cons, h, ih]

/-! ## Canonical stores and outcomes -/

/-- All three stores are canonical: `Safety.Canonical`, said of the stores instead of the state. -/
def WellFormed (m : List Host.Cell × List Host.Cell × List Host.Cell) : Prop :=
  Memory.wf m.1 = true ∧ Memory.wf m.2.1 = true ∧ Memory.wf m.2.2 = true

theorem canonical_iff (s : State) : Safety.Canonical s ↔ WellFormed (memories s) := Iff.rfl

@[simp] theorem wellFormed_ite (c : Prop) [Decidable c] (m n) :
    WellFormed (if c then m else n) ↔ if c then WellFormed m else WellFormed n := by
  split <;> rfl

theorem wellFormed_foldl_on {α β : Type} (g : β → State) {f : β → α → β} {l : List α} {b : β}
    (hb : WellFormed (memories (g b)))
    (hf : ∀ b x, WellFormed (memories (g b)) → WellFormed (memories (g (f b x)))) :
    WellFormed (memories (g (l.foldl f b))) := by
  induction l generalizing b with
  | nil => exact hb
  | cons x l ih => exact ih (hf b x hb)

theorem wellFormed_foldl {α : Type} {f : State → α → State} {l : List α} {s : State} (hs : WellFormed (memories s))
    (hf : ∀ t x, WellFormed (memories t) → WellFormed (memories (f t x))) : WellFormed (memories (l.foldl f s)) :=
  wellFormed_foldl_on id hs hf

/-- The next state of an outcome, if there is one, has canonical stores. -/
def NextWellFormed (o : Host.Outcome State Fault Refusal) : Prop :=
  ∀ t, o = .next t → WellFormed (memories t)

@[simp] theorem nextWellFormed_next (t) : NextWellFormed (.next t) ↔ WellFormed (memories t) := by
  simp [NextWellFormed]

theorem nextWellFormed_fault (f : Fault) : NextWellFormed (.fault f) := by
  simp [NextWellFormed]

theorem nextWellFormed_refused (r : Refusal) : NextWellFormed (.refused r) := by
  simp [NextWellFormed]

theorem nextWellFormed_ite {c : Prop} [Decidable c] {a b} (ha : NextWellFormed a) (hb : NextWellFormed b) :
    NextWellFormed (if c then a else b) := by
  split
  · exact ha
  · exact hb

/-! ## Frame: the operations that leave every store as it is -/

section Frame

variable (s : State)

/-! ### `Machine/Ops.lean` -/

@[simp] theorem memories_setSeq (sid q) : memories (s.setSeq sid q) = memories s := by rfl
@[simp] theorem memories_updSeq (sid f) : memories (s.updSeq sid f) = memories s := by rfl
@[simp] theorem memories_updCore (c f) : memories (s.updCore c f) = memories s := by rfl
@[simp] theorem memories_updDom (die k f) : memories (s.updDom die k f) = memories s := by rfl
@[simp] theorem memories_setTile (sid n x) : memories (s.setTile sid n x) = memories s := by simp [State.setTile]

@[simp] theorem memories_drew : memories s.drew = memories s := by
  unfold State.drew
  split <;> simp

@[simp] theorem memories_fresh : memories s.fresh.2 = memories s := by rfl
@[simp] theorem memories_updPart (p f) : memories (s.updPart p f) = memories s := by rfl
@[simp] theorem memories_push (e) : memories (s.push e) = memories s := by rfl
@[simp] theorem memories_after (k cls key i a) : memories (s.after k cls key i a) = memories s := by rfl
@[simp] theorem memories_land (k l) : memories (s.land k l) = memories s := by rfl
@[simp] theorem memories_record (sid l) : memories (s.record sid l) = memories s := by rfl
@[simp] theorem memories_setMe (q) : memories (s.setMe q) = memories s := by rfl
@[simp] theorem memories_updMe (f) : memories (s.updMe f) = memories s := by rfl
@[simp] theorem memories_occupy (n) : memories (s.occupy n) = memories s := by rfl
@[simp] theorem memories_hold (sid) : memories (s.hold sid) = memories s := by rfl

@[simp] theorem memories_violation (sid col first) :
    memories (s.violation sid col first) = memories s := by simp [State.violation]

@[simp] theorem memories_stall : memories s.stall = memories s := by simp [State.stall]

@[simp] theorem memories_endTask (sid code col pc) :
    memories (s.endTask sid code col pc) = memories s := by simp [State.endTask]

@[simp] theorem memories_fault (code) : memories (s.fault code) = memories s := by simp [State.fault]
@[simp] theorem memories_illegal : memories s.illegal = memories s := by simp [State.illegal]
@[simp] theorem memories_handleFault : memories s.handleFault = memories s := by simp [State.handleFault]
@[simp] theorem memories_boundsFault : memories s.boundsFault = memories s := by simp [State.boundsFault]
@[simp] theorem memories_modeFault : memories s.modeFault = memories s := by simp [State.modeFault]
@[simp] theorem memories_capFault : memories s.capFault = memories s := by simp [State.capFault]
@[simp] theorem memories_transfer (target stk) : memories (s.transfer target stk) = memories s := by rfl

@[simp] theorem memories_takeEvent (sid resume) : memories (s.takeEvent sid resume) = memories s := by
  simp only [State.takeEvent]
  repeat' split
  all_goals simp

@[simp] theorem memories_returnFromEvent : memories s.returnFromEvent = memories s := by rfl

@[simp] theorem memories_userOnly (k) (hk : ∀ t, memories (k t) = memories t) :
    memories (s.userOnly k) = memories s := by simp [State.userOnly, hk]

@[simp] theorem memories_settleWarnings : memories s.settleWarnings = memories s := by rfl
@[simp] theorem memories_fallback (b) : memories (s.fallback b) = memories s := by simp [State.fallback]
@[simp] theorem memories_reserved (b) : memories (s.reserved b) = memories s := by simp [State.reserved]

/-! ### `Machine/Memory.lean` -/

@[simp] theorem memories_setLines (p l) : memories (s.setLines p l) = memories s := by rfl
@[simp] theorem memories_count (die k c) : memories (s.count die k c) = memories s := by rfl
@[simp] theorem memories_touch (p pa) : memories (s.touch p pa) = memories s := by rfl

@[simp] theorem memories_countHit (p l access) :
    memories (s.countHit p l access) = memories s := by simp [State.countHit]

@[simp] theorem memories_lookup (pa access) : memories (s.lookup pa access) = memories s := by
  simp only [State.lookup]
  repeat' split
  all_goals simp

@[simp] theorem memories_lookups (pa n access) :
    memories (s.lookups pa n access) = memories s := by simp [State.lookups]

@[simp] theorem memories_withhold (d addr cls i a) : memories (s.withhold d addr cls i a) = memories s := by rfl

theorem memories_of_acceptLine {s t : State} {pa} (h : s.acceptLine pa = some t) : memories t = memories s := by
  simp only [State.acceptLine] at h
  split at h
  · cases h
    rfl
  · obtain ⟨-, h⟩ := Option.ite_none_left_eq_some.1 h
    cases h
    rfl

theorem memories_of_acceptBy {s t : State} {by_ pa} (h : s.acceptBy by_ pa = some t) : memories t = memories s := by
  unfold State.acceptBy at h
  split at h
  · next hl =>
    cases h
    exact memories_of_acceptLine hl
  · split at h
    · obtain ⟨-, h⟩ := Option.ite_none_right_eq_some.1 h
      cases h
      rfl
    · cases h

@[simp] theorem memories_dropRdcRange (on pa len) : memories (s.dropRdcRange on pa len) = memories s := by rfl

@[simp] theorem memories_vlookups (part va n) : memories (s.vlookups part va n) = memories s := by
  refine memories_foldl _ _ _ fun t x => ?_
  split <;> simp

@[simp] theorem memories_tlbFill (die part h) :
    memories (s.tlbFill die part h) = memories s := by simp [State.tlbFill]

@[simp] theorem memories_tlbTouch (die t) : memories (s.tlbTouch die t) = memories s := by rfl

/-! ### `Machine/Operands.lean` -/

@[simp] theorem memories_withTiles (l k) (hk : ∀ t, memories (k t) = memories t) :
    memories (s.withTiles l k) = memories s := by simp [State.withTiles, hk]

@[simp] theorem memories_seamOnly (k) (hk : ∀ t, memories (k t) = memories t) :
    memories (s.seamOnly k) = memories s := by simp [State.seamOnly, hk]

/-! ### `Machine/Torus.lean` -/

@[simp] theorem memories_updLink (n f) : memories (s.updLink n f) = memories s := by rfl
@[simp] theorem memories_emit (p) : memories (s.emit p) = memories s := by rfl

/-! ### `Machine/Access.lean` -/

@[simp] theorem memories_uncorrectable (sid col hnd off) :
    memories (s.uncorrectable sid col hnd off) = memories s := by simp [State.uncorrectable]

@[simp] theorem memories_landReg (sid l) : memories (landReg s sid l) = memories s := by
  cases l with
  | tile n d m => exact memories_setTile ..
  | bad col hnd off => exact memories_uncorrectable ..
  | _ => rfl

@[simp] theorem memories_landRegs (sid l) : memories (landRegs s sid l) = memories s := by simp [landRegs]
@[simp] theorem memories_landAt (sid col issue c l) : memories (s.landAt sid col issue c l) = memories s := by rfl

@[simp] theorem memories_uncorrectableNext (sid col hnd off) :
    memories (s.uncorrectableNext sid col hnd off) = memories s := by rfl

@[simp] theorem memories_uncorrectableNow (sid hnd off) :
    memories (s.uncorrectableNow sid hnd off) = memories s := by simp [State.uncorrectableNow]

@[simp] theorem memories_noteSpad (sid col cluster a n) : memories (s.noteSpad sid col cluster a n) = memories s := by
  unfold State.noteSpad
  split <;> simp

@[simp] theorem memories_noteSpadRow (sid col cluster a n) :
    memories (s.noteSpadRow sid col cluster a n) = memories s := by simp [State.noteSpadRow]

@[simp] theorem memories_outstanding (sid o) : memories (s.outstanding sid o) = memories s := by rfl

@[simp] theorem memories_visibleAt (sid id c) :
    memories (s.visibleAt sid id c) = memories s := by simp [State.visibleAt]

@[simp] theorem memories_seenNow (sid id) : memories (s.seenNow sid id) = memories s := by simp [State.seenNow]
@[simp] theorem memories_toHome (c key a) : memories (s.toHome c key a) = memories s := by rfl
@[simp] theorem memories_freeHome (a) : memories (s.freeHome a).2 = memories s := by simp [State.freeHome]
@[simp] theorem memories_answerBy (a) : memories (s.answerBy a) = memories s := by simp [State.answerBy]

@[simp] theorem memories_freeBlocks (a lo) :
    memories (s.freeBlocks a lo).2.2 = memories s := by simp [State.freeBlocks]

@[simp] theorem memories_startLoad (a lat home) : memories (s.startLoad a lat home) = memories s := by
  simp only [State.startLoad]
  split <;> simp

@[simp] theorem memories_dropOwn (sid addr len) :
    memories (s.dropOwn sid addr len) = memories s := by simp [State.dropOwn]

@[simp] theorem memories_startStore (a home kind) : memories (s.startStore a home kind) = memories s := by
  simp only [State.startStore]
  split <;> simp

@[simp] theorem memories_noteSync (sid col hnd off pa key) :
    memories (s.noteSync sid col hnd off pa key) = memories s := by simp [State.noteSync]

@[simp] theorem memories_clamp (sid part) : memories (s.clamp sid part) = memories s := by rfl
@[simp] theorem memories_dropPages (die l) : memories (s.dropPages die l) = memories s := by simp [State.dropPages]
@[simp] theorem memories_arrivalOf (a hit) : memories (s.arrivalOf a hit).2 = memories s := by simp [State.arrivalOf]

@[simp] theorem memories_deliver (a l) : memories (s.deliver a l) = memories s := by
  simp only [State.deliver]
  repeat' split
  all_goals simp

@[simp] theorem memories_toPeer (a m op) : memories (s.toPeer a m op) = memories s := by rfl
@[simp] theorem memories_rest (a c) : memories (s.rest a c) = memories s := by rfl
@[simp] theorem memories_nextTime (a) : memories (s.nextTime a) = memories s := by simp [State.nextTime]
@[simp] theorem memories_took (a) : memories (s.took a) = memories s := by simp [State.took]

theorem memories_of_engineTurn {s t : State} {a} (h : s.engineTurn a = some t) : memories t = memories s := by
  unfold State.engineTurn at h
  split at h
  · next hb =>
    obtain ⟨-, h⟩ := Option.ite_none_left_eq_some.1 h
    cases h
    exact memories_of_acceptBy hb
  · cases h

@[simp] theorem memories_wrote (a) : memories (s.wrote a) = memories s := by
  unfold State.wrote
  split <;> simp

@[simp] theorem memories_errorAt (a) : memories (s.errorAt a) = memories s := by
  unfold State.errorAt
  repeat' split
  all_goals simp

@[simp] theorem memories_holdAccess (d a) : memories (s.holdAccess d a) = memories s := by simp [State.holdAccess]

@[simp] theorem memories_deliverTo (a data tags ctag bad) :
    memories (s.deliverTo a data tags ctag bad) = memories s := by simp [State.deliverTo]

/-! ### `Machine/MemFam.lean` -/

@[simp] theorem memories_spadLoad (d addr n al) :
    memories (s.spadLoad d addr n al) = memories s := by simp [State.spadLoad]

@[simp] theorem memories_spadStore (data addr n al) :
    memories (s.spadStore data addr n al) = memories s := by simp [State.spadStore]

@[simp] theorem memories_globalLoad (d hn off n al k rdc ac) :
    memories (s.globalLoad d hn off n al k rdc ac) = memories s := by simp [State.globalLoad]

@[simp] theorem memories_globalStore (hn off n al data tags k rdc ac kind ct) :
    memories (s.globalStore hn off n al data tags k rdc ac kind ct) = memories s := by simp [State.globalStore]

@[simp] theorem memories_homeBy (ids c) : memories (s.homeBy ids c) = memories s := by rfl
@[simp] theorem memories_setRtn (die k n r) : memories (s.setRtn die k n r) = memories s := by simp [State.setRtn]

/-! ### `Machine/Sync.lean` -/

@[simp] theorem memories_startSync (a d kind) : memories (s.startSync a d kind) = memories s := by
  simp only [State.startSync]
  split <;> simp

/-- A check of handle and bounds leaves the memories as they are when what follows does. -/
@[simp] theorem memories_withEngine (h off n k) (hk : ∀ t, memories (k t) = memories t) :
    memories (s.withEngine h off n k) = memories s := by simp [State.withEngine, hk]

@[simp] theorem memories_atomic (g h c w code b) :
    memories (s.atomic g h c w code b) = memories s := by simp [State.atomic]

@[simp] theorem memories_vatomHomes (bound sid l m) (s : State) :
    memories (State.vatomHomes bound sid l m s) = memories s := by
  induction l generalizing m s with
  | nil => rfl
  | cons a l ih => simp [State.vatomHomes, ih]

@[simp] theorem memories_bindWord (r h g add) :
    memories (s.bindWord r h g add) = memories s := by simp [State.bindWord]

@[simp] theorem memories_release (h c m) : memories (s.release h c m) = memories s := by simp [State.release]
@[simp] theorem memories_hwRelease (pa key) : memories (s.hwRelease pa key) = memories s := by rfl

/-! ### `Machine/Gates.lean` -/

@[simp] theorem memories_setGate (n g) : memories (s.setGate n g) = memories s := by rfl

@[simp] theorem memories_writeGflt (r reason) :
    memories (s.writeGflt r reason) = memories s := by simp [State.writeGflt]

@[simp] theorem memories_armRefill (n c) : memories (s.armRefill n c) = memories s := by rfl
@[simp] theorem memories_wakeTakers (n) : memories (s.wakeTakers n) = memories s := by simp [State.wakeTakers]
@[simp] theorem memories_takeDone (n r) : memories (s.takeDone n r) = memories s := by simp [State.takeDone]

@[simp] theorem memories_takeFault (r reason) :
    memories (s.takeFault r reason) = memories s := by simp [State.takeFault]

@[simp] theorem memories_gst (x) : memories (s.gst x) = memories s := by rfl
@[simp] theorem memories_giveKey (k) : memories (s.giveKey k) = memories s := by simp [State.giveKey]
@[simp] theorem memories_newKey (k) : memories (s.newKey k) = memories s := by rfl
@[simp] theorem memories_freezeGate (n) : memories (s.freezeGate n) = memories s := by rfl
@[simp] theorem memories_thawGate (n) : memories (s.thawGate n) = memories s := by rfl

/-! ### `Machine/Remote.lean` -/

@[simp] theorem memories_sendRemote (a p store) : memories (s.sendRemote a p store) = memories s := by rfl
@[simp] theorem memories_answered (id) : memories (s.answered id) = memories s := by rfl

@[simp] theorem memories_complete (w ops data bad ctags) :
    memories (s.complete w ops data bad ctags) = memories s := by
  simp only [State.complete]
  repeat' split
  all_goals simp

@[simp] theorem memories_refusedWindow (a) :
    memories (s.refusedWindow a) = memories s := by simp [State.refusedWindow]

@[simp] theorem memories_poison (pa n) : memories (s.poison pa n) = memories s := by simp [State.poison]

@[simp] theorem memories_lateAt (a) : memories (s.lateAt a) = memories s := by
  unfold State.lateAt
  repeat' split
  all_goals simp

@[simp] theorem memories_reply (p op count ops data ctags) :
    memories (s.reply p op count ops data ctags) = memories s := by rfl

@[simp] theorem memories_packetAgain (p i c) : memories (s.packetAgain p i c) = memories s := by rfl

@[simp] theorem memories_beginBlocks (p) : memories (s.beginBlocks p).2 = memories s := by
  simp only [State.beginBlocks]
  split <;> simp

@[simp] theorem memories_readReply (p) : memories (s.readReply p) = memories s := by rfl
@[simp] theorem memories_setPath (k r) : memories (s.setPath k r) = memories s := by rfl
@[simp] theorem memories_acceptOp (p) : memories (s.acceptOp p) = memories s := by rfl
@[simp] theorem memories_chaseNode (p) : memories (s.chaseNode p) = memories s := by simp [State.chaseNode]

theorem memories_of_beginWrite {s : State} {p r} (h : s.beginWrite p = some r) : memories r.2 = memories s := by
  unfold State.beginWrite at h
  split at h
  · cases h
  · split at h
    · cases h
      simp
    · obtain ⟨-, h⟩ := Option.ite_none_left_eq_some.1 h
      cases h
      simp

@[simp] theorem memories_writeReply (p) : memories (s.writeReply p) = memories s := by rfl
@[simp] theorem memories_tryFlags (k) : memories (s.tryFlags k) = memories s := by simp [State.tryFlags]
@[simp] theorem memories_storeDone (p) : memories (s.storeDone p) = memories s := by simp [State.storeDone]

/-! ### `Machine/Queue.lean` -/

@[simp] theorem memories_updPort (core kind q f) : memories (s.updPort core kind q f) = memories s := by rfl
@[simp] theorem memories_departAt (core q c) : memories (s.departAt core q c) = memories s := by rfl

@[simp] theorem memories_pushEntry (core kind q e part) :
    memories (s.pushEntry core kind q e part) = memories s := by simp [State.pushEntry]

@[simp] theorem memories_servePort (core kind q n) : memories (s.servePort core kind q n) = memories s := by
  induction n generalizing s with
  | zero => rfl
  | succ n ih =>
    unfold State.servePort
    split <;> simp [ih]

@[simp] theorem memories_keepDepths (core kind q) : memories (s.keepDepths core kind q) = memories s := by rfl

@[simp] theorem memories_pushAt (sid kind q e j issue) :
    memories (s.pushAt sid kind q e j issue) = memories s := by simp [State.pushAt]

@[simp] theorem memories_sendCredit (n lane part) : memories (s.sendCredit n lane part) = memories s := by rfl

@[simp] theorem memories_returnCredit (core kind q it part) :
    memories (s.returnCredit core kind q it part) = memories s := by simp [State.returnCredit]

@[simp] theorem memories_popEntry (w it rest) :
    memories (s.popEntry w it rest) = memories s := by simp [State.popEntry]

@[simp] theorem memories_servePops (core kind q n) : memories (s.servePops core kind q n) = memories s := by
  induction n generalizing s with
  | zero => rfl
  | succ n ih =>
    unfold State.servePops
    dsimp only
    split <;> simp [ih]

@[simp] theorem memories_popAt (w) : memories (s.popAt w) = memories s := by simp [State.popAt]

@[simp] theorem memories_landQueue (sid l) : memories (s.landQueue sid l) = memories s := by
  unfold State.landQueue
  split <;> simp

@[simp] theorem memories_bindInForce (sid kind q desc) :
    memories (s.bindInForce sid kind q desc) = memories s := by simp [State.bindInForce]

/-! ### `Machine/Vector.lean` -/

@[simp] theorem memories_vecOut (lat v t l) : memories (s.vecOut lat v t l) = memories s := by rfl

@[simp] theorem memories_mFallback (m rounds) :
    memories (s.mFallback m rounds) = memories s := by simp [State.mFallback]

@[simp] theorem memories_kFallback (k) : memories (s.kFallback k) = memories s := by simp [State.kFallback]

/-! ### `Machine/Async.lean` -/

@[simp] theorem memories_updCmd (sid id f) : memories (s.updCmd sid id f) = memories s := by rfl

@[simp] theorem memories_startAt (c k) : memories (s.startAt c k) = memories s := by
  unfold State.startAt
  split <;> simp

@[simp] theorem memories_kick (sid) : memories (s.kick sid) = memories s := by
  unfold State.kick
  refine (memories_foldl _ _ _ fun t c => ?_).trans (memories_updSeq ..)
  split
  · rfl
  · split <;> simp

@[simp] theorem memories_entryDone (sid id) : memories (s.entryDone sid id) = memories s := by simp [State.entryDone]
@[simp] theorem memories_doneAt (c sid id i) : memories (s.doneAt c sid id i) = memories s := by rfl
@[simp] theorem memories_enqueue (l room) : memories (s.enqueue l room) = memories s := by simp [State.enqueue]
@[simp] theorem memories_updTier (die f) : memories (s.updTier die f) = memories s := by rfl
@[simp] theorem memories_chunkAt (c k a) : memories (s.chunkAt c k a) = memories s := by rfl
@[simp] theorem memories_holdChunk (c d addr a) : memories (s.holdChunk c d addr a) = memories s := by rfl
@[simp] theorem memories_pauseLane (c) : memories (s.pauseLane c) = memories s := by rfl
@[simp] theorem memories_laneFrom (c n k) : memories (s.laneFrom c n k) = memories s := by rfl
@[simp] theorem memories_slipLane (c k) : memories (s.slipLane c k) = memories s := by rfl

@[simp] theorem memories_chunkBad (c o n bad) : memories (s.chunkBad c o n bad) = memories s := by
  unfold State.chunkBad
  split <;> simp

@[simp] theorem memories_laneBusy (c) : memories (s.laneBusy c) = memories s := by simp [State.laneBusy]
@[simp] theorem memories_startCopy (c) : memories (s.startCopy c) = memories s := by simp [State.startCopy]
@[simp] theorem memories_setDetached (die l) : memories (s.setDetached die l) = memories s := by rfl
@[simp] theorem memories_engage (die) : memories (s.engage die) = memories s := by simp [State.engage]

@[simp] theorem memories_startDetached (c) :
    memories (s.startDetached c) = memories s := by simp [State.startDetached]

@[simp] theorem memories_disengage (c n) : memories (s.disengage c n) = memories s := by simp [State.disengage]

@[simp] theorem memories_moveChunk (c n data tags bad) : memories (s.moveChunk c n data tags bad) = memories s := by
  simp only [State.moveChunk]
  repeat' split
  all_goals simp

@[simp] theorem memories_chunkAccess (a) : memories (s.chunkAccess a) = memories s := by simp [State.chunkAccess]

@[simp] theorem memories_readDetached (c n) :
    memories (s.readDetached c n) = memories s := by simp [State.readDetached]

@[simp] theorem memories_releaseCopy (c) : memories (s.releaseCopy c) = memories s := by rfl

@[simp] theorem memories_chunkWritten (c n) :
    memories (s.chunkWritten c n) = memories s := by simp [State.chunkWritten]

@[simp] theorem memories_writeDetached (c n data tags bad) :
    memories (s.writeDetached c n data tags bad) = memories s := by simp [State.writeDetached]

@[simp] theorem memories_noteMerge (c) : memories (s.noteMerge c) = memories s := by simp [State.noteMerge]
@[simp] theorem memories_startMerge (c) : memories (s.startMerge c) = memories s := by simp [State.startMerge]

/-! ### `Machine/Matrix.lean` -/

@[simp] theorem memories_setAccRow (sid r x) : memories (s.setAccRow sid r x) = memories s := by rfl
@[simp] theorem memories_setNestRow (sid r x) : memories (s.setNestRow sid r x) = memories s := by rfl
@[simp] theorem memories_noteRows (sid rows) : memories (s.noteRows sid rows) = memories s := by simp [State.noteRows]

@[simp] theorem memories_placeWeights (core m bf b x sc) :
    memories (s.placeWeights core m bf b x sc) = memories s := by rfl

@[simp] theorem memories_placeBlocks (core m bf first l) :
    memories (s.placeBlocks core m bf first l) = memories s := by simp [State.placeBlocks]

@[simp] theorem memories_placeSome (core m some_ bf first l) :
    memories (s.placeSome core m some_ bf first l) = memories s := by simp [State.placeSome]

@[simp] theorem memories_loadedQuads (sid m whole bf src addr mldb) :
    memories (s.loadedQuads sid m whole bf src addr mldb) = memories s := by rfl

theorem memories_of_takeEntry {s : State} {core kind q part r} (h : s.takeEntry core kind q part = some r) :
    memories r.2 = memories s := by
  unfold State.takeEntry at h
  split at h
  · cases h
  · split at h
    · cases h
    · cases h
      simp

@[simp] theorem memories_nextPart (b c) : memories (s.nextPart b c) = memories s := by rfl

@[simp] theorem memories_loadPart (b) : memories (s.loadPart b) = memories s := by
  simp only [State.loadPart]
  split
  · simp
  · split
    · simp
    · split
      · next h => simp [memories_of_takeEntry h]
      · simp

@[simp] theorem memories_nestGo (sid) : memories (s.nestGo sid) = memories s := by
  simp only [State.nestGo]
  split <;> simp

@[simp] theorem memories_updNest (sid f) : memories (s.updNest sid f) = memories s := by rfl

@[simp] theorem memories_accumulateRow (sid t r a) : memories (s.accumulateRow sid t r a) = memories s := by
  refine memories_foldl _ _ _ fun u e => ?_
  dsimp only
  split <;> simp

@[simp] theorem memories_endLevel (t sid st l) :
    memories (State.endLevel t sid st l).1 = memories st.1 := by simp [State.endLevel]

@[simp] theorem memories_noteTile (sid n) : memories (s.noteTile sid n) = memories s := by simp [State.noteTile]
@[simp] theorem memories_nestRow (sid c) : memories (s.nestRow sid c) = memories s := by simp [State.nestRow]
@[simp] theorem memories_nestWait (sid) : memories (s.nestWait sid) = memories s := by simp [State.nestWait]
@[simp] theorem memories_nestDone (sid) : memories (s.nestDone sid) = memories s := by simp [State.nestDone]

@[simp] theorem memories_placeDrain (sid toTile addr len data) :
    memories (s.placeDrain sid toTile addr len data) = memories s := by simp [State.placeDrain]

@[simp] theorem memories_nestAct (sid d a) : memories (s.nestAct sid d a) = memories s := by
  cases a with
  | pop kind q =>
    simp only [State.nestAct]
    split
    · simp
    · next h => simp [memories_of_takeEntry h]
  | reloadQ j =>
    simp only [State.nestAct]
    split
    · simp
    · next h => simp [memories_of_takeEntry h]
  | _ => simp [State.nestAct]

/-! ### `Machine/Attention.lean` -/

@[simp] theorem memories_updCtx (die ctx f) : memories (s.updCtx die ctx f) = memories s := by rfl
@[simp] theorem memories_setPlist (die n l) : memories (s.setPlist die n l) = memories s := by rfl
@[simp] theorem memories_setEngine (die e x) : memories (s.setEngine die e x) = memories s := by rfl

@[simp] theorem memories_pool_ (die part cold) : memories (s.pool_ die part cold).2 = memories s := by
  simp only [State.pool_]
  split <;> simp

@[simp] theorem memories_setPool (die part cold n) : memories (s.setPool die part cold n) = memories s := by rfl

theorem memories_of_takePage {s : State} {die part r} (h : s.takePage die part = some r) :
    memories r.2 = memories s := by
  simp only [State.takePage] at h
  split at h
  · cases h
    simp
  · split at h
    · split at h
      · cases h
        simp
      · obtain ⟨-, h⟩ := Option.ite_none_right_eq_some.1 h
        cases h
        simp
    · obtain ⟨-, h⟩ := Option.ite_none_right_eq_some.1 h
      cases h
      simp

theorem memories_of_takePages {s : State} {die part first n r} (h : s.takePages die part first n = some r) :
    memories r.2 = memories s := by
  induction n generalizing s first r with
  | zero => cases h; rfl
  | succ n ih =>
    simp only [State.takePages] at h
    split at h
    · cases h
    · next hp =>
      obtain ⟨x, hx, rfl⟩ := Option.map_eq_some_iff.1 h
      exact (ih hx).trans (memories_of_takePage hp)

@[simp] theorem memories_freeList (die n) : memories (s.freeList die n) = memories s := by simp [State.freeList]
@[simp] theorem memories_recordsAt (a c recs w) : memories (s.recordsAt a c recs w) = memories s := by rfl
@[simp] theorem memories_rattEnds (a c stat) : memories (s.rattEnds a c stat) = memories s := by rfl
@[simp] theorem memories_noteSpans (sid l) : memories (s.noteSpans sid l) = memories s := by simp [State.noteSpans]

@[simp] theorem memories_startAttention (c) : memories (s.startAttention c) = memories s := by
  unfold State.startAttention
  split <;> simp

@[simp] theorem memories_attDrop (a breaks) : memories (s.attDrop a breaks) = memories s := by
  unfold State.attDrop
  split <;> simp

@[simp] theorem memories_nextTurn (die n) : memories (s.nextTurn die n) = memories s := by
  simp only [State.nextTurn]
  split <;> simp

@[simp] theorem memories_attArrive (a) : memories (s.attArrive a) = memories s := by simp [State.attArrive]
@[simp] theorem memories_tookTurn (a) : memories (s.tookTurn a) = memories s := by simp [State.tookTurn]
@[simp] theorem memories_breakCtx (a) : memories (s.breakCtx a) = memories s := by rfl

@[simp] theorem memories_append (a) : memories (s.append a) = memories s := by
  simp only [State.append]
  split
  · simp
  · split
    · simp
    · split
      · simp
      · next h => simp [memories_of_takePages h]

@[simp] theorem memories_warm (a) : memories (s.warm a) = memories s := by simp [State.warm]
@[simp] theorem memories_suspend (die u w) : memories (s.suspend die u w) = memories s := by rfl

@[simp] theorem memories_attRun (a e) : memories (s.attRun a e) = memories s := by
  simp only [State.attRun]
  repeat' split
  all_goals simp

/-! ### `Machine/Collective.lean` -/

@[simp] theorem memories_updColl (n f) : memories (s.updColl n f) = memories s := by rfl
@[simp] theorem memories_startColl (c) : memories (s.startColl c) = memories s := by rfl
@[simp] theorem memories_closeRound (n) : memories (s.closeRound n) = memories s := by simp [State.closeRound]

@[simp] theorem memories_collTo (c bytes round status flags) :
    memories (s.collTo c bytes round status flags) = memories s := by rfl

@[simp] theorem memories_collFlags (c l) : memories (s.collFlags c l) = memories s := by simp [State.collFlags]
@[simp] theorem memories_openNext (n) : memories (s.openNext n) = memories s := by simp [State.openNext]

@[simp] theorem memories_collReturn (n r st out) :
    memories (s.collReturn n r st out) = memories s := by simp [State.collReturn]

@[simp] theorem memories_emitOwn (part p) : memories (s.emitOwn part p) = memories s := by rfl
@[simp] theorem memories_collRoot (n r) : memories (s.collRoot n r) = memories s := by simp [State.collRoot]
@[simp] theorem memories_tierWake (die) : memories (s.tierWake die) = memories s := by rfl
@[simp] theorem memories_tierAccept (die m) : memories (s.tierAccept die m) = memories s := by rfl
@[simp] theorem memories_startPfs (c) : memories (s.startPfs c) = memories s := by rfl

@[simp] theorem memories_revoke (part va size die move) :
    memories (s.revoke part va size die move) = memories s := by simp [State.revoke]

@[simp] theorem memories_dropTlb (part va size) : memories (s.dropTlb part va size) = memories s := by rfl
@[simp] theorem memories_pageGone (part va size) : memories (s.pageGone part va size) = memories s := by rfl

@[simp] theorem memories_markRevoked (part va size) : memories (s.markRevoked part va size) = memories s := by
  simp only [State.markRevoked]
  split <;> simp

@[simp] theorem memories_passedYield (sid off) : memories (s.passedYield sid off) = memories s := by rfl

/-! ### `Machine/Domain.lean` -/

@[simp] theorem memories_replayHeld (die) : memories (s.replayHeld die) = memories s := by simp [State.replayHeld]
@[simp] theorem memories_dropDomain (die k) : memories (s.dropDomain die k) = memories s := by rfl
@[simp] theorem memories_enable (die k) : memories (s.enable die k) = memories s := by simp [State.enable]

/-! ### `Machine/SysReg.lean` -/

@[simp] theorem memories_effect (k i a) : memories (s.effect k i a) = memories s := by rfl

@[simp] theorem memories_writePcmd (v) : memories (s.writePcmd v) = memories s := by
  unfold State.writePcmd
  repeat' split
  all_goals simp

@[simp] theorem memories_writeGcmd (v) : memories (s.writeGcmd v) = memories s := by
  unfold State.writeGcmd
  split <;> simp

@[simp] theorem memories_writeHub (sid n v) : memories (s.writeHub sid n v) = memories s := by
  unfold State.writeHub
  split <;> simp

@[simp] theorem memories_writeDie (die n v) : memories (s.writeDie die n v) = memories s := by simp [State.writeDie]

/-! ### `Machine/Frames.lean` -/

@[simp] theorem memories_emptyQueues (sid) : memories (s.emptyQueues sid).2 = memories s := by
  unfold State.emptyQueues
  refine memories_foldl_snd _ _ _ fun b kind => memories_foldl_snd _ _ _ fun b n => ?_
  dsimp only
  split <;> simp

@[simp] theorem memories_dropWaits (sid) : memories (s.dropWaits sid) = memories s := by rfl
@[simp] theorem memories_schedWake (die) : memories (s.schedWake die) = memories s := by rfl
@[simp] theorem memories_freeHalf (sid) : memories (s.freeHalf sid) = memories s := by rfl
@[simp] theorem memories_freeSlot (part slot) : memories (s.freeSlot part slot) = memories s := by rfl

@[simp] theorem memories_awaitPage (part va) :
    memories (s.awaitPage part va) = memories s := by simp [State.awaitPage]

@[simp] theorem memories_noteFrame (sid live) :
    memories (s.noteFrame sid live) = memories s := by simp [State.noteFrame]

@[simp] theorem memories_restoreAcc (sid va) :
    memories (s.restoreAcc sid va) = memories s := by simp [State.restoreAcc]

@[simp] theorem memories_restoreWeights (sid sv) :
    memories (s.restoreWeights sid sv) = memories s := by simp [State.restoreWeights]

@[simp] theorem memories_clearWstate (sid) : memories (s.clearWstate sid) = memories s := by rfl

@[simp] theorem memories_resumeCmds (sid) : memories (s.resumeCmds sid) = memories s := by
  refine (memories_kick ..).trans (memories_foldl _ _ _ fun t c => ?_)
  dsimp only
  split
  · split <;> simp
  · rfl

/-! ### `Machine/Sched.lean` -/

@[simp] theorem memories_loadWords (sid code words) :
    memories (s.loadWords sid code words) = memories s := by simp [State.loadWords]

@[simp] theorem memories_updLaunch (id f) : memories (s.updLaunch id f) = memories s := by rfl
@[simp] theorem memories_dropLaunch (id) : memories (s.dropLaunch id) = memories s := by rfl
@[simp] theorem memories_timeWake (l) : memories (s.timeWake l) = memories s := by rfl

@[simp] theorem memories_placeSaved (t half) : memories (s.placeSaved t half) = memories s := by
  unfold State.placeSaved
  split <;> simp

@[simp] theorem memories_reserve (c l) : memories (s.reserve c l) = memories s := by simp [State.reserve]
@[simp] theorem memories_unclaim (die) : memories (s.unclaim die) = memories s := by rfl
@[simp] theorem memories_armSlice (sid) : memories (s.armSlice sid) = memories s := by simp [State.armSlice]
@[simp] theorem memories_schedAll : memories s.schedAll = memories s := by rfl

@[simp] theorem memories_startHalf (sid t ybound) :
    memories (s.startHalf sid t ybound) = memories s := by simp [State.startHalf]

@[simp] theorem memories_armDeadline (sid) : memories (s.armDeadline sid) = memories s := by
  simp only [State.armDeadline]
  split <;> simp

@[simp] theorem memories_goFrom (sid pc) : memories (s.goFrom sid pc) = memories s := by simp [State.goFrom]
@[simp] theorem memories_unplace (l) : memories (s.unplace l) = memories s := by simp [State.unplace]

@[simp] theorem memories_acquired (l) : memories (s.acquired l) = memories s := by
  unfold State.acquired
  split <;> simp

@[simp] theorem memories_resumeAgain (x sid i) : memories (s.resumeAgain x sid i) = memories s := by rfl
@[simp] theorem memories_unplaceSaved (x sid) : memories (s.unplaceSaved x sid) = memories s := by rfl

/-! ### `Machine/Partition.lean` -/

@[simp] theorem memories_pstat (res reason) : memories (s.pstat res reason) = memories s := by rfl

@[simp] theorem memories_grantContexts (p old new) :
    memories (s.grantContexts p old new) = memories s := by simp [State.grantContexts]

@[simp] theorem memories_loadRecord (p img) : memories (s.loadRecord p img) = memories s := by simp [State.loadRecord]
@[simp] theorem memories_rearm (p) : memories (s.rearm p) = memories s := by simp [State.rearm]

@[simp] theorem memories_applyModify (p img) : memories (s.applyModify p img) = memories s := by
  unfold State.applyModify
  rw [memories_schedAll, memories_pstat, memories_saved, memories_updPart, memories_loadRecord]

@[simp] theorem memories_askSlots (l) : memories (s.askSlots l) = memories s := by simp [State.askSlots]
@[simp] theorem memories_stopTasks (l) : memories (s.stopTasks l) = memories s := by simp [State.stopTasks]
@[simp] theorem memories_beginStop (p k) : memories (s.beginStop p k) = memories s := by simp [State.beginStop]

@[simp] theorem memories_reloadDetached (p) : memories (s.reloadDetached p) = memories s := by
  refine memories_foldl _ _ _ fun t e => ?_
  split <;> simp

@[simp] theorem memories_resumeEntries (p) :
    memories (s.resumeEntries p) = memories s := by simp [State.resumeEntries]

@[simp] theorem memories_releasePart (p) : memories (s.releasePart p) = memories s := by simp [State.releasePart]

@[simp] theorem memories_spareClusterUsed (die n) :
    memories (s.spareClusterUsed die n) = memories s := by simp [State.spareClusterUsed]

/-! ### `Machine/Reset.lean` -/

@[simp] theorem memories_beginReset (p destroy) : memories (s.beginReset p destroy) = memories s := by rfl
@[simp] theorem memories_quietHalf (p sid) : memories (s.quietHalf p sid) = memories s := by rfl
@[simp] theorem memories_discard (p) : memories (s.discard p) = memories s := by rfl
@[simp] theorem memories_wipeHalf (p sid) : memories (s.wipeHalf p sid) = memories s := by rfl
@[simp] theorem memories_dropOld (p) : memories (s.dropOld p) = memories s := by rfl
@[simp] theorem memories_unfreeze (p) : memories (s.unfreeze p) = memories s := by simp [State.unfreeze]

/-! ### `Machine/Fabric.lean` -/

@[simp] theorem memories_equalise (n) : memories (s.equalise n).2 = memories s := by simp [State.equalise]
@[simp] theorem memories_acceptEntry (n p) : memories (s.acceptEntry n p) = memories s := by simp [State.acceptEntry]

@[simp] theorem memories_accept (n p) : memories (s.accept n p) = memories s := by
  unfold State.accept
  split <;> simp

@[simp] theorem memories_failLink (n) : memories (s.failLink n) = memories s := by simp [State.failLink]
@[simp] theorem memories_watchLink (n) : memories (s.watchLink n) = memories s := by rfl
@[simp] theorem memories_resend (x) : memories (s.resend x) = memories s := by rfl
@[simp] theorem memories_loadBeacons : memories s.loadBeacons = memories s := by rfl
@[simp] theorem memories_trained (n) : memories (s.trained n).1 = memories s := by simp [State.trained]

@[simp] theorem memories_trainAll : memories s.trainAll.1 = memories s := by
  refine memories_foldl_fst _ _ _ fun b n => ?_
  rw [← memories_trained b.1 n]
  split <;> simp [*]

@[simp] theorem memories_alignLink (n compare agrees meas) :
    memories (s.alignLink n compare agrees meas) = memories s := by simp [State.alignLink]

@[simp] theorem memories_align : memories s.align = memories s := by simp [State.align]

@[simp] theorem memories_turnAway (die) : memories (s.turnAway die) = memories s := by
  refine (memories_foldl _ _ _ fun t h => ?_).trans ((memories_foldl _ _ _ fun t a => memories_errorAt t a).trans rfl)
  split <;> simp

/-! ### `Machine/HostEv.lean` -/

@[simp] theorem memories_updVf (f k) : memories (s.updVf f k) = memories s := by rfl

@[simp] theorem memories_ringNext : memories s.ringNext = memories s := by
  simp only [State.ringNext]
  split <;> simp

@[simp] theorem memories_startRing (f) : memories (s.startRing f) = memories s := by simp [State.startRing]

/-! ### `Machine/Boot.lean` -/

@[simp] theorem memories_beginStep (n) : memories (s.beginStep n) = memories s := by simp [State.beginStep]
@[simp] theorem memories_stopModule (why) : memories (s.stopModule why) = memories s := by rfl

@[simp] theorem memories_drawImages (n) : memories (s.drawImages n).2 = memories s := by
  induction n generalizing s with
  | zero => rfl
  | succ n ih => simp [State.drawImages, ih]

@[simp] theorem memories_sawImage (x) : memories (s.sawImage x) = memories s := by rfl
@[simp] theorem memories_setDigest (i x) : memories (s.setDigest i x) = memories s := by rfl

@[simp] theorem memories_startMgmt (sid words handler code) :
    memories (s.startMgmt sid words handler code) = memories s := by simp [State.startMgmt]

@[simp] theorem memories_startHypervisor (x) :
    memories (s.startHypervisor x) = memories s := by simp [State.startHypervisor]

@[simp] theorem memories_strike (x) : memories (s.strike x) = memories s := by
  unfold State.strike
  split <;> simp

/-! ### `Machine/Fetch.lean` -/

@[simp] theorem memories_fetchOne (sid) : memories (s.fetchOne sid) = memories s := by
  simp only [State.fetchOne]
  split <;> simp

@[simp] theorem memories_fetchN (sid n) : memories (s.fetchN sid n) = memories s := by
  induction n generalizing s with
  | zero => rfl
  | succ n ih => simp [State.fetchN, ih]

@[simp] theorem memories_fetchAhead (sid) : memories (s.fetchAhead sid) = memories s := by simp [State.fetchAhead]

/-! ### `Machine/Control.lean` -/

@[simp] theorem memories_deliverHere (sid resume) :
    memories (s.deliverHere sid resume) = memories s := by simp [State.deliverHere]

@[simp] theorem memories_newDeadline (sid d) :
    memories (s.newDeadline sid d) = memories s := by simp [State.newDeadline]

@[simp] theorem memories_ended : memories s.ended = memories s := by rfl
@[simp] theorem memories_armWaitb (sid t) : memories (s.armWaitb sid t) = memories s := by rfl

@[simp] theorem memories_noteLevels (sid op) :
    memories (s.noteLevels sid op) = memories s := by simp [State.noteLevels]

/-! ### `Machine/Landing.lean` -/

@[simp] theorem memories_landOne (sid l) : memories (s.landOne sid l) = memories s := by
  unfold State.landOne
  split <;> simp

/-! ### `Machine/Run.lean` -/

theorem memories_of_popEvent {s : State} {lo hi r} (h : s.popEvent lo hi = some r) : memories r.2 = memories s := by
  unfold State.popEvent at h
  split at h
  · cases h
  · cases h
    rfl

@[simp] theorem memories_fetchAll : memories s.fetchAll = memories s := by simp [State.fetchAll]
@[simp] theorem memories_beginWord (sid e) : memories (s.beginWord sid e) = memories s := by rfl
@[simp] theorem memories_withDecoded (d) : memories (s.withDecoded d) = memories s := by rfl

@[simp] theorem memories_noteSpots (e) : memories (s.noteSpots e) = memories s := by
  unfold State.noteSpots
  split <;> simp

@[simp] theorem memories_finishWord (e) : memories (s.finishWord e) = memories s := by simp [State.finishWord]

end Frame

/-! ## Writers: the operations that write a store keep it canonical -/

section Writers

variable {s : State} (hs : WellFormed (memories s))

include hs

theorem wellFormed_hostWrite {a n x : Nat} :
    WellFormed (memories { s with hostMem := Memory.write s.hostMem a n x }) :=
  ⟨hs.1, hs.2.1, wf_write _ _ _ _ hs.2.2⟩

/-! ### `Machine/Memory.lean` -/

@[simp] theorem wellFormed_dramWrite {loc pa key data mask tag ctag bad} :
    WellFormed (memories (s.dramWrite loc pa key data mask tag ctag bad)) :=
  dramWrite_canonical s loc pa key data mask tag ctag bad hs

@[simp] theorem wellFormed_drainOne {k} : WellFormed (memories (s.drainOne k)) := by
  unfold State.drainOne
  split <;> simp [hs]

@[simp] theorem wellFormed_buffer {p e} : WellFormed (memories (s.buffer p e)) := by simp [State.buffer, hs]

@[simp] theorem wellFormed_drainSlice {k} : WellFormed (memories (s.drainSlice k)) := by
  refine wellFormed_foldl hs fun t x ht => ?_
  simp [ht]

@[simp] theorem wellFormed_fill {p pa key b lru} : WellFormed (memories (s.fill p pa key b lru)) := by
  simp only [State.fill]
  repeat' split
  all_goals simp [hs]

@[simp] theorem wellFormed_readBlock {pa key al cls free} :
    WellFormed (memories (s.readBlock pa key al cls free).2) := by
  simp only [State.readBlock]
  repeat' split
  all_goals simp [hs]

@[simp] theorem wellFormed_writeBlock {pa key data mask tag ctag al} :
    WellFormed (memories (s.writeBlock pa key data mask tag ctag al)) := by
  simp only [State.writeBlock]
  repeat' split
  all_goals simp [hs]

@[simp] theorem wellFormed_poke {pa n x key} : WellFormed (memories (s.poke pa n x key)) := by
  unfold State.poke
  split
  · simpa using hs
  · exact wellFormed_foldl hs fun t x ht => wellFormed_writeBlock ht

@[simp] theorem wellFormed_spadWrite {cluster a n x tag} : WellFormed (memories (s.spadWrite cluster a n x tag)) :=
  spadWrite_canonical s cluster a n x tag hs

@[simp] theorem wellFormed_spadWriteRow {cluster a l} : WellFormed (memories (s.spadWriteRow cluster a l)) :=
  wellFormed_spadWrite (wellFormed_spadWrite hs)

@[simp] theorem wellFormed_rdcRead {die pa key part gen al cls free} :
    WellFormed (memories (s.rdcRead die pa key part gen al cls free).2) := by
  unfold State.rdcRead
  split <;> simp [hs]

@[simp] theorem wellFormed_vpoke {part va n x} : WellFormed (memories (s.vpoke part va n x)) := by
  refine wellFormed_foldl hs fun t x ht => ?_
  split <;> simp [ht]

/-! ### `Machine/Access.lean` -/

@[simp] theorem wellFormed_syncFill {pa key} : WellFormed (memories (s.syncFill pa key)) := by
  unfold State.syncFill
  split <;> simp [hs]

@[simp] theorem wellFormed_engineWrite {pa n key x} : WellFormed (memories (s.engineWrite pa n key x)) := by
  refine wellFormed_foldl hs fun t x ht => ?_
  simp [ht]

@[simp] theorem wellFormed_setSync {pa key o} :
    WellFormed (memories (s.setSync pa key o)) := by simp [State.setSync, hs]

@[simp] theorem wellFormed_grantAt {pa key} : WellFormed (memories (s.grantAt pa key)) := by
  unfold State.grantAt
  refine wellFormed_foldl ?_ fun t e ht => ?_
  · simp [hs]
  · dsimp only
    split <;> simp [ht]

@[simp] theorem wellFormed_loadBlock {a b} :
    WellFormed (memories (s.loadBlock a b).2) := by simp [State.loadBlock, hs]

@[simp] theorem wellFormed_loadBlocks {a} : WellFormed (memories (s.loadBlocks a).2) :=
  wellFormed_foldl_on Prod.snd hs fun _ _ hx => wellFormed_loadBlock hx

@[simp] theorem wellFormed_storeBlock {a i} : WellFormed (memories (s.storeBlock a i)) := by
  unfold State.storeBlock
  dsimp only
  split
  · exact wellFormed_spadWrite hs
  · exact wellFormed_writeBlock hs

@[simp] theorem wellFormed_storeBlocks {a} : WellFormed (memories (s.storeBlocks a)) := by
  refine wellFormed_foldl hs fun t x ht => ?_
  simp [ht]

theorem wellFormed_of_turn {a i r} (h : s.turn a i = some r) : WellFormed (memories r.2) := by
  simp only [State.turn] at h
  split at h
  · split at h
    · cases h
      exact wellFormed_storeBlock hs
    · cases h
      exact hs
  · obtain ⟨t, ht, rfl⟩ := Option.map_eq_some_iff.1 h
    have ht : WellFormed (memories t) := by
      split at ht
      · cases ht
        exact hs
      · rw [memories_of_acceptBy ht]
        exact hs
    split <;> simp [ht]

@[simp] theorem wellFormed_takeBlocks {a} : WellFormed (memories (s.takeBlocks a).2) := by
  refine wellFormed_foldl_on (fun x : Access × List (Nat × Nat) × State => x.2.2) hs fun x e hx => ?_
  dsimp only
  split
  · exact hx
  · split
    · exact hx
    · split
      · next h => exact wellFormed_of_turn hx h
      · exact hx

@[simp] theorem wellFormed_prefetchLine {pa key} : WellFormed (memories (s.prefetchLine pa key)) := by
  simp only [State.prefetchLine]
  repeat' split
  all_goals simp [hs]

@[simp] theorem wellFormed_bindAt {a page size scope} :
    WellFormed (memories (s.bindAt a page size scope)) := by simp [State.bindAt, hs]

@[simp] theorem wellFormed_unbindAt {a page size} :
    WellFormed (memories (s.unbindAt a page size)) := by simp [State.unbindAt, hs]

@[simp] theorem wellFormed_atomicAt {a code w x y} : WellFormed (memories (s.atomicAt a code w x y)) := by
  simp only [State.atomicAt]
  split <;> simp [hs]

@[simp] theorem wellFormed_faddAt {a x} : WellFormed (memories (s.faddAt a x)) := by simp [State.faddAt, hs]

@[simp] theorem wellFormed_readAt {a} : WellFormed (memories (s.readAt a)) := by
  simp only [State.readAt]
  repeat' split
  all_goals simp [hs]

@[simp] theorem wellFormed_writeAt {a} : WellFormed (memories (s.writeAt a)) := by
  unfold State.writeAt
  split
  · rw [memories_wrote]
    exact wellFormed_hostWrite hs
  · simpa using hs
  · dsimp only
    split <;> simp [hs]

@[simp] theorem wellFormed_hwStore {a} : WellFormed (memories (s.hwStore a)) := by
  unfold State.hwStore
  split <;> simp [hs]

@[simp] theorem wellFormed_atHome {a} : WellFormed (memories (s.atHome a)) := by
  unfold State.atHome
  split
  · exact hs
  split
  · simpa using hs
  split
  · simpa using hs
  split
  · simpa using hs
  split
  · simp [hs]
  · simp [hs]
  · split
    · simpa using hs
    · next h =>
      have ht := hs
      rw [← memories_of_acceptBy h] at ht
      dsimp only
      split <;> simp [ht]
  · split
    · simpa using hs
    · next h =>
      have ht := hs
      rw [← memories_of_engineTurn h] at ht
      split <;> simp [ht]

/-! ### `Machine/MemFam.lean` -/

@[simp] theorem wellFormed_sweepLines {die pa len drop} : WellFormed (memories (s.sweepLines die pa len drop)) := by
  simp only [State.sweepLines, memories_mk, memories_eta]
  split
  · exact hs
  · refine wellFormed_foldl hs fun t e ht => ?_
    split
    · refine wellFormed_foldl ht fun u l hu => ?_
      split <;> simp [hu]
    · exact ht

/-! ### `Machine/Sync.lean` -/

@[simp] theorem wellFormed_releaseAt {pa key sid} :
    WellFormed (memories (s.releaseAt pa key sid)) := by simp [State.releaseAt, hs]

/-! ### `Machine/Remote.lean` -/

@[simp] theorem wellFormed_setWord64 {e off x} :
    WellFormed (memories (s.setWord64 e off x)) := by simp [State.setWord64, hs]

@[simp] theorem wellFormed_remoteCas {e p} : WellFormed (memories (s.remoteCas e p).2) := by
  simp only [State.remoteCas]
  split
  · exact wellFormed_foldl hs fun _ _ ht => wellFormed_setWord64 ht
  · exact hs

@[simp] theorem wellFormed_remoteEnqueue {e p} : WellFormed (memories (s.remoteEnqueue e p).2) := by
  simp only [State.remoteEnqueue]
  split
  · exact hs
  · split
    · exact hs
    · refine wellFormed_setWord64 ?_
      split <;> simp [hs]

theorem wellFormed_of_packetBlock {p i r} (h : s.packetBlock p i = some r) : WellFormed (memories r.2) := by
  obtain ⟨t, ht, rfl⟩ := Option.map_eq_some_iff.1 h
  have ht : WellFormed (memories t) := by
    rw [memories_of_acceptLine ht]
    exact hs
  split <;> simp [ht]

@[simp] theorem wellFormed_packetBlocks {p} : WellFormed (memories (s.packetBlocks p).2) := by
  refine wellFormed_foldl_on (fun x : Packet × List (Nat × Nat) × State => x.2.2) hs fun x e hx => ?_
  dsimp only
  split
  · exact hx
  · split
    · next h => exact wellFormed_of_packetBlock hx h
    · exact hx

@[simp] theorem wellFormed_peerRead {p} : WellFormed (memories (s.peerRead p)) := by
  simp only [State.peerRead]
  split <;> simp [hs]

@[simp] theorem wellFormed_performOp {p} : WellFormed (memories (s.performOp p)) := by
  unfold State.performOp
  split <;> simp [hs]

@[simp] theorem wellFormed_storeOn {p} : WellFormed (memories (s.storeOn p)) := by
  simp only [State.storeOn]
  split <;> simp [hs]

/-! ### `Machine/Async.lean` -/

@[simp] theorem wellFormed_readChunk {c n} :
    WellFormed (memories (s.readChunk c n).2) := by simp [State.readChunk, hs]

@[simp] theorem wellFormed_writeChunk {c n data tags} :
    WellFormed (memories (s.writeChunk c n data tags)) := by simp [State.writeChunk, hs]

@[simp] theorem wellFormed_laneChunk {c n} : WellFormed (memories (s.laneChunk c n)) := by
  simp only [State.laneChunk]
  repeat' split
  all_goals simp [hs]

@[simp] theorem wellFormed_laneData {c n data tags bad write} :
    WellFormed (memories (s.laneData c n data tags bad write)) := by
  simp only [State.laneData]
  repeat' split
  all_goals simp [hs]

@[simp] theorem wellFormed_writeRows {cluster addr rs len l} :
    WellFormed (memories (s.writeRows cluster addr rs len l)) := by
  refine wellFormed_foldl hs fun t x ht => ?_
  simp [ht]

/-! ### `Machine/Collective.lean` -/

@[simp] theorem wellFormed_startTier {c} : WellFormed (memories (s.startTier c)) := by simp [State.startTier, hs]

@[simp] theorem wellFormed_moveEnds {die m ok} :
    WellFormed (memories (s.moveEnds die m ok)) := by simp [State.moveEnds, hs]

@[simp] theorem wellFormed_writePage {dst size key x} :
    WellFormed (memories (s.writePage dst size key x)) := by simp [State.writePage, hs]

@[simp] theorem wellFormed_switchPage {die m e leaf h} : WellFormed (memories (s.switchPage die m e leaf h)) := by
  unfold State.switchPage
  refine wellFormed_moveEnds ?_
  dsimp only
  split
  · rw [memories_toPeer, memories_fresh]
    refine wellFormed_poke ?_
    simp [hs]
  · refine wellFormed_writePage (wellFormed_poke ?_)
    simp [hs]

@[simp] theorem wellFormed_placePage {die m e leaf h x} : WellFormed (memories (s.placePage die m e leaf h x)) := by
  unfold State.placePage
  split <;> simp [hs]

/-! ### `Machine/Frames.lean` -/

@[simp] theorem wellFormed_notice {part x} : WellFormed (memories (s.notice part x)) := by
  simp only [State.notice]
  repeat' split
  all_goals simp [hs]

@[simp] theorem wellFormed_noticeOf {part kind reason sid va t} :
    WellFormed (memories (s.noticeOf part kind reason sid va t)) := by simp [State.noticeOf, hs]

@[simp] theorem wellFormed_writeFrame {part va size l} : WellFormed (memories (s.writeFrame part va size l)) :=
  wellFormed_foldl (wellFormed_vpoke hs) fun _ _ ht => wellFormed_vpoke ht

/-! ### `Machine/Sched.lean` -/

@[simp] theorem wellFormed_validate {l} : WellFormed (memories (s.validate l)) := by simp [State.validate, hs]

@[simp] theorem wellFormed_placeLaunch {id} : WellFormed (memories (s.placeLaunch id)) := by
  unfold State.placeLaunch
  split <;> simp [hs]

@[simp] theorem wellFormed_placeAll {all l res} : WellFormed (memories (State.placeAll all l res s)) := by
  induction l generalizing s res with
  | nil => exact hs
  | cons c l ih =>
    simp only [State.placeAll]
    split
    · exact ih hs
    · split
      · refine ih ?_
        split <;> simp [hs]
      · refine ih ?_
        simpa using hs

@[simp] theorem wellFormed_schedule {die} : WellFormed (memories (s.schedule die)) := by simp [State.schedule, hs]

@[simp] theorem wellFormed_giveAway {sid live resume} :
    WellFormed (memories (s.giveAway sid live resume)) := by simp [State.giveAway, hs]

/-! ### `Machine/Partition.lean` -/

@[simp] theorem wellFormed_migrate {p} : WellFormed (memories (s.migrate p)) := by
  unfold State.migrate
  rw [memories_updPart, memories_foldl _ _ _ fun t n => memories_freezeGate ..]
  exact wellFormed_foldl (wellFormed_vpoke hs) fun _ _ ht => wellFormed_vpoke ht

@[simp] theorem wellFormed_degrade {p die} : WellFormed (memories (s.degrade p die)) := by simp [State.degrade, hs]

@[simp] theorem wellFormed_loseCluster {die n} : WellFormed (memories (s.loseCluster die n)) := by
  refine wellFormed_foldl ?_ fun t p ht => ?_
  · simpa using hs
  · simp [ht]

@[simp] theorem wellFormed_losePair {die n} : WellFormed (memories (s.losePair die n)) := by
  refine wellFormed_foldl ?_ fun t p ht => ?_
  · simpa using hs
  · simp [ht]

@[simp] theorem wellFormed_writeBack {die k} : WellFormed (memories (s.writeBack die k)) := by
  simp only [State.writeBack, memories_mk, memories_eta]
  exact wellFormed_foldl (wellFormed_foldl hs fun _ _ ht => wellFormed_drainSlice ht) fun _ _ ht =>
    wellFormed_dramWrite ht

@[simp] theorem wellFormed_sparePairUsed {die n} : WellFormed (memories (s.sparePairUsed die n)) := by
  refine wellFormed_foldl hs fun t x ht => ?_
  simp [ht]

/-! ### `Machine/Reset.lean` -/

@[simp] theorem wellFormed_wipeSpad {cluster} : WellFormed (memories (s.wipeSpad cluster)) :=
  ⟨hs.1, wf_filter _ _ hs.2.1, hs.2.2⟩

@[simp] theorem wellFormed_keepRegions {k} : WellFormed (memories (s.keepRegions k)) :=
  wellFormed_foldl (wellFormed_foldl hs fun _ _ ht => wellFormed_dramWrite ht) fun _ _ ht => wellFormed_dramWrite ht

@[simp] theorem wellFormed_wipeSlice {k} : WellFormed (memories (s.wipeSlice k)) := by simp [State.wipeSlice, hs]

@[simp] theorem wellFormed_wipeSram {p} : WellFormed (memories (s.wipeSram p)) := by
  unfold State.wipeSram
  rw [memories_foldl _ _ _ fun t j => by simp]
  simp only [memories_mk, memories_eta]
  refine wellFormed_foldl (wellFormed_foldl ?_ fun t d ht => ?_) fun t d ht => ?_
  · simpa using hs
  · exact wellFormed_foldl ht fun _ _ hu => wellFormed_wipeSpad hu
  · exact wellFormed_foldl ht fun _ _ hu => wellFormed_wipeSlice hu

@[simp] theorem wellFormed_wipeDram {p} : WellFormed (memories (s.wipeDram p)) := by
  refine wellFormed_foldl hs fun t x ht => ?_
  simp [ht]

/-! ### `Machine/Fabric.lean` -/

@[simp] theorem wellFormed_wipePage {x} : WellFormed (memories (s.wipePage x)) := by
  refine wellFormed_foldl hs fun t x ht => ?_
  simp [ht]

@[simp] theorem wellFormed_wipeDie {die} : WellFormed (memories (s.wipeDie die)) := by
  simp only [State.wipeDie, memories_mk, memories_eta]
  refine wellFormed_foldl (wellFormed_foldl ?_ fun _ _ ht => wellFormed_wipeSlice ht) fun _ _ ht =>
    wellFormed_wipePage ht
  split
  · exact wellFormed_foldl hs fun _ _ ht => wellFormed_wipeSpad ht
  · exact hs

/-! ### `Machine/HostEv.lean` -/

@[simp] theorem wellFormed_completion {f entry status reason value} :
    WellFormed (memories (s.completion f entry status reason value)) := by
  simp only [State.completion]
  split
  · simpa using hs
  · have ht : WellFormed (memories (s.drew.updVf f fun q => { q with cqt := (s.vf f).after (s.vf f).cqt })) := by
      simpa using hs
    rw [memories_mk]
    exact ⟨ht.1, ht.2.1, wf_write _ _ _ _ hs.2.2⟩

@[simp] theorem wellFormed_performEntry {f e} : WellFormed (memories (s.performEntry f e)) := by
  simp only [State.performEntry]
  split <;> simp [hs]

@[simp] theorem wellFormed_vstore {part va n x tag} : WellFormed (memories (s.vstore part va n x tag)) := by
  refine wellFormed_foldl hs fun t x ht => ?_
  split <;> simp [ht]

@[simp] theorem wellFormed_placeSect {part img base x t k} :
    WellFormed (memories (s.placeSect part img base x t k)) := by
  refine wellFormed_foldl hs fun t x ht => ?_
  simp [ht]

@[simp] theorem wellFormed_setImage {part img i} :
    WellFormed (memories (s.setImage part img i)) := by simp [State.setImage, hs]

@[simp] theorem wellFormed_loadImage {part img base at_ x code tts} :
    WellFormed (memories (s.loadImage part img base at_ x code tts)) := by
  simp only [State.loadImage, memories_mk, memories_eta]
  refine wellFormed_setImage (wellFormed_foldl (wellFormed_poke (wellFormed_poke hs)) fun t e ht => ?_)
  split <;> simp [ht]

@[simp] theorem wellFormed_wipeModule : WellFormed (memories s.wipeModule) := ⟨rfl, rfl, hs.2.2⟩

/-! ### `Machine/Boot.lean` -/

@[simp] theorem wellFormed_bootWipe : WellFormed (memories s.bootWipe) := by simp [State.bootWipe, hs]

@[simp] theorem wellFormed_bootEffect {n} : WellFormed (memories (s.bootEffect n).2) := by
  unfold State.bootEffect
  split
  · simpa using hs
  · dsimp only
    split <;> simp [hs]
  · refine wellFormed_foldl_on Prod.snd ?_ fun r x hr => ?_
    · simpa using hs
    · split <;> simpa using hr
  · simpa using hs
  · simp [hs]
  · exact hs

/-! ### `Machine/Control.lean` -/

@[simp] theorem wellFormed_yield {d live} : WellFormed (memories (s.yield d live)) := by simp [State.yield, hs]

end Writers

/-! ## Meanings: what an instruction or an event does keeps the stores canonical -/

section Meanings

variable {s : State} (hs : WellFormed (memories s))

include hs

/-! ### `Machine/Ops.lean` -/

theorem nextWellFormed_issue {n k} (hk : ∀ t, memories (k t) = memories t) :
    NextWellFormed (s.issue n k) := by simpa [State.issue, hk] using hs

theorem nextWellFormed_issueFree {k} (hk : ∀ t, memories (k t) = memories t) :
    NextWellFormed (s.issueFree k) := by simpa [State.issueFree, hk] using hs

/-! ### `Machine/Access.lean` -/

theorem nextWellFormed_execAccessHomeCycle : NextWellFormed (execAccessHomeCycle s) := by
  unfold execAccessHomeCycle
  split <;> simp [hs]

theorem nextWellFormed_execAcqGrant : NextWellFormed (execAcqGrant s) := by
  unfold execAcqGrant
  repeat' split
  all_goals simp [hs]

theorem nextWellFormed_execLoadDataDelivery : NextWellFormed (execLoadDataDelivery s) := by
  unfold execLoadDataDelivery
  repeat' split
  all_goals simp [hs]

theorem nextWellFormed_execArrivalViolation : NextWellFormed (execArrivalViolation s) := by
  simp only [execArrivalViolation]
  repeat' split
  all_goals simp [hs]

theorem nextWellFormed_execHostAccessArrival : NextWellFormed (execHostAccessArrival s) := by
  unfold execHostAccessArrival
  repeat' split
  all_goals simp [hs]

/-! ### `Machine/MemFam.lean` -/

theorem nextWellFormed_execXlt {h g} : NextWellFormed (execXlt h g s) := nextWellFormed_issue hs fun _ => by simp

theorem nextWellFormed_execXltWalkComplete : NextWellFormed (execXltWalkComplete s) := by
  unfold execXltWalkComplete
  split
  · split
    · simpa using hs
    · dsimp only
      split
      · simpa using hs
      · split
        · simpa using hs
        · split <;> simpa using hs
  · simpa using hs

theorem nextWellFormed_execXltNw {h g} : NextWellFormed (execXltNw h g s) := by
  refine nextWellFormed_issue hs fun t => ?_
  dsimp only
  split <;> simp

theorem nextWellFormed_execHrel {h} : NextWellFormed (execHrel h s) := nextWellFormed_issue hs fun _ => by simp
theorem nextWellFormed_execHchk {p h} : NextWellFormed (execHchk p h s) := nextWellFormed_issue hs fun _ => by simp

theorem nextWellFormed_execHinfo {g h sel} : NextWellFormed (execHinfo g h sel s) :=
  nextWellFormed_issue hs fun _ => by simp

theorem nextWellFormed_tileForm {occ v k} (hk : ∀ t, memories (k t) = memories t) :
    NextWellFormed (s.tileForm occ v k) :=
  nextWellFormed_issue hs fun t => memories_userOnly t _ fun u => memories_withTiles u _ _ hk

theorem nextWellFormed_execLds {v b c} : NextWellFormed (execLds v b c s) := by
  simp only [execLds]
  refine nextWellFormed_issue hs fun t => ?_
  simp

theorem nextWellFormed_execSts {v b c} : NextWellFormed (execSts v b c s) := by
  simp only [execSts]
  refine nextWellFormed_issue hs fun t => ?_
  simp

theorem nextWellFormed_execLdsg {g b c} : NextWellFormed (execLdsg g b c s) :=
  nextWellFormed_issue hs fun _ => by simp

theorem nextWellFormed_execStsg {g b c} : NextWellFormed (execStsg g b c s) :=
  nextWellFormed_issue hs fun _ => by simp

theorem nextWellFormed_loadTile {r v g c k ac} : NextWellFormed (s.loadTile r v g c k ac) :=
  nextWellFormed_tileForm hs fun _ => by simp

theorem nextWellFormed_loadScalar {r g g2 c k} : NextWellFormed (s.loadScalar r g g2 c k) :=
  nextWellFormed_issue hs fun _ => by simp

theorem nextWellFormed_loadTaggedTile {r v g c k ac} : NextWellFormed (s.loadTaggedTile r v g c k ac) :=
  nextWellFormed_tileForm hs fun _ => by simp

theorem nextWellFormed_storeTile {r v g c k} : NextWellFormed (s.storeTile r v g c k) :=
  nextWellFormed_tileForm hs fun _ => by simp

theorem nextWellFormed_storeScalar {r g g2 c k} : NextWellFormed (s.storeScalar r g g2 c k) :=
  nextWellFormed_issue hs fun _ => by simp

theorem nextWellFormed_storeQuantised {r v g c k} : NextWellFormed (s.storeQuantised r v g c k) :=
  nextWellFormed_tileForm hs fun _ => by simp

theorem nextWellFormed_storeNonTemporal {r v g c k} : NextWellFormed (s.storeNonTemporal r v g c k) :=
  nextWellFormed_tileForm hs fun _ => by simp

theorem nextWellFormed_execDrain : NextWellFormed (execDrain s) := nextWellFormed_issue hs fun _ => by simp

theorem nextWellFormed_execDrainComplete : NextWellFormed (execDrainComplete s) := by
  unfold execDrainComplete
  repeat' split
  all_goals simp [hs]

theorem nextWellFormed_execPfl {h b c} : NextWellFormed (execPfl h b c s) := nextWellFormed_issue hs fun _ => by simp

theorem nextWellFormed_cacheRange {g b c drop} : NextWellFormed (s.cacheRange g b c drop) :=
  nextWellFormed_issue hs fun _ => by simp

theorem nextWellFormed_execCacheRangeComplete : NextWellFormed (execCacheRangeComplete s) := by
  unfold execCacheRangeComplete
  repeat' split
  all_goals simp [hs]

theorem nextWellFormed_retention {n g perm k} (hk : ∀ t x i r, memories (k t x i r) = memories t) :
    NextWellFormed (s.retention n g perm k) := by
  refine nextWellFormed_issue hs fun t => ?_
  dsimp only
  split <;> simp [hk]

theorem nextWellFormed_execRpin {n h g} : NextWellFormed (execRpin n h g s) :=
  nextWellFormed_retention hs fun _ _ _ _ => by simp

theorem nextWellFormed_execRunpin {n h} : NextWellFormed (execRunpin n h s) :=
  nextWellFormed_retention hs fun _ _ _ _ => by simp

theorem nextWellFormed_execRetentionInForce : NextWellFormed (execRetentionInForce s) := by
  unfold execRetentionInForce
  split
  · refine nextWellFormed_ite (by simpa using hs) ?_
    split
    · simpa using hs
    · refine nextWellFormed_ite ?_ ?_
      all_goals simpa using hs
  · simpa using hs

/-! ### `Machine/Sync.lean` -/

theorem nextWellFormed_execAadd {g h c w} : NextWellFormed (execAadd g h c w s) :=
  nextWellFormed_issue hs fun _ => by simp

theorem nextWellFormed_execAand {g h c w} : NextWellFormed (execAand g h c w s) :=
  nextWellFormed_issue hs fun _ => by simp

theorem nextWellFormed_execAor {g h c w} : NextWellFormed (execAor g h c w s) :=
  nextWellFormed_issue hs fun _ => by simp

theorem nextWellFormed_execAxor {g h c w} : NextWellFormed (execAxor g h c w s) :=
  nextWellFormed_issue hs fun _ => by simp

theorem nextWellFormed_execAmin {g h c sn w} : NextWellFormed (execAmin g h c sn w s) :=
  nextWellFormed_issue hs fun _ => by simp

theorem nextWellFormed_execAmax {g h c sn w} : NextWellFormed (execAmax g h c sn w s) :=
  nextWellFormed_issue hs fun _ => by simp

theorem nextWellFormed_execAswp {g h c w} : NextWellFormed (execAswp g h c w s) :=
  nextWellFormed_issue hs fun _ => by simp

theorem nextWellFormed_execAcas {g h c w} : NextWellFormed (execAcas g h c w s) :=
  nextWellFormed_issue hs fun _ => by simp

theorem nextWellFormed_execVatom {v i o} : NextWellFormed (execVatom v i o s) := by
  refine nextWellFormed_issue hs fun t => memories_userOnly t _ fun t => ?_
  split
  · simp
  · refine memories_withTiles t _ _ fun t => ?_
    dsimp only
    split <;> simp

theorem nextWellFormed_execAcq {g h c sh} : NextWellFormed (execAcq g h c sh s) :=
  nextWellFormed_issue hs fun _ => by simp

theorem nextWellFormed_execAcqTry {g h c sh} : NextWellFormed (execAcqTry g h c sh s) :=
  nextWellFormed_issue hs fun _ => by simp

theorem nextWellFormed_execBind {r h g} : NextWellFormed (execBind r h g s) :=
  nextWellFormed_issue hs fun _ => by simp

theorem nextWellFormed_execUnbind {r h g} : NextWellFormed (execUnbind r h g s) :=
  nextWellFormed_issue hs fun _ => by simp

theorem nextWellFormed_execRel {h c} : NextWellFormed (execRel h c s) := nextWellFormed_issue hs fun _ => by simp

theorem nextWellFormed_execRelQueues {h c mask} : NextWellFormed (execRelQueues h c mask s) :=
  nextWellFormed_issue hs fun _ => by simp

theorem nextWellFormed_execRelEffect : NextWellFormed (execRelEffect s) := by
  unfold execRelEffect
  repeat' split
  all_goals simp [hs]

theorem nextWellFormed_execSfence {q sc} : NextWellFormed (execSfence q sc s) :=
  nextWellFormed_issue hs fun _ => by simp

theorem nextWellFormed_execSfenceComplete : NextWellFormed (execSfenceComplete s) := by
  simp only [execSfenceComplete]
  repeat' split
  all_goals simp [hs]

theorem nextWellFormed_execKmov {a b} : NextWellFormed (execKmov a b s) := nextWellFormed_issue hs fun _ => by simp

theorem nextWellFormed_execKnarrow {a b g} : NextWellFormed (execKnarrow a b g s) :=
  nextWellFormed_issue hs fun _ => by simp

theorem nextWellFormed_execKperm {a b i} : NextWellFormed (execKperm a b i s) :=
  nextWellFormed_issue hs fun _ => by simp

theorem nextWellFormed_execKld {a h c m} : NextWellFormed (execKld a h c m s) :=
  nextWellFormed_issue hs fun _ => by simp

theorem nextWellFormed_execKst {a h c m} : NextWellFormed (execKst a h c m s) :=
  nextWellFormed_issue hs fun _ => by simp

/-! ### `Machine/Gates.lean` -/

theorem nextWellFormed_execGateRefill : NextWellFormed (execGateRefill s) := by
  simp only [execGateRefill]
  repeat' split
  all_goals simp [hs]

theorem nextWellFormed_execGpass {p g} : NextWellFormed (execGpass p g s) := nextWellFormed_issue hs fun _ => by simp

theorem nextWellFormed_execGatePassAdmit : NextWellFormed (execGatePassAdmit s) := by
  simp only [execGatePassAdmit]
  repeat' split
  all_goals simp [hs]

theorem nextWellFormed_execGateVersionEffect : NextWellFormed (execGateVersionEffect s) := by
  simp only [execGateVersionEffect]
  repeat' split
  all_goals simp [hs]

theorem nextWellFormed_execGtake {v g} : NextWellFormed (execGtake v g s) := nextWellFormed_issue hs fun _ => by simp

theorem nextWellFormed_execGateTakeArrival : NextWellFormed (execGateTakeArrival s) := by
  simp only [execGateTakeArrival]
  repeat' split
  all_goals simp [hs]

theorem nextWellFormed_execGateTakeComplete : NextWellFormed (execGateTakeComplete s) := by
  unfold execGateTakeComplete
  split <;> simp [hs]

theorem nextWellFormed_execGstat {d g} : NextWellFormed (execGstat d g s) := nextWellFormed_issue hs fun _ => by simp

theorem nextWellFormed_execGateStatusSample : NextWellFormed (execGateStatusSample s) := by
  simp only [execGateStatusSample]
  repeat' split
  all_goals simp [hs]

theorem nextWellFormed_execGateCreate : NextWellFormed (execGateCreate s) := by
  simp only [execGateCreate]
  repeat' split
  all_goals simp [hs]

theorem nextWellFormed_execGateUpdate : NextWellFormed (execGateUpdate s) := by
  simp only [execGateUpdate]
  repeat' split
  all_goals simp [hs]

theorem nextWellFormed_execGateRevoke : NextWellFormed (execGateRevoke s) := by
  simp only [execGateRevoke]
  repeat' split
  all_goals simp [hs]

theorem nextWellFormed_execGateFree : NextWellFormed (execGateFree s) := by
  simp only [execGateFree]
  repeat' split
  all_goals simp [hs]

theorem nextWellFormed_execGateFreeze : NextWellFormed (execGateFreeze s) := by
  unfold execGateFreeze
  split <;> simp [hs]

theorem nextWellFormed_execGateExport : NextWellFormed (execGateExport s) := by
  simp only [execGateExport]
  repeat' split
  all_goals simp [hs]

theorem nextWellFormed_execGateImport : NextWellFormed (execGateImport s) := by
  simp only [execGateImport]
  repeat' split
  all_goals simp [hs]

/-! ### `Machine/Remote.lean` -/

theorem nextWellFormed_execCld {g k c} : NextWellFormed (execCld g k c s) := nextWellFormed_issue hs fun _ => by simp

theorem nextWellFormed_execCst {g k c r} : NextWellFormed (execCst g k c r s) :=
  nextWellFormed_issue hs fun _ => by simp

theorem nextWellFormed_execCldv {v k c} : NextWellFormed (execCldv v k c s) :=
  nextWellFormed_tileForm hs fun _ => by simp

theorem nextWellFormed_execCstv {v k c} : NextWellFormed (execCstv v k c s) :=
  nextWellFormed_tileForm hs fun _ => by simp

theorem nextWellFormed_execRcas2 {g k c n} : NextWellFormed (execRcas2 g k c n s) :=
  nextWellFormed_issue hs fun _ => by simp

theorem nextWellFormed_execRenq {g k c} : NextWellFormed (execRenq g k c s) :=
  nextWellFormed_issue hs fun _ => by simp

theorem nextWellFormed_execRchase {g k c} : NextWellFormed (execRchase g k c s) :=
  nextWellFormed_issue hs fun _ => by simp

theorem nextWellFormed_execWld {g w c} : NextWellFormed (execWld g w c s) := by
  refine nextWellFormed_issue hs fun t => memories_seamOnly t _ fun t => ?_
  dsimp only
  split <;> simp

theorem nextWellFormed_execWst {g w c} : NextWellFormed (execWst g w c s) := by
  refine nextWellFormed_issue hs fun t => ?_
  dsimp only
  split <;> simp

theorem nextWellFormed_execRemoteReplyArrival : NextWellFormed (execRemoteReplyArrival s) := by
  unfold execRemoteReplyArrival
  repeat' split
  all_goals simp [hs]

theorem nextWellFormed_execWstErrorCompletion : NextWellFormed (execWstErrorCompletion s) := by
  unfold execWstErrorCompletion
  repeat' split
  all_goals simp [hs]

theorem nextWellFormed_execRequestTimeout : NextWellFormed (execRequestTimeout s) := by
  unfold execRequestTimeout
  repeat' split
  all_goals simp [hs]

theorem nextWellFormed_execRemoteOpExecute : NextWellFormed (execRemoteOpExecute s) := by
  unfold execRemoteOpExecute
  split
  · next p _ =>
    split
    · simpa using hs
    refine nextWellFormed_ite ?_ (nextWellFormed_ite ?_ (nextWellFormed_ite ?_ (nextWellFormed_ite ?_ ?_)))
    · simpa using hs
    · refine (nextWellFormed_next _).2 ?_
      split
      · simpa using hs
      · simp [hs]
    · simpa using hs
    · simpa using hs
    · extract_lets t
      have ht : WellFormed (memories t) := by
        unfold t
        split
        · cases h : s.acceptLine (s.packetAt p).1 with
          | none => exact hs
          | some u =>
            rw [Option.getD_some, memories_of_acceptLine h]
            exact hs
        · exact hs
      clear_value t
      split
      · simpa using ht
      · simpa using ht
      · refine (nextWellFormed_next _).2 ?_
        split
        · simpa using ht
        · exact wellFormed_performOp ht
  · simpa using hs

theorem nextWellFormed_execRemoteStoreArrival : NextWellFormed (execRemoteStoreArrival s) := by
  unfold execRemoteStoreArrival
  split
  · extract_lets k r go u
    have hu : WellFormed (memories u) := by simpa [u] using hs
    have hgo {t : State} (ht : WellFormed (memories t)) : WellFormed (memories (go t)) := by
      unfold go
      split
      · simpa using ht
      split
      · split
        · next h =>
          refine wellFormed_storeOn ?_
          rw [memories_of_beginWrite h]
          exact ht
        · simpa using ht
      · exact wellFormed_storeOn ht
    clear_value go u
    refine nextWellFormed_ite ?_ (nextWellFormed_ite ?_ (nextWellFormed_ite ?_ (nextWellFormed_ite ?_ ?_)))
    · simpa using hs
    · exact (nextWellFormed_next _).2 (hgo hs)
    · refine (nextWellFormed_next _).2 ?_
      split
      · exact hs
      · refine hgo ?_
        simpa using hs
    · simpa using hs
    · refine (nextWellFormed_next _).2 ?_
      split
      · simpa using hu
      · exact hgo hu
  · simpa using hs

theorem nextWellFormed_execReleaseFlagCommit : NextWellFormed (execReleaseFlagCommit s) := by
  unfold execReleaseFlagCommit
  split
  · dsimp only
    refine nextWellFormed_ite ?_ ?_
    · simpa using hs
    split
    · simpa using hs
    · split
      · simpa using hs
      · next h =>
        have ht := hs
        rw [← memories_of_beginWrite h] at ht
        refine (nextWellFormed_next _).2 ?_
        split
        · next h' => simpa using wellFormed_of_packetBlock ht h'
        · simpa using hs
  · simpa using hs

theorem nextWellFormed_execExportTableWrite : NextWellFormed (execExportTableWrite s) := by
  unfold execExportTableWrite
  repeat' split
  all_goals simp [hs]

/-! ### `Machine/Queue.lean` -/

theorem nextWellFormed_issueShort {occ short k} (hk : ∀ t, memories (k t) = memories t) :
    NextWellFormed (s.issueShort occ short k) := by
  unfold State.issueShort
  repeat' split
  all_goals simpa [hk] using hs

theorem nextWellFormed_pushWord {kind p v n} : NextWellFormed (s.pushWord kind p v n) := by
  simp only [State.pushWord]
  refine nextWellFormed_issueShort hs fun t => ?_
  simp

theorem nextWellFormed_popWord {kind v q n} : NextWellFormed (s.popWord kind v q n) := by
  simp only [State.popWord]
  refine nextWellFormed_issueShort hs fun t => ?_
  simp

theorem nextWellFormed_execQrsv {p n} : NextWellFormed (execQrsv p n s) := by
  simp only [execQrsv]
  refine nextWellFormed_issueShort hs fun t => ?_
  simp

theorem nextWellFormed_execQdepth {g k q} : NextWellFormed (execQdepth g k q s) :=
  nextWellFormed_issue hs fun _ => by simp

theorem nextWellFormed_execQbind {p g} : NextWellFormed (execQbind p g s) := nextWellFormed_issue hs fun _ => by simp

theorem nextWellFormed_execLkbind {p g} : NextWellFormed (execLkbind p g s) :=
  nextWellFormed_issue hs fun _ => by simp

theorem nextWellFormed_execQueueEntryArrival : NextWellFormed (execQueueEntryArrival s) := by
  unfold execQueueEntryArrival
  repeat' split
  all_goals simp [hs]

theorem nextWellFormed_execQueueCreditArrival : NextWellFormed (execQueueCreditArrival s) := by
  unfold execQueueCreditArrival
  repeat' split
  all_goals simp [hs]

theorem nextWellFormed_execLinkEntryDepart : NextWellFormed (execLinkEntryDepart s) := by
  simp only [execLinkEntryDepart]
  repeat' split
  all_goals simp [hs]

theorem nextWellFormed_execLinkEntryArrival : NextWellFormed (execLinkEntryArrival s) := by
  simp only [execLinkEntryArrival]
  repeat' split
  all_goals simp [hs]

/-! ### `Machine/Vector.lean` -/

theorem nextWellFormed_vec {tiles occ k} (hk : ∀ t, memories (k t) = memories t) :
    NextWellFormed (s.vec tiles occ k) :=
  nextWellFormed_issue hs fun t => memories_userOnly t _ fun u => memories_withTiles u _ _ hk

theorem nextWellFormed_elementwise {o v a b k m} : NextWellFormed (s.elementwise o v a b k m) :=
  nextWellFormed_vec hs fun _ => by simp

theorem nextWellFormed_bitwise {f useB v a b k m} : NextWellFormed (s.bitwise f useB v a b k m) :=
  nextWellFormed_vec hs fun _ => by simp

theorem nextWellFormed_vcompare {o v a b k m} : NextWellFormed (s.vcompare o v a b k m) :=
  nextWellFormed_vec hs fun _ => by simp

theorem nextWellFormed_execVsel {v a b k m} : NextWellFormed (execVsel v a b k m s) :=
  nextWellFormed_vec hs fun _ => by simp

theorem nextWellFormed_execVmskop {o v a b k m} : NextWellFormed (execVmskop o v a b k m s) :=
  nextWellFormed_vec hs fun _ => by simp

theorem nextWellFormed_fillWith {tiles src v k m rounds f} : NextWellFormed (s.fillWith tiles src v k m rounds f) :=
  nextWellFormed_vec hs fun _ => by simp

theorem nextWellFormed_execVmov {v a k m} : NextWellFormed (execVmov v a k m s) := nextWellFormed_fillWith hs
theorem nextWellFormed_execVfill {v g k m} : NextWellFormed (execVfill v g k m s) := nextWellFormed_fillWith hs
theorem nextWellFormed_execViota {v g n k m} : NextWellFormed (execViota v g n k m s) := nextWellFormed_fillWith hs

theorem nextWellFormed_broadcast {v a k m f} : NextWellFormed (s.broadcast v a k m f) :=
  nextWellFormed_vec hs fun _ => by simp

theorem nextWellFormed_execVbrow {v a g k m} : NextWellFormed (execVbrow v a g k m s) := nextWellFormed_broadcast hs
theorem nextWellFormed_execVbcol {v a g k m} : NextWellFormed (execVbcol v a g k m s) := nextWellFormed_broadcast hs

theorem nextWellFormed_execVgte {g a b k m} : NextWellFormed (execVgte g a b k m s) :=
  nextWellFormed_vec hs fun _ => by simp

theorem nextWellFormed_execVpte {v a b k m} : NextWellFormed (execVpte v a b k m s) :=
  nextWellFormed_vec hs fun _ => by simp

theorem nextWellFormed_reduction {byRow sum v a k m} : NextWellFormed (s.reduction byRow sum v a k m) :=
  nextWellFormed_vec hs fun _ => by simp

theorem nextWellFormed_execVrdot {v a b k m} : NextWellFormed (execVrdot v a b k m s) :=
  nextWellFormed_vec hs fun _ => by simp

theorem nextWellFormed_execVtrn {v a k m} : NextWellFormed (execVtrn v a k m s) :=
  nextWellFormed_vec hs fun _ => by simp

theorem nextWellFormed_zip {n v a k m f} : NextWellFormed (s.zip n v a k m f) :=
  nextWellFormed_vec hs fun _ => by simp

theorem nextWellFormed_execVperm {v a b k m} : NextWellFormed (execVperm v a b k m s) := nextWellFormed_fillWith hs
theorem nextWellFormed_execVrot {v a g k m} : NextWellFormed (execVrot v a g k m s) := nextWellFormed_fillWith hs

theorem nextWellFormed_execVcvt {v a t k m} : NextWellFormed (execVcvt v a t k m s) :=
  nextWellFormed_vec hs fun _ => by simp

theorem nextWellFormed_execVqnt {v a n f} : NextWellFormed (execVqnt v a n f s) :=
  nextWellFormed_vec hs fun _ => by simp

theorem nextWellFormed_execVamx {n a k} : NextWellFormed (execVamx n a k s) := nextWellFormed_vec hs fun _ => by simp

theorem nextWellFormed_specialWord {fn v a k} : NextWellFormed (s.specialWord fn v a k) :=
  nextWellFormed_vec hs fun _ => by simp

theorem nextWellFormed_execShape {val} : NextWellFormed (execShape val s) :=
  nextWellFormed_issueFree hs fun _ => by simp

/-! ### `Machine/Async.lean` -/

theorem nextWellFormed_asyWord {qs k} (hk : ∀ b t, memories (k b t) = memories t) : NextWellFormed (s.asyWord qs k) :=
  nextWellFormed_issueShort hs (hk _)

theorem nextWellFormed_execQfence {m} : NextWellFormed (execQfence m s) := by
  simp only [execQfence]
  refine nextWellFormed_asyWord hs fun b t => ?_
  simp

theorem nextWellFormed_execQfenceDone : NextWellFormed (execQfenceDone s) := by
  unfold execQfenceDone
  split <;> simp [hs]

theorem nextWellFormed_execCpy {q h g m} : NextWellFormed (execCpy q h g m s) :=
  nextWellFormed_asyWord hs fun _ _ => by simp

theorem nextWellFormed_execCpyd {q h g m} : NextWellFormed (execCpyd q h g m s) :=
  nextWellFormed_asyWord hs fun _ _ => by simp

theorem nextWellFormed_execCpyDone : NextWellFormed (execCpyDone s) := by
  simp only [execCpyDone]
  repeat' split
  all_goals simp [hs]

theorem nextWellFormed_execCpydDone : NextWellFormed (execCpydDone s) := by
  unfold execCpydDone
  repeat' split
  all_goals simp [hs]

theorem nextWellFormed_execMerge {q g} : NextWellFormed (execMerge q g s) :=
  nextWellFormed_asyWord hs fun _ _ => by simp

theorem nextWellFormed_execMergeDone : NextWellFormed (execMergeDone s) := by
  unfold execMergeDone
  repeat' split
  all_goals simp [hs]

/-! ### `Machine/Matrix.lean` -/

theorem nextWellFormed_shadowWord {k} : NextWellFormed (s.shadowWord k) :=
  nextWellFormed_issueFree hs fun _ => by simp

theorem nextWellFormed_execMcfg {l g f} : NextWellFormed (execMcfg l g f s) := by
  unfold execMcfg
  split
  · simpa using hs
  · exact nextWellFormed_shadowWord hs

theorem nextWellFormed_execMcfgi {l grp val} : NextWellFormed (execMcfgi l grp val s) := by
  unfold execMcfgi
  split
  · simpa using hs
  · exact nextWellFormed_shadowWord hs

theorem nextWellFormed_execMsrc {k r u i} : NextWellFormed (execMsrc k r u i s) := by
  unfold execMsrc
  split
  · simpa using hs
  · dsimp only
    split
    · next e => simpa using nextWellFormed_shadowWord hs _ e
    · exact nextWellFormed_shadowWord hs

theorem nextWellFormed_execMfmt {a b f q} : NextWellFormed (execMfmt a b f q s) := nextWellFormed_shadowWord hs
theorem nextWellFormed_execMfuse {q f} : NextWellFormed (execMfuse q f s) := nextWellFormed_shadowWord hs
theorem nextWellFormed_execMdur {g} : NextWellFormed (execMdur g s) := nextWellFormed_issue hs fun _ => by simp

theorem nextWellFormed_execMldbComplete : NextWellFormed (execMldbComplete s) := by
  unfold execMldbComplete
  repeat' split
  all_goals simp [hs]

theorem nextWellFormed_execMldb {g q} : NextWellFormed (execMldb g q s) := by
  unfold execMldb
  refine nextWellFormed_ite (by simpa using hs) (nextWellFormed_ite (by simpa using hs) ?_)
  refine nextWellFormed_ite (by simpa using hs) (nextWellFormed_ite (by simpa using hs) ?_)
  refine nextWellFormed_ite (by simpa using hs) (nextWellFormed_ite (by simpa using hs) ?_)
  simpa using hs

theorem nextWellFormed_execNestStep : NextWellFormed (execNestStep s) := by
  unfold execNestStep
  repeat' split
  all_goals simp [hs]

theorem nextWellFormed_execNestEnd : NextWellFormed (execNestEnd s) := by
  unfold execNestEnd
  repeat' split
  all_goals simp [hs]

theorem nextWellFormed_execNestSafeStop : NextWellFormed (execNestSafeStop s) := by
  simp only [execNestSafeStop]
  repeat' split
  all_goals simp [hs]

theorem nextWellFormed_execMgo : NextWellFormed (execMgo s) := by
  simp only [execMgo]
  repeat' split
  all_goals simp [hs]

theorem nextWellFormed_accWord {r n occ ok k} (hk : ∀ t, memories (k t) = memories t) :
    NextWellFormed (s.accWord r n occ ok k) := by
  unfold State.accWord
  repeat' split
  all_goals simpa [hk] using hs

theorem nextWellFormed_execMclr {a b} : NextWellFormed (execMclr a b s) := by
  simp only [execMclr]
  refine nextWellFormed_accWord hs fun t => ?_
  simp

theorem nextWellFormed_execMrd {v r c m} : NextWellFormed (execMrd v r c m s) := by
  unfold execMrd
  split
  · exact nextWellFormed_issue hs memories_illegal
  · refine nextWellFormed_accWord hs fun t => ?_
    simp

theorem nextWellFormed_execMwr {v r c m} : NextWellFormed (execMwr v r c m s) := by
  unfold execMwr
  split
  · exact nextWellFormed_issue hs memories_illegal
  · exact nextWellFormed_accWord hs fun t => memories_land ..

theorem nextWellFormed_execCimParityError : NextWellFormed (execCimParityError s) := by
  unfold execCimParityError
  split <;> simp [hs]

/-! ### `Machine/Attention.lean` -/

theorem nextWellFormed_attWord {i q g} : NextWellFormed (s.attWord i q g) :=
  nextWellFormed_asyWord hs fun _ _ => by simp

theorem nextWellFormed_execRattRecordWrite : NextWellFormed (execRattRecordWrite s) := by
  unfold execRattRecordWrite
  repeat' split
  all_goals simp [hs]

theorem nextWellFormed_execAttentionCommandArrival : NextWellFormed (execAttentionCommandArrival s) := by
  unfold execAttentionCommandArrival
  split <;> simp [hs]

theorem nextWellFormed_execAttentionAccept : NextWellFormed (execAttentionAccept s) := by
  unfold execAttentionAccept
  split
  · refine nextWellFormed_ite ?_ ?_
    · simpa using hs
    · simp [hs]
  · simp [hs]
  · simp [hs]

theorem nextWellFormed_execKappExecute : NextWellFormed (execKappExecute s) := by
  unfold execKappExecute
  split <;> simp [hs]

theorem nextWellFormed_execKrelExecute : NextWellFormed (execKrelExecute s) := by
  simp only [execKrelExecute]
  repeat' split
  all_goals simp [hs]

theorem nextWellFormed_execContextControl : NextWellFormed (execContextControl s) := by
  unfold execContextControl
  repeat' split
  all_goals simp [hs]

theorem nextWellFormed_execAttentionCreditRefill : NextWellFormed (execAttentionCreditRefill s) := by
  unfold execAttentionCreditRefill
  split <;> simp [hs]

theorem nextWellFormed_execRattAdmission : NextWellFormed (execRattAdmission s) := by
  simp only [execRattAdmission]
  repeat' split
  all_goals simp [hs]

/-! ### `Machine/Collective.lean` -/

theorem nextWellFormed_execColl {q v g} : NextWellFormed (execColl q v g s) :=
  nextWellFormed_asyWord hs fun _ _ => by simp

theorem nextWellFormed_execCollArrival : NextWellFormed (execCollArrival s) := by
  unfold execCollArrival
  split
  · refine nextWellFormed_ite ?_ (nextWellFormed_ite ?_ (nextWellFormed_ite ?_ (nextWellFormed_ite ?_ ?_)))
    all_goals simpa using hs
  · simpa using hs

theorem nextWellFormed_execCollRoundComplete : NextWellFormed (execCollRoundComplete s) := by
  simp only [execCollRoundComplete]
  repeat' split
  all_goals simp [hs]

theorem nextWellFormed_execCollResultWrite : NextWellFormed (execCollResultWrite s) := by
  unfold execCollResultWrite
  repeat' split
  all_goals simp [hs]

theorem nextWellFormed_execTier {q h g} : NextWellFormed (execTier q h g s) :=
  nextWellFormed_asyWord hs fun _ _ => by simp

theorem nextWellFormed_execPfs {q h g} : NextWellFormed (execPfs q h g s) :=
  nextWellFormed_asyWord hs fun _ _ => by simp

theorem nextWellFormed_execPfsAccept : NextWellFormed (execPfsAccept s) := by
  unfold execPfsAccept
  repeat' split
  all_goals simp [hs]

theorem nextWellFormed_execTierMoveStart : NextWellFormed (execTierMoveStart s) := by
  simp only [execTierMoveStart]
  repeat' split
  all_goals simp [hs]

theorem nextWellFormed_execPageRevoke : NextWellFormed (execPageRevoke s) := by
  unfold execPageRevoke
  repeat' split
  all_goals simp [hs]

theorem nextWellFormed_execRevocationComplete : NextWellFormed (execRevocationComplete s) := by
  simp only [execRevocationComplete]
  repeat' split
  all_goals simp [hs]

theorem nextWellFormed_execTierMoveDone : NextWellFormed (execTierMoveDone s) := by
  simp only [execTierMoveDone]
  repeat' split
  all_goals simp [hs]

theorem nextWellFormed_execAsyEntryStart : NextWellFormed (execAsyEntryStart s) := by
  unfold execAsyEntryStart
  repeat' split
  all_goals simp [hs]

/-! ### `Machine/Domain.lean` -/

theorem nextWellFormed_execDcfgWrite : NextWellFormed (execDcfgWrite s) := by
  simp only [execDcfgWrite]
  repeat' split
  all_goals simp [hs]

theorem nextWellFormed_execHmaskWrite : NextWellFormed (execHmaskWrite s) := by
  unfold execHmaskWrite
  split <;> simp [hs]

theorem nextWellFormed_execRtnWrite : NextWellFormed (execRtnWrite s) := by
  unfold execRtnWrite
  split
  · refine nextWellFormed_ite ?_ (nextWellFormed_ite ?_ ?_)
    all_goals simpa using hs
  · simpa using hs

theorem nextWellFormed_execDomainBsyEnd : NextWellFormed (execDomainBsyEnd s) := by
  unfold execDomainBsyEnd
  split <;> simp [hs]

/-! ### `Machine/SysReg.lean` -/

theorem nextWellFormed_execRdsr {g r} : NextWellFormed (execRdsr g r s) := by
  simp only [execRdsr]
  refine nextWellFormed_issue hs fun t => ?_
  simp

theorem nextWellFormed_execSmode {t} : NextWellFormed (execSmode t s) := nextWellFormed_issue hs fun _ => by simp

theorem nextWellFormed_execWrsr {g r} : NextWellFormed (execWrsr g r s) := by
  simp only [execWrsr]
  refine nextWellFormed_issue hs fun t => ?_
  simp

theorem nextWellFormed_execClampcntWrite : NextWellFormed (execClampcntWrite s) := by
  unfold execClampcntWrite
  split <;> simp [hs]

theorem nextWellFormed_execCollGroupWrite : NextWellFormed (execCollGroupWrite s) := by
  unfold execCollGroupWrite
  split <;> simp [hs]

/-! ### `Machine/Frames.lean` -/

theorem nextWellFormed_execFullFrameSave : NextWellFormed (execFullFrameSave s) := by
  simp only [execFullFrameSave]
  repeat' split
  all_goals simp [hs]

theorem nextWellFormed_execFullFrameSaveEnd : NextWellFormed (execFullFrameSaveEnd s) := by
  simp only [execFullFrameSaveEnd]
  repeat' split
  all_goals simp [hs]

theorem nextWellFormed_execFatalFrameFree : NextWellFormed (execFatalFrameFree s) := by
  unfold execFatalFrameFree
  repeat' split
  all_goals simp [hs]

/-! ### `Machine/Sched.lean` -/

theorem nextWellFormed_execLaunchReceive : NextWellFormed (execLaunchReceive s) := by
  simp only [execLaunchReceive]
  repeat' split
  all_goals simp [hs]

theorem nextWellFormed_execTimeSliceEnd : NextWellFormed (execTimeSliceEnd s) := by
  unfold execTimeSliceEnd
  repeat' split
  all_goals simp [hs]

theorem nextWellFormed_execSchedulerPlacement : NextWellFormed (execSchedulerPlacement s) := by
  unfold execSchedulerPlacement
  split
  · simp [hs]
  · exact (nextWellFormed_next _).2 (wellFormed_foldl hs fun _ _ ht => wellFormed_schedule ht)
  · refine (nextWellFormed_next _).2 (wellFormed_foldl ?_ fun _ _ ht => wellFormed_schedule ht)
    simpa using hs
  · split
    · simpa using hs
    · refine nextWellFormed_ite ?_ (nextWellFormed_ite ?_ ?_)
      · simpa using hs
      · simpa using hs
      · simp [hs]
  · refine nextWellFormed_ite ?_ (nextWellFormed_ite ?_ ?_)
    · simpa using hs
    · simpa using hs
    · simpa using hs
  · refine nextWellFormed_ite ?_ (nextWellFormed_ite ?_ (nextWellFormed_ite ?_ ?_))
    · simpa using hs
    · simpa using hs
    · simpa using hs
    · simpa using hs
  · simpa using hs

theorem nextWellFormed_execLaunchBegin : NextWellFormed (execLaunchBegin s) := by
  simp only [execLaunchBegin]
  repeat' split
  all_goals simp [hs]

theorem nextWellFormed_execFullFrameRestore : NextWellFormed (execFullFrameRestore s) := by
  unfold execFullFrameRestore
  repeat' split
  all_goals simp [hs]

theorem nextWellFormed_execTaskResume : NextWellFormed (execTaskResume s) := by
  unfold execTaskResume
  split
  · split
    · simpa using hs
    · refine nextWellFormed_ite (by simpa using hs) (nextWellFormed_ite (by simpa using hs) ?_)
      dsimp only
      split
      · simpa using hs
      · rw [nextWellFormed_next, memories_takeEvent, memories_goFrom, memories_saved]
        simpa using hs
  · simpa using hs

theorem nextWellFormed_execYieldHandover : NextWellFormed (execYieldHandover s) := by
  unfold execYieldHandover
  repeat' split
  all_goals simp [hs]

/-! ### `Machine/Partition.lean` -/

theorem nextWellFormed_execPartitionCreate : NextWellFormed (execPartitionCreate s) := by
  simp only [execPartitionCreate]
  repeat' split
  all_goals simp [hs]

theorem nextWellFormed_execPartitionModify : NextWellFormed (execPartitionModify s) := by
  simp only [execPartitionModify]
  repeat' split
  all_goals simp [hs]

theorem nextWellFormed_execModifyApply : NextWellFormed (execModifyApply s) := by
  simp only [execModifyApply]
  repeat' split
  all_goals simp [hs]

theorem nextWellFormed_execPartitionStop : NextWellFormed (execPartitionStop s) := by
  unfold execPartitionStop
  split <;> simp [hs]

theorem nextWellFormed_execMfreeze : NextWellFormed (execMfreeze s) := by
  unfold execMfreeze
  split <;> simp [hs]

theorem nextWellFormed_execPartitionStopComplete : NextWellFormed (execPartitionStopComplete s) := by
  simp only [execPartitionStopComplete]
  repeat' split
  all_goals simp [hs]

theorem nextWellFormed_execPartitionRelease : NextWellFormed (execPartitionRelease s) := by
  unfold execPartitionRelease
  split <;> simp [hs]

theorem nextWellFormed_execMthaw : NextWellFormed (execMthaw s) := by
  simp only [execMthaw]
  repeat' split
  all_goals simp [hs]

theorem nextWellFormed_execResourceRetire : NextWellFormed (execResourceRetire s) := by
  simp only [execResourceRetire]
  repeat' split
  all_goals simp [hs]

/-! ### `Machine/Reset.lean` -/

theorem nextWellFormed_execPartitionReset : NextWellFormed (execPartitionReset s) := by
  simp only [execPartitionReset]
  repeat' split
  all_goals simp [hs]

theorem nextWellFormed_execPartitionDestroy : NextWellFormed (execPartitionDestroy s) := by
  simp only [execPartitionDestroy]
  repeat' split
  all_goals simp [hs]

theorem nextWellFormed_execResetQuiesce : NextWellFormed (execResetQuiesce s) := by
  unfold execResetQuiesce
  split <;> simp [hs]

theorem nextWellFormed_execResetWipeComplete : NextWellFormed (execResetWipeComplete s) := by
  simp only [execResetWipeComplete]
  repeat' split
  all_goals simp [hs]

theorem nextWellFormed_execDebugFreezeRequest : NextWellFormed (execDebugFreezeRequest s) := by
  unfold execDebugFreezeRequest
  split <;> simp [hs]

theorem nextWellFormed_execFreezeBegin : NextWellFormed (execFreezeBegin s) := by
  unfold execFreezeBegin
  repeat' split
  all_goals simp [hs]

theorem nextWellFormed_execDebugResumeRequest : NextWellFormed (execDebugResumeRequest s) := by
  unfold execDebugResumeRequest
  repeat' split
  all_goals simp [hs]

theorem nextWellFormed_execFreezeResume : NextWellFormed (execFreezeResume s) := by
  unfold execFreezeResume
  repeat' split
  all_goals simp [hs]

/-! ### `Machine/Fabric.lean` -/

theorem nextWellFormed_execFlitReceive : NextWellFormed (execFlitReceive s) := by
  unfold execFlitReceive
  repeat' split
  all_goals simp [hs]

theorem nextWellFormed_execLinkFail : NextWellFormed (execLinkFail s) := by
  unfold execLinkFail
  split <;> simp [hs]

theorem nextWellFormed_execLinkFailover : NextWellFormed (execLinkFailover s) := by
  unfold execLinkFailover
  split
  · dsimp only
    split
    · simpa using hs
    · simpa using hs
  · simpa using hs

theorem nextWellFormed_execAlign : NextWellFormed (execAlign s) := nextWellFormed_issue hs fun _ => by simp

theorem nextWellFormed_execAlignComplete : NextWellFormed (execAlignComplete s) := by
  unfold execAlignComplete
  split <;> simp [hs]

theorem nextWellFormed_execDieReset : NextWellFormed (execDieReset s) := by
  unfold execDieReset
  repeat' split
  all_goals simp [hs]

theorem nextWellFormed_execDieResetFence : NextWellFormed (execDieResetFence s) := by
  unfold execDieResetFence
  split <;> simp [hs]

theorem nextWellFormed_execDieResetExecute : NextWellFormed (execDieResetExecute s) := by
  unfold execDieResetExecute
  split <;> simp [hs]

theorem nextWellFormed_execDieResetComplete : NextWellFormed (execDieResetComplete s) := by
  unfold execDieResetComplete
  split <;> simp [hs]

/-! ### `Machine/HostEv.lean` -/

theorem nextWellFormed_execVfRegisterWrite : NextWellFormed (execVfRegisterWrite s) := by
  unfold execVfRegisterWrite
  repeat' split
  all_goals simp [hs]

theorem nextWellFormed_execSqDoorbell : NextWellFormed (execSqDoorbell s) := by
  simp only [execSqDoorbell]
  repeat' split
  all_goals simp [hs]

theorem nextWellFormed_execFunctionLevelReset : NextWellFormed (execFunctionLevelReset s) := by
  simp only [execFunctionLevelReset]
  repeat' split
  all_goals simp [hs]

theorem nextWellFormed_execHostLoad : NextWellFormed (execHostLoad s) := by
  have ht (x : Fuses) : WellFormed (memories { s with fuses := x }) := hs
  have hu (x : Fuses) : WellFormed (memories (State.drew { s with fuses := x })) := by
    rw [memories_drew]
    exact hs
  unfold execHostLoad
  split
  · split
    · simpa using hs
    · refine nextWellFormed_ite ?_ (nextWellFormed_ite ?_ ?_)
      · simp [hs]
      · simp [hs]
      · split
        · simp [hs]
        · refine nextWellFormed_ite ?_ ?_
          · exact (nextWellFormed_next _).2 (wellFormed_completion (wellFormed_setImage (ht _)))
          · split
            · exact (nextWellFormed_next _).2 (wellFormed_completion (wellFormed_setImage (hu _)))
            · exact (nextWellFormed_next _).2 (wellFormed_completion (wellFormed_loadImage (hu _)))
  · simpa using hs

theorem nextWellFormed_execHostLaunch : NextWellFormed (execHostLaunch s) := by
  unfold execHostLaunch
  split
  · split
    · simpa using hs
    · dsimp only
      refine nextWellFormed_ite ?_ ((nextWellFormed_next _).2 ?_)
      · simp [hs]
      · split
        · split
          · simp [hs]
          · simp [hs]
        · simp [hs]
  · simpa using hs

theorem nextWellFormed_execHostRelease : NextWellFormed (execHostRelease s) := by
  unfold execHostRelease
  split
  · split
    · simpa using hs
    · split
      · simp [hs]
      · split
        · simpa using hs
        · simp [hs]
  · simpa using hs

theorem nextWellFormed_execHostUnload : NextWellFormed (execHostUnload s) := by
  unfold execHostUnload
  split
  · split
    · simpa using hs
    · refine nextWellFormed_ite ?_ ?_
      · simp [hs]
      · simp [hs]
  · simpa using hs

theorem nextWellFormed_execHostQuote : NextWellFormed (execHostQuote s) := by
  unfold execHostQuote
  split
  · split
    · simpa using hs
    · simp [hs]
  · simpa using hs

theorem nextWellFormed_execAntiRollbackRaise : NextWellFormed (execAntiRollbackRaise s) := by
  simp only [execAntiRollbackRaise]
  repeat' split
  all_goals simp [hs]

theorem nextWellFormed_execOwnerKeyEnrol : NextWellFormed (execOwnerKeyEnrol s) := by
  simp only [execOwnerKeyEnrol]
  repeat' split
  all_goals simp [hs]

theorem nextWellFormed_execOwnerKeyRevoke : NextWellFormed (execOwnerKeyRevoke s) := by
  unfold execOwnerKeyRevoke
  repeat' split
  all_goals simp [hs]

theorem nextWellFormed_execLifeCycleChange : NextWellFormed (execLifeCycleChange s) := by
  simp only [execLifeCycleChange]
  repeat' split
  all_goals simp [hs]

/-! ### `Machine/Boot.lean` -/

theorem nextWellFormed_execPowerOnReset : NextWellFormed (execPowerOnReset s) := by
  simp only [execPowerOnReset]
  repeat' split
  all_goals simp [hs]

theorem nextWellFormed_execThermalShutdown :
    NextWellFormed (execThermalShutdown s) := by simp [execThermalShutdown, hs]

theorem nextWellFormed_execManagementTaskStart : NextWellFormed (execManagementTaskStart s) := by
  simp only [execManagementTaskStart]
  repeat' split
  all_goals simp [hs]

theorem nextWellFormed_execSramScrub : NextWellFormed (execSramScrub s) := by
  unfold execSramScrub
  split <;> simp [hs]

/-! ### `Machine/Control.lean` -/

theorem nextWellFormed_execNop {e} : NextWellFormed (execNop e s) := nextWellFormed_issueFree hs fun _ => by simp

theorem nextWellFormed_execWait {e i} : NextWellFormed (execWait e i s) :=
  nextWellFormed_issueFree hs fun _ => by simp

theorem nextWellFormed_execUnassignedOpcode {w} :
    NextWellFormed (execUnassignedOpcode w s) := by simp [execUnassignedOpcode, hs]

theorem nextWellFormed_execBr {i} : NextWellFormed (execBr i s) := nextWellFormed_issue hs fun _ => by simp
theorem nextWellFormed_execBrp {sel i} : NextWellFormed (execBrp sel i s) := nextWellFormed_issue hs fun _ => by simp
theorem nextWellFormed_execCall {i} : NextWellFormed (execCall i s) := nextWellFormed_issue hs fun _ => by simp
theorem nextWellFormed_execRet {g} : NextWellFormed (execRet g s) := nextWellFormed_issue hs fun _ => by simp

theorem nextWellFormed_execLoop {g len} : NextWellFormed (execLoop g len s) :=
  nextWellFormed_issue hs fun _ => by simp

theorem nextWellFormed_execLoopi {cnt len} : NextWellFormed (execLoopi cnt len s) :=
  nextWellFormed_issue hs fun _ => by simp

theorem nextWellFormed_execLbrk {sel i} : NextWellFormed (execLbrk sel i s) :=
  nextWellFormed_issue hs fun _ => by simp

theorem nextWellFormed_execYield {i live} : NextWellFormed (execYield i live s) := by
  unfold execYield
  repeat' split
  all_goals simp [hs]

theorem nextWellFormed_execSeam : NextWellFormed (execSeam s) := nextWellFormed_issue hs fun _ => by simp

theorem nextWellFormed_execEndTask : NextWellFormed (execEndTask s) := by
  unfold execEndTask
  repeat' split
  all_goals simp [hs]

theorem nextWellFormed_execWaitb {g} : NextWellFormed (execWaitb g s) := nextWellFormed_issue hs fun _ => by simp

theorem nextWellFormed_execWaitbComplete : NextWellFormed (execWaitbComplete s) := by
  simp only [execWaitbComplete]
  repeat' split
  all_goals simp [hs]

theorem nextWellFormed_execLaunch {p h g} : NextWellFormed (execLaunch p h g s) :=
  nextWellFormed_issue hs fun _ => by simp

theorem nextWellFormed_execTrap {i} : NextWellFormed (execTrap i s) := nextWellFormed_issue hs fun _ => by simp
theorem nextWellFormed_execEret : NextWellFormed (execEret s) := nextWellFormed_issue hs fun _ => by simp
theorem nextWellFormed_execBkpt {im} : NextWellFormed (execBkpt im s) := nextWellFormed_issue hs fun _ => by simp

theorem nextWellFormed_execFetchWords : NextWellFormed (execFetchWords s) := by
  unfold execFetchWords
  split <;> simp [hs]

theorem nextWellFormed_execFetchStarvation : NextWellFormed (execFetchStarvation s) := by
  unfold execFetchStarvation
  repeat' split
  all_goals simp [hs]

theorem nextWellFormed_execIterationBoundary : NextWellFormed (execIterationBoundary s) := by
  simp only [execIterationBoundary]
  repeat' split
  all_goals simp [hs]

theorem nextWellFormed_execDeadlineFault : NextWellFormed (execDeadlineFault s) := by
  simp only [execDeadlineFault]
  repeat' split
  all_goals simp [hs]

/-! ### `Machine/Landing.lean` -/

theorem nextWellFormed_execResultLanding : NextWellFormed (execResultLanding s) := by
  unfold execResultLanding
  split <;> simp [hs]

/-! ### `Machine/Scalar.lean` -/

theorem nextWellFormed_toG {occ lat a v} : NextWellFormed (s.toG occ lat a v) :=
  nextWellFormed_issue hs fun _ => memories_land ..

theorem nextWellFormed_toP {p b} : NextWellFormed (s.toP p b) := nextWellFormed_issue hs fun _ => memories_land ..

theorem nextWellFormed_toF {occ lat a v} : NextWellFormed (s.toF occ lat a v) :=
  nextWellFormed_issue hs fun _ => memories_land ..

theorem nextWellFormed_toFP {p v} : NextWellFormed (s.toFP p v) := nextWellFormed_issue hs fun _ => memories_land ..

theorem nextWellFormed_execIdx {a l} : NextWellFormed (execIdx a l s) := by
  unfold execIdx
  split
  · exact nextWellFormed_issue hs memories_illegal
  · exact nextWellFormed_toG hs

end Meanings

/-! ## The dispatch and the step -/

theorem nextWellFormed_exec {s : State} (hs : WellFormed (memories s)) (i : Instr) : NextWellFormed (exec i s) := by
  cases i with
  | add | sub | addi | mul | mulhs | mulhz | divs | divz | rems | remz | and | or | xor | andn | shl | shr | sar
  | ror | shli | shri | sari | mins | maxs | minz | maxz | clz | popc | movi | movx | movhx | sel | sext | zext
  | beac =>
    exact nextWellFormed_toG hs
  | cmpeq | cmpne | cmplts | cmples | cmpltz | cmplez | cmpeqi | cmpltsi | pand | por | pxor | pnot =>
    exact nextWellFormed_toP hs
  | fadd | faddLiteral | fsub | fsubLiteral | fmul | fmulLiteral | ffma | ffmaLiteral | fdiv | fdivLiteral |
  fsqrt | fsqrtLiteral | fcvt | fmin | fmax =>
    exact nextWellFormed_toF hs
  | fcmplt | fcmpeq =>
    exact nextWellFormed_toFP hs
  | vadd | vsub | vmul | vfma | vfms | vmin | vmax | vabs | vneg | vclamp =>
    exact nextWellFormed_elementwise hs
  | vand | vor | vxor | vnot | vshl | vshr | vsar =>
    exact nextWellFormed_bitwise hs
  | vcmpeq | vcmplt | vcmple =>
    exact nextWellFormed_vcompare hs
  | vmov => exact nextWellFormed_execVmov hs
  | vfill => exact nextWellFormed_execVfill hs
  | vperm => exact nextWellFormed_execVperm hs
  | vrot => exact nextWellFormed_execVrot hs
  | viota => exact nextWellFormed_execViota hs
  | vbrow => exact nextWellFormed_execVbrow hs
  | vbcol => exact nextWellFormed_execVbcol hs
  | vrsum | vrmax | vcsum | vcmax =>
    exact nextWellFormed_reduction hs
  | vzip2 | vzip3 | vzip4 | vunz2 | vunz3 | vunz4 =>
    exact nextWellFormed_zip hs
  | vrcpa | vrsqa | vexp2 | vlog2 | vtanh =>
    exact nextWellFormed_specialWord hs
  | ldg | ldgUnt | ldge | ldgeUnt =>
    exact nextWellFormed_loadTile hs
  | stg | stgUnt =>
    exact nextWellFormed_storeTile hs
  | ldgs | ldgsUnt =>
    exact nextWellFormed_loadScalar hs
  | stgs | stgsUnt =>
    exact nextWellFormed_storeScalar hs
  | ldt | ldtUnt | ldte | ldteUnt =>
    exact nextWellFormed_loadTaggedTile hs
  | stq | stqUnt =>
    exact nextWellFormed_storeQuantised hs
  | stnt | stntUnt =>
    exact nextWellFormed_storeNonTemporal hs
  | cwbr | cinvr =>
    exact nextWellFormed_cacheRange hs
  | qpush | lksend =>
    exact nextWellFormed_pushWord hs
  | qpop | lkrecv =>
    exact nextWellFormed_popWord hs
  | ratt | kapp | krel =>
    exact nextWellFormed_attWord hs
  | nop => exact nextWellFormed_execNop hs
  | wait => exact nextWellFormed_execWait hs
  | br => exact nextWellFormed_execBr hs
  | brp => exact nextWellFormed_execBrp hs
  | call => exact nextWellFormed_execCall hs
  | ret => exact nextWellFormed_execRet hs
  | loop => exact nextWellFormed_execLoop hs
  | loopi => exact nextWellFormed_execLoopi hs
  | lbrk => exact nextWellFormed_execLbrk hs
  | yield => exact nextWellFormed_execYield hs
  | seam => exact nextWellFormed_execSeam hs
  | waitb => exact nextWellFormed_execWaitb hs
  | align => exact nextWellFormed_execAlign hs
  | launch => exact nextWellFormed_execLaunch hs
  | endTask => exact nextWellFormed_execEndTask hs
  | trap => exact nextWellFormed_execTrap hs
  | eret => exact nextWellFormed_execEret hs
  | bkpt im => exact nextWellFormed_execBkpt (im := im) hs
  | smode => exact nextWellFormed_execSmode hs
  | rdsr => exact nextWellFormed_execRdsr hs
  | wrsr => exact nextWellFormed_execWrsr hs
  | idx => exact nextWellFormed_execIdx hs
  | shape => exact nextWellFormed_execShape hs
  | vsel => exact nextWellFormed_execVsel hs
  | vtrn => exact nextWellFormed_execVtrn hs
  | vcvt => exact nextWellFormed_execVcvt hs
  | vqnt => exact nextWellFormed_execVqnt hs
  | vamx => exact nextWellFormed_execVamx hs
  | vgte => exact nextWellFormed_execVgte hs
  | vpte => exact nextWellFormed_execVpte hs
  | vmskop => exact nextWellFormed_execVmskop hs
  | vrdot => exact nextWellFormed_execVrdot hs
  | xlt => exact nextWellFormed_execXlt hs
  | xltNw => exact nextWellFormed_execXltNw hs
  | hrel => exact nextWellFormed_execHrel hs
  | hchk => exact nextWellFormed_execHchk hs
  | hinfo => exact nextWellFormed_execHinfo hs
  | lds => exact nextWellFormed_execLds hs
  | sts => exact nextWellFormed_execSts hs
  | ldsg => exact nextWellFormed_execLdsg hs
  | stsg => exact nextWellFormed_execStsg hs
  | drain => exact nextWellFormed_execDrain hs
  | pfl => exact nextWellFormed_execPfl hs
  | rpin => exact nextWellFormed_execRpin hs
  | runpin => exact nextWellFormed_execRunpin hs
  | mcfg => exact nextWellFormed_execMcfg hs
  | mcfgi => exact nextWellFormed_execMcfgi hs
  | msrc => exact nextWellFormed_execMsrc hs
  | mfmt => exact nextWellFormed_execMfmt hs
  | mldb => exact nextWellFormed_execMldb hs
  | mgo => exact nextWellFormed_execMgo hs
  | mclr => exact nextWellFormed_execMclr hs
  | mrd => exact nextWellFormed_execMrd hs
  | mwr => exact nextWellFormed_execMwr hs
  | mfuse => exact nextWellFormed_execMfuse hs
  | mdur => exact nextWellFormed_execMdur hs
  | qrsv => exact nextWellFormed_execQrsv hs
  | qbind => exact nextWellFormed_execQbind hs
  | lkbind => exact nextWellFormed_execLkbind hs
  | qdepth => exact nextWellFormed_execQdepth hs
  | aadd => exact nextWellFormed_execAadd hs
  | aand => exact nextWellFormed_execAand hs
  | aor => exact nextWellFormed_execAor hs
  | axor => exact nextWellFormed_execAxor hs
  | amin => exact nextWellFormed_execAmin hs
  | amax => exact nextWellFormed_execAmax hs
  | aswp => exact nextWellFormed_execAswp hs
  | acas => exact nextWellFormed_execAcas hs
  | vatom => exact nextWellFormed_execVatom hs
  | acq => exact nextWellFormed_execAcq hs
  | acqTry => exact nextWellFormed_execAcqTry hs
  | rel => exact nextWellFormed_execRel hs
  | relQueues => exact nextWellFormed_execRelQueues hs
  | bind => exact nextWellFormed_execBind hs
  | unbind => exact nextWellFormed_execUnbind hs
  | gpass => exact nextWellFormed_execGpass hs
  | gtake => exact nextWellFormed_execGtake hs
  | gstat => exact nextWellFormed_execGstat hs
  | cld => exact nextWellFormed_execCld hs
  | cst => exact nextWellFormed_execCst hs
  | cldv => exact nextWellFormed_execCldv hs
  | cstv => exact nextWellFormed_execCstv hs
  | rcas2 => exact nextWellFormed_execRcas2 hs
  | renq => exact nextWellFormed_execRenq hs
  | rchase => exact nextWellFormed_execRchase hs
  | kmov => exact nextWellFormed_execKmov hs
  | knarrow => exact nextWellFormed_execKnarrow hs
  | kperm => exact nextWellFormed_execKperm hs
  | kld => exact nextWellFormed_execKld hs
  | kst => exact nextWellFormed_execKst hs
  | wld => exact nextWellFormed_execWld hs
  | wst => exact nextWellFormed_execWst hs
  | sfence => exact nextWellFormed_execSfence hs
  | cpy => exact nextWellFormed_execCpy hs
  | cpyd => exact nextWellFormed_execCpyd hs
  | merge => exact nextWellFormed_execMerge hs
  | coll => exact nextWellFormed_execColl hs
  | tier => exact nextWellFormed_execTier hs
  | pfs => exact nextWellFormed_execPfs hs
  | qfence => exact nextWellFormed_execQfence hs
  | unassignedOpcode w => exact nextWellFormed_execUnassignedOpcode (w := w) hs
  | clampcntWrite => exact nextWellFormed_execClampcntWrite hs
  | fetchWords => exact nextWellFormed_execFetchWords hs
  | fetchStarvation => exact nextWellFormed_execFetchStarvation hs
  | iterationBoundary => exact nextWellFormed_execIterationBoundary hs
  | resultLanding => exact nextWellFormed_execResultLanding hs
  | loadDataDelivery => exact nextWellFormed_execLoadDataDelivery hs
  | arrivalViolation => exact nextWellFormed_execArrivalViolation hs
  | accessHomeCycle => exact nextWellFormed_execAccessHomeCycle hs
  | xltWalkComplete => exact nextWellFormed_execXltWalkComplete hs
  | acqGrant => exact nextWellFormed_execAcqGrant hs
  | relEffect => exact nextWellFormed_execRelEffect hs
  | drainComplete => exact nextWellFormed_execDrainComplete hs
  | sfenceComplete => exact nextWellFormed_execSfenceComplete hs
  | cacheRangeComplete => exact nextWellFormed_execCacheRangeComplete hs
  | retentionInForce => exact nextWellFormed_execRetentionInForce hs
  | waitbComplete => exact nextWellFormed_execWaitbComplete hs
  | deadlineFault => exact nextWellFormed_execDeadlineFault hs
  | launchReceive => exact nextWellFormed_execLaunchReceive hs
  | schedulerPlacement => exact nextWellFormed_execSchedulerPlacement hs
  | launchBegin => exact nextWellFormed_execLaunchBegin hs
  | timeSliceEnd => exact nextWellFormed_execTimeSliceEnd hs
  | yieldHandover => exact nextWellFormed_execYieldHandover hs
  | fullFrameSave => exact nextWellFormed_execFullFrameSave hs
  | fullFrameSaveEnd => exact nextWellFormed_execFullFrameSaveEnd hs
  | fullFrameRestore => exact nextWellFormed_execFullFrameRestore hs
  | taskResume => exact nextWellFormed_execTaskResume hs
  | nestStep => exact nextWellFormed_execNestStep hs
  | nestEnd => exact nextWellFormed_execNestEnd hs
  | nestSafeStop => exact nextWellFormed_execNestSafeStop hs
  | mldbComplete => exact nextWellFormed_execMldbComplete hs
  | queueEntryArrival => exact nextWellFormed_execQueueEntryArrival hs
  | queueCreditArrival => exact nextWellFormed_execQueueCreditArrival hs
  | linkEntryDepart => exact nextWellFormed_execLinkEntryDepart hs
  | linkEntryArrival => exact nextWellFormed_execLinkEntryArrival hs
  | asyEntryStart => exact nextWellFormed_execAsyEntryStart hs
  | cpyDone => exact nextWellFormed_execCpyDone hs
  | cpydDone => exact nextWellFormed_execCpydDone hs
  | attentionCommandArrival => exact nextWellFormed_execAttentionCommandArrival hs
  | attentionAccept => exact nextWellFormed_execAttentionAccept hs
  | kappExecute => exact nextWellFormed_execKappExecute hs
  | krelExecute => exact nextWellFormed_execKrelExecute hs
  | contextControl => exact nextWellFormed_execContextControl hs
  | rattAdmission => exact nextWellFormed_execRattAdmission hs
  | rattRecordWrite => exact nextWellFormed_execRattRecordWrite hs
  | attentionCreditRefill => exact nextWellFormed_execAttentionCreditRefill hs
  | mergeDone => exact nextWellFormed_execMergeDone hs
  | collArrival => exact nextWellFormed_execCollArrival hs
  | collRoundComplete => exact nextWellFormed_execCollRoundComplete hs
  | collResultWrite => exact nextWellFormed_execCollResultWrite hs
  | tierMoveStart => exact nextWellFormed_execTierMoveStart hs
  | pageRevoke => exact nextWellFormed_execPageRevoke hs
  | revocationComplete => exact nextWellFormed_execRevocationComplete hs
  | tierMoveDone => exact nextWellFormed_execTierMoveDone hs
  | pfsAccept => exact nextWellFormed_execPfsAccept hs
  | qfenceDone => exact nextWellFormed_execQfenceDone hs
  | gatePassAdmit => exact nextWellFormed_execGatePassAdmit hs
  | gateVersionEffect => exact nextWellFormed_execGateVersionEffect hs
  | gateRefill => exact nextWellFormed_execGateRefill hs
  | gateTakeArrival => exact nextWellFormed_execGateTakeArrival hs
  | gateTakeComplete => exact nextWellFormed_execGateTakeComplete hs
  | gateStatusSample => exact nextWellFormed_execGateStatusSample hs
  | gateCreate => exact nextWellFormed_execGateCreate hs
  | gateUpdate => exact nextWellFormed_execGateUpdate hs
  | gateRevoke => exact nextWellFormed_execGateRevoke hs
  | gateFree => exact nextWellFormed_execGateFree hs
  | gateFreeze => exact nextWellFormed_execGateFreeze hs
  | gateExport => exact nextWellFormed_execGateExport hs
  | gateImport => exact nextWellFormed_execGateImport hs
  | remoteOpExecute => exact nextWellFormed_execRemoteOpExecute hs
  | remoteStoreArrival => exact nextWellFormed_execRemoteStoreArrival hs
  | releaseFlagCommit => exact nextWellFormed_execReleaseFlagCommit hs
  | remoteReplyArrival => exact nextWellFormed_execRemoteReplyArrival hs
  | wstErrorCompletion => exact nextWellFormed_execWstErrorCompletion hs
  | hostAccessArrival => exact nextWellFormed_execHostAccessArrival hs
  | requestTimeout => exact nextWellFormed_execRequestTimeout hs
  | cimParityError => exact nextWellFormed_execCimParityError hs
  | dcfgWrite => exact nextWellFormed_execDcfgWrite hs
  | hmaskWrite => exact nextWellFormed_execHmaskWrite hs
  | rtnWrite => exact nextWellFormed_execRtnWrite hs
  | domainBsyEnd => exact nextWellFormed_execDomainBsyEnd hs
  | collGroupWrite => exact nextWellFormed_execCollGroupWrite hs
  | dieReset => exact nextWellFormed_execDieReset hs
  | dieResetFence => exact nextWellFormed_execDieResetFence hs
  | dieResetExecute => exact nextWellFormed_execDieResetExecute hs
  | dieResetComplete => exact nextWellFormed_execDieResetComplete hs
  | partitionCreate => exact nextWellFormed_execPartitionCreate hs
  | partitionModify => exact nextWellFormed_execPartitionModify hs
  | partitionReset => exact nextWellFormed_execPartitionReset hs
  | partitionStop => exact nextWellFormed_execPartitionStop hs
  | partitionRelease => exact nextWellFormed_execPartitionRelease hs
  | partitionDestroy => exact nextWellFormed_execPartitionDestroy hs
  | mfreeze => exact nextWellFormed_execMfreeze hs
  | mthaw => exact nextWellFormed_execMthaw hs
  | resetQuiesce => exact nextWellFormed_execResetQuiesce hs
  | resetWipeComplete => exact nextWellFormed_execResetWipeComplete hs
  | modifyApply => exact nextWellFormed_execModifyApply hs
  | partitionStopComplete => exact nextWellFormed_execPartitionStopComplete hs
  | resourceRetire => exact nextWellFormed_execResourceRetire hs
  | debugFreezeRequest => exact nextWellFormed_execDebugFreezeRequest hs
  | freezeBegin => exact nextWellFormed_execFreezeBegin hs
  | debugResumeRequest => exact nextWellFormed_execDebugResumeRequest hs
  | freezeResume => exact nextWellFormed_execFreezeResume hs
  | flitReceive => exact nextWellFormed_execFlitReceive hs
  | linkFail => exact nextWellFormed_execLinkFail hs
  | linkFailover => exact nextWellFormed_execLinkFailover hs
  | alignComplete => exact nextWellFormed_execAlignComplete hs
  | vfRegisterWrite => exact nextWellFormed_execVfRegisterWrite hs
  | sqDoorbell => exact nextWellFormed_execSqDoorbell hs
  | hostLoad => exact nextWellFormed_execHostLoad hs
  | hostLaunch => exact nextWellFormed_execHostLaunch hs
  | hostRelease => exact nextWellFormed_execHostRelease hs
  | hostUnload => exact nextWellFormed_execHostUnload hs
  | hostQuote => exact nextWellFormed_execHostQuote hs
  | functionLevelReset => exact nextWellFormed_execFunctionLevelReset hs
  | antiRollbackRaise => exact nextWellFormed_execAntiRollbackRaise hs
  | lifeCycleChange => exact nextWellFormed_execLifeCycleChange hs
  | powerOnReset => exact nextWellFormed_execPowerOnReset hs
  | thermalShutdown => exact nextWellFormed_execThermalShutdown hs
  | fatalFrameFree => exact nextWellFormed_execFatalFrameFree hs
  | exportTableWrite => exact nextWellFormed_execExportTableWrite hs
  | managementTaskStart => exact nextWellFormed_execManagementTaskStart hs
  | ownerKeyEnrol => exact nextWellFormed_execOwnerKeyEnrol hs
  | ownerKeyRevoke => exact nextWellFormed_execOwnerKeyRevoke hs
  | sramScrub => exact nextWellFormed_execSramScrub hs

theorem nextWellFormed_runWord {s : State} (hs : WellFormed (memories s)) {sid : Nat} {e : QWord} :
    NextWellFormed (s.runWord exec sid e) := by
  unfold State.runWord
  refine nextWellFormed_ite ?_ ?_
  · simpa using hs
  · split
    · refine nextWellFormed_exec ?_ _
      simpa using hs
    · simpa using hs
    · refine nextWellFormed_exec ?_ _
      simpa using hs

theorem nextWellFormed_stepWord {s : State} (hs : WellFormed (memories s)) {sid : Nat} {e : QWord} {starves : Bool} :
    NextWellFormed (stepWord s sid e starves) := by
  unfold stepWord
  refine nextWellFormed_ite ?_ ?_
  · refine nextWellFormed_exec ?_ _
    simpa using hs
  · split
    · next t ht =>
      have ht := nextWellFormed_runWord hs t ht
      simpa using ht
    · exact nextWellFormed_fault _
    · exact nextWellFormed_refused _

theorem nextWellFormed_tick {s : State} (hs : WellFormed (memories s)) : NextWellFormed s.tick := by
  unfold State.tick
  refine nextWellFormed_ite (nextWellFormed_fault _) ?_
  simpa using hs

theorem nextWellFormed_step {s : State} (hs : WellFormed (memories s)) : NextWellFormed (step s) := by
  have hs : WellFormed (memories s.fetchAll) := by simpa using hs
  unfold step
  dsimp only
  split
  · next h =>
    refine nextWellFormed_exec ?_ _
    exact (memories_of_popEvent h).symm ▸ hs
  · split
    · refine nextWellFormed_exec ?_ _
      simpa using hs
    · split
      · exact nextWellFormed_stepWord hs
      · split
        · next h =>
          refine nextWellFormed_exec ?_ _
          exact (memories_of_popEvent h).symm ▸ hs
        · exact nextWellFormed_tick hs

/-- Settles O57: canonical stores stay canonical under the meaning of every instruction, hence under every step. -/
theorem stepKeepsCanonical : Obligations.StepKeepsCanonical := by
  intro s t hs h
  exact (canonical_iff t).2 (nextWellFormed_step ((canonical_iff s).1 hs) t h)

end Sys2Proof.Laws

end

/-! # An element that a tile landing wrote is the element read back -/

section

namespace Sys2Proof.Laws

open Sys2Proof Sys2Proof.Machine Sys2Proof.Claims

/-! ## Tiles -/

/-- The bits of element `i` in packed elements (R18). -/
theorem testBit_pack (w i j : Nat) (l : List Nat) (hi : i < l.length) (hj : j < w) :
    (pack w l).testBit (w * i + j) = l[i].testBit j := by
  induction l generalizing i with
  | nil => simp at hi
  | cons x r ih =>
    rw [pack, Nat.add_comm, Nat.testBit_two_pow_mul_add _ (Nat.mod_lt _ (Nat.two_pow_pos w))]
    cases i with
    | zero => simp [hj]
    | succ i =>
      have place : w * (i + 1) + j = w + (w * i + j) := by ring
      simpa [place] using ih i (by simpa using hi)

/-- Where the mask ends, a merge under it keeps the old bit. -/
theorem getLsbD_mergeBits_ones {w : Nat} (old new : BitVec w) (k j : Nat) (hk : k ≤ w) :
    (mergeBits old new (BitVec.ofNat w (2 ^ k - 1))).getLsbD j = if j < k then new.getLsbD j else old.getLsbD j := by
  simp only [mergeBits, BitVec.getLsbD_or, BitVec.getLsbD_and, BitVec.getLsbD_not, BitVec.getLsbD_ofNat,
    Nat.testBit_two_pow_sub_one]
  by_cases hj : j < k
  · simp [hj, show j < w by omega]
  · by_cases hw : j < w
    · simp [hj, hw]
    · simp [hj, hw, BitVec.getLsbD_of_ge old j (by omega)]

/-- A tile landing merges its data into the tile that its sequencer names (R113, R150). -/
theorem tile_landReg_tile (s : State) (sid n : Nat) (d m : TileBits) :
    (landReg s sid (.tile n d m)).tile sid n = mergeBits (s.tile sid n) d m := by
  unfold landReg State.setTile
  by_cases hn : n < 16 <;> simp [State.tile, hn, Seq.mend]

theorem exec_resultLanding_one {s : State} {sid : Nat} {l : Land} (h : s.arg = .land sid [l]) :
    exec .resultLanding s = .next (s.landOne sid l) := by
  simp [exec, execResultLanding, h]

/-- Settles O13: the landing's mask covers the elements' bits and no bit beyond them. -/
theorem tileElementsReadBack : Obligations.TileElementsReadBack := by
  intro s sid n t l harg hlen _
  have merged : ∀ j, (tileOf (s.landOne sid (tileLand n t l)) sid n).getLsbD j =
      if j < typeBits t * l.length then (BitVec.ofNat 32768 (pack (typeBits t) l)).getLsbD j else (tileOf s sid n).getLsbD j := by
    intro j
    rw [← getLsbD_mergeBits_ones _ _ _ _ hlen]
    exact congrArg (·.getLsbD j) (tile_landReg_tile s sid n _ _)
  refine ⟨_, exec_resultLanding_one harg, fun i hi => ?_, fun j hj => by rw [merged, if_neg (by omega)]⟩
  apply Nat.eq_of_testBit_eq
  intro j
  rw [Nat.testBit_mod_two_pow, Nat.testBit_mod_two_pow, Nat.testBit_div_two_pow]
  by_cases hj : j < typeBits t
  · have inside : typeBits t * i + j < typeBits t * l.length := by
      calc typeBits t * i + j < typeBits t * (i + 1) := by rw [Nat.mul_succ]; omega
        _ ≤ typeBits t * l.length := Nat.mul_le_mul_left _ hi
    have bit := merged (typeBits t * i + j)
    rw [if_pos inside, BitVec.getLsbD_ofNat, testBit_pack _ _ _ _ hi hj] at bit
    have below : j + typeBits t * i < 32768 := by omega
    rw [BitVec.getLsbD, Nat.add_comm] at bit
    simpa [hj, below] using bit
  · simp [hj]

end Sys2Proof.Laws
end

/-! # The word that a step runs, and what becomes of it -/

section

namespace Sys2Proof.Laws

open Sys2Proof Sys2Proof.Machine Sys2Proof.Claims

/-! ## A step runs the decoded word -/

/-- A fatal fault of the present word, as the statements say it (R95, R324). -/
theorem fault_eq_faulted (s : State) (code : Nat) : s.fault code = faulted s code := by
  unfold State.fault State.endTask faulted
  by_cases h : s.cur.sid % 16 = 8
  · rw [if_pos (show isMgmt s.cur.sid = true from decide_eq_true h)]
    dsimp only
    rw [if_pos h]
    rfl
  · rw [if_neg (show ¬ isMgmt s.cur.sid = true from fun k => h (of_decide_eq_true k))]
    dsimp only
    rw [if_neg h]
    rfl

/-- The step that takes a word runs it and finishes it (R315). -/
theorem step_of_takes {s : State} {sid : Nat} {e : QWord} (h : Takes s sid e) :
    step s = finishing e ((ready s).runWord exec sid e) := by
  obtain ⟨hevent, hjoin, hword⟩ := h
  unfold ready at *
  unfold step
  simp only [hevent, hjoin, hword, stepWord, Bool.false_eq_true, if_false]
  cases (s.fetchAll).runWord exec sid e <;> rfl

section RunWord

variable {u : State} {sid : Nat} {e : QWord}

theorem runWord_bad (h : e.oor = true ∨ u.wordBad sid e = true) :
    u.runWord exec sid e = .next (faulted (u.beginWord sid e) 1) := by
  have bad : (e.oor || (u.beginWord sid e).wordBad sid e) = true := Bool.or_eq_true_iff.2 h
  unfold State.runWord
  rw [if_pos bad, ← fault_eq_faulted]
  rfl

/-- An index in range and a word that its store holds intact. -/
def Readable (u : State) (sid : Nat) (e : QWord) : Prop := ¬ (e.oor = true ∨ u.wordBad sid e = true)

theorem not_bad_of_readable (h : Readable u sid e) : ¬ (e.oor || (u.beginWord sid e).wordBad sid e) = true :=
  fun k => h (Bool.or_eq_true_iff.1 k)

theorem runWord_decoded {d : Decoded} (h : Readable u sid e) (hd : decodeWord e.w e.lit = .ok d) :
    u.runWord exec sid e = exec d.ins (beginning u sid e d) := by
  unfold State.runWord
  rw [if_neg (not_bad_of_readable h), hd]
  rfl

theorem runWord_unassigned (h : Readable u sid e) (hd : decodeWord e.w e.lit = .error .unassigned) :
    u.runWord exec sid e = exec (.unassignedOpcode (BitVec.ofNat 32 e.w)) (u.beginWord sid e) := by
  unfold State.runWord
  rw [if_neg (not_bad_of_readable h), hd]

theorem runWord_rejected {x : Reject} (h : Readable u sid e) (hx : x ≠ .unassigned) (hd : decodeWord e.w e.lit = .error x) :
    u.runWord exec sid e = .next (faulted (u.beginWord sid e) 1) := by
  unfold State.runWord
  rw [if_neg (not_bad_of_readable h), hd, ← fault_eq_faulted]
  cases x with
  | unassigned => exact absurd rfl hx
  | literalAbsent | literalEngine | truncated => rfl

end RunWord

theorem stepRunsWord : Claims.StepRunsWord := by
  intro s sid e htakes
  rw [step_of_takes htakes]
  refine ⟨fun d hgood hd => by rw [runWord_decoded hgood hd], fun hgood hd => by rw [runWord_unassigned hgood hd], fun hfault => ?_⟩
  by_cases hbad : e.oor = true ∨ (ready s).wordBad sid e = true
  · rw [runWord_bad hbad]
  · obtain ⟨x, hx, hd⟩ := hfault.resolve_left hbad
    rw [runWord_rejected hbad hx hd]

/-! ## What becomes of the word -/

/-- From `s` to `t` errors of sequencer `sid` were noted: at most events joined its pending set and records the agenda, and storage
of it was written anew (R325, R334). -/
def Noted (sid : Nat) (s t : State) : Prop :=
  t.now = s.now ∧ s.agenda <+: t.agenda ∧ (∀ i, i ≠ sid → t.seq i = s.seq i) ∧
    ∃ p u, t.seq sid = { s.seq sid with pend := (s.seq sid).pend ++ p, upset := u }

theorem noted_refl (sid : Nat) (s : State) : Noted sid s s :=
  ⟨rfl, List.prefix_rfl, fun _ _ => rfl, [], (s.seq sid).upset, by rw [List.append_nil]⟩

theorem noted_trans {sid : Nat} {s t u : State} (h : Noted sid s t) (k : Noted sid t u) : Noted sid s u := by
  obtain ⟨hnow, hagenda, hother, p, _, hseq⟩ := h
  obtain ⟨know, kagenda, kother, p', y, kseq⟩ := k
  exact ⟨know.trans hnow, hagenda.trans kagenda, fun i hi => (kother i hi).trans (hother i hi), p ++ p', y, by
    rw [kseq, hseq, ← List.append_assoc]⟩

theorem noted_foldl {α : Type} {sid : Nat} {f : State → α → State} (hf : ∀ s a, Noted sid s (f s a)) (l : List α) (s : State) :
    Noted sid s (l.foldl f s) := by
  induction l generalizing s with
  | nil => exact noted_refl sid s
  | cons a r ih => exact noted_trans (hf s a) (ih (f s a))

/-- A posted event joins the pending set, if it joins at all (R325). -/
theorem post_pend (q : Seq) (code col : Nat) : ∃ p, q.post code col = { q with pend := q.pend ++ p } := by
  unfold Seq.post
  split
  · exact ⟨[], by rw [List.append_nil]⟩
  · exact ⟨_, rfl⟩

theorem noted_post (s : State) (sid code col : Nat) : Noted sid s (s.updSeq sid (fun q => q.post code col)) := by
  obtain ⟨p, hp⟩ := post_pend (s.seq sid) code col
  exact ⟨rfl, List.prefix_rfl, fun i hi => seq_updSeq_other s sid i _ hi.symm, p, _, by rw [seq_updSeq_same, hp]⟩

theorem noted_push (s : State) (sid : Nat) (e : Ev) : Noted sid s (s.push e) :=
  ⟨rfl, List.prefix_append _ _, fun _ _ => rfl, [], (s.seq sid).upset, by rw [List.append_nil]; rfl⟩

theorem noted_uncorrectable (s : State) (sid col hnd off : Nat) : Noted sid s (s.uncorrectable sid col hnd off) := by
  unfold State.uncorrectable
  dsimp only
  split
  · exact noted_trans (noted_post s sid 0x14 col) (noted_push _ sid _)
  · exact noted_push s sid _

theorem noted_noteSpots (s : State) (e : QWord) : Noted s.cur.sid s (s.noteSpots e) := by
  unfold State.noteSpots
  dsimp only
  split
  · exact noted_refl _ _
  · split
    · exact noted_foldl (fun t _ => noted_uncorrectable t _ _ _ _) _ s
    · exact noted_refl _ _

/-- Words that the splitter held back and that now reach their queues keep their places in fetch order (R314). -/
theorem ahead_release (q : Seq) (n : Nat) : (q.release n).ahead.map (·.fo) = q.ahead.map (·.fo) := by
  induction n generalizing q with
  | zero => rfl
  | succ n ih =>
    unfold Seq.release
    split
    · rfl
    · next e r hbq =>
      split
      · rw [ih]
        simp [Seq.ahead, hbq]
      · rfl

theorem ahead_unblock (q : Seq) (now c : Nat) : (q.unblock now c).ahead.map (·.fo) = q.ahead.map (·.fo) := by
  unfold Seq.unblock
  split
  · rfl
  · split
    · rfl
    · dsimp only
      rw [ahead_release]
      split
      · simp [Seq.ahead]
      · rfl

theorem fetching_release (q : Seq) (n : Nat) : Fetching q (q.release n) := by
  induction n generalizing q with
  | zero => rfl
  | succ n ih =>
    unfold Seq.release
    split
    · rfl
    · split
      · exact ih _
      · rfl

/-- What the splitter lets go changes nothing but what fetch and splitter hold. -/
theorem fetching_unblock (q : Seq) (now c : Nat) : Fetching q (q.unblock now c) := by
  unfold Seq.unblock
  split
  · rfl
  · split
    · rfl
    · dsimp only
      split
      · exact fetching_release _ _
      · exact fetching_release _ _

/-- A word that could not issue in this cycle, marked so in its queue (R318, R319). -/
def notTaken (t : State) (e x : QWord) : QWord :=
  if x.fo = e.fo then { x with posted := x.posted || (mine t).trapMode, tried := some t.now } else x

/-- The sequencer when its word has left its queue and its column's chain goes on, before the splitter fills the gap (R115, R315). -/
def afterIssue (t : State) (e : QWord) : Seq :=
  let q : Seq := { mine t with
    fq := (mine t).fq.filter (fun x => x.fo != e.fo), lastIssue := max (mine t).lastIssue (t.now - (mine t).slip) }
  q.setColumn e.col { q.column e.col with next := some (t.now - (mine t).slip + 1 + t.cur.extra) }

/-- The state when the word has left its queue and its warnings are in WRN. -/
def issuedState (t : State) (e : QWord) : State := (t.setSeq t.cur.sid ((afterIssue t e).unblock t.now e.col)).settleWarnings

/-- What the present word adds to WRN (R94, R100). -/
def warningBits (t : State) : BitVec 8 :=
  if t.cur.fault then 0 else (if t.cur.rsvd then 1 else 0) ||| (if t.cur.fb then 2 else 0)

section FinishWord

variable {t : State} {e : QWord}

theorem finishWord_held (h : t.cur.held = true) :
    t.finishWord e = t.setSeq t.cur.sid { mine t with fq := (mine t).fq.map (notTaken t e) } := if_pos h

theorem finishWord_issued (h : t.cur.held = false) : t.finishWord e = (issuedState t e).noteSpots e :=
  if_neg (by rw [h]; exact Bool.false_ne_true)

theorem seq_issuedState (t : State) (e : QWord) : ∃ r, r = (afterIssue t e).unblock t.now e.col ∧
    (issuedState t e).seq t.cur.sid = { r with wrn := r.wrn ||| warningBits t } := by
  refine ⟨_, rfl, ?_⟩
  unfold issuedState State.settleWarnings State.updMe
  dsimp only
  rw [show (t.setSeq t.cur.sid ((afterIssue t e).unblock t.now e.col)).cur = t.cur from rfl, seq_updSeq_same, seq_setSeq_same]
  rfl

theorem seq_issuedState_other (t : State) (e : QWord) {i : Nat} (hi : i ≠ t.cur.sid) : (issuedState t e).seq i = t.seq i := by
  unfold issuedState State.settleWarnings State.updMe
  dsimp only
  rw [show (t.setSeq t.cur.sid ((afterIssue t e).unblock t.now e.col)).cur = t.cur from rfl, seq_updSeq_other _ _ _ _ hi.symm,
    seq_setSeq_other _ _ _ _ hi.symm]

theorem upset_issuedState (t : State) (e : QWord) : ((issuedState t e).seq t.cur.sid).upset = (mine t).upset := by
  obtain ⟨r, hr, h⟩ := seq_issuedState t e
  have same : Fetching (afterIssue t e) r := hr ▸ fetching_unblock _ _ _
  rw [h, same]
  rfl

/-- Without a double-bit error in the storage that the sequencer can name there is nothing to note (R334). -/
theorem noteSpots_of_sound {s : State} (own : (s.seq s.cur.sid).upset = []) (others : (s.seq (partner s.cur.sid)).upset = []) :
    s.noteSpots e = s := by
  unfold State.noteSpots
  dsimp only
  rw [if_pos (by rw [own, others]; simp)]

theorem partner_ne (sid : Nat) : partner sid ≠ sid := by
  unfold partner
  split <;> omega

theorem agenda_finishWord (own : (mine t).upset = []) (others : (half t (partner t.cur.sid)).upset = []) :
    (t.finishWord e).agenda = t.agenda := by
  cases h : t.cur.held with
  | true => rw [finishWord_held h]; rfl
  | false =>
    have cur : (issuedState t e).cur.sid = t.cur.sid := rfl
    rw [finishWord_issued h, noteSpots_of_sound]
    · rfl
    · rw [cur, upset_issuedState, own]
    · rw [cur, seq_issuedState_other _ _ (partner_ne _)]
      exact others

/-- What a sequencer is when its word has issued. -/
theorem half_finishWord (h : t.cur.held = false) : ∃ r p u, r = (afterIssue t e).unblock t.now e.col ∧
    half (t.finishWord e) t.cur.sid = { r with wrn := r.wrn ||| warningBits t, pend := r.pend ++ p, upset := u } := by
  obtain ⟨r, hr, hseq⟩ := seq_issuedState t e
  obtain ⟨-, -, -, p, u, hnoted⟩ := noted_noteSpots (issuedState t e) e
  refine ⟨r, p, u, hr, ?_⟩
  rw [finishWord_issued h]
  exact hnoted.trans (by rw [show (issuedState t e).cur.sid = t.cur.sid from rfl, hseq])

theorem half_finishWord_other {i : Nat} (hi : i ≠ t.cur.sid) : half (t.finishWord e) i = half t i := by
  cases h : t.cur.held with
  | true => rw [finishWord_held h]; exact seq_setSeq_other _ _ _ _ hi.symm
  | false =>
    rw [finishWord_issued h]
    obtain ⟨-, -, hother, -⟩ := noted_noteSpots (issuedState t e) e
    exact (hother i hi).trans (seq_issuedState_other t e hi)

theorem half_finishWord_held (h : t.cur.held = true) :
    half (t.finishWord e) t.cur.sid = { mine t with fq := (mine t).fq.map (notTaken t e) } := by
  rw [finishWord_held h]
  exact seq_setSeq_same _ _ _

theorem g_finishWord : (half (t.finishWord e) t.cur.sid).g = (mine t).g := by
  cases h : t.cur.held with
  | true => rw [half_finishWord_held h]
  | false =>
    obtain ⟨r, p, u, hr, hseq⟩ := half_finishWord (e := e) h
    have same : Fetching (afterIssue t e) r := hr ▸ fetching_unblock _ _ _
    rw [hseq, same]
    rfl

theorem held_word_stays (h : t.cur.held = true) :
    let r := half (t.finishWord e) t.cur.sid
    r.fq.map (·.fo) = (mine t).fq.map (·.fo) ∧ r.cols = (mine t).cols ∧ ∀ x ∈ r.fq, x.fo = e.fo → x.tried = some t.now := by
  have place : ∀ x, (notTaken t e x).fo = x.fo := fun x => by unfold notTaken; split <;> rfl
  dsimp only
  rw [half_finishWord_held h]
  refine ⟨by simp [place], rfl, fun x hx hfo => ?_⟩
  obtain ⟨y, -, rfl⟩ := List.mem_map.1 hx
  rw [place] at hfo
  rw [notTaken, if_pos hfo]

theorem issued_word_leaves (h : t.cur.held = false) :
    let r := half (t.finishWord e) t.cur.sid
    r.ahead.map (·.fo) = ((mine t).fq.filter (fun x => x.fo != e.fo) ++ (mine t).bq).map (·.fo) ∧
      (Fm.get {} r.cols e.col : Column).next = some (t.now - (mine t).slip + 1 + t.cur.extra) ∧
      (t.cur.fault = false → t.cur.rsvd = true → r.wrn.getLsbD 0 = true) ∧
      (t.cur.fault = false → t.cur.fb = true → r.wrn.getLsbD 1 = true) := by
  obtain ⟨r, p, u, hr, hseq⟩ := half_finishWord (e := e) h
  have same : Fetching (afterIssue t e) r := hr ▸ fetching_unblock _ _ _
  have cols : r.cols = (afterIssue t e).cols := by rw [same]
  dsimp only
  rw [hseq]
  refine ⟨?_, ?_, fun hf hb => ?_, fun hf hb => ?_⟩
  · calc r.ahead.map (·.fo) = (afterIssue t e).ahead.map (·.fo) := hr ▸ ahead_unblock _ _ _
      _ = _ := rfl
  · rw [cols]
    exact congrArg Column.next (get_set_same _ _ _ _)
  · cases hfb : t.cur.fb <;> simp [warningBits, hf, hb, hfb]
  · cases hrs : t.cur.rsvd <;> simp [warningBits, hf, hb, hrs]

end FinishWord

theorem wordsLeaveTheirQueue : Claims.WordsLeaveTheirQueue := by
  intro t e
  exact ⟨fun i hi => half_finishWord_other hi, agenda_finishWord, congrArg Prod.fst (memories_finishWord t e), g_finishWord,
    held_word_stays, issued_word_leaves⟩

/-- Settles O53: the step's outcome is the outcome of the decoded word, and what finishing does to its queue. -/
theorem stepRunsDecodedWord : Obligations.StepRunsDecodedWord := ⟨stepRunsWord, wordsLeaveTheirQueue⟩

end Sys2Proof.Laws
end

/-! # Fetch, joins and deadlines -/

section

namespace Sys2Proof.Laws

open Sys2Proof Sys2Proof.Machine Sys2Proof.Claims

/-! ## What the fetch unit reads -/

@[simp] theorem set_set {α : Type} (m : Fm α) (i : Nat) (x y : α) : Fm.set (Fm.set m i x) i y = Fm.set m i y := by
  induction m with
  | nil => simp [Fm.set]
  | cons e r ih =>
    obtain ⟨k, v⟩ := e
    by_cases hlt : i < k
    · simp [Fm.set, hlt]
    · by_cases heq : i = k
      · simp [Fm.set, heq]
      · simp [Fm.set, hlt, heq, ih]

theorem setSeq_setSeq (s : State) (sid : Nat) (q r : Seq) : (s.setSeq sid q).setSeq sid r = s.setSeq sid r :=
  congrArg (fun m => { s with seqs := m }) (set_set s.seqs sid q r)

theorem fetching_trans {q r u : Seq} (h : Fetching q r) (k : Fetching r u) : Fetching q u := by
  unfold Fetching at *
  exact k.trans (by rw [h])

/-- The fetch unit has read the words `l` on: they stand behind the others in fetch order, no word has left a column queue, and the
sequencer is otherwise as it was (R314). -/
def ReadOn (q r : Seq) (l : List QWord) : Prop := Fetching q r ∧ r.ahead = q.ahead ++ l ∧ q.fq <+: r.fq

theorem ReadOn.refl (q : Seq) : ReadOn q q [] := ⟨rfl, (List.append_nil _).symm, List.prefix_rfl⟩

theorem ReadOn.trans {q r u : Seq} {l m : List QWord} (h : ReadOn q r l) (k : ReadOn r u m) : ReadOn q u (l ++ m) := by
  obtain ⟨hfetch, hahead, hfq⟩ := h
  obtain ⟨kfetch, kahead, kfq⟩ := k
  exact ⟨fetching_trans hfetch kfetch, by rw [kahead, hahead, List.append_assoc], hfq.trans kfq⟩

/-- A change of the fetch unit's own fields reads no word. -/
theorem readOn_of_fetching {q r : Seq} (h : Fetching q r) (hfq : r.fq = q.fq) (hbq : r.bq = q.bq) : ReadOn q r [] :=
  ⟨h, by simp [Seq.ahead, hfq, hbq], by rw [hfq]⟩

theorem ReadOn.then {q r u : Seq} {l : List QWord} (h : ReadOn q r l) (k : ReadOn r u []) : ReadOn q u l :=
  List.append_nil l ▸ h.trans k

theorem readOn_addJoin (q : Seq) (op : JoinOp) (pc : Nat) : ReadOn q (q.addJoin op pc) [] := readOn_of_fetching rfl rfl rfl

theorem readOn_joinIf (c : Bool) (q : Seq) (op : JoinOp) (pc : Nat) : ReadOn q (if c then q.addJoin op pc else q) [] := by
  cases c
  · exact .refl q
  · exact readOn_addJoin q op pc

theorem joinIf_keeps (c : Bool) (q : Seq) (op : JoinOp) (pc : Nat) :
    let r := if c then q.addJoin op pc else q
    r.fpc = q.fpc ∧ r.ffo = q.ffo ∧ r.arrival = q.arrival ∧ r.fq = q.fq ∧ r.bq = q.bq := by
  cases c <;> exact ⟨rfl, rfl, rfl, rfl, rfl⟩

theorem readOn_passed (q : Seq) (last : Nat) : ReadOn q (q.passed last) [] := by
  unfold Seq.passed
  split
  · split
    · exact readOn_of_fetching rfl rfl rfl
    · exact readOn_of_fetching rfl rfl rfl
  · exact readOn_of_fetching rfl rfl rfl

/-- The arrival that the splitter notes with a word: its cycle in the queue, or its fetch position while it is held back (R314). -/
def arrivalNote (q : Seq) (e : QWord) : Nat := if q.bq.isEmpty && decide (q.inColumn e.col < 32) then q.arrival else q.fpos

theorem readOn_splitWord (q : Seq) (e : QWord) : ReadOn q (q.splitWord e) [{ e with arr := arrivalNote q e }] := by
  unfold Seq.splitWord arrivalNote
  split
  · next h =>
    have hbq : q.bq = [] := List.isEmpty_iff.1 (Bool.and_eq_true_iff.1 h).1
    exact ⟨rfl, by simp [Seq.ahead, hbq], List.prefix_append _ _⟩
  · exact ⟨rfl, (List.append_assoc ..).symm, List.prefix_rfl⟩

/-- A word whose column queue has room joins it, and arrives with the words before it (R314). -/
theorem splitWord_room {q : Seq} {e : QWord} (hbq : q.bq = []) (hroom : q.inColumn e.col < 32) :
    arrivalNote q e = q.arrival ∧ { e with arr := arrivalNote q e } ∈ (q.splitWord e).fq := by
  have room : (q.bq.isEmpty && decide (q.inColumn e.col < 32)) = true := by simp [hbq, hroom]
  unfold Seq.splitWord arrivalNote
  rw [if_pos room, if_pos room]
  exact ⟨rfl, List.mem_append_right _ (List.mem_singleton_self _)⟩

/-- A word stands as it was read from the instruction store of `sid` (R12, R92). -/
def Genuine (s : State) (sid : Nat) (e : QWord) : Prop :=
  e.oor = false → s.fetchAt sid e.pc = some e.w ∧ e.col = engOf e.w ∧ e.dly = dlyOf e.w

theorem fetchOne_none {s : State} {sid : Nat} (h : s.fetchAt sid (s.seq sid).fpc = none) :
    ∃ r e, s.fetchOne sid = s.setSeq sid r ∧ ReadOn (s.seq sid) r [e] ∧ r.fstop = true ∧
      e.pc = (s.seq sid).fpc % 65536 ∧ e.fo = (s.seq sid).ffo ∧ e.oor = true := by
  unfold State.fetchOne
  extract_lets q
  simp only [q, h]
  obtain ⟨hfpc, hffo, -⟩ := joinIf_keeps ((s.seq sid).ffo != 0) (s.seq sid) .plain (s.seq sid).fpc
  exact ⟨_, _, rfl, ((readOn_joinIf ..).trans (readOn_splitWord ..)).then (readOn_of_fetching rfl rfl rfl), rfl,
    congrArg (· % 65536) hfpc, hffo, rfl⟩

theorem fetchOne_some {s : State} {sid w : Nat} (h : s.fetchAt sid (s.seq sid).fpc = some w) :
    ∃ r e, s.fetchOne sid = s.setSeq sid r ∧ ReadOn (s.seq sid) r [e] ∧ e.pc = (s.seq sid).fpc ∧ e.fo = (s.seq sid).ffo ∧
      e.oor = false ∧ e.w = w ∧ e.col = engOf w ∧ e.dly = dlyOf w ∧
      (takesLiteral w = true → e.lit = s.fetchAt sid ((s.seq sid).fpc + 1)) ∧
      ((s.seq sid).bq = [] → (s.seq sid).inColumn (engOf w) < 32 → e ∈ r.fq ∧ e.arr = (s.seq sid).arrival) := by
  obtain ⟨t, ht⟩ : ∃ t, t = s.fetchOne sid := ⟨_, rfl⟩
  rw [← ht]
  unfold State.fetchOne at ht
  extract_lets q none1 none2 lit len at ht
  split at ht
  · next hnone => exact absurd (hnone.symm.trans h) (by simp)
  next w' hw =>
  obtain rfl : w' = w := Option.some.inj (hw.symm.trans h)
  extract_lets col n op alone q1 e last q2 q3 q4 at ht
  have h1 : ReadOn (s.seq sid) q1 [] := readOn_joinIf ..
  have h2 : ReadOn (s.seq sid) q2 [{ e with arr := arrivalNote q1 e }] := h1.trans (readOn_splitWord q1 e)
  have h4 : ReadOn (s.seq sid) q4 [{ e with arr := arrivalNote q1 e }] :=
    (h2.then (u := q3) (readOn_of_fetching rfl rfl rfl)).then (readOn_joinIf ..)
  obtain ⟨r, hr, hread⟩ : ∃ r, t = s.setSeq sid r ∧ ReadOn q4 r [] := by
    split at ht
    · exact ⟨_, ht, readOn_of_fetching rfl rfl rfl⟩
    · split at ht
      · split at ht
        · exact ⟨_, ht, (readOn_addJoin q4 .first (last + 1 + len)).then (readOn_of_fetching rfl rfl rfl)⟩
        · exact ⟨_, ht, (readOn_addJoin q4 .first (last + 1)).then (readOn_of_fetching rfl rfl rfl)⟩
      · exact ⟨_, ht, readOn_passed q4 _⟩
  obtain ⟨hfpc, hffo, harr, hfq, hbq1⟩ := joinIf_keeps (alone && q.ffo != 0) q .plain q.fpc
  refine ⟨r, _, hr, h4.then hread, hfpc, hffo, rfl, rfl, rfl, rfl, fun hl => if_pos hl, fun hbq hroom => ?_⟩
  have hroom : q1.bq = [] ∧ q1.inColumn e.col < 32 := ⟨hbq1.trans hbq, by rw [Seq.inColumn, hfq]; exact hroom⟩
  obtain ⟨hplace, hmem⟩ := splitWord_room hroom.1 hroom.2
  obtain ⟨-, -, -, hfq4, -⟩ := joinIf_keeps alone q3 .plain (last + 1)
  refine ⟨hread.2.2.subset ?_, hplace.trans harr⟩
  rw [show q4.fq = q2.fq from hfq4]
  exact hmem

/-- Reading one word on: the word stands as the instruction store has it, or its index is out of range (R12). -/
theorem fetchOne_reads (s : State) (sid : Nat) :
    ∃ r e, s.fetchOne sid = s.setSeq sid r ∧ ReadOn (s.seq sid) r [e] ∧ Genuine s sid e := by
  cases h : s.fetchAt sid (s.seq sid).fpc with
  | none =>
    obtain ⟨r, e, heq, hread, -, -, -, hoor⟩ := fetchOne_none h
    exact ⟨r, e, heq, hread, fun k => absurd (hoor.symm.trans k) Bool.noConfusion⟩
  | some w =>
    obtain ⟨r, e, heq, hread, hpc, -, -, hw, hcol, hdly, -⟩ := fetchOne_some h
    exact ⟨r, e, heq, hread, fun _ => ⟨by rw [hpc, h, hw], by rw [hcol, hw], by rw [hdly, hw]⟩⟩

theorem fetchN_reads (s : State) (sid n : Nat) :
    s.fetchN sid n = s ∨ ∃ r l, s.fetchN sid n = s.setSeq sid r ∧ ReadOn (s.seq sid) r l ∧ ∀ e ∈ l, Genuine s sid e := by
  induction n generalizing s with
  | zero => exact .inl rfl
  | succ n ih =>
    unfold State.fetchN
    split
    · right
      obtain ⟨r, e, heq, hread, hword⟩ := fetchOne_reads s sid
      rw [heq]
      rcases ih (s.setSeq sid r) with h | ⟨u, l, hu, hmore, hwords⟩
      · exact ⟨r, [e], h, hread, by simpa using hword⟩
      · rw [seq_setSeq_same] at hmore
        exact ⟨u, e :: l, hu.trans (setSeq_setSeq ..), hread.trans hmore, List.forall_mem_cons.2 ⟨hword, hwords⟩⟩
    · exact .inl rfl

/-- A fetch unit that nothing holds reads the word at its index, and then on (R314). -/
theorem fetchAhead_of_free {s : State} {sid : Nat} (hrun : (s.seq sid).run = .run) (hhold : (s.seq sid).fhold = false)
    (hstop : (s.seq sid).fstop = false) (hbq : (s.seq sid).bq = []) : s.fetchAhead sid = (s.fetchOne sid).fetchN sid 65999 := by
  unfold State.fetchAhead State.fetchN
  exact if_pos (by simp [Seq.fetching, hrun, hhold, hstop, hbq])

theorem fetchN_of_stopped {s : State} {sid : Nat} (h : (s.seq sid).fstop = true) (n : Nat) : s.fetchN sid n = s := by
  cases n with
  | zero => rfl
  | succ n => exact if_neg (by simp [Seq.fetching, h])

theorem exec_fetchWords {s : State} {sid : Nat} (h : s.arg = .seq sid) :
    exec .fetchWords s = .next (if (half s sid).run = .run then s.fetchAhead sid else s) := by
  show execFetchWords s = _
  unfold execFetchWords
  rw [h]
  rfl

/-- Words that are read after the word at the index leave it where the splitter put it. -/
theorem fetchN_keeps_word {s : State} {sid : Nat} {q : Seq} {e : QWord} (h : ReadOn (s.seq sid) q [e]) (n : Nat) :
    ∃ r l, (s.setSeq sid q).fetchN sid n = s.setSeq sid r ∧ r.ahead = (s.seq sid).ahead ++ e :: l ∧ (e ∈ q.fq → e ∈ r.fq) := by
  obtain ⟨-, hahead, -⟩ := h
  rcases fetchN_reads (s.setSeq sid q) sid n with heq | ⟨r, l, heq, ⟨-, hmore, hfq⟩, -⟩
  · exact ⟨q, [], heq, hahead, id⟩
  · rw [seq_setSeq_same] at hmore hfq
    exact ⟨r, l, heq.trans (setSeq_setSeq ..), by rw [hmore, hahead, List.append_assoc]; rfl, fun k => hfq.subset k⟩

/-- R12, R93, R314: the word at the fetch index is read first. -/
theorem fetchAhead_reads_index {s : State} {sid : Nat} (hrun : (half s sid).run = .run) (hhold : (half s sid).fhold = false)
    (hstop : (half s sid).fstop = false) (hbq : (half s sid).bq = []) :
    let q := half s sid
    ∃ r e l, s.fetchAhead sid = withSeq s sid r ∧ r.ahead = q.ahead ++ e :: l ∧ e.pc % 65536 = q.fpc % 65536 ∧ e.fo = q.ffo ∧
      (∀ w, s.fetchAt sid q.fpc = some w → e.oor = false ∧ e.w = w ∧ e.col = engOf w ∧ e.dly = dlyOf w ∧
        (takesLiteral w = true → e.lit = s.fetchAt sid (q.fpc + 1)) ∧
        (q.fq.countP (fun x => x.col == engOf w) < 32 → e ∈ r.fq ∧ e.arr = q.fbase + q.fpos / 8)) ∧
      (s.fetchAt sid q.fpc = none → e.oor = true ∧ l = []) := by
  rw [fetchAhead_of_free hrun hhold hstop hbq]
  cases h : s.fetchAt sid (s.seq sid).fpc with
  | none =>
    obtain ⟨r, e, heq, ⟨-, hahead, -⟩, hstopped, hpc, hfo, hoor⟩ := fetchOne_none h
    have hend : (s.setSeq sid r).fetchN sid 65999 = s.setSeq sid r := fetchN_of_stopped (by rw [seq_setSeq_same, hstopped]) _
    exact ⟨r, e, [], by rw [heq, hend]; rfl, hahead, by rw [hpc, Nat.mod_mod]; rfl, hfo,
      fun w hw => absurd (h.symm.trans hw) (Option.some_ne_none w).symm, fun _ => ⟨hoor, rfl⟩⟩
  | some w =>
    obtain ⟨q, e, heq, hread, hpc, hfo, hoor, hw, hcol, hdly, hlit, hroom⟩ := fetchOne_some h
    obtain ⟨r, l, hend, hahead, hfq⟩ := fetchN_keeps_word hread 65999
    refine ⟨r, e, l, by rw [heq, hend]; rfl, hahead, by rw [hpc]; rfl, hfo,
      fun w' hw' => ?_, fun hn => absurd (h.symm.trans hn) (Option.some_ne_none w)⟩
    obtain rfl : w = w' := Option.some.inj (h.symm.trans hw')
    exact ⟨hoor, hw, hcol, hdly, hlit, fun k => ⟨hfq (hroom hbq k).1, (hroom hbq k).2⟩⟩

theorem fetchReadsAhead : Claims.FetchReadsAhead := by
  intro s sid harg
  have hexec := exec_fetchWords harg
  refine ⟨fun hrest => by rw [hexec, if_neg hrest], fun hrun => ?_, fun hrun hhold hstop hbq => ?_⟩
  · rw [hexec, if_pos hrun]
    refine ⟨_, rfl, ?_⟩
    rcases fetchN_reads s sid 66000 with h | ⟨r, l, heq, ⟨hfetch, hahead, -⟩, hwords⟩
    · exact .inl h
    · exact .inr ⟨r, l, heq, hfetch, hahead, hwords⟩
  · rw [hexec, if_pos hrun]
    obtain ⟨r, e, l, h, hrest⟩ := fetchAhead_reads_index hrun hhold hstop hbq
    exact ⟨_, r, e, l, rfl, h, hrest⟩

/-! ## Delivery of a pending event -/

/-- The scan for the lowest code keeps the first of the lowest (R130). -/
theorem lowest_scan (l : List Pending) (a : Pending) : ∃ m, m ∈ a :: l ∧ (∀ x ∈ a :: l, m.code ≤ x.code) ∧
    l.foldl (fun a e => match a with
      | none => some e
      | some b => if e.code < b.code then some e else a) (some a) = some m := by
  induction l generalizing a with
  | nil => exact ⟨a, List.mem_singleton_self a, by simp, rfl⟩
  | cons e r ih =>
    rw [List.foldl_cons]
    dsimp only
    split
    · next hlt =>
      obtain ⟨m, hmem, hle, hfold⟩ := ih e
      have := hle e (List.mem_cons_self ..)
      exact ⟨m, List.mem_cons_of_mem _ hmem, List.forall_mem_cons.2 ⟨by omega, hle⟩, hfold⟩
    · next hge =>
      obtain ⟨m, hmem, hle, hfold⟩ := ih a
      obtain ⟨ha, hr⟩ := List.forall_mem_cons.1 hle
      refine ⟨m, ?_, List.forall_mem_cons.2 ⟨ha, List.forall_mem_cons.2 ⟨by omega, hr⟩⟩, hfold⟩
      rcases List.mem_cons.1 hmem with rfl | hmem
      · exact List.mem_cons_self ..
      · exact List.mem_cons_of_mem _ (List.mem_cons_of_mem _ hmem)

theorem lowest_of_pending {q : Seq} (h : q.pend ≠ []) :
    ∃ m, q.lowest = some m ∧ m ∈ q.pend ∧ ∀ x ∈ q.pend, m.code ≤ x.code := by
  obtain ⟨a, l, hpend⟩ := List.exists_cons_of_ne_nil h
  obtain ⟨m, hmem, hle, hfold⟩ := lowest_scan l a
  exact ⟨m, by rw [Seq.lowest, hpend]; exact hfold, hpend ▸ hmem, hpend ▸ hle⟩

theorem lowest_eq {q : Seq} {e : Pending} (h : Lowest q e) : q.lowest = some e := by
  obtain ⟨hmem, hle, honly⟩ := h
  obtain ⟨m, hm, hmmem, hmle⟩ := lowest_of_pending (List.ne_nil_of_mem hmem)
  rw [hm, honly m hmmem (Nat.le_antisymm (hmle e hmem) (hle m hmmem))]

theorem takeEvent_of_handling {s : State} {sid : Nat} (h : (s.seq sid).tact = true ∨ (s.seq sid).pend = []) (resume : Nat) :
    s.takeEvent sid resume = s := by
  unfold State.takeEvent
  dsimp only
  split
  · rfl
  · next htact =>
    have hpend : (s.seq sid).lowest = none := by rw [Seq.lowest, h.resolve_left htact]; rfl
    rw [hpend]

/-- R130: a delivery point delivers the lowest pending event. -/
theorem delivered_takeEvent {s : State} {sid : Nat} {e : Pending} (h : Delivers (s.seq sid) e) (resume : Nat) :
    Delivered s (s.takeEvent sid resume) sid e resume := by
  obtain ⟨htact, htvec, hlow⟩ := h
  unfold State.takeEvent
  dsimp only
  rw [if_neg (by rw [htact]; exact Bool.false_ne_true), lowest_eq hlow]
  dsimp only
  rw [if_neg htvec]
  refine ⟨_, rfl, ?_⟩
  dsimp only [Seq.redirect]
  exact ⟨rfl, rfl, rfl, rfl, rfl⟩

/-- R326: with no handler named, a pending event ends the task. -/
theorem takeEvent_unhandled {s : State} {sid : Nat} (htact : (s.seq sid).tact = false) (hpend : (s.seq sid).pend ≠ [])
    (htvec : (s.seq sid).tvec = 0) (resume : Nat) : s.takeEvent sid resume = s.endTask sid 7 0 resume := by
  obtain ⟨m, hm, -⟩ := lowest_of_pending hpend
  unfold State.takeEvent
  dsimp only
  rw [if_neg (by rw [htact]; exact Bool.false_ne_true), hm]
  exact if_pos htvec

theorem agenda_endTask (s : State) (sid code col pc : Nat) : s.agenda <+: (s.endTask sid code col pc).agenda := by
  unfold State.endTask
  split
  · exact List.prefix_rfl
  · exact List.prefix_append _ _

theorem agenda_takeEvent (s : State) (sid resume : Nat) : s.agenda <+: (s.takeEvent sid resume).agenda := by
  unfold State.takeEvent
  dsimp only
  split
  · exact List.prefix_rfl
  · split
    · exact List.prefix_rfl
    · split
      · exact agenda_endTask ..
      · exact List.prefix_rfl

/-- R324, R328: a user task that an event ends issues nothing more, and the save of its full frame begins. -/
theorem endTask_user {s : State} {sid : Nat} (h : sid % 16 ≠ 8) (code col pc : Nat) :
    let t := s.endTask sid code col pc
    (half t sid).run = .ending code ∧ (half t sid).ecol = col ∧ (half t sid).fq = [] ∧ (half t sid).pc = pc % 2 ^ 16 ∧
      event s.now 8 sid .fullFrameSave (.half sid code) ∈ t.agenda := by
  have user : ¬ isMgmt sid = true := fun k => h (of_decide_eq_true k)
  unfold State.endTask
  dsimp only
  rw [if_neg user]
  dsimp only [half, State.push]
  rw [show ∀ f, Fm.get {} (s.updSeq sid f).seqs sid = f (s.seq sid) from fun f => seq_updSeq_same s sid f]
  exact ⟨rfl, rfl, rfl, rfl, List.mem_append_right _ (List.mem_singleton_self _)⟩

/-! ## Joins -/

theorem joinDue_iff {s : State} {q : Seq} {j : Join} {r : List Join} (h : q.joins = j :: r) :
    q.joinDue s.now = if JoinDue s q j then some j else none := by
  have same : ((q.run == .run) && !q.seam && q.waitb.isNone && !q.ahead.any (fun e => decide (e.fo < j.after)) &&
      decide (q.lastIssue + 1 ≤ s.now - q.slip ∨ j.op = .plain) && q.heldAt != some s.now) = true ↔ JoinDue s q j := by
    simp only [Bool.and_eq_true, beq_iff_eq, Bool.not_eq_true', List.any_eq_false, decide_eq_true_eq, Option.isNone_iff_eq_none,
      bne_iff_ne, not_lt]
    tauto
  unfold Seq.joinDue
  rw [h]
  exact if_congr same rfl rfl

/-- The sequencer behind join `j`: the words of the next group may issue from `lastIssue + 1` on, and LSTK has its new value
(R119, R120, R315). -/
def pastJoin (q : Seq) (j : Join) : Seq := { q.joinTo j (q.lastIssue + 1) with lstk := applyJoin j.op q.lstk }

/-- A join whose reading of the loop stack meets a double-bit error (R334). -/
def ReadsUpset (q : Seq) (j : Join) : Prop := j.op ≠ .plain ∧ j.op ≠ .first ∧ ∃ n, Spot.level n ∈ q.upset

theorem noted_mend (s : State) (sid : Nat) (p : Spot → Bool) : Noted sid s (s.updSeq sid (fun q => q.mend p)) :=
  ⟨rfl, List.prefix_rfl, fun i hi => seq_updSeq_other s sid i _ hi.symm, [], _, by rw [seq_updSeq_same, List.append_nil]; rfl⟩

theorem noted_noteLevel (s : State) (sid : Nat) (x : Spot) :
    Noted sid s ((s.updSeq sid (fun q => q.mend (· == x))).uncorrectable sid 0 0 0xFFFFFFF) :=
  noted_trans (noted_mend s sid _) (noted_uncorrectable _ sid 0 0 _)

theorem noted_noteLevels (s : State) (sid : Nat) (op : JoinOp) : Noted sid s (s.noteLevels sid op) :=
  noted_foldl (fun t x => noted_noteLevel t sid x) _ s

/-- The spots that a join reads with a double-bit error. -/
def levelsStruck (q : Seq) (op : JoinOp) : List Spot :=
  q.upset.filter (fun x => match x with
    | .level _ => op != .plain && op != .first
    | _ => false)

theorem mem_levelsStruck {q : Seq} {j : Join} {x : Spot} :
    x ∈ levelsStruck q j.op ↔ x ∈ q.upset ∧ (∃ n, x = .level n) ∧ j.op ≠ .plain ∧ j.op ≠ .first := by
  unfold levelsStruck
  cases x <;> simp

theorem noteLevels_of_sound {s : State} {sid : Nat} {j : Join} (h : ¬ ReadsUpset (s.seq sid) j) : s.noteLevels sid j.op = s := by
  have none : levelsStruck (s.seq sid) j.op = [] := List.eq_nil_iff_forall_not_mem.2 fun x hx => by
    obtain ⟨hmem, ⟨n, rfl⟩, hplain, hfirst⟩ := mem_levelsStruck.1 hx
    exact h ⟨hplain, hfirst, n, hmem⟩
  show (levelsStruck (s.seq sid) j.op).foldl _ s = s
  rw [none]
  rfl

/-- R334: a loop level with a double-bit error that a join reads is recorded. -/
theorem noteLevels_records {s : State} {sid : Nat} {j : Join} (h : ReadsUpset (s.seq sid) j) :
    event s.now 4 sid .resultLanding (.land sid [.errs 0 0xFFFFFFF]) ∈ (s.noteLevels sid j.op).agenda := by
  obtain ⟨hplain, hfirst, n, hmem⟩ := h
  obtain ⟨x, r, hcons⟩ := List.exists_cons_of_ne_nil (List.ne_nil_of_mem (mem_levelsStruck.2 ⟨hmem, ⟨n, rfl⟩, hplain, hfirst⟩))
  obtain ⟨-, hagenda, -⟩ := noted_foldl (sid := sid) (fun t x => noted_noteLevel t sid x) r
    ((s.updSeq sid (fun q => q.mend (· == x))).uncorrectable sid 0 0 0xFFFFFFF)
  show _ ∈ ((levelsStruck (s.seq sid) j.op).foldl _ s).agenda
  rw [hcons]
  refine hagenda.subset ?_
  unfold State.uncorrectable
  dsimp only
  split <;> exact List.mem_append_right _ (List.mem_singleton_self _)

theorem pastJoin_eq {q : Seq} {j : Join} {r : List Join} (h : q.joins = j :: r) :
    pastJoin q j = { q with joins := r, grp := j.grp, floor := max q.floor (q.lastIssue + 1), lstk := applyJoin j.op q.lstk } := by
  unfold pastJoin Seq.joinTo
  rw [h]
  rfl

/-- The state when join `j` is passed and what its reading of the loop stack meets is noted. -/
def passedJoin (s : State) (sid : Nat) (j : Join) : State := (withSeq s sid (pastJoin (half s sid) j)).noteLevels sid j.op

theorem exec_iterationBoundary {s : State} {sid : Nat} (h : s.arg = .seq sid) :
    exec .iterationBoundary s = match (half s sid).joinDue s.now with
      | none => .next s
      | some j => .next (if j.op = .plain then passedJoin s sid j else (passedJoin s sid j).takeEvent sid j.pc) := by
  show execIterationBoundary s = _
  unfold execIterationBoundary
  rw [h]
  rfl

theorem half_withSeq (s : State) (sid : Nat) (q : Seq) : half (withSeq s sid q) sid = q := get_set_same _ _ _ _

theorem passedJoin_of_sound {s : State} {sid : Nat} {j : Join} (h : ¬ ReadsUpset (half s sid) j) :
    passedJoin s sid j = withSeq s sid (pastJoin (half s sid) j) :=
  noteLevels_of_sound fun k => h (by rw [show State.seq _ sid = _ from half_withSeq s sid _] at k; exact k)

theorem passedJoin_records {s : State} {sid : Nat} {j : Join} (h : ReadsUpset (half s sid) j) :
    event s.now 4 sid .resultLanding (.land sid [.errs 0 0xFFFFFFF]) ∈ (passedJoin s sid j).agenda :=
  noteLevels_records (s := withSeq s sid (pastJoin (half s sid) j)) (by rw [show State.seq _ sid = _ from half_withSeq s sid _]; exact h)

/-- What a join leaves as it is: the cycle, TACT and TVEC; and what is pending stays pending. -/
theorem passedJoin_keeps (s : State) (sid : Nat) (j : Join) :
    (passedJoin s sid j).now = s.now ∧ (half (passedJoin s sid j) sid).tact = (half s sid).tact ∧
      (half (passedJoin s sid j) sid).tvec = (half s sid).tvec ∧ (half s sid).pend <+: (half (passedJoin s sid j) sid).pend := by
  obtain ⟨hnow, -, -, p, u, hseq⟩ := noted_noteLevels (withSeq s sid (pastJoin (half s sid) j)) sid j.op
  rw [show State.seq (withSeq _ _ _) sid = _ from half_withSeq s sid _] at hseq
  rw [show half (passedJoin s sid j) sid = _ from hseq]
  exact ⟨hnow, rfl, rfl, List.prefix_append _ _⟩

theorem iterationsPass : Claims.IterationsPass := by
  intro s sid harg
  have hexec := exec_iterationBoundary harg
  refine ⟨fun hjoins => ?_, fun j r hjoins => ?_⟩
  · rw [hexec, Seq.joinDue, hjoins]
  rw [← pastJoin_eq hjoins]
  rw [joinDue_iff hjoins] at hexec
  refine ⟨fun hnot => by rw [hexec, if_neg hnot], fun hdue hreads => ?_, fun hdue hsound hquiet => ?_,
    fun hdue hsound hop e hdelivers => ?_, fun hdue hop htact hpend htvec huser => ?_⟩
  all_goals rw [hexec, if_pos hdue]
  all_goals dsimp only
  · rw [if_neg hreads.1]
    exact ⟨_, rfl, (agenda_takeEvent _ _ _).subset (passedJoin_records hreads)⟩
  · rw [passedJoin_of_sound hsound]
    split
    · rfl
    · next hop =>
      rw [takeEvent_of_handling]
      rw [show State.seq _ sid = _ from half_withSeq s sid _]
      exact hquiet.resolve_left hop
  · rw [passedJoin_of_sound hsound, if_neg hop]
    refine ⟨_, rfl, delivered_takeEvent ?_ _⟩
    rw [show State.seq _ sid = _ from half_withSeq s sid _]
    exact hdelivers
  · obtain ⟨hnow, htact', htvec', hpend'⟩ := passedJoin_keeps s sid j
    rw [if_neg hop, takeEvent_unhandled (htact'.trans htact) (fun k => hpend (List.prefix_nil.1 (k ▸ hpend'))) (htvec'.trans htvec)]
    obtain ⟨hrun, -, -, hpc, hsave⟩ := endTask_user (s := passedJoin s sid j) huser 7 0 j.pc
    exact ⟨_, rfl, hrun, hpc, hnow ▸ hsave⟩

/-! ## The loop stack at a join, and deadlines -/

theorem joinsKeepTheLoopStack : Claims.JoinsKeepTheLoopStack := by
  intro l m x
  refine ⟨rfl, rfl, ?_, ?_, ?_⟩
  · simp [applyJoin]
  · simp [applyJoin]
  · have inner : (l ++ [x] ++ m).take ((l ++ [x] ++ m).length - m.length) = l ++ [x] := List.take_left' (by simp; omega)
    simp only [applyJoin, inner]
    simp

theorem exec_deadlineFault {s : State} {sid t : Nat} (h : s.arg = .seqN sid t) :
    exec .deadlineFault s =
      if (half s sid).dline ≠ some t ∨ ((half s sid).run ≠ .run ∧ (half s sid).run ≠ .halted) then .next s
      else if s.ptime (half s sid).task.part < t then
        .next (scheduled s (event (max (s.now + 1) (s.now + (t - s.ptime (half s sid).task.part))) 9 sid .deadlineFault (.seqN sid t)))
      else .next (s.endTask sid 5 0 (match (half s sid).fq with
        | e :: _ => e.pc
        | [] => (half s sid).fpc)) := by
  show execDeadlineFault s = _
  unfold execDeadlineFault
  rw [h]
  rfl

theorem deadlinesExpire : Claims.DeadlinesExpire := by
  intro s sid t harg
  have hexec := exec_deadlineFault harg
  refine ⟨fun hnot => ?_, fun harmed hruns hbefore => ?_, fun harmed hruns hcome huser => ?_⟩
  · rw [hexec, if_pos (hnot.imp id not_or.1)]
  all_goals rw [hexec, if_neg (by tauto)]
  · rw [if_pos hbefore]
  · rw [if_neg (Nat.not_lt.2 hcome)]
    obtain ⟨hrun, hcol, hfq, hpc, hsave⟩ := endTask_user (s := s) huser 5 0 (match (half s sid).fq with
      | e :: _ => e.pc
      | [] => (half s sid).fpc)
    exact ⟨_, rfl, hrun, hcol, hfq, hsave, hpc⟩

/-- Settles O49, from the fetch unit's reading, the joins, what a join does to LSTK, and the deadlines. -/
theorem sequencersGoOn : Obligations.SequencersGoOn := ⟨fetchReadsAhead, iterationsPass, joinsKeepTheLoopStack, deadlinesExpire⟩

end Sys2Proof.Laws
end

/-! # A step of a nest that writes beyond its mask -/

section

namespace Sys2Proof.Laws

open Sys2Proof Sys2Proof.Machine Sys2Proof.Claims

/-! ## A reload for a mask that cannot be fused

The last clause of `Claims.NestActsProceed` says of every table that a reload leaves the quadrants outside its mask as they are. It does
not ask for a mask that MGO accepts (R204, R215). Of mask 6, quadrants 1 and 2, both K halves and both N halves are present, so that the
B block's columns lie in quadrants 0 to 3, and the first block of the first part is written into quadrant 0. -/

/-- A nest of sequencer 0 with mask 6 and INT8 weights, whose next act is the first part of a reload from the scratchpad. -/
def reloadingUnfused : State :=
  { arg := .seq 0
    seqs := [(0, { active := { glob := BitVec.ofNat 128 (6 * 2 ^ 109 + 7 * 2 ^ 101) }
                   nest := { live := true, todo := [(0, .reload 0 0)] } })] }

/-- Weight blocks that quadrant 0 of core 0 holds after an outcome. -/
def blocksOfQuad0 : Host.Outcome State Fault Refusal → Fm BlockBits
  | .next t => (Fm.get {} (Fm.get {} t.cores 0).quads 0 : Quad).blk
  | _ => []

theorem reload_writes_quad_outside_mask :
    reloadingUnfused.cores = [] ∧ blocksOfQuad0 (exec .nestStep reloadingUnfused) ≠ [] := by decide +kernel

/-- Refutes O24: a reload for mask 6 writes weights into quadrant 0, which the mask does not have. -/
theorem not_nestStepsRun : ¬ Obligations.NestStepsRun := by
  rintro ⟨-, hacts⟩
  obtain ⟨-, -, -, -, -, -, -, hreload⟩ := hacts reloadingUnfused 0 0 (.reload 0 0) [] rfl rfl rfl (by decide) rfl
  obtain ⟨u, hstep, -, hquads⟩ := hreload 0 0 rfl
  have kept : (Fm.get {} (Fm.get {} u.cores 0).quads 0 : Quad) = {} := hquads 0 (by decide)
  obtain ⟨-, written⟩ := reload_writes_quad_outside_mask
  rw [hstep] at written
  exact written (congrArg Quad.blk kept)

end Sys2Proof.Laws
end

/-! # Reductions and conversions of tiles -/

section

namespace Sys2Proof.Laws

open Sys2Proof Sys2Proof.Machine Sys2Proof.Claims

/-! ## The shell of the VEC column

A word of the VEC column that issues has its effect on a state in which only its column's occupation differs and perhaps FALLBACK is
noted: every operand reads as before. -/

theorem colBusy_of_free {s : State} (h : Free s) : s.colBusy = false := by
  obtain ⟨hfree, hfence⟩ := h
  have idle : ¬ s.now < (s.me.column s.cur.col).free := Nat.not_lt.2 hfree
  cases hs : s.me.sfence with
  | false => simp [State.colBusy, idle, hs]
  | true =>
    obtain ⟨h3, h6⟩ := hfence hs
    simp [State.colBusy, idle, h3, h6]

theorem isMgmt_eq_false {sid : Nat} (h : ¬ sid % 16 = 8) : isMgmt sid = false := decide_eq_false h

theorem tilesOk_of_nameable {s : State} {l : List Nat} (h : Nameable s l) : s.tilesOk l = true := by
  unfold State.tilesOk
  cases hs : s.split s.cur.sid with
  | false => simp
  | true => simpa using h hs

/-- A VEC word that issues has its effect on the state in which its column is occupied (R112, R154). -/
theorem vec_issues {s : State} {tiles : List Nat} {occ : Nat} {k : State → State} (hf : Free s) (hu : ¬ OnHub s)
    (hn : Nameable s tiles) : s.vec tiles occ k = .next (k (occupied s occ)) := by
  unfold State.vec State.issue State.userOnly State.withTiles
  rw [colBusy_of_free hf, if_neg Bool.false_ne_true]
  dsimp only
  rw [show isMgmt (s.occupy occ).cur.sid = false from isMgmt_eq_false hu, if_neg Bool.false_ne_true]
  rw [if_pos (tilesOk_of_nameable (s := s.occupy occ) hn)]
  rfl

theorem fallback_eq_markFallback (s : State) (b : Bool) : s.fallback b = markFallback s b := by
  cases b <;> simp [State.fallback, markFallback]

theorem markFallback_markFallback (s : State) (b c : Bool) : markFallback (markFallback s b) c = markFallback s (b || c) := by
  simp [markFallback, Bool.or_assoc]

/-- In `u` the present word belongs to the sequencer of `s`, and reads every operand as in `s`. -/
def SameOperands (s u : State) : Prop := u.cur.sid = s.cur.sid ∧ ∀ i, ∃ c, u.seq i = { s.seq i with cols := c }

theorem sameOperands_occupied (s : State) (occ : Nat) : SameOperands s (occupied s occ) := by
  refine ⟨rfl, fun i => ?_⟩
  by_cases hi : s.cur.sid = i
  · subst hi
    exact ⟨_, get_set_same _ _ _ _⟩
  · exact ⟨_, get_set_other _ _ _ _ _ hi⟩

theorem sameOperands_markFallback {s u : State} (h : SameOperands s u) (b : Bool) : SameOperands s (markFallback u b) := h

section SameOperands

variable {s u : State} (h : SameOperands s u)

include h

theorem me_sameOperands : ∃ c, u.me = { mine s with cols := c } := by
  obtain ⟨hsid, hseq⟩ := h
  unfold State.me
  rw [hsid]
  exact hseq _

theorem ty_sameOperands : u.ty = typ s := by
  obtain ⟨c, hc⟩ := me_sameOperands h
  unfold State.ty
  rw [hc]
  rfl

theorem cols_sameOperands : u.cols = columns s := by
  obtain ⟨c, hc⟩ := me_sameOperands h
  unfold State.cols
  rw [hc]
  rfl

theorem rows_sameOperands : u.rows = rowCount s := by
  obtain ⟨c, hc⟩ := me_sameOperands h
  unfold State.rows
  rw [hc]
  rfl

theorem shapeCount_sameOperands : shapeCount u.shp = count s := by
  obtain ⟨c, hc⟩ := me_sameOperands h
  unfold State.shp
  rw [hc]
  rfl

theorem occB_sameOperands : u.occB = Claims.occB s := by
  obtain ⟨c, hc⟩ := me_sameOperands h
  unfold State.occB
  rw [hc]
  rfl

theorem act_sameOperands (k : BitVec 3) : u.act k = maskOf s k.toNat := by
  obtain ⟨c, hc⟩ := me_sameOperands h
  unfold State.act
  rw [hc]
  rfl

theorem ovinf_sameOperands : u.ovinf = (mine s).fctl := by
  obtain ⟨c, hc⟩ := me_sameOperands h
  unfold State.ovinf
  rw [hc]

theorem gr_sameOperands (g : BitVec 5) : u.me.gr g.toNat = greg s (g.setWidth 6) := by
  obtain ⟨c, hc⟩ := me_sameOperands h
  rw [hc]
  simp [Seq.gr, greg, Nat.mod_eq_of_lt (show g.toNat < 64 by omega)]

theorem ring_sameOperands (n : Nat) : u.me.ring n = Fm.get {} (mine s).rings n := by
  obtain ⟨c, hc⟩ := me_sameOperands h
  rw [hc]
  rfl

theorem tile_sameOperands (n : Nat) : u.tile u.cur.sid n = tileOf s s.cur.sid n := by
  obtain ⟨hsid, hseq⟩ := h
  obtain ⟨c, hc⟩ := hseq s.cur.sid
  obtain ⟨d, hd⟩ := hseq (partner s.cur.sid)
  unfold State.tile
  rw [hsid, hc, hd]
  rfl

/-- The elements of a tile, one for each element number of the shape (R148). -/
theorem elemsOf_sameOperands (n : Nat) : u.elemsOf n = (List.range (count s)).map (elem s n) := by
  obtain ⟨c, hc⟩ := me_sameOperands h
  unfold State.elemsOf unpack
  rw [tile_sameOperands h, hc]
  rfl

theorem mFallback_sameOperands (m : BitVec 2) (rounds : Bool) : u.mFallback m rounds = markFallback u (mFb s m rounds) := by
  unfold State.mFallback
  rw [fallback_eq_markFallback, ty_sameOperands h]
  rfl

theorem modeOf_sameOperands (m : BitVec 2) : u.modeOf m = if isInt (typ s) then 0 else m.toNat := by
  unfold State.modeOf
  rw [ty_sameOperands h]

end SameOperands

/-- The landing of a word that writes one tile, from the state in which it issued. -/
theorem vecOut_eq_tileDone {s u : State} {w : TileWord} {lat v t : Nat} {l : List (Nat × Nat)}
    (hu : u = markFallback (occupied s w.occ) w.fb) (hlat : lat = w.lat) (hv : v = w.dst) (ht : t = w.ty)
    (hl : l = (List.range (count s)).map w.res) : u.vecOut lat v t l = tileDone s w := by
  subst hu hlat hv ht hl
  rfl

/-- What an element number within the shape reads from a tile's elements. -/
theorem getD_elems {f : Nat → Nat} {n i : Nat} (hi : i < n) : ((List.range n).map f).getD i 0 = f i := by
  simp [List.getD, hi]

/-- A word that computes every element and takes no mask (R161, R167, R168). -/
theorem fillWith_eq {s : State} {tiles src : List Nat} {v : BitVec 5} {k : BitVec 3} {m : BitVec 2} {rounds : Bool}
    {f : State → List Nat → Nat → Nat × Nat} (hf : Free s) (hu : ¬ OnHub s) (hn : Nameable s tiles) :
    s.fillWith tiles src v k m rounds f = .next (tileDone s ⟨tiles, Claims.occB s, Claims.occB s + 3, v.toNat, typ s, mFb s m rounds || k != 0,
      f (occupied s (Claims.occB s)) (src.flatMap fun n => (List.range (count s)).map (elem s n))⟩) := by
  have same := sameOperands_occupied s (Claims.occB s)
  unfold State.fillWith
  rw [show s.occB = Claims.occB s from rfl, vec_issues hf hu hn]
  dsimp only
  rw [mFallback_sameOperands same, State.kFallback, fallback_eq_markFallback, markFallback_markFallback]
  refine congrArg _ (vecOut_eq_tileDone rfl ?_ rfl ?_ ?_)
  · rw [occB_sameOperands (sameOperands_markFallback same _)]
  · rw [ty_sameOperands (sameOperands_markFallback same _)]
  · rw [shapeCount_sameOperands same]
    rw [show (occupied s (Claims.occB s)).elemsOf = _ from funext (elemsOf_sameOperands same)]

/-- Results where the mask is active, the pass-through source's elements elsewhere (R150). -/
theorem passThrough_elems (s : State) (k : BitVec 3) (a : BitVec 5) (res res' : Nat → Nat × Nat) (h : ∀ i < count s, res i = res' i) :
    passThrough (maskOf s k.toNat) (columns s) ((List.range (count s)).map (elem s a.toNat)) res =
      (List.range (count s)).map (masked s k a res') := by
  refine List.ext_getElem (by simp [passThrough]) fun i hi _ => ?_
  have hi : i < count s := by simpa [passThrough] using hi
  simp [passThrough, masked, active, activeAt, h i hi]

/-! ## Reductions -/

/-- Element numbers paired with their elements. -/
theorem zipIdx_elems {β : Type} (n : Nat) (f : Nat → Nat) (g : Nat × Nat → β) :
    (((List.range n).map f).zipIdx).map g = (List.range n).map fun i => g (f i, i) :=
  List.ext_getElem (by simp) fun i _ _ => by simp

/-- Among results that are listed by distinct keys, the one with key `i`. -/
theorem find_keyed {β : Type} {n j : Nat} (key : Nat → Nat) (val : Nat → β) (hj : j < n) (inj : ∀ i, key i = key j → i = j) :
    ((List.range n).map fun i => (key i, val i)).find? (fun g => g.1 == key j) = some (key j, val j) := by
  rw [List.find?_map]
  have found : (List.range n).find? (fun i => key i == key j) = some j := by
    rw [List.find?_range_eq_some]
    exact ⟨by simp, by simpa using hj, fun i hi => by simpa using fun h => hi.ne (inj i h)⟩
  exact congrArg (Option.map _) found

theorem find_keyed_none {β : Type} {n i : Nat} (key : Nat → Nat) (val : Nat → β) (h : ∀ j < n, key j ≠ i) :
    ((List.range n).map fun j => (key j, val j)).find? (fun g => g.1 == i) = none := by
  simpa using h

/-- Whether element `i` takes the result of a row, or of a column. -/
def headOf (s : State) (byRow : Bool) (i : Nat) : Bool := if byRow then decide (i % columns s = 0) else decide (i < columns s)

/-- The element numbers of the row, or of the column, of element `i`. -/
def groupOf (s : State) (byRow : Bool) (i : Nat) : List Nat := if byRow then rowOf s i else columnOf s i

theorem columns_pos (s : State) : 0 < columns s := Nat.succ_pos _

theorem lt_count_of_mem_groupOf {s : State} {byRow : Bool} {i j : Nat} (hi : i < count s) (hj : j ∈ groupOf s byRow i) : j < count s := by
  unfold count at *
  cases byRow with
  | true =>
    obtain ⟨c, hc, rfl⟩ : ∃ c < columns s, i / columns s * columns s + c = j := by simpa [groupOf, rowOf] using hj
    have row : i / columns s + 1 ≤ rowCount s := Nat.div_lt_of_lt_mul (by rwa [Nat.mul_comm])
    calc i / columns s * columns s + c < (i / columns s + 1) * columns s := by rw [Nat.succ_mul]; omega
      _ ≤ rowCount s * columns s := Nat.mul_le_mul_right _ row
  | false =>
    obtain ⟨r, hr, rfl⟩ : ∃ r < rowCount s, r * columns s + i % columns s = j := by simpa [groupOf, columnOf] using hj
    have col := Nat.mod_lt i (columns_pos s)
    calc r * columns s + i % columns s < (r + 1) * columns s := by rw [Nat.succ_mul]; omega
      _ ≤ rowCount s * columns s := Nat.mul_le_mul_right _ hr

/-- The result that goes to element `i`, if any does (R163). -/
theorem find_reduceGroups (s : State) (byRow : Bool) (one : List Nat → Nat × Nat) {i : Nat} (hi : i < count s) :
    (reduceGroups byRow (rowCount s) (columns s) one).find? (fun g => g.1 == i) =
      if headOf s byRow i then some (i, one (groupOf s byRow i)) else none := by
  have pos := columns_pos s
  cases byRow with
  | true =>
    by_cases hhead : i % columns s = 0
    · have row : i / columns s < rowCount s := Nat.div_lt_of_lt_mul (by rwa [Nat.mul_comm])
      have at_ : i / columns s * columns s = i := Nat.div_mul_cancel (Nat.dvd_of_mod_eq_zero hhead)
      have found := find_keyed (· * columns s) (fun r => one (rowIndices (columns s) r)) row
        fun r hr => Nat.eq_of_mul_eq_mul_right pos hr
      rw [at_] at found
      rw [headOf, if_pos rfl, if_pos (decide_eq_true hhead)]
      exact found
    · have miss := find_keyed_none (n := rowCount s) (· * columns s) (fun r => one (rowIndices (columns s) r)) (i := i)
        fun r _ hr => hhead (by rw [← hr, Nat.mul_mod_left])
      rw [headOf, if_pos rfl, if_neg (by simpa using hhead)]
      exact miss
  | false =>
    by_cases hhead : i < columns s
    · have found := find_keyed id (fun c => one (colIndices (rowCount s) (columns s) c)) hhead fun _ hc => hc
      have col : groupOf s false i = colIndices (rowCount s) (columns s) i := by
        simp [groupOf, columnOf, colIndices, Nat.mod_eq_of_lt hhead]
      rw [headOf, if_neg Bool.false_ne_true, if_pos (decide_eq_true hhead), col]
      exact found
    · have miss := find_keyed_none (n := columns s) id (fun c => one (colIndices (rowCount s) (columns s) c)) (i := i)
        fun c hc h => hhead (h ▸ hc)
      rw [headOf, if_neg Bool.false_ne_true, if_neg (by simpa using hhead)]
      exact miss

/-- The result of a reduction, element by element: the first of each row, or of each column, takes what `one` gives of its group, and
the others pass through (R163). -/
theorem reduceInto_elems (s : State) (byRow : Bool) (a : BitVec 5) (one one' : List Nat → Nat × Nat)
    (h : ∀ l, (∀ i ∈ l, i < count s) → one l = one' l) :
    reduceInto ((List.range (count s)).map (elem s a.toNat)) (reduceGroups byRow (rowCount s) (columns s) one) =
      (List.range (count s)).map fun i => if headOf s byRow i then one' (groupOf s byRow i) else (elem s a.toNat i, 0) := by
  unfold reduceInto
  rw [zipIdx_elems]
  refine List.map_congr_left fun i hi => ?_
  have hi : i < count s := List.mem_range.1 hi
  dsimp only
  rw [find_reduceGroups s byRow one hi, ← h _ fun j hj => lt_count_of_mem_groupOf hi hj]
  cases headOf s byRow i <;> rfl

section Group

variable {s : State} {l : List Nat} (hl : ∀ i ∈ l, i < count s) (a : BitVec 5) (k : BitVec 3)

include hl

/-- The elements that a group reads are those of the tile. -/
theorem getD_group : ∀ i ∈ l, ((List.range (count s)).map (elem s a.toNat)).getD i 0 = elem s a.toNat i :=
  fun i hi => getD_elems (hl i hi)

/-- The flags of decoding the active elements of a group (R58). -/
theorem decodeFlags_group :
    (l.filter (activeAt (maskOf s k.toNat) (columns s))).foldl
        (fun f i => f ||| decodeFlags (typ s) (((List.range (count s)).map (elem s a.toNat)).getD i 0)) 0 =
      decodeAll s ((l.filter (active s k)).map (elem s a.toNat)) := by
  unfold decodeAll
  rw [List.foldl_map]
  refine List.foldl_ext _ _ _ fun f i hi => ?_
  rw [getD_group hl a i (List.mem_of_mem_filter hi)]

/-- The sum of a group (R77, R163). -/
theorem sum_group (m : BitVec 2) :
    tree (sumStep (typ s) (if isInt (typ s) then 0 else m.toNat) (mine s).fctl) 0 (l.map fun i =>
        if activeAt (maskOf s k.toNat) (columns s) i then ((List.range (count s)).map (elem s a.toNat)).getD i 0 else 0) =
      sumOver s m (l.map fun i => if active s k i then elem s a.toNat i else 0) := by
  unfold sumOver
  rw [List.map_congr_left fun i hi => by rw [getD_group hl a i hi]]
  rfl

/-- The maximum of a group (R78, R163). -/
theorem max_group :
    tree (maxStep (typ s)) (maxPad (typ s)) (maxPad (typ s) ::
        (l.filter (activeAt (maskOf s k.toNat) (columns s))).map fun i => ((List.range (count s)).map (elem s a.toNat)).getD i 0) =
      maxOver s ((l.filter (active s k)).map (elem s a.toNat)) := by
  unfold maxOver
  rw [List.map_congr_left fun i hi => getD_group hl a i (List.mem_of_mem_filter hi)]
  rfl

/-- The products of a group (R164). -/
theorem products_group (b : BitVec 5) (m : BitVec 2) :
    (l.map fun i => if activeAt (maskOf s k.toNat) (columns s) i then
        elemOp iMul vMul (typ s) (if isInt (typ s) then 0 else m.toNat) (mine s).fctl
          (((List.range (count s)).map (elem s a.toNat)).getD i 0) (((List.range (count s)).map (elem s b.toNat)).getD i 0) 0
      else (0, 0)) =
      l.map fun j => if active s k j then
          arith s m (fun x y _ => x * y) (fun _ x y _ => mulVal x y) (elem s a.toNat j) (elem s b.toNat j) 0
        else (0, 0) :=
  List.map_congr_left fun i hi => by rw [getD_group hl a i hi, getD_group hl b i hi]; rfl

end Group

/-- A row or column reduction (R163). -/
theorem reduction_eq {s : State} {byRow sum : Bool} {v a : BitVec 5} {k : BitVec 3} {m : BitVec 2} (hf : Free s) (hu : ¬ OnHub s)
    (hn : Nameable s [v.toNat, a.toNat]) :
    s.reduction byRow sum v a k m = .next (tileDone s ⟨[v.toNat, a.toNat], Claims.occB s, Claims.occB s + 3, v.toNat, typ s, mFb s m sum,
      fun i => if headOf s byRow i then (if sum then rowSum s a k m (groupOf s byRow i) else rowMax s a k (groupOf s byRow i))
        else (elem s a.toNat i, 0)⟩) := by
  have same := sameOperands_occupied s (Claims.occB s)
  have noted := sameOperands_markFallback same (mFb s m sum)
  unfold State.reduction
  rw [show s.occB = Claims.occB s from rfl, vec_issues hf hu hn]
  dsimp only
  rw [mFallback_sameOperands same, elemsOf_sameOperands same, ty_sameOperands same, occB_sameOperands noted, act_sameOperands noted,
    cols_sameOperands noted, rows_sameOperands noted, modeOf_sameOperands noted, ovinf_sameOperands noted]
  refine congrArg _ (vecOut_eq_tileDone rfl rfl rfl rfl (reduceInto_elems s byRow a _
    (fun l => if sum then rowSum s a k m l else rowMax s a k l) fun l hl => ?_))
  cases sum with
  | true => simp only [if_true, sum_group hl, decodeFlags_group hl, rowSum]
  | false => simp only [Bool.false_eq_true, if_false, max_group hl, decodeFlags_group hl, rowMax]

/-- VRDOT (R164). -/
theorem execVrdot_eq {s : State} {v a b : BitVec 5} {k : BitVec 3} {m : BitVec 2} {w : TileWord} (hf : Free s)
    (hu : ¬ OnHub s) (hw : reductionWord s (.vrdot v a b k m) = some w) (hn : Nameable s w.names) :
    execVrdot v a b k m s = .next (tileDone s w) := by
  cases hw
  replace hn : Nameable s [v.toNat, a.toNat, b.toNat] := hn
  have same := sameOperands_occupied s (Claims.occB s)
  have noted := sameOperands_markFallback same (mFb s m true)
  unfold execVrdot
  rw [show s.occB = Claims.occB s from rfl, vec_issues hf hu hn]
  dsimp only
  rw [mFallback_sameOperands same, elemsOf_sameOperands same, elemsOf_sameOperands same, ty_sameOperands same, occB_sameOperands noted,
    act_sameOperands noted, cols_sameOperands noted, rows_sameOperands noted, modeOf_sameOperands noted, ovinf_sameOperands noted]
  refine congrArg _ (vecOut_eq_tileDone rfl rfl rfl rfl ?_)
  rw [reduceInto_elems s true a _ _ fun l hl => by rw [products_group hl]]
  simp [headOf, groupOf, sumOver]

theorem reductions : Claims.Reductions := by
  intro s i w hf hu hw hn
  cases i with
  | vrsum | vrmax | vcsum | vcmax =>
    cases hw
    exact (reduction_eq hf hu hn).trans (by simp [headOf, groupOf])
  | vrdot => exact execVrdot_eq hf hu hw hn
  | _ => cases hw

/-! ## Conversions -/

theorem slots_max (x y : Nat) : slots (max x y) = max (slots x) (slots y) := by
  unfold slots cdiv
  omega

/-- Occupancy of a word that converts to type `t` (R155, R169). -/
theorem slots_convert (s : State) (t : Nat) :
    slots (max (shapeBytes s.shp) (bytesFor t (shapeCount s.shp))) = max (Claims.occB s) (cyclesFor t (count s)) := slots_max _ _

theorem execViota_eq {s : State} {v g : BitVec 5} {n : BitVec 2} {k : BitVec 3} {m : BitVec 2} {w : TileWord} (hf : Free s)
    (hu : ¬ OnHub s) (hw : convertWord s (.viota v g n k m) = some w) (hn : Nameable s w.names) :
    execViota v g n k m s = .next (tileDone s w) := by
  cases hw
  refine (fillWith_eq hf hu hn).trans ?_
  have same := sameOperands_occupied s (Claims.occB s)
  simp only [ty_sameOperands same, modeOf_sameOperands same, ovinf_sameOperands same, gr_sameOperands same, rows_sameOperands same,
    cols_sameOperands same]
  rfl

theorem execVcvt_eq {s : State} {v a : BitVec 5} {t : BitVec 4} {k : BitVec 3} {m : BitVec 2} {w : TileWord} (hf : Free s)
    (hu : ¬ OnHub s) (hw : convertWord s (.vcvt v a t k m) = some w) (hn : Nameable s w.names) :
    execVcvt v a t k m s = .next (tileDone s w) := by
  obtain ⟨fits, hw⟩ := Option.ite_none_right_eq_some.1 hw
  cases hw
  have same := sameOperands_occupied s (max (Claims.occB s) (cyclesFor t.toNat (count s)))
  have legal : ¬ 4096 < bytesFor t.toNat (shapeCount s.shp) := Nat.not_lt.2 fits
  unfold execVcvt
  dsimp only
  rw [slots_convert, vec_issues hf hu hn, if_neg legal, State.kFallback, fallback_eq_markFallback,
    elemsOf_sameOperands same, ty_sameOperands same, ovinf_sameOperands same, List.map_map]
  exact congrArg _ (vecOut_eq_tileDone rfl rfl rfl rfl rfl)

theorem execVqnt_eq {s : State} {v a : BitVec 5} {n : BitVec 4} {f : BitVec 3} {w : TileWord} (hf : Free s)
    (hu : ¬ OnHub s) (hw : convertWord s (.vqnt v a n f) = some w) (hn : Nameable s w.names) :
    execVqnt v a n f s = .next (tileDone s w) := by
  obtain ⟨⟨hcode, fits⟩, hw⟩ := Option.ite_none_right_eq_some.1 hw
  cases hw
  have same := sameOperands_occupied s (max (Claims.occB s) (cyclesFor (quantType f.toNat) (count s)))
  have legal : ¬ (5 ≤ f.toNat ∨ 4096 < bytesFor (quantType f.toNat) (shapeCount s.shp)) :=
    not_or.2 ⟨Nat.not_le.2 hcode, Nat.not_lt.2 fits⟩
  unfold execVqnt
  dsimp only
  rw [slots_convert, vec_issues hf hu hn, if_neg legal, elemsOf_sameOperands same,
    ty_sameOperands same, ring_sameOperands same, List.map_map]
  exact congrArg _ (vecOut_eq_tileDone (fallback_eq_markFallback _ false) rfl rfl rfl rfl)

/-- A special-function word (R79, R172). -/
theorem specialWord_eq {s : State} {fn : Nat} {v a : BitVec 5} {k : BitVec 3} (hf : Free s) (hu : ¬ OnHub s)
    (hn : Nameable s [v.toNat, a.toNat]) :
    s.specialWord fn v a k = .next (tileDone s ⟨[v.toNat, a.toNat], 2 * Claims.occB s, 2 * Claims.occB s + 9, v.toNat, typ s, false,
      masked s k a fun i => special fn (typ s) (elem s a.toNat i) (mine s).fctl⟩) := by
  have same := sameOperands_occupied s (2 * Claims.occB s)
  unfold State.specialWord
  rw [show s.occB = Claims.occB s from rfl, vec_issues hf hu hn]
  dsimp only
  rw [elemsOf_sameOperands same, ty_sameOperands same, occB_sameOperands same, act_sameOperands same, cols_sameOperands same,
    ovinf_sameOperands same]
  refine congrArg _ (vecOut_eq_tileDone (fallback_eq_markFallback _ false) rfl rfl rfl (passThrough_elems s k a _ _ fun i hi => ?_))
  rw [getD_elems hi]

theorem convertingWords : Claims.ConvertingWords := by
  intro s i w hf hu hw hn
  cases i with
  | viota => exact execViota_eq hf hu hw hn
  | vcvt => exact execVcvt_eq hf hu hw hn
  | vqnt => exact execVqnt_eq hf hu hw hn
  | vrcpa | vrsqa | vexp2 | vlog2 | vtanh =>
    cases hw
    exact specialWord_eq hf hu hn
  | _ => cases hw

/-- Settles O11, from what each shell of the VEC column gives, element by element. -/
theorem reducingTileWords : Obligations.ReducingTileWords := ⟨reductions, convertingWords⟩

end Sys2Proof.Laws
end

/-! # Accesses at their home -/

section

namespace Sys2Proof.Laws

open Sys2Proof Sys2Proof.Machine Sys2Proof.Claims

/-! ## Bytes of a canonical store -/

/-- What a read finds in a list: what it finds in the first entry, and in the rest. -/
theorem read_cons (c : Host.Cell) (m : List Host.Cell) (a n : Nat) :
    Memory.read (c :: m) a n = (if a ≤ c.1 ∧ c.1 < a + n then c.2.toNat * 2 ^ (8 * (c.1 - a)) else 0) + Memory.read m a n := by
  have shift : ∀ (l : List Host.Cell) (x : Nat), l.foldl (fun x c => if a ≤ c.1 ∧ c.1 < a + n then x + c.2.toNat * 2 ^ (8 * (c.1 - a)) else x) x =
      x + Memory.read l a n := by
    intro l
    induction l with
    | nil => intro x; rfl
    | cons d l ih =>
      intro x
      unfold Memory.read
      rw [List.foldl_cons, List.foldl_cons, ih, ih]
      split <;> omega
  unfold Memory.read
  rw [List.foldl_cons, shift]
  split <;> simp [Memory.read]

/-- A read of two stretches, one behind the other. -/
theorem read_add (m : List Host.Cell) (a n k : Nat) :
    Memory.read m a (n + k) = Memory.read m a n + Memory.read m (a + n) k * 2 ^ (8 * n) := by
  induction m with
  | nil => simp [Memory.read]
  | cons c m ih =>
    rw [read_cons, read_cons, read_cons, ih, Nat.add_mul]
    by_cases hlow : a ≤ c.1 ∧ c.1 < a + n
    · rw [if_pos hlow, if_pos (by omega), if_neg (by omega)]
      omega
    · by_cases hhigh : a + n ≤ c.1 ∧ c.1 < a + n + k
      · have place : 8 * (c.1 - a) = 8 * (c.1 - (a + n)) + 8 * n := by omega
        rw [if_neg hlow, if_pos hhigh, if_pos (by omega), place, Nat.pow_add, Nat.mul_assoc]
        omega
      · rw [if_neg hlow, if_neg hhigh, if_neg (by omega)]
        omega

theorem read_of_above {m : List Host.Cell} {a n : Nat} (h : Above (a + n) m) : Memory.read m a n = 0 := by
  induction m with
  | nil => rfl
  | cons c m ih =>
    have here := h c (List.mem_cons_self ..)
    rw [read_cons, if_neg (by omega), ih fun x hx => h x (List.mem_cons_of_mem _ hx)]

/-- A canonical store lists a byte once, so that a read of one byte is a byte. -/
theorem read_one {m : List Host.Cell} (h : Memory.wf m = true) (a : Nat) : Memory.read m a 1 < 256 := by
  induction m with
  | nil => exact Nat.zero_lt_of_lt (show 0 < 256 by decide)
  | cons c m ih =>
    obtain ⟨-, habove, hwf⟩ := (wf_cons c m).1 h
    rw [read_cons]
    by_cases hc : a ≤ c.1 ∧ c.1 < a + 1
    · have here : c.1 = a := by omega
      rw [if_pos hc, read_of_above (here ▸ habove), here]
      simpa using c.2.isLt
    · rw [if_neg hc, Nat.zero_add]
      exact ih hwf

theorem read_zero (m : List Host.Cell) (a : Nat) : Memory.read m a 0 = 0 := by
  have twice := read_add m a 0 0
  simp only [Nat.add_zero, Nat.mul_zero, Nat.pow_zero, Nat.mul_one] at twice
  omega

theorem read_lt {m : List Host.Cell} (h : Memory.wf m = true) (a n : Nat) : Memory.read m a n < 2 ^ (8 * n) := by
  induction n with
  | zero => rw [read_zero]; exact Nat.two_pow_pos _
  | succ n ih =>
    have one := read_one h (a + n)
    calc Memory.read m a (n + 1) = Memory.read m a n + Memory.read m (a + n) 1 * 2 ^ (8 * n) := read_add m a n 1
      _ < 2 ^ (8 * n) * 256 := by nlinarith [Nat.two_pow_pos (8 * n)]
      _ = 2 ^ (8 * (n + 1)) := (Nat.pow_add 2 (8 * n) 8).symm

/-! ## The blocks of a range -/

/-- How many bytes of a range its first `i` blocks hold. -/
def reached (a n i : Nat) : Nat := min (a + n) ((a / 64 + i) * 64) - a

theorem reached_zero (a n : Nat) : reached a n 0 = 0 := by unfold reached; omega

theorem reached_blockNum (a n : Nat) : reached a n (blockNum a n) = n := by
  unfold reached blockNum
  split <;> omega

theorem reached_succ_le (a n i : Nat) : reached a n (i + 1) ≤ n := by unfold reached; omega

/-- Block `i` of a range holds what it adds to the blocks before it. -/
theorem blockAt_eq {a n i : Nat} (hi : i < blockNum a n) :
    blockAt a n i = ((a / 64 + i) * 64, a + reached a n i, reached a n (i + 1) - reached a n i) := by
  unfold blockNum at hi
  unfold blockAt reached
  split at hi
  · omega
  · simp only [Prod.mk.injEq, true_and]
    omega

theorem reached_le_succ (a n i : Nat) : reached a n i ≤ reached a n (i + 1) := by unfold reached; omega

/-! ## An access reaches its home -/

theorem exec_accessHomeCycle {s : State} {a : Access} (h : s.arg = .access a) : exec .accessHomeCycle s = .next (s.atHome a) := by
  simp [exec, execAccessHomeCycle, h]

/-- A load or a store that nothing turns away takes its place (R244). -/
theorem atHome_reaches {s : State} {a : Access} (hgen : Present s a.part a.gen) (hcut : s.cutOff a = false) (hway : s.crosses a = true)
    (hheld : s.heldBy a = none) :
    (a.op = .read → s.atHome a = s.readAt a) ∧ (a.op = .write → s.atHome a = s.writeAt a) := by
  have present : ¬ (a.part ≠ 63 ∧ a.gen ≠ s.gen a.part) := fun h => hgen.elim h.1 h.2
  unfold State.atHome
  rw [if_neg present, hcut, if_neg Bool.false_ne_true, hway, if_neg (by decide), hheld]
  exact ⟨fun hop => by rw [hop], fun hop => by rw [hop]⟩

theorem atHome_spad {s : State} {a : Access} {c : Nat} (hspace : a.space = .spad c) (hgen : Present s a.part a.gen) :
    (a.op = .read → s.atHome a = s.readAt a) ∧ (a.op = .write → s.atHome a = s.writeAt a) :=
  atHome_reaches hgen (by simp [State.cutOff, hspace]) (by simp [State.crosses, Access.timed, hspace]) (by simp [State.heldBy, hspace])

/-- The turn of one block of an access: what `State.takeBlocks` does with each. -/
def takeOne (x : Access × List (Nat × Nat) × State) (e : Nat × Nat) : Access × List (Nat × Nat) × State :=
  let (a, rest, s) := x
  if a.filled then x
  else if s.now < e.1 ∨ (a.ordered ∧ rest ≠ []) then (a, rest ++ [(max e.1 (s.now + if a.ordered ∧ rest ≠ [] then 1 else 0), e.2)], s)
  else match s.turn a e.2 with
    | some (a, s) => (a, rest, s)
    | none => (a, rest ++ [(s.now + 1, e.2)], s)

theorem takeBlocks_eq {s : State} {a : Access} (h : a.todo = none) :
    s.takeBlocks a =
      let r := ((List.range (blockNum a.addr a.len)).map fun i => (s.now, i)).foldl takeOne (a, [], s)
      ({ r.1 with todo := some (if r.1.filled then [] else r.2.1) }, r.2.2) := by
  unfold State.takeBlocks
  rw [h]
  rfl

/-- A load whose blocks come in any order, and that no block fills early. -/
def Untagged (a : Access) : Prop := a.filled = false ∧ a.ordered = false

theorem untagged_of_dest {a : Access} (h : a.dest = .none ∨ ∃ n, a.dest = .g n ∨ a.dest = .tile n) : Untagged a := by
  obtain h | ⟨n, h | h⟩ := h <;> simp [Untagged, Access.filled, Access.ordered, h]

/-- All blocks of an access take their turn in this cycle, where none is refused: `A i` and `S i` are the access and the state before
block `i`. -/
theorem takeBlocks_all {s : State} {a : Access} (hdo : a.todo = none) (A : Nat → Access) (S : Nat → State) (hA : A 0 = a) (hS : S 0 = s)
    (hturn : ∀ i < blockNum a.addr a.len, (S i).turn (A i) i = some (A (i + 1), S (i + 1)))
    (hloose : ∀ i, Untagged (A i)) (hnow : ∀ i, (S i).now = s.now) :
    s.takeBlocks a = ({ A (blockNum a.addr a.len) with todo := some [] }, S (blockNum a.addr a.len)) := by
  have turns : ∀ n ≤ blockNum a.addr a.len, ((List.range n).map fun i => (s.now, i)).foldl takeOne (a, [], s) = (A n, [], S n) := by
    intro n hn
    induction n with
    | zero => rw [hA, hS]; rfl
    | succ n ih =>
      obtain ⟨hfilled, hordered⟩ := hloose n
      rw [List.range_succ, List.map_append, List.foldl_append, ih (by omega)]
      simp [takeOne, hfilled, hordered, hnow, hturn n (by omega)]
  rw [takeBlocks_eq hdo, turns _ (Nat.le_refl _)]
  simp

/-! ## Records of accesses -/

/-- `t` is `s` but for the accesses outstanding of one sequencer. -/
def Recorded (sid : Nat) (s t : State) : Prop := ∃ o, t = { s with seqs := Fm.set s.seqs sid { s.seq sid with outst := o } }

theorem spad_recorded {sid : Nat} {s t : State} (h : Recorded sid s t) : t.spad = s.spad := by
  obtain ⟨o, rfl⟩ := h
  rfl

theorem outst_recorded {sid : Nat} {s t : State} (h : Recorded sid s t) (i : Nat) :
    Fm.get {} t.seqs i = { (Fm.get {} s.seqs i : Seq) with outst := (Fm.get {} t.seqs i : Seq).outst } := by
  obtain ⟨o, rfl⟩ := h
  by_cases hi : sid = i
  · subst hi
    rw [get_set_same]
    rfl
  · rw [get_set_other _ _ _ _ _ hi]

theorem recorded_visibleAt (s : State) {sid : Nat} (id : Nat) (c : Option Nat) (hsid : sid < 8192) : Recorded sid s (s.visibleAt sid id c) := by
  unfold State.visibleAt
  rw [if_neg (Nat.not_le.2 hsid)]
  exact ⟨_, rfl⟩

theorem drew_eq (s : State) : ∃ ch dr, s.drew = { s with choices := ch, drawn := dr } := by
  unfold State.drew
  split
  · exact ⟨_, _, rfl⟩
  · exact ⟨_, _, rfl⟩

/-- A store that is complete leaves only the record of its completion, and perhaps draws the cycle in which it is acknowledged. -/
theorem wrote_eq {s : State} {a : Access} (hchunk : a.chunk = none) (hsid : a.sid < 8192) :
    ∃ q ch dr, s.wrote a = { s with seqs := q, choices := ch, drawn := dr } ∧
      ∀ i, Fm.get {} q i = { (Fm.get {} s.seqs i : Seq) with outst := (Fm.get {} q i : Seq).outst } := by
  obtain ⟨c, u, hdrew, hwrote⟩ : ∃ c u, (u = s ∨ u = s.drew) ∧ s.wrote a = u.visibleAt a.sid a.id c := by
    unfold State.wrote
    rw [hchunk]
    dsimp only
    split
    · exact ⟨_, _, .inr rfl, rfl⟩
    · exact ⟨_, _, .inl rfl, rfl⟩
  obtain ⟨ch, dr, rfl⟩ : ∃ ch dr, u = { s with choices := ch, drawn := dr } := by
    rcases hdrew with rfl | rfl
    · exact ⟨_, _, rfl⟩
    · exact drew_eq s
  have record := recorded_visibleAt { s with choices := ch, drawn := dr } a.id c hsid
  rw [← hwrote] at record
  have outst := outst_recorded record
  obtain ⟨o, ho⟩ := record
  exact ⟨_, ch, dr, ho, fun i => by simpa only [ho] using outst i⟩

theorem recorded_wrote_spad {s : State} {a : Access} {c : Nat} (hspace : a.space = .spad c) (hchunk : a.chunk = none) (hsid : a.sid < 8192) :
    Recorded a.sid s (s.wrote a) := by
  unfold State.wrote
  rw [hchunk]
  simp only [hspace, reduceCtorEq, and_false, if_false]
  exact recorded_visibleAt _ _ _ hsid

/-! ## Scratchpad stores (R184, R268) -/

theorem spadAddr_of_lt {c a : Nat} (h : a < 4194304) : spadAddr c a = c * 4194304 + a := by
  unfold spadAddr Config.spadBytes
  rw [Nat.mod_eq_of_lt h]

/-- The state when the first `n` blocks of a store have been written. -/
def storedTo (s : State) (a : Access) (n : Nat) : State := (List.range n).foldl (fun s i => s.storeBlock a i) s

theorem storedTo_succ (s : State) (a : Access) (n : Nat) : storedTo s a (n + 1) = (storedTo s a n).storeBlock a n := by
  simp [storedTo, List.range_succ]

theorem storeBlock_spad {s : State} {a : Access} {c : Nat} (hspace : a.space = .spad c) (i : Nat) :
    ∃ tag, s.storeBlock a i = s.spadWrite c (blockAt a.addr a.len i).2.1 (blockAt a.addr a.len i).2.2
      (bits a.data (8 * ((blockAt a.addr a.len i).2.1 - a.addr)) (8 * (blockAt a.addr a.len i).2.2)) tag := by
  unfold State.storeBlock
  rw [hspace]
  exact ⟨_, rfl⟩

/-- `t` is `s` but for what the scratchpads hold. -/
def SpadOnly (s t : State) : Prop := t = { s with spad := t.spad, stag := t.stag, sbad := t.sbad }

theorem spadOnly_storedTo {s : State} {a : Access} {c : Nat} (hspace : a.space = .spad c) (n : Nat) : SpadOnly s (storedTo s a n) := by
  induction n with
  | zero => rfl
  | succ n ih =>
    obtain ⟨tag, h⟩ := storeBlock_spad (s := storedTo s a n) hspace n
    unfold SpadOnly at *
    rw [storedTo_succ, h, State.spadWrite, ih]

theorem seqs_spadOnly {s t : State} (h : SpadOnly s t) : t.seqs = s.seqs := by rw [h]

/-- Byte `k` of a block of a store is the store's. -/
theorem byte_of_bits {x d n k : Nat} (hk : k < n) : bits x (8 * d) (8 * n) / 256 ^ k % 256 = x / 2 ^ (8 * (d + k)) % 256 := by
  apply Nat.eq_of_testBit_eq
  intro j
  rw [show 256 ^ k = 2 ^ (8 * k) by rw [Nat.pow_mul], show (256 : Nat) = 2 ^ 8 by rfl]
  simp only [bits, Nat.testBit_mod_two_pow, Nat.testBit_div_two_pow]
  by_cases hj : j < 8
  · rw [decide_eq_true hj, decide_eq_true (show j + 8 * k < 8 * n by omega), show j + 8 * k + 8 * d = j + 8 * (d + k) by ring]
    rfl
  · simp [hj]

/-- The bytes of all scratchpads when the first `n` blocks of a store, whose first byte is byte `w` of them, have been written. -/
theorem byte_storedTo {s : State} {a : Access} {c w : Nat} (hspace : a.space = .spad c) (hfit : a.addr + a.len ≤ 4194304)
    (hw : c * 4194304 + a.addr = w) {n : Nat} (hn : n ≤ blockNum a.addr a.len) (b : Nat) :
    Memory.byte (storedTo s a n).spad b =
      if w ≤ b ∧ b < w + reached a.addr a.len n then BitVec.ofNat 8 (a.data / 2 ^ (8 * (b - w))) else Memory.byte s.spad b := by
  induction n with
  | zero =>
    rw [reached_zero, if_neg (by omega)]
    rfl
  | succ n ih =>
    obtain ⟨tag, h⟩ := storeBlock_spad (s := storedTo s a n) hspace n
    have grows := reached_le_succ a.addr a.len n
    have inside := reached_succ_le a.addr a.len n
    have place : reached a.addr a.len n < reached a.addr a.len (n + 1) →
        spadAddr c (a.addr + reached a.addr a.len n) = w + reached a.addr a.len n := fun hlt => by
      rw [spadAddr_of_lt (by omega), ← hw, Nat.add_assoc]
    rw [storedTo_succ, h, blockAt_eq (by omega), spadWrite_byte, ih (by omega)]
    dsimp only
    generalize reached a.addr a.len n = r, reached a.addr a.len (n + 1) = r' at *
    by_cases hhere : w + r ≤ b ∧ b < w + r'
    · rw [place (by omega), if_pos (by omega), if_pos (by omega)]
      apply BitVec.eq_of_toNat_eq
      rw [BitVec.toNat_ofNat, BitVec.toNat_ofNat, Nat.add_sub_cancel_left]
      refine (byte_of_bits (by omega)).trans ?_
      rw [show r + (b - (w + r)) = b - w by omega]
    · have outside : ¬ (spadAddr c (a.addr + r) ≤ b ∧ b < spadAddr c (a.addr + r) + (r' - r)) := fun hb => by
        have hp := place (by omega)
        omega
      rw [if_neg outside]
      by_cases hbefore : w ≤ b ∧ b < w + r
      · rw [if_pos hbefore, if_pos (by omega)]
      · rw [if_neg hbefore, if_neg (by omega)]

theorem writeAt_spad {s : State} {a : Access} {c : Nat} (hspace : a.space = .spad c) (hop : a.op = .write) (hdest : a.dest = .none)
    (hdo : a.todo = none) :
    s.writeAt a = (storedTo s a (blockNum a.addr a.len)).wrote { a with todo := some [] } := by
  have taken := takeBlocks_all (s := s) hdo (fun _ => a) (storedTo s a) rfl rfl
    (fun i _ => by rw [storedTo_succ]; simp [State.turn, hspace, hop]) (fun _ => untagged_of_dest (.inl hdest))
    (fun i => by rw [spadOnly_storedTo hspace i])
  unfold State.writeAt
  simp only [hspace, taken]
  rfl

theorem spadOnly_recorded {sid : Nat} {s u t : State} (h : SpadOnly s u) (k : Recorded sid u t) :
    t = { s with spad := t.spad, stag := t.stag, sbad := t.sbad, seqs := t.seqs } := by
  obtain ⟨o, rfl⟩ := k
  exact congrArg (fun v : State => { v with seqs := Fm.set u.seqs sid { u.seq sid with outst := o } }) h

theorem scratchpadStoreAtHome : Claims.ScratchpadStoreAtHome := by
  intro s a c harg hop hspace hgen hfit hsid hdest hdo hchunk
  obtain ⟨-, hhome⟩ := atHome_spad hspace hgen
  have only := spadOnly_storedTo (s := s) hspace (blockNum a.addr a.len)
  have bytes := byte_storedTo (s := s) hspace hfit rfl (Nat.le_refl _)
  have wrote := recorded_wrote_spad (s := storedTo s a (blockNum a.addr a.len)) (a := { a with todo := some [] }) hspace hchunk hsid
  rw [reached_blockNum] at bytes
  refine ⟨_, by rw [exec_accessHomeCycle harg, hhome hop, writeAt_spad hspace hop hdest hdo], ?_⟩
  generalize State.wrote _ _ = t at *
  refine ⟨fun i hi => ?_, fun b hb => ?_, spadOnly_recorded only wrote, ?_⟩
  · rw [spad_recorded wrote, bytes, if_pos (by omega), Nat.add_sub_cancel_left]
    rfl
  · rw [spad_recorded wrote, bytes, if_neg (by omega)]
  · rw [← seqs_spadOnly only]
    exact outst_recorded wrote

/-! ## Load data on its way (R177) -/

/-- The data of a load leaves its home: it is delivered no earlier than the promised cycle. -/
theorem deliver_eq {s : State} {a : Access} {l : Loaded} {p : Nat} (hsid : a.sid < 8192) (hchunk : a.chunk = none)
    (hp : a.promise = some p) :
    s.deliver a l = (s.arrivalOf a l.hit).2.push (event (max p (s.arrivalOf a l.hit).1) 1 (landKey a.issue a.sid a.col) .loadDataDelivery
      (.deliver { a with leave := (s.arrivalOf a l.hit).2.now, off := a.off + l.bad.getD 0 } l.data l.tags l.ctag l.bad.isSome)) := by
  unfold State.deliver
  rw [if_neg (Nat.not_le.2 hsid)]
  simp only [hchunk, hp]
  rfl

/-- What one block adds to the data of a load. -/
def addBlock (a : Access) (l : Loaded) (e : Nat × Block × Bool) : Loaded :=
  let t := blockAt a.addr a.len e.1
  let b := e.2.1
  { data := l.data + (if b.bad then 0 else bits b.data.toNat (8 * (t.2.1 - t.1)) (8 * t.2.2)) * 2 ^ (8 * (t.2.1 - a.addr))
    tags := l.tags ++ [if b.bad then 0x7F00 else b.tag]
    ctag := !b.bad && b.ctag.getLsbD (t.2.1 / 16 % 4)
    bad := match l.bad with
      | some o => some o
      | none => if b.bad then some (t.2.1 - a.addr) else none
    hit := l.hit && e.2.2 }

theorem loaded_eq (a : Access) : a.loaded = a.got.foldl (addBlock a) {} := by rfl

/-- What a block was filled with from bit `8 d` on is read back from there. -/
theorem bits_shifted {x d k : Nat} (hx : x < 2 ^ (8 * k)) (hfit : d + k ≤ 64) :
    bits (BitVec.ofNat 512 (x * 2 ^ (8 * d))).toNat (8 * d) (8 * k) = x := by
  have bound : x * 2 ^ (8 * d) < 2 ^ 512 := calc
    x * 2 ^ (8 * d) < 2 ^ (8 * k) * 2 ^ (8 * d) := Nat.mul_lt_mul_of_pos_right hx (Nat.two_pow_pos _)
    _ = 2 ^ (8 * k + 8 * d) := (Nat.pow_add ..).symm
    _ ≤ 2 ^ 512 := Nat.pow_le_pow_right (by decide) (by omega)
  rw [BitVec.toNat_ofNat, Nat.mod_eq_of_lt bound, bits, Nat.mul_div_cancel _ (Nat.two_pow_pos _), Nat.mod_eq_of_lt hx]

/-! ## Scratchpad loads (R268) -/

theorem spadBad_eq_nil_iff {s : State} {c a n : Nat} :
    s.spadBad c a n = [] ↔ ∀ i < blockNum (spadAddr c a) n, s.sbad.contains (spadAddr c a / 64 + i) = false := by
  simp [State.spadBad, blocksOf, blockAt]

/-- A part of a range without uncorrectable block has none. -/
theorem spadBad_part {s : State} {c a n r k : Nat} (h : s.spadBad c a n = []) (hpart : r + k ≤ n) (hfit : a + n ≤ 4194304) :
    s.spadBad c (a + r) k = [] := by
  rw [spadBad_eq_nil_iff] at *
  intro i hi
  have some_ : 0 < k := Nat.pos_of_ne_zero fun hk => by simp [blockNum, hk] at hi
  have place : spadAddr c (a + r) = spadAddr c a + r := by
    rw [spadAddr_of_lt (by omega), spadAddr_of_lt (by omega), Nat.add_assoc]
  rw [place] at hi ⊢
  generalize spadAddr c a = w at *
  have inside : (w + r) / 64 - w / 64 + i < blockNum w n := by
    unfold blockNum at *
    rw [if_neg (by omega)] at hi ⊢
    omega
  rw [← h _ inside]
  congr 1
  omega

/-- Block `i` of a scratchpad load, as it is read. -/
def spadBlock (s : State) (a : Access) (c i : Nat) : Block :=
  let t := blockAt a.addr a.len i
  { data := BitVec.ofNat 512 (s.spadRead c t.2.1 t.2.2 * 2 ^ (8 * (t.2.1 - t.1))), tag := s.spadTag c t.1,
    bad := (s.spadFirstBad c t.2.1 t.2.2).isSome }

/-- The first `n` blocks of a scratchpad load. -/
def spadGot (s : State) (a : Access) (c n : Nat) : Fm (Block × Bool) := (List.range n).map fun i => (i, spadBlock s a c i, true)

theorem spadGot_succ (s : State) (a : Access) (c n : Nat) : spadGot s a c (n + 1) = spadGot s a c n ++ [(n, spadBlock s a c n, true)] := by
  simp [spadGot, List.range_succ]

/-- A key above all others is listed last. -/
theorem set_eq_append {α : Type} {m : Fm α} {i : Nat} (x : α) (h : ∀ e ∈ m, e.1 < i) : Fm.set m i x = m ++ [(i, x)] := by
  induction m with
  | nil => rfl
  | cons e m ih =>
    have first := h e (List.mem_cons_self ..)
    rw [Fm.set, if_neg (by omega), if_neg (by omega), ih fun y hy => h y (List.mem_cons_of_mem _ hy), List.cons_append]

theorem turn_spad_read {s : State} {a : Access} {c : Nat} (hspace : a.space = .spad c) (hop : a.op = .read) (n : Nat) :
    s.turn { a with got := spadGot s a c n } n = some ({ a with got := spadGot s a c (n + 1) }, s) := by
  rw [spadGot_succ, ← set_eq_append _ (by simp [spadGot])]
  simp [State.turn, hspace, hop, spadBlock]

theorem readAt_spad {s : State} {a : Access} {c : Nat} (hspace : a.space = .spad c) (hop : a.op = .read)
    (hdest : a.dest = .none ∨ ∃ n, a.dest = .g n ∨ a.dest = .tile n) (hdo : a.todo = none) (hgot : a.got = []) :
    ∃ b : Access, b = { a with todo := some [], got := spadGot s a c (blockNum a.addr a.len) } ∧ s.readAt a = s.deliver b b.loaded := by
  have taken := takeBlocks_all (s := s) hdo (fun n => { a with got := spadGot s a c n }) (fun _ => s) (by simp [spadGot, ← hgot]) rfl
    (fun n _ => turn_spad_read hspace hop n) (fun _ => untagged_of_dest hdest) (fun _ => rfl)
  refine ⟨_, rfl, ?_⟩
  unfold State.readAt
  simp only [hspace, taken]
  rfl

theorem spadRead_of_good {s : State} {c a n : Nat} (h : s.spadBad c a n = []) :
    s.spadRead c a n = Memory.read s.spad (spadAddr c a) n ∧ s.spadFirstBad c a n = none := by
  unfold State.spadRead State.spadFirstBad
  rw [h]
  exact ⟨rfl, rfl⟩

/-- A block of a load from a canonical store adds the bytes that are there. -/
theorem bits_spadBlock {s : State} {a : Access} {c w : Nat} (hs : Memory.wf s.spad = true) (hbad : s.spadBad c a.addr a.len = [])
    (hfit : a.addr + a.len ≤ 4194304) (hw : c * 4194304 + a.addr = w) {n : Nat} (hn : n < blockNum a.addr a.len) :
    let t := blockAt a.addr a.len n
    (spadBlock s a c n).bad = false ∧ (spadBlock s a c n).ctag = 0 ∧
      bits (spadBlock s a c n).data.toNat (8 * (t.2.1 - t.1)) (8 * t.2.2) =
        Memory.read s.spad (w + reached a.addr a.len n) (reached a.addr a.len (n + 1) - reached a.addr a.len n) := by
  have grows := reached_le_succ a.addr a.len n
  have inside := reached_succ_le a.addr a.len n
  have more : reached a.addr a.len n < a.len := by
    unfold blockNum at hn
    unfold reached
    split at hn <;> omega
  have place : spadAddr c (a.addr + reached a.addr a.len n) = w + reached a.addr a.len n := by
    rw [spadAddr_of_lt (by omega), ← hw, Nat.add_assoc]
  have good := spadBad_part (r := reached a.addr a.len n) (k := reached a.addr a.len (n + 1) - reached a.addr a.len n) hbad (by omega) hfit
  obtain ⟨hread, hfirst⟩ := spadRead_of_good good
  have fits : (a.addr + reached a.addr a.len n - (a.addr / 64 + n) * 64) + (reached a.addr a.len (n + 1) - reached a.addr a.len n) ≤ 64 := by
    unfold reached
    omega
  unfold spadBlock
  rw [blockAt_eq hn]
  dsimp only
  rw [hread, hfirst, place]
  exact ⟨rfl, rfl, bits_shifted (read_lt hs _ _) fits⟩

/-- The data of the first `n` blocks of a load from a canonical store. -/
theorem loaded_spad {s : State} {a : Access} {c w : Nat} (hs : Memory.wf s.spad = true) (hbad : s.spadBad c a.addr a.len = [])
    (hfit : a.addr + a.len ≤ 4194304) (hw : c * 4194304 + a.addr = w) {n : Nat} (hn : n ≤ blockNum a.addr a.len) :
    ∃ tags, (spadGot s a c n).foldl (addBlock a) {} = { data := Memory.read s.spad w (reached a.addr a.len n), tags := tags } := by
  induction n with
  | zero => exact ⟨[], by rw [reached_zero, read_zero]; rfl⟩
  | succ n ih =>
    obtain ⟨tags, ih⟩ := ih (by omega)
    obtain ⟨hgood, hctag, hbits⟩ := bits_spadBlock hs hbad hfit hw (show n < blockNum a.addr a.len by omega)
    have sum := read_add s.spad w (reached a.addr a.len n) (reached a.addr a.len (n + 1) - reached a.addr a.len n)
    rw [Nat.add_sub_cancel' (reached_le_succ a.addr a.len n)] at sum
    rw [spadGot_succ, List.foldl_append, ih, sum, ← hbits]
    refine ⟨tags ++ [(spadBlock s a c n).tag], ?_⟩
    simp [addBlock, hgood, hctag, blockAt_eq (show n < blockNum a.addr a.len by omega)]

/-- A load from a canonical scratchpad store takes the bytes that are there and delivers them in its promised cycle, where the home
cycle is not later; it changes nothing else. -/
theorem scratchpadLoadAtHome_of_wf {s : State} {a : Access} {c p n : Nat} (hs : Memory.wf s.spad = true) (harg : s.arg = .access a)
    (hop : a.op = .read) (hspace : a.space = .spad c) (hgen : Present s a.part a.gen) (hsid : a.sid < 8192) (hp : a.promise = some p)
    (hnow : s.now ≤ p) (hfit : a.addr + a.len ≤ 4194304) (hbad : s.spadBad c a.addr a.len = []) (hdest : a.dest = .tile n ∨ a.dest = .g n)
    (hdo : a.todo = none) (hgot : a.got = []) (hchunk : a.chunk = none) :
    ∃ t b tags, exec .accessHomeCycle s = .next t ∧ b = { a with todo := b.todo, got := b.got, leave := s.now } ∧
      t = { s with agenda := s.agenda ++ [event p 1 (landKey a.issue a.sid a.col) .loadDataDelivery
        (.deliver b (Memory.read s.spad (c * 4194304 + a.addr) a.len) tags false false)] } := by
  obtain ⟨hhome, -⟩ := atHome_spad hspace hgen
  obtain ⟨b, hb, hread⟩ := readAt_spad (s := s) hspace hop (.inr ⟨n, hdest.symm⟩) hdo hgot
  obtain ⟨tags, hdata⟩ := loaded_spad hs hbad hfit rfl (Nat.le_refl _)
  have loaded : b.loaded = { data := Memory.read s.spad (c * 4194304 + a.addr) a.len, tags := tags } := by
    rw [loaded_eq, hb]
    rw [reached_blockNum] at hdata
    exact hdata
  have arrives : s.arrivalOf b b.loaded.hit = (s.now, s) := by simp [State.arrivalOf, hb, hspace]
  rw [exec_accessHomeCycle harg, hhome hop, hread, deliver_eq (p := p) (by rw [hb]; exact hsid) (by rw [hb]; exact hchunk) (by rw [hb]; exact hp),
    arrives, loaded, hb, Nat.max_eq_left hnow]
  exact ⟨_, _, tags, rfl, rfl, rfl⟩

/-! ## Load data is delivered (R177, R381) -/

/-- The sequencer whose own tile a sequencer names `n` (R15). -/
def tileOwner (sid n : Nat) : Nat := if n < 16 then sid else partner sid

theorem tile_eq_own (s : State) (sid : Nat) {n : Nat} (hn : n < 32) : s.tile sid n = Fm.get 0 (s.seq (tileOwner sid n)).v (n % 16) := by
  unfold State.tile tileOwner
  by_cases h : n < 16
  · rw [if_pos h, if_pos h, Nat.mod_eq_of_lt h]
  · rw [if_neg h, if_neg h, show n % 16 = n - 16 by omega]

theorem tileOf_own (s : State) (sid : Nat) {n : Nat} (hn : n < 16) : tileOf s sid n = Fm.get 0 (s.seq sid).v n := if_pos hn

/-- A tile landing as one change of the sequencer that owns the tile (R150, R334). -/
theorem landReg_tile (s : State) (sid : Nat) {n : Nat} (hn : n < 32) (d m : TileBits) :
    ∃ u, landReg s sid (.tile n d m) = s.setSeq (tileOwner sid n)
      { s.seq (tileOwner sid n) with
        v := Fm.set (s.seq (tileOwner sid n)).v (n % 16) (mergeBits (s.tile sid n) d m), upset := u } := by
  unfold landReg State.setTile tileOwner
  by_cases h : n < 16
  · simp only [if_pos h, Nat.mod_eq_of_lt h]
    exact ⟨_, by rw [State.updSeq, seq_updSeq_same, State.updSeq, setSeq_setSeq]; rfl⟩
  · simp only [if_neg h, show n % 16 = n - 16 by omega]
    exact ⟨_, by rw [State.updSeq, seq_updSeq_same, State.updSeq, setSeq_setSeq]; rfl⟩

/-- What the delivery of sound data of the present generation lands: the result, and that the access is outstanding no longer. -/
theorem deliverTo_sound {s : State} {a : Access} {data : Nat} {tags : List Nat} {ct : Bool} {l : Land} (hgen : Present s a.part a.gen)
    (hseam : a.seam = false) (hl : s.loadLands a data tags ct = [l]) :
    s.deliverTo a data tags ct false = landReg (landReg s a.sid l) a.sid (.retire a.id) := by
  have present : ¬ (a.part ≠ 63 ∧ a.gen ≠ s.gen a.part) := fun h => hgen.elim h.1 h.2
  unfold State.deliverTo
  rw [if_neg present, hl, hseam]
  rfl

/-- The tile landing and the end of the access, sequencer by sequencer. -/
theorem seq_tile_retired {s : State} {sid n i : Nat} (hn : n < 32) (d m : TileBits) (id : Nat) :
    ∃ u, (landReg (landReg s sid (.tile n d m)) sid (.retire id)).seq i = { s.seq i with
      v := if i = tileOwner sid n then Fm.set (s.seq i).v (n % 16) (mergeBits (s.tile sid n) d m) else (s.seq i).v
      upset := if i = tileOwner sid n then u else (s.seq i).upset
      outst := if i = sid then (s.seq i).outst.filter (fun o => o.id != id) else (s.seq i).outst } := by
  obtain ⟨u, hu⟩ := landReg_tile s sid hn d m
  refine ⟨u, ?_⟩
  rw [hu]
  generalize tileOwner sid n = own
  unfold landReg
  dsimp only
  by_cases hown : i = own
  · subst hown
    by_cases hsid : i = sid
    · subst hsid
      rw [seq_updSeq_same, seq_setSeq_same]
      simp
    · rw [seq_updSeq_other _ _ _ _ (Ne.symm hsid), seq_setSeq_same]
      simp [hsid]
  · by_cases hsid : i = sid
    · subst hsid
      rw [seq_updSeq_same, seq_setSeq_other _ _ _ _ (Ne.symm hown)]
      simp [hown]
    · rw [seq_updSeq_other _ _ _ _ (Ne.symm hsid), seq_setSeq_other _ _ _ _ (Ne.symm hown)]
      simp [hown, hsid]

theorem exec_loadDataDelivery {s : State} {a : Access} {data : Nat} {tags : List Nat} {ct bad : Bool}
    (h : s.arg = .deliver a data tags ct bad) (hback : s.comesBack a = true) :
    exec .loadDataDelivery s = .next (s.deliverTo a data tags ct bad) := by
  simp [exec, execLoadDataDelivery, h, hback]

theorem landReg_only_seqs (s : State) (sid : Nat) {n : Nat} (hn : n < 32) (d m : TileBits) (id : Nat) :
    let t := landReg (landReg s sid (.tile n d m)) sid (.retire id)
    t = { s with seqs := t.seqs } := by
  obtain ⟨u, hu⟩ := landReg_tile s sid hn d m
  dsimp only
  rw [hu]
  rfl

/-- Delivery to a g register (R177, R183). -/
theorem deliverTo_g {s : State} {a : Access} {data n : Nat} {tags : List Nat} {ct : Bool} (hgen : Present s a.part a.gen)
    (hseam : a.seam = false) (hdest : a.dest = .g n) :
    s.deliverTo a data tags ct false = withSeq s a.sid { Fm.get {} s.seqs a.sid with
      g := Fm.set (Fm.get {} s.seqs a.sid).g n (BitVec.ofNat 64 data)
      upset := (Fm.get {} s.seqs a.sid).upset.filter (fun x => !(x == Spot.g n))
      outst := (Fm.get {} s.seqs a.sid).outst.filter (fun o => o.id != a.id) } := by
  rw [deliverTo_sound hgen hseam (l := .g n (BitVec.ofNat 64 data)) (by simp [State.loadLands, hdest])]
  unfold landReg
  dsimp only
  rw [State.updSeq, seq_updSeq_same, State.updSeq, setSeq_setSeq]
  rfl

/-- Delivery to a tile (R177, R183). -/
theorem deliverTo_tile {s : State} {a : Access} {data n : Nat} {tags : List Nat} {ct : Bool} (hgen : Present s a.part a.gen)
    (hseam : a.seam = false) (hdest : a.dest = .tile n) :
    s.deliverTo a data tags ct false = landReg (landReg s a.sid (.tile n (BitVec.ofNat 32768 data) (BitVec.ofNat 32768 (2 ^ (8 * a.len) - 1))))
      a.sid (.retire a.id) :=
  deliverTo_sound hgen hseam (by simp only [State.loadLands, hdest])

theorem loadDataIsDelivered : Claims.LoadDataIsDelivered := by
  intro s a data tags ct bad harg
  refine ⟨fun hback => by simp [exec, execLoadDataDelivery, harg, hback]; rfl, ?_⟩
  rintro hback rfl hgen hseam
  rw [exec_loadDataDelivery harg hback]
  refine ⟨fun n hdest => congrArg _ (deliverTo_g hgen hseam hdest), fun n hdest hn hlen hsid => ⟨_, congrArg _ (deliverTo_tile hgen hseam hdest), ?_⟩⟩
  have seqs := fun i => seq_tile_retired (s := s) (sid := a.sid) (i := i) hn (BitVec.ofNat 32768 data)
    (BitVec.ofNat 32768 (2 ^ (8 * a.len) - 1)) a.id
  have rest := landReg_only_seqs s a.sid hn (BitVec.ofNat 32768 data) (BitVec.ofNat 32768 (2 ^ (8 * a.len) - 1)) a.id
  dsimp only at rest
  generalize landReg _ _ _ = t at *
  have merged : ∀ j, (tileOf t a.sid n).getLsbD j =
      if j < 8 * a.len then (BitVec.ofNat 32768 data).getLsbD j else (tileOf s a.sid n).getLsbD j := fun j => by
    obtain ⟨u, hu⟩ := seqs (tileOwner a.sid n)
    rw [← getLsbD_mergeBits_ones _ _ _ _ (by omega : 8 * a.len ≤ 32768)]
    refine congrArg (·.getLsbD j) ((tile_eq_own t a.sid hn).trans ?_)
    rw [hu]
    simp only [if_true, get_set_same]
    rfl
  refine ⟨fun b hb => ?_, fun b hb => by rw [merged, if_neg (by omega)], fun i k hi hk hother => ?_, ?_, rest, fun i => ⟨?_, fun hi => ?_, fun hi => ?_⟩⟩
  · rw [merged, if_pos hb, BitVec.getLsbD_ofNat, decide_eq_true (by omega : b < 32768), Bool.true_and]
  · obtain ⟨u, hu⟩ := seqs i
    rw [tileOf_own t i hk, tileOf_own s i hk, hu]
    by_cases howner : i = tileOwner a.sid n
    · have hk' : k ≠ n % 16 := hother.resolve_left (not_not.2 howner)
      simp only [if_pos howner, get_set_other _ _ _ _ _ hk'.symm]
    · simp only [if_neg howner]
  · obtain ⟨u, hu⟩ := seqs a.sid
    exact (congrArg Seq.outst hu).trans (if_pos rfl)
  · obtain ⟨u, hu⟩ := seqs i
    change t.seq i = { s.seq i with v := (t.seq i).v, upset := (t.seq i).upset, outst := (t.seq i).outst }
    rw [hu]
  · obtain ⟨u, hu⟩ := seqs i
    exact (congrArg Seq.outst hu).trans (if_neg hi)
  · obtain ⟨u, hu⟩ := seqs i
    exact ⟨(congrArg Seq.v hu).trans (if_neg hi), (congrArg Seq.upset hu).trans (if_neg hi)⟩

/-! ## Bytes of a block under a mask -/

theorem bit_eq_testBit (x i : Nat) : bit x i = x.testBit i := by
  rw [Nat.testBit_eq_decide_div_mod_eq]
  rfl

theorem ofBytes_eq_pack (l : List Nat) : ofBytes l = pack 8 l := by
  induction l with
  | nil => rfl
  | cons x r ih =>
    rw [ofBytes, pack, ih]
    rfl

theorem pack_lt (w : Nat) (l : List Nat) : pack w l < 2 ^ (w * l.length) := by
  induction l with
  | nil => exact Nat.two_pow_pos _
  | cons x r ih =>
    have low := Nat.mod_lt x (Nat.two_pow_pos w)
    calc pack w (x :: r) < 2 ^ w + 2 ^ w * pack w r := Nat.add_lt_add_right low _
      _ = 2 ^ w * (pack w r + 1) := by ring
      _ ≤ 2 ^ w * 2 ^ (w * r.length) := Nat.mul_le_mul_left _ ih
      _ = 2 ^ (w * (x :: r).length) := by rw [List.length_cons, Nat.mul_succ, Nat.add_comm, Nat.pow_add]

theorem byteMask_lt (m : Nat) : byteMask 64 m < 2 ^ 512 := by
  unfold byteMask
  rw [ofBytes_eq_pack]
  exact (pack_lt _ _).trans_le (Nat.pow_le_pow_right (by decide) (by simp))

/-- A byte mask selects the bits of the bytes that its mask names. -/
theorem testBit_byteMask (m : Nat) {i j : Nat} (hi : i < 64) (hj : j < 8) : (byteMask 64 m).testBit (8 * i + j) = m.testBit i := by
  unfold byteMask
  rw [ofBytes_eq_pack, testBit_pack _ _ _ _ (by simpa using hi) hj]
  simp only [List.getElem_map, List.getElem_range, bit_eq_testBit]
  cases m.testBit i with
  | false => simp
  | true => simpa using (Nat.testBit_two_pow_sub_one 8 j).trans (decide_eq_true hj)

/-- A block holds the low 64 bytes of a number. -/
theorem byte_ofNat (x : Nat) {i : Nat} (hi : i < 64) : (BitVec.ofNat 512 x).toNat / 2 ^ (8 * i) % 256 = x / 2 ^ (8 * i) % 256 := by
  apply Nat.eq_of_testBit_eq
  intro j
  rw [show (256 : Nat) = 2 ^ 8 by rfl, BitVec.toNat_ofNat]
  simp only [Nat.testBit_mod_two_pow, Nat.testBit_div_two_pow]
  by_cases hj : j < 8
  · rw [decide_eq_true (show j + 8 * i < 512 by omega), Bool.true_and]
  · simp [hj]

/-- Byte `i` of a block after bytes were written under a mask. -/
theorem byte_merged (old new mask : Nat) {i : Nat} (hi : i < 64) :
    (BitVec.ofNat 512 ((old &&& (2 ^ 512 - 1 - byteMask 64 mask)) ||| (new &&& byteMask 64 mask))).toNat / 2 ^ (8 * i) % 256 =
      (if mask.testBit i then new else old) / 2 ^ (8 * i) % 256 := by
  rw [byte_ofNat _ hi]
  apply Nat.eq_of_testBit_eq
  intro j
  rw [show (256 : Nat) = 2 ^ 8 by rfl]
  simp only [Nat.testBit_mod_two_pow, Nat.testBit_div_two_pow]
  by_cases hj : j < 8
  · rw [Nat.add_comm j, Nat.testBit_or, Nat.testBit_and, Nat.testBit_and, Nat.sub_sub, Nat.add_comm 1,
      Nat.testBit_two_pow_sub_succ (byteMask_lt mask), decide_eq_true (show 8 * i + j < 512 by omega), testBit_byteMask mask hi hj]
    cases mask.testBit i <;> simp
  · simp [hj]

/-- The mask of `n` bytes from byte `o` of a block on. -/
theorem testBit_bytes (n o i : Nat) : ((2 ^ n - 1) * 2 ^ o).testBit i = decide (o ≤ i ∧ i < o + n) := by
  rw [Nat.testBit_mul_two_pow, Nat.testBit_two_pow_sub_one, ← Bool.decide_and]
  congr 1
  apply propext
  omega

/-- Byte `i` of the `n` bytes of `x`, placed from byte `o` of a block on. -/
theorem byte_placed (x : Nat) {n o i : Nat} (hi : o ≤ i ∧ i < o + n) :
    bits x 0 (8 * n) * 2 ^ (8 * o) / 2 ^ (8 * i) % 256 = x / 2 ^ (8 * (i - o)) % 256 := by
  obtain ⟨k, rfl⟩ := Nat.exists_eq_add_of_le hi.1
  rw [Nat.mul_add, Nat.pow_add, Nat.mul_comm (2 ^ (8 * o)), Nat.mul_div_mul_right _ _ (Nat.two_pow_pos _), Nat.add_sub_cancel_left,
    Nat.pow_mul 2 8 k]
  exact (byte_of_bits (d := 0) (by omega)).trans (by rw [Nat.zero_add, Nat.pow_mul])

/-! ## Stores to HBM4E (R278, R279) -/

theorem maskSyncs_of_plain {s : State} {pa mask : Nat} (h : ∀ e ∈ s.syncs, e.1 / 4 ≠ pa / 64) : s.maskSyncs pa mask = mask := by
  unfold State.maskSyncs
  refine (List.foldl_ext _ (fun m _ => m) _ fun m i hi => if_neg fun hany => ?_).trans (List.foldl_fixed' (fun _ => rfl) _)
  obtain ⟨e, he, hc⟩ := List.any_eq_true.1 hany
  have block := h e he
  have small := List.mem_range.1 hi
  simp only [Bool.and_eq_true, beq_iff_eq] at hc
  omega

/-- Only addresses of HBM4E have a place in an L2. -/
theorem region_of_cached {s : State} {pa : Nat} (h : (s.place (pa / 64 * 64)).cached = true) : ∃ die, regionOf (pa / 64 * 64) = .hbm die := by
  cases hr : regionOf (pa / 64 * 64) with
  | hbm die => exact ⟨die, rfl⟩
  | _ => simp [State.place, hr] at h

theorem lineOf_block (s : State) (p : Place) (pa : Nat) : s.lineOf p (pa / 64 * 64) = s.lineOf p pa := by
  unfold State.lineOf
  rw [Nat.mul_div_cancel _ (by decide)]

/-- A resident line after a store (R278). -/
def storedLine (l : Line) (key data mask tag : Nat) (ctag : BitVec 4) (stamp : Int) : Line :=
  { l with
    data := BitVec.ofNat 512 ((l.data.toNat &&& (2 ^ 512 - 1 - byteMask 64 mask)) ||| (data &&& byteMask 64 mask))
    tag := tag, ctag := mergeBits l.ctag ctag (granuleMask mask), dirty := true, key := key, bad := l.bad && !(mask == 2 ^ 64 - 1)
    stamp := stamp }

/-- `t` is `s` but for the domain blocks. -/
def DomsOnly (s t : State) : Prop := ∃ d, t = { s with doms := d }

theorem domsOnly_ite {s t u : State} (c : Prop) [Decidable c] (ht : DomsOnly s t) (hu : DomsOnly s u) : DomsOnly s (if c then t else u) := by
  split
  · exact ht
  · exact hu

theorem domsOnly_count {s t : State} (h : DomsOnly s t) (die k c : Nat) : DomsOnly s (t.count die k c) := by
  obtain ⟨d, rfl⟩ := h
  exact ⟨_, rfl⟩

theorem domsOnly_countHit (s : State) (p : Place) (l : Line) (access : Bool) : DomsOnly s (s.countHit p l access) := by
  have counted : DomsOnly s (if access then s.count p.die p.blk 0 else s) := domsOnly_ite _ (domsOnly_count ⟨_, rfl⟩ _ _ _) ⟨_, rfl⟩
  exact domsOnly_ite _ (domsOnly_count counted _ _ _) counted

theorem pa_of_lineOf {s : State} {p : Place} {pa : Nat} {l : Line} (h : s.lineOf p pa = some l) : l.pa = pa / 64 := by
  unfold State.lineOf at h
  split at h
  · simpa using List.find?_some h
  · cases h

/-- A line that was replaced becomes the most recently used. -/
theorem touch_replaced (s : State) (p : Place) {pa : Nat} (lines : List Line) {m : Line} (hm : m.pa = pa / 64) :
    (s.setLines p (lines.map fun x => if x.pa = pa / 64 then m else x)).touch p pa =
      { s with
        l2 := Fm.set s.l2 (setKey p) (lines.map fun x => if x.pa = pa / 64 then { m with stamp := (s.stamp + 1 : Nat) } else x)
        stamp := s.stamp + 1 } := by
  unfold State.touch State.setLines State.lines
  dsimp only
  rw [get_set_same, set_set, List.map_map]
  congr 3
  funext x
  by_cases hx : x.pa = pa / 64 <;> simp [hx, hm]

section WriteBlock

variable {s : State} {pa key data mask tag : Nat} {ctag : BitVec 4} {al : Alloc} (hplain : ∀ e ∈ s.syncs, e.1 / 4 ≠ pa / 64)
  (hmask : mask ≠ 0) (hkey : s.keyNum key ≠ 0) (hregion : ∃ die, regionOf pa = .hbm die) (hcached : (s.place pa).cached = true)

include hplain hmask hkey hregion hcached

/-- A store to a block in its L2 set (R278). -/
theorem writeBlock_resident {l : Line} (hl : s.lineOf (s.place pa) pa = some l) :
    ∃ d st z, s.writeBlock pa key data mask tag ctag al = { s with
      l2 := Fm.set s.l2 (setKey (s.place pa)) ((s.lines (s.place pa)).map fun x =>
        if x.pa = pa / 64 then storedLine l key data mask tag ctag z else x)
      doms := d, stamp := st } := by
  obtain ⟨die, hdie⟩ := hregion
  unfold State.writeBlock
  dsimp only
  rw [maskSyncs_of_plain hplain, hdie]
  dsimp only
  rw [if_neg (not_or.2 ⟨hmask, hkey⟩), hcached, if_neg (by decide), hl]
  dsimp only
  obtain ⟨d, hd⟩ := domsOnly_ite (al = .fill) (⟨_, rfl⟩ : DomsOnly s s) (domsOnly_countHit s (s.place pa) l true)
  rw [hd]
  have place : l.pa = pa / 64 := pa_of_lineOf hl
  cases al with
  | normal | hostPort => exact ⟨d, s.stamp + 1, (s.stamp + 1 : Nat), touch_replaced { s with doms := d } _ _ place⟩
  | _ => exact ⟨d, s.stamp, l.stamp, rfl⟩

/-- A store to a block that is not in its L2 set: its bytes enter the slice's write buffer (R279). -/
theorem writeBlock_missing (hl : s.lineOf (s.place pa) pa = none) (hroom : (Fm.get [] s.wbuf (sliceKey (s.place pa))).length < 32) :
    ∃ d, s.writeBlock pa key data mask tag ctag al = { s with
      wbuf := Fm.set s.wbuf (sliceKey (s.place pa)) (Fm.get [] s.wbuf (sliceKey (s.place pa)) ++
        [{ loc := (s.place pa).loc, data := BitVec.ofNat 512 data, mask := BitVec.ofNat 64 mask, tag := tag, ctag := ctag, key := key,
           bad := false, pa := pa / 64 * 64 }])
      doms := d } := by
  obtain ⟨die, hdie⟩ := hregion
  unfold State.writeBlock
  dsimp only
  rw [maskSyncs_of_plain hplain, hdie]
  dsimp only
  rw [if_neg (not_or.2 ⟨hmask, hkey⟩), hcached, if_neg (by decide), hl]
  dsimp only
  obtain ⟨d, hd⟩ := domsOnly_ite (al = .fill) (⟨_, rfl⟩ : DomsOnly s s)
    (domsOnly_count ⟨_, rfl⟩ (s.place pa).die (s.place pa).blk 1)
  rw [hd]
  unfold State.buffer
  dsimp only
  rw [if_neg (Nat.not_le.2 hroom)]
  exact ⟨d, rfl⟩

end WriteBlock

/-! ## An access to one block of HBM4E -/

/-- Byte `i` of a block after a store, as its mask gives it. -/
theorem byte_stored (a : Access) (old : BlockBits) (i : Nat) :
    (if ((2 ^ a.len - 1) * 2 ^ (a.addr % 64)).testBit i then bits a.data 0 (8 * a.len) * 2 ^ (8 * (a.addr % 64)) else old.toNat) / 2 ^ (8 * i) % 256 =
      storedByte a old i := by
  unfold storedByte
  rw [testBit_bytes]
  by_cases hi : a.addr % 64 ≤ i ∧ i < a.addr % 64 + a.len
  · rw [if_pos (decide_eq_true hi), if_pos hi, byte_placed _ hi]
  · rw [if_neg (by simpa using hi), if_neg hi]

/-- All of an access that has one block takes its turn in this cycle, where its slice accepts it. -/
theorem takeBlocks_one {s u : State} {a b : Access} (hdo : a.todo = none) (hone : blockNum a.addr a.len = 1) (hloose : Untagged a)
    (hturn : s.turn a 0 = some (b, u)) : s.takeBlocks a = ({ b with todo := some [] }, u) := by
  obtain ⟨hfilled, hordered⟩ := hloose
  rw [takeBlocks_eq hdo, hone]
  simp [takeOne, hfilled, hordered, hturn]

section AtItsBlock

variable {s : State} {a : Access} (h : AtItsBlock s a)

include h

theorem blockNum_one : blockNum a.addr a.len = 1 := by
  have some_ := h.some
  have one := h.one
  unfold blockNum
  rw [if_neg (by omega)]
  omega

theorem blockAt_one : blockAt a.addr a.len 0 = (a.addr / 64 * 64, a.addr, a.len) := by
  have one := h.one
  unfold blockAt
  simp only [Nat.add_zero, Prod.mk.injEq, true_and]
  omega

theorem accepted_one : ∃ x, s.acceptBy a.by_ (a.addr / 64 * 64) = some { s with accepted := x } := by
  have room := h.room
  unfold State.acceptBy
  cases hacc : s.acceptLine (a.addr / 64 * 64) with
  | none => exact absurd hacc room
  | some t =>
    unfold State.acceptLine at hacc
    dsimp only at hacc
    split at hacc
    · cases hacc
      exact ⟨_, rfl⟩
    · obtain ⟨-, hacc⟩ := Option.ite_none_left_eq_some.1 hacc
      cases hacc
      exact ⟨_, rfl⟩

theorem atHome_block_reaches : (a.op = .read → s.atHome a = s.readAt a) ∧ (a.op = .write → s.atHome a = s.writeAt a) :=
  atHome_reaches h.now h.whole h.way (by simp [State.heldBy, h.phys, h.served])

theorem storeBlock_one (u : State) : ∃ ctag, u.storeBlock a 0 = u.writeBlock (a.addr / 64 * 64) a.key
    (bits a.data 0 (8 * a.len) * 2 ^ (8 * (a.addr % 64))) ((2 ^ a.len - 1) * 2 ^ (a.addr % 64)) (firstTag a) ctag a.alloc := by
  have offset : a.addr - a.addr / 64 * 64 = a.addr % 64 := by omega
  unfold State.storeBlock firstTag
  rw [blockAt_one h, h.phys]
  dsimp only
  rw [offset, Nat.sub_self, Nat.mul_zero]
  cases a.tags with
  | none => exact ⟨_, rfl⟩
  | some l => exact ⟨_, rfl⟩

theorem writeAt_one (hop : a.op = .write) (hdest : a.dest = .none) :
    ∃ x ctag, s.writeAt a = (State.writeBlock { s with accepted := x } (a.addr / 64 * 64) a.key
      (bits a.data 0 (8 * a.len) * 2 ^ (8 * (a.addr % 64))) ((2 ^ a.len - 1) * 2 ^ (a.addr % 64)) (firstTag a) ctag a.alloc).wrote
        { a with todo := some [] } := by
  obtain ⟨die, hdie⟩ := h.hbm
  obtain ⟨x, hx⟩ := accepted_one h
  obtain ⟨ctag, hstore⟩ := storeBlock_one h { s with accepted := x }
  have turn : s.turn a 0 = some (a, State.storeBlock { s with accepted := x } a 0) := by
    simp [State.turn, h.phys, h.rdc, hop, blockAt_one h, hx]
  have taken := takeBlocks_one h.todo (blockNum_one h) (untagged_of_dest (.inl hdest)) turn
  refine ⟨x, ctag, ?_⟩
  unfold State.writeAt
  simp only [h.phys, hdie, taken, hstore]
  rfl

theorem mask_ne_zero : (2 ^ a.len - 1) * 2 ^ (a.addr % 64) ≠ 0 := by
  have some_ := Nat.pow_lt_pow_right (a := 2) (by decide) h.some
  exact Nat.mul_ne_zero (by omega) (Nat.two_pow_pos _).ne'

theorem plain_block : ∀ e ∈ s.syncs, e.1 / 4 ≠ a.addr / 64 * 64 / 64 := by
  rw [Nat.mul_div_cancel _ (by decide)]
  exact h.plain

/-- A store at its home writes its block and records its completion. -/
theorem atHome_store (hop : a.op = .write) (hdest : a.dest = .none) :
    ∃ x ctag q ch dr u, u = State.writeBlock { s with accepted := x } (a.addr / 64 * 64) a.key
        (bits a.data 0 (8 * a.len) * 2 ^ (8 * (a.addr % 64))) ((2 ^ a.len - 1) * 2 ^ (a.addr % 64)) (firstTag a) ctag a.alloc ∧
      s.atHome a = { u with seqs := q, choices := ch, drawn := dr } ∧
      ∀ i, Fm.get {} q i = { (Fm.get {} u.seqs i : Seq) with outst := (Fm.get {} q i : Seq).outst } := by
  obtain ⟨-, hhome⟩ := atHome_block_reaches h
  obtain ⟨x, ctag, hwrite⟩ := writeAt_one h hop hdest
  obtain ⟨q, ch, dr, hwrote, houtst⟩ := wrote_eq (s := State.writeBlock { s with accepted := x } (a.addr / 64 * 64) a.key
      (bits a.data 0 (8 * a.len) * 2 ^ (8 * (a.addr % 64))) ((2 ^ a.len - 1) * 2 ^ (a.addr % 64)) (firstTag a) ctag a.alloc)
    (a := { a with todo := some [] }) h.chunk h.sid
  exact ⟨x, ctag, q, ch, dr, _, rfl, by rw [hhome hop, hwrite, hwrote], houtst⟩

end AtItsBlock

theorem find_replaced {lines : List Line} {k : Nat} {l m : Line} (hl : lines.find? (fun x => x.pa == k) = some l) (hm : m.pa = k) :
    (lines.map fun x => if x.pa = k then m else x).find? (fun x => x.pa == k) = some m := by
  have same : ((fun x : Line => x.pa == k) ∘ fun x => if x.pa = k then m else x) = fun x => x.pa == k := by
    funext x
    by_cases hx : x.pa = k <;> simp [hx, hm]
  have place : l.pa = k := by simpa using List.find?_some hl
  rw [List.find?_map, same, hl, Option.map_some, if_pos place]

/-- The lines of an L2 set in which the line of one block was replaced. -/
theorem lineOf_replaced {s t : State} {p : Place} {pa : Nat} {l m : Line} (hl : s.lineOf p pa = some l) (hcached : p.cached = true)
    (hm : m.pa = pa / 64)
    (ht : t.l2 = Fm.set s.l2 (setKey p) ((s.lines p).map fun x => if x.pa = pa / 64 then m else x)) :
    t.lineOf p pa = some m ∧ (∀ x ∈ s.lines p, x.pa ≠ pa / 64 → x ∈ t.lines p) ∧
      ∀ k, k ≠ setKey p → Fm.get [] t.l2 k = Fm.get [] s.l2 k := by
  have lines : t.lines p = (s.lines p).map fun x => if x.pa = pa / 64 then m else x := by
    unfold State.lines at *
    rw [ht, get_set_same]
  unfold State.lineOf at *
  rw [if_pos hcached] at hl ⊢
  rw [lines]
  exact ⟨find_replaced hl hm, fun x hx hne => List.mem_map.2 ⟨x, hx, if_neg hne⟩, fun k hk => by rw [ht, get_set_other _ _ _ _ _ hk.symm]⟩

theorem globalStoreAtHome : Claims.GlobalStoreAtHome := by
  intro s a h hop hdest p hcached
  obtain ⟨x, ctag, q, ch, dr, u, hu, hhome, houtst⟩ := atHome_store h hop hdest
  have plain := plain_block h
  have mask := mask_ne_zero h
  have region := region_of_cached hcached
  refine ⟨fun l hl => ?_, fun hl hroom => ?_⟩
  · obtain ⟨d, st, z, hblock⟩ := writeBlock_resident (s := { s with accepted := x }) plain mask h.key region hcached
      ((lineOf_block s p a.addr).trans hl)
    rw [← hu, Nat.mul_div_cancel _ (by decide)] at hblock
    have place : l.pa = a.addr / 64 := pa_of_lineOf hl
    obtain ⟨hline, hlines, hsets⟩ := lineOf_replaced (t := { u with seqs := q, choices := ch, drawn := dr }) hl hcached
      (m := storedLine l a.key _ _ (firstTag a) ctag z) place (congrArg State.l2 hblock)
    refine ⟨_, _, (exec_accessHomeCycle h.arg).trans (congrArg _ hhome), hline, rfl, rfl, rfl, rfl, fun i hi => ?_, hlines, hsets, ?_, fun i => ?_⟩
    · exact (byte_merged _ _ _ hi).trans (byte_stored a l.data i)
    · subst hblock
      rfl
    · rw [houtst i, congrArg State.seqs hblock]
  · obtain ⟨d, hblock⟩ := writeBlock_missing (s := { s with accepted := x }) plain mask h.key region hcached
      ((lineOf_block s p a.addr).trans hl) hroom
    rw [← hu, Nat.mul_div_cancel _ (by decide)] at hblock
    have entry := congrArg (fun v : State => Fm.get [] v.wbuf (sliceKey p)) hblock
    refine ⟨_, _, (exec_accessHomeCycle h.arg).trans (congrArg _ hhome), entry.trans (get_set_same _ _ _ _), rfl, rfl, rfl, rfl, fun i hi => ?_,
      fun i hi => ?_, fun k hk => ?_, ?_, fun i => ?_⟩
    · rw [BitVec.getLsbD_ofNat, decide_eq_true hi, Bool.true_and, testBit_bytes, decide_eq_true_eq]
    · rw [BitVec.getLsbD_ofNat, Bool.and_eq_true, decide_eq_true_eq] at hi
      rw [byte_ofNat _ hi.1, ← byte_stored, if_pos hi.2]
    · exact (congrArg (fun v : State => Fm.get [] v.wbuf k) hblock).trans (get_set_other _ _ _ _ _ hk.symm)
    · subst hblock
      rfl
    · rw [houtst i, congrArg State.seqs hblock]

/-! ## Loads from HBM4E (R177, R278, R323) -/

/-- `t` is `s` but for what the slices and their channels hold. -/
def SliceOnly (s t : State) : Prop :=
  t = { s with
    mem := t.mem, mtag := t.mtag, ctag := t.ctag, bkey := t.bkey, bad := t.bad, l2 := t.l2, wbuf := t.wbuf, miss := t.miss
    accepted := t.accepted, stamp := t.stamp, doms := t.doms }

theorem sliceOnly_refl (s : State) : SliceOnly s s := rfl

theorem sliceOnly_trans {s t u : State} (h : SliceOnly s t) (k : SliceOnly t u) : SliceOnly s u :=
  k.trans (congrArg (fun v : State => { v with
    mem := u.mem, mtag := u.mtag, ctag := u.ctag, bkey := u.bkey, bad := u.bad, l2 := u.l2, wbuf := u.wbuf, miss := u.miss
    accepted := u.accepted, stamp := u.stamp, doms := u.doms }) h)

theorem sliceOnly_ite {s t u : State} (c : Prop) [Decidable c] (ht : SliceOnly s t) (hu : SliceOnly s u) : SliceOnly s (if c then t else u) := by
  split
  · exact ht
  · exact hu

theorem sliceOnly_of_domsOnly {s t : State} (h : DomsOnly s t) : SliceOnly s t := by
  obtain ⟨d, rfl⟩ := h
  rfl

theorem sliceOnly_count (s : State) (die k c : Nat) : SliceOnly s (s.count die k c) := rfl
theorem sliceOnly_miss (s : State) (m : Fm (List Nat)) : SliceOnly s { s with miss := m } := rfl
theorem sliceOnly_touch (s : State) (p : Place) (pa : Nat) : SliceOnly s (s.touch p pa) := rfl

theorem sliceOnly_dramWrite (s : State) (loc pa key data mask tag : Nat) (ctag : BitVec 4) (bad : Bool) :
    SliceOnly s (s.dramWrite loc pa key data mask tag ctag bad) :=
  sliceOnly_ite _ (sliceOnly_refl s) rfl

theorem sliceOnly_drainOne (s : State) (k : Nat) : SliceOnly s (s.drainOne k) := by
  unfold State.drainOne
  split
  · exact sliceOnly_refl s
  · next e r _ => exact sliceOnly_trans (t := { s with wbuf := Fm.set s.wbuf k r }) rfl (sliceOnly_dramWrite ..)

theorem sliceOnly_buffer (s : State) (p : Place) (e : WbEntry) : SliceOnly s (s.buffer p e) :=
  sliceOnly_trans (sliceOnly_ite (32 ≤ (Fm.get [] s.wbuf (sliceKey p)).length) (sliceOnly_drainOne s _) (sliceOnly_refl s)) rfl

theorem sliceOnly_fill (s : State) (p : Place) (pa key : Nat) (b : Block) (lru : Bool) : SliceOnly s (s.fill p pa key b lru) := by
  have counted : ∀ ovf : Bool, SliceOnly s (if ovf then s.count p.die p.blk 3 else s) := fun ovf =>
    sliceOnly_ite _ (sliceOnly_count ..) (sliceOnly_refl s)
  unfold State.fill
  dsimp only
  split
  · exact counted _
  · split
    · exact sliceOnly_trans (sliceOnly_trans (counted _) (sliceOnly_ite _ (sliceOnly_buffer ..) (sliceOnly_refl _))) rfl
    · exact sliceOnly_trans (counted _) rfl

/-- A read at its home answers what the block holds, and whether it is in its L2 set (R245). -/
theorem readBlock_result (s : State) (pa key : Nat) (al : Alloc) (cls free : Nat) :
    (s.readBlock pa key al cls free).1 = ⟨s.peekBlock pa key, (s.lineOf (s.place pa) pa).isSome⟩ := by
  unfold State.readBlock
  dsimp only
  cases s.lineOf (s.place pa) pa with
  | some l => rfl
  | none =>
    dsimp only
    split
    · rfl
    · cases al with
      | engine | hostPort | stream => rfl
      | normal | evictFirst | fill =>
        dsimp only
        split
        · rfl
        · rfl

theorem sliceOnly_readBlock (s : State) (pa key : Nat) (al : Alloc) (cls free : Nat) : SliceOnly s (s.readBlock pa key al cls free).2 := by
  have missed : SliceOnly s (s.count (s.place pa).die (s.place pa).blk 1) := sliceOnly_count ..
  unfold State.readBlock
  dsimp only
  cases s.lineOf (s.place pa) pa with
  | some l =>
    have hit := sliceOnly_of_domsOnly (domsOnly_countHit s (s.place pa) l (al != .fill))
    cases al with
    | normal | fill => exact sliceOnly_trans hit (sliceOnly_touch ..)
    | engine | hostPort | stream | evictFirst => exact hit
  | none =>
    dsimp only
    split
    · exact sliceOnly_refl s
    · cases al with
      | engine | hostPort | stream => exact missed
      | normal | evictFirst | fill =>
        dsimp only
        split
        · exact sliceOnly_trans missed (sliceOnly_ite _ (sliceOnly_refl _) (sliceOnly_count ..))
        · exact sliceOnly_trans (sliceOnly_trans missed (sliceOnly_miss ..)) (sliceOnly_fill ..)

theorem arrivalOf_draws (s : State) (a : Access) (hit : Bool) : ∃ ch dr, (s.arrivalOf a hit).2 = { s with choices := ch, drawn := dr } := by
  obtain h | h : (s.arrivalOf a hit).2 = s ∨ (s.arrivalOf a hit).2 = s.drew := by
    unfold State.arrivalOf
    dsimp only
    repeat' split
    all_goals simp
  · exact ⟨_, _, h⟩
  · obtain ⟨ch, dr, hdrew⟩ := drew_eq s
    exact ⟨ch, dr, h.trans hdrew⟩

/-- Data whose class reaches its home, and whose block is in its L2 set, takes 10 cycles back. -/
theorem arrivalOf_hit {s : State} {a : Access} (hspace : a.space = .phys) (hregion : regionOf a.addr ≠ .nothing) (htier : a.tier = 0)
    (hreach : 2 ≤ a.cls ∨ homeDie a.addr = dieOf a.sid) : (s.arrivalOf a true).1 = s.now + 10 := by
  unfold State.arrivalOf
  dsimp only
  rw [if_neg (by rw [hspace]; decide), if_neg hregion, if_neg (by rw [htier]; decide)]
  split
  · rfl
  · rw [if_neg fun ⟨hcls, hdie⟩ => hreach.elim (Nat.not_le.2 hcls) hdie, if_neg (by simp)]

section AtItsBlock

variable {s : State} {a : Access} (h : AtItsBlock s a)

include h

/-- A load of one block at its home reads the block and sends its bytes and tag back. -/
theorem readAt_one (hop : a.op = .read) (hdest : a.dest = .none ∨ ∃ n, a.dest = .g n ∨ a.dest = .tile n)
    (hbad : (s.peekBlock (a.addr / 64 * 64) a.key).bad = false) :
    ∃ (u : State) (x : Access), s.readAt a = u.deliver x x.loaded ∧ SliceOnly s u ∧ x = { a with todo := x.todo, got := x.got } ∧
      x.loaded.data = bits (s.peekBlock (a.addr / 64 * 64) a.key).data.toNat (8 * (a.addr % 64)) (8 * a.len) ∧
      x.loaded.tags = [(s.peekBlock (a.addr / 64 * 64) a.key).tag] ∧ x.loaded.bad = none ∧
      x.loaded.hit = (s.lineOf (s.place (a.addr / 64 * 64)) a.addr).isSome := by
  obtain ⟨die, hdie⟩ := h.hbm
  obtain ⟨x, hx⟩ := accepted_one h
  have result : (State.readBlock { s with accepted := x } (a.addr / 64 * 64) a.key a.alloc a.cls (s.now + 10)).1 =
      ⟨s.peekBlock (a.addr / 64 * 64) a.key, (s.lineOf (s.place (a.addr / 64 * 64)) a.addr).isSome⟩ := by
    rw [readBlock_result, lineOf_block]
    rfl
  have slices := sliceOnly_readBlock { s with accepted := x } (a.addr / 64 * 64) a.key a.alloc a.cls (s.now + 10)
  generalize hread : State.readBlock { s with accepted := x } (a.addr / 64 * 64) a.key a.alloc a.cls (s.now + 10) = r at result slices
  obtain ⟨r, u⟩ := r
  have turn : s.turn a 0 = some ({ a with got := [(0, r.blk, r.hit)] }, u) := by
    simp [State.turn, h.phys, h.rdc, hop, blockAt_one h, hx, State.loadBlock, hread, h.got, Fm.set]
  have taken := takeBlocks_one h.todo (blockNum_one h) (untagged_of_dest hdest) turn
  have offset : a.addr - a.addr / 64 * 64 = a.addr % 64 := by omega
  refine ⟨u, { a with todo := some [], got := [(0, r.blk, r.hit)] }, ?_, sliceOnly_trans (t := { s with accepted := x }) rfl slices, rfl, ?_⟩
  · unfold State.readAt
    simp only [h.phys, hdie, taken]
    rfl
  · subst result
    simp [loaded_eq, addBlock, blockAt_one h, offset, hbad]

end AtItsBlock

/-- What an access of a slice leaves as it is. -/
theorem sliceOnly_keeps {s t : State} (h : SliceOnly s t) :
    (t.now = s.now ∧ t.agenda = s.agenda) ∧ t.seqs = s.seqs ∧ t.spad = s.spad ∧ t.cores = s.cores ∧ t.syncs = s.syncs ∧ t.rdc = s.rdc := by
  rw [h]
  exact ⟨⟨rfl, rfl⟩, rfl, rfl, rfl, rfl, rfl⟩

theorem globalLoadAtHome : Claims.GlobalLoadAtHome := by
  intro s a p h hop htier hp n hdest b hbad
  obtain ⟨hhome, -⟩ := atHome_block_reaches h
  obtain ⟨u, x, hread, hslice, hx, hdata, htags, hsound, hhit⟩ := readAt_one h hop (.inr ⟨n, hdest⟩) hbad
  obtain ⟨ch, dr, harrival⟩ := arrivalOf_draws u x x.loaded.hit
  obtain ⟨⟨hnow, hagenda⟩, keeps⟩ := sliceOnly_keeps hslice
  have brought := deliver_eq (s := u) (a := x) (l := x.loaded) (p := p) (by rw [hx]; exact h.sid) (by rw [hx]; exact h.chunk)
    (by rw [hx]; exact hp)
  have ours : ({ x with leave := (u.arrivalOf x x.loaded.hit).2.now, off := x.off + (none : Option Nat).getD 0 } : Access) =
      { a with todo := x.todo, got := x.got, leave := s.now } := by
    rw [harrival, ← hnow, hx]
    rfl
  have key : landKey x.issue x.sid x.col = landKey a.issue a.sid a.col := by rw [hx]
  rw [hsound, htags, ours, key] at brought
  refine ⟨_, max p (u.arrivalOf x x.loaded.hit).1, { a with todo := x.todo, got := x.got, leave := s.now }, x.loaded.data, x.loaded.ctag,
    (exec_accessHomeCycle h.arg).trans (congrArg _ ((hhome hop).trans (hread.trans brought))), rfl, Nat.le_max_left _ _, ?_, fun i hi => ?_,
    fun hres hreach => ?_, ?_⟩
  · rw [harrival, ← hagenda]
    rfl
  · rw [hdata, ← byte_of_bits hi, Nat.pow_mul]
  · have hitTrue : x.loaded.hit = true := hhit.trans hres
    have region : regionOf x.addr ≠ .nothing := by
      obtain ⟨die, hdie⟩ := h.hbm
      rw [hx, hdie]
      exact Region.noConfusion
    have arrival := arrivalOf_hit (s := u) (a := x) (by rw [hx]; exact h.phys) region (by rw [hx]; exact htier) (by rw [hx]; exact hreach)
    rw [hitTrue, arrival, hnow]
  · rw [harrival]
    exact keeps

end Sys2Proof.Laws
end

/-! # A load from a scratchpad store that is not canonical -/

section

namespace Sys2Proof.Laws

open Sys2Proof Sys2Proof.Machine Sys2Proof.Claims

/-! `Claims.ScratchpadLoadAtHome` is said of every state, also of one whose scratchpad store is not canonical, which no state after reset
is (`stepKeepsCanonical`). `Memory.read` adds what it finds listed: a byte listed twice as 255 reads as 510 over one byte, while the home
delivers the one byte asked for. That is the only fault of O15: of a canonical store the claim holds (`scratchpadLoadAtHome_of_wf`), and the
other four claims hold as they stand (`scratchpadStoreAtHome`, `globalStoreAtHome`, `globalLoadAtHome`, `loadDataIsDelivered`). -/

/-- A load of byte 0 of scratchpad 0 to g0. -/
def loadByte : Access := { space := .spad 0, len := 1, promise := some 0, dest := .g 0 }

/-- A state with `loadByte` at its home, and byte 0 of scratchpad 0 listed twice. -/
def listedTwice : State := { spad := [(0, 255), (0, 255)], arg := .access loadByte }

/-- The data that the deliveries on the agenda of an outcome bring. -/
def broughtBy : Host.Outcome State Fault Refusal → List Nat
  | .next t => t.agenda.filterMap fun e => match e.arg with
    | .deliver _ data _ _ _ => some data
    | _ => none
  | _ => []

theorem listedTwice_brings :
    broughtBy (exec .accessHomeCycle listedTwice) = [254] ∧ Memory.read listedTwice.spad (0 * 4194304 + loadByte.addr) loadByte.len = 510 := by
  decide +kernel

theorem not_scratchpadLoadAtHome : ¬ Claims.ScratchpadLoadAtHome := by
  intro h
  obtain ⟨t, b, tags, hstep, -, ht⟩ := h listedTwice loadByte 0 0 rfl rfl rfl (.inl rfl) (by decide) rfl (by decide) (by decide) (by decide) 0
    (.inr rfl) rfl rfl rfl
  obtain ⟨brings, reads⟩ := listedTwice_brings
  rw [hstep, ht, reads] at brings
  have same : [510] = [254] := brings
  exact absurd same (by decide)

/-- Refutes O15: the data of a scratchpad load is not what `Memory.read` gives of a store that lists a byte twice. -/
theorem not_accessesAtTheirHome : ¬ Obligations.AccessesAtTheirHome :=
  fun ⟨_, hload, _⟩ => not_scratchpadLoadAtHome hload

end Sys2Proof.Laws
end

/-! # Decoding reads back what encoding writes -/

section

namespace Sys2Proof.Laws.Encoding

open Sys2Proof Sys2Proof.Claims

/-- A row that is an event of the hardware has no word (R96), so nothing is asked of its encoding. -/
theorem statement_of_not_isWord {i : Instr} (h : i.isWord = false) : Statement i := by
  intro hwf
  simp [Instr.wellFormed, h] at hwf

/-- Settles O59, row by row of the opcode map of R96: each row with a word has its lemma, and the other rows are events. -/
theorem decodeEncodeAgree : Obligations.DecodeEncodeAgree := by
  intro i
  cases i with
  -- Every column
  | nop e => exact nop e | wait e i => exact wait e i
  -- CTL, E = 0
  | br i => exact br i | brp sel i => exact brp sel i | call i => exact call i | ret g => exact ret g | loop g len => exact loop g len
  | loopi cnt len => exact loopi cnt len | lbrk sel i => exact lbrk sel i | yield i live => exact yield i live | waitb g => exact waitb g
  | launch p h g => exact launch p h g | trap i => exact trap i | bkpt i => exact bkpt i | smode t => exact smode t
  | rdsr g s => exact rdsr g s | wrsr g s => exact wrsr g s | seam => exact seam | align => exact align | endTask => exact endTask
  | eret => exact eret
  -- SCA, E = 1
  | add a b c => exact add a b c | sub a b c => exact sub a b c | addi a b i => exact addi a b i | mul a b c => exact mul a b c
  | mulhs a b c => exact mulhs a b c | mulhz a b c => exact mulhz a b c | divs a b c => exact divs a b c | divz a b c => exact divz a b c
  | rems a b c => exact rems a b c | remz a b c => exact remz a b c | and a b c => exact and a b c | or a b c => exact or a b c
  | xor a b c => exact xor a b c | andn a b c => exact andn a b c | shl a b c => exact shl a b c | shr a b c => exact shr a b c
  | sar a b c => exact sar a b c | ror a b c => exact ror a b c | shli a b i => exact shli a b i | shri a b i => exact shri a b i
  | sari a b i => exact sari a b i | mins a b c => exact mins a b c | maxs a b c => exact maxs a b c | minz a b c => exact minz a b c
  | maxz a b c => exact maxz a b c | clz a b => exact clz a b | popc a b => exact popc a b | movi a i => exact movi a i
  | movx g hi lo => exact movx g hi lo | movhx g hi lo => exact movhx g hi lo | cmpeq p b c => exact cmpeq p b c
  | cmpne p b c => exact cmpne p b c | cmplts p b c => exact cmplts p b c | cmples p b c => exact cmples p b c
  | cmpltz p b c => exact cmpltz p b c | cmplez p b c => exact cmplez p b c | cmpeqi p b i => exact cmpeqi p b i
  | cmpltsi p b i => exact cmpltsi p b i | sel a b c p => exact sel a b c p | pand a b c => exact pand a b c | por a b c => exact por a b c
  | pxor a b c => exact pxor a b c | pnot a b => exact pnot a b | idx a l => exact idx a l | sext a b w => exact sext a b w
  | zext a b w => exact zext a b w | fadd a b c p => exact fadd a b c p | faddLiteral a b c p rm => exact faddLiteral a b c p rm
  | fsub a b c p => exact fsub a b c p | fsubLiteral a b c p rm => exact fsubLiteral a b c p rm | fmul a b c p => exact fmul a b c p
  | fmulLiteral a b c p rm => exact fmulLiteral a b c p rm | ffma a b c p => exact ffma a b c p
  | ffmaLiteral a b c p rm => exact ffmaLiteral a b c p rm | fdiv a b c p => exact fdiv a b c p
  | fdivLiteral a b c p rm => exact fdivLiteral a b c p rm | fsqrt a b p => exact fsqrt a b p
  | fsqrtLiteral a b p rm => exact fsqrtLiteral a b p rm | fcvt a b dst src rm => exact fcvt a b dst src rm
  | fcmplt a b c p => exact fcmplt a b c p | fcmpeq a b c p => exact fcmpeq a b c p | fmin a b c p => exact fmin a b c p
  | fmax a b c p => exact fmax a b c p | beac a => exact beac a
  -- VEC, E = 2
  | shape val => exact shape val | vadd v a b k m => exact vadd v a b k m | vsub v a b k m => exact vsub v a b k m
  | vmul v a b k m => exact vmul v a b k m | vfma v a b k m => exact vfma v a b k m | vfms v a b k m => exact vfms v a b k m
  | vmin v a b k m => exact vmin v a b k m | vmax v a b k m => exact vmax v a b k m | vabs v a k m => exact vabs v a k m
  | vneg v a k m => exact vneg v a k m | vand v a b k m => exact vand v a b k m | vor v a b k m => exact vor v a b k m
  | vxor v a b k m => exact vxor v a b k m | vnot v a k m => exact vnot v a k m | vshl v a b k m => exact vshl v a b k m
  | vshr v a b k m => exact vshr v a b k m | vsar v a b k m => exact vsar v a b k m | vcmpeq v a b k m => exact vcmpeq v a b k m
  | vcmplt v a b k m => exact vcmplt v a b k m | vcmple v a b k m => exact vcmple v a b k m | vsel v a b k m => exact vsel v a b k m
  | vmov v a k m => exact vmov v a k m | vfill v g k m => exact vfill v g k m | vbrow v a g k m => exact vbrow v a g k m
  | vbcol v a g k m => exact vbcol v a g k m | vrsum v a k m => exact vrsum v a k m | vrmax v a k m => exact vrmax v a k m
  | vcsum v a k m => exact vcsum v a k m | vcmax v a k m => exact vcmax v a k m | vtrn v a k m => exact vtrn v a k m
  | vzip2 v a k m => exact vzip2 v a k m | vzip3 v a k m => exact vzip3 v a k m | vzip4 v a k m => exact vzip4 v a k m
  | vunz2 v a k m => exact vunz2 v a k m | vunz3 v a k m => exact vunz3 v a k m | vunz4 v a k m => exact vunz4 v a k m
  | vperm v a b k m => exact vperm v a b k m | vrot v a g k m => exact vrot v a g k m | vcvt v a t k m => exact vcvt v a t k m
  | vqnt v a n f => exact vqnt v a n f | vamx n a k => exact vamx n a k | vrcpa v a k => exact vrcpa v a k
  | vrsqa v a k => exact vrsqa v a k | vexp2 v a k => exact vexp2 v a k | vlog2 v a k => exact vlog2 v a k
  | vtanh v a k => exact vtanh v a k | vgte g a b k m => exact vgte g a b k m | vpte v a b k m => exact vpte v a b k m
  | vmskop o v a b k m => exact vmskop o v a b k m | viota v g n k m => exact viota v g n k m | vrdot v a b k m => exact vrdot v a b k m
  | vclamp v a b k m => exact vclamp v a b k m
  -- MEM, E = 3
  | xlt h g => exact xlt h g | xltNw h g => exact xltNw h g | hrel h => exact hrel h | hchk p h => exact hchk p h
  | hinfo g h s => exact hinfo g h s | lds v b c => exact lds v b c | sts v b c => exact sts v b c | ldsg g b c => exact ldsg g b c
  | stsg g b c => exact stsg g b c | ldg r v h c m => exact ldg r v h c m | ldgUnt r v h c lat => exact ldgUnt r v h c lat
  | stg r v h c m => exact stg r v h c m | stgUnt r v h c lat => exact stgUnt r v h c lat | ldgs r g h c m => exact ldgs r g h c m
  | ldgsUnt r g h c lat => exact ldgsUnt r g h c lat | stgs r g h c m => exact stgs r g h c m
  | stgsUnt r g h c lat => exact stgsUnt r g h c lat | ldt r v h c m => exact ldt r v h c m
  | ldtUnt r v h c lat => exact ldtUnt r v h c lat | stq r v h c m => exact stq r v h c m | stqUnt r v h c lat => exact stqUnt r v h c lat
  | stnt r v h c m => exact stnt r v h c m | stntUnt r v h c lat => exact stntUnt r v h c lat | pfl h b c => exact pfl h b c
  | cwbr h b c => exact cwbr h b c | cinvr h b c => exact cinvr h b c | rpin n h g => exact rpin n h g | runpin n h => exact runpin n h
  | ldge r v h c m => exact ldge r v h c m | ldgeUnt r v h c lat => exact ldgeUnt r v h c lat | ldte r v h c m => exact ldte r v h c m
  | ldteUnt r v h c lat => exact ldteUnt r v h c lat | drain => exact drain
  -- MAT, E = 4
  | mcfg l g f => exact mcfg l g f | mcfgi l grp val => exact mcfgi l grp val | msrc k r u i => exact msrc k r u i
  | mfmt a b f q => exact mfmt a b f q | mldb g q => exact mldb g q | mclr a b => exact mclr a b | mrd v r c m => exact mrd v r c m
  | mwr v r c m => exact mwr v r c m | mfuse q f => exact mfuse q f | mdur g => exact mdur g | mgo => exact mgo
  -- QUE, E = 5
  | qpush p v n => exact qpush p v n | qpop v q n => exact qpop v q n | qrsv p n => exact qrsv p n | qbind p g => exact qbind p g
  | lksend p v n => exact lksend p v n | lkrecv v q n => exact lkrecv v q n | lkbind p g => exact lkbind p g
  | qdepth g k q => exact qdepth g k q
  -- SYN, E = 6
  | aadd g h c w => exact aadd g h c w | aand g h c w => exact aand g h c w | aor g h c w => exact aor g h c w
  | axor g h c w => exact axor g h c w | amin g h c s w => exact amin g h c s w | amax g h c s w => exact amax g h c s w
  | aswp g h c w => exact aswp g h c w | acas g h c w => exact acas g h c w | vatom v i o => exact vatom v i o
  | acq g h c s => exact acq g h c s | acqTry g h c s => exact acqTry g h c s | rel h c => exact rel h c
  | relQueues h c mask => exact relQueues h c mask | bind r h g => exact bind r h g | unbind r h g => exact unbind r h g
  | gpass p g => exact gpass p g | gtake v g => exact gtake v g | gstat s g => exact gstat s g | cld g k c => exact cld g k c
  | cst g k c r => exact cst g k c r | cldv v k c => exact cldv v k c | cstv v k c => exact cstv v k c
  | rcas2 g k c n => exact rcas2 g k c n | renq g k c => exact renq g k c | rchase g k c => exact rchase g k c | kmov a b => exact kmov a b
  | knarrow a b g => exact knarrow a b g | kperm a b i => exact kperm a b i | kld a h c m => exact kld a h c m
  | kst a h c m => exact kst a h c m | wld g w c => exact wld g w c | wst g w c => exact wst g w c | sfence q s => exact sfence q s
  -- ASY, E = 7
  | cpy q h g m => exact cpy q h g m | cpyd q h g m => exact cpyd q h g m | ratt q g u => exact ratt q g u | kapp q g => exact kapp q g
  | krel q g => exact krel q g | merge q g => exact merge q g | coll q v g => exact coll q v g | tier q h g => exact tier q h g
  | pfs q h g => exact pfs q h g | qfence m => exact qfence m
  -- No column
  | unassignedOpcode w => exact unassignedOpcode w
  -- The events of the hardware
  | _ => exact statement_of_not_isWord rfl

/-- Settles O60: the decoder evaluated on each word. -/
theorem decodeReadsSpecWords : Obligations.DecodeReadsSpecWords := by
  unfold Obligations.DecodeReadsSpecWords
  refine ⟨?endTask, ?wait, ?movi, ?add, ?divs, ?shape, ?vmul⟩ <;> decide

end Sys2Proof.Laws.Encoding
end

/-! # Words of a free and of an occupied column -/

section

namespace Sys2Proof.Laws

open Sys2Proof Sys2Proof.Machine Sys2Proof.Claims

/-! ## The shell of issue (R112, R317) -/

/-- In a free column a word issues and has its effect on the state in which its column is occupied. -/
theorem issue_of_free {s : State} (h : Free s) (occ : Nat) (k : State → State) : s.issue occ k = .next (k (occupied s occ)) := by
  unfold State.issue
  rw [colBusy_of_free h, if_neg Bool.false_ne_true]
  rfl

theorem colBusy_of_not_free {s : State} (h : ¬ Free s) : s.colBusy = true := by
  by_contra idle
  simp only [State.colBusy, Bool.or_eq_true, Bool.and_eq_true, decide_eq_true_eq, beq_iff_eq, not_or, not_lt, not_and] at idle
  obtain ⟨hfree, hfence⟩ := idle
  exact h ⟨hfree, hfence⟩

/-- The present word as a violation, in each of the modes (R316 to R318). -/
theorem violation_mine (s : State) : s.violation s.cur.sid s.cur.col (!s.cur.posted) =
    if (mine s).ut then s
    else if (mine s).trapMode then (if s.cur.posted then s else withMine s ((mine s).post 0x12 s.cur.col))
    else withMine s (if (mine s).heldAt = some s.now then mine s else heldOnce s (mine s)) := by
  unfold State.violation
  cases s.cur.posted <;> rfl

/-- A word that does not issue in this cycle is held. -/
theorem stall_eq_waiting (s : State) : s.stall = waiting s := by
  have cur : (s.violation s.cur.sid s.cur.col (!s.cur.posted)).cur = s.cur := by
    rw [violation_mine]
    split_ifs <;> rfl
  unfold State.stall waiting
  dsimp only
  rw [cur, violation_mine]

/-! ## The words that occupy their column -/

/-- The instruction waits where its column is occupied. -/
def WaitsWhenBusy (s : State) (i : Instr) : Prop := s.colBusy = true → exec i s = .next s.stall

theorem waits_of_integerResult {s : State} {i : Instr} (h : integerResult s i ≠ none) : WaitsWhenBusy s i := by
  intro hbusy
  cases i with
  | add | sub | addi | mul | mulhs | mulhz | divs | divz | rems | remz | and | or | xor | andn | shl | shr | sar | ror | shli | shri | sari
  | mins | maxs | minz | maxz | clz | popc | movi | movx | movhx | sel | sext | zext | beac =>
    exact congrArg Host.Outcome.next (if_pos hbusy)
  | idx a l =>
    show execIdx a l s = _
    unfold execIdx
    split
    · exact congrArg Host.Outcome.next (if_pos hbusy)
    · exact congrArg Host.Outcome.next (if_pos hbusy)
  | _ => exact absurd rfl h

theorem waits_of_predicateResult {s : State} {i : Instr} (h : predicateResult s i ≠ none) : WaitsWhenBusy s i := by
  intro hbusy
  cases i with
  | cmpeq | cmpne | cmplts | cmples | cmpltz | cmplez | cmpeqi | cmpltsi | pand | por | pxor | pnot => exact congrArg Host.Outcome.next (if_pos hbusy)
  | _ => exact absurd rfl h

theorem waits_of_floatResult {s : State} {i : Instr} (h : floatResult s i ≠ none) : WaitsWhenBusy s i := by
  intro hbusy
  cases i with
  | fadd | faddLiteral | fsub | fsubLiteral | fmul | fmulLiteral | ffma | ffmaLiteral | fdiv | fdivLiteral | fsqrt | fsqrtLiteral | fcvt
  | fmin | fmax => exact congrArg Host.Outcome.next (if_pos hbusy)
  | _ => exact absurd rfl h

theorem waits_of_floatCompare {s : State} {i : Instr} (h : floatCompare s i ≠ none) : WaitsWhenBusy s i := by
  intro hbusy
  cases i with
  | fcmplt | fcmpeq => exact congrArg Host.Outcome.next (if_pos hbusy)
  | _ => exact absurd rfl h

theorem waits_of_branch {s : State} {i : Instr} (h : branch s i ≠ none) : WaitsWhenBusy s i := by
  intro hbusy
  cases i with
  | br | brp | ret => exact congrArg Host.Outcome.next (if_pos hbusy)
  | _ => exact absurd rfl h

theorem waits_of_tileWord {s : State} {i : Instr} (h : tileWord s i ≠ none) : WaitsWhenBusy s i := by
  intro hbusy
  cases i with
  | vadd | vsub | vmul | vfma | vfms | vmin | vmax | vabs | vneg | vclamp | vand | vor | vxor | vnot | vshl | vshr | vsar | vsel | vmov | vfill
  | vbrow | vbcol | vperm | vrot | vtrn | vpte | vrsum | vrmax | vcsum | vcmax | vrdot | viota | vcvt | vqnt | vrcpa | vrsqa | vexp2 | vlog2
  | vtanh => exact congrArg Host.Outcome.next (if_pos hbusy)
  | _ => exact absurd rfl h

/-- Settles O55: each of these words issues in the shell of R112, which an occupied column turns into a wait, an event or a held cycle. -/
theorem occupiedColumnsHold : Obligations.OccupiedColumnsHold := by
  intro s i hbusy hword
  have waits : WaitsWhenBusy s i := by
    rcases hword with h | h | h | h | h | h
    · exact waits_of_integerResult h
    · exact waits_of_predicateResult h
    · exact waits_of_floatResult h
    · exact waits_of_floatCompare h
    · exact waits_of_branch h
    · exact waits_of_tileWord h
  rw [waits (colBusy_of_not_free hbusy), stall_eq_waiting]

end Sys2Proof.Laws
end

/-! # Integer, predicate and floating-point words -/

section

namespace Sys2Proof.Laws

open Sys2Proof Sys2Proof.Machine Sys2Proof.Claims

/-! ## Values of the integer words (R136 to R142) -/

theorem mulHigh_eq (x y : W64) : mulHigh x y = ((x.setWidth 128 * y.setWidth 128) >>> 64).setWidth 64 := by
  have bound : x.toNat * y.toNat < 2 ^ 64 * 2 ^ 64 := Nat.mul_lt_mul'' x.isLt y.isLt
  apply BitVec.eq_of_toNat_eq
  rw [mulHigh, BitVec.toNat_ofNat, BitVec.toNat_setWidth, BitVec.toNat_ushiftRight, BitVec.toNat_mul, BitVec.toNat_setWidth,
    BitVec.toNat_setWidth, Nat.mod_eq_of_lt (x.isLt.trans (by decide)), Nat.mod_eq_of_lt (y.isLt.trans (by decide)),
    Nat.mod_eq_of_lt (b := 2 ^ 128) bound, Nat.shiftRight_eq_div_pow]

theorem mulHighS_eq (x y : W64) : mulHighS x y = ((x.signExtend 128 * y.signExtend 128) >>> 64).setWidth 64 := by
  have product : x.signExtend 128 * y.signExtend 128 = BitVec.ofInt 128 (x.toInt * y.toInt) := by
    rw [BitVec.ofInt_mul]; rfl
  apply BitVec.eq_of_toNat_eq
  rw [product, mulHighS, BitVec.toNat_ofInt, BitVec.toNat_setWidth, BitVec.toNat_ushiftRight, BitVec.toNat_ofInt, Nat.shiftRight_eq_div_pow]
  show (x.toInt * y.toInt / 2 ^ 64 % _).toNat = _
  generalize x.toInt * y.toInt = p
  omega

theorem divS_eq (b c : W64) : divS b c = if c = 0 then BitVec.allOnes 64 else b.sdiv c := by
  unfold divS
  congr 1
  apply BitVec.eq_of_toInt_eq
  rw [BitVec.toInt_ofInt, BitVec.toInt_sdiv]
  rfl

theorem remS_eq (b c : W64) : remS b c = if c = 0 then b else b.srem c := by
  unfold remS
  congr 1
  rw [← BitVec.ofInt_toInt (x := b.srem c), BitVec.toInt_srem]
  rfl

theorem divZ_eq (b c : W64) : divZ b c = if c = 0 then BitVec.allOnes 64 else b / c := by
  unfold divZ
  congr 1
  apply BitVec.eq_of_toNat_eq
  rw [BitVec.toNat_ofNat, BitVec.toNat_udiv, Nat.mod_eq_of_lt ((Nat.div_le_self _ _).trans_lt b.isLt)]

theorem remZ_eq (b c : W64) : remZ b c = if c = 0 then b else b % c := by
  unfold remZ
  congr 1
  apply BitVec.eq_of_toNat_eq
  rw [BitVec.toNat_ofNat, BitVec.toNat_umod, Nat.mod_eq_of_lt ((Nat.mod_le _ _).trans_lt b.isLt)]

theorem shiftCount_eq (c : W64) : shiftCount c = (c.setWidth 6).toNat := (BitVec.toNat_setWidth 6 c).symm

theorem sg_le_iff (b c : W64) : sg b ≤ sg c ↔ b.sle c = true := by
  rw [BitVec.sle_iff_toInt_le]
  rfl

theorem toNat_le_iff (b c : W64) : b.toNat ≤ c.toNat ↔ b.ule c = true := by
  rw [BitVec.ule_iff_toNat_le]

/-- How many of the first `n` numbers lie below `k`. -/
theorem countP_lt_range (k n : Nat) : (List.range n).countP (fun i => decide (i < k)) = min k n := by
  induction n with
  | zero => simp
  | succ n ih =>
    rw [List.range_succ, List.countP_append, ih]
    by_cases h : n < k
    · simp [h]; omega
    · simp [h]; omega

theorem leadingZeros_eq (x : W64) : leadingZeros x = zerosAbove x := by
  unfold leadingZeros zerosAbove
  by_cases hx : x = 0
  · subst hx
    decide
  · have pos : x.toNat ≠ 0 := fun h => hx (BitVec.eq_of_toNat_eq h)
    have top : x.toNat.log2 < 64 := (Nat.log2_lt pos).2 x.isLt
    have below : ∀ i, x.toNat < 2 ^ (63 - i) ↔ i < 63 - x.toNat.log2 := fun i => by
      rw [← Nat.log2_lt pos]
      omega
    simp only [if_neg hx, below, countP_lt_range]
    omega

theorem popcount_eq (n x : Nat) : popcount x n = (List.range n).countP x.testBit := by
  induction n generalizing x with
  | zero => rfl
  | succ n ih =>
    rw [popcount, ih, List.range_succ_eq_map, List.countP_cons, List.countP_map, Nat.add_comm]
    have shift : x.testBit ∘ Nat.succ = (x / 2).testBit := funext fun i => Nat.testBit_succ x i
    rw [shift]
    rcases Nat.mod_two_eq_zero_or_one x with h | h <;> simp [Nat.testBit_zero, h]

theorem onesCount_eq (x : W64) : onesCount x = (List.range 64).countP x.getLsbD := popcount_eq 64 x.toNat

theorem sgn_eq_toInt (x : W64) (n : Nat) : sgn x.toNat n = (x.setWidth n).toInt := by
  unfold sgn
  rw [bit_eq_testBit, BitVec.toInt_eq_msb_cond, BitVec.msb_eq_getLsbD_last, BitVec.toNat_setWidth]
  simp [BitVec.getLsbD, BitVec.toNat_setWidth]

theorem signExtendFrom_eq (x : W64) (w : BitVec 6) : signExtendFrom x (w.toNat + 1) = (x.setWidth (w.toNat + 1)).signExtend 64 := by
  rw [signExtendFrom, sgn_eq_toInt]
  rfl

theorem zeroExtendFrom_eq (x : W64) (w : BitVec 6) : zeroExtendFrom x (w.toNat + 1) = (x.setWidth (w.toNat + 1)).setWidth 64 := by
  apply BitVec.eq_of_toNat_eq
  rw [zeroExtendFrom, BitVec.toNat_ofNat, BitVec.toNat_setWidth, BitVec.toNat_setWidth]

theorem pred_eq_selected (s : State) (x : BitVec 5) : s.me.pred x.toNat = selected s x := by
  unfold Seq.pred selected
  rw [bit_eq_testBit]
  rfl

/-- An immediate compares as its sign extension. -/
theorem sg_lt_immediate (b : W64) (i : BitVec 8) : decide (sg b < i.toInt) = b.slt (i.signExtend 64) := by
  rw [BitVec.slt_eq_decide, BitVec.toInt_signExtend_of_le (by decide)]
  rfl

/-! ## The words of the SCA column -/

theorem toG_of_free {s : State} {occ lat occ' lat' : Nat} {a a' : BitVec 6} {v v' : W64} (h : Free s)
    (heq : (a, occ, lat, v) = (a', occ', lat', v')) : s.toG occ lat a v = .next (issued s occ' lat' [.g a'.toNat v']) := by
  cases heq
  exact issue_of_free h _ _

theorem toP_of_free {s : State} {p p' : BitVec 4} {b b' : Bool} (h : Free s) (heq : (p, b) = (p', b')) :
    s.toP p b = .next (issued s 1 2 [.p p'.toNat b']) := by
  cases heq
  exact issue_of_free h _ _

theorem toF_of_free {s : State} {occ lat occ' lat' : Nat} {a a' : BitVec 6} {v : W64 × Nat} {x : W64} {f : Nat} (h : Free s)
    (heq : (a, occ, lat, v) = (a', occ', lat', (x, f))) :
    s.toF occ lat a v = .next (issued s occ' lat' (.g a'.toNat x :: flagLands f)) := by
  cases heq
  exact issue_of_free h _ _

theorem integerResults : Claims.IntegerResults := by
  intro s i a occ lat x hf hres
  have res := fun {y} (hy : some y = some (a, occ, lat, x)) => Option.some.inj hy
  cases i with
  | add | sub | addi | mul | and | or | xor | andn | shli | shri | sari | movi | movx | sel | beac => exact toG_of_free hf (res hres)
  | mulhs => exact toG_of_free hf (mulHighS_eq _ _ ▸ res hres)
  | mulhz => exact toG_of_free hf (mulHigh_eq _ _ ▸ res hres)
  | divs => exact toG_of_free hf (divS_eq _ _ ▸ res hres)
  | divz => exact toG_of_free hf (divZ_eq _ _ ▸ res hres)
  | rems => exact toG_of_free hf (remS_eq _ _ ▸ res hres)
  | remz => exact toG_of_free hf (remZ_eq _ _ ▸ res hres)
  | shl | shr | sar | ror => exact toG_of_free hf (shiftCount_eq _ ▸ res hres)
  | mins | maxs => exact toG_of_free hf (if_congr (sg_le_iff _ _) rfl rfl ▸ res hres)
  | minz | maxz => exact toG_of_free hf (if_congr (toNat_le_iff _ _) rfl rfl ▸ res hres)
  | clz => exact toG_of_free hf (leadingZeros_eq _ ▸ res hres)
  | popc => exact toG_of_free hf (onesCount_eq _ ▸ res hres)
  | movhx g => exact toG_of_free hf (BitVec.setWidth_eq_extractLsb' (x := s.g g) (by decide : 32 ≤ 64) ▸ res hres)
  | sext => exact toG_of_free hf (signExtendFrom_eq _ _ ▸ res hres)
  | zext => exact toG_of_free hf (zeroExtendFrom_eq _ _ ▸ res hres)
  | idx g l =>
    obtain ⟨legal, hres⟩ := Option.ite_none_right_eq_some.1 hres
    show execIdx g l s = _
    unfold execIdx
    rw [if_neg (Nat.not_le.2 legal)]
    refine toG_of_free hf (.trans ?_ (res hres))
    rw [show s.me.lstk = (mine s).lstk from rfl]
    cases (mine s).lstk[l.toNat]? <;> rfl
  | _ => cases hres

theorem predicateResults : Claims.PredicateResults := by
  intro s i p b hf hres
  have res := fun {y} (hy : some y = some (p, b)) => Option.some.inj hy
  cases i with
  | cmpeq | cmpeqi | cmplts | cmples | cmpltz | cmplez => exact toP_of_free hf (res hres)
  | cmpne q y z => exact toP_of_free hf (Bool.eq_iff_iff.2 (show (s.g y != s.g z) = true ↔ decide (s.g y ≠ s.g z) = true by simp) ▸ res hres)
  | cmpltsi => exact toP_of_free hf (sg_lt_immediate _ _ ▸ res hres)
  | pand _ y z | por _ y z | pxor _ y z => exact toP_of_free hf (pred_eq_selected s y ▸ pred_eq_selected s z ▸ res hres)
  | pnot => exact toP_of_free hf (pred_eq_selected s _ ▸ res hres)
  | _ => cases hres

theorem floatResults : Claims.FloatResults := by
  intro s i a occ lat x f hf hres
  cases i with
  | fadd | faddLiteral | fsub | fsubLiteral | fmul | fmulLiteral | ffma | ffmaLiteral | fdiv | fdivLiteral | fsqrt | fsqrtLiteral | fcvt
  | fmin | fmax => exact toF_of_free hf (Option.some.inj hres)
  | _ => cases hres

/-- What a compare raises is NV or nothing (R46, R144). -/
theorem flagLands_of_nv (c : Bool) : flagLands (if c then 1 else 0) = flags (if c then 1 else 0) := by
  cases c <;> rfl

theorem toFP_of_free {s : State} {p p' : BitVec 4} {b b' c : Bool} {f : Nat} (h : Free s)
    (heq : (p, b, if c then 1 else 0) = (p', b', f)) :
    s.toFP p (b, if c then 1 else 0) = .next (issued s 1 2 (.p p'.toNat b' :: flags f)) := by
  cases heq
  rw [← flagLands_of_nv]
  exact issue_of_free h _ _

theorem nanFlags_pair (x y : Val) : nanFlags [x, y] = if x.isSnan || y.isSnan then 1 else 0 := by
  simp [nanFlags, flagNV]

theorem floatCompares : Claims.FloatCompares := by
  intro s i p b f hf hres
  cases i with
  | fcmplt => exact toFP_of_free hf (Option.some.inj hres)
  | fcmpeq q x y t =>
    show s.toFP q (cmpEq _ _) = _
    rw [cmpEq, nanFlags_pair]
    exact toFP_of_free hf (Option.some.inj hres)
  | _ => cases hres

/-- Settles O1: each word's shell in a free column, with its result. -/
theorem scalarWords : Obligations.ScalarWords := ⟨integerResults, predicateResults, floatResults, floatCompares⟩

end Sys2Proof.Laws
end

/-! # ERET, SMODE and the system registers -/

section

namespace Sys2Proof.Laws

open Sys2Proof Sys2Proof.Machine Sys2Proof.Claims

/-! ## Words of the CTL column without delay -/

/-- Fields of a CTL word with delay 0 (R87). -/
theorem fields_of_ctl {op n : Nat} (hop : op < 64) (hn : n < 2 ^ 20) :
    engOf (op * 2 ^ 20 + n) = 0 ∧ dlyOf (op * 2 ^ 20 + n) = 0 ∧ opOf (op * 2 ^ 20 + n) = op := by
  unfold engOf dlyOf opOf
  omega

theorem decodeWord_ctl {op n : Nat} (hop : op < 64) (hn : n < 2 ^ 20) (lit : Option Nat) :
    decodeWord (op * 2 ^ 20 + n) lit = decodeCtl (op * 2 ^ 20 + n) lit := by
  obtain ⟨heng, -, -⟩ := fields_of_ctl hop hn
  simp only [decodeWord, heng]

theorem decode_eret {n : Nat} (hn : n < 2 ^ 20) :
    (decodeWord (0x10 * 2 ^ 20 + n) none).toOption = some { ins := .eret, eng := 0, dly := 0, rsvd := decide (n ≠ 0) } := by
  obtain ⟨heng, hdly, hop⟩ := fields_of_ctl (op := 0x10) (by decide) hn
  have low : nz (0x10 * 2 ^ 20 + n) 0 20 = decide (n ≠ 0) := by
    unfold nz
    rw [Nat.pow_zero, Nat.div_one, Nat.mul_add_mod_self_right, Nat.mod_eq_of_lt hn]
    exact Bool.eq_iff_iff.2 (by simp)
  rw [decodeWord_ctl (by decide) hn]
  simp only [decodeCtl, hop, dec1, heng, hdly, low]
  rfl

theorem decode_smode {n : Nat} (hn : n < 2 ^ 20) :
    (decodeWord (0x12 * 2 ^ 20 + n) none).toOption =
      some { ins := .smode (BitVec.ofNat 1 n), eng := 0, dly := 0, rsvd := decide (2 ≤ n) } := by
  obtain ⟨heng, hdly, hop⟩ := fields_of_ctl (op := 0x12) (by decide) hn
  have mode : fld (0x12 * 2 ^ 20 + n) 0 1 = BitVec.ofNat 1 n := by
    apply BitVec.eq_of_toNat_eq
    rw [fld, BitVec.toNat_ofNat, BitVec.toNat_ofNat]
    omega
  have high : nz (0x12 * 2 ^ 20 + n) 1 19 = decide (2 ≤ n) := by
    unfold nz
    rw [show (0x12 * 2 ^ 20 + n) / 2 ^ 1 % 2 ^ 19 = n / 2 by omega]
    exact Bool.eq_iff_iff.2 (by simp; omega)
  rw [decodeWord_ctl (by decide) hn]
  simp only [decodeCtl, hop, dec1, heng, hdly, mode, high]
  rfl

/-! ## ERET and SMODE (R131, R133) -/

/-- The sequencer of a word that has issued: its column is occupied, all else is as before (R112). -/
@[simp] theorem me_occupied (s : State) (occ : Nat) : (occupied s occ).me = colUntil (mine s) s.cur.col (s.now + occ) :=
  get_set_same _ _ _ _

/-- R116, R314: a taken transfer. -/
theorem transferred_transfer (s : State) (target : Nat) (stk : List FetchLevel) : Transferred s (s.transfer target stk) target :=
  ⟨_, rfl, rfl, rfl, rfl, rfl, rfl, rfl, rfl, rfl, rfl, rfl, rfl, rfl⟩

theorem returnFromEvent_eq (s : State) : s.returnFromEvent =
    (withMine s { mine s with pl := 0, tact := false }).transfer ((mine s).tpos.toNat % 65536) s.cur.stk := rfl

/-- Where ERET is illegal (R131). -/
theorem eret_illegal_iff (s : State) :
    (isMgmt s.cur.sid || (mine s).pl != 1 || !(mine s).tact || (mine s).lstk.length != (mine s).tpos.toNat / 65536) = true ↔
      OnHub s ∨ (mine s).pl ≠ 1 ∨ (mine s).tact = false ∨ (mine s).lstk.length ≠ (mine s).tpos.toNat / 65536 := by
  simp [isMgmt, dieOf, OnHub, Config.hubDie, or_assoc]

theorem exec_eret {s : State} (h : Free s) : exec .eret s =
    .next (if OnHub s ∨ (mine s).pl ≠ 1 ∨ (mine s).tact = false ∨ (mine s).lstk.length ≠ (mine s).tpos.toNat / 65536
      then faulted (occupied s 1) 1 else (occupied s 1).returnFromEvent) := by
  show execEret s = _
  unfold execEret
  rw [issue_of_free h]
  dsimp only
  rw [me_occupied, ← fault_eq_faulted]
  exact congrArg _ (if_congr (eret_illegal_iff s) rfl rfl)

/-- Settles O5: the decoder on OP 0x10, and the two outcomes of the word. -/
theorem eretReturns : Obligations.EretReturns := by
  refine ⟨fun n hn => decode_eret hn, fun s hf => ⟨fun hbad => ?_, fun huser hpl htact hdepth => ?_⟩⟩
  · rw [exec_eret hf, if_pos hbad]
  · have tpos : (mine (occupied s 1)).tpos = (mine s).tpos := (congrArg Seq.tpos (me_occupied s 1) :)
    rw [exec_eret hf, if_neg (by simp [huser, hpl, htact, hdepth]), returnFromEvent_eq]
    exact ⟨_, rfl, tpos ▸ transferred_transfer (withMine (occupied s 1) { mine (occupied s 1) with pl := 0, tact := false }) _ _⟩

/-- Settles O6: the decoder on OP 0x12, the word, and its landing. -/
theorem smodeSetsTrapMode : Obligations.SmodeSetsTrapMode := by
  refine ⟨fun _ hn => decode_smode hn, fun s t hf => ?_, fun _ _ _ harg => exec_resultLanding_one harg⟩
  show execSmode t s = _
  unfold execSmode
  exact issue_of_free hf _ _

end Sys2Proof.Laws
end

section

namespace Sys2Proof.Laws

open Sys2Proof Sys2Proof.Machine Sys2Proof.Claims

/-! ## RDSR (R134) -/

theorem isMgmt_iff (s : State) : isMgmt s.cur.sid = true ↔ OnHub s := by
  simp [isMgmt, dieOf, OnHub, Config.hubDie]

theorem level_occupied (s : State) (occ : Nat) : (occupied s occ).level s.cur.sid = level s := by
  have pl : ((occupied s occ).seq s.cur.sid).pl = (mine s).pl := (congrArg Seq.pl (me_occupied s occ) :)
  unfold State.level level
  rw [pl]
  exact if_congr (isMgmt_iff s) rfl rfl

theorem readLevel_eq_readFrom (n : Nat) : readLevel n = readFrom n := by
  by_cases small : n < 0x15
  · have table : ∀ n < 0x15, readLevel n = readFrom n := by decide
    exact table n small
  · unfold readFrom
    split
    case h_20 => rw [readLevel, if_neg (by omega), if_neg (by omega)]
    all_goals omega

/-- The registers of the sequencer are read as R43 to R51 list them; the issue of the word has not changed them. -/
theorem ownReg_occupied {s : State} {n l : Nat} (h : readFrom n = some l) : (occupied s 1).ownReg s.cur.sid n = registerValue s n := by
  have seq : (occupied s 1).seq s.cur.sid = colUntil (mine s) s.cur.col (s.now + 1) := me_occupied s 1
  have tstat : (occupied s 1).tstat s.cur.sid = registerValue s 0 := by
    unfold State.tstat
    rw [level_occupied, seq]
    rfl
  have left : (occupied s 1).dlineLeft s.cur.sid = registerValue s 0xE := by
    unfold State.dlineLeft
    rw [seq]
    rfl
  have seqid : (occupied s 1).seqid s.cur.sid = registerValue s 0x10 := by
    unfold State.seqid
    rw [seq]
    rfl
  unfold State.ownReg
  rw [tstat, left, seqid, seq]
  unfold readFrom at h
  split at h
  any_goals rfl
  cases h

theorem mayRead_own {s : State} {n : Nat} (h : n < 0x100) :
    (occupied s 1).mayRead s.cur.sid n = true ↔ ∃ l, readFrom n = some l ∧ l ≤ level s := by
  unfold State.mayRead
  rw [if_pos h, readLevel_eq_readFrom, level_occupied]
  cases readFrom n with
  | none => simp
  | some l => simp

theorem exec_rdsr {s : State} (h : Free s) (g : BitVec 6) (r : BitVec 14) : exec (.rdsr g r) s =
    .next (if (occupied s 1).mayRead s.cur.sid r.toNat = true then
      (if r.toNat < 0x100 then issued s 1 2 [.g g.toNat (BitVec.ofNat 64 ((occupied s 1).ownReg s.cur.sid r.toNat))]
       else if isDieReg r.toNat = true then
        (if 8 ≤ Fm.get 8 s.dsel s.cur.sid then issued s 1 2 [.g g.toNat 0]
         else issued s 1 20 [.sample r.toNat (Fm.get 8 s.dsel s.cur.sid) g.toNat s.now])
       else issued s 1 2 [.g g.toNat (BitVec.ofNat 64 (s.hubReg s.cur.sid r.toNat))])
      else faulted (occupied s 1) 1) := by
  show execRdsr g r s = _
  unfold execRdsr
  rw [issue_of_free h]
  dsimp only
  rw [← fault_eq_faulted]
  cases (occupied s 1).mayRead s.cur.sid r.toNat <;> rfl

theorem rdsrReadsOwnRegisters : RdsrReadsOwnRegisters := by
  refine fun s g r hf hown => ⟨fun hread => ?_, fun hread => ?_⟩
  · obtain ⟨l, hl, hle⟩ := hread
    rw [exec_rdsr hf, if_pos ((mayRead_own hown).2 ⟨l, hl, hle⟩), if_pos hown, ownReg_occupied hl]
  · rw [exec_rdsr hf, if_neg (fun may => ?_)]
    obtain ⟨l, hl, hle⟩ := (mayRead_own hown).1 may
    exact absurd hle (Nat.not_le.2 (hread l hl))

theorem mayRead_configuration {s : State} {n : Nat} (h : 0x100 ≤ n) :
    (occupied s 1).mayRead s.cur.sid n = true ↔ OnHub s ∧ (isDieReg n = true ∨ isHubReg n = true) := by
  unfold State.mayRead
  rw [if_neg (Nat.not_lt.2 h), Bool.and_eq_true, isMgmt_iff, Bool.or_eq_true]

theorem rdsrReadsConfiguration : RdsrReadsConfiguration := by
  intro s g r hf hcfg
  have hown : ¬ r.toNat < 0x100 := Nat.not_lt.2 hcfg
  refine ⟨fun huser => ?_, fun hub reg die => ?_, fun hub die sel => ?_, fun hub die sel => ?_, fun reg die => ?_⟩
  · rw [exec_rdsr hf, if_neg (fun may => huser ((mayRead_configuration hcfg).1 may).1)]
  · rw [exec_rdsr hf, if_pos ((mayRead_configuration hcfg).2 ⟨hub, .inr reg⟩), if_neg hown, if_neg (by simp [die])]
  · rw [exec_rdsr hf, if_pos ((mayRead_configuration hcfg).2 ⟨hub, .inl die⟩), if_neg hown, if_pos die, if_neg (Nat.not_le.2 sel)]
  · rw [exec_rdsr hf, if_pos ((mayRead_configuration hcfg).2 ⟨hub, .inl die⟩), if_neg hown, if_pos die, if_pos sel]
  · rw [exec_rdsr hf, if_neg (fun may => ?_)]
    simpa [reg, die] using ((mayRead_configuration hcfg).1 may).2

/-! ## WRSR (R134) -/

theorem writeLevel_eq_writeFrom (n : Nat) : writeLevel n = (writeFrom n).map Prod.fst := by
  unfold writeFrom
  split
  any_goals rfl
  unfold writeLevel
  split
  any_goals contradiction
  rfl

theorem namedBits_of_writeFrom {n l : Nat} {f : W64} (h : writeFrom n = some (l, f)) : namedBits n = f.toNat := by
  unfold writeFrom at h
  split at h
  any_goals (cases h; rfl)
  cases h

theorem mayWrite_own {s : State} {n : Nat} (h : n < 0x100) :
    (occupied s 1).mayWrite s.cur.sid n = true ↔ ∃ l f, writeFrom n = some (l, f) ∧ l ≤ level s := by
  unfold State.mayWrite
  rw [if_pos h, writeLevel_eq_writeFrom, level_occupied]
  cases writeFrom n with
  | none => simp
  | some x => simp [Prod.ext_iff]

theorem reserved_eq_markRsvd (s : State) (b : Bool) : s.reserved b = markRsvd s b := by
  cases b
  · unfold markRsvd
    rw [Bool.or_false]
    rfl
  · unfold markRsvd
    rw [Bool.or_true]
    rfl

/-- The bits of `v` outside the fields `f`, as the model finds them. -/
theorem reservedBits_eq (v f : W64) : (v.toNat &&& (2 ^ 64 - 1 - f.toNat) != 0) = decide (v &&& ~~~f ≠ 0) := by
  rw [← BitVec.toNat_not, ← BitVec.toNat_and]
  exact Bool.eq_iff_iff.2 (by simp [← BitVec.toNat_inj])

/-- A WRSR of a register of the sequencer: its write in place at +2 (R134), and for CLAMPCNT the counter's (R51). -/
theorem exec_wrsr_own {s : State} (h : Free s) (g : BitVec 6) {r : BitVec 14} (hown : r.toNat < 0x100) {l : Nat} {f : W64}
    (hw : writeFrom r.toNat = some (l, f)) (hl : l ≤ level s) : exec (.wrsr g r) s =
      .next (let t := markRsvd (occupied s 1) (decide (greg s g &&& ~~~f ≠ 0))
        if r.toNat = 0xF then t.effect 2 .clampcntWrite (.partN t.myPart (if t.level s.cur.sid = 2 then (greg s g).toNat % 2 ^ 32 else 0))
        else t.effect 2 .resultLanding (.land s.cur.sid [.sysreg r.toNat (greg s g)])) := by
  have value : (occupied s 1).g g = greg s g := (congrArg (fun q : Seq => Fm.get 0 q.g g.toNat) (me_occupied s 1) :)
  have may := (mayWrite_own hown).2 ⟨l, f, hw, hl⟩
  show execWrsr g r s = _
  unfold execWrsr
  rw [issue_of_free h]
  dsimp only
  rw [may, value, namedBits_of_writeFrom hw, reservedBits_eq, reserved_eq_markRsvd, if_neg (by decide), if_pos hown]

theorem exec_wrsr_illegal {s : State} (h : Free s) (g : BitVec 6) {r : BitVec 14} (hown : r.toNat < 0x100)
    (hw : ∀ l f, writeFrom r.toNat = some (l, f) → level s < l) : exec (.wrsr g r) s = .next (faulted (occupied s 1) 1) := by
  have may : (occupied s 1).mayWrite s.cur.sid r.toNat = false := by
    refine Bool.eq_false_iff.2 fun may => ?_
    obtain ⟨l, f, hf, hl⟩ := (mayWrite_own hown).1 may
    exact absurd hl (Nat.not_le.2 (hw l f hf))
  show execWrsr g r s = _
  unfold execWrsr
  rw [issue_of_free h, ← fault_eq_faulted]
  dsimp only
  rw [may, if_pos (by decide)]
  rfl

theorem wrsrWritesOwnRegisters : WrsrWritesOwnRegisters := by
  refine fun s g r hf hown => ⟨fun l f hw hl hclamp => ?_, exec_wrsr_illegal hf g hown⟩
  rw [exec_wrsr_own hf g hown hw hl, if_neg hclamp]
  rfl

theorem exec_clampcntWrite {s : State} {p v : Nat} (h : s.arg = .partN p v) :
    exec .clampcntWrite s = .next (s.updPart p fun x => { x with clamp := BitVec.ofNat 32 v }) := by
  show execClampcntWrite s = _
  unfold execClampcntWrite
  rw [h]

theorem clampcntWrites : ClampcntWrites := by
  refine ⟨fun s g r hf hr hl => ?_, fun s p v harg => ?_⟩
  · have hw : writeFrom r.toNat = some (1, 0xFFFFFFFF) := by rw [hr]; rfl
    have level := level_occupied s 1
    have part : (occupied s 1).myPart = (mine s).task.part := (congrArg (fun q : Seq => q.task.part) (me_occupied s 1) :)
    rw [exec_wrsr_own hf g (by omega) hw hl]
    dsimp only
    rw [if_pos hr, ← level, ← part]
    rfl
  · exact exec_clampcntWrite harg

/-- Settles O8: RDSR of each kind of register, WRSR of a register of the sequencer, and CLAMPCNT. -/
theorem systemRegisterWords : Obligations.SystemRegisterWords :=
  ⟨rdsrReadsOwnRegisters, rdsrReadsConfiguration, wrsrWritesOwnRegisters, clampcntWrites⟩

end Sys2Proof.Laws
end

/-! # Landings -/

section

namespace Sys2Proof.Laws

open Sys2Proof Sys2Proof.Machine Sys2Proof.Claims

/-! ## Registers (R113, R134) -/

theorem getLsbD_two_three (i : Nat) :
    (2#64).getLsbD i = decide (i = 1) ∧ (3#64).getLsbD i = (decide (i = 0) || decide (i = 1)) := by
  rw [show 3#64 = BitVec.twoPow 64 0 ||| BitVec.twoPow 64 1 from rfl, show 2#64 = BitVec.twoPow 64 1 from rfl, BitVec.getLsbD_or,
    BitVec.getLsbD_twoPow, BitVec.getLsbD_twoPow]
  exact ⟨by simp [eq_comm], by simp [eq_comm]⟩

/-- ERRS after a write: a cleared FIRST clears the record with it (R49). -/
theorem errs_written (x v : W64) :
    (if (x &&& ~~~(v &&& 3)).getLsbD 0 then x &&& ~~~(v &&& 3) else x &&& ~~~(v &&& 3) &&& 2) =
      if x.getLsbD 0 && !v.getLsbD 0 then x &&& ~~~(v &&& 2) else x &&& ~~~(v &&& 2) &&& 2 := by
  have first : (x &&& ~~~(v &&& 3)).getLsbD 0 = (x.getLsbD 0 && !v.getLsbD 0) := by simp
  rw [first]
  split
  case isTrue kept =>
    refine BitVec.eq_of_getLsbD_eq fun i _ => ?_
    by_cases hi : i = 0
    · have unwritten : v[0] = false := by simp_all
      simp [hi, unwritten]
    · simp [getLsbD_two_three, hi]
  case isFalse =>
    refine BitVec.eq_of_getLsbD_eq fun i _ => ?_
    by_cases hi : i = 1
    · simp [hi]
    · simp [getLsbD_two_three, hi]

/-- FRAME after a write: its bits [55:16] (R51). -/
theorem frame_written (v : W64) : BitVec.ofNat 64 (bits v.toNat 16 40 * 2 ^ 16) = v &&& 0xFFFFFFFFFF0000 := by
  have mask : (0xFFFFFFFFFF0000 : W64) = BitVec.ofNat 64 ((2 ^ 40 - 1) <<< 16) := rfl
  rw [mask]
  refine BitVec.eq_of_getLsbD_eq fun i hi => ?_
  rw [BitVec.getLsbD_and, BitVec.getLsbD_ofNat, BitVec.getLsbD_ofNat, bits, Nat.testBit_mul_two_pow, Nat.testBit_mod_two_pow,
    Nat.testBit_div_two_pow, Nat.testBit_shiftLeft, Nat.testBit_two_pow_sub_one]
  by_cases h : 16 ≤ i
  · simp [h, hi, BitVec.getLsbD, Bool.and_comm]
  · simp [h]

theorem writeReg_eq_written {q : Seq} {n : Nat} (v : W64) (h : (writeFrom n).isSome) (hclamp : n ≠ 0xF) : q.writeReg n v = written q n v := by
  unfold writeFrom at h
  split at h
  any_goals rfl
  · exact congrArg (fun x => { q with errs := x }) (errs_written q.errs v)
  · exact congrArg (fun x => { q with frame := x }) (frame_written v)
  · exact absurd rfl hclamp
  · cases h

theorem setM_mend (q : Seq) (n : Nat) (d m : MaskBits) :
    (q.setM n (mergeBits (q.mr n) d m)).mend (Spot.ofMask n m.toNat) = { q with
      m := if n = 0 then q.m else Fm.set q.m n ((Fm.get 0 q.m n &&& ~~~m) ||| (d &&& m)), upset := q.upset.filter (fun x => !Spot.ofMask n m.toNat x) } := by
  unfold Seq.setM Seq.mr mergeBits
  by_cases h : n = 0
  · rw [if_pos h, if_pos h]
    rfl
  · rw [if_neg h, if_neg h, if_neg h]
    rfl

theorem landOne_landed {s : State} {sid : Nat} {x : Land} {r : Seq} (h : landed s sid x = some r) : s.landOne sid x = withSeq s sid r := by
  cases x with
  | g | h | k | shape | ring | fstat | wrn | smode =>
    cases h
    rfl
  | sysreg n v =>
    obtain ⟨⟨hw, hn⟩, hr⟩ := Option.ite_none_right_eq_some.1 h
    exact congrArg (withSeq s sid) ((writeReg_eq_written v hw hn).trans (Option.some.inj hr))
  | mask n d m =>
    cases h
    exact congrArg (withSeq s sid) (setM_mend _ n d m)
  | _ => cases h

theorem landingsWriteRegisters : LandingsWriteRegisters := by
  intro s sid x r harg hx
  rw [exec_resultLanding_one harg, landOne_landed hx]

/-! ## Tiles and accumulator rows (R15, R26, R150) -/

/-- A tile landing, with the spots that the write mends (R334). -/
theorem landReg_tile_mended (s : State) (sid : Nat) {n : Nat} (hn : n < 32) (d m : TileBits) :
    landReg s sid (.tile n d m) = s.setSeq (tileOwner sid n)
      { s.seq (tileOwner sid n) with
        v := Fm.set (s.seq (tileOwner sid n)).v (n % 16) (mergeBits (s.tile sid n) d m)
        upset := (s.seq (tileOwner sid n)).upset.filter (fun x => !Spot.ofTile (n % 16) m.toNat x) } := by
  unfold landReg State.setTile tileOwner
  by_cases h : n < 16
  · simp only [if_pos h, Nat.mod_eq_of_lt h]
    rw [State.updSeq, seq_updSeq_same, State.updSeq, setSeq_setSeq]
    rfl
  · simp only [if_neg h, show n % 16 = n - 16 by omega]
    rw [State.updSeq, seq_updSeq_same, State.updSeq, setSeq_setSeq]
    rfl

theorem tileLandingsMerge : TileLandingsMerge := by
  intro s sid n d m harg hsid hn
  refine ⟨_, exec_resultLanding_one harg, tile_landReg_tile s sid n d m, ?_⟩
  show (∀ i k, i < 8192 → k < 16 → (i ≠ tileOwner sid n ∨ k ≠ n % 16) → tileOf (landReg s sid (.tile n d m)) i k = tileOf s i k) ∧
    landReg s sid (.tile n d m) = { s with seqs := (landReg s sid (.tile n d m)).seqs } ∧
    (∀ i, (landReg s sid (.tile n d m)).seq i = { s.seq i with
      v := ((landReg s sid (.tile n d m)).seq i).v, upset := ((landReg s sid (.tile n d m)).seq i).upset }) ∧
    ∀ i, ((landReg s sid (.tile n d m)).seq i).upset = (s.seq i).upset.filter (fun x => !(i == tileOwner sid n && Spot.ofTile (n % 16) m.toNat x))
  rw [landReg_tile_mended s sid hn]
  generalize tileOwner sid n = own
  refine ⟨fun i k _ hk hne => ?_, rfl, fun i => ?_, fun i => ?_⟩
  · rw [tileOf_own _ _ hk, tileOf_own _ _ hk]
    by_cases hi : i = own
    · subst hi
      rw [seq_setSeq_same]
      exact get_set_other _ _ _ _ _ (Ne.symm (hne.resolve_left (fun h => h rfl)))
    · rw [seq_setSeq_other _ _ _ _ (Ne.symm hi)]
  · by_cases hi : i = own
    · subst hi
      rw [seq_setSeq_same]
    · rw [seq_setSeq_other _ _ _ _ (Ne.symm hi)]
  · by_cases hi : i = own
    · subst hi
      simp [seq_setSeq_same]
    · simp [seq_setSeq_other _ _ _ _ (Ne.symm hi), beq_false_of_ne hi]

/-- The core of an accumulator landing. -/
theorem core_landReg_acc (s : State) (sid r : Nat) (d m : RowBits) : (landReg s sid (.acc r d m)).core (sid % 4096) =
    { s.core (sid % 4096) with
      acc := Fm.set (s.core (sid % 4096)).acc r (mergeBits (Fm.get 0 (s.core (sid % 4096)).acc r) d m)
      badRows := (s.core (sid % 4096)).badRows.filter (fun x => !(x.1 == r && covers m.toNat x.2)) } := get_set_same _ _ _ _

theorem accumulatorLandings : AccumulatorLandings := by
  intro s sid r d m harg
  refine ⟨_, exec_resultLanding_one harg, rfl, ?_⟩
  change let t := (landReg s sid (.acc r d m)); let q := t.core (sid % 4096);
    Fm.get 0 q.acc r = _ ∧ (∀ k, k ≠ r → Fm.get 0 q.acc k = _) ∧ q = { s.core (sid % 4096) with acc := q.acc, badRows := q.badRows } ∧
    ∀ c, c ≠ sid % 4096 → t.core c = s.core c
  dsimp only
  rw [core_landReg_acc]
  exact ⟨get_set_same _ _ _ _, fun k hk => get_set_other _ _ _ _ _ (Ne.symm hk), rfl, fun c hc => get_set_other _ _ _ _ _ (Ne.symm hc)⟩

/-- Settles O9: registers, tiles and accumulator rows, each as one change of its sequencer or core. -/
theorem landingsTakePlace : Obligations.LandingsTakePlace :=
  ⟨landingsWriteRegisters, tileLandingsMerge, accumulatorLandings⟩

end Sys2Proof.Laws
end

/-! # A count that is known while fetch is held -/

section

namespace Sys2Proof.Laws

open Sys2Proof Sys2Proof.Machine Sys2Proof.Claims

/-! ## LOOP of a sequencer whose fetch waits for the count

`Claims.LoopsPushLevels` says that LOOP with a count of 1 or more changes its sequencer and nothing else. Where fetch stands held until
the count is known (R118), the model draws a free value for the cycle in which it goes on, so that the count of drawn values changes
with the sequencer. -/

/-- Sequencer 0 with 1 in g0, whose fetch is held for the count of the loop word that issues. -/
def heldForCount : State := { seqs := [(0, { g := [(0, 1)], fhold := true })] }

/-- Free values drawn up to an outcome. -/
def drawnOf : Host.Outcome State Fault Refusal → Nat
  | .next t => t.drawn
  | _ => 0

theorem loop_draws : Free heldForCount ∧ drawnOf (exec (.loop 0 1) heldForCount) = 1 := by decide +kernel

/-- Refutes O2: a LOOP whose count fetch has waited for draws a free value, which is no change of its sequencer. -/
theorem not_controlWords : ¬ Obligations.ControlWords := by
  rintro ⟨-, -, -, -, hloops, -, -⟩
  obtain ⟨hfree, hdrawn⟩ := loop_draws
  obtain ⟨-, hfits⟩ := hloops heldForCount 0 0 1 hfree
  obtain ⟨-, -, -, hpushed⟩ := hfits (by decide)
  obtain ⟨r, hstep, -⟩ := (hpushed (by decide)).2 (by decide)
  rw [hstep] at hdrawn
  exact Nat.zero_ne_one hdrawn

end Sys2Proof.Laws
end

/-! # YIELD, SEAM, END and WAITB -/

section

namespace Sys2Proof.Laws

open Sys2Proof Sys2Proof.Machine Sys2Proof.Claims

/-! ## Delivery points (R124, R130) -/

theorem deliverHere_of_nothing {s : State} {sid : Nat} (h : (s.seq sid).tact = true ∨ (s.seq sid).pend = [] ∨ (s.seq sid).lstk ≠ [])
    (resume : Nat) : s.deliverHere sid resume = s := by
  unfold State.deliverHere
  by_cases hlstk : (s.seq sid).lstk = []
  · rw [if_pos (List.isEmpty_iff.2 hlstk)]
    exact takeEvent_of_handling (h.imp_right fun h => h.resolve_right (fun hne => hne hlstk)) resume
  · rw [if_neg (fun h => hlstk (List.isEmpty_iff.1 h))]

theorem deliverHere_outside_loops {s : State} {sid : Nat} (h : (s.seq sid).lstk = []) (resume : Nat) :
    s.deliverHere sid resume = s.takeEvent sid resume := if_pos (List.isEmpty_iff.2 h)

theorem exec_seam {s : State} (h : Free s) : exec .seam s =
    .next ((withMine (occupied s 1) { mine (occupied s 1) with ut := true }).deliverHere s.cur.sid (s.cur.pc + 1)) := by
  show execSeam s = _
  unfold execSeam
  rw [issue_of_free h]
  rfl

/-- The present word's sequencer after a change of it. -/
@[simp] theorem seq_withMine (s : State) (q : Seq) : (withMine s q).seq s.cur.sid = q := get_set_same _ _ _ _

theorem seamEntersUntimed : SeamEntersUntimed := by
  intro s hf
  have seam (q : Seq) : (withMine (occupied s 1) q).seq s.cur.sid = q := seq_withMine (occupied s 1) q
  have issuedSeq : mine (occupied s 1) = colUntil (mine s) s.cur.col (s.now + 1) := me_occupied s 1
  refine ⟨fun hnone => ?_, fun e hlstk hdel => ⟨_, exec_seam hf, ?_⟩⟩
  · rw [exec_seam hf, deliverHere_of_nothing]
    rw [seam, issuedSeq]
    exact .inr hnone.symm
  · rw [deliverHere_outside_loops (by rw [seam, issuedSeq]; exact hlstk)]
    exact delivered_takeEvent (by rw [seam, issuedSeq]; exact hdel) _

/-! ## Where nothing is in flight (R123, R128) -/

theorem stillBusy_of_quiet {q : Seq} (h : Quiet q) : q.stillBusy = false := by
  obtain ⟨hcmds, hnest⟩ := h
  have idle : q.inFlight = false := by
    unfold Seq.inFlight
    rw [List.any_eq_false]
    intro c hc hbusy
    simp only [Bool.and_eq_true, Bool.not_eq_true', Option.isNone_iff_eq_none, beq_iff_eq] at hbusy
    obtain ⟨⟨hdet, hfence⟩, hlaunch⟩ := hbusy
    rcases hcmds c hc hlaunch with h | h
    · simp [h] at hdet
    · exact h hfence
  unfold Seq.stillBusy
  rw [idle, hnest, Bool.or_self, Bool.and_false]

/-! ## END (R128) -/

/-- END in a free column with nothing in flight. -/
theorem exec_endTask_quiet {s : State} (h : Free s) (hq : Quiet (mine s)) : exec .endTask s =
    .next (if (mine s).lstk.isEmpty && !(mine s).tact && !(mine s).pend.isEmpty then (occupied s 1).takeEvent s.cur.sid s.cur.pc
      else (occupied s 1).ended) := by
  have still : s.me.stillBusy = false := stillBusy_of_quiet hq
  have stillIssued : (s.occupy 1).me.stillBusy = false := (congrArg Seq.stillBusy (me_occupied s 1)).trans still
  have issuedSeq : (s.occupy 1).me = colUntil (mine s) s.cur.col (s.now + 1) := me_occupied s 1
  show execEndTask s = _
  unfold execEndTask
  rw [colBusy_of_free h, if_neg Bool.false_ne_true, still, Bool.false_and, if_neg Bool.false_ne_true]
  dsimp only
  rw [stillIssued, if_neg Bool.false_ne_true, issuedSeq]
  rfl

/-- What END does to its sequencer and to nothing else. -/
theorem ended_eq (s : State) : s.ended =
    { withMine s { mine s with run := .finishing, fq := [], bq := [], joins := [], fstop := true, dline := none } with
      revokes := s.ended.revokes, agenda := s.agenda ++ [event s.now 8 4 .schedulerPlacement (.seq s.cur.sid)] } := rfl

theorem endReleasesHalf : EndReleasesHalf := by
  intro s hf hq
  refine ⟨fun hnone => ?_, fun e hlstk hdel => ?_⟩
  · have none : ¬ ((mine s).lstk.isEmpty && !(mine s).tact && !(mine s).pend.isEmpty) = true := by
      rcases hnone with h | h
      · simp [h]
      · simp [h]
    rw [exec_endTask_quiet hf hq, if_neg none]
    refine ⟨_, rfl, ⟨fun i hi => ?_, rfl⟩, ?_, rfl, rfl⟩
    · rw [ended_eq]
      exact (get_set_other _ _ _ _ _ (Ne.symm hi)).trans (get_set_other _ _ _ _ _ (Ne.symm hi))
    · rw [ended_eq]
      exact get_set_same _ _ _ _
  · obtain ⟨htact, -, hmem, -⟩ := id hdel
    have some : ((mine s).lstk.isEmpty && !(mine s).tact && !(mine s).pend.isEmpty) = true := by
      simp [hlstk, htact, List.ne_nil_of_mem hmem]
    rw [exec_endTask_quiet hf hq, if_pos some]
    have issuedSeq : (occupied s 1).seq s.cur.sid = colUntil (mine s) s.cur.col (s.now + 1) := me_occupied s 1
    exact ⟨_, rfl, delivered_takeEvent (by rw [issuedSeq]; exact hdel) _⟩

/-! ## WAITB (R125) -/

theorem post_eq_append {q : Seq} {code : Nat} (col : Nat) (hfatal : q.fatal = false) (hnew : ∀ x ∈ q.pend, x.code ≠ code) :
    q.post code col = { q with pend := q.pend ++ [{ code := code, col := col }] } := by
  unfold Seq.post
  rw [hfatal, Bool.false_or, if_neg]
  simpa using hnew

theorem exec_waitb {s : State} (h : Free s) (g : BitVec 6) : exec (.waitb g) s =
    .next (if (mine s).tact then faulted (occupied s 1) 1
      else if (greg s g).toNat < s.ptime (mine s).task.part then
        { withMine (occupied s 1) ((mine (occupied s 1)).post 0x11 0) with cur := { s.cur with fault := true } }
      else (withMine (occupied s 1) { mine (occupied s 1) with waitb := some (greg s g).toNat }).armWaitb s.cur.sid (greg s g).toNat) := by
  have value : (occupied s 1).g g = greg s g := (congrArg (fun q : Seq => Fm.get 0 q.g g.toNat) (me_occupied s 1) :)
  have tact : (occupied s 1).me.tact = (mine s).tact := (congrArg Seq.tact (me_occupied s 1) :)
  have part : (occupied s 1).myPart = (mine s).task.part := (congrArg (fun q : Seq => q.task.part) (me_occupied s 1) :)
  show execWaitb g s = _
  unfold execWaitb
  rw [issue_of_free h, ← fault_eq_faulted]
  dsimp only
  rw [value, tact, part]
  rfl

/-- The end of a WAITB, in the cycle in which partition time reaches its time. -/
theorem armWaitb_eq (s : State) (sid t : Nat) : s.armWaitb sid t = { s with
    agenda := s.agenda ++ [event (s.now + (t - s.ptime (s.seq sid).task.part)) 1 (landKey s.now sid 0) .waitbComplete (.seqN sid t)] } := by
  unfold State.armWaitb State.cycleOf
  rw [Nat.max_eq_right (Nat.le_add_right _ _)]
  rfl

theorem waitbHolds : WaitbHolds := by
  intro s g hf
  have part (q : Seq) (hq : q.task.part = (mine s).task.part) : ((withMine (occupied s 1) q).seq s.cur.sid).task.part = (mine s).task.part := by
    rw [show (withMine (occupied s 1) q).seq s.cur.sid = q from seq_withMine (occupied s 1) q, hq]
  have issuedSeq : mine (occupied s 1) = colUntil (mine s) s.cur.col (s.now + 1) := me_occupied s 1
  refine ⟨fun htact => ?_, fun htact hle => ?_, fun htact hlt hfatal hnew => ?_⟩
  · rw [exec_waitb hf, if_pos htact]
  · rw [exec_waitb hf, if_neg (by simp [htact]), if_neg (Nat.not_lt.2 hle), armWaitb_eq, part _ (by rw [issuedSeq]; rfl)]
    rfl
  · rw [exec_waitb hf, if_neg (by simp [htact]), if_pos hlt, post_eq_append 0 (by rw [issuedSeq]; exact hfatal) (by rw [issuedSeq]; exact hnew)]

theorem waitbCompletes : WaitbCompletes := by
  intro s sid t harg q hwait htime hrun
  have waiting : ¬ (s.seq sid).waitb ≠ some t := not_not_intro hwait
  have reached : ¬ (s.ptime (s.seq sid).task.part < t ∨ (s.seq sid).run = .halted) := fun h => h.elim (Nat.not_lt.2 htime) hrun
  show execWaitbComplete s = _
  unfold execWaitbComplete
  rw [harg]
  dsimp only
  rw [if_neg waiting, if_neg reached]
  rfl

/-! ## YIELD (R122, R123) -/

/-- What a map reads as when a function that keeps its default is applied to each of its values. -/
theorem get_map_values {α : Type} {d : α} {f : α → α} (hd : f d = d) (m : Fm α) (i : Nat) :
    Fm.get d (m.map fun e => (e.1, f e.2)) i = f (Fm.get d m i) := by
  induction m with
  | nil => exact hd.symm
  | cons e r ih =>
    simp only [List.map_cons, Fm.get, ih]
    exact (apply_ite f _ _ _).symm

/-- An armed deadline, on the agenda for the cycle in which it expires. -/
theorem armDeadline_eq {s : State} {sid t : Nat} (h : (s.seq sid).dline = some t) : s.armDeadline sid =
    scheduled s (event (s.now + (t - s.ptime (s.seq sid).task.part)) 9 sid .deadlineFault (.seqN sid t)) := by
  unfold State.armDeadline State.cycleOf
  dsimp only
  rw [h]
  dsimp only
  rw [Nat.max_eq_right (Nat.le_add_right _ _)]
  rfl

theorem newDeadline_eq (s : State) (sid d : Nat) : s.newDeadline sid d =
    scheduled (withSeq s sid { s.seq sid with dline := some (s.ptime (s.seq sid).task.part + d) })
      (event (s.now + d) 9 sid .deadlineFault (.seqN sid (s.ptime (s.seq sid).task.part + d))) := by
  have left : s.ptime (s.seq sid).task.part + d - s.ptime (s.seq sid).task.part = d := Nat.add_sub_cancel_left _ _
  unfold State.newDeadline
  rw [armDeadline_eq (t := s.ptime (s.seq sid).task.part + d) (by rw [seq_updSeq_same]), seq_updSeq_same]
  exact congrArg (fun k => scheduled _ (event (s.now + k) 9 sid .deadlineFault (.seqN sid (s.ptime (s.seq sid).task.part + d)))) left

/-- The state after a YIELD of `d` cycles has dropped revoked handles and armed its deadline, before warnings and events (R122, R123). -/
def armed (s : State) (d : Nat) : State :=
  let y := if d = 0 ∨ (mine s).ybound < d then (mine s).ybound else d
  { withMine s { (mine s).dropRevoked with dline := some (s.ptime (mine s).task.part + y) } with
    revokes := (s.passedYield s.cur.sid false).revokes
    cur := { s.cur with fb := s.cur.fb || decide ((mine s).ybound < d) }
    agenda := s.agenda ++ [event (s.now + y) 9 s.cur.sid .deadlineFault (.seqN s.cur.sid (s.ptime (mine s).task.part + y))] }

theorem armed_eq (s : State) (d : Nat) :
    (((s.updMe Seq.dropRevoked).passedYield s.cur.sid false).fallback (decide ((mine s).ybound < d))).newDeadline s.cur.sid
      (if d = 0 ∨ (mine s).ybound < d then (mine s).ybound else d) = armed s d := by
  have dropped (b : Bool) : (markFallback ((s.updMe Seq.dropRevoked).passedYield s.cur.sid false) b).seq s.cur.sid = (mine s).dropRevoked :=
    get_set_same _ _ _ _
  rw [fallback_eq_markFallback, newDeadline_eq, dropped]
  exact congrArg (fun m => { armed s d with seqs := m }) (set_set _ _ _ _)

theorem mine_armed (s : State) (d : Nat) : (armed s d).me = { (mine s).dropRevoked with
    dline := some (s.ptime (mine s).task.part + if d = 0 ∨ (mine s).ybound < d then (mine s).ybound else d) } := get_set_same _ _ _ _

theorem mine_settleWarnings (s : State) : s.settleWarnings.me = { s.me with
    wrn := s.me.wrn ||| if s.cur.fault then 0 else (if s.cur.rsvd then 1 else 0) ||| (if s.cur.fb then 2 else 0) } := get_set_same _ _ _ _

/-- A YIELD of a user sequencer with no stop, no give-away and no event to deliver. -/
theorem yield_quiet {s : State} (huser : ¬ OnHub s) (hstopp : (mine s).stopp = false) (hslend : (mine s).slend = false)
    (hnone : (mine s).tact = true ∨ (mine s).pend = [] ∨ (mine s).lstk ≠ []) (d live : Nat) :
    s.yield d live = if (mine s).tact then armed s d else (armed s d).settleWarnings := by
  have ybound : ((s.updMe Seq.dropRevoked).passedYield s.cur.sid false).me.ybound = (mine s).ybound :=
    (congrArg Seq.ybound (me_updMe s Seq.dropRevoked) :)
  have tact : (armed s d).me.tact = (mine s).tact := (congrArg Seq.tact (mine_armed s d) :)
  have settled := (mine_settleWarnings (armed s d)).trans (by rw [mine_armed])
  have stopp : (armed s d).settleWarnings.me.stopp = false := (congrArg Seq.stopp settled).trans hstopp
  have slend : (armed s d).settleWarnings.me.slend = false := (congrArg Seq.slend settled).trans hslend
  unfold State.yield
  dsimp only
  rw [isMgmt_eq_false huser, if_neg Bool.false_ne_true, ybound, armed_eq, tact, stopp, slend, if_neg Bool.false_ne_true,
    if_neg Bool.false_ne_true]
  refine if_congr Iff.rfl rfl (deliverHere_of_nothing ?_ _)
  rw [show (armed s d).settleWarnings.seq s.cur.sid = _ from settled]
  exact hnone

theorem exec_yield_quiet {s : State} (h : Free s) (hq : Quiet (mine s)) (i : BitVec 14) (live : BitVec 29) :
    exec (.yield i live) s = .next ((occupied s 1).yield (64 * i.toNat) live.toNat) := by
  have still : s.me.stillBusy = false := stillBusy_of_quiet hq
  have stillIssued : (s.occupy 1).me.stillBusy = false := (congrArg Seq.stillBusy (me_occupied s 1)).trans still
  show execYield i live s = _
  unfold execYield
  rw [colBusy_of_free h, if_neg Bool.false_ne_true, still, Bool.false_and, if_neg Bool.false_ne_true]
  dsimp only
  rw [stillIssued, if_neg Bool.false_ne_true]
  rfl

/-- The deadline that a YIELD arms. -/
theorem deadline_eq (q : Seq) (i : BitVec 14) :
    (if 64 * i.toNat = 0 ∨ q.ybound < 64 * i.toNat then q.ybound else 64 * i.toNat) = deadline q i := by
  have zero : 64 * i.toNat = 0 ↔ i = 0 := by
    rw [← BitVec.toNat_inj]
    simp
  unfold deadline
  exact if_congr (or_congr_left zero) rfl rfl

/-- Handles after a YIELD: V is cleared where RP is set (R122). -/
theorem get_dropRevoked (q : Seq) (n : Nat) : Fm.get {} q.dropRevoked.h n =
    if (Fm.get {} q.h n).rp then { Fm.get {} q.h n with v := false } else Fm.get {} q.h n :=
  get_map_values (f := fun x : Handle => if x.rp then { x with v := false } else x) rfl q.h n

/-- The YIELD's sequencer before warnings and events. -/
theorem mine_armed_occupied (s : State) (i : BitVec 14) : mine (armed (occupied s 1) (64 * i.toNat)) =
    { (mine (occupied s 1)).dropRevoked with dline := some (s.ptime (mine s).task.part + deadline (mine s) i) } := by
  have issuedSeq : mine (occupied s 1) = colUntil (mine s) s.cur.col (s.now + 1) := me_occupied s 1
  refine (mine_armed (occupied s 1) _).trans ?_
  rw [deadline_eq, issuedSeq]
  rfl

theorem agenda_armed_occupied (s : State) (i : BitVec 14) : (armed (occupied s 1) (64 * i.toNat)).agenda = s.agenda ++
    [event (s.now + deadline (mine s) i) 9 s.cur.sid .deadlineFault (.seqN s.cur.sid (s.ptime (mine s).task.part + deadline (mine s) i))] := by
  have issuedSeq : mine (occupied s 1) = colUntil (mine s) s.cur.col (s.now + 1) := me_occupied s 1
  unfold armed
  dsimp only
  rw [deadline_eq, issuedSeq]
  rfl

theorem cur_armed_occupied (s : State) (d : Nat) : (armed (occupied s 1) d).cur = { s.cur with fb := s.cur.fb || decide ((mine s).ybound < d) } := by
  have ybound : (mine (occupied s 1)).ybound = (mine s).ybound := (congrArg Seq.ybound (me_occupied s 1) :)
  unfold armed
  dsimp only
  rw [ybound]
  rfl

theorem seq_armed_other (s : State) (d : Nat) {i : Nat} (h : i ≠ s.cur.sid) : (armed (occupied s 1) d).seq i = s.seq i :=
  (get_set_other _ _ _ _ _ (Ne.symm h)).trans (get_set_other _ _ _ _ _ (Ne.symm h))

theorem yieldArmsDeadline : YieldArmsDeadline := by
  intro s i live hf huser hq hstopp hslend hnone
  have issuedSeq : mine (occupied s 1) = colUntil (mine s) s.cur.col (s.now + 1) := me_occupied s 1
  have dropped (n : Nat) : Fm.get {} (mine (armed (occupied s 1) (64 * i.toNat))).h n =
      if (Fm.get {} (mine s).h n).rp then { Fm.get {} (mine s).h n with v := false } else Fm.get {} (mine s).h n := by
    rw [mine_armed_occupied, issuedSeq]
    exact get_dropRevoked _ n
  have wrn : (mine (armed (occupied s 1) (64 * i.toNat))).wrn = (mine s).wrn := by
    rw [mine_armed_occupied, issuedSeq]
    rfl
  rw [exec_yield_quiet hf hq, yield_quiet (s := occupied s 1) huser (by rw [issuedSeq]; exact hstopp) (by rw [issuedSeq]; exact hslend)
    (by rw [issuedSeq]; exact hnone)]
  refine ⟨_, rfl, ?_⟩
  by_cases htact : (mine s).tact = true
  · rw [if_pos (by rw [issuedSeq]; exact htact)]
    refine ⟨⟨fun k hk => seq_armed_other s _ hk, rfl⟩, ?_, ?_, dropped, agenda_armed_occupied s i, cur_armed_occupied s _⟩
    · rw [mine_armed_occupied]
      rfl
    · rw [if_pos (.inl htact), wrn]
  · rw [if_neg (by rw [issuedSeq]; exact htact)]
    have settled : mine (armed (occupied s 1) (64 * i.toNat)).settleWarnings = _ := mine_settleWarnings _
    refine ⟨⟨fun k hk => (get_set_other _ _ _ _ _ (Ne.symm hk)).trans (seq_armed_other s _ hk), rfl⟩, ?_, ?_, fun n => ?_,
      agenda_armed_occupied s i, cur_armed_occupied s _⟩
    · rw [settled, show (armed (occupied s 1) (64 * i.toNat)).me = _ from mine_armed_occupied s i]
      rfl
    · rw [settled, cur_armed_occupied, show (armed (occupied s 1) (64 * i.toNat)).me.wrn = _ from wrn]
      cases s.cur.fault with
      | true => simp
      | false => simp [htact, BitVec.or_assoc]
    · rw [settled]
      exact dropped n

/-- Settles O3: the delivery points YIELD, SEAM and END, and WAITB. -/
theorem taskWords : Obligations.TaskWords :=
  ⟨yieldArmsDeadline, seamEntersUntimed, endReleasesHalf, waitbHolds, waitbCompletes⟩

end Sys2Proof.Laws
end

/-! # Launches: LAUNCH and the validation of a descriptor -/

section

namespace Sys2Proof.Laws

open Sys2Proof Sys2Proof.Machine Sys2Proof.Claims

/-! ## LAUNCH (R127) -/

/-- The pool entry that LAUNCH reserves. -/
def reservedLaunch (s : State) (h : BitVec 4) (g : BitVec 6) : Launch :=
  { id := s.launchNext, part := (mine s).task.part, sidFrom := s.cur.sid, descVa := (Fm.get {} (mine s).h h.toNat).vbase + (greg s g).toNat
    age := s.now, ageKey := s.cur.sid, early := s.pstate (mine s).task.part == 3 }

theorem exec_launch {s : State} (hf : Free s) (p h : BitVec 4) (g : BitVec 6) : exec (.launch p h g) s =
    .next (let x := Fm.get {} (mine s).h h.toNat
      let off := (greg s g).toNat
      if (!(occupied s 1).handleOk x permRead) = true then faulted (occupied s 1) 2
      else if (!boundsOk x off 64 64) = true then faulted (occupied s 1) 3
      else if (mine s).task.part = 63 ∨ 256 ≤ s.pool.countP (fun l => l.part == (mine s).task.part) then issued s 1 48 [.p p.toNat false]
      else State.push { issued s 1 48 [.p p.toNat true] with pool := s.pool ++ [reservedLaunch s h g], launchNext := s.launchNext + 1 }
        (event (s.now + 140) 4 (homeKey s.cur.sid s.now 0) .launchReceive (.launch (reservedLaunch s h g) x off))) := by
  have handle : (occupied s 1).me.hr h.toNat = Fm.get {} (mine s).h h.toNat := (congrArg (fun q : Seq => q.hr h.toNat) (me_occupied s 1) :)
  have offset : (occupied s 1).me.gn g.toNat = (greg s g).toNat := (congrArg (fun q : Seq => q.gn g.toNat) (me_occupied s 1) :)
  have part : (occupied s 1).myPart = (mine s).task.part := (congrArg (fun q : Seq => q.task.part) (me_occupied s 1) :)
  show execLaunch p h g s = _
  unfold execLaunch
  rw [issue_of_free hf]
  dsimp only
  rw [handle, offset, part, ← fault_eq_faulted, ← fault_eq_faulted]
  rfl

theorem launchReservesEntry : LaunchReservesEntry := by
  intro s p h g hf
  refine ⟨fun bad => ?_, fun good out => ?_, fun good fits full => ?_, fun good fits room user => ?_⟩
  · rw [exec_launch hf]
    dsimp only
    rw [bad, if_pos (by decide)]
  · rw [exec_launch hf]
    dsimp only
    rw [good, if_neg (by decide), out, if_pos (by decide)]
  · rw [exec_launch hf]
    dsimp only
    rw [good, if_neg (by decide), fits, if_neg (by decide), if_pos (.inr full)]
  · have taken : ¬ ((mine s).task.part = 63 ∨ 256 ≤ s.pool.countP (fun l => l.part == (mine s).task.part)) := not_or.2 ⟨user, room⟩
    rw [exec_launch hf]
    dsimp only
    rw [good, if_neg (by decide), fits, if_neg (by decide), if_neg taken]
    exact ⟨reservedLaunch s h g, _, rfl, rfl, rfl, rfl, rfl, rfl, _, List.append_assoc .., rfl, rfl⟩

/-! ## Validation of a descriptor (R306, R311, R343) -/

/-- `t` has the launches and the sequencers of `s`. -/
def SameWork (s t : State) : Prop := t.pool = s.pool ∧ t.seqs = s.seqs

theorem sameWork_refl (s : State) : SameWork s s := ⟨rfl, rfl⟩

theorem sameWork_trans {s t u : State} (h : SameWork s t) (k : SameWork t u) : SameWork s u := ⟨k.1.trans h.1, k.2.trans h.2⟩

theorem sameWork_foldl {α : Type} {f : State → α → State} (hf : ∀ s a, SameWork s (f s a)) (l : List α) (s : State) : SameWork s (l.foldl f s) := by
  induction l generalizing s with
  | nil => exact sameWork_refl s
  | cons a r ih => exact sameWork_trans (hf s a) (ih (f s a))

/-- `t` is `s` but for what a store of one block may change: DRAM, lines, write buffers, and the counters of its domain. -/
def WritesOnly (s t : State) : Prop :=
  t = { s with
    mem := t.mem, mtag := t.mtag, ctag := t.ctag, bkey := t.bkey, bad := t.bad, l2 := t.l2, wbuf := t.wbuf, stamp := t.stamp, doms := t.doms }

theorem writesOnly_refl (s : State) : WritesOnly s s := rfl

theorem writesOnly_trans {s t u : State} (h : WritesOnly s t) (k : WritesOnly t u) : WritesOnly s u :=
  k.trans (congrArg (fun v : State => { v with
    mem := u.mem, mtag := u.mtag, ctag := u.ctag, bkey := u.bkey, bad := u.bad, l2 := u.l2, wbuf := u.wbuf, stamp := u.stamp, doms := u.doms }) h)

theorem writesOnly_ite {s t u : State} (c : Prop) [Decidable c] (ht : WritesOnly s t) (hu : WritesOnly s u) : WritesOnly s (if c then t else u) := by
  split
  · exact ht
  · exact hu

theorem writesOnly_of_domsOnly {s t : State} (h : DomsOnly s t) : WritesOnly s t := by
  obtain ⟨d, rfl⟩ := h
  rfl

theorem writesOnly_setLines (s : State) (p : Place) (l : List Line) : WritesOnly s (s.setLines p l) := rfl

theorem writesOnly_touch (s : State) (p : Place) (pa : Nat) : WritesOnly s (s.touch p pa) := rfl

theorem writesOnly_count (s : State) (die k c : Nat) : WritesOnly s (s.count die k c) := rfl

theorem writesOnly_dramWrite (s : State) (loc pa key data mask tag : Nat) (ctag : BitVec 4) (bad : Bool) :
    WritesOnly s (s.dramWrite loc pa key data mask tag ctag bad) := writesOnly_ite _ (writesOnly_refl s) rfl

theorem writesOnly_drainOne (s : State) (k : Nat) : WritesOnly s (s.drainOne k) := by
  unfold State.drainOne
  split
  · exact writesOnly_refl s
  · next e r _ => exact writesOnly_trans (t := { s with wbuf := Fm.set s.wbuf k r }) rfl (writesOnly_dramWrite ..)

theorem writesOnly_buffer (s : State) (p : Place) (e : WbEntry) : WritesOnly s (s.buffer p e) :=
  writesOnly_trans (writesOnly_ite (32 ≤ (Fm.get [] s.wbuf (sliceKey p)).length) (writesOnly_drainOne s _) (writesOnly_refl s)) rfl

/-- A write at its home (R278, R279). -/
theorem writesOnly_writeBlock (s : State) (pa key data mask tag : Nat) (ctag : BitVec 4) (al : Alloc) :
    WritesOnly s (s.writeBlock pa key data mask tag ctag al) := by
  unfold State.writeBlock
  dsimp only
  split
  · exact writesOnly_refl s
  · refine writesOnly_ite _ (writesOnly_refl s) (writesOnly_ite _ (writesOnly_dramWrite ..) ?_)
    cases s.lineOf (s.place pa) pa with
    | some l =>
      have hit := writesOnly_ite (al = .fill) (writesOnly_refl s) (writesOnly_of_domsOnly (domsOnly_countHit s (s.place pa) l true))
      cases al with
      | normal | hostPort => exact writesOnly_trans hit (writesOnly_trans (writesOnly_setLines ..) (writesOnly_touch ..))
      | engine | stream | evictFirst | fill => exact writesOnly_trans hit (writesOnly_setLines ..)
    | none => exact writesOnly_trans (writesOnly_ite _ (writesOnly_refl s) (writesOnly_count ..)) (writesOnly_buffer ..)

theorem sameWork_of_writesOnly {s t : State} (h : WritesOnly s t) : SameWork s t := ⟨(congrArg State.pool h :), (congrArg State.seqs h :)⟩

theorem sameWork_poke (s : State) (pa n x key : Nat) : SameWork s (s.poke pa n x key) := by
  unfold State.poke
  split
  · exact ⟨rfl, rfl⟩
  · exact sameWork_foldl (fun s t => sameWork_of_writesOnly (writesOnly_writeBlock s _ _ _ _ _ _ _)) _ s

theorem sameWork_vpoke (s : State) (part va n x : Nat) : SameWork s (s.vpoke part va n x) := by
  refine sameWork_foldl (fun s t => ?_) _ s
  split
  · exact sameWork_poke ..
  · exact sameWork_refl s

theorem sameWork_notice (s : State) (part x : Nat) : SameWork s (s.notice part x) := by
  unfold State.notice
  dsimp only
  split
  · exact ⟨rfl, rfl⟩
  · have written := sameWork_vpoke s part ((s.part part).get 0x220 8 + 32 * ((s.part part).get 0x270 8 % (s.part part).get 0x228 2)) 32 x
    split
    · exact written
    · exact written

theorem exec_launchReceive_id {s : State} {n : Nat} {l : Launch} (harg : s.arg = .id n) (hl : s.pool.find? (fun l => l.id == n) = some l) :
    exec .launchReceive s = .next (s.validate l) := by
  show execLaunchReceive s = _
  unfold execLaunchReceive
  rw [harg]
  dsimp only
  rw [hl]

theorem id_of_find {pool : List Launch} {n : Nat} {l : Launch} (h : pool.find? (fun l => l.id == n) = some l) : l.id = n := by
  simpa using List.find?_some h

theorem validate_refused {s : State} {l : Launch} (h : s.launchReason (l.parse l.desc.toNat) ≠ 0) :
    (s.validate l).pool = s.pool.filter (fun x => x.id != l.id) ∧ (s.validate l).seqs = s.seqs := by
  unfold State.validate
  dsimp only
  rw [if_pos h]
  exact sameWork_notice (s.dropLaunch l.id) _ _

theorem validate_accepted {s : State} {l : Launch} (h : s.launchReason (l.parse l.desc.toNat) = 0) :
    ∃ x, (s.validate l).pool = s.pool.map (fun y => if y.id = l.id then x else y) ∧
      x = { l.parse l.desc.toNat with
        valid := true, words := x.words, first := x.first, handler := x.handler, code := x.code, depReady := s.depSeen (l.parse l.desc.toNat) } ∧
      s.validate l = { s with pool := (s.validate l).pool, agenda := (s.validate l).agenda } := by
  unfold State.validate
  dsimp only
  rw [if_neg (not_not_intro h)]
  exact ⟨_, rfl, rfl, rfl⟩

/-! ## The descriptor at its home (R127, R276) -/

theorem sliceOnly_loadBlocks (s : State) {a : Access} (h : a.rdc = false) : SliceOnly s (s.loadBlocks a).2 := by
  have block (u : State) (b : Nat) : SliceOnly u (u.loadBlock a b).2 := by
    unfold State.loadBlock
    rw [h, if_neg Bool.false_ne_true]
    exact sliceOnly_readBlock ..
  unfold State.loadBlocks
  generalize blocksOf a.addr a.len = blocks
  generalize ({} : Loaded) = l
  induction blocks generalizing s l with
  | nil => exact sliceOnly_refl s
  | cons t r ih => exact sliceOnly_trans (block s t.1) (ih _ _)

/-- The read of a descriptor's 64 bytes (R127). -/
def descriptorRead (l : Launch) (h : Handle) (off : Nat) : Access :=
  { sid := l.sidFrom, addr := h.base + off, len := 64, key := h.key, cls := 1, part := l.part }

theorem exec_launchReceive_launch {s : State} {l : Launch} {h : Handle} {off : Nat} (harg : s.arg = .launch l h off) :
    exec .launchReceive s = .next (if (!(s.pool.any (fun x => x.id == l.id))) = true then s
      else match s.heldBy (descriptorRead l h off) with
        | some d => replayed s d (h.base + off) 4 .launchReceive (.launch l h off)
        | none =>
          ((s.loadBlocks (descriptorRead l h off)).2.updLaunch l.id fun y => { y with
            desc := BitVec.ofNat 512 (s.loadBlocks (descriptorRead l h off)).1.data, bad := (s.loadBlocks (descriptorRead l h off)).1.bad.isSome }).push
            (event (max ((s.loadBlocks (descriptorRead l h off)).2.now + 1) (l.age + if h.home = dieOf l.sidFrom then 150 else 190)) 8 1
              .launchReceive (.id l.id))) := by
  show execLaunchReceive s = _
  unfold execLaunchReceive
  rw [harg]
  dsimp only
  split
  · rfl
  · unfold descriptorRead
    generalize s.heldBy _ = held
    cases held with
    | none => rfl
    | some d => rfl

theorem any_id_iff {pool : List Launch} {n : Nat} : pool.any (fun x => x.id == n) = true ↔ ∃ x ∈ pool, x.id = n := by simp

theorem launchesAreValidated : LaunchesAreValidated := by
  refine ⟨fun s n l harg hl => ⟨fun hgone => if_pos hgone, fun hbad => ?_, fun hgood => ?_⟩, fun s l h off harg => ⟨fun hnone => ?_, fun hsome hheld => ?_,
    fun hsome d hheld => ?_⟩⟩
  · obtain ⟨hpool, hseqs⟩ := validate_refused hbad
    exact ⟨_, exec_launchReceive_id harg hl, id_of_find hl ▸ hpool, hseqs⟩
  · obtain ⟨x, hpool, hx, hframe⟩ := validate_accepted hgood
    exact ⟨_, x, exec_launchReceive_id harg hl, id_of_find hl ▸ hpool, hx, hframe⟩
  · rw [exec_launchReceive_launch harg, if_pos (by simpa using hnone)]
  · have slices := sliceOnly_loadBlocks s (a := descriptorRead l h off) rfl
    have now : (s.loadBlocks (descriptorRead l h off)).2.now = s.now := (congrArg State.now slices :)
    have pool : (s.loadBlocks (descriptorRead l h off)).2.pool = s.pool := (congrArg State.pool slices :)
    rw [exec_launchReceive_launch harg, if_neg (by rw [any_id_iff.2 hsome]; decide)]
    rw [show s.heldBy (descriptorRead l h off) = none from hheld]
    refine ⟨_, _, rfl, ?_, List.mem_append_right _ (List.mem_singleton_self _), ?_⟩
    · omega
    · show ((s.loadBlocks (descriptorRead l h off)).2.pool.map _).map _ = _
      rw [pool, List.map_map]
      refine List.map_congr_left fun y _ => ?_
      dsimp only [Function.comp]
      split
      · rfl
      · rfl
  · rw [exec_launchReceive_launch harg, if_neg (by rw [any_id_iff.2 hsome]; decide)]
    rw [show s.heldBy (descriptorRead l h off) = some d from hheld]

/-- Settles O4: LAUNCH, the check of a descriptor, and its reading. -/
theorem launchesAreTaken : Obligations.LaunchesAreTaken := ⟨launchReservesEntry, launchesAreValidated⟩

end Sys2Proof.Laws
end

/-! # BKPT, the debug freeze and its resume -/

section

namespace Sys2Proof.Laws

open Sys2Proof Sys2Proof.Machine Sys2Proof.Claims

/-! ## BKPT (R132) -/

/-- What BKPT does where debug is enabled. -/
def breakpoint (s : State) (p : Nat) : State :=
  ((withMine s { (mine s).standing s.now with run := .halted, pc := s.cur.pc }).updPart p (fun x => { x with bkpt := x.bkpt ++ [s.cur.sid] })).after
    64 0 0 .freezeBegin (.freeze p (s.beaconOf 8 + 64))

theorem exec_bkpt {s : State} (h : Free s) (i : BitVec 14) : exec (.bkpt i) s =
    .next (if (mine s).task.part = 63 ∨ (s.part (mine s).task.part).get 3 1 % 2 = 0 then occupied s 1
      else breakpoint (occupied s 1) (mine s).task.part) := by
  have part : (occupied s 1).myPart = (mine s).task.part := (congrArg (fun q : Seq => q.task.part) (me_occupied s 1) :)
  have off (p : Nat) : (p = 63 || !bit (((occupied s 1).part p).get 3 1) 0) = true ↔ p = 63 ∨ (s.part p).get 3 1 % 2 = 0 := by
    simp [bit]
    exact Iff.rfl
  show execBkpt i s = _
  unfold execBkpt
  rw [issue_of_free h]
  dsimp only
  rw [part]
  exact congrArg _ (if_congr (off _) rfl rfl)

theorem bkptFreezesPartition : BkptFreezesPartition := by
  intro s i hf
  refine ⟨fun hoff => ?_, fun huser hon => ⟨breakpoint (occupied s 1) (mine s).task.part, ?_, ?_, ?_, ?_, rfl, rfl⟩⟩
  · rw [exec_bkpt hf, if_pos hoff]
  · rw [exec_bkpt hf, if_neg (not_or.2 ⟨huser, by omega⟩)]
  · have halted : mine (breakpoint (occupied s 1) (mine s).task.part) =
        { (mine (occupied s 1)).standing s.now with run := .halted, pc := s.cur.pc } := get_set_same _ _ _ _
    rw [halted]
    rfl
  · exact congrArg Part.bkpt (get_set_same ({} : Part) _ s.parts (mine s).task.part)
  · exact (congrArg Part.img (get_set_same ({} : Part) _ s.parts (mine s).task.part) :)

/-! ## The freeze begins (R304, R333) -/

theorem exec_debugFreezeRequest {s : State} {p f : Nat} (h : s.arg = .freeze p f) : exec .debugFreezeRequest s =
    .next (scheduled s (event (s.now + (f - s.beaconOf 8)) 0 0 .freezeBegin (.freeze p f))) := by
  show execDebugFreezeRequest s = _
  unfold execDebugFreezeRequest
  rw [h]
  rfl

/-- A sequencer of a partition that freezes, with its SEQID (R333). -/
def frozenSeq (p : Nat) (e : Nat × Seq) : Nat × Seq :=
  if e.2.task.part = p ∧ !isMgmt e.1 then
    (e.1, { e.2 with run := if e.2.run = .run then .halted else e.2.run
                     nest := if e.2.nest.live ∧ e.2.nest.stop = 0 then { e.2.nest with stop := 1 } else e.2.nest })
  else e

theorem frozenSeq_key (p : Nat) (e : Nat × Seq) : (frozenSeq p e).1 = e.1 := by
  unfold frozenSeq
  split
  · rfl
  · rfl

theorem frozenSeq_run {p k : Nat} {q : Seq} (hp : q.task.part = p) (hk : ¬ k % 16 = 8) : (frozenSeq p (k, q)).2.run ≠ .run := by
  unfold frozenSeq
  rw [if_pos ⟨hp, by rw [isMgmt_eq_false hk]; rfl⟩]
  dsimp only
  split
  · decide
  · assumption

theorem frozen_halts {p i : Nat} {m : Fm Seq} (hp : (Fm.get {} m i).task.part = p) (hi : ¬ i % 16 = 8) :
    (Fm.get {} (m.map (frozenSeq p)) i).run ≠ .run := by
  induction m with
  | nil => exact fun h => nomatch h
  | cons e r ih =>
    obtain ⟨k, q⟩ := e
    have key := frozenSeq_key p (k, q)
    rw [List.map_cons]
    by_cases hk : k = i
    · subst hk
      have first : Fm.get {} ((k, q) :: r) k = q := if_pos rfl
      rw [first] at hp
      rw [show Fm.get {} (frozenSeq p (k, q) :: r.map (frozenSeq p)) k = (frozenSeq p (k, q)).2 from if_pos key]
      exact frozenSeq_run hp hi
    · rw [show Fm.get {} ((k, q) :: r) i = Fm.get {} r i from if_neg hk] at hp
      rw [show Fm.get {} (frozenSeq p (k, q) :: r.map (frozenSeq p)) i = Fm.get {} (r.map (frozenSeq p)) i from if_neg (fun h => hk (key.symm.trans h))]
      exact ih hp

/-- What a freeze does to an event leaves its subject, but for the blocks that an access has still to reach. -/
theorem arg_settled (e : Ev) (p n : Nat) : (e.settled p n).arg = e.arg ∨ ∃ a b, e.arg = .access a ∧ (e.settled p n).arg = .access b := by
  unfold Ev.settled
  split
  · next a harg =>
    split
    · exact .inr ⟨a, _, harg, rfl⟩
    · exact .inl rfl
  · split
    · exact .inl rfl
    · exact .inl rfl
  · split
    · exact .inl rfl
    · exact .inl rfl
  · exact .inl rfl

/-- A home cycle of a partition that freezes comes within 420 cycles. -/
theorem settled_access {e : Ev} {p n : Nat} {a : Access} (harg : (e.settled p n).arg = .access a) (hp : a.part = p)
    (hins : (e.settled p n).ins = .accessHomeCycle) : (e.settled p n).cyc ≤ n := by
  obtain ⟨b, hb⟩ : ∃ b, e.arg = .access b := by
    rcases arg_settled e p n with h | ⟨b, -, hb, -⟩
    · exact ⟨a, h.symm.trans harg⟩
    · exact ⟨b, hb⟩
  unfold Ev.settled at harg hins ⊢
  rw [hb] at harg hins ⊢
  dsimp only at harg hins ⊢
  split
  · exact Nat.min_le_right _ _
  · next h =>
    rw [if_neg h] at harg hins
    cases hb.symm.trans harg
    exact absurd ⟨hins, hp⟩ h

/-- So does a delivery. -/
theorem settled_deliver {e : Ev} {p n : Nat} {a : Access} {x : Nat} {l : List Nat} {b d : Bool} (harg : (e.settled p n).arg = .deliver a x l b d)
    (hp : a.part = p) : (e.settled p n).cyc ≤ n := by
  have he : e.arg = .deliver a x l b d := by
    rcases arg_settled e p n with h | ⟨_, _, -, h⟩
    · exact h.symm.trans harg
    · cases h.symm.trans harg
  unfold Ev.settled
  rw [he]
  dsimp only
  rw [if_pos hp]
  exact Nat.min_le_right _ _

theorem exec_freezeBegin {s : State} {p f : Nat} (h : s.arg = .freeze p f) : exec .freezeBegin s =
    .next (if (partOf s p).stood.isSome ∨ (partOf s p).get 2 1 = 0 ∨ (partOf s p).get 2 1 = 3 then s
      else { s with
        agenda := s.agenda.map (fun e => e.settled p (s.now + 420)), seqs := s.seqs.map (frozenSeq p)
        parts := Fm.set s.parts p { partOf s p with stood := some (s.ptime p), settle := s.now + 420 } }) := by
  show execFreezeBegin s = _
  unfold execFreezeBegin
  rw [h]
  exact (apply_ite Host.Outcome.next _ _ _).symm

theorem freezeBegin_ignored {s : State} {p f : Nat} (harg : s.arg = .freeze p f)
    (h : (partOf s p).stood ≠ none ∨ (partOf s p).get 2 1 = 0 ∨ (partOf s p).get 2 1 = 3) : exec .freezeBegin s = .next s := by
  rw [exec_freezeBegin harg, if_pos (h.imp_left Option.isSome_iff_ne_none.2)]

theorem freezeBegin_stands {s : State} {p f : Nat} (harg : s.arg = .freeze p f) (hruns : (partOf s p).stood = none)
    (hfree : (partOf s p).get 2 1 ≠ 0) (hreset : (partOf s p).get 2 1 ≠ 3) : ∃ t, exec .freezeBegin s = .next t ∧
      t = { s with
        seqs := t.seqs, agenda := t.agenda, parts := Fm.set s.parts p { partOf s p with stood := some (s.ptime p), settle := s.now + 420 } } ∧
      (∀ e ∈ t.agenda, ∀ a, e.arg = .access a → a.part = p → e.ins = .accessHomeCycle → e.cyc ≤ s.now + 420) ∧
      (∀ e ∈ t.agenda, ∀ a x l b d, e.arg = .deliver a x l b d → a.part = p → e.cyc ≤ s.now + 420) ∧
      ∀ sid, (half s sid).task.part = p → sid % 16 ≠ 8 → (half t sid).run ≠ .run := by
  have begins : ¬ ((partOf s p).stood.isSome ∨ (partOf s p).get 2 1 = 0 ∨ (partOf s p).get 2 1 = 3) :=
    not_or.2 ⟨by rw [hruns]; decide, not_or.2 ⟨hfree, hreset⟩⟩
  rw [exec_freezeBegin harg, if_neg begins]
  refine ⟨_, rfl, rfl, fun e he a ha hp hins => ?_, fun e he a x l b d ha hp => ?_, fun sid hp hsid => frozen_halts hp hsid⟩
  · obtain ⟨e, -, rfl⟩ := List.mem_map.1 he
    exact settled_access ha hp hins
  · obtain ⟨e, -, rfl⟩ := List.mem_map.1 he
    exact settled_deliver ha hp

/-! ## The resume is asked for (R304) -/

theorem resumesAt_resumeCycle {s : State} {p : Nat} : ResumesAt s p (s.resumeCycle p) := by
  unfold ResumesAt State.resumeCycle
  dsimp only
  show _ ∧ _ ∧ ∀ v, (s.part p).stood = some v → (s.beaconOf 8 + _) % 1024 = (v + (s.part p).get 0x268 8) % 1024
  generalize (s.part p).get 0x268 8 = off
  generalize s.beaconOf 8 = b
  generalize (s.part p).stood = stood
  split
  · refine ⟨by omega, by omega, fun v hv => ?_⟩
    subst hv
    dsimp only [Option.getD] at *
    omega
  · refine ⟨by omega, by omega, fun v hv => ?_⟩
    subst hv
    dsimp only [Option.getD] at *
    omega

theorem exec_debugResumeRequest {s : State} {p : Nat} (h : s.arg = .part p) : exec .debugResumeRequest s =
    .next (if (partOf s p).stood.isNone ∨ (partOf s p).get 2 1 = 5 then s
      else scheduled s (event (s.resumeCycle p) 0 0 .freezeResume (.partN p 0))) := by
  show execDebugResumeRequest s = _
  unfold execDebugResumeRequest
  rw [h]
  exact (apply_ite Host.Outcome.next _ _ _).symm

theorem resumeRequested {s : State} {p : Nat} (harg : s.arg = .part p) :
    ((partOf s p).stood = none ∨ (partOf s p).get 2 1 = 5 → exec .debugResumeRequest s = .next s) ∧
    ((partOf s p).stood ≠ none → (partOf s p).get 2 1 ≠ 5 → ∃ c, ResumesAt s p c ∧
      exec .debugResumeRequest s = .next (scheduled s (event c 0 0 .freezeResume (.partN p 0)))) := by
  refine ⟨fun h => ?_, fun hstood hst => ⟨_, resumesAt_resumeCycle, ?_⟩⟩
  · rw [exec_debugResumeRequest harg, if_pos (h.imp_left Option.isNone_iff_eq_none.2)]
  · rw [exec_debugResumeRequest harg, if_neg (not_or.2 ⟨fun h => hstood (Option.isNone_iff_eq_none.1 h), hst⟩)]

/-! ## What goes on after a freeze (R333) -/

/-- `t` has the time, the partition records and the running sequencers of `s`. -/
def GoesOn (s t : State) : Prop := t.now = s.now ∧ t.beacon = s.beacon ∧ t.parts = s.parts ∧ ∀ i, (t.seq i).run = (s.seq i).run

theorem goesOn_refl (s : State) : GoesOn s s := ⟨rfl, rfl, rfl, fun _ => rfl⟩

theorem goesOn_trans {s t u : State} (h : GoesOn s t) (k : GoesOn t u) : GoesOn s u := by
  obtain ⟨hnow, hbeacon, hparts, hrun⟩ := h
  obtain ⟨know, kbeacon, kparts, krun⟩ := k
  exact ⟨know.trans hnow, kbeacon.trans hbeacon, kparts.trans hparts, fun i => (krun i).trans (hrun i)⟩

theorem goesOn_ite {s t u : State} (c : Prop) [Decidable c] (ht : GoesOn s t) (hu : GoesOn s u) : GoesOn s (if c then t else u) := by
  split
  · exact ht
  · exact hu

theorem goesOn_foldl {α : Type} {f : State → α → State} (hf : ∀ s a, GoesOn s (f s a)) (l : List α) (s : State) : GoesOn s (l.foldl f s) := by
  induction l generalizing s with
  | nil => exact goesOn_refl s
  | cons a r ih => exact goesOn_trans (hf s a) (ih (f s a))

theorem goesOn_push (s : State) (e : Ev) : GoesOn s (s.push e) := goesOn_refl s

theorem goesOn_updSeq (s : State) (sid : Nat) {f : Seq → Seq} (hf : ∀ q, (f q).run = q.run) : GoesOn s (s.updSeq sid f) := by
  refine ⟨rfl, rfl, rfl, fun i => ?_⟩
  by_cases hi : sid = i
  · rw [hi, seq_updSeq_same, hf]
  · rw [seq_updSeq_other _ _ _ _ hi]

theorem goesOn_drew (s : State) : GoesOn s s.drew := by
  obtain ⟨_, _, hdrew⟩ := drew_eq s
  rw [hdrew]
  exact goesOn_refl s

theorem goesOn_engage (s : State) (die : Nat) : GoesOn s (s.engage die) :=
  goesOn_trans (t := s.setDetached die _) (goesOn_refl s)
    (goesOn_foldl (fun s _ => goesOn_ite _ (goesOn_trans (goesOn_drew s) (goesOn_push ..)) (goesOn_refl s)) _ _)

theorem goesOn_updCmd (s : State) (sid id : Nat) (f : Cmd → Cmd) : GoesOn s (s.updCmd sid id f) := goesOn_updSeq _ _ fun _ => rfl

theorem goesOn_laneFrom (s : State) (c : Cmd) (n k : Nat) : GoesOn s (s.laneFrom c n k) := by
  unfold State.laneFrom State.chunkAt
  dsimp only
  refine goesOn_trans (goesOn_trans (goesOn_updCmd ..) (goesOn_updSeq _ _ ?_)) (goesOn_push ..)
  exact fun _ => rfl

theorem goesOn_startAt (s : State) (c : Cmd) (k : Nat) : GoesOn s (s.startAt c k) := by
  unfold State.startAt
  refine goesOn_trans (goesOn_updCmd s c.sid c.id fun c => { c with start := some k }) ?_
  split
  · exact goesOn_ite _ (goesOn_push ..) (goesOn_push ..)
  · exact goesOn_push ..
  · exact goesOn_push ..

theorem run_takePlaces (q : Seq) : q.takePlaces.run = q.run := by
  unfold Seq.takePlaces
  refine List.foldlRecOn (motive := fun st : Seq × List Nat => st.1.run = q.run) _ _ rfl fun st hst e _ => ?_
  split
  · exact hst
  · exact hst

theorem goesOn_kick (s : State) (sid : Nat) : GoesOn s (s.kick sid) := by
  refine goesOn_trans (goesOn_updSeq s sid run_takePlaces) (goesOn_foldl (fun s c => ?_) _ _)
  split
  · exact goesOn_refl s
  · split
    · exact goesOn_ite _ (goesOn_trans (goesOn_updCmd ..) (goesOn_push ..)) (goesOn_refl s)
    · exact goesOn_ite _ (goesOn_startAt ..) (goesOn_refl s)

theorem goesOn_resumeCmds (s : State) (sid : Nat) : GoesOn s (s.resumeCmds sid) := by
  refine goesOn_trans (goesOn_foldl (fun s c => ?_) _ s) (goesOn_kick ..)
  refine goesOn_ite _ (goesOn_trans (goesOn_laneFrom s c c.chunk s.now) ?_) (goesOn_refl s)
  dsimp only
  split
  · exact goesOn_push ..
  · exact goesOn_refl _

theorem goesOn_resumeEntries (s : State) (p : Nat) : GoesOn s (s.resumeEntries p) :=
  goesOn_trans (goesOn_foldl goesOn_engage _ s) (goesOn_foldl goesOn_resumeCmds _ _)

theorem goesOn_armRefill (s : State) (n c : Nat) : GoesOn s (s.armRefill n c) := goesOn_refl s

theorem goesOn_rearm (s : State) (p : Nat) : GoesOn s (s.rearm p) := goesOn_foldl (fun s n => goesOn_armRefill s n s.now) _ s

theorem goesOn_thawGate (s : State) (n : Nat) : GoesOn s (s.thawGate n) := goesOn_refl s

theorem goesOn_reloadDetached (s : State) (p : Nat) : GoesOn s (s.reloadDetached p) := by
  refine goesOn_foldl (fun s e => ?_) _ s
  split
  · exact goesOn_refl s
  · exact goesOn_refl s

theorem goesOn_nestGo (s : State) (sid : Nat) : GoesOn s (s.nestGo sid) := by
  unfold State.nestGo
  dsimp only
  split
  · exact goesOn_refl s
  · exact goesOn_push ..

/-! ## The sequencers go on (R333) -/

/-- One sequencer of a partition whose freeze of `d` cycles ends, with its nest. -/
def thawHalf (bkpt : List Nat) (d : Nat) (s : State) (sid : Nat) : State :=
  let s := s.updSeq sid (fun q => q.thaw s.now d (bkpt.contains sid))
  if (s.seq sid).nest.live then
    (s.updNest sid (fun n => { n with parked := false, stop := if n.stop = 1 then 0 else n.stop, slip := n.slip + d,
                                      todo := n.held ++ n.todo, held := [] })).nestGo sid
  else s

theorem run_thaw (q : Seq) (now d : Nat) (b : Bool) : (q.thaw now d b).run = if q.run = .halted then .run else q.run := by
  unfold Seq.thaw
  by_cases h : q.run = .halted
  · rw [if_pos h, h]
    cases b
    · rfl
    · rfl
  · rw [if_neg h, if_pos (by simpa using h)]

/-- The time and the partition records while sequencers go on; a sequencer that is named runs where it was halted. -/
theorem thawHalf_goes (bkpt : List Nat) (d : Nat) (s : State) (sid : Nat) :
    GoesOn (s.updSeq sid fun q => q.thaw s.now d (bkpt.contains sid)) (thawHalf bkpt d s sid) := by
  refine goesOn_ite _ (goesOn_trans (goesOn_updSeq _ _ ?_) (goesOn_nestGo ..)) (goesOn_refl _)
  exact fun _ => rfl

theorem thawHalf_run (bkpt : List Nat) (d : Nat) (s : State) (sid i : Nat) : ((thawHalf bkpt d s sid).seq i).run =
    if i = sid ∧ (s.seq i).run = .halted then .run else (s.seq i).run := by
  obtain ⟨-, -, -, hrun⟩ := thawHalf_goes bkpt d s sid
  rw [hrun]
  by_cases hi : i = sid
  · subst hi
    rw [seq_updSeq_same, run_thaw]
    exact if_congr (by simp) rfl rfl
  · rw [seq_updSeq_other _ _ _ _ (Ne.symm hi), if_neg (fun h => hi h.1)]

theorem thawHalves_run (bkpt : List Nat) (d : Nat) (l : List Nat) (s : State) {i : Nat}
    (h : (s.seq i).run = .run ∨ ((s.seq i).run = .halted ∧ i ∈ l)) : ((l.foldl (thawHalf bkpt d) s).seq i).run = .run := by
  induction l generalizing s with
  | nil => exact h.resolve_right (fun h => List.not_mem_nil h.2)
  | cons j r ih =>
    refine ih _ ?_
    rw [thawHalf_run]
    rcases h with h | ⟨hhalt, hmem⟩
    · rw [if_neg (fun k => by rw [h] at k; exact nomatch k.2)]
      exact .inl h
    · by_cases hj : i = j
      · rw [if_pos ⟨hj, hhalt⟩]
        exact .inl rfl
      · rw [if_neg (fun k => hj k.1)]
        exact .inr ⟨hhalt, (List.mem_cons.1 hmem).resolve_left hj⟩

theorem thawHalves_clock (bkpt : List Nat) (d : Nat) (l : List Nat) (s : State) :
    (l.foldl (thawHalf bkpt d) s).now = s.now ∧ (l.foldl (thawHalf bkpt d) s).beacon = s.beacon ∧
      (l.foldl (thawHalf bkpt d) s).parts = s.parts := by
  induction l generalizing s with
  | nil => exact ⟨rfl, rfl, rfl⟩
  | cons j r ih =>
    obtain ⟨inow, ibeacon, iparts⟩ := ih (thawHalf bkpt d s j)
    obtain ⟨hnow, hbeacon, hparts, -⟩ := thawHalf_goes bkpt d s j
    exact ⟨inow.trans hnow, ibeacon.trans hbeacon, iparts.trans hparts⟩

/-- A sequencer whose state is not its reset one is in the table. -/
theorem mem_of_get_ne {α : Type} {d : α} {m : Fm α} {i : Nat} (h : Fm.get d m i ≠ d) : (i, Fm.get d m i) ∈ m := by
  induction m with
  | nil => exact absurd rfl h
  | cons e r ih =>
    obtain ⟨k, v⟩ := e
    by_cases hk : k = i
    · subst hk
      rw [show Fm.get d ((k, v) :: r) k = v from if_pos rfl]
      exact List.mem_cons_self ..
    · rw [show Fm.get d ((k, v) :: r) i = Fm.get d r i from if_neg hk] at h ⊢
      exact List.mem_cons_of_mem _ (ih h)

/-! ## A record field reads back (R337) -/

theorem mod_div_mod {lo n w : Nat} (m : Nat) (h : lo + n ≤ w) : m % 2 ^ w / 2 ^ lo % 2 ^ n = m / 2 ^ lo % 2 ^ n := by
  refine Nat.eq_of_testBit_eq fun i => ?_
  rw [Nat.testBit_mod_two_pow, Nat.testBit_mod_two_pow, Nat.testBit_div_two_pow, Nat.testBit_div_two_pow, Nat.testBit_mod_two_pow]
  by_cases hi : i < n
  · simp [hi, show i + lo < w by omega]
  · simp [hi]

theorem bits_setBits (x lo n y : Nat) : setBits x lo n y / 2 ^ lo % 2 ^ n = y % 2 ^ n := by
  have parts : setBits x lo n y = x % 2 ^ lo + (y % 2 ^ n + x / 2 ^ (lo + n) * 2 ^ n) * 2 ^ lo := by
    rw [setBits, Nat.add_mul, Nat.mul_assoc, ← Nat.pow_add, Nat.add_comm n lo, Nat.add_assoc]
  rw [parts, Nat.add_mul_div_right _ _ (Nat.two_pow_pos lo), Nat.div_eq_of_lt (Nat.mod_lt _ (Nat.two_pow_pos lo)), Nat.zero_add,
    Nat.add_mul_mod_self_right, Nat.mod_mod]

theorem get_put (y : Part) {off n : Nat} (x : Nat) (h : 8 * off + 8 * n ≤ 8192) : (y.put off n x).get off n = x % 2 ^ (8 * n) := by
  show recGet (recSet y.img off n x) off n = _
  unfold recSet recGet
  rw [BitVec.toNat_ofNat, mod_div_mod _ h, bits_setBits]

/-! ## The end of a freeze (R304, R333) -/

/-- The length of a freeze, as the partition's FOFF grows by it (R304). -/
def freezeLength (s : State) (p : Nat) : Nat :=
  (s.beaconOf 8 + 2 ^ 64 - ((s.part p).stood.getD 0 + (s.part p).get 0x268 8) % 2 ^ 64) % 2 ^ 64

/-- The record of a partition whose freeze of `d` cycles ends. -/
def thawRecord (d : Nat) (y : Part) : Part := { (y.put 0x268 8 (y.get 0x268 8 + d)) with stood := none, bkpt := [] }

/-- The SEQIDs of a partition's sequencers. -/
def seqsOf (s : State) (p : Nat) : List Nat := (s.seqs.filter (fun e => e.2.task.part == p && !isMgmt e.1)).map (·.1)

theorem unfreeze_eq (s : State) (p : Nat) : s.unfreeze p =
    ((((seqsOf s p).foldl (thawHalf (s.part p).bkpt (freezeLength s p)) (s.updPart p (thawRecord (freezeLength s p)))).rearm p).resumeEntries p).schedAll := by
  unfold State.unfreeze thawRecord thawHalf freezeLength seqsOf
  rfl

theorem get_thawRecord (d : Nat) (y : Part) : (thawRecord d y).get 0x268 8 = (y.get 0x268 8 + d) % 2 ^ 64 := by
  have kept (x : Part) (off n : Nat) : Machine.Part.get { x with stood := none, bkpt := [] } off n = x.get off n := rfl
  unfold thawRecord
  rw [kept, get_put y _ (by decide)]

/-- What a freeze that ends does to time, records and sequencers. -/
theorem unfreeze_goes (s : State) (p : Nat) : (s.unfreeze p).now = s.now ∧ (s.unfreeze p).beacon = s.beacon ∧
    (s.unfreeze p).part p = thawRecord (freezeLength s p) (s.part p) ∧ Look s (s.unfreeze p) ∧
    ∀ i ∈ seqsOf s p, (s.seq i).run = .halted → ((s.unfreeze p).seq i).run = .run := by
  rw [unfreeze_eq]
  obtain ⟨hnow, hbeacon, hparts⟩ := thawHalves_clock (s.part p).bkpt (freezeLength s p) (seqsOf s p) (s.updPart p (thawRecord (freezeLength s p)))
  have halves := fun i (h : i ∈ seqsOf s p) (hrun : (s.seq i).run = .halted) =>
    thawHalves_run (s.part p).bkpt (freezeLength s p) (seqsOf s p) (s.updPart p (thawRecord (freezeLength s p))) (.inr ⟨hrun, h⟩)
  generalize (seqsOf s p).foldl (thawHalf (s.part p).bkpt (freezeLength s p)) (s.updPart p (thawRecord (freezeLength s p))) = u at *
  obtain ⟨know, kbeacon, kparts, krun⟩ := goesOn_trans (goesOn_rearm u p) (goesOn_resumeEntries (u.rearm p) p)
  generalize (u.rearm p).resumeEntries p = w at *
  refine ⟨know.trans hnow, kbeacon.trans hbeacon, ?_, ?_, fun i hi hrun => (krun i).trans (halves i hi hrun)⟩
  · show Fm.get {} w.parts p = _
    rw [kparts, hparts]
    exact get_set_same _ _ _ _
  · unfold Look
    rw [show s.now = w.now from (know.trans hnow).symm]
    exact List.mem_append_right _ (List.mem_singleton_self _)

/-- What PARTITION_RELEASE does after an MTHAW (R359): the gates are active, the detached entries read, the tasks ready. -/
def thawed (s : State) (p : Nat) : State := (((s.ownGates p 2).foldl State.thawGate s).reloadDetached p).releasePart p

/-- The record of a partition that is released. -/
def releasedRecord (x : Part) : Part := { (x.put 2 1 1) with hold := false }

theorem stood_put (y : Part) (off n x : Nat) : (y.put off n x).stood = y.stood := rfl

theorem stood_releasedRecord (x : Part) : (releasedRecord x).stood = x.stood := by
  have kept (x : Machine.Part) (b : Bool) : ({ x with hold := b } : Machine.Part).stood = x.stood := rfl
  rw [releasedRecord, kept, stood_put]

theorem state_releasedRecord (x : Part) : (releasedRecord x).get 2 1 = 1 := by
  have kept (x : Machine.Part) (off n : Nat) : Machine.Part.get { x with hold := false } off n = x.get off n := rfl
  unfold releasedRecord
  rw [kept, get_put x 1 (by decide)]
  rfl

theorem releasePart_goes (s : State) (p : Nat) : (s.releasePart p).part p = releasedRecord (s.part p) ∧ Look s (s.releasePart p) ∧
    ∀ i, ((s.releasePart p).seq i).run = (s.seq i).run := by
  unfold State.releasePart
  dsimp only
  generalize s.saved.map _ = saved
  obtain ⟨hnow, -, hparts, hrun⟩ := goesOn_resumeEntries (({ s with saved := saved } : State).updPart p releasedRecord) p
  have record := (congrArg (fun m => Fm.get ({} : Machine.Part) m p) hparts).trans
    (part_updPart_same ({ s with saved := saved } : State) p releasedRecord)
  unfold releasedRecord at *
  generalize State.resumeEntries _ p = w at *
  refine ⟨record, ?_, hrun⟩
  unfold Look
  rw [show s.now = w.now from hnow.symm]
  exact List.mem_append_right _ (List.mem_singleton_self _)

theorem releasePart_of_goesOn {s u : State} (h : GoesOn s u) (p : Nat) : ((u.releasePart p).part p).stood = (s.part p).stood ∧
    ((u.releasePart p).part p).get 2 1 = 1 ∧ Look s (u.releasePart p) ∧ ∀ i, ((u.releasePart p).seq i).run = (s.seq i).run := by
  obtain ⟨hnow, -, hparts, hrun⟩ := h
  obtain ⟨record, look, krun⟩ := releasePart_goes u p
  have kept : u.part p = s.part p := congrArg (fun m => Fm.get ({} : Machine.Part) m p) hparts
  rw [record, state_releasedRecord, kept]
  unfold Look at *
  rw [hnow] at look
  exact ⟨stood_releasedRecord _, rfl, look, fun i => (krun i).trans (hrun i)⟩

theorem thawed_goes (s : State) (p : Nat) : ((thawed s p).part p).stood = (s.part p).stood ∧ ((thawed s p).part p).get 2 1 = 1 ∧
    Look s (thawed s p) ∧ ∀ i, ((thawed s p).seq i).run = (s.seq i).run :=
  releasePart_of_goesOn (goesOn_trans (goesOn_foldl goesOn_thawGate (s.ownGates p 2) s) (goesOn_reloadDetached _ p)) p

theorem exec_freezeResume {s : State} {p k v : Nat} (h : s.arg = .partN p k) (hv : (s.part p).stood = some v) : exec .freezeResume s =
    .next (if k = 0 then s.unfreeze p else (thawed (s.unfreeze p) p).pstat 0 0) := by
  show execFreezeResume s = _
  unfold execFreezeResume
  rw [h]
  dsimp only
  rw [hv, if_neg (by simp)]
  exact (apply_ite Host.Outcome.next _ _ _).symm

theorem freezeResume_ignored {s : State} {p k : Nat} (h : s.arg = .partN p k) (hv : (s.part p).stood = none) : exec .freezeResume s = .next s := by
  show execFreezeResume s = _
  unfold execFreezeResume
  rw [h]
  dsimp only
  rw [hv, if_pos (by decide)]

theorem beaconOf_congr {s t : State} (hnow : t.now = s.now) (hbeacon : t.beacon = s.beacon) (die : Nat) : t.beaconOf die = s.beaconOf die := by
  unfold State.beaconOf
  rw [hnow, hbeacon]

/-- A halted sequencer of the partition is one that goes on. -/
theorem mem_seqsOf {s : State} {p sid : Nat} (hp : (half s sid).task.part = p) (hsid : sid % 16 ≠ 8) (hrun : (half s sid).run = .halted) :
    sid ∈ seqsOf s p := by
  have present : Fm.get {} s.seqs sid ≠ {} := fun h => by
    have idle : (half s sid).run = .idle := congrArg Seq.run h
    rw [hrun] at idle
    exact nomatch idle
  refine List.mem_map.2 ⟨(sid, half s sid), List.mem_filter.2 ⟨mem_of_get_ne present, ?_⟩, rfl⟩
  dsimp only
  rw [hp, isMgmt_eq_false hsid]
  simp

/-- The freeze offset after a freeze at partition time `v` (R304). -/
theorem offset_thawRecord {s : State} {p v : Nat} (hv : (s.part p).stood = some v) (hlt : v < 2 ^ 64) :
    (thawRecord (freezeLength s p) (s.part p)).get 0x268 8 = (s.beaconOf 8 + 2 ^ 64 - v) % 2 ^ 64 := by
  rw [get_thawRecord, freezeLength, hv, Option.getD_some]
  generalize (s.part p).get 0x268 8 = off
  omega

theorem freezeEnds {s : State} {p k v : Nat} (harg : s.arg = .partN p k) (hv : (partOf s p).stood = some v) :
    ∃ t, exec .freezeResume s = .next t ∧ (partOf t p).stood = none ∧ Look s t ∧
      (k = 0 → v < 2 ^ 64 → (partOf t p).get 0x268 8 = (s.beaconOf 8 + 2 ^ 64 - v) % 2 ^ 64) ∧
      (∀ sid, (half s sid).task.part = p → sid % 16 ≠ 8 → (half s sid).run = .halted → (half t sid).run = .run) ∧
      (k = 0 → p ≠ 63 → v < 2 ^ 64 → t.ptime p = v) ∧ (k ≠ 0 → (partOf t p).get 2 1 = 1) := by
  obtain ⟨hnow, hbeacon, hpart, hlook, hruns⟩ := unfreeze_goes s p
  have stood : ((s.unfreeze p).part p).stood = none := by
    rw [hpart]
    rfl
  rw [exec_freezeResume harg hv]
  refine ⟨_, rfl, ?_⟩
  by_cases hk : k = 0
  · rw [if_pos hk]
    have offset (hlt : v < 2 ^ 64) : ((s.unfreeze p).part p).get 0x268 8 = (s.beaconOf 8 + 2 ^ 64 - v) % 2 ^ 64 := by
      rw [hpart]
      exact offset_thawRecord hv hlt
    refine ⟨stood, hlook, fun _ => offset, fun sid hp hsid hrun => hruns sid (mem_seqsOf hp hsid hrun) hrun, fun _ hp hlt => ?_,
      fun h => absurd hk h⟩
    unfold State.ptime
    rw [if_neg hp, stood]
    dsimp only
    rw [offset hlt, beaconOf_congr hnow hbeacon]
    omega
  · rw [if_neg hk]
    obtain ⟨kstood, kstate, klook, krun⟩ := thawed_goes (s.unfreeze p) p
    unfold Look at *
    rw [hnow] at klook
    generalize thawed (s.unfreeze p) p = t at *
    refine ⟨kstood.trans stood, klook, fun h => absurd h hk, fun sid hp hsid hrun => (krun sid).trans (hruns sid (mem_seqsOf hp hsid hrun) hrun),
      fun h => absurd h hk, fun _ => kstate⟩

theorem partitionTimeStands : PartitionTimeStands :=
  ⟨fun _ _ _ harg => ⟨exec_debugFreezeRequest harg, freezeBegin_ignored harg, freezeBegin_stands harg⟩, fun _ _ harg => resumeRequested harg,
    fun _ _ _ harg => ⟨freezeResume_ignored harg, fun _ hv => freezeEnds harg hv⟩⟩

/-- Settles O7: BKPT, and the freeze of a partition from its request to its end. -/
theorem debugFreezes : Obligations.DebugFreezes := ⟨bkptFreezesPartition, partitionTimeStands⟩

end Sys2Proof.Laws
end

/-! # Links: flits, failure, failover, ALIGN -/

section

namespace Sys2Proof.Laws

open Sys2Proof Sys2Proof.Machine Sys2Proof.Claims

/-! ## Flits (R386 to R388) -/

theorem linked_iff (l : Link) : l.linked = true ↔ l.en = true ∧ l.xp = false ∧ (l.up = true ∨ l.alt = true) := by
  unfold Link.linked
  simp [and_assoc]

/-- The state in which a link has heard a valid flit. -/
def heardOn (s : State) (n : Nat) : State := withLink s n { linkNo s n with heard := s.now }

theorem linkNo_heardOn (s : State) (n : Nat) : linkNo (heardOn s n) n = { linkNo s n with heard := s.now } := get_set_same _ _ _ _

theorem exec_flitReceive {s : State} {n : Nat} {ok : Bool} {p : Packet} (h : s.arg = .flit n ok p) : exec .flitReceive s =
    .next (if (!(linkNo s n).linked) = true then s
      else if ok = true then (heardOn s n).accept n p
      else
        let recent := s.now :: (linkNo s n).replays.filter (fun c => decide (s.now < c + 1024))
        let u := withLink s n { linkNo s n with replay := (linkNo s n).replay + 1, replays := recent }
        if 8 ≤ recent.length then u.after 0 7 n .linkFail (.link n) else u) := by
  show execFlitReceive s = _
  unfold execFlitReceive
  rw [h, apply_ite Host.Outcome.next, apply_ite Host.Outcome.next]
  rfl

/-- An accepted flit of a link that serves its peer. -/
theorem flit_accepted {s : State} {n : Nat} {p : Packet} (h : s.arg = .flit n true p) (hl : (linkNo s n).linked = true) :
    exec .flitReceive s = .next ((heardOn s n).accept n p) := by
  rw [exec_flitReceive h, hl, if_neg (by decide), if_pos rfl]

theorem flit_unusable {s : State} {n : Nat} {ok : Bool} {p : Packet} (h : s.arg = .flit n ok p) (hl : ¬ (linkNo s n).linked = true) :
    exec .flitReceive s = .next s := by
  rw [exec_flitReceive h, if_pos (by simpa using hl)]

/-- A flit that fails its check (R386, R392). -/
theorem flit_rejected {s : State} {n : Nat} {p : Packet} (h : s.arg = .flit n false p) (hl : (linkNo s n).linked = true) :
    let recent := s.now :: (linkNo s n).replays.filter (fun c => decide (s.now < c + 1024))
    exec .flitReceive s = .next { withLink s n { linkNo s n with replay := (linkNo s n).replay + 1, replays := recent } with
      agenda := s.agenda ++ if 8 ≤ recent.length then [event s.now 7 n .linkFail (.link n)] else [] } := by
  intro recent
  rw [exec_flitReceive h, hl, if_neg (by decide), if_neg (by decide)]
  show Host.Outcome.next (if 8 ≤ recent.length then _ else _) = _
  split
  · rfl
  · rw [List.append_nil]
    rfl

/-! ## What an accepted packet sets going -/

section

variable {s : State} {n : Nat} {p : Packet}

theorem accept_operation (h : p.op = 0 ∨ p.op = 2 ∨ p.op = 3 ∨ p.op = 4 ∨ p.op = 12) :
    s.accept n p = scheduled s (event s.now 4 (agentKey p.src p.pseq) .remoteOpExecute (.packet p)) := by
  unfold State.accept
  rcases h with h | h | h | h | h
  all_goals
    rw [h]
    rfl

theorem accept_store (h : p.op = 1 ∨ p.op = 5 ∨ p.op = 13 ∨ p.op = 14) :
    s.accept n p = scheduled s (event s.now 4 (agentKey p.src p.pseq) .remoteStoreArrival (.packet p)) := by
  unfold State.accept
  rcases h with h | h | h | h
  all_goals
    rw [h]
    rfl

theorem accept_reply (h : p.op = 6 ∨ p.op = 7) : s.accept n p = scheduled s (event s.now 1 0 .remoteReplyArrival (.packet p)) := by
  unfold State.accept
  rcases h with h | h
  all_goals
    rw [h]
    rfl

theorem accept_error (h : p.op = 8) : s.accept n p = scheduled s (event s.now 1 0
    (if (s.awaiting.find? (fun w => w.pkt.id == p.id)).any (fun w => w.pkt.op == 1) then .wstErrorCompletion else .remoteReplyArrival) (.packet p)) := by
  unfold State.accept State.awaited
  rw [h]
  dsimp only
  cases s.awaiting.find? (fun w => w.pkt.id == p.id) with
  | none => rfl
  | some w => rfl

theorem accept_partial (h : p.op = 11) : s.accept n p = scheduled s (event s.now 4 (p.id % 4096) .collRoundComplete (.packet p)) := by
  unfold State.accept
  rw [h]
  rfl

theorem accept_acknowledgement (h : p.op = 15) : s.accept n p = withLink s n { linkNo s n with
    sent := (linkNo s n).sent.filter (fun x => x.2.2.num != some p.pseq), owed := (linkNo s n).owed.filter (fun x => x.pseq != p.pseq) } := by
  unfold State.accept
  rw [h]
  rfl

theorem accept_marker (h : p.op = 16) : s.accept n p = s := by
  unfold State.accept
  rw [h]
  rfl

theorem accept_entry (h : p.op = 9 ∨ p.op = 10) : s.accept n p = s.acceptEntry n p := by
  unfold State.accept
  rcases h with h | h
  all_goals
    rw [h]
    rfl

end

/-! ## Timed entries and credits (R263, R387) -/

/-- The acknowledgement of an entry or a credit. -/
def acknowledged (s : State) (n : Nat) (p : Packet) : State := { s with outbox := s.outbox ++
  [{ ({ op := 15, src := s.hub.modn, dst := p.src, pseq := p.pseq, link := n } : Packet) with dep := leaves s p.src }] }

/-- The acknowledgement of an entry or a credit whose number is new to its path. -/
def firstAccepted (s : State) (n : Nat) (p : Packet) : State :=
  let r : RPath := Fm.get {} s.rpaths (2 ^ 41 + p.src)
  { acknowledged s n p with rpaths := Fm.set s.rpaths (2 ^ 41 + p.src) { r with seen := r.seen ++ [p.pseq] } }

/-- The arrival of an entry or a credit at its queue in cycle `c`. -/
def entryArrival (n : Nat) (p : Packet) (c : Nat) : Ev :=
  if p.op = 9 then event c 1 0 .linkEntryArrival (.packet { p with link := n })
  else event c 1 0 .queueCreditArrival (.credit 0 1 0 n p.lane 0 p.part)

theorem emit_eq (s : State) (p : Packet) : s.emit p = { s with outbox := s.outbox ++ [{ p with dep := leaves s p.dst }] } := rfl

theorem acceptEntry_eq (s : State) (n : Nat) (p : Packet) : s.acceptEntry n p =
    if (Fm.get {} s.rpaths (2 ^ 41 + p.src) : RPath).seen.contains p.pseq = true then acknowledged s n p
    else scheduled ((firstAccepted s n p).equalise n).2 (entryArrival n p ((((firstAccepted s n p).equalise n).2).now + ((firstAccepted s n p).equalise n).1)) := by
  have emitted : s.emit { op := 15, src := s.hub.modn, dst := p.src, pseq := p.pseq, link := n } = acknowledged s n p := rfl
  unfold State.acceptEntry
  dsimp only
  rw [emitted]
  refine if_congr Iff.rfl rfl ?_
  show (if p.op = 9 then State.after ((firstAccepted s n p).equalise n).2 _ _ _ _ _ else State.after ((firstAccepted s n p).equalise n).2 _ _ _ _ _) = _
  unfold entryArrival
  split
  · rfl
  · rfl

/-- The equalising delay of a link on its own path, LAT − MEAS, and over its alternate path (R387, R393). -/
theorem equalise_direct {s : State} {n : Nat} (h : (linkNo s n).alt = false) : s.equalise n = ((linkNo s n).lat - (linkNo s n).meas, s) := by
  show (if (linkNo s n).alt = true then _ else _) = _
  rw [h]
  rfl

theorem equalise_alternate {s : State} {n : Nat} (h : (linkNo s n).alt = true) : s.equalise n = (s.drawVal, s.drew) := if_pos h

theorem acceptEntry_seen {s : State} {n : Nat} {p : Packet} (h : p.pseq ∈ (Fm.get {} s.rpaths (2 ^ 41 + p.src) : RPath).seen) :
    s.acceptEntry n p = acknowledged s n p := by
  rw [acceptEntry_eq, if_pos (List.contains_iff_mem.2 h)]

theorem acceptEntry_direct {s : State} {n : Nat} {p : Packet} (h : p.pseq ∉ (Fm.get {} s.rpaths (2 ^ 41 + p.src) : RPath).seen)
    (halt : (linkNo s n).alt = false) :
    s.acceptEntry n p = scheduled (firstAccepted s n p) (entryArrival n p (s.now + ((linkNo s n).lat - (linkNo s n).meas))) := by
  rw [acceptEntry_eq, if_neg (fun k => h (List.contains_iff_mem.1 k)), equalise_direct (s := firstAccepted s n p) halt]
  rfl

theorem acceptEntry_alternate {s : State} {n : Nat} {p : Packet} (h : p.pseq ∉ (Fm.get {} s.rpaths (2 ^ 41 + p.src) : RPath).seen)
    (halt : (linkNo s n).alt = true) : ∃ t c, s.acceptEntry n p = t ∧ s.now ≤ c ∧
      t = { scheduled (firstAccepted s n p) (entryArrival n p c) with choices := t.choices, drawn := t.drawn } := by
  obtain ⟨ch, dr, hdrew⟩ := drew_eq (firstAccepted s n p)
  refine ⟨_, s.now + s.drawVal, rfl, Nat.le_add_right _ _, ?_⟩
  rw [acceptEntry_eq, if_neg (fun k => h (List.contains_iff_mem.1 k)), equalise_alternate (s := firstAccepted s n p) halt]
  dsimp only
  rw [hdrew]
  rfl

/-! ## A link fails (R392, R393) -/

theorem failLink_down {s : State} {n : Nat} (h : (linkNo s n).up = false) : s.failLink n = s := by
  show (if (!(linkNo s n).up) = true then s else _) = s
  rw [h]
  rfl

theorem failLink_alone {s : State} {n : Nat} (h : (linkNo s n).up = true) (halt : (linkNo s n).alten = false) :
    s.failLink n = withLink s n { linkNo s n with up := false, fail := true, replays := [] } := by
  show (if (!(linkNo s n).up) = true then s else if (linkNo s n).alten = true then _ else _) = _
  rw [h, halt]
  rfl

theorem failLink_over {s : State} {n : Nat} (h : (linkNo s n).up = true) (halt : (linkNo s n).alten = true) :
    ∃ t c, s.failLink n = t ∧ s.now ≤ c ∧ c ≤ s.now + 2048 ∧
      t = { scheduled (withLink s n { linkNo s n with up := false, fail := true, replays := [] }) (event c 7 n .linkFailover (.link n)) with
        choices := t.choices, drawn := t.drawn } := by
  have failing : s.failLink n = (withLink s n { linkNo s n with up := false, fail := true, replays := [] }).drew.after (s.drawVal % 2049) 7 n
      .linkFailover (.link n) := by
    show (if (!(linkNo s n).up) = true then s else if (linkNo s n).alten = true then _ else _) = _
    rw [h, halt]
    rfl
  obtain ⟨ch, dr, hdrew⟩ := drew_eq (withLink s n { linkNo s n with up := false, fail := true, replays := [] })
  have small := Nat.mod_lt s.drawVal (by decide : 0 < 2049)
  refine ⟨_, s.now + s.drawVal % 2049, failing, Nat.le_add_right _ _, by omega, ?_⟩
  rw [hdrew]
  rfl

theorem exec_linkFail_link {s : State} {n : Nat} (h : s.arg = .link n) : exec .linkFail s = .next (s.failLink n) := by
  show execLinkFail s = _
  unfold execLinkFail
  rw [h]

theorem exec_linkFail_silence {s : State} {n : Nat} (h : s.arg = .silence n) : exec .linkFail s =
    .next (if (!(linkNo s n).up) = true then s else if (linkNo s n).heard + 64 ≤ s.now then s.failLink n else s.watchLink n) := by
  show execLinkFail s = _
  unfold execLinkFail
  rw [h]
  rfl

/-- The two ways in which a link that is up fails: a report, and 64 cycles of silence. -/
theorem exec_linkFail_fails {s : State} {n : Nat} (h : s.arg = .link n ∨ s.arg = .silence n) (hup : (linkNo s n).up = true)
    (hfails : s.arg = .link n ∨ (linkNo s n).heard + 64 ≤ s.now) : exec .linkFail s = .next (s.failLink n) := by
  rcases h with h | h
  · exact exec_linkFail_link h
  · have late := hfails.resolve_left (fun k => nomatch h.symm.trans k)
    rw [exec_linkFail_silence h, hup, if_neg (by decide), if_pos late]

theorem exec_linkFail_down {s : State} {n : Nat} (h : s.arg = .link n ∨ s.arg = .silence n) (hup : (linkNo s n).up = false) :
    exec .linkFail s = .next s := by
  rcases h with h | h
  · rw [exec_linkFail_link h, failLink_down hup]
  · rw [exec_linkFail_silence h, hup, if_pos (by decide)]

/-- A receiver that has heard something within 64 cycles is looked at again. -/
theorem exec_linkFail_quiet {s : State} {n : Nat} (h : s.arg = .link n ∨ s.arg = .silence n) (hup : (linkNo s n).up = true)
    (hquiet : ¬ (s.arg = .link n ∨ (linkNo s n).heard + 64 ≤ s.now)) :
    exec .linkFail s = .next (scheduled s (event ((linkNo s n).heard + 64) 7 n .linkFail (.silence n))) := by
  obtain ⟨hlink, hheard⟩ := not_or.1 hquiet
  have watch : s.watchLink n = scheduled s (event (max (s.now + 1) ((linkNo s n).heard + 64)) 7 n .linkFail (.silence n)) := rfl
  rw [exec_linkFail_silence (h.resolve_left hlink), hup, if_neg (by decide), if_neg hheard, watch, Nat.max_eq_right (by omega)]

theorem acknowledgement_ends {s : State} {n : Nat} {p : Packet} (h : p.op = 15) :
    (heardOn s n).accept n p = withLink s n { linkNo s n with
      heard := s.now, sent := (linkNo s n).sent.filter (fun x => x.2.2.num != some p.pseq)
      owed := (linkNo s n).owed.filter (fun x => x.pseq != p.pseq) } := by
  rw [accept_acknowledgement h, linkNo_heardOn]
  exact congrArg (fun m => { s with links := m }) (set_set _ _ _ _)

theorem flitsAreReceived : FlitsAreReceived := by
  refine ⟨fun s n ok p harg => ⟨fun hl => ?_, fun hl hok => ?_, fun hl hok => ?_⟩, fun s n harg => ⟨fun hup => ?_, fun hup hquiet => ?_,
    fun hup hfails halt => ?_, fun hup hfails halt => ?_⟩⟩
  · exact flit_unusable harg (fun k => hl ((linked_iff _).1 k))
  · subst hok
    have step := flit_accepted harg ((linked_iff _).2 hl)
    have kept : (linkNo (heardOn s n) n).alt = (linkNo s n).alt := (congrArg Link.alt (linkNo_heardOn s n) :)
    have delay : (linkNo (heardOn s n) n).lat - (linkNo (heardOn s n) n).meas =
        (linkNo s n).lat - (linkNo s n).meas := (congrArg (fun l : Link => l.lat - l.meas) (linkNo_heardOn s n) :)
    refine ⟨fun h => ?_, fun h => ?_, fun h => ?_, fun h => ?_, fun h => ⟨fun hseen => ?_, fun hnew halt => ?_, fun hnew halt => ?_⟩, fun h => ?_,
      fun h => ?_, fun h => ?_⟩
    · rw [step, accept_operation h]
      rfl
    · rw [step, accept_store h]
      rfl
    · rw [step, accept_reply h]
      rfl
    · rw [step, accept_error h]
      rfl
    · rw [step, accept_entry h, acceptEntry_seen (s := heardOn s n) hseen]
      rfl
    · rw [step, accept_entry h, acceptEntry_direct (s := heardOn s n) hnew (kept.trans halt), delay]
      rfl
    · obtain ⟨t, c, ht, hc, hframe⟩ := acceptEntry_alternate (s := heardOn s n) hnew (kept.trans halt)
      exact ⟨t, c, by rw [step, accept_entry h, ht], hc, hframe⟩
    · rw [step, accept_partial h]
      rfl
    · rw [step, acknowledgement_ends h]
    · rw [step, accept_marker h]
      rfl
  · subst hok
    exact flit_rejected harg ((linked_iff _).2 hl)
  · exact exec_linkFail_down harg hup
  · exact exec_linkFail_quiet harg hup hquiet
  · rw [exec_linkFail_fails harg hup hfails, failLink_alone hup halt]
  · obtain ⟨t, c, ht, hlo, hhi, hframe⟩ := failLink_over hup halt
    exact ⟨t, c, by rw [exec_linkFail_fails harg hup hfails, ht], hlo, hhi, hframe⟩

/-! ## Failover (R263, R393) -/

/-- Packets that go out one after another; none changes where the next one leaves. -/
theorem emit_all (l : List Awaited) (s : State) : l.foldl (fun s w => s.emit w.pkt) s =
    { s with outbox := s.outbox ++ l.map fun w => { w.pkt with dep := leaves s w.pkt.dst } } := by
  induction l generalizing s with
  | nil =>
    show s = { s with outbox := s.outbox ++ [] }
    rw [List.append_nil]
  | cons w r ih =>
    rw [List.foldl_cons, ih, emit_eq, List.map_cons, ← List.append_cons]
    rfl

/-- The entries of a link port's wait list. -/
def linkWait (cores : Fm Core) (core q : Nat) : List LinkWait := (Fm.get {} (Fm.get {} cores core : Core).lport q : Port).wait

theorem linkWait_resend (s : State) (x : Nat × Nat × LinkWait) (core q : Nat) : linkWait (s.resend x).cores core q =
    if core = x.1 ∧ q = x.2.1 then x.2.2 :: linkWait s.cores core q else linkWait s.cores core q := by
  obtain ⟨c, k, w⟩ := x
  have cores : (s.resend (c, k, w)).cores = Fm.set s.cores c { s.core c with
      lport := Fm.set (s.core c).lport k { (Fm.get {} (s.core c).lport k : Port) with wait := w :: (Fm.get {} (s.core c).lport k : Port).wait } } := rfl
  unfold linkWait
  rw [cores]
  by_cases hc : core = c
  · subst hc
    rw [get_set_same]
    by_cases hq : q = k
    · subst hq
      rw [if_pos ⟨rfl, rfl⟩]
      exact congrArg Port.wait (get_set_same ({} : Port) _ (s.core core).lport q)
    · rw [if_neg (fun h => hq h.2)]
      exact congrArg Port.wait (get_set_other ({} : Port) _ (s.core core).lport k q (Ne.symm hq))
  · rw [get_set_other _ _ _ _ _ (Ne.symm hc), if_neg (fun h => hc h.1)]

/-- The entries that a peer has not acknowledged stand at their ports again. -/
theorem resend_all (l : List (Nat × Nat × LinkWait)) (s : State) : let t := l.foldr (fun x s => s.resend x) s
    t = { s with cores := t.cores, agenda := t.agenda } ∧ ∀ x ∈ l, x.2.2 ∈ linkWait t.cores x.1 x.2.1 := by
  induction l with
  | nil => exact ⟨rfl, fun x hx => absurd hx List.not_mem_nil⟩
  | cons y r ih =>
    dsimp only at ih ⊢
    rw [List.foldr_cons]
    generalize r.foldr (fun x s => s.resend x) s = u at ih ⊢
    obtain ⟨hframe, hwait⟩ := ih
    refine ⟨congrArg (fun v : State => { v with cores := (u.resend y).cores, agenda := (u.resend y).agenda }) hframe, fun x hx => ?_⟩
    rw [linkWait_resend]
    rcases List.mem_cons.1 hx with rfl | hx
    · rw [if_pos ⟨rfl, rfl⟩]
      exact List.mem_cons_self ..
    · split
      · exact List.mem_cons_of_mem _ (hwait x hx)
      · exact hwait x hx

/-- A link that has gone over to its alternate path. -/
def goneOver (s : State) (n : Nat) : State := withLink s n { linkNo s n with alt := true, sent := [] }

theorem exec_linkFailover {s : State} {n : Nat} (h : s.arg = .link n) : exec .linkFailover s =
    .next (if (!(linkNo s n).alten || (linkNo s n).up) = true then s
      else
        let u := (linkNo s n).sent.foldr (fun x s => s.resend x) (goneOver s n)
        (u.awaiting.filter fun w => w.pkt.dst == (linkNo s n).peer && [1, 5, 12, 13].contains w.pkt.op).foldl (fun s w => s.emit w.pkt)
          { u with outbox := u.outbox ++ (linkNo s n).owed.map fun p => { p with link := u.wayOf n, dep := some u.now } }) := by
  show execLinkFailover s = _
  unfold execLinkFailover
  rw [h, apply_ite Host.Outcome.next]
  rfl

theorem linkFailover_ignored {s : State} {n : Nat} (h : s.arg = .link n) (hl : (linkNo s n).alten = false ∨ (linkNo s n).up = true) :
    exec .linkFailover s = .next s := by
  rw [exec_linkFailover h, if_pos (by simpa using hl)]

theorem linkFailover_over {s : State} {n : Nat} (h : s.arg = .link n) (halt : (linkNo s n).alten = true) (hup : (linkNo s n).up = false) :
    ∃ t, exec .linkFailover s = .next t ∧ t.links = Fm.set s.links n { linkNo s n with alt := true, sent := [] } ∧
      (let again := (s.awaiting.filter fun w => w.pkt.dst == (linkNo s n).peer && [1, 5, 12, 13].contains w.pkt.op).map fun w =>
        { w.pkt with dep := leaves t w.pkt.dst }
       t.outbox = s.outbox ++ (linkNo s n).owed.map (fun p => { p with link := t.wayOf n, dep := some s.now }) ++ again) ∧
      t = { s with links := t.links, cores := t.cores, agenda := t.agenda, outbox := t.outbox } ∧
      ∀ x ∈ (linkNo s n).sent, x.2.2 ∈ (Fm.get {} (Fm.get {} t.cores x.1).lport x.2.1 : Port).wait := by
  obtain ⟨hframe, hwait⟩ := resend_all (linkNo s n).sent (goneOver s n)
  rw [exec_linkFailover h, halt, hup, if_neg (by decide)]
  dsimp only
  generalize (linkNo s n).sent.foldr (fun x s => s.resend x) (goneOver s n) = u at *
  generalize u.cores = co, u.agenda = ag at *
  subst hframe
  rw [emit_all]
  exact ⟨_, rfl, rfl, rfl, rfl, hwait⟩

/-! ## ALIGN (R126, R390) -/

theorem align_user {s : State} (hf : Free s) (h : User s) : exec .align s = .next (faulted (occupied s 1) 1) := by
  show execAlign s = _
  unfold execAlign
  rw [issue_of_free hf, ← fault_eq_faulted]
  dsimp only
  rw [show (occupied s 1).cur = s.cur from rfl, isMgmt_eq_false h, if_pos (by decide)]
  rfl

theorem align_hub {s : State} (hf : Free s) (h : OnHub s) : ∃ t c, exec .align s = .next t ∧ s.now < c ∧ c ≤ s.now + 2 ^ 20 ∧
    t.agenda = s.agenda ++ [event c 4 s.cur.sid .alignComplete (.seq s.cur.sid)] ∧
    mine t = { mine (occupied s 1) with seam := true, ut := false, alignUt := some (mine s).ut } ∧
    t.mem = s.mem ∧ t.beacon = s.beacon ∧ t.links = s.links := by
  obtain ⟨ch, dr, hdrew⟩ := drew_eq (occupied s 1)
  have small := Nat.mod_lt (occupied s 1).drawVal (by decide : 0 < 2 ^ 20)
  have step : exec .align s = .next (((occupied s 1).drew.updSeq s.cur.sid
      (fun q => { q with seam := true, ut := false, alignUt := some q.ut })).after ((occupied s 1).drawVal % 2 ^ 20 + 1) 4 s.cur.sid
        .alignComplete (.seq s.cur.sid)) := by
    show execAlign s = _
    unfold execAlign
    rw [issue_of_free hf]
    dsimp only
    rw [show (occupied s 1).cur = s.cur from rfl, (isMgmt_iff s).2 h, if_neg (by decide)]
  rw [hdrew] at step
  generalize (occupied s 1).drawVal % 2 ^ 20 = k at step small
  have issuedSeq : (occupied s 1).seq s.cur.sid = colUntil (mine s) s.cur.col (s.now + 1) := me_occupied s 1
  refine ⟨_, s.now + (k + 1), step, by omega, by omega, rfl, ?_, rfl, rfl, rfl⟩
  rw [show (mine s).ut = (mine (occupied s 1)).ut from (congrArg Seq.ut issuedSeq :).symm]
  exact get_set_same _ _ _ _

/-- `t` holds in memory and in its sequencers what `s` holds. -/
def KeepsStore (s t : State) : Prop := t.mem = s.mem ∧ t.seqs = s.seqs

theorem keepsStore_refl (s : State) : KeepsStore s s := ⟨rfl, rfl⟩

theorem keepsStore_trans {s t u : State} (h : KeepsStore s t) (k : KeepsStore t u) : KeepsStore s u := ⟨k.1.trans h.1, k.2.trans h.2⟩

theorem keepsStore_ite {s t u : State} (c : Prop) [Decidable c] (ht : KeepsStore s t) (hu : KeepsStore s u) :
    KeepsStore s (if c then t else u) := by
  split
  · exact ht
  · exact hu

theorem keepsStore_drew (s : State) : KeepsStore s s.drew := by
  obtain ⟨_, _, hdrew⟩ := drew_eq s
  rw [hdrew]
  exact keepsStore_refl s

theorem keepsStore_trained (s : State) (n : Nat) : KeepsStore s (s.trained n).1 := by
  unfold State.trained
  dsimp only
  split
  · exact keepsStore_refl s
  · exact keepsStore_drew s

theorem keepsStore_trainAll (s : State) : KeepsStore s s.trainAll.1 := by
  unfold State.trainAll
  refine List.foldlRecOn (motive := fun x : State × List (Nat × Bool × Nat) => KeepsStore s x.1) _ _ (keepsStore_refl s) fun x hx n _ => ?_
  have step := keepsStore_trans hx (keepsStore_trained x.1 n)
  split
  · next h =>
      rw [h] at step
      exact step
  · next h =>
      rw [h] at step
      exact step

theorem keepsStore_alignLink (s : State) (n : Nat) (compare agrees : Bool) (meas : Nat) : KeepsStore s (s.alignLink n compare agrees meas) := by
  unfold State.alignLink
  refine keepsStore_ite _ ?_ ?_
  · exact ⟨rfl, rfl⟩
  · exact ⟨rfl, rfl⟩

theorem keepsStore_alignAll (run ref : Bool) (l : List (Nat × Bool × Nat)) (s : State) :
    KeepsStore s (l.foldl (fun s x => s.alignLink x.1 (run && !ref) x.2.1 x.2.2) s) :=
  List.foldlRecOn (motive := KeepsStore s) _ _ (keepsStore_refl s) fun _ hu _ _ => keepsStore_trans hu (keepsStore_alignLink ..)

/-- Steps 1 and 2 of R390: the die's copies of the Beacon. -/
def alignStart (s : State) : State :=
  let u := if s.anyRunning then s else s.loadBeacons
  { u with hub := { u.hub with
      aligned := 0, alErr := u.hub.alErr || (s.anyRunning && (List.range 8).any fun d => s.beaconOf d != s.beaconOf 8) } }

/-- The last step of R390: the module's Beacon, and DONE. -/
def alignEnd (run ref : Bool) (u : State) : State :=
  let v := if ref || run then u else ({ u.drew with beacon := Fm.set u.beacon 8 (u.drawVal % 2 ^ 64) } : State).loadBeacons
  { v with hub := { v.hub with alDone := true, ref_ := ref } }

theorem align_eq (s : State) : s.align =
    (let x := (alignStart s).trainAll
     let ref := x.2.all fun y => decide (x.1.hub.modn < (x.1.link y.1).peer)
     alignEnd s.anyRunning ref (x.2.foldl (fun t y => t.alignLink y.1 (s.anyRunning && !ref) y.2.1 y.2.2) x.1)) := by
  unfold State.align alignStart alignEnd
  dsimp only

theorem keepsStore_alignStart (s : State) : KeepsStore s (alignStart s) := by
  have loaded : KeepsStore s (if s.anyRunning then s else s.loadBeacons) := keepsStore_ite _ (keepsStore_refl s) (keepsStore_refl s)
  exact keepsStore_trans loaded (keepsStore_refl _)

theorem keepsStore_alignEnd (run ref : Bool) (u : State) : KeepsStore u (alignEnd run ref u) := by
  obtain ⟨_, _, hdrew⟩ := drew_eq u
  unfold alignEnd
  rw [hdrew]
  have settled (b : Fm Nat) (ch : List Nat) (dr : Nat) :
      KeepsStore u (if ref || run then u else State.loadBeacons { u with beacon := b, choices := ch, drawn := dr }) :=
    keepsStore_ite _ (keepsStore_refl u) (keepsStore_refl u)
  exact keepsStore_trans (settled _ _ _) (keepsStore_refl _)

theorem keepsStore_align (s : State) : KeepsStore s s.align := by
  rw [align_eq]
  exact keepsStore_trans (keepsStore_alignStart s) (keepsStore_trans (keepsStore_trainAll _)
    (keepsStore_trans (keepsStore_alignAll ..) (keepsStore_alignEnd ..)))

theorem alDone_align (s : State) : s.align.hub.alDone = true := by
  unfold State.align
  dsimp only

/-- The sequencer that an ALIGN has held, when its last step ends (R37, R126). -/
def alignedSeq (q : Seq) : Seq := { q with ut := q.alignUt.getD q.ut, alignUt := none }

theorem alignComplete_goesOn {s : State} {sid : Nat} (h : s.arg = .seq sid) : ∃ t, exec .alignComplete s = .next t ∧ t.hub.alDone = true ∧
    (Fm.get {} t.seqs sid).seam = false ∧ t.mem = s.mem ∧ ∀ b, (Fm.get {} s.seqs sid).alignUt = some b → (Fm.get {} t.seqs sid).ut = b := by
  have step : exec .alignComplete s =
      .next (((landReg s.align sid .seamEnd).updSeq sid alignedSeq).schedAll) := by
    show execAlignComplete s = _
    unfold execAlignComplete
    rw [h]
    generalize s.align = u
    rfl
  have done := alDone_align s
  obtain ⟨hmem, hseqs⟩ := keepsStore_align s
  generalize s.align = u at *
  have ended : (((landReg u sid .seamEnd).updSeq sid alignedSeq).schedAll).seq sid = alignedSeq ((landReg u sid .seamEnd).seq sid) :=
    seq_updSeq_same (landReg u sid .seamEnd) sid alignedSeq
  have seam : (landReg u sid .seamEnd).seq sid = { u.seq sid with seam := false, floor := max (u.seq sid).floor (u.now - (u.seq sid).slip + 1) } :=
    seq_updSeq_same u sid _
  rw [seam] at ended
  refine ⟨_, step, done, (congrArg Seq.seam ended :), hmem, fun b hb => ?_⟩
  have ut : (u.seq sid).alignUt = some b := by
    rw [State.seq, hseqs]
    exact hb
  refine (congrArg Seq.ut ended).trans ?_
  show (u.seq sid).alignUt.getD (u.seq sid).ut = b
  rw [ut, Option.getD_some]

end Sys2Proof.Laws
end

/-! # Memory and its tags, byte by byte -/

section

namespace Sys2Proof.Laws

open Sys2Proof Sys2Proof.Machine Sys2Proof.Claims

/-! ## Bytes written and read back (R245) -/

theorem read_append (m r : List Host.Cell) (a n : Nat) : Memory.read (m ++ r) a n = Memory.read m a n + Memory.read r a n := by
  induction m with
  | nil => exact (Nat.zero_add _).symm
  | cons c m ih => rw [List.cons_append, read_cons, read_cons, ih, Nat.add_assoc]

theorem read_outside {m : List Host.Cell} {a n : Nat} (h : ∀ c ∈ m, ¬ (a ≤ c.1 ∧ c.1 < a + n)) : Memory.read m a n = 0 := by
  induction m with
  | nil => rfl
  | cons c m ih => rw [read_cons, if_neg (h c (List.mem_cons_self ..)), ih fun x hx => h x (List.mem_cons_of_mem _ hx)]

theorem read_filter {p : Host.Cell → Bool} {a n : Nat} (h : ∀ c : Host.Cell, a ≤ c.1 ∧ c.1 < a + n → p c = true) (m : List Host.Cell) :
    Memory.read (m.filter p) a n = Memory.read m a n := by
  induction m with
  | nil => rfl
  | cons c m ih =>
    rw [List.filter_cons, read_cons c m]
    by_cases hc : a ≤ c.1 ∧ c.1 < a + n
    · rw [if_pos (h c hc), read_cons, ih]
    · rw [if_neg hc, Nat.zero_add]
      split
      · rw [read_cons, if_neg hc, Nat.zero_add, ih]
      · exact ih

theorem read_cells (a d n x : Nat) : Memory.read (Memory.cells (a + d) n x) a (d + n) = x % 2 ^ (8 * n) * 2 ^ (8 * d) := by
  induction n generalizing d x with
  | zero => simp [Memory.cells, Memory.read, Nat.mod_one]
  | succ n ih =>
    have rest := ih (d + 1) (x / 256)
    rw [show a + (d + 1) = a + d + 1 by omega, show d + 1 + n = d + (n + 1) by omega, show 8 * (d + 1) = 8 + 8 * d by omega, Nat.pow_add,
      ← Nat.mul_assoc] at rest
    have low : x % 2 ^ (8 * (n + 1)) = x % 256 + x / 256 % 2 ^ (8 * n) * 2 ^ 8 := by
      rw [show 8 * (n + 1) = 8 + 8 * n by omega, Nat.pow_add, Nat.mod_mul, Nat.mul_comm (2 ^ 8)]
    rw [low, Nat.add_mul]
    unfold Memory.cells
    split
    · next hz => rw [hz, Nat.zero_mul, Nat.zero_add, rest]
    · rw [read_cons, if_pos ⟨by omega, by omega⟩, rest, Nat.add_sub_cancel_left]
      rfl

theorem read_write_same (m : List Host.Cell) (a n x : Nat) : Memory.read (Memory.write m a n x) a n = x % 2 ^ (8 * n) := by
  have low : Memory.read (m.filter fun c => c.1 < a) a n = 0 := read_outside fun c hc => by
    have := of_decide_eq_true (List.mem_filter.1 hc).2
    omega
  have high : Memory.read (m.filter fun c => a + n ≤ c.1) a n = 0 := read_outside fun c hc => by
    have := of_decide_eq_true (List.mem_filter.1 hc).2
    omega
  have cells := read_cells a 0 n x
  rw [Nat.zero_add, Nat.add_zero, Nat.mul_zero, Nat.pow_zero, Nat.mul_one] at cells
  rw [Memory.write, read_append, read_append, low, high, cells, Nat.zero_add, Nat.add_zero]

theorem read_write_other (m : List Host.Cell) {a n b k : Nat} (x : Nat) (h : b + k ≤ a ∨ a + n ≤ b) :
    Memory.read (Memory.write m a n x) b k = Memory.read m b k := by
  have cells : Memory.read (Memory.cells a n x) b k = 0 := read_outside fun c hc => by
    have := cells_range a n x c hc
    omega
  rw [Memory.write, read_append, read_append, cells, Nat.zero_add]
  rcases h with h | h
  · have high : Memory.read (m.filter fun c => a + n ≤ c.1) b k = 0 := read_outside fun c hc => by
      have := of_decide_eq_true (List.mem_filter.1 hc).2
      omega
    rw [high, Nat.add_zero]
    exact read_filter (fun c hc => decide_eq_true (by omega)) m
  · have low : Memory.read (m.filter fun c => c.1 < a) b k = 0 := read_outside fun c hc => by
      have := of_decide_eq_true (List.mem_filter.1 hc).2
      omega
    rw [low, Nat.zero_add]
    exact read_filter (fun c hc => decide_eq_true (by omega)) m

/-! ## Tags of a block's granules (R24) -/

theorem get_del_other {α : Type} (d : α) (m : Fm α) {i j : Nat} (h : i ≠ j) : Fm.get d (Fm.del m i) j = Fm.get d m j := by
  induction m with
  | nil => rfl
  | cons e r ih =>
    obtain ⟨k, v⟩ := e
    unfold Fm.del at ih ⊢
    rw [List.filter_cons]
    by_cases hk : k = i
    · subst hk
      rw [if_neg (by simp), ih]
      exact (if_neg h).symm
    · rw [if_pos (by simpa using hk)]
      exact if_congr Iff.rfl rfl ih

theorem get_setTag_other (m : Fm Nat) {i j : Nat} (t : Nat) (h : i ≠ j) : Fm.get 0x7F00 (setTag m i t) j = Fm.get 0x7F00 m j := by
  unfold setTag
  split
  · exact get_del_other _ _ h
  · exact get_set_other _ _ _ _ _ h

/-- Four bits as a number of four bits. -/
theorem getLsbD_four (f : Nat → Bool) {j : Nat} (hj : j < 4) :
    (BitVec.ofNat 4 (((List.range 4).map (fun i => if f i then 2 ^ i else 0)).foldl (· + ·) 0)).getLsbD j = f j := by
  have table : ∀ (b0 b1 b2 b3 : Bool) (j : Fin 4), (BitVec.ofNat 4 (0 + (if b0 then 1 else 0) + (if b1 then 2 else 0) + (if b2 then 4 else 0) +
      (if b3 then 8 else 0))).getLsbD j = [b0, b1, b2, b3][j] := by decide
  have bit := table (f 0) (f 1) (f 2) (f 3) ⟨j, hj⟩
  have own : [f 0, f 1, f 2, f 3][(⟨j, hj⟩ : Fin 4)] = f j := by
    obtain rfl | rfl | rfl | rfl : j = 0 ∨ j = 1 ∨ j = 2 ∨ j = 3 := by omega
    all_goals rfl
  exact bit.trans own

theorem getLsbD_ctags (s : State) (loc : Nat) {j : Nat} (hj : j < 4) : (s.ctags loc).getLsbD j = s.ctag.contains (loc / 16 + j) :=
  getLsbD_four (fun i => s.ctag.contains (loc / 16 + i)) hj

/-- A granule is touched where its mask has a bit. -/
theorem getLsbD_granuleMask (m : Nat) {j : Nat} (hj : j < 4) : (granuleMask m).getLsbD j = decide (bits m (16 * j) 16 ≠ 0) := by
  have flip : ∀ i, (if bits m (16 * i) 16 = 0 then 0 else 2 ^ i) = if decide (bits m (16 * i) 16 ≠ 0) then 2 ^ i else 0 := fun i => by
    by_cases h : bits m (16 * i) 16 = 0
    · simp [h]
    · simp [h]
  unfold granuleMask
  rw [List.map_congr_left fun i _ => flip i]
  exact getLsbD_four (fun i => decide (bits m (16 * i) 16 ≠ 0)) hj

/-- One granule's tag replaced. -/
def setGranule (loc : Nat) (mask new : BitVec 4) (l : List Nat) (i : Nat) : List Nat :=
  if mask.getLsbD i then
    let l := l.filter (· != loc / 16 + i)
    if new.getLsbD i then (loc / 16 + i) :: l else l
  else l

theorem setGranules_eq (l : List Nat) (loc : Nat) (mask new : BitVec 4) :
    setGranules l loc mask new = (List.range 4).foldl (setGranule loc mask new) l := rfl

theorem mem_setGranule_other {loc x i : Nat} (mask new : BitVec 4) (l : List Nat) (h : x ≠ loc / 16 + i) :
    x ∈ setGranule loc mask new l i ↔ x ∈ l := by
  unfold setGranule
  dsimp only
  split
  · split
    · simp [h]
    · simp [h]
  · exact Iff.rfl

theorem mem_setGranules_other {l : List Nat} {loc x : Nat} (mask new : BitVec 4) (h : ∀ i < 4, x ≠ loc / 16 + i) :
    x ∈ setGranules l loc mask new ↔ x ∈ l := by
  rw [setGranules_eq]
  exact List.foldlRecOn (motive := fun r => x ∈ r ↔ x ∈ l) _ _ Iff.rfl fun r hr i hi =>
    (mem_setGranule_other mask new r (h i (List.mem_range.1 hi))).trans hr

theorem mem_setGranules_own {l : List Nat} {loc j : Nat} {mask new : BitVec 4} (hj : j < 4) (hmask : mask.getLsbD j = true)
    (hnew : new.getLsbD j = true) : loc / 16 + j ∈ setGranules l loc mask new := by
  have reaches : ∀ (r l : List Nat), j ∈ r ∨ loc / 16 + j ∈ l → loc / 16 + j ∈ r.foldl (setGranule loc mask new) l := by
    intro r
    induction r with
    | nil => exact fun l h => h.resolve_left List.not_mem_nil
    | cons i r ih =>
      refine fun l h => ih _ ?_
      by_cases hi : j = i
      · subst hi
        refine .inr ?_
        unfold setGranule
        dsimp only
        rw [if_pos hmask, if_pos hnew]
        exact List.mem_cons_self ..
      · rw [mem_setGranule_other mask new l (by omega)]
        exact h.imp_left fun h => (List.mem_cons.1 h).resolve_left hi
  exact reaches _ _ (.inl (List.mem_range.2 hj))

end Sys2Proof.Laws
end

/-! # A store of one block, as a coherent read sees it -/

section

namespace Sys2Proof.Laws

open Sys2Proof Sys2Proof.Machine Sys2Proof.Claims

/-! ## A block in DRAM (R299) -/

/-- A block's bytes after a write under a byte mask. -/
def mergedData (old : BlockBits) (data mask : Nat) : BlockBits :=
  BitVec.ofNat 512 ((old.toNat &&& (2 ^ 512 - 1 - byteMask 64 mask)) ||| (data &&& byteMask 64 mask))

/-- What a read finds after a write of `data` under `mask` to a block that held `old`: good bytes, and the granule tags that were set. -/
structure Holds (old b : Block) (data mask : Nat) (ctag : BitVec 4) : Prop where
  good : b.bad = false
  data : b.data = mergedData old.data data mask
  tags : ∀ j < 4, (granuleMask mask).getLsbD j = true → ctag.getLsbD j = true → b.ctag.getLsbD j = true

/-- A block that was written last under the key id and at the address by which it is read. -/
theorem dramBlock_sealed {s : State} {loc pa key : Nat} (hbad : (s.bad.contains (loc / 64) || s.keyNum key == 0) = false)
    (hseal : Fm.get 0 s.bkey (loc / 64) = sealOf (s.keyNum key) pa) : s.dramBlock loc pa key =
      { data := BitVec.ofNat 512 (Memory.read s.mem loc 64), tag := Fm.get 0x7F00 s.mtag (loc / 64), ctag := s.ctags loc, bad := false } := by
  unfold State.dramBlock
  dsimp only
  rw [hbad, hseal, if_neg Bool.false_ne_true, if_pos (.inr rfl)]

theorem dramBlock_congr {s t : State} {loc : Nat} (hmem : Memory.read t.mem loc 64 = Memory.read s.mem loc 64)
    (hbkey : Fm.get 0 t.bkey (loc / 64) = Fm.get 0 s.bkey (loc / 64)) (hbad : t.bad = s.bad) (hkeys : t.keys = s.keys)
    (hmtag : Fm.get 0x7F00 t.mtag (loc / 64) = Fm.get 0x7F00 s.mtag (loc / 64)) (hctag : t.ctags loc = s.ctags loc) (pa key : Nat) :
    t.dramBlock loc pa key = s.dramBlock loc pa key := by
  unfold State.dramBlock State.keyNum
  rw [hmem, hbkey, hbad, hkeys, hmtag, hctag]

section Dram

variable {s : State} {loc key data mask tag : Nat} {ctag : BitVec 4} (hkey : s.keyNum key ≠ 0) (hmask : mask ≠ 0)
  (hpart : (mask == 2 ^ 64 - 1) = false)

include hkey hmask hpart

theorem dramWrite_eq (pa : Nat) : s.dramWrite loc pa key data mask tag ctag false = { s with
    mem := Memory.write s.mem loc 64 (((s.dramBlock loc pa key).data.toNat &&& (2 ^ 512 - 1 - byteMask 64 mask)) ||| (data &&& byteMask 64 mask))
    mtag := setTag s.mtag (loc / 64) tag, ctag := setGranules s.ctag loc (granuleMask mask) ctag
    bkey := Fm.set s.bkey (loc / 64) (sealOf (s.keyNum key) pa) } := by
  unfold State.dramWrite
  dsimp only
  rw [if_neg (not_or.2 ⟨hkey, hmask⟩), hpart]
  rfl

theorem dramBlock_dramWrite_same {pa : Nat} (hgood : (s.dramBlock loc pa key).bad = false) :
    Holds (s.dramBlock loc pa key) ((s.dramWrite loc pa key data mask tag ctag false).dramBlock loc pa key) data mask ctag := by
  have written := dramWrite_eq (s := s) (loc := loc) (data := data) (tag := tag) (ctag := ctag) hkey hmask hpart pa
  generalize s.dramWrite loc pa key data mask tag ctag false = t at *
  have keyNum : t.keyNum key = s.keyNum key := (congrArg (fun u : State => u.keyNum key) written :)
  have bad : t.bad = s.bad := (congrArg State.bad written :)
  have hseal : Fm.get 0 t.bkey (loc / 64) = sealOf (s.keyNum key) pa :=
    (congrArg (fun u : State => Fm.get 0 u.bkey (loc / 64)) written).trans (get_set_same _ _ _ _)
  have bytes : Memory.read t.mem loc 64 = _ := (congrArg (fun u : State => Memory.read u.mem loc 64) written).trans (read_write_same _ _ _ _)
  have tags (j : Nat) (hj : j < 4) : (t.ctags loc).getLsbD j = (setGranules s.ctag loc (granuleMask mask) ctag).contains (loc / 16 + j) :=
    (getLsbD_ctags t loc hj).trans (congrArg (fun u : State => u.ctag.contains (loc / 16 + j)) written :)
  rw [dramBlock_sealed (s := t) (by rw [bad, keyNum]; exact hgood) (by rw [hseal, keyNum])]
  refine ⟨rfl, ?_, fun j hj hgranule hset => ?_⟩
  · dsimp only
    rw [bytes, mergedData]
    exact BitVec.eq_of_toNat_eq (by rw [BitVec.toNat_ofNat, BitVec.toNat_ofNat, Nat.mod_mod])
  · dsimp only
    rw [tags j hj]
    exact List.contains_iff_mem.2 (mem_setGranules_own hj hgranule hset)

theorem dramBlock_dramWrite_other {pa loc' : Nat} (hloc : loc % 64 = 0) (hloc' : loc' % 64 = 0) (hne : loc' / 64 ≠ loc / 64) (pa' k : Nat) :
    (s.dramWrite loc pa key data mask tag ctag false).dramBlock loc' pa' k = s.dramBlock loc' pa' k := by
  have written := dramWrite_eq (s := s) (loc := loc) (data := data) (tag := tag) (ctag := ctag) hkey hmask hpart pa
  generalize s.dramWrite loc pa key data mask tag ctag false = t at *
  refine dramBlock_congr (s := s) (t := t) ?_ ?_ (congrArg State.bad written :) (congrArg State.keys written :) ?_ ?_ pa' k
  · exact (congrArg (fun u : State => Memory.read u.mem loc' 64) written).trans (read_write_other _ _ (by omega))
  · exact (congrArg (fun u : State => Fm.get 0 u.bkey (loc' / 64)) written).trans (get_set_other _ _ _ _ _ hne.symm)
  · exact (congrArg (fun u : State => Fm.get 0x7F00 u.mtag (loc' / 64)) written).trans (get_setTag_other _ _ hne.symm)
  · refine BitVec.eq_of_getLsbD_eq fun j hj => ?_
    rw [getLsbD_ctags _ _ hj, getLsbD_ctags _ _ hj, Bool.eq_iff_iff, List.contains_iff_mem, List.contains_iff_mem, (congrArg State.ctag written :)]
    exact mem_setGranules_other _ _ fun i hi => by omega

end Dram

end Sys2Proof.Laws
end

/-! # Places of blocks that a store leaves (R270, R276) -/

section

namespace Sys2Proof.Laws

open Sys2Proof Sys2Proof.Machine Sys2Proof.Claims

/-! ## The domain blocks but for their counters -/

/-- The domain blocks of `t` are those of `s` but for their counters (R277). -/
def SameMaps (s t : State) : Prop := ∀ die k, k < 16 → ∃ c, t.dom die k = { s.dom die k with cnt := c }

theorem sameMaps_of_doms {s t : State} (h : t.doms = s.doms) : SameMaps s t := fun die k _ => ⟨_, by unfold State.dom; rw [h]⟩

theorem sameMaps_trans {s t u : State} (h : SameMaps s t) (g : SameMaps t u) : SameMaps s u := fun die k hk => by
  obtain ⟨c, hc⟩ := h die k hk
  obtain ⟨e, he⟩ := g die k hk
  exact ⟨e, by rw [he, hc]⟩

theorem sameMaps_ite {s t u : State} (c : Prop) [Decidable c] (ht : SameMaps s t) (hu : SameMaps s u) : SameMaps s (if c then t else u) := by
  split
  · exact ht
  · exact hu

theorem sameMaps_count (s : State) (die : Nat) {k : Nat} (hk : k < 16) (c : Nat) : SameMaps s (s.count die k c) := fun n j hj => by
  unfold State.count State.updDom State.dom
  dsimp only
  by_cases same : 16 * die + k = 16 * n + j
  · obtain ⟨rfl, rfl⟩ : die = n ∧ k = j := by omega
    exact ⟨_, get_set_same _ _ _ _⟩
  · exact ⟨_, get_set_other _ _ _ _ _ same⟩

theorem sameMaps_countHit (s : State) {p : Place} (hp : p.blk < 16) (l : Line) (access : Bool) : SameMaps s (s.countHit p l access) := by
  have counted : SameMaps s (if access then s.count p.die p.blk 0 else s) := sameMaps_ite _ (sameMaps_count s _ hp _) (sameMaps_of_doms rfl)
  exact sameMaps_ite _ (sameMaps_trans counted (sameMaps_count _ _ hp _)) counted

section Place

variable {s t : State} (h : SameMaps s t)

include h

theorem blockOf_of_sameMaps (die pa : Nat) : t.blockOf die pa = s.blockOf die pa :=
  List.find?_congr fun k hk => by
    obtain ⟨c, hc⟩ := h die k (List.mem_range.1 hk)
    rw [hc]
    rfl

theorem lastBlock_of_sameMaps (die pa : Nat) : t.lastBlock die pa = s.lastBlock die pa :=
  List.find?_congr fun k hk => by
    obtain ⟨c, hc⟩ := h die k (List.mem_range.1 hk)
    rw [hc]

theorem lastMap_of_sameMaps (die pa : Nat) : t.lastMap die pa = s.lastMap die pa := by
  unfold State.lastMap
  rw [lastBlock_of_sameMaps h]
  cases hb : s.lastBlock die pa with
  | none => rfl
  | some k =>
    obtain ⟨c, hc⟩ := h die k (List.mem_range.1 (List.mem_of_find?_eq_some hb))
    rw [Option.bind_some, Option.bind_some, hc]

theorem place_of_sameMaps (pa : Nat) : t.place pa = s.place pa := by
  unfold State.place
  dsimp only
  cases regionOf (pa / 64 * 64) with
  | hbm n =>
    dsimp only
    rw [blockOf_of_sameMaps h, lastMap_of_sameMaps h, lastBlock_of_sameMaps h]
    cases hb : s.blockOf n (pa / 64 * 64) with
    | none => rfl
    | some k =>
      obtain ⟨c, hc⟩ := h n k (List.mem_range.1 (List.mem_of_find?_eq_some hb))
      dsimp only
      rw [hc]
      rfl
  | _ => rfl

end Place

/-! ## What a place is -/

theorem place_block (s : State) (pa : Nat) : s.place (pa / 64 * 64) = s.place pa := by
  unfold State.place
  rw [Nat.mul_div_cancel _ (by decide)]

theorem blk_of_cached {s : State} {pa : Nat} (h : (s.place pa).cached = true) : (s.place pa).blk < 16 := by
  unfold State.place at h ⊢
  dsimp only at h ⊢
  cases hr : regionOf (pa / 64 * 64) with
  | hbm n =>
    rw [hr] at h
    dsimp only at h ⊢
    cases hb : s.blockOf n (pa / 64 * 64) with
    | some k => exact List.mem_range.1 (List.mem_of_find?_eq_some hb)
    | none =>
      rw [hb] at h
      dsimp only at h ⊢
      cases hl : s.lastBlock n (pa / 64 * 64) with
      | some k => exact List.mem_range.1 (List.mem_of_find?_eq_some hl)
      | none =>
        rw [hl] at h
        cases h
  | _ =>
    rw [hr] at h
    cases h

theorem dramLoc_aligned (n : Nat) (m : DomMap) {pa : Nat} (h : pa % 64 = 0) : dramLoc n m pa % 64 = 0 := by
  have base : dieBase n % 64 = 0 := by
    unfold dieBase
    omega
  unfold dramLoc
  dsimp only
  unfold Config.channelBytes
  omega

theorem loc_aligned (s : State) (pa : Nat) : (s.place pa).loc % 64 = 0 := by
  unfold State.place
  dsimp only
  cases regionOf (pa / 64 * 64) with
  | hbm n =>
    dsimp only
    cases s.blockOf n (pa / 64 * 64) with
    | some k => exact dramLoc_aligned _ _ (Nat.mul_mod_left _ _)
    | none => exact dramLoc_aligned _ _ (Nat.mul_mod_left _ _)
  | _ => exact Nat.mul_mod_left _ _

/-! ## A coherent read (R245) -/

/-- A block as its home has it: its line where it is resident, else memory with the write buffer merged over it. -/
def homeBlock (s : State) (p : Place) (pa key : Nat) : Block :=
  match s.lineOf p pa with
  | some l => { data := l.data, tag := l.tag, ctag := l.ctag, bad := l.bad }
  | none => s.memBlock p pa key

/-- A block as it reads, with the held sync objects shown in it. -/
def shown (s : State) (pa : Nat) (b : Block) : Block :=
  if b.bad then { b with data := 0 } else { b with data := BitVec.ofNat 512 (s.withSyncs pa b.data.toNat) }

theorem peekBlock_eq (s : State) (pa key : Nat) : s.peekBlock pa key =
    if regionOf pa = .nothing ∨ s.keyNum key = 0 then { bad := true } else shown s pa (homeBlock s (s.place pa) pa key) := by
  unfold State.peekBlock
  cases regionOf pa with
  | nothing => rfl
  | _ =>
    by_cases hk : s.keyNum key = 0
    · simp [hk]
    · simp only [hk]
      rfl

theorem withSyncs_of_plain {s : State} {pa : Nat} (h : ∀ e ∈ s.syncs, e.1 / 4 ≠ pa / 64) (data : Nat) : s.withSyncs pa data = data := by
  unfold State.withSyncs
  refine (List.foldl_ext _ (fun x _ => x) _ fun x i hi => ?_).trans (List.foldl_fixed' (fun _ => rfl) _)
  have none_ : s.syncs.find? (fun e => e.1 == pa / 64 * 4 + i && !e.2.pages.isEmpty) = none := List.find?_eq_none.2 fun e he hc => by
    have block := h e he
    have small := List.mem_range.1 hi
    simp only [Bool.and_eq_true, beq_iff_eq] at hc
    omega
  rw [none_]

section Readable

variable {s : State} {pa key : Nat} (hregion : regionOf pa ≠ .nothing) (hkey : s.keyNum key ≠ 0)

include hregion hkey

theorem peekBlock_shown : s.peekBlock pa key = shown s pa (homeBlock s (s.place pa) pa key) := by
  rw [peekBlock_eq, if_neg (not_or.2 ⟨hregion, hkey⟩)]

theorem homeBlock_good (hgood : (s.peekBlock pa key).bad = false) : (homeBlock s (s.place pa) pa key).bad = false := by
  rw [peekBlock_shown hregion hkey] at hgood
  unfold shown at hgood
  split at hgood
  · next hbad => exact absurd (hbad.symm.trans hgood) (by decide)
  · exact hgood

/-- A good block with no held sync object in it reads as its home has it. -/
theorem peekBlock_plain (hplain : ∀ e ∈ s.syncs, e.1 / 4 ≠ pa / 64) (hgood : (homeBlock s (s.place pa) pa key).bad = false) :
    s.peekBlock pa key = homeBlock s (s.place pa) pa key := by
  rw [peekBlock_shown hregion hkey]
  unfold shown
  rw [hgood, if_neg Bool.false_ne_true, withSyncs_of_plain hplain, BitVec.ofNat_toNat, BitVec.setWidth_eq, ← hgood]

end Readable

end Sys2Proof.Laws
end

/-! # A store of part of a block, as its home has it (R278, R279) -/

section

namespace Sys2Proof.Laws

open Sys2Proof Sys2Proof.Machine Sys2Proof.Claims

/-! ## The map in force stays -/

theorem sameMaps_dramWrite (s : State) (loc pa key data mask tag : Nat) (ctag : BitVec 4) (bad : Bool) :
    SameMaps s (s.dramWrite loc pa key data mask tag ctag bad) := sameMaps_ite _ (sameMaps_of_doms rfl) (sameMaps_of_doms rfl)

theorem sameMaps_drainOne (s : State) (k : Nat) : SameMaps s (s.drainOne k) := by
  unfold State.drainOne
  split
  · exact sameMaps_of_doms rfl
  · exact sameMaps_trans (sameMaps_of_doms rfl) (sameMaps_dramWrite _ _ _ _ _ _ _ _ _)

theorem sameMaps_buffer (s : State) (p : Place) (e : WbEntry) : SameMaps s (s.buffer p e) :=
  sameMaps_trans (sameMaps_ite (32 ≤ (Fm.get [] s.wbuf (sliceKey p)).length) (sameMaps_drainOne s _) (sameMaps_of_doms rfl)) (sameMaps_of_doms rfl)

theorem sameMaps_writeBlock (s : State) (pa key data mask tag : Nat) (ctag : BitVec 4) (al : Alloc) :
    SameMaps s (s.writeBlock pa key data mask tag ctag al) := by
  have same : SameMaps s s := sameMaps_of_doms rfl
  unfold State.writeBlock
  dsimp only
  split
  · exact same
  · refine sameMaps_ite _ same ?_
    cases hcached : (s.place pa).cached with
    | false => exact sameMaps_dramWrite _ _ _ _ _ _ _ _ _
    | true =>
      have blk := blk_of_cached hcached
      refine sameMaps_ite _ (sameMaps_dramWrite _ _ _ _ _ _ _ _ _) ?_
      cases s.lineOf (s.place pa) pa with
      | some l =>
        have hit := sameMaps_ite (al = .fill) same (sameMaps_countHit s blk l true)
        cases al with
        | _ => exact sameMaps_trans hit (sameMaps_of_doms rfl)
      | none => exact sameMaps_trans (sameMaps_ite _ same (sameMaps_count _ _ blk _)) (sameMaps_buffer _ _ _)

/-! ## The block and the others -/

/-- What the homes of blocks have after a store of part of the block at a place. -/
structure StoredAt (s t : State) (p : Place) (pa key data mask : Nat) (ctag : BitVec 4) : Prop where
  own : Holds (homeBlock s p pa key) (homeBlock t p pa key) data mask ctag
  other : ∀ (q : Place) (b k : Nat), q.loc % 64 = 0 → q.loc / 64 ≠ p.loc / 64 → b / 64 ≠ pa / 64 → homeBlock t q b k = homeBlock s q b k

theorem homeBlock_of_line {s : State} {p : Place} {pa : Nat} {l : Line} (h : s.lineOf p pa = some l) (key : Nat) :
    homeBlock s p pa key = { data := l.data, tag := l.tag, ctag := l.ctag, bad := l.bad } := by
  unfold homeBlock
  rw [h]

theorem homeBlock_of_missing {s : State} {p : Place} {pa : Nat} (h : s.lineOf p pa = none) (key : Nat) :
    homeBlock s p pa key = s.memBlock p pa key := by
  unfold homeBlock
  rw [h]

theorem homeBlock_congr {s t : State} {p : Place} {pa key : Nat} (hline : t.lineOf p pa = s.lineOf p pa)
    (hmem : t.memBlock p pa key = s.memBlock p pa key) : homeBlock t p pa key = homeBlock s p pa key := by
  unfold homeBlock
  rw [hline, hmem]

theorem find_replaced_other {lines : List Line} {k j : Nat} {m : Line} (hm : m.pa = k) (hj : j ≠ k) :
    (lines.map fun x => if x.pa = k then m else x).find? (fun x => x.pa == j) = lines.find? (fun x => x.pa == j) := by
  have same : ((fun x : Line => x.pa == j) ∘ fun x => if x.pa = k then m else x) = fun x => x.pa == j := by
    funext x
    by_cases hx : x.pa = k
    · simp [hx, hm]
    · simp [hx]
  rw [List.find?_map, same]
  cases hl : lines.find? (fun x => x.pa == j) with
  | none => rfl
  | some l =>
    have place : l.pa = j := by simpa using List.find?_some hl
    rw [Option.map_some, if_neg (by rw [place]; exact hj)]

theorem lineOf_replaced_other {s t : State} {p q : Place} {pa b : Nat} {m : Line} (hm : m.pa = pa / 64) (hb : b / 64 ≠ pa / 64)
    (ht : t.l2 = Fm.set s.l2 (setKey p) ((s.lines p).map fun x => if x.pa = pa / 64 then m else x)) : t.lineOf q b = s.lineOf q b := by
  unfold State.lineOf
  refine if_congr Iff.rfl ?_ rfl
  by_cases hset : setKey p = setKey q
  · have lines : t.lines q = (s.lines q).map fun x => if x.pa = pa / 64 then m else x := by
      unfold State.lines at *
      rw [ht, hset, get_set_same]
    rw [lines]
    exact find_replaced_other hm hb
  · have lines : t.lines q = s.lines q := by
      unfold State.lines at *
      rw [ht, get_set_other _ _ _ _ _ hset]
    rw [lines]

theorem getLsbD_mergeBits {old new mask : BitVec 4} {j : Nat} (hmask : mask.getLsbD j = true) (hnew : new.getLsbD j = true) :
    (mergeBits old new mask).getLsbD j = true := by
  unfold mergeBits
  rw [BitVec.getLsbD_or, BitVec.getLsbD_and, BitVec.getLsbD_and, hmask, hnew]
  simp

/-- A merged entry of the write buffer (R279). -/
theorem holds_mergeEntry {b : Block} {loc pa key data mask tag : Nat} {ctag : BitVec 4} (hgood : b.bad = false) (hdata : data < 2 ^ 512)
    (hmask : mask < 2 ^ 64) : Holds b (mergeEntry b
      { loc := loc, data := BitVec.ofNat 512 data, mask := BitVec.ofNat 64 mask, tag := tag, ctag := ctag, key := key, bad := false, pa := pa })
      data mask ctag := by
  have bytes : (BitVec.ofNat 512 data).toNat = data := (BitVec.toNat_ofNat ..).trans (Nat.mod_eq_of_lt hdata)
  have bits : (BitVec.ofNat 64 mask).toNat = mask := (BitVec.toNat_ofNat ..).trans (Nat.mod_eq_of_lt hmask)
  unfold mergeEntry
  dsimp only
  rw [bytes, bits, hgood]
  exact ⟨ite_self _, rfl, fun _ _ hgranule hset => getLsbD_mergeBits hgranule hset⟩

section Store

variable {s : State} {pa key data mask tag : Nat} {ctag : BitVec 4} {al : Alloc} (hplain : ∀ e ∈ s.syncs, e.1 / 4 ≠ pa / 64)
  (hmask : mask ≠ 0) (hpart : (mask == 2 ^ 64 - 1) = false) (hkey : s.keyNum key ≠ 0) (hgood : (homeBlock s (s.place pa) pa key).bad = false)

include hplain hmask hkey hgood

theorem storedAt_resident (hregion : ∃ die, regionOf pa = .hbm die) (hcached : (s.place pa).cached = true) {l : Line}
    (hl : s.lineOf (s.place pa) pa = some l) :
    StoredAt s (s.writeBlock pa key data mask tag ctag al) (s.place pa) pa key data mask ctag := by
  obtain ⟨d, st, z, written⟩ := writeBlock_resident (data := data) (tag := tag) (ctag := ctag) (al := al) hplain hmask hkey hregion hcached hl
  have l2 := congrArg State.l2 written
  have memory (q : Place) (b k : Nat) : (s.writeBlock pa key data mask tag ctag al).memBlock q b k = s.memBlock q b k := by
    rw [written]
    rfl
  generalize s.writeBlock pa key data mask tag ctag al = t at *
  have place : (storedLine l key data mask tag ctag z).pa = pa / 64 := (pa_of_lineOf hl :)
  have line := (lineOf_replaced hl hcached place l2).1
  rw [homeBlock_of_line hl] at hgood
  refine ⟨?_, fun q b k _ _ hb => homeBlock_congr (lineOf_replaced_other place hb l2) (memory q b k)⟩
  rw [homeBlock_of_line hl, homeBlock_of_line line]
  exact ⟨(congrArg (· && _) hgood).trans (Bool.false_and _), rfl, fun _ _ hgranule hset => getLsbD_mergeBits hgranule hset⟩

theorem storedAt_missing (hregion : ∃ die, regionOf pa = .hbm die) (hcached : (s.place pa).cached = true)
    (hl : s.lineOf (s.place pa) pa = none) (hroom : (Fm.get [] s.wbuf (sliceKey (s.place pa))).length < 32) (hdata : data < 2 ^ 512)
    (hsmall : mask < 2 ^ 64) : StoredAt s (s.writeBlock pa key data mask tag ctag al) (s.place pa) pa key data mask ctag := by
  obtain ⟨d, written⟩ := writeBlock_missing (data := data) (tag := tag) (ctag := ctag) (al := al) hplain hmask hkey hregion hcached hl hroom
  have line (q : Place) (b : Nat) : (s.writeBlock pa key data mask tag ctag al).lineOf q b = s.lineOf q b := by
    rw [written]
    rfl
  have dram (q : Place) (b k : Nat) : (s.writeBlock pa key data mask tag ctag al).dramBlock q.loc b k = s.dramBlock q.loc b k := by
    rw [written]
    rfl
  have wbuf := congrArg State.wbuf written
  generalize s.writeBlock pa key data mask tag ctag al = t at *
  rw [homeBlock_of_missing hl] at hgood
  constructor
  · rw [homeBlock_of_missing hl, homeBlock_of_missing ((line _ _).trans hl)]
    have merged := holds_mergeEntry (loc := (s.place pa).loc) (pa := pa / 64 * 64) (key := key) (tag := tag) (ctag := ctag) hgood hdata hsmall
    unfold State.memBlock at merged ⊢
    dsimp only at merged ⊢
    rw [if_pos hcached] at merged ⊢
    rw [if_pos hcached, wbuf, get_set_same, List.foldl_append, dram, List.foldl_cons, if_pos rfl, List.foldl_nil]
    exact merged
  · refine fun q b k _ hne _ => homeBlock_congr (line q b) ?_
    unfold State.memBlock
    dsimp only
    rw [dram]
    refine if_congr Iff.rfl ?_ rfl
    by_cases hslice : sliceKey (s.place pa) = sliceKey q
    · rw [wbuf, ← hslice, get_set_same, List.foldl_append, List.foldl_cons, if_neg fun h => hne (congrArg (· / 64) h).symm, List.foldl_nil]
    · rw [wbuf, get_set_other _ _ _ _ _ hslice]

include hpart

theorem storedAt_uncached (hregion : regionOf pa ≠ .nothing) (hcached : (s.place pa).cached = false) :
    StoredAt s (s.writeBlock pa key data mask tag ctag al) (s.place pa) pa key data mask ctag := by
  have written : s.writeBlock pa key data mask tag ctag al = s.dramWrite (s.place pa).loc pa key data mask tag ctag false := by
    unfold State.writeBlock
    dsimp only
    rw [maskSyncs_of_plain hplain, hcached, if_neg (not_or.2 ⟨hmask, hkey⟩)]
    cases hr : regionOf pa with
    | nothing => exact absurd hr hregion
    | _ => rfl
  have home (u : State) : homeBlock u (s.place pa) pa key = u.dramBlock (s.place pa).loc pa key := by
    unfold homeBlock State.lineOf State.memBlock
    rw [hcached]
    rfl
  rw [written]
  rw [home] at hgood
  constructor
  · rw [home, home]
    exact dramBlock_dramWrite_same hkey hmask hpart hgood
  · intro q b k haligned hne _
    have memory := dramWrite_eq (s := s) (loc := (s.place pa).loc) (data := data) (tag := tag) (ctag := ctag) hkey hmask hpart pa
    refine homeBlock_congr (by rw [memory]; rfl) ?_
    unfold State.memBlock
    dsimp only
    rw [dramBlock_dramWrite_other hkey hmask hpart (loc_aligned s pa) haligned hne, memory]

/-- A store of part of a block, wherever the block lies. -/
theorem storedAt_writeBlock (haligned : pa / 64 * 64 = pa) (hregion : regionOf pa ≠ .nothing)
    (hroom : (Fm.get [] s.wbuf (sliceKey (s.place pa))).length < 32) (hdata : data < 2 ^ 512) (hsmall : mask < 2 ^ 64) :
    StoredAt s (s.writeBlock pa key data mask tag ctag al) (s.place pa) pa key data mask ctag := by
  cases hcached : (s.place pa).cached with
  | false => exact storedAt_uncached hplain hmask hpart hkey hgood hregion hcached
  | true =>
    have hbm := region_of_cached (s := s) (pa := pa) (by rw [haligned]; exact hcached)
    rw [haligned] at hbm
    cases hl : s.lineOf (s.place pa) pa with
    | some l => exact storedAt_resident hplain hmask hkey hgood hbm hcached hl
    | none => exact storedAt_missing hplain hmask hkey hgood hbm hcached hl hroom hdata hsmall

end Store

end Sys2Proof.Laws
end

/-! # The bytes of a store, as they read -/

section

namespace Sys2Proof.Laws

open Sys2Proof Sys2Proof.Machine Sys2Proof.Claims

/-! ## Bytes in a block -/

section Bytes

variable {a n : Nat} (hsome : 0 < n) (hpart : n < 64) (hfit : a % 64 + n ≤ 64)

include hsome in
theorem bytesMask_ne_zero (o : Nat) : (2 ^ n - 1) * 2 ^ o ≠ 0 := by
  have some_ := Nat.pow_lt_pow_right (a := 2) (by decide) hsome
  exact Nat.mul_ne_zero (by omega) (Nat.two_pow_pos _).ne'

include hpart hfit in
theorem bytesMask_part : ((2 ^ n - 1) * 2 ^ (a % 64) == 2 ^ 64 - 1) = false := by
  refine beq_eq_false_iff_ne.2 fun h => ?_
  have bits (i : Nat) (hi : i < 64) : a % 64 ≤ i ∧ i < a % 64 + n := by
    have covered := testBit_bytes n (a % 64) i
    rw [h, Nat.testBit_two_pow_sub_one, decide_eq_true hi] at covered
    exact of_decide_eq_true covered.symm
  have first := bits 0 (by decide)
  have last := bits 63 (by decide)
  omega

include hfit

theorem bytesMask_lt : (2 ^ n - 1) * 2 ^ (a % 64) < 2 ^ 64 := by
  have pos := Nat.two_pow_pos n
  calc (2 ^ n - 1) * 2 ^ (a % 64) < 2 ^ n * 2 ^ (a % 64) := Nat.mul_lt_mul_of_pos_right (by omega) (Nat.two_pow_pos _)
    _ = 2 ^ (n + a % 64) := (Nat.pow_add ..).symm
    _ ≤ 2 ^ 64 := Nat.pow_le_pow_right (by decide) (by omega)

theorem bytesData_lt (x : Nat) : bits x 0 (8 * n) * 2 ^ (8 * (a % 64)) < 2 ^ 512 :=
  calc bits x 0 (8 * n) * 2 ^ (8 * (a % 64)) < 2 ^ (8 * n) * 2 ^ (8 * (a % 64)) :=
        Nat.mul_lt_mul_of_pos_right (Nat.mod_lt _ (Nat.two_pow_pos _)) (Nat.two_pow_pos _)
    _ = 2 ^ (8 * n + 8 * (a % 64)) := (Nat.pow_add ..).symm
    _ ≤ 2 ^ 512 := Nat.pow_le_pow_right (by decide) (by omega)

end Bytes

/-! ## A store of some bytes of a block -/

section Stored

variable {s t : State} {a key n x tag : Nat} {ctag : BitVec 4} {al : Alloc}

theorem peekBlock_of_other {pa b k : Nat} {p : Place} {data mask : Nat} (hmaps : SameMaps s t) (hkeys : t.keys = s.keys) (hsyncs : t.syncs = s.syncs)
    (hstored : StoredAt s t p pa key data mask ctag) (hplace : (s.place b).loc / 64 ≠ p.loc / 64) (hb : b / 64 ≠ pa / 64) :
    t.peekBlock b k = s.peekBlock b k := by
  have keyNum : t.keyNum k = s.keyNum k := by
    unfold State.keyNum
    rw [hkeys]
  rw [peekBlock_eq, peekBlock_eq, keyNum, place_of_sameMaps hmaps, hstored.other _ b k (loc_aligned s b) hplace hb]
  unfold shown State.withSyncs
  rw [hsyncs]

variable (hstorable : Storable s a key) (hsome : 0 < n) (hpart : n < 64) (hfit : a % 64 + n ≤ 64)
  (ht : t = s.writeBlock (a / 64 * 64) key (bits x 0 (8 * n) * 2 ^ (8 * (a % 64))) ((2 ^ n - 1) * 2 ^ (a % 64)) tag ctag al)

include hstorable hsome hpart hfit ht

theorem storedAt_of_storable : StoredAt s t (s.place (a / 64 * 64)) (a / 64 * 64) key (bits x 0 (8 * n) * 2 ^ (8 * (a % 64)))
    ((2 ^ n - 1) * 2 ^ (a % 64)) ctag := by
  obtain ⟨hregion, hkey, hplain, hgood, hroom⟩ := hstorable
  rw [ht]
  exact storedAt_writeBlock (fun e he => by rw [Nat.mul_div_cancel _ (by decide)]; exact hplain e he) (bytesMask_ne_zero hsome _)
    (bytesMask_part hpart hfit) hkey (homeBlock_good hregion hkey hgood) (by rw [Nat.mul_div_cancel _ (by decide)]) hregion
    (by rw [place_block]; omega) (bytesData_lt hfit x) (bytesMask_lt hfit)

/-- The block reads as before and after its home has it. -/
theorem holds_of_storable : Holds (s.peekBlock (a / 64 * 64) key) (t.peekBlock (a / 64 * 64) key) (bits x 0 (8 * n) * 2 ^ (8 * (a % 64)))
    ((2 ^ n - 1) * 2 ^ (a % 64)) ctag := by
  have own := (storedAt_of_storable hstorable hsome hpart hfit ht).own
  obtain ⟨hregion, hkey, hplain, hgood, -⟩ := hstorable
  have only := writesOnly_writeBlock s (a / 64 * 64) key (bits x 0 (8 * n) * 2 ^ (8 * (a % 64))) ((2 ^ n - 1) * 2 ^ (a % 64)) tag ctag al
  have maps := sameMaps_writeBlock s (a / 64 * 64) key (bits x 0 (8 * n) * 2 ^ (8 * (a % 64))) ((2 ^ n - 1) * 2 ^ (a % 64)) tag ctag al
  rw [← ht] at only maps
  have keyNum : t.keyNum key = s.keyNum key := (congrArg (fun u : State => u.keyNum key) only :)
  have syncs : t.syncs = s.syncs := (congrArg State.syncs only :)
  have plain : ∀ e ∈ s.syncs, e.1 / 4 ≠ a / 64 * 64 / 64 := fun e he => by
    rw [Nat.mul_div_cancel _ (by decide)]
    exact hplain e he
  have place := place_of_sameMaps maps (a / 64 * 64)
  rw [peekBlock_plain hregion hkey plain (homeBlock_good hregion hkey hgood),
    peekBlock_plain (s := t) hregion (by rw [keyNum]; exact hkey) (by rw [syncs]; exact plain) (by rw [place]; exact own.good), place]
  exact own

theorem bytesStored_writeBlock : BytesStored s t key a n fun i => x / 2 ^ (8 * i) % 256 := by
  have holds := holds_of_storable hstorable hsome hpart hfit ht
  have stored := storedAt_of_storable hstorable hsome hpart hfit ht
  have only := writesOnly_writeBlock s (a / 64 * 64) key (bits x 0 (8 * n) * 2 ^ (8 * (a % 64))) ((2 ^ n - 1) * 2 ^ (a % 64)) tag ctag al
  have maps := sameMaps_writeBlock s (a / 64 * 64) key (bits x 0 (8 * n) * 2 ^ (8 * (a % 64))) ((2 ^ n - 1) * 2 ^ (a % 64)) tag ctag al
  rw [← ht] at only maps
  refine ⟨fun b hb => ?_, fun b k hplace hb => ?_⟩
  · unfold byteAt
    rw [hb, holds.data, mergedData, byte_merged _ _ _ (Nat.mod_lt b (by decide)), testBit_bytes]
    by_cases hin : a ≤ b ∧ b < a + n
    · rw [if_pos hin, if_pos (decide_eq_true (by omega)), byte_placed _ (by omega), show b % 64 - a % 64 = b - a by omega]
    · rw [if_neg hin, if_neg (by rw [decide_eq_true_eq]; omega)]
  · refine peekBlock_of_other maps (congrArg State.keys only :) (congrArg State.syncs only :) stored ?_ ?_
    · rw [place_block, place_block]
      exact hplace
    · rwa [Nat.mul_div_cancel _ (by decide), Nat.mul_div_cancel _ (by decide)]

end Stored

theorem bytesStored_congr {s u t : State} {key a n : Nat} {f g : Nat → Nat} (hpeek : u.peekBlock = s.peekBlock) (hplace : u.place = s.place)
    (hbytes : ∀ i < n, f i = g i) (h : BytesStored u t key a n f) : BytesStored s t key a n g := by
  obtain ⟨own, other⟩ := h
  rw [hplace, hpeek] at other
  refine ⟨fun b hb => (own b hb).trans ?_, other⟩
  by_cases hin : a ≤ b ∧ b < a + n
  · rw [if_pos hin, if_pos hin, hbytes _ (by omega)]
  · rw [if_neg hin, if_neg hin, byteAt, hpeek, byteAt]

theorem onlyMemory_of_writesOnly {s t : State} (h : WritesOnly s t) : OnlyMemory s t := by
  rw [h]

/-- The low bytes of a number that was cut off above them. -/
theorem byte_mod (x : Nat) {n i : Nat} (hi : i < n) : x % 2 ^ (8 * n) / 2 ^ (8 * i) % 256 = x / 2 ^ (8 * i) % 256 := by
  have byte := byte_of_bits (x := x) (d := 0) hi
  rwa [bits, Nat.zero_add, Nat.mul_zero, Nat.pow_zero, Nat.div_one, show 256 ^ i = 2 ^ (8 * i) by rw [Nat.pow_mul]] at byte

/-! ## EXPORT_TABLE_WRITE (R395, R24) -/

/-- The store of a root capability's granule at `a`. -/
def rootStore (s : State) (a key cap : Nat) : Access :=
  { op := .write, addr := a, len := 16, data := cap % 2 ^ 128, ctags := 1, key := key, alloc := .engine, cls := 3, sid := 0xFFFF, issue := s.now }

theorem exportTableWrite_entry {s : State} {n : Nat} {e : Export} (h : s.arg = .exportEntry n e none) :
    exec .exportTableWrite s = .next { s with exports := Fm.set s.exports n e } := by
  show execExportTableWrite s = _
  unfold execExportTableWrite
  rw [h]

section Root

variable {s : State} {n : Nat} {e : Export} {pa key cap : Nat} (h : s.arg = .exportEntry n e (some (pa, key, cap)))

include h

theorem exec_exportTableWrite_root : exec .exportTableWrite s =
    .next (State.hwStore { s with exports := Fm.set s.exports n e } (rootStore s (pa / 16 * 16) key cap)) := by
  show execExportTableWrite s = _
  unfold execExportTableWrite
  rw [h]
  rfl

/-- A store that a domain holds joins the domain's replay buffer (R276). -/
theorem exec_exportTableWrite_held {d : Nat × Nat} (hheld : s.heldAt (pa / 16 * 16) = some d) : exec .exportTableWrite s =
    .next (State.holdAccess { s with exports := Fm.set s.exports n e } d (rootStore s (pa / 16 * 16) key cap)) := by
  have held : State.heldBy { s with exports := Fm.set s.exports n e } (rootStore s (pa / 16 * 16) key cap) = some d := hheld
  rw [exec_exportTableWrite_root h]
  unfold State.hwStore
  rw [held]

theorem exportTableWrite_held {d : Nat × Nat} (hheld : s.heldAt (pa / 16 * 16) = some d) :
    ∃ t x, exec .exportTableWrite s = .next t ∧ t.exports = Fm.set s.exports n e ∧ t.mem = s.mem ∧
      t.replays = s.replays ++ [x] ∧ (x.die, x.blk) = d ∧ x.addr = pa / 16 * 16 ∧ x.ins = .accessHomeCycle :=
  ⟨_, _, exec_exportTableWrite_held h hheld, rfl, rfl, rfl, rfl, rfl, rfl⟩

/-- A store of a granule has one block. -/
theorem exec_exportTableWrite_stored (hheld : s.heldAt (pa / 16 * 16) = none) : exec .exportTableWrite s =
    .next (State.writeBlock { s with exports := Fm.set s.exports n e } (pa / 16 * 16 / 64 * 64) key
      (bits (cap % 2 ^ 128) 0 (8 * 16) * 2 ^ (8 * (pa / 16 * 16 % 64))) ((2 ^ 16 - 1) * 2 ^ (pa / 16 * 16 % 64)) 0x7F00
      (BitVec.ofNat 4 (2 ^ (pa / 16 * 16 / 16 % 4))) .engine) := by
  have held : State.heldBy { s with exports := Fm.set s.exports n e } (rootStore s (pa / 16 * 16) key cap) = none := hheld
  have one : blockNum (pa / 16 * 16) 16 = 1 := by
    unfold blockNum
    rw [if_neg (by decide)]
    omega
  have block : blockAt (pa / 16 * 16) 16 0 = (pa / 16 * 16 / 64 * 64, pa / 16 * 16, 16) := by
    unfold blockAt
    simp only [Nat.add_zero, Prod.mk.injEq, true_and]
    omega
  have offset : pa / 16 * 16 - pa / 16 * 16 / 64 * 64 = pa / 16 * 16 % 64 := by omega
  have granule : bits 1 0 (cdiv 16 16) = 1 := by decide
  rw [exec_exportTableWrite_root h]
  unfold State.hwStore
  rw [held]
  unfold State.storeBlocks rootStore
  dsimp only
  rw [one, List.range_one, List.foldl_cons, List.foldl_nil]
  unfold State.storeBlock
  dsimp only
  rw [block]
  dsimp only
  rw [offset, Nat.sub_self, Nat.zero_div, granule, Nat.one_mul]

theorem exportTableWrite_stored (hheld : s.heldAt (pa / 16 * 16) = none) :
    let a := pa / 16 * 16
    ∃ t, exec .exportTableWrite s = .next t ∧ t.exports = Fm.set s.exports n e ∧ OnlyMemory { s with exports := t.exports } t ∧
      (Storable s a key → BytesStored s t key a 16 (fun i => cap / 2 ^ (8 * i) % 256) ∧
        (t.peekBlock (a / 64 * 64) key).ctag.getLsbD (a / 16 % 4) = true) := by
  intro a
  obtain ⟨u, hu⟩ : ∃ u, u = { s with exports := Fm.set s.exports n e } := ⟨_, rfl⟩
  obtain ⟨t, ht, step⟩ : ∃ t, t = u.writeBlock (a / 64 * 64) key (bits (cap % 2 ^ 128) 0 (8 * 16) * 2 ^ (8 * (a % 64))) ((2 ^ 16 - 1) * 2 ^ (a % 64))
      0x7F00 (BitVec.ofNat 4 (2 ^ (a / 16 % 4))) .engine ∧ exec .exportTableWrite s = .next t :=
    ⟨_, rfl, by rw [hu]; exact exec_exportTableWrite_stored h hheld⟩
  have only : WritesOnly u t := by
    rw [ht]
    exact writesOnly_writeBlock ..
  have exports : t.exports = Fm.set s.exports n e := (congrArg State.exports only).trans (congrArg State.exports hu)
  have fits : a % 64 + 16 ≤ 64 := by omega
  refine ⟨t, step, exports, ?_, fun hstorable => ?_⟩
  · rw [exports, ← hu]
    exact onlyMemory_of_writesOnly only
  have storable : Storable u a key := by
    rw [hu]
    exact hstorable
  constructor
  · have stored := bytesStored_writeBlock storable (by decide) (by decide) fits ht
    exact bytesStored_congr (by rw [hu]; rfl) (by rw [hu]; rfl) (fun i hi => byte_mod cap hi) stored
  · have holds := holds_of_storable storable (by decide) (by decide) fits ht
    refine holds.tags _ (Nat.mod_lt _ (by decide)) ?_ ?_
    · have offset : a % 64 = 16 * (a / 16 % 4) := by omega
      rw [getLsbD_granuleMask _ (Nat.mod_lt _ (by decide)), offset, bits, Nat.mul_div_cancel _ (Nat.two_pow_pos _)]
      rfl
    · rw [BitVec.getLsbD_ofNat, Nat.testBit_two_pow_self, decide_eq_true (Nat.mod_lt _ (by decide)), Bool.true_and]

end Root

/-! ## O41 -/

theorem linksAreAligned : LinksAreAligned :=
  ⟨fun _ _ _ => ⟨exportTableWrite_entry, fun _ _ _ h => ⟨exportTableWrite_stored h, fun _ hheld => exportTableWrite_held h hheld⟩⟩,
    fun _ hf => ⟨align_user hf, align_hub hf⟩, fun _ _ h => alignComplete_goesOn h,
    fun _ _ h => ⟨linkFailover_ignored h, fun halt hup => linkFailover_over h halt hup⟩⟩

/-- Settles O41: EXPORT_TABLE_WRITE, ALIGN and the failover by their equations, the granule of a root capability as a coherent read finds it wherever its block lies. -/
theorem linksCarryPackets : Obligations.LinksCarryPackets := ⟨linksAreAligned, flitsAreReceived⟩

end Sys2Proof.Laws
end

/-! # Element-wise words and words that place bits -/

section

namespace Sys2Proof.Laws

open Sys2Proof Sys2Proof.Machine Sys2Proof.Claims

/-! ## SHAPE (R147) -/

theorem exec_shape_user {s : State} {x : BitVec 18} (hu : ¬ OnHub s) :
    exec (.shape x) s = .next (if 4096 < shapeBytes x then s.illegal else withMine s { mine s with shape := x }) := by
  have user : ¬ isMgmt s.cur.sid = true := (isMgmt_iff s).not.2 hu
  exact congrArg Host.Outcome.next (if_neg user)

theorem shapeSetsGeometry : Claims.ShapeSetsGeometry := by
  intro s x hu
  refine ⟨fun fits => ?_, fun large => ?_⟩
  · have legal : ¬ 4096 < shapeBytes x := Nat.not_lt.2 fits
    rw [exec_shape_user hu, if_neg legal]
  · have illegal : 4096 < shapeBytes x := large
    rw [exec_shape_user hu, if_pos illegal]
    exact congrArg _ (fault_eq_faulted s 1)

/-! ## Illegal words of the VEC column (R37, R154) -/

theorem tilesOk_of_not_nameable {s : State} {l : List Nat} (h : ¬ Nameable s l) : s.tilesOk l = false := by
  simp only [Nameable, not_forall, not_lt] at h
  obtain ⟨hsplit, n, hn, high⟩ := h
  simp only [State.tilesOk, hsplit, Bool.and_true, Bool.not_eq_false', List.any_eq_true, decide_eq_true_eq]
  exact ⟨n, hn, high⟩

/-- On the hub, or where the core mode forbids a tile, the column is occupied and the word faults. -/
theorem vec_faults {s : State} {tiles : List Nat} {occ : Nat} {k : State → State} (hf : Free s)
    (h : OnHub s ∨ ¬ Nameable s tiles) : s.vec tiles occ k = .next (faulted (occupied s occ) 1) := by
  unfold State.vec
  rw [issue_of_free hf, ← fault_eq_faulted]
  unfold State.userOnly State.withTiles
  by_cases hub : OnHub s
  · rw [if_pos (show isMgmt (occupied s occ).cur.sid = true from (isMgmt_iff s).2 hub)]
    rfl
  · have forbidden : (occupied s occ).tilesOk tiles = false := tilesOk_of_not_nameable (s := occupied s occ) (h.resolve_left hub)
    rw [show isMgmt (occupied s occ).cur.sid = false from isMgmt_eq_false hub, if_neg Bool.false_ne_true]
    dsimp only
    rw [forbidden, if_neg Bool.false_ne_true]
    rfl

/-- The instruction is a word in the shell of the VEC column, which names the tiles and has the occupancy of `w`. -/
def InShell (s : State) (i : Instr) (w : TileWord) : Prop := ∃ k, exec i s = s.vec w.names w.occ k

theorem inShell_of_elementWord {s : State} {i : Instr} {w : TileWord} (h : elementWord s i = some w) : InShell s i w := by
  cases i with
  | vadd | vsub | vmul | vfma | vfms | vmin | vmax | vabs | vneg | vclamp =>
    cases h
    exact ⟨_, rfl⟩
  | _ => cases h

theorem inShell_of_bitsWord {s : State} {i : Instr} {w : TileWord} (h : bitsWord s i = some w) : InShell s i w := by
  cases i with
  | vand | vor | vxor | vnot | vshl | vshr | vsar | vsel | vmov | vfill | vbrow | vbcol | vperm | vrot | vpte =>
    cases h
    exact ⟨_, rfl⟩
  | vtrn v a k m =>
    obtain ⟨-, hw⟩ := Option.ite_none_right_eq_some.1 h
    cases hw
    exact ⟨_, rfl⟩
  | _ => cases h

theorem inShell_of_reductionWord {s : State} {i : Instr} {w : TileWord} (h : reductionWord s i = some w) : InShell s i w := by
  cases i with
  | vrsum | vrmax | vcsum | vcmax | vrdot =>
    cases h
    exact ⟨_, rfl⟩
  | _ => cases h

theorem inShell_of_convertWord {s : State} {i : Instr} {w : TileWord} (h : convertWord s i = some w) : InShell s i w := by
  cases i with
  | viota | vrcpa | vrsqa | vexp2 | vlog2 | vtanh =>
    cases h
    exact ⟨_, rfl⟩
  | vcvt v a t k m =>
    obtain ⟨-, hw⟩ := Option.ite_none_right_eq_some.1 h
    cases hw
    exact ⟨_, congrArg (fun occ => s.vec _ occ _) (slots_convert s t.toNat)⟩
  | vqnt v a n f =>
    obtain ⟨-, hw⟩ := Option.ite_none_right_eq_some.1 h
    cases hw
    exact ⟨_, congrArg (fun occ => s.vec _ occ _) (slots_convert s (quantType f.toNat))⟩
  | _ => cases h

theorem inShell_of_tileWord {s : State} {i : Instr} {w : TileWord} (h : tileWord s i = some w) : InShell s i w := by
  simp only [tileWord, Option.or_eq_some_iff] at h
  rcases h with h | ⟨-, h | ⟨-, h | ⟨-, h⟩⟩⟩
  · exact inShell_of_elementWord h
  · exact inShell_of_bitsWord h
  · exact inShell_of_reductionWord h
  · exact inShell_of_convertWord h

theorem vectorWordsFault : Claims.VectorWordsFault := by
  intro s i w hf hw h
  obtain ⟨k, shell⟩ := inShell_of_tileWord hw
  exact shell.trans (vec_faults hf h)

/-! ## Element-wise words (R156) -/

/-- An element-wise word: the operation on the elements of the sources it names, 0 for an operand it has not. -/
theorem elementwise_eq {s : State} {o : EwOp} {v a b : BitVec 5} {k : BitVec 3} {m : BitVec 2} (hf : Free s) (hu : ¬ OnHub s)
    (hn : Nameable s ([v.toNat, a.toNat] ++ if o.useB then [b.toNat] else [])) :
    s.elementwise o v a b k m = .next (tileDone s ⟨[v.toNat, a.toNat] ++ if o.useB then [b.toNat] else [], Claims.occB s,
      Claims.occB s + 3, v.toNat, typ s, mFb s m o.rounds, masked s k (if o.passD then v else a) fun i =>
        arith s m o.fi o.ff (elem s a.toNat i) (if o.useB then elem s b.toNat i else 0) (if o.passD then elem s v.toNat i else 0)⟩) := by
  have same := sameOperands_occupied s (Claims.occB s)
  have noted := sameOperands_markFallback same (mFb s m o.rounds)
  unfold State.elementwise
  rw [show s.occB = Claims.occB s from rfl, vec_issues hf hu hn]
  dsimp only
  rw [mFallback_sameOperands same, elemsOf_sameOperands same, elemsOf_sameOperands same, elemsOf_sameOperands same, occB_sameOperands noted,
    ty_sameOperands noted, act_sameOperands noted, cols_sameOperands noted, modeOf_sameOperands noted, ovinf_sameOperands noted]
  have second : ∀ i < count s, (if o.useB then (List.range (count s)).map (elem s b.toNat) else []).getD i 0 =
      if o.useB then elem s b.toNat i else 0 := by
    intro i hi
    cases o.useB with
    | true => exact getD_elems hi
    | false => rfl
  refine congrArg _ (vecOut_eq_tileDone rfl rfl rfl rfl ?_)
  cases o.passD with
  | true =>
    refine passThrough_elems s k v _ _ fun i hi => ?_
    rw [second i hi, if_pos rfl, if_pos rfl, getD_elems hi, getD_elems hi]
    rfl
  | false =>
    refine passThrough_elems s k a _ _ fun i hi => ?_
    rw [second i hi, getD_elems hi]
    rfl

theorem iAbs_eq : iAbs = fun x _ _ => if x < 0 then -x else x := by
  funext x _ _
  unfold iAbs
  split <;> omega

theorem elementwiseWords : Claims.ElementwiseWords := by
  intro s i w hf hu hw hn
  cases i with
  | vadd | vsub | vmul | vfma | vfms | vmin | vmax | vneg | vclamp =>
    cases hw
    exact elementwise_eq hf hu hn
  | vabs v a k m =>
    cases hw
    rw [← iAbs_eq]
    exact elementwise_eq hf hu hn
  | _ => cases hw

/-! ## Words on raw bits (R157) -/

/-- A word on raw bits: the operation on the elements of the sources it names, 0 for an operand it has not. -/
theorem bitwise_eq {s : State} {f : Nat → Nat → Nat → Nat} {useB : Bool} {v a b : BitVec 5} {k : BitVec 3} {m : BitVec 2} (hf : Free s)
    (hu : ¬ OnHub s) (hn : Nameable s ([v.toNat, a.toNat] ++ if useB then [b.toNat] else [])) :
    s.bitwise f useB v a b k m = .next (tileDone s ⟨[v.toNat, a.toNat] ++ if useB then [b.toNat] else [], Claims.occB s,
      Claims.occB s + 3, v.toNat, typ s, mFb s m false, masked s k a fun i =>
        (f (width s) (elem s a.toNat i) (if useB then elem s b.toNat i else 0), 0)⟩) := by
  have same := sameOperands_occupied s (Claims.occB s)
  have noted := sameOperands_markFallback same (mFb s m false)
  unfold State.bitwise
  rw [show s.occB = Claims.occB s from rfl, vec_issues hf hu hn]
  dsimp only
  rw [mFallback_sameOperands same, elemsOf_sameOperands same, elemsOf_sameOperands same, occB_sameOperands noted, ty_sameOperands noted,
    act_sameOperands noted, cols_sameOperands noted]
  refine congrArg _ (vecOut_eq_tileDone rfl rfl rfl rfl (passThrough_elems s k a _ _ fun i hi => ?_))
  rw [getD_elems hi]
  cases useB with
  | true => rw [if_pos rfl, if_pos rfl, getD_elems hi]; rfl
  | false => rfl

/-! ## Selection, broadcasts, moves and rearrangement (R159, R161, R162, R165, R167, R168) -/

/-- Two words that differ in no element of the shape leave the same state. -/
theorem tileDone_congr {s : State} {l : List Nat} {occ lat v t : Nat} {fb : Bool} {res res' : Nat → Nat × Nat}
    (h : ∀ i < count s, res i = res' i) : tileDone s ⟨l, occ, lat, v, t, fb, res⟩ = tileDone s ⟨l, occ, lat, v, t, fb, res'⟩ := by
  unfold tileDone
  dsimp only
  rw [List.map_congr_left fun i hi => h i (List.mem_range.1 hi)]

/-- A word that computes every element and takes no mask, whose element `i` depends on the operands only (R161, R167, R168). -/
theorem fillWith_res {s : State} {tiles src : List Nat} {v : BitVec 5} {k : BitVec 3} {m : BitVec 2} {rounds : Bool}
    {f : State → List Nat → Nat → Nat × Nat} {res : Nat → Nat × Nat} (hf : Free s) (hu : ¬ OnHub s) (hn : Nameable s tiles)
    (h : ∀ u, SameOperands s u → ∀ i < count s, f u (src.flatMap fun n => (List.range (count s)).map (elem s n)) i = res i) :
    s.fillWith tiles src v k m rounds f = .next (tileDone s ⟨tiles, Claims.occB s, Claims.occB s + 3, v.toNat, typ s,
      mFb s m rounds || k != 0, res⟩) :=
  (fillWith_eq hf hu hn).trans (congrArg _ (tileDone_congr (h _ (sameOperands_occupied s _))))

theorem gn_sameOperands {s u : State} (h : SameOperands s u) (g : BitVec 5) : u.me.gn g.toNat = (greg s (g.setWidth 6)).toNat :=
  congrArg BitVec.toNat (gr_sameOperands h g)

/-- What a place within the shape reads from the elements of the one source tile. -/
theorem getD_source {s : State} {a : BitVec 5} {i : Nat} (hi : i < count s) :
    ([a.toNat].flatMap fun n => (List.range (count s)).map (elem s n)).getD i 0 = elem s a.toNat i := by
  rw [List.flatMap_singleton]
  exact getD_elems hi

theorem rowCount_pos (s : State) : 0 < rowCount s := Nat.succ_pos _

/-- Row `r`, column `c` of the shape is an element (R148). -/
theorem cell_lt_count {s : State} {r c : Nat} (hr : r < rowCount s) (hc : c < columns s) : r * columns s + c < count s := by
  rw [Nat.mul_comm r]
  exact Nat.mul_add_lt_mul_of_lt_of_lt hr hc

theorem row_lt {s : State} {i : Nat} (hi : i < count s) : i / columns s < rowCount s :=
  Nat.div_lt_of_lt_mul (by rwa [Nat.mul_comm])

/-- A broadcast: each active element reads a place that depends on the operands only (R161). -/
theorem broadcast_eq {s : State} {v a : BitVec 5} {k : BitVec 3} {m : BitVec 2} {f : State → Nat → Nat} {place : Nat → Nat} (hf : Free s)
    (hu : ¬ OnHub s) (hn : Nameable s [v.toNat, a.toNat]) (hplace : ∀ u, SameOperands s u → ∀ i, f u i = place i)
    (hin : ∀ i < count s, place i < count s) :
    s.broadcast v a k m f = .next (tileDone s ⟨[v.toNat, a.toNat], Claims.occB s, Claims.occB s + 3, v.toNat, typ s, mFb s m false,
      masked s k a fun i => (elem s a.toNat (place i), 0)⟩) := by
  have same := sameOperands_occupied s (Claims.occB s)
  have noted := sameOperands_markFallback same (mFb s m false)
  unfold State.broadcast
  rw [show s.occB = Claims.occB s from rfl, vec_issues hf hu hn]
  dsimp only
  rw [mFallback_sameOperands same, elemsOf_sameOperands same, occB_sameOperands noted, ty_sameOperands noted, act_sameOperands noted,
    cols_sameOperands noted]
  refine congrArg _ (vecOut_eq_tileDone rfl rfl rfl rfl (passThrough_elems s k a _ _ fun i hi => ?_))
  rw [hplace _ noted, getD_elems (hin i hi)]

theorem execVsel_eq {s : State} {v a b : BitVec 5} {k : BitVec 3} {m : BitVec 2} {w : TileWord} (hf : Free s) (hu : ¬ OnHub s)
    (hw : bitsWord s (.vsel v a b k m) = some w) (hn : Nameable s w.names) : execVsel v a b k m s = .next (tileDone s w) := by
  cases hw
  replace hn : Nameable s [v.toNat, a.toNat, b.toNat] := hn
  have same := sameOperands_occupied s (Claims.occB s)
  have noted := sameOperands_markFallback same (mFb s m false)
  unfold execVsel
  rw [show s.occB = Claims.occB s from rfl, vec_issues hf hu hn]
  dsimp only
  rw [mFallback_sameOperands same, elemsOf_sameOperands same, elemsOf_sameOperands same, occB_sameOperands noted, ty_sameOperands noted,
    act_sameOperands noted, cols_sameOperands noted]
  refine congrArg _ (vecOut_eq_tileDone rfl rfl rfl rfl ?_)
  rw [passThrough_elems s k b _ (fun i => (elem s a.toNat i, 0)) fun i hi => by rw [getD_elems hi]]
  refine List.map_congr_left fun i _ => ?_
  unfold masked
  dsimp only
  split <;> rfl

theorem execVbrow_eq {s : State} {v a g : BitVec 5} {k : BitVec 3} {m : BitVec 2} {w : TileWord} (hf : Free s) (hu : ¬ OnHub s)
    (hw : bitsWord s (.vbrow v a g k m) = some w) (hn : Nameable s w.names) : execVbrow v a g k m s = .next (tileDone s w) := by
  cases hw
  refine broadcast_eq hf hu hn (fun u same i => ?_) fun i _ =>
    cell_lt_count (Nat.mod_lt _ (rowCount_pos s)) (Nat.mod_lt _ (columns_pos s))
  rw [gn_sameOperands same, rows_sameOperands same, cols_sameOperands same]

theorem execVbcol_eq {s : State} {v a g : BitVec 5} {k : BitVec 3} {m : BitVec 2} {w : TileWord} (hf : Free s) (hu : ¬ OnHub s)
    (hw : bitsWord s (.vbcol v a g k m) = some w) (hn : Nameable s w.names) : execVbcol v a g k m s = .next (tileDone s w) := by
  cases hw
  refine broadcast_eq hf hu hn (fun u same i => ?_) fun i hi => cell_lt_count (row_lt hi) (Nat.mod_lt _ (columns_pos s))
  rw [gn_sameOperands same, cols_sameOperands same]

theorem execVmov_eq {s : State} {v a : BitVec 5} {k : BitVec 3} {m : BitVec 2} {w : TileWord} (hf : Free s) (hu : ¬ OnHub s)
    (hw : bitsWord s (.vmov v a k m) = some w) (hn : Nameable s w.names) : execVmov v a k m s = .next (tileDone s w) := by
  cases hw
  exact fillWith_res hf hu hn fun _ _ i hi => congrArg (·, 0) (getD_source hi)

theorem execVfill_eq {s : State} {v g : BitVec 5} {k : BitVec 3} {m : BitVec 2} {w : TileWord} (hf : Free s) (hu : ¬ OnHub s)
    (hw : bitsWord s (.vfill v g k m) = some w) (hn : Nameable s w.names) : execVfill v g k m s = .next (tileDone s w) := by
  cases hw
  refine fillWith_res hf hu hn fun u same i _ => ?_
  rw [gn_sameOperands same, ty_sameOperands same]
  rfl

theorem execVperm_eq {s : State} {v a b : BitVec 5} {k : BitVec 3} {m : BitVec 2} {w : TileWord} (hf : Free s) (hu : ¬ OnHub s)
    (hw : bitsWord s (.vperm v a b k m) = some w) (hn : Nameable s w.names) : execVperm v a b k m s = .next (tileDone s w) := by
  cases hw
  refine fillWith_res hf hu hn fun u same i hi => ?_
  dsimp only
  rw [tile_sameOperands same, cols_sameOperands same, getD_source (cell_lt_count (row_lt hi) (Nat.mod_lt _ (columns_pos s)))]

theorem execVrot_eq {s : State} {v a g : BitVec 5} {k : BitVec 3} {m : BitVec 2} {w : TileWord} (hf : Free s) (hu : ¬ OnHub s)
    (hw : bitsWord s (.vrot v a g k m) = some w) (hn : Nameable s w.names) : execVrot v a g k m s = .next (tileDone s w) := by
  cases hw
  refine fillWith_res hf hu hn fun u same i hi => ?_
  have column : ∀ x : Int, (x % (columns s : Int)).toNat < columns s := fun x => by
    have := Int.emod_lt_of_pos x (Int.natCast_pos.2 (columns_pos s))
    have := columns_pos s
    omega
  dsimp only
  rw [gr_sameOperands same, cols_sameOperands same, getD_source (cell_lt_count (row_lt hi) (column _))]
  rfl

/-- The fallbacks of a word that rounds nothing and takes no mask (R100). -/
theorem fallbacks_sameOperands {s u : State} (h : SameOperands s u) (m : BitVec 2) (k : BitVec 3) :
    (u.mFallback m false).kFallback k = markFallback u (mFb s m false || k != 0) := by
  rw [mFallback_sameOperands h, State.kFallback, fallback_eq_markFallback, markFallback_markFallback]

/-- The place of element `i` of the transposed tile lies in the shape (R165). -/
theorem transposed_lt_count {s : State} {i : Nat} (hi : i < count s) : i % rowCount s * columns s + i / rowCount s < count s :=
  cell_lt_count (Nat.mod_lt _ (rowCount_pos s)) (Nat.div_lt_of_lt_mul hi)

theorem execVtrn_eq {s : State} {v a : BitVec 5} {k : BitVec 3} {m : BitVec 2} {w : TileWord} (hf : Free s) (hu : ¬ OnHub s)
    (hw : bitsWord s (.vtrn v a k m) = some w) (hn : Nameable s w.names) : execVtrn v a k m s = .next (tileDone s w) := by
  obtain ⟨fits, hw⟩ := Option.ite_none_right_eq_some.1 hw
  cases hw
  replace hn : Nameable s [v.toNat, a.toNat] := hn
  have same := sameOperands_occupied s (Claims.occB s)
  have noted := sameOperands_markFallback same (mFb s m false || k != 0)
  have legal : ¬ 64 < (occupied s (Claims.occB s)).cols := by
    rw [cols_sameOperands same]
    exact Nat.not_lt.2 fits
  unfold execVtrn
  rw [show s.occB = Claims.occB s from rfl, vec_issues hf hu hn, if_neg legal]
  dsimp only
  rw [fallbacks_sameOperands same, elemsOf_sameOperands same, occB_sameOperands noted, ty_sameOperands noted,
    rows_sameOperands noted, cols_sameOperands noted, shapeCount_sameOperands noted]
  refine congrArg _ (vecOut_eq_tileDone rfl rfl rfl rfl (List.map_congr_left fun i hi => ?_))
  rw [getD_elems (transposed_lt_count (List.mem_range.1 hi))]

theorem execVpte_eq {s : State} {v a b : BitVec 5} {k : BitVec 3} {m : BitVec 2} {w : TileWord} (hf : Free s) (hu : ¬ OnHub s)
    (hw : bitsWord s (.vpte v a b k m) = some w) (hn : Nameable s w.names) : execVpte v a b k m s = .next (tileDone s w) := by
  cases hw
  have same := sameOperands_occupied s 1
  have noted := sameOperands_markFallback same (mFb s m false || k != 0)
  unfold execVpte
  rw [vec_issues hf hu hn]
  dsimp only
  rw [fallbacks_sameOperands same, elemsOf_sameOperands same, ty_sameOperands noted, ty_sameOperands same,
    gn_sameOperands same, gn_sameOperands same, shapeCount_sameOperands same, zipIdx_elems]
  exact congrArg _ (vecOut_eq_tileDone rfl rfl rfl rfl rfl)

theorem bitPlacingWords : Claims.BitPlacingWords := by
  intro s i w hf hu hw hn
  cases i with
  | vand | vor | vxor | vnot | vshl | vshr | vsar =>
    cases hw
    exact bitwise_eq hf hu hn
  | vsel => exact execVsel_eq hf hu hw hn
  | vmov => exact execVmov_eq hf hu hw hn
  | vfill => exact execVfill_eq hf hu hw hn
  | vbrow => exact execVbrow_eq hf hu hw hn
  | vbcol => exact execVbcol_eq hf hu hw hn
  | vperm => exact execVperm_eq hf hu hw hn
  | vrot => exact execVrot_eq hf hu hw hn
  | vtrn => exact execVtrn_eq hf hu hw hn
  | vpte => exact execVpte_eq hf hu hw hn
  | _ => cases hw

/-- Settles O10, from what each shell of the VEC column gives and from the words that fault in it. -/
theorem elementwiseTileWords : Obligations.ElementwiseTileWords :=
  ⟨shapeSetsGeometry, vectorWordsFault, elementwiseWords, bitPlacingWords⟩

end Sys2Proof.Laws
end

/-! # Compares, mask, element and ring words, zips -/

section

namespace Sys2Proof.Laws

open Sys2Proof Sys2Proof.Machine Sys2Proof.Claims

/-- A landing of a word that noted a fallback after it issued. -/
theorem land_markFallback (s : State) (occ lat : Nat) (fb : Bool) (l : List Land) :
    (markFallback (occupied s occ) fb).land lat l = markFallback (issued s occ lat l) fb := rfl

theorem mFb_of_exact (s : State) (m : BitVec 2) : mFb s m false = (m != 0) := Bool.and_true _

/-! ## Compares (R158) -/

/-- What `State.vcompare` finds of two active elements of type `t`. -/
def comparison (t o x y : Nat) : Bool × Nat :=
  let c := cmpVals o (decodeVal t x) (decodeVal t y)
  (c.1, c.2 ||| decodeFlags t x ||| decodeFlags t y)

theorem comparison_eq_compared (s : State) (o : Nat) (a b : BitVec 5) (i : Nat) :
    comparison (typ s) o (elem s a.toNat i) (elem s b.toNat i) = compared s o a b i := by
  unfold comparison compared cmpVals
  dsimp only
  rw [Nat.or_assoc]
  split
  · simp [nanFlags, flagNV]
  · match o with
    | 0 | 1 | _ + 2 => simp

/-- What a compare finds at each position, read from the lists of the elements (R158). -/
theorem comparisons (s : State) (o : Nat) (a b : BitVec 5) (k : BitVec 3) :
    ((List.range (count s)).map fun i =>
      if activeAt (maskOf s k.toNat) (columns s) i then
        comparison (typ s) o (((List.range (count s)).map (elem s a.toNat)).getD i 0) (((List.range (count s)).map (elem s b.toNat)).getD i 0)
      else (false, 0)) = (List.range (count s)).map fun i => if active s k i then compared s o a b i else (false, 0) := by
  refine List.map_congr_left fun i hi => ?_
  rw [getD_elems (List.mem_range.1 hi), getD_elems (List.mem_range.1 hi), comparison_eq_compared]
  rfl

theorem vcompare_eq {s : State} {o : Nat} {v : BitVec 3} {a b : BitVec 5} {k : BitVec 3} {m : BitVec 2} (hf : Free s) (hu : ¬ OnHub s)
    (hn : Nameable s [a.toNat, b.toNat]) :
    let l := (List.range (count s)).map fun i => if active s k i then compared s o a b i else (false, 0)
    s.vcompare o v a b k m = .next (markFallback (issued s (Claims.occB s) (Claims.occB s + 3)
      (maskLand v.toNat (rowCount s) (columns s) (l.map (·.1)) :: flagLands (l.foldl (fun f e => f ||| e.2) 0))) (m != 0)) := by
  have same := sameOperands_occupied s (Claims.occB s)
  have noted := sameOperands_markFallback same (m != 0)
  unfold State.vcompare
  rw [show s.occB = Claims.occB s from rfl, vec_issues hf hu hn]
  dsimp only
  rw [mFallback_sameOperands same, mFb_of_exact, elemsOf_sameOperands same, elemsOf_sameOperands same, shapeCount_sameOperands noted,
    act_sameOperands noted, cols_sameOperands noted, ty_sameOperands noted, occB_sameOperands noted, rows_sameOperands noted,
    land_markFallback, ← comparisons]
  rfl

theorem vectorCompares : Claims.VectorCompares := by
  intro s i o v a b k m hf hu hw hn
  cases i with
  | vcmpeq | vcmplt | vcmple =>
    cases hw
    exact vcompare_eq hf hu hn
  | _ => cases hw

/-! ## VMSKOP, VGTE and VAMX (R160, R162, R170) -/

theorem exec_vmskop {s : State} {o : BitVec 2} {v a b k : BitVec 3} {m : BitVec 2} (hf : Free s) (hu : ¬ OnHub s) :
    exec (.vmskop o v a b k m) s = .next (markFallback (issued s 1 4 [.mask v.toNat (maskOp o (maskOf s a.toNat) (maskOf s b.toNat))
      (BitVec.ofNat 16384 (shapeMask (rowCount s) (columns s)))]) (m != 0 || k != 0)) := by
  have same := sameOperands_occupied s 1
  have noted := sameOperands_markFallback same (m != 0 || k != 0)
  have masks (x : BitVec 3) : (occupied s 1).me.mr x.toNat = maskOf s x.toNat := act_sameOperands same x
  show execVmskop o v a b k m s = _
  unfold execVmskop
  rw [vec_issues hf hu (fun _ _ h => absurd h List.not_mem_nil)]
  dsimp only
  rw [fallbacks_sameOperands same, mFb_of_exact, masks, masks, rows_sameOperands noted, cols_sameOperands noted, land_markFallback]

theorem typeBits_le (t : Nat) : typeBits t ≤ 64 := by
  by_cases small : t < 16
  · have table : ∀ t < 16, typeBits t ≤ 64 := by decide
    exact table t small
  · rw [typeBits, List.getD_eq_default _ _ (Nat.not_lt.1 small)]
    decide

theorem elem_lt (s : State) (n i : Nat) : elem s n i < 2 ^ width s := Nat.mod_lt _ (Nat.two_pow_pos _)

/-- An element of an integer type extended by its sign, one of any other type by zeros (R162). -/
theorem extended_eq {t x : Nat} (hx : x < 2 ^ typeBits t) : BitVec.ofInt 64 (if isInt t then elemInt t x else x) =
    if isSigned t then (BitVec.ofNat (typeBits t) x).signExtend 64 else BitVec.ofNat 64 x := by
  cases signed : isSigned t with
  | true =>
    have int : isInt t = true := by
      simp only [isSigned, Bool.or_eq_true, beq_iff_eq] at signed
      exact decide_eq_true (by omega)
    have word : (BitVec.ofNat 64 x).toNat = x :=
      Nat.mod_eq_of_lt (hx.trans_le (Nat.pow_le_pow_right (by decide) (typeBits_le t)))
    have sign := sgn_eq_toInt (BitVec.ofNat 64 x) (typeBits t)
    rw [word, BitVec.setWidth_ofNat_of_le (typeBits_le t)] at sign
    rw [if_pos int, if_pos rfl, elemInt, if_pos signed, sign]
    rfl
  | false =>
    have value : (if isInt t then elemInt t x else x) = (x : Int) := by
      rw [elemInt, signed, if_neg Bool.false_ne_true, Nat.mod_eq_of_lt hx, ite_self]
    rw [value, if_neg Bool.false_ne_true, BitVec.ofInt_natCast]

theorem count_pos (s : State) : 0 < count s := Nat.mul_pos (rowCount_pos s) (columns_pos s)

theorem exec_vgte {s : State} {g a b : BitVec 5} {k : BitVec 3} {m : BitVec 2} (hf : Free s) (hu : ¬ OnHub s)
    (hn : Nameable s [a.toNat]) :
    let x := elem s a.toNat ((greg s (b.setWidth 6)).toNat % count s)
    exec (.vgte g a b k m) s = .next (markFallback (issued s 1 4 [.g g.toNat
      (if isSigned (typ s) then (BitVec.ofNat (width s) x).signExtend 64 else BitVec.ofNat 64 x)]) (m != 0 || k != 0)) := by
  have same := sameOperands_occupied s 1
  have noted := sameOperands_markFallback same (m != 0 || k != 0)
  show execVgte g a b k m s = _
  unfold execVgte
  rw [vec_issues hf hu hn]
  dsimp only
  rw [fallbacks_sameOperands same, mFb_of_exact,
    elemsOf_sameOperands same, gn_sameOperands same, shapeCount_sameOperands same, getD_elems (Nat.mod_lt _ (count_pos s)),
    ty_sameOperands noted, extended_eq (elem_lt s _ _), land_markFallback]
  rfl

/-- The elements at the numbers that `p` picks. -/
theorem picked_elems (n : Nat) (f : Nat → Nat) (p : Nat → Bool) :
    ((((List.range n).map f).zipIdx).filter fun e => p e.2).map (·.1) = ((List.range n).filter p).map f := by
  have pairs : ((List.range n).map f).zipIdx = (List.range n).map fun i => (f i, i) := by simpa using zipIdx_elems n f id
  rw [pairs, List.filter_map, List.map_map]
  rfl

theorem exec_vamx {s : State} {n : BitVec 4} {a : BitVec 5} {k : BitVec 3} (hf : Free s) (hu : ¬ OnHub s) (hn : Nameable s [a.toNat]) :
    let l := ((List.range (count s)).filter (active s k)).map (elem s a.toNat)
    exec (.vamx n a k) s = .next (issued s (Claims.occB s) (Claims.occB s + 3) (.ring n.toNat (absMax (typ s) l).1 ::
      flagLands (l.foldl (fun f x => f ||| decodeFlags (typ s) x) (absMax (typ s) l).2))) := by
  have same := sameOperands_occupied s (Claims.occB s)
  show execVamx n a k s = _
  unfold execVamx
  rw [show s.occB = Claims.occB s from rfl, vec_issues hf hu hn]
  dsimp only
  rw [elemsOf_sameOperands same, act_sameOperands same, cols_sameOperands same, ty_sameOperands same, occB_sameOperands same, picked_elems]
  rfl

theorem maskElementAndRingWords : Claims.MaskElementAndRingWords := fun _ hf hu =>
  ⟨fun _ _ _ _ _ _ => exec_vmskop hf hu, fun _ _ _ _ _ hn => exec_vgte hf hu hn, fun _ _ _ hn => exec_vamx hf hu hn⟩

/-! ## Zips (R166) -/

/-- Lists of `c` elements one after the other: place `x` is element `x mod c` of list `x ÷ c`. -/
theorem getD_concatenated {c n x : Nat} (f : Nat → Nat → Nat) (hx : x < n * c) :
    ((List.range n).flatMap fun j => (List.range c).map (f j)).getD x 0 = f (x / c) (x % c) := by
  induction n with
  | zero => omega
  | succ n ih =>
    have length : ((List.range n).flatMap fun j => (List.range c).map (f j)).length = n * c := by simp
    rw [List.range_succ, List.flatMap_append, List.flatMap_singleton]
    by_cases inside : x < n * c
    · rw [List.getD_append _ _ _ _ (length.symm ▸ inside)]
      exact ih inside
    · have last : x - n * c < c := by rw [Nat.succ_mul] at hx; omega
      obtain ⟨y, rfl⟩ : ∃ y, x = y + n * c := ⟨x - n * c, by omega⟩
      rw [Nat.add_sub_cancel] at last
      rw [List.getD_append_right _ _ _ _ (length.symm ▸ Nat.not_lt.1 inside), length, Nat.add_sub_cancel, getD_elems last,
        Nat.add_mul_div_right _ _ (by omega), Nat.add_mul_mod_self_right, Nat.div_eq_of_lt last, Nat.mod_eq_of_lt last, Nat.zero_add]

theorem nameable_span {s : State} {v a n : Nat} (h : Nameable s [v + n - 1, a + n - 1]) : Nameable s (span v n ++ span a n) := by
  intro hsplit t ht
  have ends := h hsplit
  simp only [List.mem_cons, List.not_mem_nil, or_false, forall_eq_or_imp, forall_eq] at ends
  simp only [span, List.mem_append, List.mem_map, List.mem_range] at ht
  omega

/-- A word that interleaves `n` tiles, each element from a place of the concatenated sources (R166). -/
theorem zip_eq {s : State} {n : Nat} {v a : BitVec 5} {k : BitVec 3} {m : BitVec 2} {f : Nat → Nat → Nat} (hf : Free s) (hu : ¬ OnHub s)
    (hv : v.toNat + n ≤ 32) (ha : a.toNat + n ≤ 32) (hn : Nameable s [v.toNat + n - 1, a.toNat + n - 1])
    (hin : ∀ i < n * count s, f (count s) i < n * count s) :
    s.zip n v a k m f = .next (markFallback (issued s (n * Claims.occB s) (n * Claims.occB s + 3) ((List.range n).map fun j =>
      tileLand (v.toNat + j) (typ s) ((List.range (count s)).map fun e =>
        let x := f (count s) (j * count s + e)
        elem s (a.toNat + x / count s) (x % count s)))) (m != 0 || k != 0)) := by
  have same := sameOperands_occupied s (n * Claims.occB s)
  have noted := sameOperands_markFallback same (m != 0 || k != 0)
  have legal : ¬ (31 < a.toNat + n - 1 ∨ 31 < v.toNat + n - 1) := by omega
  have source : (span a.toNat n).flatMap (occupied s (n * Claims.occB s)).elemsOf =
      (List.range n).flatMap fun j => (List.range (count s)).map (elem s (a.toNat + j)) := by
    rw [span, List.flatMap_map, funext (elemsOf_sameOperands same)]
  unfold State.zip
  rw [show s.occB = Claims.occB s from rfl, vec_issues hf hu (nameable_span hn), if_neg legal]
  dsimp only
  rw [source, fallbacks_sameOperands same, mFb_of_exact, occB_sameOperands noted, ty_sameOperands noted, shapeCount_sameOperands same,
    land_markFallback]
  refine congrArg (fun l => Host.Outcome.next (markFallback (issued s _ _ l) _)) (List.map_congr_left fun j hj => ?_)
  refine congrArg (tileLand _ _) (List.map_congr_left fun e he => ?_)
  have place : j * count s + e < n * count s := by
    rw [Nat.mul_comm j]
    exact Nat.mul_add_lt_mul_of_lt_of_lt (List.mem_range.1 hj) (List.mem_range.1 he)
  exact getD_concatenated (fun j => elem s (a.toNat + j)) (hin _ place)

/-- The sources of a zip lie among its `k` tiles of `c` elements. -/
theorem zipFrom_lt {k c i : Nat} (h : i < k * c) : zipFrom k c i < k * c := by
  have pos : 0 < k := Nat.pos_of_ne_zero fun hk => by rw [hk, Nat.zero_mul] at h; omega
  rw [zipFrom, Nat.mul_comm (i % k)]
  exact Nat.mul_add_lt_mul_of_lt_of_lt (Nat.mod_lt _ pos) (Nat.div_lt_of_lt_mul h)

/-- An unzip takes its elements from where a zip with the counts exchanged does. -/
theorem unzipFrom_lt {k c i : Nat} (h : i < k * c) : unzipFrom k c i < k * c := by
  rw [Nat.mul_comm] at h ⊢
  exact zipFrom_lt h

theorem zipsAndUnzips : Claims.ZipsAndUnzips := by
  intro s i n v a k m f hf hu hw hv ha hn
  cases i with
  | vzip2 | vzip3 | vzip4 =>
    cases hw
    exact zip_eq hf hu hv ha hn fun _ => zipFrom_lt
  | vunz2 | vunz3 | vunz4 =>
    cases hw
    exact zip_eq hf hu hv ha hn fun _ => unzipFrom_lt
  | _ => cases hw

/-- Settles O12, from the result of each compare, mask, element and ring word, and the sources of each zip. -/
theorem maskAndRingTileWords : Obligations.MaskAndRingTileWords := ⟨vectorCompares, maskElementAndRingWords, zipsAndUnzips⟩

end Sys2Proof.Laws
end

/-! # The events of a step, in the order of the cycle -/

section

namespace Sys2Proof.Laws

open Sys2Proof Sys2Proof.Machine Sys2Proof.Claims

/-! ## The first event in the order of the agenda (R178, R245) -/

/-- `e` comes no later than `f` in the order of the agenda. -/
def Precedes (e f : Ev) : Prop := evLt f e = false

theorem precedes_iff (e f : Ev) : Precedes e f ↔
    e.cyc < f.cyc ∨ (e.cyc = f.cyc ∧ (e.cls < f.cls ∨ (e.cls = f.cls ∧ e.key ≤ f.key))) := by
  unfold Precedes evLt
  simp only [Bool.or_eq_false_iff, Bool.and_eq_false_iff, decide_eq_false_iff_not, beq_eq_false_iff_ne]
  omega

theorem Precedes.refl (e : Ev) : Precedes e e := by
  rw [precedes_iff]
  omega

theorem Precedes.trans {e f g : Ev} (h : Precedes e f) (k : Precedes f g) : Precedes e g := by
  rw [precedes_iff] at *
  omega

theorem precedes_of_evLt {e f : Ev} (h : evLt e f = true) : Precedes e f := by
  rw [precedes_iff]
  simp only [evLt, Bool.or_eq_true, Bool.and_eq_true, decide_eq_true_eq, beq_iff_eq] at h
  omega

/-- An event of a list that meets `p`, with its place, the list counted from `i`. -/
def Meeting (p : Ev → Bool) (l : List Ev) (i : Nat) (x : Nat × Ev) : Prop := ∃ k, x.1 = i + k ∧ l[k]? = some x.2 ∧ p x.2 = true

theorem Meeting.tail {p : Ev → Bool} {e : Ev} {r : List Ev} {i : Nat} {x : Nat × Ev} (h : Meeting p r (i + 1) x) : Meeting p (e :: r) i x := by
  obtain ⟨k, hk, hx⟩ := h
  exact ⟨k + 1, by omega, hx⟩

/-- The scan keeps the first in order of what it began with and the events that it has passed. -/
theorem pickEv_first {p : Ev → Bool} {x : Nat × Ev} : ∀ {l : List Ev} {i : Nat} {b : Option (Nat × Ev)}, pickEv p l i b = some x →
    (b = some x ∨ Meeting p l i x) ∧ (∀ y, b = some y → Precedes x.2 y.2) ∧ ∀ f ∈ l, p f = true → Precedes x.2 f
  | [], i, b, h => by
    cases h
    exact ⟨.inl rfl, fun y hy => by cases hy; exact .refl _, fun f hf => absurd hf List.not_mem_nil⟩
  | e :: r, i, b, h => by
    unfold pickEv at h
    obtain ⟨held, least, passed⟩ := pickEv_first h
    have own (hp : p e = true) : Meeting p (e :: r) i (i, e) := ⟨0, rfl, rfl, hp⟩
    cases hp : p e with
    | false =>
      rw [hp] at held least
      exact ⟨held.imp_right .tail, least, List.forall_mem_cons.2 ⟨fun k => absurd (hp.symm.trans k) (by decide), passed⟩⟩
    | true =>
      rw [hp] at held least
      cases b with
      | none =>
        refine ⟨.inr (held.elim (fun k => ?_) .tail), fun _ k => absurd k (by simp), List.forall_mem_cons.2 ⟨fun _ => least _ rfl, passed⟩⟩
        cases k
        exact own hp
      | some y =>
        cases hlt : evLt e y.2 with
        | true =>
          simp only [if_true, hlt] at held least
          have first := least _ rfl
          refine ⟨.inr (held.elim (fun k => ?_) .tail), fun z hz => ?_, List.forall_mem_cons.2 ⟨fun _ => first, passed⟩⟩
          · cases k
            exact own hp
          · cases hz
            exact first.trans (precedes_of_evLt hlt)
        | false =>
          simp only [if_true, hlt, Bool.false_eq_true, if_false] at held least
          have first := least _ rfl
          exact ⟨held.imp_right .tail, fun z hz => by cases hz; exact first, List.forall_mem_cons.2 ⟨fun _ => first.trans hlt, passed⟩⟩

/-- What an event taken from the agenda is, and what is left (R178). -/
theorem popEvent_some {s t : State} {lo hi : Nat} {e : Ev} (h : s.popEvent lo hi = some (e, t)) :
    t = { s with agenda := t.agenda, arg := e.arg } ∧ e ∈ s.agenda ∧ e.cyc ≤ s.now ∧ lo ≤ e.cls ∧ e.cls ≤ hi ∧
      t.agenda.length + 1 = s.agenda.length ∧ ∀ x ∈ s.agenda, x.cyc ≤ s.now → lo ≤ x.cls → x.cls ≤ hi → Precedes e x := by
  unfold State.popEvent at h
  split at h
  · cases h
  · next i x hpick =>
    cases h
    obtain ⟨held, -, first⟩ := pickEv_first hpick
    obtain ⟨k, hk, hget, hmeets⟩ := held.resolve_left (by simp)
    rw [Nat.zero_add] at hk
    subst hk
    obtain ⟨hlt, hx⟩ := List.getElem?_eq_some_iff.1 hget
    simp only [Bool.and_eq_true, decide_eq_true_eq] at hmeets
    obtain ⟨⟨hdue, hlo⟩, hhi⟩ := hmeets
    refine ⟨rfl, List.mem_of_getElem? hget, hdue, hlo, hhi, ?_, fun y hy h1 h2 h3 => first y hy (by simp [h1, h2, h3])⟩
    show (s.agenda.eraseIdx _).length + 1 = _
    rw [List.length_eraseIdx_of_lt hlt]
    have : 0 < s.agenda.length := Nat.zero_lt_of_lt hlt
    omega

/-! ## The passage to the next cycle -/

theorem firstCycle_none {l : List Ev} (h : firstCycle l = none) : l = [] := by
  cases l with
  | nil => rfl
  | cons e r =>
    unfold firstCycle at h
    split at h <;> cases h

theorem firstCycle_le {l : List Ev} {c : Nat} (h : firstCycle l = some c) : ∀ e ∈ l, c ≤ e.cyc := by
  induction l generalizing c with
  | nil => exact fun e he => absurd he List.not_mem_nil
  | cons a r ih =>
    unfold firstCycle at h
    split at h
    · next hr =>
      cases h
      rw [firstCycle_none hr]
      simp
    · next k hr =>
      cases h
      exact List.forall_mem_cons.2 ⟨Nat.min_le_left _ _, fun e he => (Nat.min_le_right _ _).trans (ih hr e he)⟩

theorem nextCycle_later (s : State) : s.now < s.nextCycle := by
  unfold State.nextCycle
  split
  · exact Nat.lt_succ_self _
  · split
    · exact Nat.le_max_right _ _
    · exact Nat.lt_succ_self _

/-- No event is passed over when the next cycle begins. -/
theorem nextCycle_le {s : State} {e : Ev} (he : e ∈ s.agenda) (hlater : s.now < e.cyc) : s.nextCycle ≤ e.cyc := by
  unfold State.nextCycle
  split
  · exact hlater
  · split
    · next c hc => exact Nat.max_le.2 ⟨firstCycle_le hc e he, hlater⟩
    · exact hlater

theorem tick_passes (s : State) : (s.stopped = true ∧ s.agenda = [] ∧ s.tick = .fault .moduleStopped) ∨
    ∃ c, s.tick = .next { s with now := c } ∧ s.now < c ∧ ∀ e ∈ s.agenda, s.now < e.cyc → c ≤ e.cyc := by
  unfold State.tick
  by_cases h : s.over = true
  · rw [if_pos h]
    simp only [State.over, Bool.and_eq_true, List.isEmpty_iff] at h
    exact .inl ⟨h.1.1, h.1.2, rfl⟩
  · rw [if_neg h]
    exact .inr ⟨_, rfl, nextCycle_later s, fun e he hlater => nextCycle_le he hlater⟩

/-! ## O54 -/

theorem step_of_event {s t : State} {e : Ev} (hpop : (ready s).popEvent 0 2 = some (e, t)) : step s = exec e.ins t := by
  unfold ready at hpop
  simp only [step, hpop]

theorem step_of_join {s : State} {sid : Nat} (hpop : (ready s).popEvent 0 2 = none) (hjoin : (ready s).nextJoin = some sid) :
    step s = exec .iterationBoundary { ready s with arg := .seq sid } := by
  unfold ready at *
  simp only [step, hpop, hjoin]

theorem step_of_starved {s : State} {sid : Nat} {e : QWord} (hpop : (ready s).popEvent 0 2 = none) (hjoin : (ready s).nextJoin = none)
    (hword : (ready s).nextWordOf exec (ready s).seqs = some (sid, e, true)) :
    step s = exec .fetchStarvation { ready s with arg := .seqN sid e.fo } := by
  unfold ready at *
  simp only [step, hpop, hjoin, hword, stepWord, if_true]

section NoWord

variable {s : State} (hpop : (ready s).popEvent 0 2 = none) (hjoin : (ready s).nextJoin = none)
  (hword : (ready s).nextWordOf exec (ready s).seqs = none)

include hpop hjoin hword

theorem step_of_late_event {e : Ev} {t : State} (hlate : (ready s).popEvent 3 9 = some (e, t)) : step s = exec e.ins t := by
  unfold ready at *
  simp only [step, hpop, hjoin, hword, hlate]

theorem step_of_nothing (hlate : (ready s).popEvent 3 9 = none) : step s = (ready s).tick := by
  unfold ready at *
  simp only [step, hpop, hjoin, hword, hlate]

end NoWord

/-- Settles O54: what each kind of step takes, from the scan of the agenda and from the passage to the next cycle. -/
theorem stepRunsDueEvents : Obligations.StepRunsDueEvents := by
  intro s u
  refine ⟨fun e t hpop => ?_, fun sid hpop hjoin => step_of_join hpop hjoin, fun sid e hpop hjoin hword => step_of_starved hpop hjoin hword,
    fun hpop hjoin hword => ⟨fun e t hlate => ?_, fun hlate => ?_⟩⟩
  · obtain ⟨ht, hmem, hdue, -, hcls, hlen, first⟩ := popEvent_some hpop
    refine ⟨step_of_event hpop, ht, hmem, hdue, hcls, fun x hx hxcls => ?_, hlen⟩
    by_cases hxdue : x.cyc ≤ u.now
    · have := (precedes_iff e x).1 (first x hx hxdue (Nat.zero_le _) hxcls)
      omega
    · omega
  · obtain ⟨ht, hmem, hdue, -⟩ := popEvent_some hlate
    exact ⟨step_of_late_event hpop hjoin hword hlate, ht, hmem, hdue⟩
  · rw [step_of_nothing hpop hjoin hword hlate]
    exact tick_passes u

end Sys2Proof.Laws
end

/-! # The class of a request that waits for its grant -/

section

namespace Sys2Proof.Laws

open Sys2Proof Sys2Proof.Machine Sys2Proof.Claims

/-! ## ACQ without try in untimed mode

`Claims.AcquireRequests` says of the access that an ACQ without try sends what `sent` says of every access, with no class of its own, which
is class 0. Nothing is promised of such a request (R194), and the model sends it with class 3. -/

/-- Sequencer 0 in untimed mode, with a handle of PERM atomic in h0. -/
def acquiringUntimed : State := { seqs := [(0, { ut := true, h := [(0, { v := true, perm := 4 })] })] }

/-- The classes of the accesses on an agenda. -/
def classesOf (l : List Ev) : List Nat := l.filterMap fun e => match e.arg with
  | .access a => some a.cls
  | _ => none

/-- The classes of the accesses that an outcome has on its agenda. -/
def classesSent : Host.Outcome State Fault Refusal → List Nat
  | .next t => classesOf t.agenda
  | _ => []

theorem acq_sends_class_three : Free acquiringUntimed ∧ (mine acquiringUntimed).ut = true ∧
    engineChecked acquiringUntimed (handle acquiringUntimed 0) (greg acquiringUntimed 0).toNat 16 = none ∧
    acquiringUntimed.outOfScope (acquiringUntimed.syncAt ((handle acquiringUntimed 0).base + (greg acquiringUntimed 0).toNat)
      (handle acquiringUntimed 0).key) = false ∧
    classesSent (exec (.acq 0 0 0 0) acquiringUntimed) = [3] := by decide +kernel

theorem not_acquireRequests : ¬ Claims.AcquireRequests := by
  intro h
  obtain ⟨hfree, hut, hchecked, hscope, hsent⟩ := acq_sends_class_three
  obtain ⟨-, -, -, passes⟩ := h acquiringUntimed 0 0 0 0 hfree
  obtain ⟨-, untimed⟩ := passes hchecked hscope
  obtain ⟨t, cy, hstep, -, hagenda, -⟩ := untimed hut
  rw [hstep] at hsent
  have same : classesOf t.agenda = [3] := hsent
  rw [hagenda] at same
  exact absurd (show [0] = [3] from same) (by decide)

/-- Refutes O28: an ACQ without try sends an access of class 3, where the statement has class 0. -/
theorem not_acquiresAndBindings : ¬ Obligations.AcquiresAndBindings :=
  fun ⟨hacquire, _⟩ => not_acquireRequests hacquire

end Sys2Proof.Laws
end

/-! # Accesses that a word sends on their way -/

section

namespace Sys2Proof.Laws

open Sys2Proof Sys2Proof.Machine Sys2Proof.Claims

/-! ## A word that has issued reads what stood before it (R112) -/

@[simp] theorem myPart_occupied (s : State) (occ : Nat) : (occupied s occ).myPart = (mine s).task.part := by
  unfold State.myPart
  rw [me_occupied]
  rfl

theorem userOnly_of_user {s : State} (h : ¬ OnHub s) (k : State → State) : s.userOnly k = k s := by
  unfold State.userOnly
  rw [isMgmt_eq_false h, if_neg Bool.false_ne_true]

theorem withTiles_of_nameable {s : State} {l : List Nat} (h : Nameable s l) (k : State → State) : s.withTiles l k = k s :=
  if_pos (tilesOk_of_nameable h)

/-- A form with a tile that may issue and be on its sequencer has its effect. -/
theorem tileForm_occupied {s : State} {v : BitVec 5} {k : State → State} (occ : Nat) (hf : Free s) (ht : ¬ OnHub s ∧ Nameable s [v.toNat]) :
    s.tileForm occ v k = .next (k (occupied s occ)) := by
  unfold State.tileForm
  rw [issue_of_free hf, userOnly_of_user (s := occupied s occ) ht.1, withTiles_of_nameable (s := occupied s occ) ht.2]

theorem gn_occupied (s : State) (occ : Nat) (g : BitVec 6) : (occupied s occ).me.gn g.toNat = (greg s g).toNat := by
  rw [me_occupied]
  rfl

theorem shape_occupied (s : State) (occ : Nat) : (occupied s occ).me.shape = (mine s).shape := by
  rw [me_occupied]
  rfl

/-- The results of a word that only computes, from the state in which it has issued. -/
theorem land_occupied (s : State) (occ lat : Nat) (l : List Land) : (occupied s occ).land lat l = issued s occ lat l := rfl

/-- What checks 3 and 4 of R175 find, as the model puts them. -/
theorem handleOk_occupied (s : State) (occ : Nat) (h : Handle) (perm : Nat) :
    (occupied s occ).handleOk h perm = (current s h && (h.perm &&& perm) == perm) := by
  unfold State.handleOk State.valid
  rw [myPart_occupied]
  rfl

theorem not_boundsOk_iff (h : Handle) (off n al : Nat) :
    (!boundsOk h off n al) = true ↔ off % al ≠ 0 ∨ pageSize h.sz < off + n := by
  unfold boundsOk
  by_cases h1 : off % al = 0 <;> simp [h1]

/-- The checks of a sync engine's access (R175, R190), for a word that has issued. -/
theorem withEngine_occupied (s : State) (occ : Nat) (h : Handle) (off n : Nat) (k : State → State) :
    (occupied s occ).withEngine h off n k = match engineChecked s h off n with
      | some e => faulted (occupied s occ) e
      | none => k (occupied s occ) := by
  unfold State.withEngine engineChecked
  rw [handleOk_occupied, show permAtomic = 4 from rfl]
  by_cases h1 : (!(current s h && (h.perm &&& 4) == 4) || h.tier != 0) = true
  · rw [if_pos h1, if_pos h1]
    exact fault_eq_faulted _ 2
  · rw [if_neg h1, if_neg h1, if_congr (not_boundsOk_iff h off n n) rfl rfl]
    by_cases h2 : off % n ≠ 0 ∨ pageSize h.sz < off + n
    · rw [if_pos h2, if_pos h2]
      exact fault_eq_faulted _ 3
    · rw [if_neg h2, if_neg h2]

/-! ## An access to a sync engine (R176, R244) -/

theorem markFallback_false (s : State) : markFallback s false = s := (fallback_eq_markFallback s false).symm

/-- What an access becomes that is on its way from the word state `b`: the outstanding record of its sequencer, the agenda and free
values change. -/
theorem underWay_of_outstanding {s t b : State} {occ : Nat} {fb : Bool} {evs : List Ev} {o : List Outstanding}
    (hb : b = markFallback (occupied s occ) fb)
    (ht : t = { b with
      seqs := Fm.set b.seqs s.cur.sid { mine b with outst := o }, agenda := b.agenda ++ evs, nextId := s.nextId + 1,
      rdc := t.rdc, choices := t.choices, drawn := t.drawn })
    (ho : ∃ x ∈ o, x.id = s.nextId ∧ x.issue = s.now) : UnderWay s t occ fb evs := by
  subst hb
  have hmine : mine t = { mine (occupied s occ) with outst := o } := by
    rw [ht]
    exact get_set_same _ _ _ _
  have houtst : (mine t).outst = o := congrArg Seq.outst hmine
  refine ⟨by rw [ht]; rfl, ?_, fun i hi => ?_, ?_, ?_⟩
  · rw [ht]
  · rw [ht]
    show Fm.get _ (Fm.set (Fm.set _ _ _) _ _) _ = _
    rw [set_set]
    exact get_set_other _ _ _ _ _ (Ne.symm hi)
  · rw [houtst]
    exact hmine
  · rw [houtst]
    exact ho

theorem dropOwn_eq (s : State) (sid addr len : Nat) : s.dropOwn sid addr len = { s with rdc := (s.dropOwn sid addr len).rdc } := by
  unfold State.dropOwn
  split <;> rfl

theorem dropOwn_home {s : State} {sid addr : Nat} (h : homeDie addr = dieOf sid) (len : Nat) : s.dropOwn sid addr len = s :=
  if_neg (not_not_intro h)

/-- Those of a sequencer's outstanding accesses that have not completed, and one more. -/
def outstandingWith (now : Nat) (q : Seq) (o : Outstanding) : List Outstanding :=
  q.outst.filter (fun x => match x.at_ with | some c => decide (now ≤ c) | none => true) ++ [o]

theorem outstanding_eq (s : State) (sid : Nat) (o : Outstanding) :
    s.outstanding sid o = { s with seqs := Fm.set s.seqs sid { s.seq sid with outst := outstandingWith s.now (s.seq sid) o } } := rfl

theorem mem_outstandingWith (now : Nat) (q : Seq) (o : Outstanding) : o ∈ outstandingWith now q o :=
  List.mem_append_right _ (List.mem_singleton.mpr rfl)

theorem updMe_outstanding (t : State) (o : Outstanding) (f : Seq → Seq) :
    (t.outstanding t.cur.sid o).updMe f = { t with seqs := Fm.set t.seqs t.cur.sid (f { mine t with outst := outstandingWith t.now (mine t) o }) } := by
  unfold State.updMe State.updSeq State.setSeq State.seq
  rw [outstanding_eq]
  dsimp only
  rw [get_set_same, set_set]
  rfl

/-- A word that draws a free value changes nothing else. -/
theorem drew_fields (s : State) : s.drew = { s with choices := s.drew.choices, drawn := s.drew.drawn } := by
  unfold State.drew
  split <;> rfl

/-- The RDC copies that an atomic drops at its issue (R286). -/
def ownDropped (s : State) (a : Access) : State := match a.op with
  | .atomic _ _ _ _ => s.dropOwn s.cur.sid a.addr a.len
  | _ => s

theorem ownDropped_eq (s : State) (a : Access) : ownDropped s a = { s with rdc := (ownDropped s a).rdc } := by
  unfold ownDropped
  split
  · exact dropOwn_eq s s.cur.sid a.addr a.len
  · rfl

/-- What is recorded of an access to a sync engine. -/
def engineRecord (s : State) (a : Access) (d kind : Nat) : Outstanding :=
  { id := s.nextId, page := if a.pageSize = 0 then none else some (a.page, a.pageSize),
    at_ := some (s.now + if a.pageSize = 0 then 48 + 2 * d else 24 + d), kind := kind, issue := s.now, addr := a.addr, len := a.len }

theorem startSync_eq (s : State) (a : Access) (d kind : Nat) :
    s.startSync a d kind = { s with
      seqs := Fm.set s.seqs s.cur.sid { mine s with outst := outstandingWith s.now (mine s) (engineRecord s a d kind) },
      agenda := s.agenda ++ engineEvents s a d, nextId := s.nextId + 1,
      rdc := (ownDropped { s with nextId := s.nextId + 1 } a).rdc } := by
  have hpush : ∀ (l : List Ev) (x y : Ev), (l ++ [x]) ++ [y] = l ++ [x, y] := fun l x y => List.append_assoc l [x] [y]
  obtain ⟨id, sid, op, rest⟩ := a
  unfold engineEvents
  rw [← hpush]
  cases op with
  | atomic code w x y =>
    unfold State.startSync
    simp only [State.fresh]
    rw [dropOwn_eq]
    rfl
  | _ => rfl

@[simp] theorem mine_occupied (s : State) (occ : Nat) : mine (occupied s occ) = colUntil (mine s) s.cur.col (s.now + occ) :=
  me_occupied s occ

/-- An access leaves a word that has issued as it would have left it before. -/
@[simp] theorem sent_occupied (s : State) (occ : Nat) (a : Access) : sent (occupied s occ) a = sent s a := by
  unfold sent
  rw [mine_occupied]
  rfl

@[simp] theorem engineEvents_occupied (s : State) (occ : Nat) (a : Access) (d : Nat) :
    engineEvents (occupied s occ) a d = engineEvents s a d := by
  unfold engineEvents
  rw [sent_occupied]
  rfl

/-- The access to a sync engine of a word that has issued. -/
theorem startSync_underWay (s : State) (occ : Nat) (a : Access) (d kind : Nat) :
    UnderWay s ((occupied s occ).startSync a d kind) occ false (engineEvents s a d) := by
  refine underWay_of_outstanding (o := outstandingWith s.now (mine (occupied s occ)) (engineRecord s a d kind))
    (markFallback_false _).symm ?_ ⟨_, mem_outstandingWith _ _ _, rfl, rfl⟩
  rw [startSync_eq, engineEvents_occupied]
  rfl

theorem rdc_startSync_of_home {s : State} {a : Access} (h : homeDie a.addr = dieOf s.cur.sid) (d kind : Nat) :
    (s.startSync a d kind).rdc = s.rdc := by
  rw [startSync_eq]
  show (ownDropped { s with nextId := s.nextId + 1 } a).rdc = s.rdc
  unfold ownDropped
  split
  · rw [dropOwn_home h]
  · rfl

end Sys2Proof.Laws
end

/-! # O27: scalar and vector atomics (R176, R190, R191, R244) -/

section

namespace Sys2Proof.Laws

open Sys2Proof Sys2Proof.Machine Sys2Proof.Claims

/-- The access of a scalar atomic (R190). -/
def atomicAccess (s : State) (g c : BitVec 6) (h : BitVec 4) (w : BitVec 1) (code b : Nat) : Access :=
  let x := handle s h
  let off := (greg s c).toNat
  let n := if w = 1 then 4 else 8
  { op := .atomic code n ((greg s g).toNat % 2 ^ (8 * n)) (b % 2 ^ (8 * n)), addr := x.base + off, len := n, dest := .g g.toNat,
    key := x.key, hnd := h.toNat, off := off, tier := 0, page := x.base, pageSize := pageSize x.sz }

/-- A scalar atomic of a word that has issued: the checks, then the access. -/
theorem atomic_occupied (s : State) (g c : BitVec 6) (h : BitVec 4) (w : BitVec 1) (code b : Nat) :
    (occupied s 1).atomic g h c w code b = match engineChecked s (handle s h) (greg s c).toNat (if w = 1 then 4 else 8) with
      | some e => faulted (occupied s 1) e
      | none => (occupied s 1).startSync (atomicAccess s g c h w code b) (distance s (handle s h).home) 2 := by
  unfold State.atomic
  rw [me_occupied, withEngine_occupied]
  simp only [me_occupied]
  rfl

/-- Each scalar atomic issues the one operation with its code and comparand. -/
theorem exec_atomicWord {s : State} {i : Instr} {g c : BitVec 6} {h : BitVec 4} {w : BitVec 1} {code b : Nat} (hf : Free s)
    (hi : atomicWord s i = some (g, h, c, w, code, b)) : exec i s = .next ((occupied s 1).atomic g h c w code b) := by
  have key := issue_of_free hf 1 (fun s => s.atomic g h c w code b)
  cases i
  case acas =>
    rename_i g' h' c' w'
    simp only [atomicWord, Option.ite_none_left_eq_some] at hi
    obtain ⟨h63, hi⟩ := hi
    cases hi
    show execAcas _ _ _ _ s = _
    unfold execAcas
    rw [issue_of_free hf, if_neg h63, me_occupied]
    rfl
  case aadd | aand | aor | axor | amin | amax | aswp => cases hi; exact key
  all_goals cases hi

theorem atomicsGoToTheirEngine : AtomicsGoToTheirEngine := by
  refine ⟨fun s i g c h w code b hf hi => ⟨fun e he => ?_, fun he => ?_⟩, fun s h c w hf => ?_⟩
  · rw [exec_atomicWord hf hi, atomic_occupied, he]
  · rw [exec_atomicWord hf hi, atomic_occupied, he]
    exact ⟨_, rfl, fun hh => rdc_startSync_of_home hh _ 2, startSync_underWay s 1 (atomicAccess s g c h w code b) _ 2⟩
  · show execAcas _ _ _ _ s = _
    unfold execAcas
    rw [issue_of_free hf]
    exact congrArg _ (fault_eq_faulted _ 1)

/-! ## VATOM (R191) -/

theorem findSome?_range {α : Type} {f : Nat → Option α} {n k : Nat} {e : α} (hk : k < n) (he : f k = some e)
    (hlt : ∀ j, j < k → f j = none) : (List.range n).findSome? f = some e := by
  induction n with
  | zero => omega
  | succ n ih =>
    rw [List.range_succ, List.findSome?_append]
    by_cases hkn : k < n
    · rw [ih hkn]
      rfl
    · obtain rfl : k = n := by omega
      rw [List.findSome?_eq_none_iff.mpr fun j hj => hlt j (List.mem_range.mp hj)]
      simp [he]

theorem map_zipIdx_zip_range {α β γ : Type} (n : Nat) (f : Nat → α) (g : Nat → β) (k : (α × β) × Nat → γ) :
    ((((List.range n).map f).zip ((List.range n).map g)).zipIdx).map k = (List.range n).map fun i => k ((f i, g i), i) :=
  List.ext_getElem (by simp) (by simp)

theorem bits_zero (x n : Nat) : bits x 0 n = x % 2 ^ n := by
  unfold bits
  rw [Nat.pow_zero, Nat.div_one]

/-- The elements of a VATOM come to their homes by the bound, in their order. -/
theorem vatomHomes_spec (bound sid : Nat) (l : List Access) (prev : Fm Nat) (s : State)
    (hprev : ∀ d, s.now < Fm.get (s.now + 1) prev d ∧ Fm.get (s.now + 1) prev d ≤ bound) :
    ∃ evs c d, State.vatomHomes bound sid l prev s = { s with agenda := s.agenda ++ evs, choices := c, drawn := d } ∧
      List.Forall₂ (fun a e => ∃ c, s.now < c ∧ c ≤ bound ∧ e = event c 4 (homeKey sid a.issue a.col) .accessHomeCycle (.access a)) l evs := by
  induction l generalizing prev s with
  | nil => exact ⟨[], s.choices, s.drawn, by rw [List.append_nil]; rfl, .nil⟩
  | cons a r ih =>
    obtain ⟨hlo, hhi⟩ := hprev (homeDie a.addr)
    have hmod := Nat.mod_lt s.drawVal (show 0 < bound - Fm.get (s.now + 1) prev (homeDie a.addr) + 1 by omega)
    unfold State.vatomHomes
    dsimp only
    generalize hc : Fm.get (s.now + 1) prev (homeDie a.addr) + s.drawVal % (bound - Fm.get (s.now + 1) prev (homeDie a.addr) + 1) = c
    have hcb : s.now < c ∧ c ≤ bound := by omega
    obtain ⟨ch, dr, hdrew⟩ := drew_eq s
    rw [hdrew]
    obtain ⟨evs, x, y, he, hall⟩ := ih (Fm.set prev (homeDie a.addr) c)
      (({ s with choices := ch, drawn := dr } : State).toHome c (homeKey sid a.issue a.col) a) (by
      intro d
      show s.now < Fm.get (s.now + 1) _ d ∧ Fm.get (s.now + 1) _ d ≤ bound
      by_cases hd : homeDie a.addr = d
      · rw [hd, get_set_same]
        exact hcb
      · rw [get_set_other _ _ _ _ _ hd]
        exact hprev d)
    refine ⟨event c 4 (homeKey sid a.issue a.col) .accessHomeCycle (.access a) :: evs, x, y, ?_, .cons ⟨c, hcb.1, hcb.2, rfl⟩ hall⟩
    rw [he, List.append_cons]
    rfl

/-- The checks of an element of VATOM are those of an access to a sync engine. -/
theorem vatomCheck_occupied (s : State) (occ size x : Nat) :
    (occupied s occ).vatomCheck size x = engineChecked s (Fm.get {} (mine s).h (x / 2 ^ 28 % 16)) (x % 2 ^ 28) size := by
  have hr : (occupied s occ).me.hr (bits x 28 4) = Fm.get {} (mine s).h (x / 2 ^ 28 % 16) := by
    rw [me_occupied]
    rfl
  unfold State.vatomCheck engineChecked
  dsimp only
  rw [hr, bits_zero, handleOk_occupied, if_congr (not_boundsOk_iff _ _ _ _) rfl rfl]
  rfl

/-- The access that an element of a VATOM sends: its index word, its value and its number (R191). -/
def elementAccess (s : State) (o t id bound : Nat) (e : (Nat × Nat) × Nat) : Access :=
  let h := s.me.hr (bits e.1.1 28 4)
  { id := id, sid := s.cur.sid, op := vatomOp o t e.1.2 (typeBits t / 8), addr := h.base + bits e.1.1 0 28, len := typeBits t / 8,
    key := h.key, hnd := bits e.1.1 28 4, off := bits e.1.1 0 28, part := s.myPart, gen := s.gen s.myPart, issue := s.now,
    page := h.base, pageSize := pageSize h.sz, col := 6, pc := s.cur.pc, cls := 3, elem := e.2, by_ := some bound }

/-- The copies that a VATOM drops. -/
theorem foldl_dropOwn (l : List Access) (s : State) :
    ∃ r, l.foldl (fun s a => s.dropOwn a.sid a.addr a.len) s = { s with rdc := r } := by
  induction l generalizing s with
  | nil => exact ⟨s.rdc, rfl⟩
  | cons a l ih =>
    obtain ⟨r, hr⟩ := ih (s.dropOwn a.sid a.addr a.len)
    refine ⟨r, ?_⟩
    rw [List.foldl_cons, hr, dropOwn_eq]

/-- The records that a word adds of what it sends to several pages. -/
theorem foldl_outstanding {α : Type} (l : List α) (f : State → α → Outstanding) (s : State) :
    ∃ q, l.foldl (fun s p => s.outstanding s.cur.sid (f s p)) s = { s with seqs := q } ∧ (Fm.get {} q s.cur.sid).g = (mine s).g := by
  induction l generalizing s with
  | nil => exact ⟨s.seqs, rfl, rfl⟩
  | cons a l ih =>
    obtain ⟨q, hq, hg⟩ := ih (s.outstanding s.cur.sid (f s a))
    refine ⟨q, hq, hg.trans ?_⟩
    show (Fm.get {} (Fm.set s.seqs s.cur.sid _) s.cur.sid).g = _
    rw [get_set_same]
    rfl

/-- What a VATOM sends once its checks pass: its elements, each to its home. -/
def sendElements (s : State) (bound : Nat) (l : List Access) : State :=
  let t := l.foldl (fun s a => s.dropOwn a.sid a.addr a.len) { s with nextId := s.nextId + 1 }
  let t := ((l.map (fun a => (a.page, a.pageSize))).eraseDups).foldl (fun t p =>
    t.outstanding t.cur.sid { id := s.nextId, page := some p, at_ := some bound, kind := 2, issue := t.now, addr := p.1, len := p.2 }) t
  State.vatomHomes bound t.cur.sid l [] t

theorem sendElements_spec {s : State} {bound : Nat} (l : List Access) (hb : s.now < bound) :
    ∃ evs, (sendElements s bound l).agenda = s.agenda ++ evs ∧ (sendElements s bound l).mem = s.mem ∧
      (mine (sendElements s bound l)).g = (mine s).g ∧
      List.Forall₂ (fun a e => ∃ c, s.now < c ∧ c ≤ bound ∧ e = event c 4 (homeKey s.cur.sid a.issue a.col) .accessHomeCycle (.access a)) l evs := by
  unfold sendElements
  obtain ⟨r, hr⟩ := foldl_dropOwn l { s with nextId := s.nextId + 1 }
  obtain ⟨q, hq, hg⟩ := foldl_outstanding ((l.map (fun a => (a.page, a.pageSize))).eraseDups)
    (fun t p => { id := s.nextId, page := some p, at_ := some bound, kind := 2, issue := t.now, addr := p.1, len := p.2 })
    { s with nextId := s.nextId + 1, rdc := r }
  rw [hr]
  dsimp only at hq hg ⊢
  rw [hq]
  obtain ⟨evs, x, y, he, hall⟩ := vatomHomes_spec bound s.cur.sid l [] { s with nextId := s.nextId + 1, rdc := r, seqs := q }
    fun d => ⟨Nat.lt_succ_self _, hb⟩
  rw [he]
  exact ⟨evs, rfl, rfl, hg, hall⟩

/-- The update that each element of a VATOM asks for (R191). -/
theorem vatomOp_eq (s : State) (v o k : Nat) : vatomOp o (typ s) (elem s v k) (width s / 8) =
    if typ s = 1 then .fadd (elem s v k)
    else .atomic (if isSigned (typ s) ∧ o = 4 then 8 else if isSigned (typ s) ∧ o = 5 then 9 else o) (width s / 8) (elem s v k) 0 := rfl

/-- The types of VATOM take whole bytes. -/
theorem width_of_vatomType {s : State} {o : Nat} (h : vatomType o (typ s) = true) : 8 * (width s / 8) = width s := by
  unfold vatomType at h
  unfold width
  have ht : typ s = 1 ∨ typ s = 11 ∨ typ s = 12 ∨ typ s = 13 ∨ typ s = 14 := by
    simp at h
    omega
  rcases ht with h | h | h | h | h <;> rw [h] <;> rfl

/-- The latest latency to a home of the index words `l`. -/
def farthest (s : State) (l : List Nat) : Nat :=
  l.foldl (fun m x => max m (dieLatency (dieOf s.cur.sid) (s.me.hr (bits x 28 4)).home)) 0

/-- What a VATOM does in `u`, in which it has issued from `s`, where it may be on its sequencer: type, tiles, checks and elements. -/
def vatomEffect (s u : State) (v i : BitVec 5) (o : BitVec 3) : State :=
  if !vatomType o.toNat (typ s) || decide (1024 < count s) then u.illegal
  else u.withTiles [v.toNat, i.toNat] fun u =>
    let ix := unpack 32 (count s) (u.tile u.cur.sid i.toNat).toNat
    let bound := u.now + cdiv (count s) 16 + 48 + 2 * farthest u ix
    match ix.findSome? (u.vatomCheck (width s / 8)) with
    | some c => u.fault c
    | none => sendElements u bound (((ix.zip (unpack (8 * (width s / 8)) (count s) (u.tile u.cur.sid v.toNat).toNat)).zipIdx).map
        (elementAccess u o.toNat (typ s) u.nextId bound))

theorem execVatom_eq {s : State} (v i : BitVec 5) (o : BitVec 3) (hf : Free s) (hu : ¬ OnHub s) :
    execVatom v i o s = .next (vatomEffect s (occupied s (cdiv (count s) 16)) v i o) := by
  unfold execVatom
  rw [issue_of_free hf]
  dsimp only
  rw [userOnly_of_user (s := occupied s _) hu]
  rfl

/-- The access that element `k` of a VATOM sends. -/
def vatomAccess (s : State) (v i : BitVec 5) (o : BitVec 3) (bound k : Nat) : Access :=
  elementAccess s o.toNat (typ s) s.nextId bound ((vatomIndex s i k, elem s v.toNat k), k)

theorem farthest_occupied (s : State) (occ : Nat) (i : BitVec 5) (n : Nat) :
    farthest (occupied s occ) ((List.range n).map (vatomIndex s i)) =
      (List.range n).foldl (fun m k => max m (distance s (vatomHandle s i k).home)) 0 := by
  unfold farthest
  rw [List.foldl_map, me_occupied]
  rfl

theorem elementAccess_occupied (s : State) (occ o t id bound : Nat) (e : (Nat × Nat) × Nat) :
    elementAccess (occupied s occ) o t id bound e = elementAccess s o t id bound e := by
  unfold elementAccess
  rw [myPart_occupied, me_occupied]
  rfl

/-- A VATOM of an allowed type whose tiles may be named, in terms of what stood before it issued. -/
theorem vatomEffect_allowed {s : State} {v i : BitVec 5} {o : BitVec 3} (hn : Nameable s [v.toNat, i.toNat])
    (ht : vatomType o.toNat (typ s) = true) (hc : count s ≤ 1024) :
    let occ := cdiv (count s) 16
    let bound := s.now + occ + 48 + 2 * (List.range (count s)).foldl (fun m k => max m (distance s (vatomHandle s i k).home)) 0
    vatomEffect s (occupied s occ) v i o =
      match (List.range (count s)).findSome? fun k => engineChecked s (vatomHandle s i k) (vatomIndex s i k % 2 ^ 28) (width s / 8) with
      | some c => faulted (occupied s occ) c
      | none => sendElements (occupied s occ) bound ((List.range (count s)).map (vatomAccess s v i o bound)) := by
  intro occ bound
  have same := sameOperands_occupied s occ
  have hix : unpack 32 (count s) (tileOf s s.cur.sid i.toNat).toNat = (List.range (count s)).map (vatomIndex s i) := rfl
  have hvs : unpack (8 * (width s / 8)) (count s) (tileOf s s.cur.sid v.toNat).toNat = (List.range (count s)).map (elem s v.toNat) := by
    rw [width_of_vatomType ht]
    rfl
  unfold vatomEffect
  rw [ht, if_neg (by simpa using hc), withTiles_of_nameable (s := occupied s occ) hn]
  dsimp only
  rw [tile_sameOperands same, tile_sameOperands same, hix, hvs, farthest_occupied, map_zipIdx_zip_range, List.findSome?_map]
  have hcheck : (occupied s occ).vatomCheck (width s / 8) ∘ vatomIndex s i =
      fun k => engineChecked s (vatomHandle s i k) (vatomIndex s i k % 2 ^ 28) (width s / 8) :=
    funext fun k => vatomCheck_occupied s occ (width s / 8) (vatomIndex s i k)
  rw [hcheck]
  split
  · exact fault_eq_faulted _ _
  · refine congrArg (sendElements (occupied s occ) bound) (List.map_congr_left fun k _ => ?_)
    exact elementAccess_occupied ..

theorem vatomType_iff (o : BitVec 3) (t : Nat) : vatomType o.toNat t = true ↔ o.toNat ≠ 7 ∧ ((11 ≤ t ∧ t ≤ 14) ∨ (t = 1 ∧ o = 0)) := by
  unfold vatomType
  rw [show o = 0 ↔ o.toNat = 0 from BitVec.toNat_inj.symm]
  simp

theorem vectorAtomics : VectorAtomics := by
  intro s v i o occ size bad far allowed hf hu hn
  have hexec : exec (.vatom v i o) s = .next (vatomEffect s (occupied s occ) v i o) := execVatom_eq v i o hf hu
  rw [hexec]
  refine ⟨fun hno => ?_, fun k e hal hk he hlt => ?_, fun hal hgood => ?_⟩
  · unfold vatomEffect
    rw [if_pos]
    · exact congrArg _ (fault_eq_faulted _ 1)
    · by_contra hc
      rw [Bool.or_eq_true, not_or, Bool.not_eq_true', Bool.not_eq_false, vatomType_iff, decide_eq_true_eq, Nat.not_lt] at hc
      exact hno ⟨hc.1.1, hc.1.2, hc.2⟩
  · obtain ⟨h7, hty, hc⟩ := hal
    rw [vatomEffect_allowed hn ((vatomType_iff ..).mpr ⟨h7, hty⟩) hc, findSome?_range hk he hlt]
  · obtain ⟨h7, hty, hc⟩ := hal
    rw [vatomEffect_allowed hn ((vatomType_iff ..).mpr ⟨h7, hty⟩) hc,
      List.findSome?_eq_none_iff.mpr fun k hk => hgood k (List.mem_range.mp hk)]
    obtain ⟨evs, hag, hmem, hg, hall⟩ := sendElements_spec (s := occupied s occ) (bound := s.now + occ + 48 + 2 * far)
      ((List.range (count s)).map (vatomAccess s v i o (s.now + occ + 48 + 2 * far))) (by show s.now < _; omega)
    have hlen : evs.length = count s := by rw [← hall.length_eq, List.length_map, List.length_range]
    refine ⟨_, evs, rfl, hag, hlen, hmem, ?_, fun k hk => ?_⟩
    · rw [hg, mine_occupied]
      rfl
    · obtain ⟨c, hlo, hhi, he⟩ := hall.get (i := k) (by simpa using hk) (by omega)
      rw [List.get_eq_getElem, List.get_eq_getElem, List.getElem_map, List.getElem_range] at he
      refine ⟨c, _, List.getElem?_eq_some_iff.mpr ⟨by omega, he⟩, hlo, hhi, ?_, rfl, vatomOp_eq s v.toNat o.toNat k⟩
      exact congrArg (fun x => (vatomHandle s i k).base + x) (bits_zero (vatomIndex s i k) 28)

/-- Settles O27. -/
theorem atomicWords : Obligations.AtomicWords := ⟨atomicsGoToTheirEngine, vectorAtomics⟩

end Sys2Proof.Laws
end

/-! # O14: loads, stores and streaming stores (R174 to R177, R183 to R187, R244, R257) -/

section

namespace Sys2Proof.Laws

open Sys2Proof Sys2Proof.Machine Sys2Proof.Claims

/-! ## Home cycles that nothing promises (R246, R247) -/

theorem le_foldl_max {α : Type} (f : α → Nat → Nat) (hf : ∀ x m, m ≤ f x m) (l : List α) (m : Nat) : m ≤ l.foldl (fun m x => f x m) m := by
  induction l generalizing m with
  | nil => exact Nat.le_refl m
  | cons x l ih => exact (hf x m).trans (ih _)

theorem le_orderAfter (s : State) (a : Access) (c : Nat) : c ≤ s.orderAfter a c := by
  refine le_foldl_max (fun e m => match e.arg with
    | .access b => if b.sid = a.sid ∧ e.ins = .accessHomeCycle ∧ a.meets b then max m (b.lastOn a e.cyc) else m
    | _ => m) (fun e m => ?_) s.agenda c
  split
  · split
    · exact Nat.le_max_left _ _
    · exact Nat.le_refl m
  · exact Nat.le_refl m

/-- The earliest cycle of an access of a partition that nothing promises. -/
def earliest (s : State) (part lo : Nat) : Nat := if part ≠ 63 ∧ (s.part part).stood.isSome then s.now else lo

theorem earliest_le_settleBy {s : State} {part lo c : Nat} (hlo : s.now ≤ lo) (hc : lo ≤ c) : earliest s part lo ≤ s.settleBy part c := by
  unfold earliest State.settleBy
  split <;> omega

/-- The first `n` blocks of an access, each with a free home cycle. -/
def placed (a : Access) (lo n : Nat) (s : State) : List (Nat × Nat) × State :=
  (List.range n).foldl (fun x i =>
    (x.1 ++ [(x.2.orderAfter { a with addr := (a.addr / 64 + i) * 64, len := 64 } (x.2.settleBy a.part (lo + x.2.drawVal)), i)], x.2.drew))
    ([], s)

theorem placed_spec (a : Access) (lo n : Nat) (s : State) (hlo : s.now ≤ lo) :
    ∃ l c d, placed a lo n s = (l, { s with choices := c, drawn := d }) ∧
      l.map (·.2) = List.range n ∧ ∀ x ∈ l, earliest s a.part lo ≤ x.1 := by
  induction n with
  | zero => exact ⟨[], s.choices, s.drawn, rfl, rfl, by simp⟩
  | succ n ih =>
    obtain ⟨l, c, d, he, hl, hge⟩ := ih
    unfold placed at he ⊢
    rw [List.range_succ, List.foldl_append, he]
    obtain ⟨c', d', hd⟩ := drew_eq { s with choices := c, drawn := d }
    refine ⟨_, c', d', by rw [List.foldl_cons, List.foldl_nil, hd], ?_, fun x hx => ?_⟩
    · rw [List.map_append, hl]
      rfl
    · rcases List.mem_append.mp hx with hx | hx
      · exact hge x hx
      · rw [List.mem_singleton.mp hx]
        exact (earliest_le_settleBy (s := { s with choices := c, drawn := d }) hlo (Nat.le_add_right lo _)).trans (le_orderAfter _ _ _)

/-- The home cycles of a tagged load, each no earlier than the one before it (R68). -/
def ascending (l : List (Nat × Nat)) : List (Nat × Nat) :=
  (l.foldl (fun (t : Nat × List (Nat × Nat)) x => (max t.1 x.1, t.2 ++ [(max t.1 x.1, x.2)])) (0, [])).2

theorem ascending_spec (l : List (Nat × Nat)) (b : Nat) (h : ∀ x ∈ l, b ≤ x.1) :
    (ascending l).map (·.2) = l.map (·.2) ∧ ∀ x ∈ ascending l, b ≤ x.1 := by
  unfold ascending
  generalize hm : (0 : Nat) = m
  have key : ∀ (r : List (Nat × Nat)) (m : Nat), (∀ x ∈ r, b ≤ x.1) →
      (l.foldl (fun (t : Nat × List (Nat × Nat)) x => (max t.1 x.1, t.2 ++ [(max t.1 x.1, x.2)])) (m, r)).2.map (·.2) = r.map (·.2) ++ l.map (·.2) ∧
      ∀ x ∈ (l.foldl (fun (t : Nat × List (Nat × Nat)) x => (max t.1 x.1, t.2 ++ [(max t.1 x.1, x.2)])) (m, r)).2, b ≤ x.1 := by
    induction l with
    | nil => exact fun r m hr => ⟨by simp, hr⟩
    | cons y l ih =>
      intro r m hr
      obtain ⟨hy, hl⟩ := List.forall_mem_cons.mp h
      obtain ⟨hmap, hge⟩ := ih hl (r ++ [(max m y.1, y.2)]) (max m y.1) (by
        simp only [List.mem_append, List.mem_singleton]
        rintro x (hx | rfl)
        · exact hr x hx
        · exact hy.trans (Nat.le_max_right _ _))
      exact ⟨by simpa using hmap, hge⟩
  simpa using key [] m (by simp)

/-- The order in which the blocks of an access come: only those of a tagged load have one. -/
def inOrder (a : Access) (l : List (Nat × Nat)) : List (Nat × Nat) := match a.dest with
  | .tagged _ _ _ => ascending l
  | _ => l

theorem inOrder_spec (a : Access) (l : List (Nat × Nat)) (b : Nat) (h : ∀ x ∈ l, b ≤ x.1) :
    (inOrder a l).map (·.2) = l.map (·.2) ∧ ∀ x ∈ inOrder a l, b ≤ x.1 := by
  unfold inOrder
  split
  · exact ascending_spec l b h
  · exact ⟨rfl, h⟩

/-- The first of the cycles of a list. -/
def firstOf (l : List (Nat × Nat)) : Nat := l.foldl (fun m x => min m x.1) (l.foldl (fun m x => max m x.1) 0)

theorem firstOf_spec {l : List (Nat × Nat)} {b : Nat} (hne : l ≠ []) (h : ∀ x ∈ l, b ≤ x.1) :
    b ≤ firstOf l ∧ ∀ x ∈ l, firstOf l ≤ x.1 := by
  have hmin : ∀ (l : List (Nat × Nat)) (m : Nat), (b ≤ m → (∀ x ∈ l, b ≤ x.1) → b ≤ l.foldl (fun m x => min m x.1) m) ∧
      l.foldl (fun m x => min m x.1) m ≤ m ∧ ∀ x ∈ l, l.foldl (fun m x => min m x.1) m ≤ x.1 := by
    intro l
    induction l with
    | nil => simp
    | cons y l ih =>
      intro m
      obtain ⟨hb, hm, hx⟩ := ih (min m y.1)
      rw [List.foldl_cons]
      refine ⟨fun h1 h2 => ?_, by omega, ?_⟩
      · obtain ⟨hy, hl⟩ := List.forall_mem_cons.mp h2
        exact hb (by omega) hl
      · simp only [List.mem_cons]
        rintro x (rfl | hxl)
        · omega
        · exact hx x hxl
  obtain ⟨y, r, rfl⟩ := List.exists_cons_of_ne_nil hne
  obtain ⟨hb, -, hx⟩ := hmin (y :: r) ((y :: r).foldl (fun m x => max m x.1) 0)
  refine ⟨hb ?_ h, hx⟩
  have := le_foldl_max (fun (x : Nat × Nat) m => max m x.1) (fun x m => Nat.le_max_left _ _) r (max 0 y.1)
  have := h y List.mem_cons_self
  rw [List.foldl_cons]
  omega

/-- What `freeBlocks` answers: each block of the access with a home cycle of its own, and the first of them. -/
theorem freeBlocks_spec (s : State) (a : Access) {lo : Nat} (hlo : s.now ≤ lo) :
    ∃ l c ch dr, s.freeBlocks a lo = ({ a with todo := some l }, c, { s with choices := ch, drawn := dr }) ∧
      l.map (·.2) = List.range (max 1 (blockNum a.addr a.len)) ∧ earliest s a.part lo ≤ c ∧ ∀ x ∈ l, c ≤ x.1 := by
  obtain ⟨l, ch, dr, he, hl, hge⟩ := placed_spec a lo (max 1 (blockNum a.addr a.len)) s hlo
  obtain ⟨hmap, hge⟩ := inOrder_spec a l _ hge
  have hne : inOrder a l ≠ [] := by
    intro hnil
    rw [hnil, hl] at hmap
    exact absurd (congrArg List.length hmap) (by simp; omega)
  have hfree : s.freeBlocks a lo = (fun x : List (Nat × Nat) × State => (({ a with todo := some (inOrder a x.1) }, firstOf (inOrder a x.1), x.2) : Access × Nat × State))
    (placed a lo (max 1 (blockNum a.addr a.len)) s) := rfl
  obtain ⟨hfirst, hle⟩ := firstOf_spec hne hge
  exact ⟨inOrder a l, firstOf (inOrder a l), ch, dr, by rw [hfree, he], hmap.trans hl, hfirst, hle⟩

/-! ## An access on its way to its home (R176, R177, R244) -/

theorem homeAt_some {s : State} {h : Nat} (hh : 0 < h) {a : Access} (ha : a.todo = none) : HomeAt s (some h) a (s.now + h) :=
  ⟨Nat.le_add_right _ _, fun _ => Nat.lt_add_of_pos_right hh, fun x hx => ⟨by rw [← Option.some.inj hx], ha⟩, fun hx => nomatch hx⟩

/-- Where the blocks of an access that nothing promises take place. -/
theorem homeAt_none {s : State} {a : Access} {l : List (Nat × Nat)} {c : Nat} (ha : a.todo = some l)
    (hl : l.map (·.2) = List.range (max 1 (blockNum a.addr a.len))) (hc : earliest s (mine s).task.part (s.now + 1) ≤ c)
    (hle : ∀ x ∈ l, c ≤ x.1) : HomeAt s none a c := by
  unfold earliest at hc
  refine ⟨by split at hc <;> omega, fun hp => ?_, fun h hh => (nomatch hh), fun _ => ⟨l, ha, hl, hle⟩⟩
  rw [if_neg (by rcases hp with hp | hp <;> simp [hp])] at hc
  exact hc

/-- The home of an access and what it draws, for a home time that is promised or not. -/
def homed (s : State) (a : Access) (home : Option Nat) : Access × Nat × State := match home with
  | some h => (a, s.now + h, s)
  | none => s.freeBlocks a (s.now + 1)

theorem homed_spec (s : State) (q : Fm Seq) (n : Nat) (r : Fm (List RdcLine)) (a : Access) {home : Option Nat} (hpos : ∀ h, home = some h → 0 < h)
    (ha : a.todo = none) (hp : a.part = (mine s).task.part) :
    ∃ td c ch dr, homed { s with seqs := q, nextId := n, rdc := r } a home =
        ({ a with todo := td }, c, { s with seqs := q, nextId := n, rdc := r, choices := ch, drawn := dr }) ∧
      HomeAt s home { a with todo := td } c := by
  cases home with
  | some h => exact ⟨none, s.now + h, s.choices, s.drawn, by rw [← ha]; rfl, homeAt_some (hpos h rfl) rfl⟩
  | none =>
    obtain ⟨l, c, ch, dr, he, hl, hc, hle⟩ := freeBlocks_spec { s with seqs := q, nextId := n, rdc := r } a (Nat.le_succ s.now)
    exact ⟨some l, c, ch, dr, he, homeAt_none rfl hl (hp ▸ hc) hle⟩

theorem answerBy_eq (s t : State) (a : Access) (hs : a.sid = s.cur.sid) (ht : t.now = s.now) :
    t.answerBy a = { t with agenda := t.agenda ++ unanswered s a } := by
  unfold State.answerBy unanswered
  split
  · rw [← hs, ← ht]
    rfl
  · rw [List.append_nil]

/-- A load on its way (R176, R177). -/
theorem startLoad_eq (s : State) (a : Access) (lat : Nat) {home : Option Nat} (hpos : ∀ h, home = some h → 0 < h) (ha : a.todo = none) :
    ∃ td c ch dr, HomeAt s home { sent s a with promise := some (s.now + lat), todo := td } c ∧
      let b : Access := { sent s a with promise := some (s.now + lat), todo := td }
      s.startLoad a lat home = { s with
        seqs := Fm.set s.seqs s.cur.sid { mine s with outst := outstandingWith s.now (mine s) { id := s.nextId, at_ := none, kind := 1, issue := s.now } },
        agenda := s.agenda ++ (event c 4 (myOrder s) .accessHomeCycle (.access b) :: unanswered s b ++
          [event (s.now + lat) 2 s.cur.sid .arrivalViolation (.access b)]),
        nextId := s.nextId + 1, choices := ch, drawn := dr } := by
  obtain ⟨td, c, ch, dr, he, hat⟩ := homed_spec s
    (Fm.set s.seqs s.cur.sid { mine s with outst := outstandingWith s.now (mine s) { id := s.nextId, at_ := none, kind := 1, issue := s.now } })
    (s.nextId + 1) s.rdc { sent s a with promise := some (s.now + lat) } hpos ha rfl
  refine ⟨td, c, ch, dr, hat, ?_⟩
  have hstart : s.startLoad a lat home = (fun x : Access × Nat × State =>
      ((x.2.2.toHome x.2.1 (homeKey x.1.sid x.1.issue x.1.col) x.1).answerBy x.1).push
        { cyc := x.2.2.now + lat, cls := 2, key := x.1.sid, ins := .arrivalViolation, arg := .access x.1 }) (homed { s with
          seqs := Fm.set s.seqs s.cur.sid { mine s with outst := outstandingWith s.now (mine s) { id := s.nextId, at_ := none, kind := 1, issue := s.now } },
          nextId := s.nextId + 1 } { sent s a with promise := some (s.now + lat) } home) := rfl
  rw [hstart, he]
  dsimp only
  rw [answerBy_eq s, ← List.singleton_append, ← List.append_assoc, ← List.append_assoc]
  all_goals rfl

/-- What is recorded of a store. -/
def storeRecord (s : State) (a : Access) (home : Option Nat) (kind : Nat) : Outstanding :=
  { id := s.nextId, page := if a.pageSize = 0 then none else some (a.page, a.pageSize), at_ := home.map (s.now + ·), kind := kind,
    issue := s.now, addr := a.addr, len := a.len }

/-- A store on its way (R184, R286). -/
theorem startStore_eq (s : State) (a : Access) {home : Option Nat} (kind : Nat) (hpos : ∀ h, home = some h → 0 < h) (ha : a.todo = none) :
    ∃ td c r ch dr, HomeAt s home { sent s a with todo := td } c ∧
      let b : Access := { sent s a with todo := td }
      s.startStore a home kind = { s with
        seqs := Fm.set s.seqs s.cur.sid { mine s with outst := outstandingWith s.now (mine s) (storeRecord s a home kind) },
        agenda := s.agenda ++ (event c 4 (myOrder s) .accessHomeCycle (.access b) :: unanswered s b),
        nextId := s.nextId + 1, rdc := r, choices := ch, drawn := dr } := by
  let t : State := { s with nextId := s.nextId + 1 }
  obtain ⟨r, hr⟩ : ∃ r, (if a.space = .phys then t.dropOwn s.cur.sid a.addr a.len else t) = { t with rdc := r } := by
    split
    · exact ⟨_, dropOwn_eq ..⟩
    · exact ⟨t.rdc, rfl⟩
  obtain ⟨td, c, ch, dr, he, hat⟩ := homed_spec s s.seqs (s.nextId + 1) r (sent s a) hpos ha rfl
  refine ⟨td, c, r, ch, dr, hat, ?_⟩
  have hstart : s.startStore a home kind = (fun x : Access × Nat × State =>
      ((x.2.2.outstanding x.1.sid
        { id := s.nextId, page := if x.1.pageSize = 0 then none else some (x.1.page, x.1.pageSize), at_ := home.map (x.2.2.now + ·),
          kind := kind, issue := x.2.2.now, addr := x.1.addr, len := x.1.len }).toHome x.2.1 (homeKey x.1.sid x.1.issue x.1.col) x.1).answerBy x.1)
        (homed (if a.space = .phys then t.dropOwn s.cur.sid a.addr a.len else t) (sent s a) home) := rfl
  rw [hstart, hr, he]
  dsimp only
  rw [answerBy_eq s, List.append_cons]
  all_goals rfl

/-! ## Loads -/

@[simp] theorem sent_markFallback (s : State) (b : Bool) (a : Access) : sent (markFallback s b) a = sent s a := rfl

theorem homeAt_occupied {s : State} {occ : Nat} {fb : Bool} {home : Option Nat} {a : Access} {c : Nat}
    (h : HomeAt (markFallback (occupied s occ) fb) home a c) : HomeAt s home a c := by
  have hm : mine (markFallback (occupied s occ) fb) = colUntil (mine s) s.cur.col (s.now + occ) := mine_occupied s occ
  unfold HomeAt at h
  rw [hm] at h
  exact h

/-- What a load does that may be on its sequencer: its fault, or its access. -/
def loadEffect (s : State) (w : MemWord) : State := match w.err with
  | some e => faulted (occupied s w.occ) e
  | none => (markFallback (occupied s w.occ) w.fb).startLoad w.acc w.lat w.home

theorem loadEffect_sends {s : State} {w : MemWord} (hpos : ∀ h, w.home = some h → 0 < h) (ha : w.acc.todo = none) (he : w.err = none) :
    ∃ c a, HomeAt s w.home a c ∧ a = { sent s w.acc with promise := some (s.now + w.lat), todo := a.todo } ∧
      UnderWay s (loadEffect s w) w.occ w.fb (event c 4 (myOrder s) .accessHomeCycle (.access a) :: unanswered s a ++
        [event (s.now + w.lat) 2 s.cur.sid .arrivalViolation (.access a)]) ∧ (loadEffect s w).rdc = s.rdc := by
  obtain ⟨td, c, ch, dr, hat, hst⟩ := startLoad_eq (markFallback (occupied s w.occ) w.fb) w.acc w.lat hpos ha
  have heff : loadEffect s w = (markFallback (occupied s w.occ) w.fb).startLoad w.acc w.lat w.home := by
    unfold loadEffect
    rw [he]
  dsimp only at hst
  rw [sent_markFallback, sent_occupied] at hat hst
  refine ⟨c, { sent s w.acc with promise := some (s.now + w.lat), todo := td }, homeAt_occupied hat, rfl, ?_, by rw [heff, hst]; rfl⟩
  refine underWay_of_outstanding rfl (o := outstandingWith s.now (mine (occupied s w.occ)) { id := s.nextId, at_ := none, kind := 1, issue := s.now })
    ?_ ⟨_, mem_outstandingWith _ _ _, rfl, rfl⟩
  rw [heff, hst]
  rfl

/-! ## The checks of memory words (R174, R175) -/

theorem checked_occupied (s : State) (occ : Nat) (h : Handle) (perm off n al : Nat) (t : State) :
    (if !(occupied s occ).handleOk h perm then (occupied s occ).handleFault
      else if !boundsOk h off n al then (occupied s occ).boundsFault else t) = match checked s h perm off n al with
      | some e => faulted (occupied s occ) e
      | none => t := by
  unfold checked
  rw [handleOk_occupied, if_congr (not_boundsOk_iff h off n al) rfl rfl]
  by_cases h1 : (!(current s h && (h.perm &&& perm) == perm)) = true
  · rw [if_pos h1, if_pos h1]
    exact fault_eq_faulted _ 2
  · rw [if_neg h1, if_neg h1]
    by_cases h2 : off % al ≠ 0 ∨ pageSize h.sz < off + n
    · rw [if_pos h2, if_pos h2]
      exact fault_eq_faulted _ 3
    · rw [if_neg h2, if_neg h2]

/-- The check of a scratchpad form, as the model puts it. -/
theorem spadOk_iff (s : State) (occ addr n al : Nat) : (occupied s occ).spadOk addr n al = true ↔ spadChecked s addr n al = none := by
  unfold State.spadOk State.hasSpad spadChecked
  rw [show (occupied s occ).seq (occupied s occ).cur.sid = _ from me_occupied s occ]
  have hpart : (colUntil (mine s) s.cur.col (s.now + occ)).task.part = (mine s).task.part := rfl
  have hmgmt : isMgmt (occupied s occ).cur.sid = false ↔ ¬ s.cur.sid % 16 = 8 := by
    rw [← Bool.not_eq_true, isMgmt_iff]
    rfl
  rw [hpart, ite_eq_right_iff]
  simp only [not_or, Bool.and_eq_true, Bool.not_eq_true', hmgmt, beq_iff_eq, decide_eq_true_eq, Bool.not_eq_false,
    ne_eq, not_not, Nat.not_lt, reduceCtorEq, imp_false, show Config.spadBytes = 4194304 from rfl]
  exact ⟨fun ⟨⟨⟨h1, h2⟩, h3⟩, h4⟩ => ⟨h1, h2, h3, h4⟩, fun ⟨h1, h2, h3, h4⟩ => ⟨⟨⟨h1, h2⟩, h3⟩, h4⟩⟩

/-- The only fault of a scratchpad form is the bounds fault. -/
theorem spadChecked_occupied (s : State) (occ addr n al : Nat) (t : State) :
    (if (occupied s occ).spadOk addr n al then t else (occupied s occ).boundsFault) = match spadChecked s addr n al with
      | some e => faulted (occupied s occ) e
      | none => t := by
  by_cases h : spadChecked s addr n al = none
  · rw [if_pos ((spadOk_iff s occ addr n al).mpr h), h]
  · rw [if_neg (fun hc => h ((spadOk_iff s occ addr n al).mp hc))]
    have h3 : spadChecked s addr n al = some 3 := by
      unfold spadChecked at h ⊢
      exact (ite_eq_or_eq _ _ _).resolve_right h
    rw [h3]
    exact fault_eq_faulted _ 3

theorem spadAt_occupied (s : State) (occ : Nat) (b c : BitVec 6) :
    (occupied s occ).spadAt b c = ((greg s b).toNat + (greg s c).toNat) % 2 ^ 64 := by
  unfold State.spadAt
  rw [me_occupied]
  rfl

/-- What a load does that may be on its sequencer, as the model runs it. -/
theorem globalLoad_occupied {s : State} {tile : Option Nat} {occ : Nat} {h : BitVec 4} {c : BitVec 6} {n al : Nat} {k : Machine.Class}
    {r : BitVec 1} {ac : Alloc} {d : Dest} {w : MemWord}
    (hw : globalRead s tile occ h c n al k.cls k.lat k.home r ac d = some w) :
    (occupied s occ).globalLoad d h (greg s c).toNat n al k (r == 1) ac = loadEffect s w := by
  cases hw
  unfold State.globalLoad
  rw [me_occupied, checked_occupied, fallback_eq_markFallback]
  rfl

theorem spadLoad_occupied {s : State} {tile : Option Nat} {b c : BitVec 6} {n al : Nat} {d : Dest} {w : MemWord}
    (hw : spadReadWord s tile b c n al d = some w) :
    (occupied s w.occ).spadLoad d ((occupied s w.occ).spadAt b c) n al = loadEffect s w := by
  cases hw
  unfold State.spadLoad loadEffect
  dsimp only
  rw [spadAt_occupied, spadChecked_occupied, markFallback_false]
  rfl

/-- The classes of the timed forms (R176). -/
theorem classLatency_eq (m : BitVec 2) : classLatency m.toNat = latency m := by
  revert m
  decide

theorem home_timedClass (m : BitVec 2) : (timedClass m).home = homeAfter m := by
  revert m
  decide

/-- The access of a word leaves with its home cycles still to be drawn, if any are, and its promised one is to come. -/
def Departs (w : MemWord) : Prop := (∀ h, w.home = some h → 0 < h) ∧ w.acc.todo = none

theorem homeAfter_pos (m : BitVec 2) : ∀ h, homeAfter m = some h → 0 < h := by
  intro h hh
  have : ∀ m : BitVec 2, m ≠ 3 → 0 < latency m - 10 := by decide
  obtain ⟨hm, hh⟩ := Option.ite_none_left_eq_some.mp hh
  rw [← Option.some.inj hh]
  exact this m hm

theorem departs_globalRead {s : State} {tile : Option Nat} {occ : Nat} {h : BitVec 4} {c : BitVec 6} {n al k lat : Nat} {home : Option Nat}
    {r : BitVec 1} {ac : Alloc} {d : Dest} {w : MemWord} (hw : globalRead s tile occ h c n al k lat home r ac d = some w)
    (hpos : ∀ h, home = some h → 0 < h) : Departs w := by
  cases hw
  exact ⟨hpos, rfl⟩

theorem departs_spadReadWord {s : State} {tile : Option Nat} {b c : BitVec 6} {n al : Nat} {d : Dest} {w : MemWord}
    (hw : spadReadWord s tile b c n al d = some w) : Departs w := by
  cases hw
  exact ⟨fun h hh => by rw [← Option.some.inj hh]; omega, rfl⟩

theorem globalRead_timed (s : State) (tile : Option Nat) (occ : Nat) (h : BitVec 4) (c : BitVec 6) (n al : Nat) (m : BitVec 2) (r : BitVec 1)
    (ac : Alloc) (d : Dest) :
    globalRead s tile occ h c n al (timedClass m).cls (timedClass m).lat (timedClass m).home r ac d =
      globalRead s tile occ h c n al m.toNat (latency m) (homeAfter m) r ac d := by
  rw [home_timedClass, ← classLatency_eq]
  rfl

section LoadWords

variable {s : State} {w : MemWord} (hf : Free s)

include hf

/-- LDG, LDGE and their untimed forms. -/
theorem loadTile_effect {r : BitVec 1} {v : BitVec 5} {h : BitVec 4} {c : BitVec 6} {k : Machine.Class} {ac : Alloc}
    (hw : globalRead s (some v.toNat) (chunks (tileBytes s)) h c (tileBytes s) 64 k.cls k.lat k.home r ac (.tile v.toNat) = some w)
    (ht : TileFits s w) : s.loadTile r v h c k ac = .next (loadEffect s w) := by
  have heff := globalLoad_occupied hw
  have htile : w.tile = some v.toNat := by cases hw; rfl
  unfold State.loadTile
  rw [tileForm_occupied _ hf (ht _ htile), gn_occupied, shape_occupied]
  exact congrArg _ heff

/-- LDT, LDTE and their untimed forms. -/
theorem loadTaggedTile_effect {r : BitVec 1} {v : BitVec 5} {h : BitVec 4} {c : BitVec 6} {k : Machine.Class} {ac : Alloc}
    (hw : globalRead s (some v.toNat) (chunks (taggedBytes s)) h c (taggedBytes s) 64 k.cls k.lat k.home r ac
      (.tagged v.toNat (mine s).shape.toNat (mine s).fctl) = some w) (ht : TileFits s w) :
    s.loadTaggedTile r v h c k ac = .next (loadEffect s w) := by
  have heff := globalLoad_occupied hw
  have htile : w.tile = some v.toNat := by cases hw; rfl
  unfold State.loadTaggedTile
  rw [tileForm_occupied _ hf (ht _ htile), gn_occupied, shape_occupied, me_occupied]
  exact congrArg _ heff

/-- LDGS and its untimed form. -/
theorem loadScalar_effect {r : BitVec 1} {g : BitVec 5} {h : BitVec 4} {c : BitVec 6} {k : Machine.Class}
    (hw : globalRead s none 1 h c 8 8 k.cls k.lat k.home r .normal (.g g.toNat) = some w) :
    s.loadScalar r g h c k = .next (loadEffect s w) := by
  unfold State.loadScalar
  rw [issue_of_free hf, gn_occupied]
  exact congrArg _ (globalLoad_occupied hw)

theorem lds_effect {v : BitVec 5} {b c : BitVec 6}
    (hw : spadReadWord s (some v.toNat) b c (tileBytes s) 64 (.tile v.toNat) = some w) (ht : TileFits s w) :
    execLds v b c s = .next (loadEffect s w) := by
  have heff := spadLoad_occupied hw
  have htile : w.tile = some v.toNat := by cases hw; rfl
  have hocc : w.occ = s.memOcc := by cases hw; rfl
  unfold execLds
  rw [tileForm_occupied _ hf (ht _ htile), shape_occupied, ← hocc]
  exact congrArg _ heff

theorem ldsg_effect {g b c : BitVec 6} (hw : spadReadWord s none b c 8 8 (.g g.toNat) = some w) : execLdsg g b c s = .next (loadEffect s w) := by
  have heff := spadLoad_occupied hw
  have hocc : w.occ = 1 := by cases hw; rfl
  unfold execLdsg
  rw [issue_of_free hf, ← hocc]
  exact congrArg _ heff

theorem kld_effect {a h : BitVec 4} {c : BitVec 6} {m : BitVec 2} (hm : ¬ m = 3)
    (hw : globalRead s none 1 h c 16 16 (timedClass m).cls (timedClass m).lat (timedClass m).home 0 .normal (.cap a.toNat) = some w) :
    execKld a h c m s = .next (loadEffect s w) := by
  unfold execKld
  rw [issue_of_free hf, if_neg hm, gn_occupied]
  exact congrArg _ (globalLoad_occupied hw)

/-- Each load issues the one operation of its form. -/
theorem exec_loadWord {i : Instr} (hw : loadWord s i = some w) (ht : TileFits s w) : exec i s = .next (loadEffect s w) ∧ Departs w := by
  cases i
  case lds => exact ⟨lds_effect hf hw ht, departs_spadReadWord hw⟩
  case ldsg => exact ⟨ldsg_effect hf hw, departs_spadReadWord hw⟩
  case ldg m | ldge m =>
    exact ⟨loadTile_effect (k := timedClass m) hf ((globalRead_timed ..).trans hw) ht, departs_globalRead hw (homeAfter_pos m)⟩
  case ldgUnt l | ldgeUnt l => exact ⟨loadTile_effect (k := untimedClass l) hf hw ht, departs_globalRead hw nofun⟩
  case ldt m | ldte m =>
    exact ⟨loadTaggedTile_effect (k := timedClass m) hf ((globalRead_timed ..).trans hw) ht, departs_globalRead hw (homeAfter_pos m)⟩
  case ldtUnt l | ldteUnt l => exact ⟨loadTaggedTile_effect (k := untimedClass l) hf hw ht, departs_globalRead hw nofun⟩
  case ldgs m => exact ⟨loadScalar_effect (k := timedClass m) hf ((globalRead_timed ..).trans hw), departs_globalRead hw (homeAfter_pos m)⟩
  case ldgsUnt l => exact ⟨loadScalar_effect (k := untimedClass l) hf hw, departs_globalRead hw nofun⟩
  case kld m =>
    obtain ⟨hm, hw⟩ := Option.ite_none_left_eq_some.mp hw
    exact ⟨kld_effect hf hm ((globalRead_timed ..).trans hw), departs_globalRead hw (homeAfter_pos m)⟩
  all_goals cases hw

end LoadWords

theorem loadsGoToTheirHome : LoadsGoToTheirHome := by
  intro s i w hf hw ht
  obtain ⟨hexec, hpos, htodo⟩ := exec_loadWord hf hw ht
  refine ⟨fun e he => ?_, fun he => ?_⟩
  · rw [hexec, loadEffect, he]
  · obtain ⟨c, a, hat, ha, hunder, hrdc⟩ := loadEffect_sends hpos htodo he
    exact ⟨loadEffect s w, c, a, hexec, hat, ha, hunder, hrdc⟩

/-! ## Stores -/

/-- What a store does that may be on its sequencer: its fault, or its access. -/
def storeEffect (s : State) (w : MemWord) (kind : Nat) : State := match w.err with
  | some e => faulted (occupied s w.occ) e
  | none => (markFallback (occupied s w.occ) w.fb).startStore w.acc w.home kind

theorem storeEffect_sends {s : State} {w : MemWord} (kind : Nat) (hpos : ∀ h, w.home = some h → 0 < h) (ha : w.acc.todo = none)
    (he : w.err = none) :
    ∃ c a, HomeAt s w.home a c ∧ a = { sent s w.acc with todo := a.todo } ∧
      UnderWay s (storeEffect s w kind) w.occ w.fb (event c 4 (myOrder s) .accessHomeCycle (.access a) :: unanswered s a) := by
  obtain ⟨td, c, r, ch, dr, hat, hst⟩ := startStore_eq (markFallback (occupied s w.occ) w.fb) w.acc kind hpos ha
  have heff : storeEffect s w kind = (markFallback (occupied s w.occ) w.fb).startStore w.acc w.home kind := by
    unfold storeEffect
    rw [he]
  dsimp only at hst
  rw [sent_markFallback, sent_occupied] at hat hst
  refine ⟨c, { sent s w.acc with todo := td }, homeAt_occupied hat, rfl, ?_⟩
  refine underWay_of_outstanding rfl (o := outstandingWith s.now (mine (occupied s w.occ)) (storeRecord s w.acc w.home kind))
    ?_ ⟨_, mem_outstandingWith _ _ _, rfl, rfl⟩
  rw [heff, hst]
  rfl

theorem globalStore_occupied {s : State} {tile : Option Nat} {occ : Nat} {h : BitVec 4} {off n al data : Nat} {tags : Option (List Nat)}
    {k : Machine.Class} {r : BitVec 1} {ac : Alloc} {kind : Nat} {w : MemWord} (ct : Bool)
    (hw : globalWrite s tile occ h off n al data tags k.cls (if kind = 5 then none else k.home) r ac = some w) :
    (occupied s occ).globalStore h off n al data tags k (r == 1) ac kind ct =
      storeEffect s { w with acc := { w.acc with ctags := if ct then 1 else 0 } } kind := by
  cases hw
  unfold State.globalStore
  rw [me_occupied, checked_occupied, fallback_eq_markFallback]
  rfl

theorem globalWrite_timed (s : State) (tile : Option Nat) (occ : Nat) (h : BitVec 4) (off n al data : Nat) (tags : Option (List Nat))
    (m : BitVec 2) (r : BitVec 1) (ac : Alloc) :
    globalWrite s tile occ h off n al data tags (timedClass m).cls (timedClass m).home r ac =
      globalWrite s tile occ h off n al data tags m.toNat (homeAfter m) r ac := by
  rw [home_timedClass]
  rfl

theorem spadStore_occupied {s : State} {tile : Option Nat} {b c : BitVec 6} {n al data : Nat} {w : MemWord}
    (hw : spadWriteWord s tile b c n al data = some w) :
    (occupied s w.occ).spadStore data ((occupied s w.occ).spadAt b c) n al = storeEffect s w 0 := by
  cases hw
  unfold State.spadStore storeEffect
  dsimp only
  rw [spadAt_occupied, spadChecked_occupied, markFallback_false]
  rfl

section StoreWords

variable {s : State} {w : MemWord} (hf : Free s)

include hf

theorem sts_effect {v : BitVec 5} {b c : BitVec 6}
    (hw : spadWriteWord s (some v.toNat) b c (tileBytes s) 64 (tileOf s s.cur.sid v.toNat).toNat = some w) (ht : TileFits s w) :
    execSts v b c s = .next (storeEffect s w 0) := by
  have heff := spadStore_occupied hw
  have htile : w.tile = some v.toNat := by cases hw; rfl
  have hocc : w.occ = s.memOcc := by cases hw; rfl
  unfold execSts
  rw [tileForm_occupied _ hf (ht _ htile), shape_occupied, tile_sameOperands (sameOperands_occupied s _), ← hocc]
  exact congrArg _ heff

theorem stsg_effect {g b c : BitVec 6} (hw : spadWriteWord s none b c 8 8 (greg s g).toNat = some w) :
    execStsg g b c s = .next (storeEffect s w 0) := by
  have heff := spadStore_occupied hw
  have hocc : w.occ = 1 := by cases hw; rfl
  unfold execStsg
  rw [issue_of_free hf, gn_occupied, ← hocc]
  exact congrArg _ heff

/-- STG and its untimed form. -/
theorem storeTile_effect {r : BitVec 1} {v : BitVec 5} {h : BitVec 4} {c : BitVec 6} {k : Machine.Class}
    (hw : globalWrite s (some v.toNat) (chunks (tileBytes s)) h (greg s c).toNat (tileBytes s) 64 (tileOf s s.cur.sid v.toNat).toNat none
      k.cls k.home r .normal = some w) (ht : TileFits s w) : s.storeTile r v h c k = .next (storeEffect s w 0) := by
  have heff := globalStore_occupied (kind := 0) false hw
  have htile : w.tile = some v.toNat := by cases hw; rfl
  have hct : ({ w with acc := { w.acc with ctags := if false then 1 else 0 } } : MemWord) = w := by cases hw; rfl
  unfold State.storeTile
  rw [tileForm_occupied _ hf (ht _ htile), gn_occupied, shape_occupied, tile_sameOperands (sameOperands_occupied s _)]
  exact congrArg _ (heff.trans (by rw [hct]))

/-- STGS and its untimed form. -/
theorem storeScalar_effect {r : BitVec 1} {g : BitVec 5} {h : BitVec 4} {c : BitVec 6} {k : Machine.Class}
    (hw : globalWrite s none 1 h (greg s c).toNat 8 8 (greg s (g.setWidth 6)).toNat none k.cls k.home r .normal = some w) :
    s.storeScalar r g h c k = .next (storeEffect s w 0) := by
  have heff := globalStore_occupied (kind := 0) false hw
  have hct : ({ w with acc := { w.acc with ctags := if false then 1 else 0 } } : MemWord) = w := by cases hw; rfl
  have hg : (occupied s 1).me.gn g.toNat = (greg s (g.setWidth 6)).toNat :=
    congrArg BitVec.toNat (gr_sameOperands (sameOperands_occupied s 1) g)
  unfold State.storeScalar
  rw [issue_of_free hf, gn_occupied, hg]
  exact congrArg _ (heff.trans (by rw [hct]))

theorem kst_effect {a h : BitVec 4} {c : BitVec 6} {m : BitVec 2} (hm : ¬ m = 3)
    (hw : globalWrite s none 1 h (greg s c).toNat 16 16 (Fm.get {} (mine s).k a.toNat).bits.toNat none (timedClass m).cls (timedClass m).home
      0 .normal = some w) :
    execKst a h c m s = .next (storeEffect s { w with acc := { w.acc with ctags := if (Fm.get {} (mine s).k a.toNat).tag then 1 else 0 } } 0) := by
  have hk : (occupied s 1).me.kr a.toNat = Fm.get {} (mine s).k a.toNat := by
    rw [me_occupied]
    rfl
  unfold execKst
  rw [issue_of_free hf, if_neg hm, gn_occupied]
  dsimp only
  rw [hk]
  exact congrArg _ (globalStore_occupied (kind := 0) _ hw)

end StoreWords

/-- What STQ stores of each element: its code and its flags (R186). -/
def quantList (s : State) (v : BitVec 5) (x : Nat) : List (Nat × Nat) :=
  let f := bits x 52 3
  let sc := selectScale (Fm.get {} (mine s).rings (bits x 48 4)).counted f
  (List.range (count s)).map fun i =>
    let q := quantise f sc (decodeVal (typ s) (elem s v.toNat i))
    (q.1, q.2 ||| decodeFlags (typ s) (elem s v.toNat i))

/-- The elements of STQ, as the model reads them in the state in which it has issued. -/
theorem quantList_occupied (s : State) (occ : Nat) (v : BitVec 5) (x : Nat) :
    ((occupied s occ).elemsOf v.toNat).map (fun e =>
      let q := quantise (bits x 52 3) (selectScale ((occupied s occ).me.ring (bits x 48 4)).counted (bits x 52 3))
        (decodeVal (shapeType (occupied s occ).me.shape) e)
      (q.1, q.2 ||| decodeFlags (shapeType (occupied s occ).me.shape) e)) = quantList s v x := by
  rw [elemsOf_sameOperands (sameOperands_occupied s occ), ring_sameOperands (sameOperands_occupied s occ), shape_occupied, List.map_map]
  rfl

/-- What a store does after its access is on its way: STQ raises its flags (R186). -/
def flagged (s t : State) (i : Instr) (w : MemWord) : State := if raisesFlags i then t.land w.occ (storeFlags s i) else t

/-- The effect of a store: its fault, or its access and its flags. -/
def storeWordEffect (s : State) (i : Instr) (w : MemWord) : State := match w.err with
  | some e => faulted (occupied s w.occ) e
  | none => flagged s (storeEffect s w 0) i w

theorem fault_faulted (s : State) (e : Nat) : (faulted s e).cur.fault = true := rfl

/-- An access on its way leaves what the present word is, but for its fallback. -/
theorem cur_of_underWay {s t : State} {occ : Nat} {fb : Bool} {evs : List Ev} (h : UnderWay s t occ fb evs) :
    t.now = s.now ∧ t.cur.sid = s.cur.sid ∧ t.cur.col = s.cur.col ∧ t.cur.fault = s.cur.fault := by
  obtain ⟨-, ht, -⟩ := h
  rw [ht]
  exact ⟨rfl, rfl, rfl, rfl⟩

/-- A word with an access on its way whose results land as well. -/
theorem land_underWay {s t : State} {occ : Nat} {fb : Bool} {evs : List Ev} (h : UnderWay s t occ fb evs) (lat : Nat) (l : List Land) :
    UnderWay s (t.land lat l) occ fb (evs ++ [result s lat l]) := by
  obtain ⟨hnow, hsid, hcol, -⟩ := cur_of_underWay h
  obtain ⟨hag, ht, hrest⟩ := h
  have hland : t.land lat l = { t with agenda := t.agenda ++ [result s lat l] } := by
    unfold State.land State.landFor result
    rw [← hnow, ← hsid, ← hcol]
    rfl
  rw [hland]
  refine ⟨?_, ?_, hrest⟩
  · rw [← List.append_assoc, ← hag]
  · rw [ht]

/-- The store of STQ runs to its flags where it does not fault. -/
theorem storeEffect_flagged {s : State} {w : MemWord} {i : Instr} (hfault : s.cur.fault = false) (hi : raisesFlags i = true)
    (hpos : ∀ h, w.home = some h → 0 < h) (ha : w.acc.todo = none) :
    (if (storeEffect s w 0).cur.fault then storeEffect s w 0 else (storeEffect s w 0).land w.occ (storeFlags s i)) = storeWordEffect s i w := by
  unfold storeWordEffect
  cases he : w.err with
  | some e =>
    have heff : storeEffect s w 0 = faulted (occupied s w.occ) e := by
      unfold storeEffect
      rw [he]
    rw [heff, if_pos (fault_faulted _ _)]
  | none =>
    obtain ⟨c, a, -, -, hunder⟩ := storeEffect_sends 0 hpos ha he
    obtain ⟨-, -, -, hcur⟩ := cur_of_underWay hunder
    rw [if_neg (by rw [hcur, hfault]; exact Bool.false_ne_true)]
    unfold flagged
    rw [if_pos hi]

theorem storeQuantised_effect {s : State} {w : MemWord} {i : Instr} {r : BitVec 1} {v : BitVec 5} {h : BitVec 4} {c : BitVec 6} {k : Machine.Class} (hf : Free s)
    (hfault : s.cur.fault = false) (hi : raisesFlags i = true) (hfl : storeFlags s i = flagLands (quantised s v (greg s c).toNat).2.2)
    (hpos : ∀ h, k.home = some h → 0 < h)
    (hw : quantWord s r v h c k.cls k.home = some w) (ht : TileFits s w) :
    s.storeQuantised r v h c k = .next (storeWordEffect s i w) ∧ Departs w := by
  unfold quantWord at hw
  dsimp only at hw
  obtain ⟨w', hw', rfl⟩ := Option.map_eq_some_iff.mp hw
  have hd : Departs w' := by cases hw'; exact ⟨hpos, rfl⟩
  have htile : w'.tile = some v.toNat := by cases hw'; rfl
  have hocc : w'.occ = cdiv (64 * stqBlocks s.me.shape (bits (greg s c).toNat 52 3)) 2048 := by cases hw'; rfl
  have hct : ({ w' with acc := { w'.acc with ctags := if false then 1 else 0 } } : MemWord) = w' := by cases hw'; rfl
  unfold State.storeQuantised
  dsimp only
  rw [show s.me.gn c.toNat = (greg s c).toNat from rfl]
  by_cases h5 : 5 ≤ bits (greg s c).toNat 52 3
  · rw [if_pos h5] at ht ⊢
    rw [tileForm_occupied _ hf (ht _ htile), if_pos h5]
    refine ⟨?_, hd⟩
    rw [← hocc]
    exact congrArg _ (fault_eq_faulted _ 1)
  · rw [if_neg h5] at ht ⊢
    refine ⟨?_, hd⟩
    rw [tileForm_occupied _ hf (ht _ htile), if_neg h5]
    have helems := quantList_occupied s (cdiv (64 * stqBlocks s.me.shape (bits (greg s c).toNat 52 3)) 2048) v (greg s c).toNat
    have heff := globalStore_occupied (kind := 0) false hw'
    rw [hct] at heff
    rw [← storeEffect_flagged hfault hi hd.1 hd.2, ← heff, hfl, hocc]
    dsimp only at helems ⊢
    rw [ring_sameOperands (sameOperands_occupied s _)] at helems
    unfold Ring.counted at helems
    rw [ring_sameOperands (sameOperands_occupied s _), helems]
    rfl

theorem departs_globalWrite {s : State} {tile : Option Nat} {occ : Nat} {h : BitVec 4} {off n al data : Nat} {tags : Option (List Nat)}
    {k : Nat} {home : Option Nat} {r : BitVec 1} {ac : Alloc} {w : MemWord}
    (hw : globalWrite s tile occ h off n al data tags k home r ac = some w) (hpos : ∀ h, home = some h → 0 < h) : Departs w := by
  cases hw
  exact ⟨hpos, rfl⟩

theorem departs_spadWriteWord {s : State} {tile : Option Nat} {b c : BitVec 6} {n al data : Nat} {w : MemWord}
    (hw : spadWriteWord s tile b c n al data = some w) : Departs w := by
  cases hw
  exact ⟨fun h hh => by rw [← Option.some.inj hh]; omega, rfl⟩

/-- A store that raises no flags of its own has the effect of its access. -/
theorem storeWordEffect_of_plain {s : State} {i : Instr} {w : MemWord} (h : raisesFlags i = false) :
    storeWordEffect s i w = storeEffect s w 0 := by
  unfold storeWordEffect flagged
  rw [h, if_neg Bool.false_ne_true]
  unfold storeEffect
  cases w.err <;> rfl

/-- Each store issues the one operation of its form. -/
theorem exec_storeWord {s : State} {i : Instr} {w : MemWord} (hf : Free s) (hfault : s.cur.fault = false) (hw : storeWord s i = some w)
    (ht : TileFits s w) : exec i s = .next (storeWordEffect s i w) ∧ Departs w := by
  cases i
  case stq r v h c m =>
    have hwc : quantWord s r v h c (timedClass m).cls (timedClass m).home = some w := by rw [home_timedClass]; exact hw
    exact storeQuantised_effect hf hfault rfl rfl (by rw [home_timedClass]; exact homeAfter_pos m) hwc ht
  case stqUnt l => exact storeQuantised_effect (k := untimedClass l) hf hfault rfl rfl nofun hw ht
  all_goals rw [storeWordEffect_of_plain rfl]
  case sts => exact ⟨sts_effect hf hw ht, departs_spadWriteWord hw⟩
  case stsg => exact ⟨stsg_effect hf hw, departs_spadWriteWord hw⟩
  case stg m =>
    exact ⟨storeTile_effect (k := timedClass m) hf ((globalWrite_timed ..).trans hw) ht, departs_globalWrite hw (homeAfter_pos m)⟩
  case stgUnt l => exact ⟨storeTile_effect (k := untimedClass l) hf hw ht, departs_globalWrite hw nofun⟩
  case stgs m => exact ⟨storeScalar_effect (k := timedClass m) hf ((globalWrite_timed ..).trans hw), departs_globalWrite hw (homeAfter_pos m)⟩
  case stgsUnt l => exact ⟨storeScalar_effect (k := untimedClass l) hf hw, departs_globalWrite hw nofun⟩
  case kst m =>
    obtain ⟨hm, hw⟩ := Option.ite_none_left_eq_some.mp hw
    obtain ⟨w', hw', rfl⟩ := Option.map_eq_some_iff.mp hw
    have hd : Departs w' := departs_globalWrite hw' (homeAfter_pos m)
    exact ⟨kst_effect hf hm ((globalWrite_timed ..).trans hw'), hd⟩
  all_goals cases hw

theorem storesGoToTheirHome : StoresGoToTheirHome := by
  intro s i w hf hfault hw ht
  obtain ⟨hexec, hpos, htodo⟩ := exec_storeWord hf hfault hw ht
  refine ⟨fun e he => ?_, fun he => ?_⟩
  · rw [hexec, storeWordEffect, he]
  · obtain ⟨c, a, hat, ha, hunder⟩ := storeEffect_sends 0 hpos htodo he
    refine ⟨storeWordEffect s i w, c, a, hexec, hat, ha, ?_⟩
    have heff : storeWordEffect s i w = flagged s (storeEffect s w 0) i w := by
      unfold storeWordEffect
      rw [he]
    rw [heff]
    unfold flagged
    split
    · exact land_underWay hunder _ _
    · rw [List.append_nil]
      exact hunder

/-! ## Streaming stores (R184, R187, R257) -/

/-- What STNT does that may be on its sequencer: its fault, or its access and its record for a later DRAIN. -/
def streamEffect (s : State) (w : MemWord) (b : Option Nat) : State := match w.err with
  | some e => faulted (occupied s w.occ) e
  | none => (storeEffect s w 5).updMe fun q => { q with stnt := q.stnt ++ [{ id := s.nextId, bound := b }] }

/-- The store of STNT runs to its record where it does not fault. -/
theorem storeEffect_recorded {s : State} {w : MemWord} (b : Option Nat) (hfault : s.cur.fault = false) (hd : Departs w) :
    (if (storeEffect s w 5).cur.fault then storeEffect s w 5
      else (storeEffect s w 5).updMe fun q => { q with stnt := q.stnt ++ [{ id := s.nextId, bound := b }] }) = streamEffect s w b := by
  unfold streamEffect
  cases he : w.err with
  | some e =>
    have heff : storeEffect s w 5 = faulted (occupied s w.occ) e := by
      unfold storeEffect
      rw [he]
    rw [heff, if_pos (fault_faulted _ _)]
  | none =>
    obtain ⟨c, a, -, -, hunder⟩ := storeEffect_sends 5 hd.1 hd.2 he
    obtain ⟨-, -, -, hcur⟩ := cur_of_underWay hunder
    rw [if_neg (by rw [hcur, hfault]; exact Bool.false_ne_true)]

theorem storeNonTemporal_effect {s : State} {w : MemWord} {r : BitVec 1} {v : BitVec 5} {h : BitVec 4} {c : BitVec 6} {k : Machine.Class}
    (hf : Free s) (hfault : s.cur.fault = false)
    (hw : globalWrite s (some v.toNat) (chunks (tileBytes s)) h (greg s c).toNat (tileBytes s) 64 (tileOf s s.cur.sid v.toNat).toNat none
      k.cls none r .stream = some w) (ht : TileFits s w) :
    s.storeNonTemporal r v h c k = .next (streamEffect s w (if k.cls < 3 then some (s.now + k.lat - 10 + 64) else none)) := by
  have heff := globalStore_occupied (kind := 5) false hw
  have htile : w.tile = some v.toNat := by cases hw; rfl
  have hct : ({ w with acc := { w.acc with ctags := if false then 1 else 0 } } : MemWord) = w := by cases hw; rfl
  rw [hct] at heff
  unfold State.storeNonTemporal
  rw [tileForm_occupied _ hf (ht _ htile), gn_occupied, shape_occupied, tile_sameOperands (sameOperands_occupied s _),
    ← storeEffect_recorded _ hfault (departs_globalWrite hw nofun), ← heff]
  rfl

theorem exec_stntWord {s : State} {i : Instr} {w : MemWord} {b : Option Nat} (hf : Free s) (hfault : s.cur.fault = false)
    (hw : stntWord s i = some (w, b)) (ht : TileFits s w) : exec i s = .next (streamEffect s w b) ∧ Departs w ∧ w.home = none := by
  cases i
  case stnt m =>
    simp only [stntWord, Option.map_eq_some_iff, Prod.mk.injEq] at hw
    obtain ⟨w', hw', rfl, rfl⟩ := hw
    refine ⟨?_, departs_globalWrite hw' nofun, by cases hw'; rfl⟩
    have hb : (if m = 3 then none else some (s.now + latency m - 10 + 64)) =
        if (timedClass m).cls < 3 then some (s.now + (timedClass m).lat - 10 + 64) else none := by
      have : ∀ m : BitVec 2, m = 3 ↔ ¬ m.toNat < 3 := by decide
      rw [if_congr (this m) rfl rfl, ite_not, ← classLatency_eq]
      rfl
    rw [hb]
    exact storeNonTemporal_effect (k := timedClass m) hf hfault hw' ht
  case stntUnt l =>
    simp only [stntWord, Option.map_eq_some_iff, Prod.mk.injEq] at hw
    obtain ⟨w', hw', rfl, rfl⟩ := hw
    exact ⟨storeNonTemporal_effect (k := untimedClass l) hf hfault hw' ht, departs_globalWrite hw' nofun, by cases hw'; rfl⟩
  all_goals cases hw

theorem storage_of_underWay {s t : State} {occ : Nat} {fb : Bool} {evs : List Ev} (h : UnderWay s t occ fb evs) :
    t.mem = s.mem ∧ t.spad = s.spad ∧ t.l2 = s.l2 ∧ t.cores = s.cores := by
  obtain ⟨-, ht, -⟩ := h
  rw [ht]
  exact ⟨rfl, rfl, rfl, rfl⟩

theorem streamingStores : StreamingStores := by
  intro s i w b hf hfault hw ht
  obtain ⟨hexec, ⟨hpos, htodo⟩, hhome⟩ := exec_stntWord hf hfault hw ht
  refine ⟨fun e he => ?_, fun he => ?_⟩
  · rw [hexec, streamEffect, he]
  · obtain ⟨c, a, hat, ha, hunder⟩ := storeEffect_sends 5 hpos htodo he
    obtain ⟨-, hsid, -⟩ := cur_of_underWay hunder
    obtain ⟨hmem, hspad, hl2, hcores⟩ := storage_of_underWay hunder
    obtain ⟨hag, -, hothers, hmine, -⟩ := hunder
    rw [mine_occupied] at hmine
    have heff : streamEffect s w b = (storeEffect s w 5).updMe fun q => { q with stnt := q.stnt ++ [{ id := s.nextId, bound := b }] } := by
      unfold streamEffect
      rw [he]
    generalize storeEffect s w 5 = t at *
    have hq : mine (streamEffect s w b) = { mine t with stnt := (mine t).stnt ++ [{ id := s.nextId, bound := b }] } := by
      rw [heff]
      exact get_set_same _ _ _ _
    rw [hmine] at hq
    refine ⟨streamEffect s w b, c, a, hexec, hhome ▸ hat, ha, heff ▸ hag, by rw [hq]; rfl, by rw [hq]; rfl, by rw [hq]; rfl,
      by rw [hq]; rfl, by rw [hq]; rfl, heff ▸ hmem, heff ▸ hspad, heff ▸ hl2, heff ▸ hcores, fun j hj => ?_⟩
    rw [heff, ← hothers j hj]
    exact get_set_other _ _ _ _ _ (by rw [hsid]; exact Ne.symm hj)

/-- Settles O14. -/
theorem loadsAndStores : Obligations.LoadsAndStores := ⟨loadsGoToTheirHome, storesGoToTheirHome, streamingStores⟩

end Sys2Proof.Laws
end

/-! # O18: late arrivals, starved words and queue violations (R177, R226, R316 to R318) -/

section

namespace Sys2Proof.Laws

open Sys2Proof Sys2Proof.Machine Sys2Proof.Claims

/-! ## A violation in each mode (R317) -/

theorem violation_untimed {s : State} {sid : Nat} (h : (s.seq sid).ut = true) (col : Nat) (first : Bool) : s.violation sid col first = s := by
  unfold State.violation
  rw [if_pos h]

theorem violation_trap {s : State} {sid : Nat} (hu : (s.seq sid).ut = false) (ht : (s.seq sid).trapMode = true) (col : Nat) (first : Bool) :
    s.violation sid col first = if first then withSeq s sid ((s.seq sid).post 0x12 col) else s := by
  unfold State.violation
  rw [if_neg (by rw [hu]; exact Bool.false_ne_true), if_pos ht]
  rfl

theorem violation_stall {s : State} {sid : Nat} (hu : (s.seq sid).ut = false) (ht : (s.seq sid).trapMode = false) (col : Nat) (first : Bool) :
    s.violation sid col first = withSeq s sid (if (s.seq sid).heldAt = some s.now then s.seq sid else heldOnce s (s.seq sid)) := by
  unfold State.violation
  rw [if_neg (by rw [hu]; exact Bool.false_ne_true), if_neg (by rw [ht]; exact Bool.false_ne_true)]
  rfl

/-- An event that is not yet pending joins the pending set of a task that no event has ended (R325). -/
theorem post_eq {q : Seq} {code : Nat} (col : Nat) (hf : q.fatal = false) (hp : ∀ e ∈ q.pend, e.code ≠ code) :
    q.post code col = { q with pend := q.pend ++ [{ code := code, col := col }] } := by
  have hany : (q.pend.any fun e => e.code == code) = false := List.any_eq_false.mpr fun e he => by simpa using hp e he
  unfold Seq.post
  rw [hf, hany, if_neg (by decide)]

theorem fatal_of_run {q : Seq} (h : q.run = .run) : q.fatal = false := by
  unfold Seq.fatal
  rw [h]

/-! ## A load whose data is late (R177) -/

/-- The model's test of a late load: an access of that number that is not complete. -/
theorem late_iff (q : Seq) (id now : Nat) :
    (q.outst.any fun o => o.id == id && !o.done now) = false ↔ ∀ o ∈ q.outst, o.id = id → ∃ c, o.at_ = some c ∧ c ≤ now := by
  rw [List.any_eq_false]
  refine forall₂_congr fun o _ => ?_
  unfold Outstanding.done
  cases o.at_ <;> simp

theorem arrivalViolations : ArrivalViolations := by
  intro s a harg q
  show (_ → execArrivalViolation s = _) ∧ (_ → _ → _ → (_ → _ → execArrivalViolation s = _) ∧ (_ → _ → execArrivalViolation s = _))
  unfold execArrivalViolation
  rw [harg]
  dsimp only
  refine ⟨fun hdone => ?_, fun ⟨o, ho, hid, hat⟩ hrun hut => ?_⟩
  · rw [if_pos]
    rw [show s.seq a.sid = q from rfl, (late_iff q a.id s.now).mpr hdone]
    rfl
  · have hlate : (q.outst.any fun o => o.id == a.id && !o.done s.now) = true := by
      refine Bool.eq_true_of_not_eq_false fun h => ?_
      obtain ⟨c, hc, -⟩ := (late_iff ..).mp h o ho hid
      rw [hat] at hc
      cases hc
    rw [if_neg (by rw [show s.seq a.sid = q from rfl, hlate, hrun]; decide)]
    refine ⟨fun ht hp => ?_, fun ht hheld => ?_⟩
    · rw [if_pos (by rw [show s.seq a.sid = q from rfl, ht, Bool.or_true]), violation_trap hut ht, if_pos rfl,
        show s.seq a.sid = q from rfl, post_eq _ (fatal_of_run hrun) hp]
    · rw [if_neg (by rw [show s.seq a.sid = q from rfl, ht, hut]; decide), violation_stall hut ht,
        show s.seq a.sid = q from rfl, if_neg hheld]
      rfl

/-! ## A word that has not come to its queue (R316) -/

theorem updSeq_withSeq (s : State) (sid : Nat) (q : Seq) (f : Seq → Seq) : (withSeq s sid q).updSeq sid f = withSeq s sid (f q) := by
  unfold State.updSeq State.seq State.setSeq withSeq
  dsimp only
  rw [get_set_same, set_set]

theorem post_keeps (q : Seq) (code col : Nat) :
    (q.post code col).fq = q.fq ∧ (q.post code col).bq = q.bq ∧ (q.post code col).trapMode = q.trapMode := by
  unfold Seq.post
  split <;> exact ⟨rfl, rfl, rfl⟩

/-- A starved word is marked as tried in its cycle, and as one whose event is posted. -/
def markTried (s : State) (fo : Nat) (q : Seq) (x : QWord) : QWord :=
  if x.fo = fo then { x with posted := x.posted || q.trapMode, tried := some s.now } else x

/-- A word that is due and still ahead of its queue. -/
theorem execFetchStarvation_eq {s : State} {sid fo : Nat} {e : QWord} (harg : s.arg = .seqN sid fo)
    (he : (s.seq sid).ahead.find? (fun e => e.fo == fo) = some e) :
    exec .fetchStarvation s = .next ((s.violation sid e.col (!e.posted)).updSeq sid fun q =>
      { q with fq := q.fq.map (markTried s fo q), bq := q.bq.map (markTried s fo q) }) := by
  show execFetchStarvation s = _
  unfold execFetchStarvation
  rw [harg]
  dsimp only
  rw [he]
  rfl

theorem starvationIsAViolation : StarvationIsAViolation := by
  intro s sid fo harg q
  refine ⟨fun hno => ?_, ?_⟩
  · show execFetchStarvation s = _
    unfold execFetchStarvation
    rw [harg]
    dsimp only
    rw [List.find?_eq_none.mpr fun e h => by simpa using hno e h]
  · intro e he mark posted
    rw [execFetchStarvation_eq harg he]
    refine ⟨?_, fun hu ht hp => ?_, fun hu ht hh => ?_⟩
    · intro hquiet
      by_cases hu : q.ut = true
      · rw [violation_untimed hu]
        rfl
      · have hu : q.ut = false := Bool.eq_false_iff.mpr hu
        rcases hquiet with h | ⟨ht, hp⟩ | ⟨ht, hh⟩
        · rw [hu] at h
          cases h
        · rw [violation_trap hu ht, hp, Bool.not_true, if_neg Bool.false_ne_true]
          rfl
        · rw [violation_stall hu ht, show s.seq sid = q from rfl, if_pos hh, updSeq_withSeq]
          rfl
    · obtain ⟨hfq, hbq, htrap⟩ := post_keeps q 0x12 e.col
      rw [violation_trap hu ht, hp]
      show Host.Outcome.next ((withSeq s sid (q.post 0x12 e.col)).updSeq sid _) = _
      rw [updSeq_withSeq, hfq, hbq]
      unfold markTried
      rw [htrap]
    · rw [violation_stall hu ht, show s.seq sid = q from rfl, if_neg hh, updSeq_withSeq]
      rfl

/-! ## A push or a pop that must wait (R226) -/

/-- `t` has the sequencers of `s` and its present word. -/
def SameWords (s t : State) : Prop := t.seqs = s.seqs ∧ t.cur = s.cur

theorem SameWords.trans {s t u : State} (h : SameWords s t) (k : SameWords t u) : SameWords s u := ⟨k.1.trans h.1, k.2.trans h.2⟩

theorem SameWords.mine_eq {s t : State} (h : SameWords s t) : mine t = mine s := by
  unfold mine
  rw [h.1, h.2]

theorem sameWords_pushEntry (s : State) (core kind q : Nat) (e : EntryBits) (part : Nat) : SameWords s (s.pushEntry core kind q e part) := by
  unfold State.pushEntry
  dsimp only
  split
  · exact ⟨rfl, rfl⟩
  · split <;> exact ⟨rfl, rfl⟩

theorem sameWords_servePort (core kind q n : Nat) (s : State) : SameWords s (s.servePort core kind q n) := by
  induction n generalizing s with
  | zero => exact ⟨rfl, rfl⟩
  | succ n ih =>
    unfold State.servePort
    split
    · exact ⟨rfl, rfl⟩
    · exact SameWords.trans (sameWords_pushEntry (s.updPort _ _ _ _) _ _ _ _ _) (ih _)
    · exact ih (s.updPort _ _ _ _)

theorem sameWords_pushAt (s : State) (sid kind q : Nat) (e : EntryBits) (j issue : Nat) : SameWords s (s.pushAt sid kind q e j issue) :=
  sameWords_servePort _ _ _ _ ((s.keepDepths (coreKey sid) kind q).updPort _ _ _ _)

theorem sameWords_returnCredit (s : State) (core kind q : Nat) (it : QItem) (part : Nat) : SameWords s (s.returnCredit core kind q it part) := by
  unfold State.returnCredit
  split <;> exact ⟨rfl, rfl⟩

theorem sameWords_popEntry (s : State) (w : PopWait) (it : QItem) (rest : List QItem) : SameWords s (s.popEntry w it rest) :=
  sameWords_returnCredit (s.updCore _ _) _ _ _ _ _

theorem sameWords_servePops (core kind q n : Nat) (s : State) : SameWords s (s.servePops core kind q n) := by
  induction n generalizing s with
  | zero => exact ⟨rfl, rfl⟩
  | succ n ih =>
    unfold State.servePops
    dsimp only
    split
    · exact SameWords.trans (sameWords_popEntry (s.updCore _ _) _ _ _) (ih _)
    · exact ⟨rfl, rfl⟩

theorem sameWords_popAt (s : State) (w : PopWait) : SameWords s (s.popAt w) :=
  sameWords_servePops _ _ _ _ ((s.keepDepths (coreKey w.sid) w.kind w.q).updCore _ _)

theorem sameWords_foldl {α : Type} (f : State → α → State) (hf : ∀ s x, SameWords s (f s x)) (l : List α) (s : State) :
    SameWords s (l.foldl f s) := by
  induction l generalizing s with
  | nil => exact ⟨rfl, rfl⟩
  | cons x l ih => exact (hf s x).trans (ih _)

/-- The model's test of a push that must wait. -/
theorem short_of_isShort {p : Port} (h : isShort p) : (p.can && p.clear) = false := by
  unfold Port.can Port.clear
  rcases h with h | ⟨e, i, c, j, h⟩
  · rw [show (if p.loopback then p.resv else p.credits) = tokens p from rfl, h]
    rfl
  · rw [List.any_eq_true.mpr ⟨_, h, rfl⟩, Bool.not_true, Bool.and_false]

theorem queOk_of_fits {s : State} {q : Nat} {l : List Nat} (hq : QueueFits s q) (hn : Nameable s l) : s.queOk q l = true := by
  obtain ⟨hu, hq⟩ := hq
  have hqueue : s.queueOk q = true := by
    unfold State.queueOk
    cases hs : s.split s.cur.sid with
    | false => simp
    | true => simpa using hq hs
  unfold State.queOk
  rw [isMgmt_eq_false hu, hqueue, tilesOk_of_nameable hn]
  rfl

/-- A QUE word that finds its queue short issues in TRAP mode only (R226, R317). -/
theorem issueShort_stall {s : State} {occ : Nat} {k : State → State} (hf : Free s) (hu : (mine s).ut = false) (ht : (mine s).trapMode = false)
    (hh : (mine s).heldAt ≠ some s.now) :
    s.issueShort occ true k = .next { withMine s (heldOnce s (mine s)) with cur := { s.cur with held := true } } := by
  unfold State.issueShort
  rw [colBusy_of_free hf, if_neg Bool.false_ne_true, if_pos (by rw [show s.me = mine s from rfl, ht]; rfl), stall_eq_waiting]
  unfold waiting
  dsimp only
  rw [if_neg (by rw [hu]; exact Bool.false_ne_true), if_neg (by rw [ht]; exact Bool.false_ne_true), if_neg hh]

theorem issueShort_trap {s : State} {occ : Nat} {k : State → State} (hf : Free s) (hu : (mine s).ut = false) (ht : (mine s).trapMode = true)
    (hp : s.cur.posted = false) (hfatal : (mine s).fatal = false) (hpend : ∀ e ∈ (mine s).pend, e.code ≠ 0x12) :
    s.issueShort occ true k =
      .next (k (withMine s { mine (occupied s occ) with pend := (mine s).pend ++ [{ code := 0x12, col := s.cur.col }] })) := by
  have hseq : (occupied s occ).seq s.cur.sid = colUntil (mine s) s.cur.col (s.now + occ) := me_occupied s occ
  have hposts : (occupied s occ).violation s.cur.sid s.cur.col (!s.cur.posted) =
      withMine s { mine (occupied s occ) with pend := (mine s).pend ++ [{ code := 0x12, col := s.cur.col }] } := by
    rw [hp, violation_trap (by rw [hseq]; exact hu) (by rw [hseq]; exact ht), Bool.not_false, if_pos rfl, hseq,
      post_eq (q := colUntil (mine s) s.cur.col (s.now + occ)) _ hfatal hpend, mine_occupied]
    unfold withSeq occupied withMine
    dsimp only
    rw [set_set]
    rfl
  unfold State.issueShort
  rw [colBusy_of_free hf, if_neg Bool.false_ne_true, if_neg (by rw [show s.me = mine s from rfl, ht, hu]; decide), ← hposts]
  rfl

/-- A push that is short is a QUE word that finds its queue short; it leaves the sequencers. -/
theorem pushWord_short {s : State} {kind : Nat} {p : BitVec 4} {v : BitVec 5} (n : BitVec 2) (hq : QueueFits s p.toNat) (hn : Nameable s [v.toNat])
    (hb : (outPort s kind p.toNat).bound = true) (hs : isShort (outPort s kind p.toNat)) :
    ∃ k, s.pushWord kind p v n = s.issueShort (n.toNat + 1) true k ∧ ∀ t, SameWords t (k t) := by
  have hcan : ((s.port (coreKey s.cur.sid) kind (s.physQueue p.toNat)).can && (s.port (coreKey s.cur.sid) kind (s.physQueue p.toNat)).clear) = false :=
    short_of_isShort hs
  have hok : (s.queOk p.toNat [v.toNat] && (s.port (coreKey s.cur.sid) kind (s.physQueue p.toNat)).bound) = true := by
    rw [queOk_of_fits hq hn]
    exact hb
  unfold State.pushWord
  dsimp only
  rw [hok, hcan]
  refine ⟨_, rfl, fun t => ?_⟩
  rw [if_neg (by decide)]
  refine SameWords.trans ?_ (sameWords_pushAt ..)
  refine sameWords_foldl _ ?_ _ t
  exact fun _ _ => ⟨rfl, rfl⟩

theorem popWord_short {s : State} {kind : Nat} {q : BitVec 4} {v : BitVec 5} (n : BitVec 2) (hq : QueueFits s q.toNat) (hn : Nameable s [v.toNat])
    (hs : inQueue s kind q.toNat = [] ∨ ∃ w ∈ (myCore s).pops, w.kind = kind ∧ w.q = physical s q.toNat) :
    ∃ k, s.popWord kind v q n = s.issueShort (n.toNat + 1) true k ∧ ∀ t, SameWords t (k t) := by
  have hshort : (((s.core (coreKey s.cur.sid)).queue kind (s.physQueue q.toNat)).isEmpty ||
      (s.core (coreKey s.cur.sid)).popWaits kind (s.physQueue q.toNat)) = true := by
    rcases hs with h | ⟨w, hw, hk, hwq⟩
    · have h : (s.core (coreKey s.cur.sid)).queue kind (s.physQueue q.toNat) = [] := h
      rw [h]
      rfl
    · rw [Bool.or_eq_true]
      refine .inr (List.any_eq_true.mpr ⟨w, hw, ?_⟩)
      rw [hk, hwq]
      simp [physical, State.physQueue]
  unfold State.popWord
  dsimp only
  rw [queOk_of_fits hq hn, hshort]
  refine ⟨_, rfl, fun t => ?_⟩
  rw [if_neg (by decide)]
  refine SameWords.trans ?_ (sameWords_popAt ..)
  refine sameWords_foldl _ ?_ _ t
  exact fun _ _ => ⟨rfl, rfl⟩

theorem queueViolations : QueueViolations := by
  intro s i kind q v n hf hq hn hshort hu
  have hword : ∃ k, exec i s = s.issueShort (n.toNat + 1) true k ∧ ∀ t, SameWords t (k t) := by
    rcases hshort with ⟨hi, hb, hs⟩ | ⟨hi, hs⟩
    · have hpush : exec i s = s.pushWord kind q v n := by
        cases i
        case qpush | lksend => cases hi; rfl
        all_goals cases hi
      rw [hpush]
      exact pushWord_short n hq hn hb hs
    · have hpop : exec i s = s.popWord kind v q n := by
        cases i
        case qpop | lkrecv => cases hi; rfl
        all_goals cases hi
      rw [hpop]
      exact popWord_short n hq hn hs
  obtain ⟨k, hexec, hk⟩ := hword
  rw [hexec]
  refine ⟨fun ht hh => issueShort_stall hf hu ht hh, fun ht hp hfatal hpend => ?_⟩
  rw [issueShort_trap hf hu ht hp hfatal hpend]
  exact ⟨_, rfl, (hk _).2, (hk _).mine_eq.trans (get_set_same _ _ _ _)⟩

/-- Settles O18. -/
theorem violationsAreRecorded : Obligations.ViolationsAreRecorded := ⟨arrivalViolations, starvationIsAViolation, queueViolations⟩

end Sys2Proof.Laws
end

/-! # O29: REL, its effect, and SFENCE (R195, R196, R253, R255) -/

section

namespace Sys2Proof.Laws

open Sys2Proof Sys2Proof.Machine Sys2Proof.Claims

/-! ## REL (R195) -/

/-- The state in which a release with a queue mask is on its way. -/
def releaseSent (s : State) (h : BitVec 4) (c : BitVec 6) (mask : Nat) : State :=
  { occupied s 1 with
    nextId := s.nextId + 1
    agenda := s.agenda ++ [event (s.now + 48 + 2 * distance s (handle s h).home) 5 s.cur.sid .relEffect
      (.access { id := s.nextId, sid := s.cur.sid, addr := (handle s h).base + (greg s c).toNat, len := mask, key := (handle s h).key,
                 part := (mine s).task.part, gen := s.gen (mine s).task.part, issue := s.now })] }

theorem release_occupied (s : State) (h : BitVec 4) (c : BitVec 6) (mask : Nat) :
    (occupied s 1).release h c mask = match engineChecked s (handle s h) (greg s c).toNat 16 with
      | some e => faulted (occupied s 1) e
      | none => releaseSent s h c mask := by
  have hpart : ({ occupied s 1 with nextId := s.nextId + 1 } : State).myPart = (mine s).task.part := myPart_occupied s 1
  unfold State.release releaseSent
  rw [me_occupied, withEngine_occupied, ← hpart]
  rfl

theorem releasesAreSent : ReleasesAreSent := by
  intro s h c m hf x off sentWith
  have hrel : exec (.rel h c) s = .next ((occupied s 1).release h c 0) := issue_of_free hf 1 (fun s => s.release h c 0)
  have hque : exec (.relQueues h c m) s = .next (((occupied s 1).release h c m.toNat).fallback (m == 0)) :=
    issue_of_free hf 1 (fun s => (s.release h c m.toNat).fallback (m == 0))
  rw [hrel, hque, release_occupied, release_occupied]
  refine ⟨fun e he => by rw [he], fun he => ?_⟩
  rw [he]
  exact ⟨rfl, congrArg _ (fallback_eq_markFallback _ _)⟩

/-! ## What a release does at its object (R195, R253) -/

/-- An object with bound pages is the one that its engine holds. -/
theorem held_of_pages {s : State} {pa key : Nat} (h : (s.syncAt pa key).pages ≠ []) :
    ∃ e, s.syncs.find? (fun e => e.1 == pa / 16) = some e ∧ e.2 = s.syncAt pa key := by
  unfold State.syncAt at h ⊢
  split at h
  case h_1 e o he =>
    by_cases hp : o.pages.isEmpty = true
    · rw [if_pos hp] at h
      exact absurd (List.isEmpty_iff.mp hp) h
    · exact ⟨_, he, (if_neg hp).symm⟩
  case h_2 => exact absurd rfl h

theorem syncFill_of_pages {s : State} {pa key : Nat} (h : (s.syncAt pa key).pages ≠ []) : s.syncFill pa key = s := by
  obtain ⟨e, he, ho⟩ := held_of_pages h
  have hsome : (s.syncs.find? fun e => e.1 == pa / 16 && !e.2.pages.isEmpty).isSome := by
    rw [List.find?_isSome]
    refine ⟨e, List.mem_of_find?_eq_some he, ?_⟩
    rw [List.find?_some he, ho]
    simpa using h
  unfold State.syncFill
  split
  · rfl
  · rename_i hnone
    rw [hnone] at hsome
    cases hsome

theorem noteSync_of_pages {s : State} {pa key : Nat} (h : (s.syncAt pa key).pages ≠ []) (sid col hnd off : Nat) :
    s.noteSync sid col hnd off pa key = s := by
  obtain ⟨e, he, ho⟩ := held_of_pages h
  have hany : (s.syncs.any fun e => e.1 == pa / 16 && !e.2.pages.isEmpty) = true := by
    refine List.any_eq_true.mpr ⟨e, List.mem_of_find?_eq_some he, ?_⟩
    rw [List.find?_some he, ho]
    simpa using h
  unfold State.noteSync
  rw [hany, if_neg (by simp)]

theorem pages_released (o : SyncObj) (sid : Nat) : (o.released sid).pages = o.pages := by
  unfold SyncObj.released
  dsimp only
  split
  · rfl
  · split <;> rfl

/-- What a release leaves of an object (R195). -/
theorem released_eq (o : SyncObj) (sid : Nat) : o.released sid = { o with
    seq := (o.seq + 1) % 2 ^ 32
    hold := if o.holders.contains sid = false then o.hold else if o.hold = 0xFFFF then 0 else o.hold - 1
    holders := if o.holders.contains sid = false then o.holders else if o.hold = 0xFFFF then [] else o.holders.erase sid } := by
  unfold SyncObj.released
  dsimp only
  cases o.holders.contains sid with
  | false => rfl
  | true =>
    by_cases h : o.hold = 0xFFFF
    · rw [h]
      rfl
    · rw [if_neg (by decide), if_neg h, if_neg (by decide), if_neg h, if_neg (by decide), if_neg h]

/-- A release at an object that its engine holds. -/
theorem releaseAt_of_pages {s : State} {pa key : Nat} (h : (s.syncAt pa key).pages ≠ []) (sid : Nat) :
    ∃ l, s.releaseAt pa key sid = { s with syncs := Fm.set s.syncs (pa / 16) ((s.syncAt pa key).released sid), agenda := l } ∧
      event s.now 6 (pa / 16) .acqGrant (.access { addr := pa, key := key }) ∈ l := by
  have hset : s.setSync pa key ((s.syncAt pa key).released sid) =
      { s with syncs := Fm.set s.syncs (pa / 16) ((s.syncAt pa key).released sid) } := by
    unfold State.setSync
    rw [pages_released, if_pos (by simpa using h)]
  unfold State.releaseAt
  rw [syncFill_of_pages h]
  dsimp only
  rw [hset]
  split
  · exact ⟨_, rfl, List.mem_append_left _ (List.mem_append_right _ (List.mem_singleton.mpr rfl))⟩
  · exact ⟨_, rfl, List.mem_append_right _ (List.mem_singleton.mpr rfl)⟩

/-- A release that is not discarded: it waits for its domain, or for what it is to follow, or takes effect. -/
theorem execRelEffect_of_present {s : State} {a : Access} (harg : s.arg = .access a) (hp : Present s a.part a.gen) :
    exec .relEffect s = match s.heldAt a.addr with
      | some d => .next (replayed s d a.addr 5 .relEffect (.access a))
      | none => if (s.seq a.sid).releasable s.now a.id a.len (s.syncAt a.addr a.key).pages then
          .next ((s.noteSync a.sid a.col a.hnd a.off a.addr a.key).releaseAt a.addr a.key a.sid)
        else .next (scheduled s (event (s.now + 1) 5 a.sid .relEffect (.access a))) := by
  show execRelEffect s = _
  unfold execRelEffect
  rw [harg]
  dsimp only
  rw [if_neg (by rcases hp with h | h <;> simp [h])]
  rfl

theorem releaseTakesEffect : ReleaseTakesEffect := by
  intro s a o harg hpres ho hpages ready next
  subst ho
  rw [execRelEffect_of_present harg hpres]
  refine ⟨fun d hd => by rw [hd], fun hheld hready => ?_, fun hheld hready => ?_⟩
  · rw [hheld]
    dsimp only
    have hready : (s.seq a.sid).releasable s.now a.id a.len (s.syncAt a.addr a.key).pages = false := hready
    rw [hready, if_neg Bool.false_ne_true]
  · rw [hheld]
    dsimp only
    have hready : (s.seq a.sid).releasable s.now a.id a.len (s.syncAt a.addr a.key).pages = true := hready
    rw [hready, if_pos rfl, noteSync_of_pages hpages]
    obtain ⟨l, hl, hmem⟩ := releaseAt_of_pages hpages a.sid
    rw [hl, released_eq]
    exact ⟨_, rfl, rfl, hmem⟩

/-! ## SFENCE (R196, R255) -/

/-- The clamp of a fence, as one event or none (R255). -/
theorem clamp_eq (s : State) (b : Bool) :
    (if b then (occupied s 1).clamp (occupied s 1).cur.sid (mine s).task.part else occupied s 1) =
      { occupied s 1 with agenda := s.agenda ++ if b then [clampEvent s] else [] } := by
  cases b with
  | true => rfl
  | false =>
    rw [if_neg Bool.false_ne_true, if_neg Bool.false_ne_true, List.append_nil]
    rfl

theorem fence_issues {s : State} (q : BitVec 1) (sc : BitVec 3) (hf : Free s) : 
    let nothing := sc == 0 && q == 1
    exec (.sfence q sc) s = .next { markFallback (withMine (occupied s 1) { mine (occupied s 1) with sfence := true }) nothing with
      nextId := s.nextId + 1, agenda := s.agenda ++ (if s.clamped (mine s).task.part s.cur.sid sc.toNat then [clampEvent s] else []) ++
        [event (s.now + 1) 8 s.cur.sid .sfenceComplete (.access
          { id := s.nextId, sid := s.cur.sid, cls := sc.toNat, rdc := q == 1 && !nothing, part := (mine s).task.part, gen := s.gen (mine s).task.part })] } := by
  intro nothing
  show execSfence q sc s = _
  unfold execSfence
  rw [issue_of_free hf]
  dsimp only
  rw [myPart_occupied, clamp_eq, fallback_eq_markFallback]
  let t : State := { markFallback (withMine (occupied s 1) { mine (occupied s 1) with sfence := true }) nothing with
    nextId := s.nextId + 1, agenda := s.agenda ++ if s.clamped (mine s).task.part s.cur.sid sc.toNat then [clampEvent s] else [] }
  have hpart : t.myPart = (mine s).task.part := by
    show (Fm.get {} (Fm.set (occupied s 1).seqs s.cur.sid _) s.cur.sid).task.part = _
    rw [get_set_same, mine_occupied]
    rfl
  show Host.Outcome.next (t.after 1 8 t.cur.sid .sfenceComplete (.access
    { id := s.nextId, sid := t.cur.sid, cls := sc.toNat, rdc := q == 1 && !nothing, part := t.myPart, gen := t.gen t.myPart })) = _
  rw [hpart]
  rfl

theorem fenceHoldsColumns : FenceHoldsColumns := by
  refine ⟨fun s q sc hf => ⟨_, fence_issues q sc hf, rfl, rfl⟩, ?_⟩
  intro s a harg hpres q hq
  have hexec : exec .sfenceComplete s = if q.fenced s.now a.id a.cls a.rdc then .next (withSeq s a.sid { q with sfence := false })
      else .next (scheduled s (event (s.now + 1) 8 a.sid .sfenceComplete (.access a))) := by
    show execSfenceComplete s = _
    unfold execSfenceComplete
    rw [harg]
    dsimp only
    rw [if_neg]
    · rfl
    · rw [show s.seq a.sid = q from rfl, hq]
      rcases hpres with h | h <;> simp [h]
  rw [hexec]
  exact ⟨fun h => if_pos h, fun h => if_neg (by rw [h]; exact Bool.false_ne_true)⟩

/-- Settles O29. -/
theorem releasesAndFences : Obligations.ReleasesAndFences := ⟨releasesAreSent, releaseTakesEffect, fenceHoldsColumns⟩

end Sys2Proof.Laws
end

/-! # O30: capability registers and words toward other modules (R199 to R202, R262, R301, R388, R394) -/

section

namespace Sys2Proof.Laws

open Sys2Proof Sys2Proof.Machine Sys2Proof.Claims

/-! ## Fields of a record (R394) -/

theorem testBit_setBits (x lo n y i : Nat) :
    (setBits x lo n y).testBit i = if lo ≤ i ∧ i < lo + n then y.testBit (i - lo) else x.testBit i := by
  have parts : setBits x lo n y = 2 ^ lo * (2 ^ n * (x / 2 ^ (lo + n)) + y % 2 ^ n) + x % 2 ^ lo := by
    unfold setBits
    rw [Nat.pow_add]
    ring
  rw [parts, Nat.testBit_two_pow_mul_add _ (Nat.mod_lt _ (Nat.two_pow_pos lo)), Nat.testBit_two_pow_mul_add _ (Nat.mod_lt _ (Nat.two_pow_pos n)),
    Nat.testBit_mod_two_pow, Nat.testBit_mod_two_pow, Nat.testBit_div_two_pow]
  by_cases h1 : i < lo
  · simp [h1, show ¬ lo ≤ i by omega]
  · by_cases h2 : i < lo + n
    · simp [h1, h2, show lo ≤ i by omega, show i - lo < n by omega]
    · simp [h1, h2, show ¬ i - lo < n by omega, show i - lo - n + (lo + n) = i by omega]

/-- A field reads as a value when each of its bits does. -/
theorem field_eq_of_testBit {x lo n y : Nat} (h : ∀ j, j < n → x.testBit (lo + j) = y.testBit j) : x / 2 ^ lo % 2 ^ n = y % 2 ^ n := by
  refine Nat.eq_of_testBit_eq fun j => ?_
  rw [Nat.testBit_mod_two_pow, Nat.testBit_mod_two_pow, Nat.testBit_div_two_pow]
  by_cases hj : j < n
  · rw [Nat.add_comm, h j hj]
  · simp [hj]

/-- The bits of a capability whose base, length and permissions are replaced (R394). -/
theorem testBit_capWith (k : Cap) (base len perm : Nat) (tag : Bool) (i : Nat) :
    (k.with base len perm tag).bits.toNat.testBit i = (decide (i < 128) &&
      if 4 ≤ i ∧ i < 12 then perm.testBit (i - 4) else if 64 ≤ i ∧ i < 104 then len.testBit (i - 64)
      else if 24 ≤ i ∧ i < 64 then base.testBit (i - 24) else k.bits.toNat.testBit i) := by
  unfold Cap.with
  rw [BitVec.toNat_ofNat, Nat.testBit_mod_two_pow, testBit_setBits, testBit_setBits, testBit_setBits]

theorem testBit_bits (x lo n i : Nat) : (bits x lo n).testBit i = (decide (i < n) && x.testBit (i + lo)) := by
  unfold bits
  rw [Nat.testBit_mod_two_pow, Nat.testBit_div_two_pow]

theorem testBit_cap (k : Cap) (i : Nat) : k.bits.toNat.testBit i = (decide (i < 128) && k.bits.toNat.testBit i) := by
  by_cases hi : i < 128
  · rw [decide_eq_true hi, Bool.true_and]
  · rw [Nat.testBit_lt_two_pow (k.bits.isLt.trans_le (Nat.pow_le_pow_right (by decide) (Nat.le_of_not_lt hi))), Bool.and_false]

/-- A capability that is narrowed: base and length are set, and nothing else (R394). -/
theorem narrowed_fieldsSet (k : Cap) (base len : Nat) (tag : Bool) :
    FieldsSet k.bits.toNat (k.with base len k.perm tag).bits.toNat [(24, 40, base), (64, 40, len)] := by
  refine ⟨?_, fun i hi => ?_⟩
  · simp only [List.mem_cons, List.not_mem_nil, or_false]
    rintro f (rfl | rfl) <;> refine field_eq_of_testBit fun j hj => ?_ <;> dsimp only at hj ⊢
    · rw [testBit_capWith, if_neg (by omega), if_neg (by omega), if_pos (by omega), Nat.add_sub_cancel_left, decide_eq_true (by omega),
        Bool.true_and]
    · rw [testBit_capWith, if_neg (by omega), if_pos (by omega), Nat.add_sub_cancel_left, decide_eq_true (by omega), Bool.true_and]
  · simp only [List.mem_cons, List.not_mem_nil, or_false, forall_eq_or_imp, forall_eq] at hi
    rw [testBit_capWith, if_neg (show ¬ (64 ≤ i ∧ i < 104) by omega), if_neg (show ¬ (24 ≤ i ∧ i < 64) by omega)]
    split
    · rw [Cap.perm, testBit_bits, decide_eq_true (show i - 4 < 8 by omega), Nat.sub_add_cancel (by omega), Bool.true_and, ← testBit_cap]
    · exact (testBit_cap k i).symm

/-- A capability whose permissions are set, and nothing else (R394). -/
theorem permitted_fieldsSet (k : Cap) (perm : Nat) (tag : Bool) :
    FieldsSet k.bits.toNat (k.with k.base k.len perm tag).bits.toNat [(4, 8, perm)] := by
  refine ⟨?_, fun i hi => ?_⟩
  · simp only [List.mem_cons, List.not_mem_nil, or_false]
    rintro f rfl
    refine field_eq_of_testBit fun j hj => ?_
    dsimp only at hj ⊢
    rw [testBit_capWith, if_pos (by omega), Nat.add_sub_cancel_left, decide_eq_true (by omega), Bool.true_and]
  · simp only [List.mem_cons, List.not_mem_nil, or_false, forall_eq] at hi
    rw [testBit_capWith, if_neg (show ¬ (4 ≤ i ∧ i < 12) by omega)]
    split
    · rw [Cap.len, testBit_bits, decide_eq_true (show i - 64 < 40 by omega), Nat.sub_add_cancel (by omega), Bool.true_and, ← testBit_cap]
    · split
      · rw [Cap.base, testBit_bits, decide_eq_true (show i - 24 < 40 by omega), Nat.sub_add_cancel (by omega), Bool.true_and, ← testBit_cap]
      · exact (testBit_cap k i).symm

/-- Capability register `n` of the present word's sequencer. -/
def capOf (s : State) (n : BitVec 4) : Cap := Fm.get {} (mine s).k n.toNat

theorem kr_occupied (s : State) (occ : Nat) (n : BitVec 4) : (occupied s occ).me.kr n.toNat = capOf s n := by
  rw [me_occupied]
  rfl

theorem gnNat_occupied (s : State) (occ n : Nat) : (occupied s occ).me.gn n = (Fm.get 0 (mine s).g n).toNat := by
  rw [me_occupied]
  rfl

theorem kmov_issues {s : State} (hf : Free s) (a b : BitVec 4) : exec (.kmov a b) s = .next (issued s 1 2 [.k a.toNat (capOf s b)]) := by
  show execKmov a b s = _
  unfold execKmov
  rw [issue_of_free hf, kr_occupied, land_occupied]

theorem knarrow_issues {s : State} (hf : Free s) (a b : BitVec 4) {g : BitVec 6} (h63 : g ≠ 63) :
    let off := (Fm.get 0 (mine s).g g.toNat).toNat
    let n := (Fm.get 0 (mine s).g (g.toNat + 1)).toNat
    exec (.knarrow a b g) s = .next (issued s 1 2 [.k a.toNat ((capOf s b).with ((capOf s b).base + off) n (capOf s b).perm
      ((capOf s b).tag && decide (off ≤ (capOf s b).len) && decide (off + n ≤ (capOf s b).len)))]) := by
  show execKnarrow a b g s = _
  unfold execKnarrow
  rw [issue_of_free hf, if_neg h63, kr_occupied, gnNat_occupied, gnNat_occupied]
  dsimp only
  rw [land_occupied]

theorem kperm_issues {s : State} (hf : Free s) (a b : BitVec 4) (i : BitVec 8) :
    exec (.kperm a b i) s = .next (issued s 1 2 [.k a.toNat ((capOf s b).with (capOf s b).base (capOf s b).len
      ((capOf s b).perm &&& i.toNat) (capOf s b).tag)]) := by
  show execKperm a b i s = _
  unfold execKperm
  rw [issue_of_free hf, kr_occupied]
  dsimp only
  rw [land_occupied]

theorem tag_capWith (k : Cap) (base len perm : Nat) (tag : Bool) : (k.with base len perm tag).tag = tag := rfl

/-- A narrowed range that ends inside the old one begins inside it. -/
theorem narrow_tag (tag : Bool) (off n len : Nat) : (tag && decide (off ≤ len) && decide (off + n ≤ len)) = (tag && decide (off + n ≤ len)) := by
  by_cases h : off + n ≤ len
  · rw [decide_eq_true (show off ≤ len by omega), Bool.and_true]
  · rw [decide_eq_false h, Bool.and_false, Bool.and_false]

theorem kld_illegal {s : State} (hf : Free s) (a h : BitVec 4) (c : BitVec 6) : exec (.kld a h c 3) s = .next (faulted (occupied s 1) 1) := by
  show execKld a h c 3 s = _
  unfold execKld
  rw [issue_of_free hf, if_pos rfl]
  exact congrArg _ (fault_eq_faulted _ 1)

theorem kst_illegal {s : State} (hf : Free s) (a h : BitVec 4) (c : BitVec 6) : exec (.kst a h c 3) s = .next (faulted (occupied s 1) 1) := by
  show execKst a h c 3 s = _
  unfold execKst
  rw [issue_of_free hf, if_pos rfl]
  exact congrArg _ (fault_eq_faulted _ 1)

theorem knarrow_illegal {s : State} (hf : Free s) (a b : BitVec 4) : exec (.knarrow a b 63) s = .next (faulted (occupied s 1) 1) := by
  show execKnarrow a b 63 s = _
  unfold execKnarrow
  rw [issue_of_free hf, if_pos rfl]
  exact congrArg _ (fault_eq_faulted _ 1)

theorem capabilityRegisters : CapabilityRegisters := by
  intro s a b g i hf k base len off n
  refine ⟨kmov_issues hf a b, fun h63 => ?_, fun h63 => ?_, ?_, kld_illegal hf a b g, kst_illegal hf a b g⟩
  · rw [h63]
    exact knarrow_illegal hf a b
  · exact ⟨k.with (k.base + off) n k.perm (k.tag && decide (off ≤ k.len) && decide (off + n ≤ k.len)), knarrow_issues hf a b h63,
      narrow_tag k.tag off n k.len, narrowed_fieldsSet k (k.base + off) n _⟩
  · exact ⟨k.with k.base k.len (k.perm &&& i.toNat) k.tag, kperm_issues hf a b i, tag_capWith ..,
      permitted_fieldsSet k (k.perm &&& i.toNat) k.tag⟩

/-! ## Words that send a packet (R199, R200, R202, R262, R301, R388) -/

/-- The access that waits for the answer of a remote word. -/
def remoteAccess (s : State) (w : RemoteWord) : Access :=
  { sent s w.acc with off := w.pkt.off, hnd := 0, seam := w.seam, col := 6, task := ((mine s).task.launch, (mine s).task.index) }

/-- What is recorded of a remote word. -/
def remoteRecord (s : State) (w : RemoteWord) : Outstanding := { id := s.nextId, kind := if w.seam then 1 else 4, issue := s.now }

theorem sendRemote_eq (s : State) (w : RemoteWord) : s.sendRemote w.acc w.pkt (!w.seam) = { s with
    seqs := Fm.set s.seqs s.cur.sid { mine s with
      outst := outstandingWith s.now (mine s) (remoteRecord s w),
      paths := Fm.set (mine s).paths w.pkt.dst (pathAfter s w), seam := (mine s).seam || w.seam },
    nextId := s.nextId + 1, outbox := s.outbox ++ [{ numbered s w with dep := leaves s w.pkt.dst }],
    awaiting := s.awaiting ++ [{ pkt := numbered s w, acc := remoteAccess s w }],
    agenda := s.agenda ++ [event (s.now + Config.timeout) 1 s.cur.sid .requestTimeout (.access (remoteAccess s w))] } := by
  obtain ⟨tile, occ, seam, ok, acc, pkt⟩ := w
  unfold State.sendRemote
  dsimp only [State.fresh]
  rw [updMe_outstanding]
  unfold remoteAccess numbered pathAfter
  have hflag (a b : Nat) : (if (pkt.op == 5) = true then a else b) = if pkt.op = 5 then a else b := if_congr beq_iff_eq rfl rfl
  simp only [hflag]
  cases seam <;> rfl

/-- What a remote word does that may be on its sequencer: a mode fault, its packet, or a capability fault. -/
def remoteEffect (s : State) (w : RemoteWord) : State :=
  if w.seam && !(mine s).ut then faulted (occupied s w.occ) 4
  else if w.ok then (occupied s w.occ).sendRemote w.acc w.pkt (!w.seam)
  else faulted (occupied s w.occ) 6

theorem remoteEffect_of_store {s t : State} {w : RemoteWord} {occ : Nat} (hocc : w.occ = occ) (hs : w.seam = false)
    (ht : t = if w.ok then (occupied s occ).sendRemote w.acc w.pkt true else faulted (occupied s occ) 6) : t = remoteEffect s w := by
  rw [ht, remoteEffect, hs, hocc, Bool.false_and, if_neg Bool.false_ne_true, Bool.not_false]

theorem remoteEffect_of_seam {s : State} {w : RemoteWord} {occ : Nat} {k : State → State} (hocc : w.occ = occ) (hs : w.seam = true)
    (hk : k (occupied s occ) = if w.ok then (occupied s occ).sendRemote w.acc w.pkt false else faulted (occupied s occ) 6) :
    (occupied s occ).seamOnly k = remoteEffect s w := by
  unfold State.seamOnly remoteEffect
  rw [me_occupied, show (colUntil (mine s) s.cur.col (s.now + occ)).ut = (mine s).ut from rfl, hs, hocc, Bool.true_and]
  cases (mine s).ut with
  | true => exact hk
  | false => exact fault_eq_faulted _ 4

theorem bit_perm (k : Cap) {perm : Nat} (hp : perm < 8) : bit k.perm perm = k.bits.getLsbD (4 + perm) := by
  rw [bit_eq_testBit, Cap.perm, testBit_bits, decide_eq_true hp, Bool.true_and, Nat.add_comm]
  rfl

/-- The egress check of a word that has issued (R199). -/
theorem egressOk_occupied (s : State) (occ : Nat) (k : BitVec 4) (c : BitVec 6) {perm : Nat} (n al : Nat) (hp : perm < 8) :
    (occupied s occ).egressOk (capOf s k) perm (greg s c).toNat n al = egress s k c perm n al := by
  unfold State.egressOk
  rw [bit_perm _ hp]
  rfl

/-- A word whose egress check passes goes on; a failed one is a capability fault. -/
theorem egressed (s : State) (occ : Nat) (k : BitVec 4) (c : BitVec 6) {perm : Nat} (n al : Nat) (hp : perm < 8) (t : State) :
    (if !(occupied s occ).egressOk (capOf s k) perm (greg s c).toNat n al then (occupied s occ).capFault else t) =
      if egress s k c perm n al then t else faulted (occupied s occ) 6 := by
  rw [egressOk_occupied s occ k c n al hp]
  cases egress s k c perm n al with
  | true => rfl
  | false => exact fault_eq_faulted _ 6

section RemoteWords

variable {s : State} (hf : Free s)

include hf

theorem cld_effect {g c : BitVec 6} {k : BitVec 4} {w : RemoteWord} (hw : remoteWord s (.cld g k c) = some w) :
    execCld g k c s = .next (remoteEffect s w) := by
  cases hw
  unfold execCld
  rw [issue_of_free hf]
  refine congrArg _ (remoteEffect_of_seam rfl rfl ?_)
  dsimp only
  rw [kr_occupied, gn_occupied, egressed _ _ _ _ _ _ (by decide)]
  rfl

theorem cst_effect {g c : BitVec 6} {k : BitVec 4} {r : BitVec 1} {w : RemoteWord} (hw : remoteWord s (.cst g k c r) = some w) :
    execCst g k c r s = .next (remoteEffect s w) := by
  cases hw
  unfold execCst
  rw [issue_of_free hf]
  refine congrArg _ (remoteEffect_of_store rfl rfl ?_)
  rw [kr_occupied, gn_occupied, gn_occupied]
  dsimp only
  rw [egressed _ _ _ _ _ _ (by decide)]
  rfl

theorem cldv_effect {v : BitVec 5} {k : BitVec 4} {c : BitVec 6} {w : RemoteWord} (hw : remoteWord s (.cldv v k c) = some w)
    (ht : ¬ OnHub s ∧ Nameable s [v.toNat]) : execCldv v k c s = .next (remoteEffect s w) := by
  cases hw
  unfold execCldv
  rw [tileForm_occupied _ hf ht]
  refine congrArg _ (remoteEffect_of_seam rfl rfl ?_)
  dsimp only
  rw [kr_occupied, gn_occupied, shape_occupied, egressed _ _ _ _ _ _ (by decide)]
  rfl

theorem cstv_effect {v : BitVec 5} {k : BitVec 4} {c : BitVec 6} {w : RemoteWord} (hw : remoteWord s (.cstv v k c) = some w)
    (ht : ¬ OnHub s ∧ Nameable s [v.toNat]) : execCstv v k c s = .next (remoteEffect s w) := by
  cases hw
  unfold execCstv
  rw [tileForm_occupied _ hf ht]
  refine congrArg _ (remoteEffect_of_store rfl rfl ?_)
  dsimp only
  rw [kr_occupied, gn_occupied, shape_occupied, tile_sameOperands (sameOperands_occupied s _), egressed _ _ _ _ _ _ (by decide)]
  rfl

theorem rcas2_effect {g c : BitVec 6} {k : BitVec 4} {n : BitVec 2} {w : RemoteWord} (hw : remoteWord s (.rcas2 g k c n) = some w) :
    execRcas2 g k c n s = .next (remoteEffect s w) := by
  obtain ⟨hg, hw⟩ := Option.ite_none_left_eq_some.mp hw
  cases hw
  unfold execRcas2
  rw [issue_of_free hf]
  dsimp only
  rw [if_neg hg]
  refine congrArg _ (remoteEffect_of_seam rfl rfl ?_)
  dsimp only
  rw [kr_occupied, gn_occupied, egressed _ _ _ _ _ _ (by decide)]
  simp only [gnNat_occupied]
  rfl

theorem renq_effect {g c : BitVec 6} {k : BitVec 4} {w : RemoteWord} (hw : remoteWord s (.renq g k c) = some w) :
    execRenq g k c s = .next (remoteEffect s w) := by
  cases hw
  unfold execRenq
  rw [issue_of_free hf]
  refine congrArg _ (remoteEffect_of_seam rfl rfl ?_)
  dsimp only
  rw [kr_occupied, gn_occupied, gn_occupied, egressed _ _ _ _ _ _ (by decide)]
  rfl

theorem rchase_effect {g c : BitVec 6} {k : BitVec 4} {w : RemoteWord} (hw : remoteWord s (.rchase g k c) = some w) :
    execRchase g k c s = .next (remoteEffect s w) := by
  obtain ⟨hg, hw⟩ := Option.ite_none_left_eq_some.mp hw
  cases hw
  unfold execRchase
  rw [issue_of_free hf, if_neg hg]
  refine congrArg _ (remoteEffect_of_seam rfl rfl ?_)
  dsimp only
  rw [kr_occupied, gn_occupied, gn_occupied, egressed _ _ _ _ _ _ (by decide)]
  rfl

omit hf in
theorem windowOf_occupied (s : State) (occ gw off : Nat) (store : Bool) : (occupied s occ).windowOf gw off store = s.windowOf gw off store := by
  unfold State.windowOf
  rw [myPart_occupied]
  rfl

theorem wld_effect {g c x : BitVec 6} {w : RemoteWord} (hw : remoteWord s (.wld g x c) = some w) :
    execWld g x c s = .next (remoteEffect s w) := by
  cases hw
  unfold execWld
  rw [issue_of_free hf]
  refine congrArg _ (remoteEffect_of_seam rfl rfl ?_)
  dsimp only
  rw [gn_occupied, gn_occupied, windowOf_occupied]
  cases s.windowOf (greg s x).toNat (greg s c).toNat false with
  | none => exact fault_eq_faulted _ 6
  | some e => rfl

theorem wst_effect {g c x : BitVec 6} {w : RemoteWord} (hw : remoteWord s (.wst g x c) = some w) :
    execWst g x c s = .next (remoteEffect s w) := by
  cases hw
  unfold execWst
  rw [issue_of_free hf]
  refine congrArg _ (remoteEffect_of_store rfl rfl ?_)
  rw [gn_occupied, gn_occupied, gn_occupied]
  dsimp only
  rw [windowOf_occupied]
  cases s.windowOf (greg s x).toNat (greg s c).toNat true with
  | none => exact fault_eq_faulted _ 6
  | some e => rfl

theorem exec_remoteWord {i : Instr} {w : RemoteWord} (hw : remoteWord s i = some w)
    (ht : ∀ n, w.tile = some n → ¬ OnHub s ∧ Nameable s [n]) : exec i s = .next (remoteEffect s w) := by
  cases i
  case cld => exact cld_effect hf hw
  case cst => exact cst_effect hf hw
  case cldv => exact cldv_effect hf hw (ht _ (by cases hw; rfl))
  case cstv => exact cstv_effect hf hw (ht _ (by cases hw; rfl))
  case rcas2 => exact rcas2_effect hf hw
  case renq => exact renq_effect hf hw
  case rchase => exact rchase_effect hf hw
  case wld => exact wld_effect hf hw
  case wst => exact wst_effect hf hw
  all_goals cases hw

end RemoteWords

/-- The packet and the access of a remote word leave a sequencer that has issued as they would have left it before. -/
theorem remote_occupied (s : State) (occ : Nat) (w : RemoteWord) :
    numbered (occupied s occ) w = numbered s w ∧ pathAfter (occupied s occ) w = pathAfter s w ∧
      remoteAccess (occupied s occ) w = remoteAccess s w := by
  refine ⟨?_, ?_, ?_⟩
  · unfold numbered
    rw [mine_occupied]
    rfl
  · unfold pathAfter
    rw [mine_occupied]
    rfl
  · unfold remoteAccess
    rw [mine_occupied, sent_occupied]
    rfl

/-- The state in which the packet of a remote word has left (R199, R262). -/
theorem sendRemote_occupied (s : State) (w : RemoteWord) :
    let t := (occupied s w.occ).sendRemote w.acc w.pkt (!w.seam)
    t.outbox = s.outbox ++ [{ numbered s w with dep := leaves s w.pkt.dst }] ∧
      t.awaiting = s.awaiting ++ [{ pkt := numbered s w, acc := remoteAccess s w }] ∧
      t.agenda = s.agenda ++ [event (s.now + Config.timeout) 1 s.cur.sid .requestTimeout (.access (remoteAccess s w))] ∧
      mine t = { mine (occupied s w.occ) with
        paths := Fm.set (mine s).paths w.pkt.dst (pathAfter s w), seam := (mine s).seam || w.seam, outst := (mine t).outst } ∧
      t = { occupied s w.occ with
        seqs := t.seqs, outbox := t.outbox, awaiting := t.awaiting, agenda := t.agenda, nextId := s.nextId + 1 } := by
  obtain ⟨hnumbered, hpath, haccess⟩ := remote_occupied s w.occ w
  intro t
  have ht : t = _ := sendRemote_eq (occupied s w.occ) w
  rw [hnumbered, hpath, haccess] at ht
  have hmine : mine t = _ := (congrArg mine ht).trans (get_set_same _ _ _ _)
  refine ⟨by rw [ht]; rfl, by rw [ht]; rfl, by rw [ht]; rfl, ?_, by rw [ht]; rfl⟩
  rw [hmine, mine_occupied]
  rfl

theorem remoteWordsSendPackets : RemoteWordsSendPackets := by
  refine ⟨fun s i w hf hw ht => ?_, fun s g c k n hf => ⟨fun hg => ?_, ?_⟩⟩
  · rw [exec_remoteWord hf hw ht]
    have hgoes (hmode : w.seam = true → (mine s).ut = true) : (w.seam && !(mine s).ut) = false := by
      cases hs : w.seam with
      | false => rfl
      | true => rw [hmode hs]; rfl
    refine ⟨fun hs hu => ?_, fun hmode hok => ?_, fun hmode hok => ?_⟩
    · rw [remoteEffect, hs, hu]
      rfl
    · rw [remoteEffect, hgoes hmode, hok, if_neg Bool.false_ne_true, if_neg Bool.false_ne_true]
    · rw [remoteEffect, hgoes hmode, hok, if_neg Bool.false_ne_true, if_pos rfl]
      exact ⟨_, rfl, sendRemote_occupied s w⟩
  · show execRcas2 g k c n s = _
    unfold execRcas2
    rw [issue_of_free hf]
    dsimp only
    rw [if_pos hg]
    exact congrArg _ (fault_eq_faulted _ 1)
  · show execRchase 63 k c s = _
    unfold execRchase
    rw [issue_of_free hf, if_pos rfl]
    exact congrArg _ (fault_eq_faulted _ 1)

/-- Settles O30. -/
theorem capabilitiesAndRemoteWords : Obligations.CapabilitiesAndRemoteWords := ⟨capabilityRegisters, remoteWordsSendPackets⟩

end Sys2Proof.Laws
end

/-! # O31: gate words, admissions and versions (R197, R198, R354 to R356) -/

section

namespace Sys2Proof.Laws

open Sys2Proof Sys2Proof.Machine Sys2Proof.Claims

/-! ## The gate words (R197, R198) -/

/-- A sequencer of which an update is known, but for its record of outstanding accesses. -/
theorem eq_with_outst {q r : Seq} {o : List Outstanding} (h : q = { r with outst := o }) : q = { r with outst := q.outst } := by
  rw [h]

theorem gateWords : GateWords := by
  intro s p v g hf d k
  have hpart (n : Nat) : ({ occupied s 1 with nextId := n } : State).myPart = (mine s).task.part := myPart_occupied s 1
  have hgn (n : Nat) (x : BitVec 6) : ({ occupied s 1 with nextId := n } : State).me.gn x.toNat = (greg s x).toNat := gn_occupied s 1 x
  refine ⟨?_, ?_, fun hu => ?_, fun hu => ?_⟩
  · show execGpass p g s = _
    unfold execGpass
    rw [issue_of_free hf]
    dsimp only [State.fresh]
    rw [hpart, hgn]
    rfl
  · show execGstat v g s = _
    unfold execGstat
    rw [issue_of_free hf, myPart_occupied, gn_occupied]
    rfl
  · show execGtake v g s = _
    unfold execGtake State.seamOnly
    rw [issue_of_free hf, me_occupied, show (colUntil (mine s) s.cur.col (s.now + 1)).ut = (mine s).ut from rfl, hu]
    exact congrArg _ (fault_eq_faulted _ 4)
  · show ∃ t c, execGtake v g s = _ ∧ _
    unfold execGtake State.seamOnly
    rw [issue_of_free hf, me_occupied, show (colUntil (mine s) s.cur.col (s.now + 1)).ut = (mine s).ut from rfl, hu, if_pos rfl]
    dsimp only [State.fresh]
    rw [hpart, hgn, hgn, updMe_outstanding, drew_fields]
    refine ⟨_, _, rfl, ?_, rfl, ?_, rfl, rfl⟩
    · show s.now < s.now + (1 + _)
      omega
    · exact eq_with_outst (r := { mine (occupied s 1) with seam := true, pc := s.cur.pc }) (get_set_same _ _ _ _)

/-! ## Admissions (R354 to R356) -/

theorem gateReason_eq (s : State) (r : GateReq) (right : Nat) : s.gateReason r right = gateFails s r right := by
  unfold State.gateReason gateFails
  dsimp only
  rw [show s.gate r.gate = gateNo s r.gate from rfl]
  generalize gateNo s r.gate = g
  have hacl : g.entry r.part = g.acl.find? fun e => bit e 9 && bits e 0 6 == r.part := rfl
  rw [hacl]
  by_cases h1 : 4096 ≤ r.gate ∨ g.st = 0 ∨ r.part = 63
  · rw [if_pos h1, if_pos (by tauto)]
  · rw [if_neg h1]
    obtain ⟨hgate, hst, hpart⟩ : r.gate < 4096 ∧ g.st ≠ 0 ∧ r.part ≠ 63 := by
      simpa only [not_or, Nat.not_le] using h1
    by_cases ho : r.part = g.owner
    · simp [ho, hst, ho ▸ hpart, hgate]
    · have hown : (r.part == g.owner) = false := beq_eq_false_iff_ne.mpr ho
      rw [if_neg ho, hown]
      cases g.acl.find? fun e => bit e 9 && bits e 0 6 == r.part with
      | none => simp
      | some e => cases he : bit e right <;> simp [he, hgate, hst, hpart]

theorem current_iff (s : State) (r : GateReq) : s.current r = true ↔ Lives s r := by
  unfold State.current
  simp

/-- The state in which a pass is admitted with the next version (R355, R356). -/
def admitted (s : State) (r : GateReq) : State :=
  let g := gateNo s r.gate
  let v := (g.adm + 1) % 2 ^ 64
  { withGate s r.gate { g with
      level := if g.unl then g.level else g.level - 1, adm := v, passes := g.passes ++ [{ ver := v, req := r }] } with
    agenda := s.agenda ++ [gateResult r [.p r.dst true]] ++ [event r.result 7 (4 * 2 ^ 80 + v) .gateVersionEffect (.gver r.gate v)] }

/-- An admission that is not discarded, by the outcome of its checks (R354). -/
theorem gatePassAdmit_of_lives {s : State} {r : GateReq} (harg : s.arg = .greq r) (hl : Lives s r) :
    exec .gatePassAdmit s = if gateFails s r 6 ≠ 0 then
        .next ((s.writeGflt r (gateFails s r 6)).landAt r.sid 6 r.issue r.result [.p r.dst false, .event 0x13 6])
      else if !(gateNo s r.gate).unl && (gateNo s r.gate).level == 0 then .next (s.landAt r.sid 6 r.issue r.result [.p r.dst false])
      else .next (admitted s r) := by
  show execGatePassAdmit s = _
  unfold execGatePassAdmit
  rw [harg]
  dsimp only
  rw [(current_iff s r).mpr hl, gateReason_eq, if_neg (by decide)]
  rfl

/-- A gate fault of a GPASS (R198, R354). -/
theorem gateFault_writeGflt (s : State) (r : GateReq) (n : Nat) :
    GateFault s ((s.writeGflt r n).landAt r.sid 6 r.issue r.result [.p r.dst false, .event 0x13 6]) r n [.p r.dst false] := by
  unfold State.writeGflt
  split
  case isTrue h => exact ⟨rfl, rfl, rfl, rfl, fun _ => rfl, fun hp => absurd h hp⟩
  case isFalse h => exact ⟨rfl, rfl, rfl, rfl, fun hp => absurd hp h, fun _ => rfl⟩

theorem passesAreAdmitted : PassesAreAdmitted := by
  intro s r harg g v cr
  refine ⟨fun hd => ?_, fun hl n hn hfail => ?_, fun hl hfail hu hlev => ?_, fun hl hfail htok => ?_⟩
  · show execGatePassAdmit s = _
    unfold execGatePassAdmit
    rw [harg]
    dsimp only
    rw [if_pos (by rw [Bool.not_eq_true', ← Bool.not_eq_true, current_iff]; exact hd)]
  · rw [gatePassAdmit_of_lives harg hl, if_pos (by rw [hfail]; exact hn), hfail]
    exact ⟨_, rfl, gateFault_writeGflt s r n⟩
  · have htoken : (!(gateNo s r.gate).unl && (gateNo s r.gate).level == 0) = true := by
      rw [show (gateNo s r.gate).unl = false from hu, show (gateNo s r.gate).level = 0 from hlev]
      rfl
    rw [gatePassAdmit_of_lives harg hl, if_neg (by rw [hfail]; decide), if_pos htoken]
    rfl
  · have htoken : (!(gateNo s r.gate).unl && (gateNo s r.gate).level == 0) = false := by
      rcases htok with h | h
      · rw [show (gateNo s r.gate).unl = true from h]
        rfl
      · rw [beq_eq_false_iff_ne.mpr (show (gateNo s r.gate).level ≠ 0 from h), Bool.and_false]
    rw [gatePassAdmit_of_lives harg hl, if_neg (by rw [hfail]; decide), htoken, if_neg Bool.false_ne_true,
      admitted, List.append_assoc]
    rfl

/-! ## Versions (R355, R356) -/

/-- The version effect at a gate that holds admitted versions. -/
theorem gateVersionEffect_of_passes {s : State} {n v : Nat} {x : Pass} {rest : List Pass} (harg : s.arg = .gver n v)
    (hg : (gateNo s n).passes = x :: rest) :
    exec .gateVersionEffect s = if (x :: rest).any (fun y => y.ver == v) = false then .next s
      else if x.ver = v ∧ s.regionPending (gateNo s n) x.req = false then
        .next ((s.setGate n { gateNo s n with ver := v, passes := rest }).wakeTakers n)
      else .next (scheduled s (event (s.now + 1) 7 (4 * 2 ^ 80 + v) .gateVersionEffect (.gver n v))) := by
  show execGateVersionEffect s = _
  unfold execGateVersionEffect
  rw [harg]
  dsimp only
  rw [show s.gate n = gateNo s n from rfl, hg]
  simp only [Bool.not_eq_true']
  rfl

/-- The takers that a version answers (R357). -/
theorem wakeTakers_eq (s : State) (n : Nat) (g : Gate) : (s.setGate n g).wakeTakers n = { withGate s n g with
    agenda := s.agenda ++ if g.waiters.isEmpty then [] else [event s.now 7 (5 * 2 ^ 80) .gateTakeComplete (.gate n)] } := by
  have hgate : (s.setGate n g).gate n = g := get_set_same _ _ _ _
  unfold State.wakeTakers
  rw [hgate]
  split
  · rw [List.append_nil]
    rfl
  · rfl

theorem versionsTakeEffect : VersionsTakeEffect := by
  intro s n v x rest harg g hg wait early pending
  have hexec := gateVersionEffect_of_passes harg hg
  rw [hexec]
  refine ⟨fun hno => ?_, fun hx hlater => ?_, fun hx hp => ?_, fun hx hp => ?_⟩
  · rw [if_pos]
    exact List.any_eq_false.mpr fun y hy => by simpa using hno y (hg ▸ hy)
  · obtain ⟨y, hy, hyv⟩ := hlater
    rw [if_neg, if_neg (fun h => hx h.1)]
    rw [Bool.not_eq_false]
    exact List.any_eq_true.mpr ⟨y, List.mem_cons_of_mem _ hy, beq_iff_eq.mpr hyv⟩
  · have hpend : s.regionPending (gateNo s n) x.req = true := hp
    rw [if_neg, if_neg (fun h => by rw [hpend] at h; exact absurd h.2 (by decide))]
    rw [Bool.not_eq_false]
    exact List.any_eq_true.mpr ⟨x, List.mem_cons_self, beq_iff_eq.mpr hx⟩
  · have hpend : s.regionPending (gateNo s n) x.req = false := hp
    rw [if_neg, if_pos ⟨hx, hpend⟩, wakeTakers_eq]
    rw [Bool.not_eq_false]
    exact List.any_eq_true.mpr ⟨x, List.mem_cons_self, beq_iff_eq.mpr hx⟩

/-- Settles O31. -/
theorem gatesPass : Obligations.GatesPass := ⟨gateWords, passesAreAdmitted, versionsTakeEffect⟩

end Sys2Proof.Laws
end

/-! # O16: handle words, and XLT with its walk (R181, R182, R293 to R297) -/

section

namespace Sys2Proof.Laws

open Sys2Proof Sys2Proof.Machine Sys2Proof.Claims

/-! ## The words (R181, R182) -/

/-- A handle is valid for a word that has issued when it is current for its sequencer (R23). -/
theorem valid_occupied (s : State) (occ : Nat) (h : Handle) : (occupied s occ).valid (occupied s occ).myPart h = current s h := by
  rw [myPart_occupied]
  rfl

theorem hr_occupied (s : State) (occ : Nat) (h : BitVec 4) : (occupied s occ).me.hr h.toNat = handle s h := by
  rw [me_occupied]
  rfl

/-- The first word of a handle's visible bits (R22, R182). -/
theorem ofNat_bits_mod (x : Handle) : BitVec.ofNat 64 (x.bits % 2 ^ 32) = BitVec.ofNat 64 (at_ x.v 0 + (at_ x.rp 1 + x.sz * 4 + x.perm * 16 +
    x.home * 128 + x.tier * 2048 + x.key * 8192 + x.gen * 2 ^ 24 + x.vbase * 2 ^ 32)) &&& 0xFFFFFFFF := by
  have hsum : x.bits = at_ x.v 0 + (at_ x.rp 1 + x.sz * 4 + x.perm * 16 + x.home * 128 + x.tier * 2048 + x.key * 8192 + x.gen * 2 ^ 24 +
      x.vbase * 2 ^ 32) := by
    unfold Handle.bits at_
    simp only [Nat.pow_zero, Nat.pow_one, Nat.add_assoc]
  rw [hsum]
  refine BitVec.eq_of_toNat_eq ?_
  rw [BitVec.toNat_and, BitVec.toNat_ofNat, BitVec.toNat_ofNat, show (0xFFFFFFFF : BitVec 64).toNat = 2 ^ 32 - 1 from rfl,
    Nat.and_two_pow_sub_one_eq_mod]
  omega

/-- HINFO of a word that may issue (R182). -/
theorem hinfo_of_free {s : State} (hf : Free s) (g : BitVec 6) (h : BitVec 4) (sel : BitVec 2) :
    exec (.hinfo g h sel) s = .next (if sel = 3 then (occupied s 1).illegal else issued s 1 2 [.g g.toNat (BitVec.ofNat 64
      (if sel = 0 then Handle.bits { handle s h with v := current s (handle s h) } % 2 ^ 32
        else if sel = 1 then (handle s h).vbase else pageSize (handle s h).sz))]) := by
  show execHinfo g h sel s = _
  unfold execHinfo
  rw [issue_of_free hf, hr_occupied]
  dsimp only
  rw [valid_occupied]
  rfl

/-- What the last-level TLB has for XLT without a walk (R181, R297). -/
def tlbAnswer (s : State) (va : Nat) : Option TlbEntry :=
  if va < 2 ^ 56 then s.tlbHit (dieOf s.cur.sid) (mine s).task.part va else none

/-- XLT without a walk, of a word that may issue, on a miss (R181). -/
theorem xltNw_of_miss {s : State} (hf : Free s) (h : BitVec 4) {g : BitVec 6} (hmiss : tlbAnswer s (greg s g).toNat = none) :
    exec (.xltNw h g) s = .next (issued s 1 24 [.h h.toNat {}]) := by
  have hnone : (if (greg s g).toNat < 2 ^ 56 then (occupied s 1).tlbHit (dieOf (occupied s 1).cur.sid) (mine s).task.part (greg s g).toNat else none) = none :=
    hmiss
  show execXltNw h g s = _
  unfold execXltNw
  rw [issue_of_free hf, myPart_occupied, gn_occupied]
  dsimp only
  rw [hnone]
  rfl

/-- XLT without a walk, of a word that may issue, on a hit (R181, R297). -/
theorem xltNw_of_hit {s : State} (hf : Free s) (h : BitVec 4) {g : BitVec 6} {e : TlbEntry} (hhit : tlbAnswer s (greg s g).toNat = some e) :
    exec (.xltNw h g) s = .next (((occupied s 1).tlbTouch (dieOf s.cur.sid) e).land 24 [.h h.toNat { e.h with
      rp := s.revoking (mine s).task.part (greg s g).toNat, gen := s.gen (mine s).task.part, v := true }]) := by
  have hsome : (if (greg s g).toNat < 2 ^ 56 then (occupied s 1).tlbHit (dieOf (occupied s 1).cur.sid) (mine s).task.part (greg s g).toNat else none) = some e :=
    hhit
  show execXltNw h g s = _
  unfold execXltNw
  rw [issue_of_free hf, myPart_occupied, gn_occupied]
  dsimp only
  rw [hsome]
  rfl

theorem handleWords : HandleWords := by
  intro s hf
  refine ⟨fun h => ?_, fun p h => ?_, fun g h => ?_, fun h g hmiss => ?_, fun h g e hva hhit => ?_⟩
  · exact issue_of_free hf 1 (fun s => s.land 2 [.h h.toNat {}])
  · show execHchk p h s = _
    unfold execHchk
    rw [issue_of_free hf, hr_occupied]
    dsimp only
    rw [valid_occupied]
    rfl
  · refine ⟨?_, ?_, ?_, ?_⟩ <;> rw [hinfo_of_free hf]
    · rw [if_neg (by decide), if_pos rfl, ofNat_bits_mod]
    · rw [if_neg (by decide), if_neg (by decide), if_pos rfl]
    · rw [if_neg (by decide), if_neg (by decide), if_neg (by decide)]
    · rw [if_pos rfl]
      exact congrArg _ (fault_eq_faulted _ 1)
  · refine xltNw_of_miss hf h ?_
    rcases hmiss with hva | hnone
    · exact if_neg (Nat.not_lt.mpr hva)
    · rw [tlbAnswer, hnone, ite_self]
  · exact ⟨_, xltNw_of_hit hf h ((if_pos hva).trans hhit), rfl⟩

/-- An access is recorded of a sequencer that was updated. -/
theorem outstanding_updMe (t : State) (o : Outstanding) (f : Seq → Seq) :
    (t.updMe f).outstanding t.cur.sid o =
      { t with seqs := Fm.set t.seqs t.cur.sid { f (mine t) with outst := outstandingWith t.now (f (mine t)) o } } := by
  unfold State.updMe State.updSeq State.setSeq
  rw [outstanding_eq]
  unfold State.seq
  dsimp only
  rw [get_set_same, set_set]
  rfl

theorem walkingTranslation : WalkingTranslation := by
  intro s h g hf
  have hpart (n : Nat) : ({ occupied s 1 with nextId := n } : State).myPart = (mine s).task.part := myPart_occupied s 1
  have hgn (n : Nat) : ({ occupied s 1 with nextId := n } : State).me.gn g.toNat = (greg s g).toNat := gn_occupied s 1 g
  refine ⟨fun hu => ?_, fun hu => ?_⟩
  · show execXlt h g s = _
    unfold execXlt State.seamOnly
    rw [issue_of_free hf, me_occupied, show (colUntil (mine s) s.cur.col (s.now + 1)).ut = (mine s).ut from rfl, hu]
    exact congrArg _ (fault_eq_faulted _ 4)
  · show ∃ t c a, execXlt h g s = _ ∧ _
    unfold execXlt State.seamOnly
    rw [issue_of_free hf, me_occupied, show (colUntil (mine s) s.cur.col (s.now + 1)).ut = (mine s).ut from rfl, hu, if_pos rfl]
    dsimp only [State.fresh]
    rw [hpart, hgn, outstanding_updMe, drew_fields]
    have hmine (q : Seq) := get_set_same {} q (occupied s 1).seqs s.cur.sid
    refine ⟨_, _, _, rfl, congrArg Seq.seam (hmine _), ?_, rfl, rfl, rfl, rfl, rfl, rfl, rfl, eq_with_outst (hmine _), fun j hj => ?_⟩
    · show s.now < s.now + 1 + _
      omega
    · exact (get_set_other _ _ _ _ _ (Ne.symm hj)).trans (get_set_other _ _ _ _ _ (Ne.symm hj))

/-! ## A walk that completes (R293, R295, R297, R324) -/

theorem domsOnly_trans {s t u : State} (hst : DomsOnly s t) (htu : DomsOnly t u) : DomsOnly s u := by
  obtain ⟨d, rfl⟩ := hst
  obtain ⟨e, rfl⟩ := htu
  exact ⟨e, rfl⟩

/-- A lookup counts, and does nothing else (R277). -/
theorem domsOnly_lookup (s : State) (pa : Nat) (access : Bool) : DomsOnly s (s.lookup pa access) := by
  unfold State.lookup
  refine domsOnly_ite _ ⟨_, rfl⟩ ?_
  split
  · exact domsOnly_countHit s _ _ access
  · exact domsOnly_count ⟨_, rfl⟩ _ _ _

/-- The lookups of the entries that a walk reads. -/
def walkCounted (s : State) (path : List Nat) : State := path.foldr (fun x t => t.lookup x false) s

theorem domsOnly_walkCounted (s : State) (path : List Nat) : DomsOnly s (walkCounted s path) := by
  induction path with
  | nil => exact ⟨_, rfl⟩
  | cons x path ih => exact domsOnly_trans ih (domsOnly_lookup _ x false)

/-- The handle of a walk reaches its register, and its sequencer may go on. -/
def walkLanded (s : State) (a : Access) (h : Handle) : State := landRegs s a.sid [.h a.hnd h, .retire a.id, .seamEnd]

/-- The sequencer of a walk that has ended: it goes on from the next cycle. -/
def walkEnded (s : State) (a : Access) : Seq :=
  let q := s.seq a.sid
  { q with outst := q.outst.filter (fun o => o.id != a.id), seam := false, floor := max q.floor (s.now - q.slip + 1) }

/-- The sequencer of a walk whose handle has reached its register. -/
def walkedSeq (s : State) (a : Access) (h : Handle) : Seq :=
  let q := s.seq a.sid
  { walkEnded s a with h := Fm.set q.h a.hnd (if h.v then { h with rp := h.rp || s.revoking q.task.part h.vbase } else h) }

theorem landReg_retire (s : State) (sid id : Nat) :
    landReg s sid (.retire id) = s.updSeq sid (fun q => { q with outst := q.outst.filter (fun o => o.id != id) }) := rfl

theorem landReg_seamEnd (s : State) (sid : Nat) :
    landReg s sid .seamEnd = s.updSeq sid (fun q => { q with seam := false, floor := max q.floor (s.now - q.slip + 1) }) := rfl

/-- A handle that lands is marked when its page has become revoke-pending (R293). -/
theorem landReg_h (s : State) (sid n : Nat) (x : Handle) : landReg s sid (.h n x) = withSeq s sid ((s.seq sid).setH n
    (if x.v then { x with rp := x.rp || s.revoking (s.seq sid).task.part x.vbase } else x)) := rfl

theorem walkLanded_eq (s : State) (a : Access) (h : Handle) : walkLanded s a h = withSeq s a.sid (walkedSeq s a h) := by
  show landReg (landReg (landReg s a.sid (.h a.hnd h)) a.sid (.retire a.id)) a.sid .seamEnd = _
  rw [landReg_seamEnd, landReg_retire, landReg_h, updSeq_withSeq, updSeq_withSeq]
  rfl

theorem tlbFill_eq (s : State) (die part : Nat) (h : Handle) : s.tlbFill die part h =
    { s with tlb := (s.tlbFill die part h).tlb, stamp := (s.tlbFill die part h).stamp } := by
  unfold State.tlbFill
  dsimp only
  split <;> rfl

/-- What a walk puts into the last-level TLB: nothing for a page that is revoke-pending (R293, R297). -/
def walkFilled (s : State) (a : Access) (h : Handle) : State := if h.rp then s else s.tlbFill (dieOf a.sid) a.part h

theorem walkFilled_eq (s : State) (a : Access) (h : Handle) :
    walkFilled s a h = { s with tlb := (walkFilled s a h).tlb, stamp := (walkFilled s a h).stamp } := by
  unfold walkFilled
  split
  · rfl
  · exact tlbFill_eq ..

/-- The sequencer of a walk whose leaf is not resident, with the address that its page fault names (R324). -/
def walkMissed (s : State) (a : Access) : State :=
  let t := landRegs s a.sid [.retire a.id, .seamEnd]
  if (t.seq a.sid).endable then (t.updSeq a.sid (fun q => { q with faultVa := a.addr })).endTask a.sid 8 3 a.pc else t

/-- A walk of the present generation, by what it finds. -/
theorem xltWalkComplete_of_present {s : State} {a : Access} (harg : s.arg = .access a) (hp : Present s a.part a.gen) :
    (∀ d k x, s.walkHeld a.part a.addr = some (d, k, x) → exec .xltWalkComplete s = .next (replayed s (d, k) x 1 .xltWalkComplete s.arg)) ∧
    (s.walkHeld a.part a.addr = none →
      (s.walk a.part a.addr = none → exec .xltWalkComplete s = .next (walkCounted (walkLanded s a {}) (s.walkPath a.part a.addr))) ∧
      ∀ e sz l, s.walk a.part a.addr = some (e, sz, l) →
        let h := s.handleOf a.part a.addr e sz
        (bit e 2 = false → exec .xltWalkComplete s = .next (walkCounted (walkMissed s a) (s.walkPath a.part a.addr))) ∧
        (bit e 2 = true → exec .xltWalkComplete s =
          .next (walkCounted (walkLanded (walkFilled s a h) a h) (s.walkPath a.part a.addr)))) := by
  have hgen : ¬ (a.part ≠ 63 ∧ a.gen ≠ s.gen a.part) := by rcases hp with h | h <;> simp [h]
  rw [show exec .xltWalkComplete s = execXltWalkComplete s from rfl]
  unfold execXltWalkComplete
  rw [harg]
  dsimp only
  rw [if_neg hgen]
  refine ⟨fun d k x hheld => ?_, fun hheld => ⟨fun hwalk => ?_, fun e sz l hwalk => ⟨fun hres => ?_, fun hres => ?_⟩⟩⟩ <;> rw [hheld]
  · rfl
  · rw [hwalk]
    rfl
  · rw [hwalk]
    dsimp only
    rw [hres]
    rfl
  · rw [hwalk]
    dsimp only
    rw [hres]
    rfl

/-- What a walk leaves of its sequencer does not depend on the TLBs. -/
theorem walkedSeq_tlb (s : State) (tlb : Fm (List TlbEntry)) (stamp : Nat) (a : Access) (h : Handle) :
    walkedSeq { s with tlb := tlb, stamp := stamp } a h = walkedSeq s a h := rfl

theorem faultVa_endTask {s : State} {sid : Nat} (h : sid % 16 ≠ 8) (code col pc : Nat) :
    (Fm.get {} (s.endTask sid code col pc).seqs sid).faultVa = (s.seq sid).faultVa := by
  have user : ¬ isMgmt sid = true := fun k => h (of_decide_eq_true k)
  unfold State.endTask
  rw [if_neg user]
  dsimp only [State.push]
  rw [show ∀ f, Fm.get {} (s.updSeq sid f).seqs sid = f (s.seq sid) from fun f => seq_updSeq_same s sid f]

/-- A page fault of a task that runs ends it, and its full frame is to be saved (R324, R328). -/
theorem walkMissed_spec {s : State} {a : Access} (hrun : (Fm.get {} s.seqs a.sid).run = .run) (huser : a.sid % 16 ≠ 8) :
    (Fm.get {} (walkMissed s a).seqs a.sid).run = .ending 8 ∧ (Fm.get {} (walkMissed s a).seqs a.sid).faultVa = a.addr ∧
      event s.now 8 a.sid .fullFrameSave (.half a.sid 8) ∈ (walkMissed s a).agenda := by
  have hlanded : landRegs s a.sid [.retire a.id, .seamEnd] = withSeq s a.sid (walkEnded s a) := by
    show landReg (landReg s a.sid (.retire a.id)) a.sid .seamEnd = _
    rw [landReg_seamEnd, landReg_retire]
    exact updSeq_withSeq s a.sid _ _
  have hend : ((withSeq s a.sid (walkEnded s a)).seq a.sid).endable = true := by
    rw [show (withSeq s a.sid (walkEnded s a)).seq a.sid = walkEnded s a from get_set_same _ _ _ _]
    unfold Seq.endable
    rw [show (walkEnded s a).run = .run from hrun]
  unfold walkMissed
  rw [hlanded]
  dsimp only
  rw [if_pos hend, updSeq_withSeq]
  obtain ⟨hending, -, -, -, hsave⟩ := endTask_user (s := withSeq s a.sid { walkEnded s a with faultVa := a.addr }) huser 8 3 a.pc
  exact ⟨hending, (faultVa_endTask huser 8 3 a.pc).trans (congrArg Seq.faultVa (get_set_same _ _ _ _)), hsave⟩

/-- The handle of a walk has reached its register, marked if its page is revoke-pending, and its sequencer goes on. -/
theorem walkedSeq_spec (s : State) (a : Access) (h : Handle) (hv : h.v = true) :
    Fm.get {} (walkedSeq s a h).h a.hnd = { h with rp := h.rp || s.revoking (Fm.get {} s.seqs a.sid).task.part h.vbase } :=
  (get_set_same _ _ _ _).trans (if_pos hv)

theorem walkCompletes : WalkCompletes := by
  intro s a harg hp
  obtain ⟨hheld, hfound⟩ := xltWalkComplete_of_present harg hp
  refine ⟨hheld, fun hfree => ?_⟩
  obtain ⟨hunmapped, hmapped⟩ := hfound hfree
  have hseq (q : Seq) : Fm.get {} (Fm.set s.seqs a.sid q) a.sid = q := get_set_same _ _ _ _
  refine ⟨fun hwalk => ?_, fun e sz l hwalk hres => ?_, fun e sz l hwalk hres hrun huser => ?_⟩
  · obtain ⟨d, hd⟩ := domsOnly_walkCounted (withSeq s a.sid (walkedSeq s a {})) (s.walkPath a.part a.addr)
    rw [hunmapped hwalk, walkLanded_eq, hd]
    have hq := hseq (walkedSeq s a {})
    exact ⟨_, rfl, (congrArg (fun q : Seq => Fm.get {} q.h a.hnd) hq).trans (get_set_same _ _ _ _), congrArg Seq.seam hq, rfl⟩
  · have hlanded : walkLanded (walkFilled s a (s.handleOf a.part a.addr e sz)) a (s.handleOf a.part a.addr e sz) =
        withSeq (walkFilled s a (s.handleOf a.part a.addr e sz)) a.sid (walkedSeq s a (s.handleOf a.part a.addr e sz)) := by
      rw [walkLanded_eq, walkFilled_eq, walkedSeq_tlb]
    have hfill : ∀ h : Handle, (h.rp = true → (walkFilled s a h).tlb = s.tlb) ∧
        (h.rp = false → (walkFilled s a h).tlb = (s.tlbFill (dieOf a.sid) a.part h).tlb) := fun h =>
      ⟨fun hrp => congrArg State.tlb (if_pos hrp), fun hrp => congrArg State.tlb (if_neg (by rw [hrp]; decide))⟩
    rw [(hmapped e sz l hwalk).2 hres, hlanded, walkFilled_eq]
    obtain ⟨d, hd⟩ := domsOnly_walkCounted (withSeq { s with
      tlb := (walkFilled s a (s.handleOf a.part a.addr e sz)).tlb, stamp := (walkFilled s a (s.handleOf a.part a.addr e sz)).stamp }
      a.sid (walkedSeq s a (s.handleOf a.part a.addr e sz))) (s.walkPath a.part a.addr)
    rw [hd]
    have hq := hseq (walkedSeq s a (s.handleOf a.part a.addr e sz))
    exact ⟨_, rfl, ⟨(congrArg (fun q : Seq => Fm.get {} q.h a.hnd) hq).trans (walkedSeq_spec s a _ rfl), hfill _⟩,
      congrArg Seq.seam hq, (congrArg Seq.g hq).trans rfl, rfl⟩
  · obtain ⟨d, hd⟩ := domsOnly_walkCounted (walkMissed s a) (s.walkPath a.part a.addr)
    rw [(hmapped e sz l hwalk).1 hres, hd]
    exact ⟨_, rfl, walkMissed_spec hrun huser⟩

/-- Settles O16. -/
theorem handlesAndTranslation : Obligations.HandlesAndTranslation := ⟨handleWords, walkingTranslation, walkCompletes⟩

end Sys2Proof.Laws
end

/-! # O17: DRAIN, cache ranges and retention (R187 to R189, R276, R342) -/

section

namespace Sys2Proof.Laws

open Sys2Proof Sys2Proof.Machine Sys2Proof.Claims

/-! ## DRAIN (R187) -/

/-- The cycle of a DRAIN that issues in the cycle before `c`: the latest bound of the stores before it, from `c` on. -/
def drainCycle (c : Nat) (l : List StntRec) : Nat := l.foldl (fun m r => max m (r.bound.getD 0)) c

theorem drainCycle_spec (l : List StntRec) (c : Nat) : c ≤ drainCycle c l ∧ (∀ r ∈ l, r.bound.getD 0 ≤ drainCycle c l) ∧
    (drainCycle c l = c ∨ ∃ r ∈ l, r.bound.getD 0 = drainCycle c l) := by
  induction l generalizing c with
  | nil => exact ⟨le_rfl, by simp, .inl rfl⟩
  | cons x l ih =>
    obtain ⟨hle, hall, hmax⟩ := ih (max c (x.bound.getD 0))
    have hcons : drainCycle c (x :: l) = drainCycle (max c (x.bound.getD 0)) l := rfl
    rw [hcons]
    refine ⟨(le_max_left _ _).trans hle, fun r hr => ?_, ?_⟩
    · rcases List.mem_cons.mp hr with rfl | hr
      · exact (le_max_right _ _).trans hle
      · exact hall r hr
    · rcases hmax with hmax | ⟨r, hr, hmax⟩
      · rcases max_choice c (x.bound.getD 0) with hc | hc
        · exact .inl (hmax.trans hc)
        · exact .inr ⟨x, List.mem_cons_self, (hmax.trans hc).symm⟩
      · exact .inr ⟨r, List.mem_cons_of_mem _ hr, hmax⟩

/-- An access is visible in cycle `c`, on record of its sequencer (R253). -/
theorem visibleAt_outst (s : State) {sid : Nat} (hsid : sid < 8192) (id : Nat) (c : Option Nat) :
    ∀ o ∈ (Fm.get {} (s.visibleAt sid id c).seqs sid).outst, o.id = id → o.at_ = c := by
  have hq (f : Seq → Seq) : Fm.get {} (s.updSeq sid f).seqs sid = f (s.seq sid) := seq_updSeq_same s sid f
  unfold State.visibleAt
  rw [if_neg (Nat.not_le.mpr hsid), hq]
  intro o ho hid
  obtain ⟨x, -, rfl⟩ := List.mem_map.mp ho
  by_cases hx : x.id = id
  · rw [if_pos hx]
  · rw [if_neg hx] at hid
    exact absurd hid hx

/-- DRAIN (R187). -/
theorem drainStarts {s : State} (hf : Free s) (hbound : ∀ r ∈ (mine s).stnt, r.bound ≠ none) :
    ∃ t c a, exec .drain s = .next t ∧ (mine t).stnt = [] ∧ s.now < c ∧ (∀ r ∈ (mine s).stnt, ∀ b, r.bound = some b → b ≤ c) ∧
      (c = s.now + 1 ∨ ∃ r ∈ (mine s).stnt, r.bound = some c) ∧
      event c 4 (engineKey s.cur.sid 0) .drainComplete (.access a) ∈ t.agenda ∧ a.sid = s.cur.sid ∧ a.id = s.nextId ∧
      a.tags = some ((mine s).stnt.map (·.id)) ∧ (∃ o ∈ (mine t).outst, o.id = s.nextId ∧ o.kind = 6 ∧ o.at_ = none) ∧
      (mine t).g = (mine s).g ∧ t.mem = s.mem ∧ t.spad = s.spad := by
  obtain ⟨hle, hall, hmax⟩ := drainCycle_spec (mine s).stnt (s.now + 1)
  have hmine (q : Seq) := get_set_same {} q (occupied s 1).seqs s.cur.sid
  show ∃ t c a, execDrain s = _ ∧ _
  unfold execDrain
  rw [issue_of_free hf, me_occupied]
  dsimp only [State.fresh]
  rw [cur_updMe, outstanding_updMe]
  refine ⟨_, drainCycle (s.now + 1) (mine s).stnt, _, rfl, congrArg Seq.stnt (hmine _), hle, fun r hr b hb => ?_, ?_,
    List.mem_append_right _ (List.mem_singleton.mpr rfl), rfl, rfl, rfl, ?_, ?_, rfl, rfl⟩
  · have := hall r hr
    rwa [hb] at this
  · refine hmax.imp_right fun ⟨r, hr, hc⟩ => ⟨r, hr, ?_⟩
    obtain ⟨b, hb⟩ := Option.ne_none_iff_exists'.mp (hbound r hr)
    rw [hb] at hc ⊢
    exact congrArg some hc
  · show ∃ o ∈ (Fm.get {} (Fm.set (occupied s 1).seqs s.cur.sid _) s.cur.sid).outst, _
    rw [hmine]
    exact ⟨_, mem_outstandingWith _ _ _, rfl, rfl, rfl⟩
  · show (Fm.get {} (Fm.set (occupied s 1).seqs s.cur.sid _) s.cur.sid).g = _
    rw [hmine]
    exact (congrArg Seq.g (mine_occupied s 1)).trans rfl

/-- Whether an access that a DRAIN collects is not visible yet. -/
theorem not_done_iff (o : Outstanding) (now : Nat) : (!o.done now) = true ↔ ¬ ∃ c, o.at_ = some c ∧ c ≤ now := by
  unfold Outstanding.done
  cases o.at_ <;> simp

theorem drainCollects : DrainCollects := by
  refine ⟨fun s hf hbound => drainStarts hf hbound, ?_⟩
  intro s a harg hsid there
  have hexec : exec .drainComplete s = if (s.seq a.sid).outst.any (fun o => (a.tags.getD []).contains o.id && !o.done s.now) then
      .next (scheduled s (event (s.now + 1) 4 (engineKey a.sid 0) .drainComplete (.access a)))
      else .next (s.visibleAt a.sid a.id (some s.now)) := by
    show execDrainComplete s = _
    unfold execDrainComplete
    rw [harg]
    rfl
  rw [hexec]
  refine ⟨fun hall => ?_, fun ⟨o, ho, hid, hnot⟩ => ?_⟩
  · rw [if_neg]
    · refine ⟨_, rfl, visibleAt_outst s hsid a.id (some s.now), ?_⟩
      obtain ⟨l, hl⟩ := recorded_visibleAt s a.id (some s.now) hsid
      rw [hl]
    · rw [List.any_eq_true]
      rintro ⟨o, ho, hwait⟩
      rw [Bool.and_eq_true, not_done_iff] at hwait
      exact hwait.2 (hall o ho hwait.1)
  · rw [if_pos]
    exact List.any_eq_true.mpr ⟨o, ho, by rw [Bool.and_eq_true, not_done_iff]; exact ⟨hid, hnot⟩⟩

/-! ## Cache ranges (R188) -/

theorem lineRange_fst (pa n : Nat) : (lineRange pa n).1 = pa / 64 * 64 := by
  unfold lineRange
  split <;> rfl

theorem lineRange_covers (pa : Nat) {n : Nat} (hn : 0 < n) : pa + n ≤ (lineRange pa n).1 + (lineRange pa n).2 := by
  unfold lineRange
  rw [if_neg (by omega)]
  dsimp only
  have : pa / 64 ≤ (pa + n - 1) / 64 := Nat.div_le_div_right (by omega)
  omega

/-- The access of a cache range, and of a prefetch, within a page (R188). -/
def rangeOf (s : State) (x : Handle) (off n : Nat) : Access :=
  { id := s.nextId, sid := s.cur.sid, addr := (lineRange (x.base + off) n).1, len := (lineRange (x.base + off) n).2, key := x.key,
    part := (mine s).task.part, gen := s.gen (mine s).task.part, issue := s.now }

theorem handleFault_eq (s : State) : s.handleFault = faulted s 2 := fault_eq_faulted s 2

theorem boundsFault_eq (s : State) : s.boundsFault = faulted s 3 := fault_eq_faulted s 3

/-- PFL of a word that may issue (R188). -/
theorem pfl_of_free {s : State} (hf : Free s) (h : BitVec 4) (b c : BitVec 6) :
    let x := handle s h
    let off := (greg s b).toNat
    let n := min (greg s c).toNat (pageSize x.sz - off)
    exec (.pfl h b c) s = .next (if !current s x || n = 0 then occupied s 1 else
      { occupied s 1 with
        agenda := s.agenda ++ [event (s.now + 1 + { occupied s 1 with nextId := s.nextId + 1 }.drawVal) 4 (myOrder s) .accessHomeCycle
          (.access { rangeOf s x off n with op := .prefetch, cls := 3, tier := x.tier })]
        nextId := s.nextId + 1, choices := { occupied s 1 with nextId := s.nextId + 1 }.drew.choices
        drawn := { occupied s 1 with nextId := s.nextId + 1 }.drew.drawn }) := by
  intro x off n
  have hpart (n : Nat) : ({ occupied s 1 with nextId := n } : State).myPart = (mine s).task.part := myPart_occupied s 1
  show execPfl h b c s = _
  unfold execPfl
  rw [issue_of_free hf, hr_occupied, gn_occupied, gn_occupied]
  dsimp only [State.fresh]
  rw [valid_occupied, hpart, drew_fields]
  rfl

/-- The state in which a cache range is on its way (R176, R188). -/
def rangeSent (s : State) (x : Handle) (off n : Nat) (drop : Bool) : State :=
  let k := 40 + 2 * dieLatency (dieOf s.cur.sid) x.home + cdiv n 1024
  { occupied s 1 with
    seqs := Fm.set (occupied s 1).seqs s.cur.sid { mine (occupied s 1) with
      outst := outstandingWith s.now (mine (occupied s 1))
        { id := s.nextId, page := some (x.base, pageSize x.sz), at_ := some (s.now + k), kind := 3, issue := s.now } }
    agenda := s.agenda ++ [event (s.now + k) 4 (myOrder s) .cacheRangeComplete (.ranges (rangeOf s x off n) drop x.home)]
    nextId := s.nextId + 1 }

/-- A sequencer's partition, when an access of it was recorded. -/
theorem myPart_outstanding (s : State) (o : Outstanding) : (s.outstanding s.cur.sid o).myPart = s.myPart := by
  rw [outstanding_eq]
  unfold State.myPart State.me State.seq
  dsimp only
  rw [get_set_same]

/-- CWBR and CINVR of a word that may issue (R175, R188). -/
theorem cacheRange_of_free {s : State} (hf : Free s) (h : BitVec 4) (b c : BitVec 6) (drop : Bool) :
    let x := handle s h
    let off := (greg s b).toNat
    let n := (greg s c).toNat
    s.cacheRange h b c drop = .next (
      if (!(current s x && (x.perm &&& (if drop then 2 else 0)) == (if drop then 2 else 0)) || x.perm = 0) then faulted (occupied s 1) 2
      else if off % 1 ≠ 0 ∨ pageSize x.sz < off + n then faulted (occupied s 1) 3
      else rangeSent s x off n drop) := by
  intro x off n
  have hpart (n : Nat) (o : Outstanding) :
      (({ occupied s 1 with nextId := n } : State).outstanding (occupied s 1).cur.sid o).myPart = (mine s).task.part :=
    (myPart_outstanding _ o).trans (myPart_occupied s 1)
  unfold State.cacheRange
  rw [issue_of_free hf, hr_occupied, gn_occupied, gn_occupied]
  dsimp only [State.fresh]
  rw [handleOk_occupied, if_congr (not_boundsOk_iff _ _ _ _) rfl rfl, hpart, outstanding_eq, handleFault_eq, boundsFault_eq]
  rfl

theorem rangeSent_underWay (s : State) (x : Handle) (off n : Nat) (drop : Bool) :
    UnderWay s (rangeSent s x off n drop) 1 false [event (s.now + (40 + 2 * dieLatency (dieOf s.cur.sid) x.home + cdiv n 1024)) 4 (myOrder s)
      .cacheRangeComplete (.ranges (rangeOf s x off n) drop x.home)] :=
  underWay_of_outstanding (markFallback_false _).symm rfl ⟨_, mem_outstandingWith _ _ _, rfl, rfl⟩

/-- Checks 3 of a cache range: CWBR asks for any permission, CINVR for the one to write (R188). -/
theorem range_refused (v : Bool) (perm : Nat) (drop : Bool) :
    (!(v && (perm &&& (if drop then 2 else 0)) == (if drop then 2 else 0)) || decide (perm = 0)) =
      !(v && if drop then (perm &&& 2) == 2 else perm != 0) := by
  by_cases h : perm = 0 <;> cases drop <;> simp [h]

theorem cacheRangeWords : CacheRangeWords := by
  intro s h b c hf x off n
  have hpfl := pfl_of_free hf h b c
  refine ⟨fun hnone => ?_, fun hcur hpos => ?_, fun i drop hi => ?_⟩
  · rw [hpfl, if_pos]
    rcases hnone with hcur | hzero
    · rw [show current s (handle s h) = false from hcur]
      rfl
    · rw [Bool.or_eq_true, decide_eq_true_eq]
      exact .inr hzero
  · rw [hpfl, if_neg]
    · refine ⟨_, _, _, rfl, ?_, rfl, rfl, lineRange_fst _ _, lineRange_covers _ hpos, rfl, rfl⟩
      omega
    · rw [Bool.or_eq_true, decide_eq_true_eq, show current s (handle s h) = true from hcur]
      rintro (h1 | h1)
      · cases h1
      · exact absurd h1 (Nat.pos_iff_ne_zero.mp hpos)
  · have hexec : exec i s = s.cacheRange h b c drop := by
      rcases hi with ⟨rfl, rfl⟩ | ⟨rfl, rfl⟩ <;> rfl
    intro ok
    have hok : (!(current s x && (x.perm &&& (if drop then 2 else 0)) == (if drop then 2 else 0)) || decide (x.perm = 0)) = !ok :=
      range_refused _ _ _
    rw [hexec, cacheRange_of_free hf]
    refine ⟨fun hno => ?_, fun hyes hout => ?_, fun hyes hin => ?_⟩
    · rw [if_pos (hok.trans (by rw [hno]; rfl))]
    · rw [if_neg (by rw [show _ = _ from hok, hyes]; decide), if_pos (.inr hout)]
    · have hfits : ¬ (off % 1 ≠ 0 ∨ pageSize x.sz < off + n) := by omega
      rw [if_neg (by rw [show _ = _ from hok, hyes]; decide), if_neg hfits]
      exact ⟨_, _, rfl, lineRange_fst _ _, fun hn => lineRange_covers _ hn, rfl, rfl, rfl, rfl, rfl, rangeSent_underWay s x off n drop, rfl⟩
/-! ## A cache range that completes (R188) -/

/-- Whether line `l` begins in a range of a die. -/
def lineIn (pa len : Nat) (l : Line) : Bool := decide (pa ≤ l.pa * 64) && decide (l.pa * 64 < pa + len)

theorem l2_dramWrite (s : State) (loc pa key data mask tag : Nat) (ctag : BitVec 4) (bad : Bool) :
    (s.dramWrite loc pa key data mask tag ctag bad).l2 = s.l2 := by
  unfold State.dramWrite
  dsimp only
  split <;> rfl

theorem l2_drainOne (s : State) (k : Nat) : (s.drainOne k).l2 = s.l2 := by
  unfold State.drainOne
  split
  · rfl
  · exact l2_dramWrite ..

theorem l2_buffer (s : State) (p : Place) (e : WbEntry) : (s.buffer p e).l2 = s.l2 := by
  unfold State.buffer
  dsimp only
  split
  · exact l2_drainOne ..
  · rfl

/-- `t` is `s` but for DRAM and the write buffers on the way to it: the lines stand. -/
def WrittenBack (s t : State) : Prop := WritesOnly s t ∧ t.l2 = s.l2

theorem writtenBack_buffer {s t : State} (h : WrittenBack s t) (p : Place) (e : WbEntry) : WrittenBack s (t.buffer p e) :=
  ⟨writesOnly_trans h.1 (writesOnly_buffer ..), (l2_buffer ..).trans h.2⟩

/-- The dirty lines of a range on their way to DRAM; none for CINVR (R188). -/
def rangeWritten (s : State) (die pa len : Nat) (drop : Bool) : State :=
  if drop then s
  else s.l2.foldl (fun s e => if e.1 / 8192 / 32 = die then
    e.2.foldl (fun s l => if lineIn pa len l && l.dirty then s.buffer (s.place (l.pa * 64)) (l.entry (s.place (l.pa * 64)).loc) else s) s else s) s

theorem writtenBack_range (s : State) (die pa len : Nat) (drop : Bool) : WrittenBack s (rangeWritten s die pa len drop) := by
  cases drop with
  | true => exact ⟨rfl, rfl⟩
  | false =>
    refine List.foldlRecOn s.l2 _ ⟨rfl, rfl⟩ fun t ht e _ => ?_
    split
    · refine List.foldlRecOn e.2 _ ht fun u hu l _ => ?_
      split
      · exact writtenBack_buffer hu ..
      · exact hu
    · exact ht

/-- What a cache range leaves of the lines of an L2 set (R188). -/
def sweptSet (die pa len : Nat) (drop : Bool) (e : Nat × List Line) : Nat × List Line :=
  if e.1 / 8192 / 32 = die then
    (e.1, if drop then e.2.filter (fun l => !lineIn pa len l) else e.2.map (fun l => if lineIn pa len l then { l with dirty := false } else l))
  else e

theorem sweepLines_eq (s : State) (die pa len : Nat) (drop : Bool) :
    s.sweepLines die pa len drop = { rangeWritten s die pa len drop with l2 := s.l2.map (sweptSet die pa len drop) } := by
  rw [← (writtenBack_range s die pa len drop).2]
  rfl

theorem key_sweptSet (die pa len : Nat) (drop : Bool) (e : Nat × List Line) : (sweptSet die pa len drop e).1 = e.1 := by
  unfold sweptSet
  split <;> rfl

theorem lineIn_iff (pa len : Nat) (l : Line) : lineIn pa len l = true ↔ pa ≤ l.pa * 64 ∧ l.pa * 64 < pa + len := by
  unfold lineIn
  rw [Bool.and_eq_true, decide_eq_true_eq, decide_eq_true_eq]

/-- A line of the range that stays behind is clean, and CINVR leaves none. -/
theorem clean_sweptSet {die pa len : Nat} {drop : Bool} {e : Nat × List Line} (hdie : e.1 / 8192 / 32 = die) {x : Line}
    (hx : x ∈ (sweptSet die pa len drop e).2) (hin : lineIn pa len x = true) : drop = false ∧ x.dirty = false := by
  unfold sweptSet at hx
  rw [if_pos hdie] at hx
  cases drop with
  | true => simp [hin] at hx
  | false =>
    refine ⟨rfl, ?_⟩
    obtain ⟨l, -, rfl⟩ := List.mem_map.mp hx
    by_cases hl : lineIn pa len l = true
    · rw [if_pos hl]
    · rw [if_neg hl] at hin
      exact absurd hin hl

/-- The lines outside the range stay. -/
theorem mem_sweptSet {die pa len : Nat} {drop : Bool} {e : Nat × List Line} {x : Line} (hx : x ∈ e.2) (hout : ¬ lineIn pa len x = true) :
    x ∈ (sweptSet die pa len drop e).2 := by
  unfold sweptSet
  split
  · cases drop with
    | true => exact List.mem_filter.mpr ⟨hx, by simpa using hout⟩
    | false => exact List.mem_map.mpr ⟨x, hx, if_neg hout⟩
  · exact hx

/-- A range that becomes visible changes only what is on record of its sequencer. -/
theorem outst_seenNow (s : State) (sid id i : Nat) :
    Fm.get {} (s.seenNow sid id).seqs i = { (Fm.get {} s.seqs i : Seq) with outst := (Fm.get {} (s.seenNow sid id).seqs i : Seq).outst } := by
  unfold State.seenNow
  split
  · rfl
  · exact outst_recorded (sid := sid) ⟨_, rfl⟩ i

theorem l2_seenNow (s : State) (sid id : Nat) : (s.seenNow sid id).l2 = s.l2 ∧ (s.seenNow sid id).spad = s.spad := by
  unfold State.seenNow
  split <;> exact ⟨rfl, rfl⟩

/-- What a cache range that takes its place leaves (R188). -/
theorem rangeSwept_spec (s : State) (a : Access) (die : Nat) (drop : Bool) :
    let t := ((s.sweepLines die a.addr a.len drop).dropRdcRange (fun _ => true) a.addr a.len).seenNow a.sid a.id
    t.l2 = s.l2.map (sweptSet die a.addr a.len drop) ∧ t.spad = s.spad ∧
      ∀ i, Fm.get {} t.seqs i = { (Fm.get {} s.seqs i : Seq) with outst := (Fm.get {} t.seqs i : Seq).outst } := by
  intro t
  obtain ⟨hl2, hspad⟩ := l2_seenNow ((s.sweepLines die a.addr a.len drop).dropRdcRange (fun _ => true) a.addr a.len) a.sid a.id
  have hkept : WritesOnly s (rangeWritten s die a.addr a.len drop) := (writtenBack_range s die a.addr a.len drop).1
  have hseqs : (rangeWritten s die a.addr a.len drop).seqs = s.seqs := by rw [hkept]
  refine ⟨hl2.trans ?_, hspad.trans ?_, fun i => ?_⟩
  · rw [sweepLines_eq]
    rfl
  · rw [sweepLines_eq]
    show (rangeWritten s die a.addr a.len drop).spad = _
    rw [hkept]
  · have hold : ((s.sweepLines die a.addr a.len drop).dropRdcRange (fun _ => true) a.addr a.len).seqs = s.seqs := by
      rw [sweepLines_eq]
      exact hseqs
    have hseen := outst_seenNow ((s.sweepLines die a.addr a.len drop).dropRdcRange (fun _ => true) a.addr a.len) a.sid a.id i
    rwa [hold] at hseen

theorem cacheRangesComplete : CacheRangesComplete := by
  intro s a drop die harg
  rw [show exec .cacheRangeComplete s = execCacheRangeComplete s from rfl]
  unfold execCacheRangeComplete
  rw [harg]
  dsimp only
  refine ⟨fun hold => ?_, fun hp hlen => ?_⟩
  · rw [if_pos (.inr (by simpa using hold))]
  · rw [if_neg (by rcases hp with h | h <;> simp [h] <;> omega)]
    refine ⟨fun d hd => ?_, fun hfree => ?_⟩
    · rw [hd]
      refine ⟨_, rfl, ?_⟩
      unfold State.visibleAt
      split <;> rfl
    · rw [hfree]
      obtain ⟨hl2, hspad, hseqs⟩ := rangeSwept_spec s a die drop
      refine ⟨_, rfl, fun k l hk hdie x hx hlow hhigh => ?_, fun k l hk => ?_, hspad, hseqs⟩
      · rw [hl2] at hk
        obtain ⟨e, -, he⟩ := List.mem_map.mp hk
        have hkey : e.1 = k := (key_sweptSet ..).symm.trans (congrArg Prod.fst he)
        exact clean_sweptSet (hkey ▸ hdie) (he ▸ hx) ((lineIn_iff ..).mpr ⟨hlow, hhigh⟩)
      · refine ⟨(sweptSet die a.addr a.len drop (k, l)).2, ?_, fun x hx hout => mem_sweptSet hx fun h => hout ((lineIn_iff ..).mp h)⟩
        rw [hl2]
        exact List.mem_map.mpr ⟨(k, l), hk, Prod.ext (key_sweptSet ..) rfl⟩

/-! ## Retention registers (R189) -/

/-- RPIN and RUNPIN of a word that may issue, where a block covers the page (R175, R189). -/
theorem retention_of_free {s : State} (hf : Free s) {n : BitVec 3} {h : BitVec 4} {perm k : Nat} (f : State → Handle → Nat → Rtn → State)
    (hk : s.coveringBlock (handle s h).home (handle s h).base = some k) :
    let x := handle s h
    let r := Fm.get {} (s.dom x.home k).rtn n.toNat
    s.retention n h perm f = .next (
      if !current s x then faulted (occupied s 1) 2
      else if !(r.gv && r.grant == (mine s).task.part) then faulted (occupied s 1) 1
      else if !(current s x && (x.perm &&& perm) == perm) || x.tier ≠ 0 then faulted (occupied s 1) 2
      else f (occupied s 1) x k r) := by
  intro x r
  have hblock : (occupied s 1).coveringBlock (handle s h).home (handle s h).base = some k := hk
  unfold State.retention
  rw [issue_of_free hf, hr_occupied]
  dsimp only
  rw [hblock]
  dsimp only
  rw [valid_occupied, handleOk_occupied, myPart_occupied, handleFault_eq, show (occupied s 1).illegal = faulted (occupied s 1) 1 from fault_eq_faulted _ 1]
  rfl

/-- The event of a retention register that takes a new value, or ends, at +48 + 2d (R176, R189). -/
def retentionSent (s : State) (x : Handle) (k n : Nat) (r : Option Rtn) : State :=
  scheduled (occupied s 1) (event (s.now + (48 + 2 * dieLatency (dieOf s.cur.sid) x.home)) 4 (myOrder s) .retentionInForce
    (.rtn x.home k n r (mine s).task.part (s.gen (mine s).task.part)))

theorem retentionSent_occupied (s : State) (x : Handle) (k n : Nat) (r : Option Rtn) :
    (occupied s 1).after (48 + 2 * dieLatency (dieOf (occupied s 1).cur.sid) x.home) 4
      (homeKey (occupied s 1).cur.sid (occupied s 1).now (occupied s 1).cur.col) .retentionInForce
      (.rtn x.home k n r (occupied s 1).myPart ((occupied s 1).gen (occupied s 1).myPart)) = retentionSent s x k n r := by
  rw [myPart_occupied]
  rfl

theorem retentionWords : RetentionWords := by
  intro s n h g k hf x r hk d v part first cnt new granted fits
  have hunpin : exec (.runpin n h) s = .next (
      if !current s x then faulted (occupied s 1) 2
      else if !(r.gv && r.grant == (mine s).task.part) then faulted (occupied s 1) 1
      else if !(current s x && (x.perm &&& 0) == 0) || x.tier ≠ 0 then faulted (occupied s 1) 2
      else retentionSent s x k n.toNat none) := by
    show execRunpin n h s = _
    unfold execRunpin
    rw [retention_of_free hf _ hk, retentionSent_occupied]
  have hpin : exec (.rpin n h g) s = .next (
      if !current s x then faulted (occupied s 1) 2
      else if !(r.gv && r.grant == (mine s).task.part) then faulted (occupied s 1) 1
      else if !(current s x && (x.perm &&& 1) == 1) || x.tier ≠ 0 then faulted (occupied s 1) 2
      else if pageSize x.sz < 64 * (first + cnt) ∨ popcount (bits v 44 16) 16 = 0 ∨ 12 < popcount (bits v 44 16) 16 ∨
          12 < popcount ((s.dom x.home k).unionWith n.toNat new) 16 then faulted (occupied s 1) 3
      else retentionSent s x k n.toNat (some new)) := by
    show execRpin n h g s = _
    unfold execRpin
    rw [retention_of_free hf _ hk, gn_occupied]
    dsimp only
    rw [retentionSent_occupied, boundsFault_eq]
    rfl
  have hright : (r.gv && r.grant == (mine s).task.part) = true ↔ granted := by
    rw [Bool.and_eq_true, beq_iff_eq]
  have hrange : (pageSize x.sz < 64 * (first + cnt) ∨ popcount (bits v 44 16) 16 = 0 ∨ 12 < popcount (bits v 44 16) 16 ∨
      12 < popcount ((s.dom x.home k).unionWith n.toNat new) 16) ↔ ¬ fits := by
    unfold fits
    omega
  rw [hpin, hunpin]
  refine ⟨fun hcur => ?_, fun hcur hno => ?_, fun hcur hgr htier => ?_, fun hcur hgr htier => ⟨?_, fun hperm => ?_, fun hperm hfit => ?_, fun hperm hfit => ?_⟩⟩
  · simp [hcur]
  · simp [hcur, mt hright.mp hno]
  · simp [hcur, hright.mpr hgr, htier]
  · simp [hcur, hright.mpr hgr, htier]
    rfl
  · have hlack : ((x.perm &&& 1) == 1) = false := beq_eq_false_iff_ne.mpr hperm
    rw [if_neg (by simp [hcur]), if_neg (by simp [hright.mpr hgr]), if_pos (by rw [hlack, Bool.and_false]; rfl)]
  · rw [if_neg (by simp [hcur]), if_neg (by simp [hright.mpr hgr]), if_neg (by simp [hcur, hperm, htier]), if_neg (mt hrange.mp (not_not_intro hfit))]
    rfl
  · rw [if_neg (by simp [hcur]), if_neg (by simp [hright.mpr hgr]), if_neg (by simp [hcur, hperm, htier]), if_pos (hrange.mpr hfit)]

theorem setRtn_eq (s : State) (die k n : Nat) (r : Rtn) : ∃ l2, s.setRtn die k n r = { s.updDom die k (fun d => { d with rtn := Fm.set d.rtn n r }) with
    l2 := l2 } := by
  unfold State.setRtn
  dsimp only
  split <;> exact ⟨_, rfl⟩

/-- A retention register takes its value, and the others keep theirs. -/
theorem setRtn_spec (s : State) (die k n : Nat) (r : Rtn) :
    let t := s.setRtn die k n r
    Fm.get {} (t.dom die k).rtn n = r ∧
      (∀ m, m ≠ n → Fm.get {} (t.dom die k).rtn m = Fm.get {} (s.dom die k).rtn m) ∧ t = { s with doms := t.doms, l2 := t.l2 } := by
  intro t
  obtain ⟨l2, hl2⟩ := setRtn_eq s die k n r
  have hdom : (s.setRtn die k n r).dom die k = { s.dom die k with rtn := Fm.set (s.dom die k).rtn n r } := by
    rw [hl2]
    exact get_set_same (Dom.reset die k) _ s.doms (16 * die + k)
  refine ⟨?_, fun m hm => ?_, ?_⟩
  · rw [hdom]
    exact get_set_same ..
  · rw [hdom]
    exact get_set_other _ _ _ _ _ (Ne.symm hm)
  · unfold t
    rw [hl2]
    rfl

/-- RPIN in force (R189, R342). -/
theorem retentionInForce_new {s : State} {die k n part gen : Nat} {r : Rtn} (harg : s.arg = .rtn die k n (some r) part gen) :
    exec .retentionInForce s = .next (if part ≠ 63 ∧ gen ≠ s.gen part then s
      else if 12 < popcount ((s.dom die k).unionWith n r) 16 then s.updDom die k (fun d => { d with err := true })
      else s.setRtn die k n { r with grant := (Fm.get {} (s.dom die k).rtn n).grant, gv := (Fm.get {} (s.dom die k).rtn n).gv }) := by
  show execRetentionInForce s = _
  unfold execRetentionInForce
  rw [harg, apply_ite Host.Outcome.next, apply_ite Host.Outcome.next]
  rfl

/-- RUNPIN in force (R189, R342). -/
theorem retentionInForce_end {s : State} {die k n part gen : Nat} (harg : s.arg = .rtn die k n none part gen) :
    exec .retentionInForce s = .next (if part ≠ 63 ∧ gen ≠ s.gen part then s
      else s.setRtn die k n { Fm.get {} (s.dom die k).rtn n with v := false }) := by
  show execRetentionInForce s = _
  unfold execRetentionInForce
  rw [harg, apply_ite Host.Outcome.next]
  rfl

theorem retentionComesIntoForce : RetentionComesIntoForce := by
  intro s die k n part gen _ _
  have hgen (hp : Present s part gen) : ¬ (part ≠ 63 ∧ gen ≠ s.gen part) := by rcases hp with h | h <;> simp [h]
  refine ⟨fun r harg hold => ?_, fun r harg hp => ?_, fun harg hp => ?_⟩
  · have hgone : part ≠ 63 ∧ gen ≠ s.gen part := by simpa using hold
    cases r with
    | none => rw [retentionInForce_end harg, if_pos hgone]
    | some r => rw [retentionInForce_new harg, if_pos hgone]
  · rw [retentionInForce_new harg, if_neg (hgen hp)]
    refine ⟨fun hmany => ?_, fun hfew => ?_⟩
    · rw [if_pos hmany]
      exact ⟨_, rfl, dom_updDom_same s die k _, rfl⟩
    · rw [if_neg (Nat.not_lt.mpr hfew)]
      exact ⟨_, rfl, setRtn_spec s die k n _⟩
  · rw [retentionInForce_end harg, if_neg (hgen hp)]
    exact ⟨_, rfl, setRtn_spec s die k n _⟩

/-- Settles O17. -/
theorem cacheControlWords : Obligations.CacheControlWords :=
  ⟨drainCollects, cacheRangeWords, cacheRangesComplete, retentionWords, retentionComesIntoForce⟩

end Sys2Proof.Laws
end

/-! # O35: copies proceed by chunks; reduction results are written (R178, R234, R239, R244, R371, R375, R376) -/

section

namespace Sys2Proof.Laws

open Sys2Proof Sys2Proof.Machine Sys2Proof.Claims

/-! ## Entries of the command queues (R232) -/

/-- `t` is `s` but for its sequencers and the agenda, and every sequencer has the entries that it had. -/
def SameEntries (s t : State) : Prop :=
  t = { s with seqs := t.seqs, agenda := t.agenda } ∧
    ∀ i, (Fm.get {} t.seqs i : Seq).cmds.map (·.id) = (Fm.get {} s.seqs i : Seq).cmds.map (·.id)

theorem sameEntries_refl (s : State) : SameEntries s s := ⟨rfl, fun _ => rfl⟩

theorem sameEntries_trans {s t u : State} (hst : SameEntries s t) (htu : SameEntries t u) : SameEntries s u :=
  ⟨htu.1.trans (congrArg (fun v : State => { v with seqs := u.seqs, agenda := u.agenda }) hst.1), fun i => (htu.2 i).trans (hst.2 i)⟩

theorem sameEntries_push (s : State) (e : Ev) : SameEntries s (s.push e) := ⟨rfl, fun _ => rfl⟩

/-- A sequencer whose update leaves the entries in place. -/
theorem sameEntries_updSeq (s : State) (sid : Nat) {f : Seq → Seq} (hf : ∀ q, (f q).cmds.map (·.id) = q.cmds.map (·.id)) :
    SameEntries s (s.updSeq sid f) := by
  refine ⟨rfl, fun i => ?_⟩
  by_cases hi : sid = i
  · subst hi
    exact (congrArg (fun q : Seq => q.cmds.map (·.id)) (get_set_same ..)).trans (hf _)
  · exact congrArg (fun q : Seq => q.cmds.map (·.id)) (get_set_other _ _ _ _ _ hi)

/-- An entry that changes keeps its identity. -/
theorem map_id_replaced (l : List Cmd) (id : Nat) {f : Cmd → Cmd} (hf : ∀ c, (f c).id = c.id) :
    (l.map fun c => if c.id = id then f c else c).map (·.id) = l.map (·.id) := by
  rw [List.map_map]
  refine List.map_congr_left fun c _ => ?_
  dsimp only [Function.comp]
  split
  · exact hf c
  · rfl

theorem sameEntries_updCmd (s : State) (sid id : Nat) {f : Cmd → Cmd} (hf : ∀ c, (f c).id = c.id) : SameEntries s (s.updCmd sid id f) :=
  sameEntries_updSeq s sid fun q => map_id_replaced q.cmds id hf

theorem map_id_takePlaces (q : Seq) : q.takePlaces.cmds.map (·.id) = q.cmds.map (·.id) := by
  unfold Seq.takePlaces
  refine List.foldlRecOn (motive := fun st : Seq × List Nat => st.1.cmds.map (·.id) = q.cmds.map (·.id)) _ _ rfl fun st hst e _ => ?_
  split
  · exact hst
  · exact (map_id_replaced st.1.cmds e.1 (f := fun c => { c with room := true }) fun _ => rfl).trans hst

theorem sameEntries_startAt (s : State) (c : Cmd) (k : Nat) : SameEntries s (s.startAt c k) := by
  have hset : SameEntries s (s.updCmd c.sid c.id (fun c => { c with start := some k })) := sameEntries_updCmd s c.sid c.id fun _ => rfl
  unfold State.startAt
  dsimp only
  split
  · split <;> exact sameEntries_trans hset (sameEntries_push ..)
  · exact sameEntries_trans hset (sameEntries_push ..)
  · exact sameEntries_trans hset (sameEntries_push ..)

/-- What the end of an entry sets going leaves all entries in their queues (R232). -/
theorem sameEntries_kick (s : State) (sid : Nat) : SameEntries s (s.kick sid) := by
  unfold State.kick
  refine List.foldlRecOn (motive := SameEntries s) _ _ (sameEntries_updSeq s sid map_id_takePlaces) fun t ht c _ => ?_
  split
  · exact ht
  · split
    · split
      · exact sameEntries_trans ht (sameEntries_trans (sameEntries_updCmd t sid c.id (f := fun c => { c with start := some t.now }) fun _ => rfl)
          (sameEntries_push ..))
      · exact ht
    · split
      · exact sameEntries_trans ht (sameEntries_startAt ..)
      · exact ht

/-- The state without entry `id`, as saved frames will know it too. -/
def entryGone (s : State) (sid id : Nat) : State :=
  { s.updSeq sid (fun q => { q with cmds := q.cmds.filter (fun c => c.id != id) }) with
    saved := s.saved.map (fun x => if x.sid = sid then { x with doneCmds := id :: x.doneCmds } else x) }

theorem entryDone_eq (s : State) (sid id : Nat) : s.entryDone sid id = (entryGone s sid id).kick sid := rfl

/-- An entry that is done leaves its queue (R232). -/
theorem entryDone_spec (s : State) (sid id : Nat) :
    let t := s.entryDone sid id
    (∀ x ∈ (Fm.get {} t.seqs sid).cmds, x.id ≠ id) ∧ t = { s with seqs := t.seqs, saved := t.saved, agenda := t.agenda } := by
  intro t
  obtain ⟨honly, hids⟩ := sameEntries_kick (entryGone s sid id) sid
  have hgone : (Fm.get {} (entryGone s sid id).seqs sid).cmds = (s.seq sid).cmds.filter (fun c => c.id != id) :=
    congrArg Seq.cmds (get_set_same ..)
  refine ⟨fun x hx hid => ?_, ?_⟩
  · have hmem := (hids sid) ▸ List.mem_map.mpr ⟨x, hx, rfl⟩
    rw [hgone] at hmem
    obtain ⟨y, hy, hyx⟩ := List.mem_map.mp hmem
    have hne := (List.mem_filter.mp hy).2
    rw [hyx, hid] at hne
    simp at hne
  · have hsaved : t.saved = (entryGone s sid id).saved := (congrArg State.saved honly).trans rfl
    rw [hsaved]
    exact honly

/-! ## What a step of a copy finds (R234) -/

theorem ss_ops (c : Cmd) : c.ops.ss = (c.copyM % 2 == 1) := by
  show bit c.copyM 0 = _
  rw [bit, Nat.pow_zero, Nat.div_one]

theorem sd_ops (c : Cmd) : c.ops.sd = (c.copyM / 2 % 2 == 1) := by
  show bit c.copyM 1 = _
  rw [bit, Nat.pow_one]

theorem lr_ops (c : Cmd) : c.ops.lr (dieOf c.sid) = firstBytes c := by
  unfold CopyOps.lr firstBytes
  exact if_congr (by rw [ss_ops, beq_iff_eq]) rfl rfl

theorem lw_ops (c : Cmd) : c.ops.lw (dieOf c.sid) = lastBytes c := by
  unfold CopyOps.lw lastBytes
  exact if_congr (by rw [sd_ops, beq_iff_eq]) rfl rfl

theorem by_ops (c : Cmd) (st n : Nat) : c.ops.by (dieOf c.sid) st n = st + firstBytes c + cdiv n 256 + lastBytes c := by
  unfold CopyOps.by
  rw [lr_ops, lw_ops]

theorem ten_le_firstBytes (c : Cmd) : 10 ≤ firstBytes c := by
  unfold firstBytes
  split
  · omega
  · split <;> omega

/-- A lane reaches a page at its own addresses (R234). -/
theorem access_page {c : Cmd} (hdet : c.det = false) (h : Handle) (off len n : Nat) :
    (c.access h off len n).addr = h.base + off ∧ (c.access h off len n).space = .phys := by
  unfold Cmd.access
  rw [hdet]
  exact ⟨rfl, rfl⟩

theorem chunkBytes_block {c : Cmd} (h : copyBytes c = 64) : chunkBytes c 0 = 64 := by
  unfold chunkBytes
  omega

/-- The end of a copy (R234, R260). -/
theorem cpyDone_of_entry {s : State} {c : Cmd} (harg : s.arg = .cmd c.sid c.id) (hc : entryNo s c.sid c.id = some c) (hrun : c.paused = false) :
    let done := c.start.getD 0 + firstBytes c + cdiv (copyBytes c) 256 + lastBytes c
    exec .cpyDone s = if copyBytes c ≠ 0 ∧ s.now < done then .next (scheduled s (event done 1 c.sid .cpyDone (.cmd c.sid c.id)))
      else if copyBytes c ≠ 0 ∧ c.chunk ≤ cdiv (copyBytes c) 65536 - 1 ∧ (s.chunkWaits (fun x => x.id == c.id) ||
          (s.chunkHeld (c.copyM / 2 % 2 == 1) (s.nowAt c.part (c.hs.getD 1 {})) (toOff c (cdiv (copyBytes c) 65536 - 1))).isSome) then
        .next (s.doneAt (s.now + 1) c.sid c.id .cpyDone)
      else .next (s.entryDone c.sid c.id) := by
  intro done
  have hentry : s.cmd c.sid c.id = some c := hc
  show execCpyDone s = _
  unfold execCpyDone
  rw [harg]
  dsimp only
  rw [hentry]
  dsimp only
  rw [hrun, if_neg Bool.false_ne_true, by_ops, sd_ops]
  rfl

theorem copyEnds {s : State} {c : Cmd} (harg : s.arg = .cmd c.sid c.id) (hc : entryNo s c.sid c.id = some c) (hrun : c.paused = false) :
    let done := c.start.getD 0 + firstBytes c + cdiv (copyBytes c) 256 + lastBytes c
    (copyBytes c ≠ 0 → s.now < done → exec .cpyDone s = .next (scheduled s (event done 1 c.sid .cpyDone (.cmd c.sid c.id)))) ∧
    (copyBytes c = 0 ∨ done ≤ s.now → cdiv (copyBytes c) 65536 ≤ c.chunk ∨ (s.chunkWaits (fun x => x.id == c.id) = false ∧
        s.chunkHeld (c.copyM / 2 % 2 == 1) (s.nowAt c.part (c.hs.getD 1 {})) (toOff c (cdiv (copyBytes c) 65536 - 1)) = none) →
      ∃ t, exec .cpyDone s = .next t ∧ (∀ x ∈ (Fm.get {} t.seqs c.sid).cmds, x.id ≠ c.id) ∧
        t = { s with seqs := t.seqs, saved := t.saved, agenda := t.agenda }) := by
  intro done
  have hexec := cpyDone_of_entry harg hc hrun
  rw [hexec]
  refine ⟨fun hsome hearly => if_pos ⟨hsome, hearly⟩, fun hdue hthere => ?_⟩
  rw [if_neg (by omega), if_neg]
  · exact ⟨_, rfl, entryDone_spec s c.sid c.id⟩
  · rintro ⟨hsome, hchunk, hheld⟩
    rcases hthere with hthere | ⟨hwaits, hfree⟩
    · have hone : 0 < cdiv (copyBytes c) 65536 := by
        unfold cdiv
        omega
      omega
    · rw [hwaits, hfree] at hheld
      cases hheld

/-! ## A chunk is read (R234, R244) -/

/-- The sequencers when what held a chunk has put off the rest of its entry by `k` cycles (R371). -/
def slippedSeqs (s : State) (c : Cmd) (k : Nat) : Fm Seq :=
  Fm.set s.seqs c.sid { s.seq c.sid with
    cmds := (s.seq c.sid).cmds.map (fun x => if x.id = c.id then { x with start := x.start.map (· + k) } else x)
    laneFree := (s.seq c.sid).laneFree + k }

theorem slipLane_eq (s : State) (c : Cmd) (k : Nat) : s.slipLane c k = { s with seqs := slippedSeqs s c k } :=
  updSeq_withSeq s c.sid _ _

/-- A chunk that nothing has held puts nothing off. -/
theorem slippedSeqs_zero (s : State) (c : Cmd) (j : Nat) : Fm.get {} (slippedSeqs s c 0) j = Fm.get {} s.seqs j := by
  unfold slippedSeqs
  by_cases hj : c.sid = j
  · subst hj
    have hcmds : (s.seq c.sid).cmds.map (fun x => if x.id = c.id then { x with start := x.start.map (· + 0) } else x) = (s.seq c.sid).cmds := by
      refine (List.map_congr_left fun x _ => ?_).trans (List.map_id _)
      split
      · rw [show (fun k : Nat => k + 0) = id from rfl, Option.map_id]
        rfl
      · rfl
    rw [get_set_same, hcmds]
    rfl
  · exact get_set_other _ _ _ _ _ hj

theorem startOf_of_entry {s : State} {c x : Cmd} {st : Nat} (hx : entryNo s c.sid c.id = some x) (hst : x.start = some st) : s.startOf c = st := by
  unfold State.startOf
  rw [show s.cmd c.sid c.id = some x from hx, Option.bind_some, hst]
  rfl

/-- The cycle in which chunk `n` of a copy has come into the buffer (R234). -/
def fullAt (s : State) (c : Cmd) (n st : Nat) : Nat := max (s.now + 1) (st + firstBytes c + cdiv (min (copyBytes c) (65536 * (n + 1))) 256)

/-- The events that follow the read of a chunk: the read of the next, and its arrival in the buffer. -/
def chunkEvents (s : State) (c : Cmd) (n st : Nat) (l : Loaded) : List Ev :=
  (if 65536 * (n + 1) < copyBytes c then [event (s.now + 256) 4 (engineKey c.sid c.issue) .cpyDone (.chunk c (n + 1))] else []) ++
    [event (fullAt s c n st) 4 (engineKey c.sid c.issue) .cpyDone (.chunkData c n l.data l.tags l.bad false)]

/-- A chunk that is read in its cycle (R234). -/
theorem laneChunk_eq {s u : State} {c x : Cmd} {n st : Nat} {l : Loaded} (hdet : c.det = false) (hx : entryNo s c.sid c.id = some x)
    (hst : x.start = some st) (hrun : s.entryHeld c = false) (hpage : s.pageHeld c = false) (hnow : s.now = st + (firstBytes c - 10) + 256 * n)
    (hfree : s.chunkHeld c.ops.ss (s.opsNow c).hs (fromOff c n) = none)
    (hread : ({ s with seqs := slippedSeqs s c 0 } : State).readChunk c n = (l, u)) (hseqs : u.seqs = slippedSeqs s c 0) (hclock : u.now = s.now) :
    s.laneChunk c n = { u with agenda := u.agenda ++ chunkEvents s c n st l } := by
  have hentry : s.cmd c.sid c.id = some x := hx
  have hstart : u.startOf c = st := by
    refine startOf_of_entry (x := x) ?_ hst
    unfold entryNo
    rw [hseqs, slippedSeqs_zero]
    exact hx
  have hten := ten_le_firstBytes c
  unfold State.laneChunk
  dsimp only
  rw [hentry, hrun, hpage]
  rw [show (s.opsNow c).ss = c.ops.ss from rfl, show (s.opsNow c).src + 65536 * n = fromOff c n from rfl, hfree]
  dsimp only
  rw [Option.isNone_some, if_neg Bool.false_ne_true, if_neg Bool.false_ne_true, if_neg Bool.false_ne_true, startOf_of_entry hx hst, lr_ops,
    show s.now - (st + firstBytes c - 10 + 256 * n) = 0 by omega, slipLane_eq, hread]
  dsimp only
  rw [hstart, by_ops, lw_ops, hclock, Nat.add_sub_cancel]
  rw [show max (s.now + 1) (st + firstBytes c - 10 + 256 * (n + 1)) = s.now + 256 by omega]
  unfold chunkEvents fullAt State.chunkAt State.push
  rw [hdet, show c.ops.len = copyBytes c from rfl, ← hclock]
  by_cases hmore : 65536 * (n + 1) < copyBytes c
  · rw [if_pos hmore, if_pos hmore, ← List.append_assoc]
    rfl
  · rw [if_neg hmore, if_neg hmore]
    rfl

/-- A chunk read from the scratchpad (R234, R244). -/
theorem readChunk_spad {s : State} {c : Cmd} {n : Nat} (hm : c.copyM % 2 = 1) (hgood : s.spadBad (spadOf c.sid) (fromOff c n) (chunkBytes c n) = []) :
    s.readChunk c n = ({
      data := Memory.read s.spad (spadOf c.sid * 4194304 + fromOff c n % 4194304) (chunkBytes c n)
      tags := (List.range (chunkBytes c n / 64)).map fun i => s.spadTag (spadOf c.sid) (fromOff c n + 64 * i) }, s) := by
  have hss : c.ops.ss = true := by
    rw [ss_ops, hm]
    rfl
  obtain ⟨hdata, hbad⟩ := spadRead_of_good hgood
  unfold State.readChunk
  dsimp only
  rw [show (s.opsNow c).ss = c.ops.ss from rfl, hss, if_pos rfl, show (s.opsNow c).src + 65536 * n = fromOff c n from rfl,
    show (s.opsNow c).chunkLen n = chunkBytes c n from rfl, hdata, hbad]
  rfl

/-- A whole block is one block of its range. -/
theorem blockNum_whole {a : Nat} (h : a % 64 = 0) : blockNum a 64 = 1 := by
  unfold blockNum
  rw [if_neg (by decide)]
  omega

theorem blockAt_whole {a : Nat} (h : a % 64 = 0) : blockAt a 64 0 = (a, a, 64) := by
  unfold blockAt
  rw [show (a / 64 + 0) * 64 = a by omega]
  simp only [Nat.max_self, Nat.min_self, Nat.add_sub_cancel_left]

theorem bits_toNat {n : Nat} (x : BitVec n) : bits x.toNat 0 n = x.toNat := by
  rw [bits, Nat.pow_zero, Nat.div_one]
  exact Nat.mod_eq_of_lt x.isLt

/-- A load of one whole block that is good (R245). -/
theorem loadBlocks_whole {s : State} {a : Access} (hrdc : a.rdc = false) (haligned : a.addr % 64 = 0) (hlen : a.len = 64)
    (hgood : (s.peekBlock a.addr a.key).bad = false) :
    ∃ l, s.loadBlocks a = (l, (s.readBlock a.addr a.key a.alloc a.cls (s.now + 10)).2) ∧ l.bad = none ∧
      l.data = (s.peekBlock a.addr a.key).data.toNat ∧ l.tags = [(s.peekBlock a.addr a.key).tag] := by
  have hread := readBlock_result s a.addr a.key a.alloc a.cls (s.now + 10)
  have hbits (x : BlockBits) : bits x.toNat 0 (8 * 64) = x.toNat := bits_toNat (n := 8 * 64) x
  unfold State.loadBlocks blocksOf
  rw [hlen, blockNum_whole haligned, List.range_one, List.map_cons, List.map_nil, List.foldl_cons, List.foldl_nil, blockAt_whole haligned]
  unfold State.loadBlock
  dsimp only
  rw [hrdc, if_neg Bool.false_ne_true, hread]
  dsimp only
  rw [hgood, Nat.sub_self, Nat.mul_zero, hbits]
  exact ⟨_, rfl, rfl, by simp, rfl⟩

/-- Where a page lies now does not depend on the sequencers. -/
theorem nowAt_seqs (s : State) (q : Fm Seq) (part : Nat) (h : Handle) : ({ s with seqs := q } : State).nowAt part h = s.nowAt part h := rfl

theorem peekBlock_seqs (s : State) (q : Fm Seq) (pa key : Nat) : ({ s with seqs := q } : State).peekBlock pa key = s.peekBlock pa key := rfl

theorem reachable_seqs {s : State} {c : Cmd} {h : Handle} {off : Nat} (hr : Reachable s c h off) (q : Fm Seq) :
    Reachable { s with seqs := q } c h off := hr

/-- A chunk read from HBM4E: one block (R234, R244). -/
theorem readChunk_block {s : State} {c : Cmd} {h : Handle} (hdet : c.det = false) (hm : c.copyM % 2 = 0) (hlen : copyBytes c = 64)
    (hh : s.nowAt c.part (c.hs.getD 0 {}) = h) (hr : Reachable s c h (fromOff c 0))
    (hgood : (s.peekBlock (h.base + fromOff c 0) h.key).bad = false) :
    ∃ l u, s.readChunk c 0 = (l, u) ∧ SliceOnly s u ∧ l.bad = none ∧ l.data = (s.peekBlock (h.base + fromOff c 0) h.key).data.toNat ∧
      l.tags = [(s.peekBlock (h.base + fromOff c 0) h.key).tag] := by
  obtain ⟨haligned, hregion, hhost, hfree, hopen, hkey, hplain⟩ := hr
  have hss : c.ops.ss = false := by
    rw [ss_ops, hm]
    rfl
  have hbytes := chunkBytes_block hlen
  unfold State.readChunk
  dsimp only
  rw [show (s.opsNow c).ss = c.ops.ss from rfl, hss, if_neg Bool.false_ne_true, show (s.opsNow c).src + 65536 * 0 = fromOff c 0 from rfl,
    show (s.opsNow c).chunkLen 0 = chunkBytes c 0 from rfl, hbytes, show (s.opsNow c).hs = h from hh]
  obtain ⟨haddr, -⟩ := access_page hdet h (fromOff c 0) 64 0
  obtain ⟨l, hload, hbad, hdata, htags⟩ := loadBlocks_whole (s := s) (a := c.access h (fromOff c 0) 64 0) rfl (by rw [haddr]; exact haligned) rfl
    (by rw [haddr]; exact hgood)
  rw [haddr] at hload hdata htags
  rw [hopen, if_neg Bool.false_ne_true, hload]
  refine ⟨_, _, rfl, sliceOnly_readBlock .., hbad, ?_, ?_⟩
  · dsimp only
    rw [hbad]
    exact hdata
  · dsimp only
    unfold sideTags
    rw [hhost, Bool.and_false, if_neg Bool.false_ne_true]
    exact htags

/-- The reads of a chunk (R234, R244). -/
theorem chunksAreRead {s : State} {c x : Cmd} {n st : Nat} (harg : s.arg = .chunk c n) (hdet : c.det = false) (hx : entryNo s c.sid c.id = some x)
    (hst : x.start = some st) (hrun : s.entryHeld c = false) (hpage : s.pageHeld c = false) (hnow : s.now = st + (firstBytes c - 10) + 256 * n) :
    (c.copyM % 2 = 1 → s.spadBad (spadOf c.sid) (fromOff c n) (chunkBytes c n) = [] →
      ∃ t, exec .cpyDone s = .next t ∧ t = { s with seqs := t.seqs, agenda := t.agenda } ∧ (∀ j, Fm.get {} t.seqs j = Fm.get {} s.seqs j) ∧
        t.agenda = s.agenda ++ chunkEvents s c n st {
          data := Memory.read s.spad (spadOf c.sid * 4194304 + fromOff c n % 4194304) (chunkBytes c n)
          tags := (List.range (chunkBytes c n / 64)).map fun i => s.spadTag (spadOf c.sid) (fromOff c n + 64 * i) }) ∧
    (let h := s.nowAt c.part (c.hs.getD 0 {})
     let b := s.peekBlock (h.base + fromOff c 0) h.key
     c.copyM % 2 = 0 → n = 0 → copyBytes c = 64 → Reachable s c h (fromOff c 0) → b.bad = false →
      ∃ t, exec .cpyDone s = .next t ∧ t.spad = s.spad ∧ (∀ j, Fm.get {} t.seqs j = Fm.get {} s.seqs j) ∧
        event (fullAt s c n st) 4 (engineKey c.sid c.issue) .cpyDone (.chunkData c 0 b.data.toNat [b.tag] none false) ∈ t.agenda) := by
  have hexec : exec .cpyDone s = .next (s.laneChunk c n) := by
    show execCpyDone s = _
    unfold execCpyDone
    rw [harg]
  rw [hexec]
  refine ⟨fun hm hgood => ?_, ?_⟩
  · have hss : c.ops.ss = true := by
      rw [ss_ops, hm]
      rfl
    rw [laneChunk_eq (u := { s with seqs := slippedSeqs s c 0 }) hdet hx hst hrun hpage hnow (by rw [hss]; rfl) (readChunk_spad hm hgood) rfl rfl]
    exact ⟨_, rfl, rfl, slippedSeqs_zero s c, rfl⟩
  · intro h b hm hn hlen hr hgood
    subst hn
    have hss : c.ops.ss = false := by
      rw [ss_ops, hm]
      rfl
    have hfree : s.chunkHeld c.ops.ss (s.opsNow c).hs (fromOff c 0) = none := by
      obtain ⟨-, -, -, hserved, -⟩ := hr
      rw [hss]
      exact hserved
    obtain ⟨l, u, hread, hslice, hbad, hdata, htags⟩ := readChunk_block hdet hm hlen (nowAt_seqs s (slippedSeqs s c 0) _ _) (reachable_seqs hr _)
      (by rw [peekBlock_seqs]; exact hgood)
    rw [peekBlock_seqs] at hdata htags
    obtain ⟨⟨hclock, -⟩, hseqs, hspad, -⟩ := sliceOnly_keeps hslice
    rw [laneChunk_eq hdet hx hst hrun hpage hnow hfree hread hseqs hclock]
    refine ⟨_, rfl, hspad, fun j => ?_, ?_⟩
    · show Fm.get {} u.seqs j = _
      rw [hseqs]
      exact slippedSeqs_zero s c j
    · refine List.mem_append_right _ (List.mem_append_right _ (List.mem_singleton.mpr ?_))
      rw [hdata, htags, hbad]

/-- A chunk leaves the buffer, to be written Lw later (R234). -/
theorem chunkLeaves {s : State} {c : Cmd} {n data : Nat} {tags : List Nat} {bad : Option Nat} (harg : s.arg = .chunkData c n data tags bad false)
    (hdet : c.det = false) (hnew : s.stale c = false) (hentry : (entryNo s c.sid c.id).isSome = true) (hrun : s.entryHeld c = false) :
    exec .cpyDone s = .next (scheduled s (event (s.now + lastBytes c) 4 (engineKey c.sid c.issue) .cpyDone (.chunkData c n data tags bad true))) := by
  have hthere : ¬ (s.cmd c.sid c.id).isNone = true := by
    rw [Option.isNone_iff_eq_none]
    exact Option.isSome_iff_ne_none.mp hentry
  show execCpyDone s = _
  unfold execCpyDone
  rw [harg]
  dsimp only
  unfold State.laneData State.chunkAt
  rw [hnew, if_neg Bool.false_ne_true, Bool.not_false, if_pos rfl, if_neg hthere, hrun, if_neg Bool.false_ne_true, lw_ops, hdet]
  rfl

/-! ## A chunk is written (R234, R244, R268) -/

theorem get_del_same {α : Type} (d : α) (m : Fm α) (i : Nat) : Fm.get d (Fm.del m i) i = d := by
  induction m with
  | nil => rfl
  | cons e m ih =>
    unfold Fm.del at ih ⊢
    rw [List.filter_cons]
    by_cases he : e.1 = i
    · rw [if_neg (by simpa using he)]
      exact ih
    · rw [if_pos (by simpa using he), Fm.get, if_neg he]
      exact ih

theorem get_setTag_same (m : Fm Nat) (i t : Nat) : Fm.get 0x7F00 (setTag m i t) i = t := by
  unfold setTag
  split
  · next h => exact (get_del_same ..).trans h.symm
  · exact get_set_same ..

/-- A store of one whole block of a scratchpad (R67, R268). -/
theorem spadWrite_whole (s : State) {c a : Nat} (x tag : Nat) (haligned : spadAddr c a % 64 = 0) : s.spadWrite c a 64 x tag = { s with
    spad := Memory.write s.spad (spadAddr c a) 64 x, stag := setTag s.stag (spadAddr c a / 64) tag
    sbad := s.sbad.filter (· != spadAddr c a / 64) } := by
  unfold State.spadWrite blocksOf
  dsimp only
  rw [blockNum_whole haligned, List.range_one, List.map_cons, List.map_nil, List.foldl_cons, List.foldl_nil, blockAt_whole haligned]
  rfl

theorem spadTag_spadWrite_same (s : State) {c a : Nat} (x tag : Nat) (haligned : spadAddr c a % 64 = 0) :
    (s.spadWrite c a 64 x tag).spadTag c a = tag := by
  rw [spadWrite_whole s x tag haligned]
  unfold State.spadTag
  dsimp only
  rw [if_neg (by simp), get_setTag_same]

theorem spadTag_spadWrite_other (s : State) {c a b : Nat} (x tag : Nat) (haligned : spadAddr c a % 64 = 0)
    (hne : spadAddr c a / 64 ≠ spadAddr c b / 64) : (s.spadWrite c a 64 x tag).spadTag c b = s.spadTag c b := by
  have hbad : (s.sbad.filter (· != spadAddr c a / 64)).contains (spadAddr c b / 64) = s.sbad.contains (spadAddr c b / 64) := by
    rw [Bool.eq_iff_iff, List.contains_iff_mem, List.contains_iff_mem, List.mem_filter]
    exact and_iff_left (by simpa using Ne.symm hne)
  rw [spadWrite_whole s x tag haligned]
  unfold State.spadTag
  dsimp only
  rw [hbad, get_setTag_other _ _ hne]

/-- The tags of the first `n` blocks of a store of whole blocks to a scratchpad (R67). -/
theorem spadTag_storedTo {s : State} {a : Access} {c : Nat} {l : List Nat} (hspace : a.space = .spad c) (htags : a.tags = some l)
    (haligned : a.addr % 64 = 0) (hwhole : a.len % 64 = 0) (hfit : a.addr + a.len ≤ 4194304) {n : Nat} (hn : 64 * n ≤ a.len) {k : Nat} (hk : k < n) :
    (storedTo s a n).spadTag c (a.addr + 64 * k) = l.getD k 0x7F00 := by
  induction n with
  | zero => omega
  | succ n ih =>
    have hblock : blockAt a.addr a.len n = (a.addr + 64 * n, a.addr + 64 * n, 64) := by
      unfold blockAt
      dsimp only
      rw [show (a.addr / 64 + n) * 64 = a.addr + 64 * n by omega, show max a.addr (a.addr + 64 * n) = a.addr + 64 * n by omega,
        show min (a.addr + a.len) (a.addr + 64 * n + 64) - (a.addr + 64 * n) = 64 by omega]
    have hplace (i : Nat) (hi : i ≤ n) : spadAddr c (a.addr + 64 * i) = c * 4194304 + (a.addr + 64 * i) := spadAddr_of_lt (by omega)
    have hstore : (storedTo s a n).storeBlock a n = (storedTo s a n).spadWrite c (a.addr + 64 * n) 64
        (bits a.data (8 * (a.addr + 64 * n - a.addr)) (8 * 64)) (l.getD n 0x7F00) := by
      unfold State.storeBlock
      rw [hspace, htags, hblock]
    have hstart : spadAddr c (a.addr + 64 * n) % 64 = 0 := by
      rw [hplace n le_rfl]
      omega
    rw [storedTo_succ, hstore]
    by_cases hlast : k = n
    · subst hlast
      exact spadTag_spadWrite_same _ _ _ hstart
    · rw [spadTag_spadWrite_other _ _ _ hstart (by rw [hplace n le_rfl, hplace k (by omega)]; omega)]
      exact ih (by omega) (by omega)

/-- A store of whole blocks to a scratchpad replaces the bytes and tags of its place and no others (R67, R268). -/
theorem storedTo_whole {s : State} {a : Access} {c : Nat} {l : List Nat} (hspace : a.space = .spad c) (htags : a.tags = some l)
    (haligned : a.addr % 64 = 0) (hwhole : a.len % 64 = 0) (hfit : a.addr + a.len ≤ 4194304) :
    let u := storedTo s a (blockNum a.addr a.len)
    let w := c * 4194304 + a.addr
    SpadOnly s u ∧ (∀ i, i < a.len → (Memory.byte u.spad (w + i)).toNat = a.data / 2 ^ (8 * i) % 256) ∧
      (∀ b, b < w ∨ w + a.len ≤ b → Memory.byte u.spad b = Memory.byte s.spad b) ∧
      ∀ k, 64 * k < a.len → u.spadTag c (a.addr + 64 * k) = l.getD k 0x7F00 := by
  intro u w
  have hbytes := byte_storedTo (s := s) hspace hfit (rfl : c * 4194304 + a.addr = w) le_rfl
  rw [reached_blockNum] at hbytes
  have hblocks : 64 * blockNum a.addr a.len = a.len := by
    unfold blockNum
    split <;> omega
  refine ⟨spadOnly_storedTo hspace _, fun i hi => ?_, fun b hb => ?_, fun k hk => ?_⟩
  · rw [hbytes, if_pos (by omega), Nat.add_sub_cancel_left]
    rfl
  · rw [hbytes, if_neg (by omega)]
  · exact spadTag_storedTo hspace htags haligned hwhole hfit (by omega) (by omega)

/-- A chunk of a copy as it is written to the scratchpad. -/
def chunkStore (c : Cmd) (n data : Nat) (tags : List Nat) : Access :=
  { c.spadAccess (toOff c n) (chunkBytes c n) n with op := .write, data := data, tags := some tags }

theorem addr_chunkStore {c : Cmd} (hdet : c.det = false) (n data : Nat) (tags : List Nat) : (chunkStore c n data tags).addr = toOff c n := by
  show 0 + toOff c n - (if (c.det && hostPage {}) = true then 2 ^ 48 else 0) = toOff c n
  rw [hdet, Bool.false_and, if_neg Bool.false_ne_true, Nat.zero_add, Nat.sub_zero]

theorem writeChunk_spad (s : State) {c : Cmd} (hm : c.copyM / 2 % 2 = 1) (n data : Nat) (tags : List Nat) :
    s.writeChunk c n data tags = storedTo s (chunkStore c n data tags) (blockNum (chunkStore c n data tags).addr (chunkStore c n data tags).len) := by
  have hsd : c.ops.sd = true := by
    rw [sd_ops, hm]
    rfl
  unfold State.writeChunk
  dsimp only
  rw [show (s.opsNow c).sd = c.ops.sd from rfl, hsd, if_pos rfl]
  rfl

/-- The sequencers when chunk `n` of a copy has been written. -/
def chunkSeqs (s : State) (c : Cmd) (n k : Nat) : Fm Seq :=
  Fm.set (slippedSeqs s c k) c.sid { (Fm.get {} (slippedSeqs s c k) c.sid : Seq) with
    cmds := (Fm.get {} (slippedSeqs s c k) c.sid : Seq).cmds.map (fun x => if x.id = c.id then { x with chunk := max x.chunk (n + 1) } else x) }

theorem chunkSeqs_spec (s : State) (c : Cmd) (n k : Nat) :
    (∀ y ∈ (Fm.get {} (chunkSeqs s c n k) c.sid : Seq).cmds, y.id = c.id → n < y.chunk) ∧
      ∀ j, j ≠ c.sid → Fm.get {} (chunkSeqs s c n k) j = Fm.get {} s.seqs j := by
  unfold chunkSeqs
  refine ⟨fun y hy hid => ?_, fun j hj => ?_⟩
  · rw [get_set_same] at hy
    obtain ⟨x, -, rfl⟩ := List.mem_map.mp hy
    by_cases hx : x.id = c.id
    · rw [if_pos hx]
      exact Nat.lt_of_succ_le (le_max_right _ _)
    · rw [if_neg hx] at hid
      exact absurd hid hx
  · exact (get_set_other _ _ _ _ _ (Ne.symm hj)).trans (get_set_other _ _ _ _ _ (Ne.symm hj))

/-- A chunk that is written (R234). -/
theorem chunkWritten {s : State} {c : Cmd} {n data : Nat} {tags : List Nat} (harg : s.arg = .chunkData c n data tags none true)
    (hnew : s.stale c = false) (hfree : s.chunkHeld c.ops.sd (s.opsNow c).hd (toOff c n) = none) :
    ∃ k, ∀ u, ({ s with seqs := slippedSeqs s c k } : State).writeChunk c n data tags = u → u.seqs = slippedSeqs s c k →
      exec .cpyDone s = .next { u with seqs := chunkSeqs s c n k } := by
  refine ⟨s.now - c.ops.by (dieOf c.sid) (s.startOf c) (min c.ops.len (65536 * (n + 1))), fun u hu hseqs => ?_⟩
  show execCpyDone s = _
  unfold execCpyDone
  rw [harg]
  dsimp only
  unfold State.laneData
  rw [hnew, if_neg Bool.false_ne_true, Bool.not_true, if_neg Bool.false_ne_true]
  dsimp only
  rw [show c.ops.dst + 65536 * n = toOff c n from rfl, hfree]
  dsimp only
  rw [slipLane_eq, hu]
  unfold State.chunkBad State.updCmd State.updSeq State.setSeq State.seq chunkSeqs
  rw [hseqs]

/-- A chunk that is written to the scratchpad replaces the bytes and tags of its place and no others (R234, R244). -/
theorem chunkWritten_spad {s : State} {c : Cmd} {n data : Nat} {tags : List Nat} (harg : s.arg = .chunkData c n data tags none true)
    (hdet : c.det = false) (hnew : s.stale c = false) (hm : c.copyM / 2 % 2 = 1) (haligned : toOff c n % 64 = 0) (hwhole : copyBytes c % 64 = 0)
    (hfit : toOff c n + chunkBytes c n ≤ 4194304) :
    let a := spadOf c.sid * 4194304 + toOff c n
    ∃ t, exec .cpyDone s = .next t ∧ t = { s with spad := t.spad, stag := t.stag, sbad := t.sbad, seqs := t.seqs } ∧
      (∀ i, i < chunkBytes c n → (Memory.byte t.spad (a + i)).toNat = data / 2 ^ (8 * i) % 256) ∧
      (∀ b, b < a ∨ a + chunkBytes c n ≤ b → Memory.byte t.spad b = Memory.byte s.spad b) ∧
      (∀ k, 64 * k < chunkBytes c n → t.spadTag (spadOf c.sid) (toOff c n + 64 * k) = tags.getD k 0x7F00) ∧
      (∀ y ∈ (Fm.get {} t.seqs c.sid).cmds, y.id = c.id → n < y.chunk) ∧ ∀ j, j ≠ c.sid → Fm.get {} t.seqs j = Fm.get {} s.seqs j := by
  intro a
  have hsd : c.ops.sd = true := by
    rw [sd_ops, hm]
    rfl
  have hlen : chunkBytes c n % 64 = 0 := by
    unfold chunkBytes
    omega
  obtain ⟨k, hwritten⟩ := chunkWritten harg hnew (by rw [hsd]; rfl)
  have haddr := addr_chunkStore hdet n data tags
  have hwrite := writeChunk_spad { s with seqs := slippedSeqs s c k } hm n data tags
  obtain ⟨honly, hin, hout, htags⟩ := storedTo_whole (s := { s with seqs := slippedSeqs s c k }) (a := chunkStore c n data tags) rfl rfl
    (by rw [haddr]; exact haligned) hlen (by rw [haddr]; exact hfit)
  rw [haddr] at hin hout htags hwrite honly
  generalize storedTo _ _ _ = u at hwrite honly hin hout htags
  obtain ⟨hdone, hothers⟩ := chunkSeqs_spec s c n k
  exact ⟨_, hwritten u hwrite (seqs_spadOnly honly), congrArg (fun v : State => { v with seqs := chunkSeqs s c n k }) honly,
    hin, hout, htags, hdone, hothers⟩

/-! ## A whole block written to HBM4E (R278, R279) -/

theorem byteMask_whole : byteMask 64 (2 ^ 64 - 1) = 2 ^ 512 - 1 := by
  refine Nat.eq_of_testBit_eq fun i => ?_
  rw [Nat.testBit_two_pow_sub_one]
  by_cases hi : i < 512
  · have hbyte := testBit_byteMask (2 ^ 64 - 1) (i := i / 8) (j := i % 8) (by omega) (Nat.mod_lt _ (by decide))
    rw [Nat.div_add_mod, Nat.testBit_two_pow_sub_one] at hbyte
    rw [hbyte, decide_eq_true hi, decide_eq_true (by omega)]
  · rw [Nat.testBit_lt_two_pow ((byteMask_lt _).trans_le (Nat.pow_le_pow_right (by decide) (Nat.le_of_not_lt hi))), decide_eq_false hi]

/-- A whole block replaces all that was there. -/
theorem mergedData_whole (old : BlockBits) (data : Nat) : mergedData old data (2 ^ 64 - 1) = BitVec.ofNat 512 data := by
  unfold mergedData
  rw [byteMask_whole, Nat.sub_self, Nat.and_zero, Nat.zero_or, Nat.and_two_pow_sub_one_eq_mod]
  exact BitVec.eq_of_toNat_eq (by rw [BitVec.toNat_ofNat, BitVec.toNat_ofNat, Nat.mod_mod])

/-- An entry of the write buffer stands behind all that was there (R279). -/
theorem wbuf_buffer (s : State) (p : Place) (e : WbEntry) : ∃ l, Fm.get [] (s.buffer p e).wbuf (sliceKey p) = l ++ [e] := by
  unfold State.buffer
  dsimp only
  split <;> exact ⟨_, get_set_same ..⟩

/-- An entry of the write buffer that covers its block replaces all that was there. -/
theorem mergeEntry_whole (b : Block) (loc pa key data tag : Nat) (ctag : BitVec 4) :
    let m := mergeEntry b { loc := loc, data := BitVec.ofNat 512 data, mask := BitVec.ofNat 64 (2 ^ 64 - 1), tag := tag, ctag := ctag, key := key,
                            bad := false, pa := pa }
    m.bad = false ∧ m.data = BitVec.ofNat 512 data := by
  refine ⟨?_, ?_⟩
  · have hall : BitVec.ofNat 64 (2 ^ 64 - 1) = BitVec.allOnes 64 := by decide
    show (if BitVec.ofNat 64 (2 ^ 64 - 1) = BitVec.allOnes 64 then false else b.bad || false) = false
    rw [if_pos hall]
  · exact (mergedData_whole b.data (BitVec.ofNat 512 data).toNat).trans (by rw [BitVec.ofNat_toNat, BitVec.setWidth_eq])

/-- A block of DRAM that was written whole, as it is read under its key (R299). -/
theorem dramBlock_dramWrite_whole {s : State} {loc pa key : Nat} (data tag : Nat) (ctag : BitVec 4) (hkey : s.keyNum key ≠ 0) :
    let b := (s.dramWrite loc pa key data (2 ^ 64 - 1) tag ctag false).dramBlock loc pa key
    b.bad = false ∧ b.data = BitVec.ofNat 512 data := by
  intro b
  have written : s.dramWrite loc pa key data (2 ^ 64 - 1) tag ctag false = { s with
      mem := Memory.write s.mem loc 64 (((s.dramBlock loc pa key).data.toNat &&& (2 ^ 512 - 1 - byteMask 64 (2 ^ 64 - 1))) |||
        (data &&& byteMask 64 (2 ^ 64 - 1)))
      mtag := setTag s.mtag (loc / 64) tag, ctag := setGranules s.ctag loc (granuleMask (2 ^ 64 - 1)) ctag
      bkey := Fm.set s.bkey (loc / 64) (sealOf (s.keyNum key) pa), bad := s.bad.filter (· != loc / 64) } := by
    unfold State.dramWrite
    dsimp only
    rw [if_neg (not_or.2 ⟨hkey, by decide⟩)]
    rfl
  have hbad : ((s.bad.filter (· != loc / 64)).contains (loc / 64) || s.keyNum key == 0) = false := by
    rw [beq_eq_false_iff_ne.mpr hkey, Bool.or_false]
    simp
  have hb : b = _ := (congrArg (fun t : State => t.dramBlock loc pa key) written).trans (dramBlock_sealed hbad (get_set_same ..))
  rw [hb]
  refine ⟨rfl, ?_⟩
  dsimp only
  rw [read_write_same]
  exact (BitVec.eq_of_toNat_eq (by rw [BitVec.toNat_ofNat, mergedData, BitVec.toNat_ofNat, Nat.mod_mod])).trans
    (mergedData_whole (s.dramBlock loc pa key).data data)

theorem lineOf_congr {s t : State} (h : t.l2 = s.l2) (p : Place) (pa : Nat) : t.lineOf p pa = s.lineOf p pa := by
  unfold State.lineOf State.lines
  rw [h]

section Whole

variable {s : State} {pa key data tag : Nat} {ctag : BitVec 4} {al : Alloc} (hplain : ∀ e ∈ s.syncs, e.1 / 4 ≠ pa / 64) (hkey : s.keyNum key ≠ 0)

include hplain hkey

theorem homeBlock_resident (hregion : ∃ die, regionOf pa = .hbm die) (hcached : (s.place pa).cached = true) {l : Line}
    (hl : s.lineOf (s.place pa) pa = some l) :
    let b := homeBlock (s.writeBlock pa key data (2 ^ 64 - 1) tag ctag al) (s.place pa) pa key
    b.bad = false ∧ b.data = BitVec.ofNat 512 data := by
  intro b
  obtain ⟨d, st, z, written⟩ := writeBlock_resident (data := data) (tag := tag) (ctag := ctag) (al := al) hplain (by decide : 2 ^ 64 - 1 ≠ 0) hkey hregion
    hcached hl
  have place : (storedLine l key data (2 ^ 64 - 1) tag ctag z).pa = pa / 64 := (pa_of_lineOf hl :)
  have line := (lineOf_replaced hl hcached place (congrArg State.l2 written)).1
  have hb : b = _ := homeBlock_of_line line key
  rw [hb]
  exact ⟨Bool.and_false _, mergedData_whole l.data data⟩

theorem homeBlock_missing (hregion : ∃ die, regionOf pa = .hbm die) (hcached : (s.place pa).cached = true) (hl : s.lineOf (s.place pa) pa = none) :
    let b := homeBlock (s.writeBlock pa key data (2 ^ 64 - 1) tag ctag al) (s.place pa) pa key
    b.bad = false ∧ b.data = BitVec.ofNat 512 data := by
  intro b
  have written : s.writeBlock pa key data (2 ^ 64 - 1) tag ctag al =
      (if al = .fill then s else s.count (s.place pa).die (s.place pa).blk 1).buffer (s.place pa)
        { loc := (s.place pa).loc, data := BitVec.ofNat 512 data, mask := BitVec.ofNat 64 (2 ^ 64 - 1), tag := tag, ctag := ctag, key := key,
          bad := false, pa := pa / 64 * 64 } := by
    obtain ⟨die, hdie⟩ := hregion
    unfold State.writeBlock
    dsimp only
    rw [maskSyncs_of_plain hplain, hdie]
    dsimp only
    rw [if_neg (not_or.2 ⟨by decide, hkey⟩), hcached, if_neg (by decide), hl]
  have hl2 : (s.writeBlock pa key data (2 ^ 64 - 1) tag ctag al).l2 = s.l2 := by
    rw [written, l2_buffer]
    split <;> rfl
  obtain ⟨l, hwbuf⟩ := wbuf_buffer (if al = .fill then s else s.count (s.place pa).die (s.place pa).blk 1) (s.place pa)
    { loc := (s.place pa).loc, data := BitVec.ofNat 512 data, mask := BitVec.ofNat 64 (2 ^ 64 - 1), tag := tag, ctag := ctag, key := key,
      bad := false, pa := pa / 64 * 64 }
  rw [← written] at hwbuf
  have hb : b = _ := homeBlock_of_missing ((lineOf_congr hl2 ..).trans hl) key
  rw [hb]
  unfold State.memBlock
  dsimp only
  rw [if_pos hcached, hwbuf, List.foldl_append, List.foldl_cons, List.foldl_nil, if_pos rfl]
  exact mergeEntry_whole ..

theorem homeBlock_uncached (hregion : regionOf pa ≠ .nothing) (hcached : (s.place pa).cached = false) :
    let b := homeBlock (s.writeBlock pa key data (2 ^ 64 - 1) tag ctag al) (s.place pa) pa key
    b.bad = false ∧ b.data = BitVec.ofNat 512 data := by
  intro b
  have written : s.writeBlock pa key data (2 ^ 64 - 1) tag ctag al =
      s.dramWrite (s.place pa).loc pa key data (2 ^ 64 - 1) tag ctag false := by
    unfold State.writeBlock
    dsimp only
    rw [maskSyncs_of_plain hplain, hcached, if_neg (not_or.2 ⟨by decide, hkey⟩)]
    cases hr : regionOf pa with
    | nothing => exact absurd hr hregion
    | _ => rfl
  have hb : b = (s.dramWrite (s.place pa).loc pa key data (2 ^ 64 - 1) tag ctag false).dramBlock (s.place pa).loc pa key := by
    unfold b homeBlock State.lineOf State.memBlock
    rw [hcached, written]
    rfl
  rw [hb]
  exact dramBlock_dramWrite_whole data tag ctag hkey

/-- A block that was written whole reads as it was written, wherever it lies (R278, R279). -/
theorem peekBlock_writeBlock_whole (haligned : pa % 64 = 0) (hregion : regionOf pa ≠ .nothing) :
    ((s.writeBlock pa key data (2 ^ 64 - 1) tag ctag al).peekBlock pa key).data = BitVec.ofNat 512 data := by
  obtain ⟨hbad, hdata⟩ : (homeBlock (s.writeBlock pa key data (2 ^ 64 - 1) tag ctag al) (s.place pa) pa key).bad = false ∧
      (homeBlock (s.writeBlock pa key data (2 ^ 64 - 1) tag ctag al) (s.place pa) pa key).data = BitVec.ofNat 512 data := by
    have hblock : pa / 64 * 64 = pa := by omega
    cases hcached : (s.place pa).cached with
    | false => exact homeBlock_uncached hplain hkey hregion hcached
    | true =>
      have hbm := region_of_cached (s := s) (pa := pa) (by rw [hblock]; exact hcached)
      rw [hblock] at hbm
      cases hl : s.lineOf (s.place pa) pa with
      | some l => exact homeBlock_resident hplain hkey hbm hcached hl
      | none => exact homeBlock_missing hplain hkey hbm hcached hl
  have only := writesOnly_writeBlock s pa key data (2 ^ 64 - 1) tag ctag al
  have place := place_of_sameMaps (sameMaps_writeBlock s pa key data (2 ^ 64 - 1) tag ctag al) pa
  generalize s.writeBlock pa key data (2 ^ 64 - 1) tag ctag al = t at *
  have keyNum : t.keyNum key = s.keyNum key := (congrArg (fun u : State => u.keyNum key) only :)
  have syncs : t.syncs = s.syncs := (congrArg State.syncs only :)
  rw [peekBlock_plain hregion (by rw [keyNum]; exact hkey) (by rw [syncs]; exact hplain) (by rw [place]; exact hbad), place]
  exact hdata

end Whole

/-- A store of one whole block (R184, R278). -/
theorem storeBlocks_whole (s : State) {a : Access} {pa : Nat} (hspace : a.space = .phys) (haddr : a.addr = pa) (haligned : pa % 64 = 0)
    (hlen : a.len = 64) (hdata : a.data < 2 ^ (8 * 64)) :
    ∃ tag ctag, s.storeBlocks a = s.writeBlock pa a.key a.data (2 ^ 64 - 1) tag ctag a.alloc := by
  have hbits : bits a.data 0 (8 * 64) = a.data := by
    rw [bits, Nat.pow_zero, Nat.div_one]
    exact Nat.mod_eq_of_lt hdata
  unfold State.storeBlocks State.storeBlock
  rw [hlen, haddr, blockNum_whole haligned, List.range_one, List.foldl_cons, List.foldl_nil, blockAt_whole haligned, hspace]
  dsimp only
  rw [Nat.sub_self, Nat.mul_zero, Nat.pow_zero, Nat.mul_one, Nat.mul_one, hbits]
  exact ⟨_, _, rfl⟩

/-- A chunk written to HBM4E: one block (R234, R244). -/
theorem writeChunk_block {s : State} {c : Cmd} {h : Handle} {data : Nat} (tags : List Nat) (hdet : c.det = false) (hm : c.copyM / 2 % 2 = 0)
    (hlen : copyBytes c = 64) (hh : s.nowAt c.part (c.hs.getD 1 {}) = h) (hr : Reachable s c h (toOff c 0)) (hdata : data < 2 ^ (8 * 64)) :
    ∃ tag ctag, s.writeChunk c 0 data tags = s.writeBlock (h.base + toOff c 0) h.key data (2 ^ 64 - 1) tag ctag .engine := by
  obtain ⟨haligned, hregion, hhost, hfree, hopen, hkey, hplain⟩ := hr
  have hsd : c.ops.sd = false := by
    rw [sd_ops, hm]
    rfl
  have hbytes := chunkBytes_block hlen
  obtain ⟨haddr, hspace⟩ := access_page hdet h (toOff c 0) 64 0
  obtain ⟨tag, ctag, hstore⟩ := storeBlocks_whole s
    (a := { c.access h (toOff c 0) 64 0 with op := .write, data := data, tags := some (sideTags false h tags) }) hspace
    haddr haligned rfl hdata
  refine ⟨tag, ctag, Eq.trans ?_ hstore⟩
  unfold State.writeChunk
  dsimp only
  rw [show (s.opsNow c).sd = c.ops.sd from rfl, hsd, if_neg Bool.false_ne_true, show (s.opsNow c).dst + 65536 * 0 = toOff c 0 from rfl,
    show (s.opsNow c).chunkLen 0 = chunkBytes c 0 from rfl, hbytes, show (s.opsNow c).hd = h from hh, hopen, if_neg Bool.false_ne_true]

/-- A chunk of one block that is written to HBM4E reads as it was written (R234, R244). -/
theorem chunkWritten_block {s : State} {c : Cmd} {data : Nat} {tags : List Nat} (harg : s.arg = .chunkData c 0 data tags none true)
    (hdet : c.det = false) (hnew : s.stale c = false) :
    let h := s.nowAt c.part (c.hs.getD 1 {})
    c.copyM / 2 % 2 = 0 → copyBytes c = 64 → data < 2 ^ 512 → Reachable s c h (toOff c 0) →
      ∃ t, exec .cpyDone s = .next t ∧ (t.peekBlock (h.base + toOff c 0) h.key).data = BitVec.ofNat 512 data ∧ t.spad = s.spad ∧
        (∀ y ∈ (Fm.get {} t.seqs c.sid).cmds, y.id = c.id → 0 < y.chunk) ∧ ∀ j, j ≠ c.sid → Fm.get {} t.seqs j = Fm.get {} s.seqs j := by
  intro h hm hlen hdata hr
  have hsd : c.ops.sd = false := by
    rw [sd_ops, hm]
    rfl
  have hreach := reachable_seqs hr
  obtain ⟨haligned, hregion, -, hserved, -, hkey, hplain⟩ := hr
  obtain ⟨k, hwritten⟩ := chunkWritten harg hnew (by rw [hsd]; exact hserved)
  obtain ⟨tag, ctag, hwrite⟩ := writeChunk_block tags hdet hm hlen (nowAt_seqs s (slippedSeqs s c k) _ _) (hreach _) hdata
  have hread := peekBlock_writeBlock_whole (s := { s with seqs := slippedSeqs s c k }) (data := data) (tag := tag) (ctag := ctag) (al := .engine)
    (fun e he => hplain e he) hkey haligned hregion
  have honly := writesOnly_writeBlock { s with seqs := slippedSeqs s c k } (h.base + toOff c 0) h.key data (2 ^ 64 - 1) tag ctag .engine
  obtain ⟨hdone, hothers⟩ := chunkSeqs_spec s c 0 k
  refine ⟨_, hwritten _ hwrite (congrArg State.seqs honly), ?_, (congrArg State.spad honly).trans rfl, hdone, hothers⟩
  rw [peekBlock_seqs]
  exact hread

theorem copiesProceed : CopiesProceed := by
  refine ⟨?_, fun s c n data tags bad harg hdet hnew hentry hrun => chunkLeaves harg hdet hnew hentry hrun, ?_,
    fun s c harg hc hrun => copyEnds harg hc hrun⟩
  · intro s c x n st harg hdet hx hst hrun hpage hnow full
    obtain ⟨hspad, hblock⟩ := chunksAreRead harg hdet hx hst hrun hpage hnow
    refine ⟨fun hm hgood => ?_, hblock⟩
    obtain ⟨t, hexec, honly, hseqs, hagenda⟩ := hspad hm hgood
    exact ⟨t, hexec, honly, hseqs, hagenda.trans (List.append_assoc ..).symm⟩
  · intro s c n data tags harg hdet hnew
    refine ⟨fun hm haligned hwhole hfit => chunkWritten_spad harg hdet hnew hm haligned hwhole hfit, ?_⟩
    intro h hm hn hlen hdata hr
    subst hn
    exact chunkWritten_block harg hdet hnew hm hlen hdata hr

/-! ## The results of reductions (R239, R375, R376) -/

theorem byte_ofBytes (l : List Nat) (i : Nat) : ofBytes l / 256 ^ i % 256 = l.getD i 0 % 256 := by
  induction l generalizing i with
  | nil => simp [ofBytes]
  | cons x l ih =>
    cases i with
    | zero =>
      rw [ofBytes, Nat.pow_zero, Nat.div_one, List.getD_cons_zero]
      omega
    | succ i =>
      rw [ofBytes, Nat.pow_succ', ← Nat.div_div_eq_div_mul, List.getD_cons_succ, ← ih i]
      rw [show (x % 256 + 256 * ofBytes l) / 256 = ofBytes l by omega]

/-- A row of bytes that a scratchpad has room for. -/
theorem spadWriteRow_spec (s : State) {c a : Nat} {l : List Nat} (hfit : a + l.length ≤ 4194304) (hsome : 0 < l.length) :
    let t := s.spadWriteRow c a l
    SpadOnly s t ∧ (∀ i, i < l.length → (Memory.byte t.spad (c * 4194304 + a + i)).toNat = l.getD i 0 % 256) ∧
      ∀ b, b < c * 4194304 + a ∨ c * 4194304 + a + l.length ≤ b → Memory.byte t.spad b = Memory.byte s.spad b := by
  intro t
  have ht : t = (s.spadWrite c a l.length (ofBytes l) 0x7F00).spadWrite c 0 0 (ofBytes []) 0x7F00 := by
    unfold t State.spadWriteRow Config.spadBytes
    dsimp only
    rw [Nat.mod_eq_of_lt (by omega : a < 4194304), min_eq_left (by omega : l.length ≤ 4194304 - a), List.take_length, List.drop_length, Nat.sub_self]
  have hbyte (b : Nat) : Memory.byte t.spad b = if c * 4194304 + a ≤ b ∧ b < c * 4194304 + a + l.length then
      BitVec.ofNat 8 (ofBytes l / 256 ^ (b - (c * 4194304 + a))) else Memory.byte s.spad b := by
    rw [ht, spadWrite_byte, if_neg (by omega), spadWrite_byte, spadAddr_of_lt (by omega)]
  refine ⟨by rw [ht]; rfl, fun i hi => ?_, fun b hb => ?_⟩
  · rw [hbyte, if_pos (by omega), Nat.add_sub_cancel_left]
    exact byte_ofBytes l i
  · rw [hbyte, if_neg (by omega)]

/-- The flags of the final rounding on their way to the contributor (R86). -/
theorem collFlags_eq (s : State) (c : Cmd) (flags : Nat) : (if flags = 0 then s else s.collFlags c [.fstat (BitVec.ofNat 5 flags)]) = { s with
    agenda := s.agenda ++ if flags ≠ 0 ∧ (Fm.get {} s.seqs c.sid).task.launch = c.launch then
      [event s.now 4 c.sid .resultLanding (.land c.sid [.fstat (BitVec.ofNat 5 flags)])] else [] } := by
  unfold State.collFlags
  by_cases hflags : flags = 0
  · rw [if_pos hflags, if_neg (fun h => h.1 hflags), List.append_nil]
  · rw [if_neg hflags]
    by_cases hthere : (Fm.get {} s.seqs c.sid : Seq).task.launch = c.launch
    · rw [if_pos (show (s.seq c.sid).task.launch = c.launch from hthere), if_pos ⟨hflags, hthere⟩]
      rfl
    · rw [if_neg (show ¬ (s.seq c.sid).task.launch = c.launch from hthere), if_neg (fun h => hthere h.2), List.append_nil]

theorem resultsAreWritten : ResultsAreWritten := by
  intro s c l round status flags harg hnew a block hfit
  obtain ⟨u, hu⟩ : ∃ u, u = if flags = 0 then s else s.collFlags c [.fstat (BitVec.ofNat 5 flags)] := ⟨_, rfl⟩
  have hexec : exec .collResultWrite s = .next (u.spadWriteRow (spadOf c.sid) (c.gs.getD 1 0) block) := by
    show execCollResultWrite s = _
    unfold execCollResultWrite
    rw [harg, hu]
    dsimp only
    rw [hnew, if_neg Bool.false_ne_true]
  have hsome : 0 < block.length := by
    unfold block
    simp
  obtain ⟨honly, hin, hout⟩ := spadWriteRow_spec u (c := spadOf c.sid) hfit hsome
  rw [collFlags_eq] at hu
  have hspad : u.spad = s.spad := (congrArg State.spad hu).trans rfl
  rw [hspad] at hout
  generalize u.spadWriteRow (spadOf c.sid) (c.gs.getD 1 0) block = t at *
  exact ⟨t, hexec, by rw [honly, hu], (congrArg State.agenda honly).trans (congrArg State.agenda hu), hin, hout⟩

/-- Settles O35. -/
theorem copiesAndResults : Obligations.CopiesAndResults := ⟨copiesProceed, resultsAreWritten⟩

end Sys2Proof.Laws
end
